-- ==== Sys2Proof/Word.lean ====
section
/-! DEFINITION. Word types and their plainest arithmetic. -/

namespace Sys2Proof

/-- A byte of memory (R2). -/
abbrev Byte := BitVec 8

/-- A vector lane or an instruction word. -/
abbrev W32 := BitVec 32

/-- A scalar register, a mask or an address. -/
abbrev W64 := BitVec 64

end Sys2Proof
end

