-- ==== Sys2Proof/Syntax.lean ====
section
/-! DEFINITION. The instructions and steps of the device as syntax: one constructor of `Instr` per row of
spec/opcode_table.json. A word's constructor carries its hint run and stall field (`Run`) and the fields the table
names. A step that no word encodes (a timer, an access at its home, a host command, an event of the environment)
carries what the step is about. -/

namespace Sys2Proof

/-- A HINT word (R62): its KIND and its PAYLOAD. -/
structure Hint where
  kind    : BitVec 3
  payload : BitVec 24
  deriving DecidableEq, Repr

/-- What stands around an instruction word: the hint run in front of it, in address order (R63), and its STL field
(R54). -/
structure Run where
  hints : List Hint
  stl   : BitVec 2
  deriving DecidableEq, Repr

/-- A part of a wave, named by the model's crew number, the wave index and the part index (R36, R270). -/
structure PartRef where
  crew : Nat
  wave : Nat
  part : Nat
  deriving DecidableEq, Repr

/-- Why a unit does not decode: the cause, the step of R72 that failed and the word it failed on (R161). -/
structure Reject where
  cause : Nat
  step  : Nat
  word  : W32
  deriving DecidableEq, Repr

/-- Where an uncorrectable error is found (R354); `engine` where the matrix engine reads the word (R268). -/
inductive EccSite where
  | registers (crew : Nat)
  | scratchpad (crew : Nat) (engine : Bool)
  | matrix (crew : Nat)
  | l1Dirty (crew line : Nat)
  | l1Clean (core line : Nat)
  | icache (core word : Nat)
  | memoryWord (word : Nat)
  | memoryBlock (block : Nat)
  | queue (crew : Nat) (engine : Bool)
  | lantern (cluster index : Nat)
  | ray (id : Nat)
  deriving DecidableEq, Repr

/-- A power cap message (R408). -/
structure CapMessage where
  seq    : BitVec 64
  watts  : BitVec 64
  expiry : BitVec 64
  deriving DecidableEq, Repr

/-- The stage counts of a tagged unit (R415), and how many of the five stages, from FETCH on, it has reached. -/
structure EmberStages where
  fetch   : Nat
  issue   : Nat
  opnd    : Nat
  exec    : Nat
  wb      : Nat
  reached : Nat
  deriving DecidableEq, Repr

/-- What a peer asks of this module's memory (R430, R432): a read names the lease length that it asks for. -/
inductive PeerOp where
  | read (length lease : Nat)
  | write (bytes : List Byte)
  | atomic (fn : Nat) (wide : Bool) (v c : BitVec 64)
  deriving DecidableEq, Repr

/-- An inbound access (R432): the sending peer, the local physical address and the operation. -/
structure PeerAccess where
  peer : Nat
  pa   : Nat
  op   : PeerOp
  deriving DecidableEq, Repr

/-- A peer's answer (R434): data, lease expiry and completion time in the home's TIME, and the home's SOFS. -/
structure PeerAnswer where
  refused : Bool
  bytes   : List Byte
  lease   : Option Nat
  time    : Option Nat
  sofs    : Int
  deriving DecidableEq, Repr

/-- Why an access of a copy fails (R236). -/
inductive CopyFault where
  | translation
  | outsideGrants
  | descriptor
  | slice
  deriving DecidableEq, Repr

/-- A command record (R400): the slot whose queue it came from (0 is the admin queue) and its eight words. -/
structure Cmd where
  slot  : Nat
  words : List W64
  deriving DecidableEq, Repr

/-- The rows of the opcode table. -/
inductive Instr where
  /-- NOP (R119). Does nothing; encoded with D = 1. -/
  | nop (r : Run)
  /-- TRAP (R120). Raises cause 0x09 with XINFO := n. -/
  | trap (r : Run) (n : BitVec 7)
  /-- BRK (R120). Raises cause 0x08 with XINFO := n, or stops the crew when a debugger is attached. -/
  | brk (r : Run) (n : BitVec 7)
  /-- XRET (R121). Ends a trap handler: restores exm from SEXM and resumes the part at XPC. -/
  | xret (r : Run)
  /-- MVFS (R122). Reads a system register, numbered by B or by an IMM24 hint, into a scalar register. -/
  | mvfs (r : Run) (d n : BitVec 7)
  /-- MVTS (R122). Writes a scalar register to a system register, numbered by B or by an IMM24 hint. -/
  | mvts (r : Run) (a n : BitVec 7)
  /-- PTAB (R123). Reads word k of a part-table entry into a scalar register. -/
  | ptab (r : Run) (d a k : BitVec 7)
  /-- WAITCY (R124). Holds the part for s[A][31:0] cycles. -/
  | waitcy (r : Run) (a : BitVec 7)
  /-- TIME (R119). Writes TIME, sampled in the issue cycle, to a scalar register. -/
  | time (r : Run) (d : BitVec 7)
  /-- ICINV (R125). Invalidates instruction-cache lines over a range within a scope and waits until they are dropped. -/
  | icinv (r : Run) (a b : BitVec 7)
  /-- STOP (R120). Raises cause 0x08 with XINFO 0x80, or halts the part and stops the crew under a debugger. -/
  | stop (r : Run)
  /-- VRGET (R126). Copies one lane of a vector register into a scalar register. -/
  | vrget (r : Run) (d a b : BitVec 7)
  /-- VRSET (R126). Writes a scalar into the lanes of a vector register selected by a lane mask. -/
  | vrset (r : Run) (d a b : BitVec 7)
  /-- SFQ (R127). Pops the oldest store-fault record into scratchpad and returns the prior queue count. -/
  | sfq (r : Run) (d a : BitVec 7)
  /-- KILLC (R128). Kills the issuing crew with cause 0x09 and a fault-ring record; never relaunched. -/
  | killc (r : Run) (a : BitVec 7)
  /-- DUMPC (R129). From a handler, halts the crew's other parts and starts writing a dump of the resident crew. -/
  | dumpc (r : Run) (d a b : BitVec 7)
  /-- B (R113). Unconditional PC-relative branch. -/
  | b (r : Run) (o : BitVec 18)
  /-- CALL (R113). Branches and writes the return address to lk. -/
  | call (r : Run) (o : BitVec 18)
  /-- BZ (R113). Branches when a scalar register is zero. -/
  | bz (r : Run) (reg : BitVec 4) (o : BitVec 18)
  /-- BNZ (R113). Branches when a scalar register is not zero. -/
  | bnz (r : Run) (reg : BitVec 4) (o : BitVec 18)
  /-- BNEG (R113). Branches when a scalar register is negative. -/
  | bneg (r : Run) (reg : BitVec 4) (o : BitVec 18)
  /-- BANY (R113). Branches when any active lane has its mask bit set. -/
  | bany (r : Run) (reg : BitVec 4) (o : BitVec 18)
  /-- BALL (R113). Branches when every active lane has its mask bit set. -/
  | ball (r : Run) (reg : BitVec 4) (o : BitVec 18)
  /-- BDIV (R39). Divergent branch: pushes a reconvergence entry and is uniform, splits the part, or masks. -/
  | bdiv (r : Run) (reg : BitVec 4) (o : BitVec 18)
  /-- JOIN (R41). Steps the reconvergence stack, then fuses with present siblings, passes on open marks or waits under a join timer. -/
  | join (r : Run) (j : BitVec 7)
  /-- FUSE (R45). Forces a fuse over aligned groups of the named width. -/
  | fuse (r : Run) (w : BitVec 7)
  /-- SPLITCTL (R114). Sets or clears the part's NOSPLIT. -/
  | splitctl (r : Run) (f : BitVec 7)
  /-- EXIT (R115). Waits for the part's older stores to be accepted, then exits the active lanes. -/
  | exit (r : Run)
  /-- RET (R114). Branches to lk. -/
  | ret (r : Run)
  /-- JR (R114). Branches to the address in a scalar register. -/
  | jr (r : Run) (a : BitVec 7)
  /-- VXOPEN (R16). Opens a vector register extension, waiting for free bank space. -/
  | vxopen (r : Run) (e : BitVec 7)
  /-- VXCLOSE (R16). Closes the vector register extension and frees its space. -/
  | vxclose (r : Run)
  /-- EXMGET (R114). Reads the part's exm into a scalar register. -/
  | exmget (r : Run) (d : BitVec 7)
  /-- EXMSET (R116). Writes exm from a scalar register, limited to the allowed lanes. -/
  | exmset (r : Run) (a : BitVec 7)
  /-- MKFF (R117). Sets the mask bit of the part's lowest active lane and clears its other bits. -/
  | mkff (r : Run) (d : BitVec 7)
  /-- YIELD (R118). Ranks the part below every other ready part for one pick. -/
  | yield (r : Run)
  /-- SADD (R107). Scalar add, wrapping or saturating. -/
  | sadd (r : Run) (d a b : BitVec 7)
  /-- SSUB (R107). Scalar subtract. -/
  | ssub (r : Run) (d a b : BitVec 7)
  /-- SMUL (R107). Scalar multiply, low 64 bits. -/
  | smul (r : Run) (d a b : BitVec 7)
  /-- SMULH (R107). Scalar signed multiply, high 64 bits. -/
  | smulh (r : Run) (d a b : BitVec 7)
  /-- SAND (R107). Scalar AND. -/
  | sand (r : Run) (d a b : BitVec 7)
  /-- SOR (R107). Scalar OR. -/
  | sor (r : Run) (d a b : BitVec 7)
  /-- SXOR (R107). Scalar XOR. -/
  | sxor (r : Run) (d a b : BitVec 7)
  /-- SSHL (R107). Scalar shift left. -/
  | sshl (r : Run) (d a b : BitVec 7)
  /-- SSHR (R107). Scalar logical shift right. -/
  | sshr (r : Run) (d a b : BitVec 7)
  /-- SSAR (R107). Scalar arithmetic shift right. -/
  | ssar (r : Run) (d a b : BitVec 7)
  /-- SMIN (R107). Signed scalar minimum. -/
  | smin (r : Run) (d a b : BitVec 7)
  /-- SMAX (R107). Signed scalar maximum. -/
  | smax (r : Run) (d a b : BitVec 7)
  /-- SMINN (R107). Natural scalar minimum. -/
  | sminn (r : Run) (d a b : BitVec 7)
  /-- SMAXN (R107). Natural scalar maximum. -/
  | smaxn (r : Run) (d a b : BitVec 7)
  /-- SSLT (R107). Signed scalar set-less-than. -/
  | sslt (r : Run) (d a b : BitVec 7)
  /-- SSLTN (R107). Natural scalar set-less-than. -/
  | ssltn (r : Run) (d a b : BitVec 7)
  /-- SADDI (R108). Scalar add immediate. -/
  | saddi (r : Run) (d a i : BitVec 7)
  /-- SANDI (R108). Scalar AND immediate. -/
  | sandi (r : Run) (d a i : BitVec 7)
  /-- SORI (R108). Scalar OR immediate. -/
  | sori (r : Run) (d a i : BitVec 7)
  /-- SXORI (R108). Scalar XOR immediate. -/
  | sxori (r : Run) (d a i : BitVec 7)
  /-- SSHLI (R108). Scalar shift left by an immediate. -/
  | sshli (r : Run) (d a i : BitVec 7)
  /-- SSHRI (R108). Scalar logical shift right by an immediate. -/
  | sshri (r : Run) (d a i : BitVec 7)
  /-- SSARI (R108). Scalar arithmetic shift right by an immediate. -/
  | ssari (r : Run) (d a i : BitVec 7)
  /-- SSLTI (R108). Signed set-less-than immediate. -/
  | sslti (r : Run) (d a i : BitVec 7)
  /-- SCLZ (R108). Counts leading zeros of a scalar. -/
  | sclz (r : Run) (d a : BitVec 7)
  /-- SPOPC (R108). Counts one bits of a scalar. -/
  | spopc (r : Run) (d a : BitVec 7)
  /-- SBFX (R109). Extracts a bit field described by an IMM24 hint. -/
  | sbfx (r : Run) (d a : BitVec 7)
  /-- SMOV (R108). Copies a scalar register. -/
  | smov (r : Run) (d a : BitVec 7)
  /-- SLD_64 (R111). Scalar 64-bit load. -/
  | sld64 (r : Run) (d a b : BitVec 7)
  /-- SLD_32 (R111). Scalar 32-bit zero-extending load. -/
  | sld32 (r : Run) (d a b : BitVec 7)
  /-- SST_64 (R111). Scalar 64-bit store. -/
  | sst64 (r : Run) (d a b : BitVec 7)
  /-- SST_32 (R111). Scalar 32-bit store. -/
  | sst32 (r : Run) (d a b : BitVec 7)
  /-- SLI (R110). Loads a 16-bit immediate into a slot of a scalar register. -/
  | sli (r : Run) (d : BitVec 7) (l : BitVec 2) (i : BitVec 16)
  /-- VADD (R135). Vector integer add. -/
  | vadd (r : Run) (d a b : BitVec 7)
  /-- VSUB (R135). Vector integer subtract. -/
  | vsub (r : Run) (d a b : BitVec 7)
  /-- VMUL (R135). Vector multiply, low 32 bits. -/
  | vmul (r : Run) (d a b : BitVec 7)
  /-- VMULH (R135). Vector signed multiply, high 32 bits. -/
  | vmulh (r : Run) (d a b : BitVec 7)
  /-- VMULHN (R135). Vector natural multiply, high 32 bits. -/
  | vmulhn (r : Run) (d a b : BitVec 7)
  /-- VAND (R135). Vector AND. -/
  | vand (r : Run) (d a b : BitVec 7)
  /-- VOR (R135). Vector OR. -/
  | vor (r : Run) (d a b : BitVec 7)
  /-- VXOR (R135). Vector XOR. -/
  | vxor (r : Run) (d a b : BitVec 7)
  /-- VSHL (R135). Vector shift left. -/
  | vshl (r : Run) (d a b : BitVec 7)
  /-- VSHR (R135). Vector logical shift right. -/
  | vshr (r : Run) (d a b : BitVec 7)
  /-- VSAR (R135). Vector arithmetic shift right. -/
  | vsar (r : Run) (d a b : BitVec 7)
  /-- VMIN (R135). Vector signed minimum. -/
  | vmin (r : Run) (d a b : BitVec 7)
  /-- VMAX (R135). Vector signed maximum. -/
  | vmax (r : Run) (d a b : BitVec 7)
  /-- VMINN (R135). Vector natural minimum. -/
  | vminn (r : Run) (d a b : BitVec 7)
  /-- VMAXN (R135). Vector natural maximum. -/
  | vmaxn (r : Run) (d a b : BitVec 7)
  /-- VSEL (R135). Selects per lane between two vectors by a mask register. -/
  | vsel (r : Run) (d a b : BitVec 7)
  /-- VMAD (R136). Vector integer multiply-add. -/
  | vmad (r : Run) (d a b : BitVec 7)
  /-- VABS (R136). Vector absolute value. -/
  | vabs (r : Run) (d a : BitVec 7)
  /-- VNEG (R136). Vector negate. -/
  | vneg (r : Run) (d a : BitVec 7)
  /-- VNOT (R136). Vector bitwise NOT. -/
  | vnot (r : Run) (d a : BitVec 7)
  /-- VCLZ (R136). Vector count leading zeros. -/
  | vclz (r : Run) (d a : BitVec 7)
  /-- VPOPC (R136). Vector population count. -/
  | vpopc (r : Run) (d a : BitVec 7)
  /-- VBFX (R136). Vector bit-field extract. -/
  | vbfx (r : Run) (d a : BitVec 7)
  /-- VBFI (R136). Vector bit-field insert. -/
  | vbfi (r : Run) (d a : BitVec 7)
  /-- VBCST (R136). Broadcasts a scalar to every active lane. -/
  | vbcst (r : Run) (d a : BitVec 7)
  /-- VLANE (R136). Writes each lane's index. -/
  | vlane (r : Run) (d : BitVec 7)
  /-- VMOV (R136). Vector move. -/
  | vmov (r : Run) (d a : BitVec 7)
  /-- VADDS (R136). Vector natural saturating add. -/
  | vadds (r : Run) (d a b : BitVec 7)
  /-- VSUBS (R136). Vector natural saturating subtract. -/
  | vsubs (r : Run) (d a b : BitVec 7)
  /-- VQUAD (R136). Permutes lanes within each quad by a pattern. -/
  | vquad (r : Run) (d a : BitVec 7)
  /-- VBREV (R136). Vector bit reverse. -/
  | vbrev (r : Run) (d a : BitVec 7)
  /-- VADDI (R138). Vector add immediate. -/
  | vaddi (r : Run) (d a i : BitVec 7)
  /-- VANDI (R138). Vector AND immediate. -/
  | vandi (r : Run) (d a i : BitVec 7)
  /-- VORI (R138). Vector OR immediate. -/
  | vori (r : Run) (d a i : BitVec 7)
  /-- VXORI (R138). Vector XOR immediate. -/
  | vxori (r : Run) (d a i : BitVec 7)
  /-- VSHLI (R138). Vector shift left by an immediate. -/
  | vshli (r : Run) (d a i : BitVec 7)
  /-- VSHRI (R138). Vector logical shift right by an immediate. -/
  | vshri (r : Run) (d a i : BitVec 7)
  /-- VSARI (R138). Vector arithmetic shift right by an immediate. -/
  | vsari (r : Run) (d a i : BitVec 7)
  /-- VMULI (R138). Vector multiply by an immediate. -/
  | vmuli (r : Run) (d a i : BitVec 7)
  /-- FADD (R139). FP32 add. -/
  | fadd (r : Run) (d a b : BitVec 7)
  /-- FSUB (R139). FP32 subtract. -/
  | fsub (r : Run) (d a b : BitVec 7)
  /-- FMUL (R139). FP32 multiply. -/
  | fmul (r : Run) (d a b : BitVec 7)
  /-- FFMA (R139). FP32 fused multiply-add. -/
  | ffma (r : Run) (d a b : BitVec 7)
  /-- FFMS (R139). FP32 fused multiply-subtract. -/
  | ffms (r : Run) (d a b : BitVec 7)
  /-- FNMA (R139). FP32 negated fused multiply-add. -/
  | fnma (r : Run) (d a b : BitVec 7)
  /-- FMIN (R139). FP32 minimum. -/
  | fmin (r : Run) (d a b : BitVec 7)
  /-- FMAX (R139). FP32 maximum. -/
  | fmax (r : Run) (d a b : BitVec 7)
  /-- FABS (R139). Clears the FP32 sign bit. -/
  | fabs (r : Run) (d a : BitVec 7)
  /-- FNEG (R139). Inverts the FP32 sign bit. -/
  | fneg (r : Run) (d a : BitVec 7)
  /-- FCPS (R139). Copies the sign of b onto a. -/
  | fcps (r : Run) (d a b : BitVec 7)
  /-- FRND (R139). Rounds FP32 to an integral value. -/
  | frnd (r : Run) (d a : BitVec 7)
  /-- FFRC (R139). FP32 fractional part. -/
  | ffrc (r : Run) (d a : BitVec 7)
  /-- FSCL (R139). Scales FP32 by a power of two. -/
  | fscl (r : Run) (d a b : BitVec 7)
  /-- FEXN (R140). Writes floor(log2|a|) as s32. -/
  | fexn (r : Run) (d a : BitVec 7)
  /-- FRCP (R141). FP32 reciprocal, correctly rounded. -/
  | frcp (r : Run) (d a : BitVec 7)
  /-- FRSQ (R141). FP32 reciprocal square root. -/
  | frsq (r : Run) (d a : BitVec 7)
  /-- FSQRT (R141). FP32 square root. -/
  | fsqrt (r : Run) (d a : BitVec 7)
  /-- FDIV (R141). FP32 divide. -/
  | fdiv (r : Run) (d a b : BitVec 7)
  /-- FEXP2 (R141). FP32 base-2 exponential. -/
  | fexp2 (r : Run) (d a : BitVec 7)
  /-- FLOG2 (R141). FP32 base-2 logarithm. -/
  | flog2 (r : Run) (d a : BitVec 7)
  /-- FSIN (R141). FP32 sine of pi times a. -/
  | fsin (r : Run) (d a : BitVec 7)
  /-- FCOS (R141). FP32 cosine of pi times a. -/
  | fcos (r : Run) (d a : BitVec 7)
  /-- FTANH (R141). FP32 hyperbolic tangent. -/
  | ftanh (r : Run) (d a : BitVec 7)
  /-- FCLS (R143). Writes a one-hot FP32 class mask. -/
  | fcls (r : Run) (d a : BitVec 7)
  /-- HADD (R144). Packed FP16 add. -/
  | hadd (r : Run) (d a b : BitVec 7)
  /-- HMUL (R144). Packed FP16 multiply. -/
  | hmul (r : Run) (d a b : BitVec 7)
  /-- HFMA (R144). Packed FP16 fused multiply-add. -/
  | hfma (r : Run) (d a b : BitVec 7)
  /-- BADD (R144). Packed BF16 add. -/
  | badd (r : Run) (d a b : BitVec 7)
  /-- BMUL (R144). Packed BF16 multiply. -/
  | bmul (r : Run) (d a b : BitVec 7)
  /-- BFMA (R144). Packed BF16 fused multiply-add. -/
  | bfma (r : Run) (d a b : BitVec 7)
  /-- HDOT (R144). FP16 pair dot product into FP32. -/
  | hdot (r : Run) (d a b : BitVec 7)
  /-- BDOT (R144). BF16 pair dot product into FP32. -/
  | bdot (r : Run) (d a b : BitVec 7)
  /-- CVT_F32_S32 (R145). Converts s32 to FP32. -/
  | cvtF32S32 (r : Run) (d a : BitVec 7)
  /-- CVT_F32_N32 (R145). Converts n32 to FP32. -/
  | cvtF32N32 (r : Run) (d a : BitVec 7)
  /-- CVT_S32_F32 (R145). Converts FP32 to s32 with saturation. -/
  | cvtS32F32 (r : Run) (d a : BitVec 7)
  /-- CVT_N32_F32 (R145). Converts FP32 to n32 with saturation. -/
  | cvtN32F32 (r : Run) (d a : BitVec 7)
  /-- CVT_F16X2 (R145). Packs two FP32 values as FP16. -/
  | cvtF16x2 (r : Run) (d a b : BitVec 7)
  /-- CVT_BF16X2 (R145). Packs two FP32 values as BF16. -/
  | cvtBf16x2 (r : Run) (d a b : BitVec 7)
  /-- CVT_F32_F16 (R145). Widens one FP16 half to FP32. -/
  | cvtF32F16 (r : Run) (d a h : BitVec 7)
  /-- CVT_F32_BF16 (R145). Widens one BF16 half to FP32. -/
  | cvtF32Bf16 (r : Run) (d a h : BitVec 7)
  /-- CVT_F8E4 (R145). Writes F8E4 of a into byte k of the destination. -/
  | cvtF8e4 (r : Run) (d a k : BitVec 7)
  /-- CVT_F8E5 (R145). Writes F8E5 of a into byte k of the destination. -/
  | cvtF8e5 (r : Run) (d a k : BitVec 7)
  /-- CVT_F32_F8 (R145). Widens a selected F8 byte to FP32. -/
  | cvtF32F8 (r : Run) (d a k : BitVec 7)
  /-- PLANE (R146). Transposes s32 lanes into bit-plane words. -/
  | plane (r : Run) (d a : BitVec 7)
  /-- UNPLANE (R146). Transposes bit-plane words back into s32 lanes. -/
  | unplane (r : Run) (d a : BitVec 7)
  /-- CVT_S8 (R145). Writes a clamped s8 into byte k of the destination. -/
  | cvtS8 (r : Run) (d a k : BitVec 7)
  /-- CVT_S32_S8 (R145). Sign-extends byte k to s32. -/
  | cvtS32S8 (r : Run) (d a k : BitVec 7)
  /-- VSHFL (R148). Shuffles lanes within a group by an index vector. -/
  | vshfl (r : Run) (d a : BitVec 7) (w : BitVec 3)
  /-- VSHFX (R148). Exchanges lanes within a group by XOR with k. -/
  | vshfx (r : Run) (d a : BitVec 7) (w : BitVec 3) (k : BitVec 4)
  /-- VSHUP (R148). Shifts lanes up within a group. -/
  | vshup (r : Run) (d a : BitVec 7) (w : BitVec 3) (n : BitVec 4)
  /-- VSHDN (R148). Shifts lanes down within a group. -/
  | vshdn (r : Run) (d a : BitVec 7) (w : BitVec 3) (n : BitVec 4)
  /-- VRED_ADD_S32 (R150). s32 tree reduction over a group. -/
  | vredAddS32 (r : Run) (d a : BitVec 7) (w : BitVec 3)
  /-- VRED_ADD_F32 (R150). FP32 tree reduction over a group. -/
  | vredAddF32 (r : Run) (d a : BitVec 7) (w : BitVec 3)
  /-- VRED_MIN (R150). Minimum tree reduction of type t. -/
  | vredMin (r : Run) (d a : BitVec 7) (w : BitVec 3) (t : BitVec 4)
  /-- VRED_MAX (R150). Maximum tree reduction of type t. -/
  | vredMax (r : Run) (d a : BitVec 7) (w : BitVec 3) (t : BitVec 4)
  /-- VSCAN_ADD_S32 (R150). s32 tree scan, inclusive or exclusive. -/
  | vscanAddS32 (r : Run) (d a : BitVec 7) (w : BitVec 3) (e : BitVec 1)
  /-- VSCAN_ADD_F32 (R150). FP32 tree scan, inclusive or exclusive. -/
  | vscanAddF32 (r : Run) (d a : BitVec 7) (w : BitVec 3) (e : BitVec 1)
  /-- VVOTE (R151). Reports any, all, count or ballot over a group. -/
  | vvote (r : Run) (d a : BitVec 7) (w : BitVec 3) (m : BitVec 4)
  /-- VFIRST (R148). Broadcasts the lowest active lane's value within a group. -/
  | vfirst (r : Run) (d a : BitVec 7) (w : BitVec 3)
  /-- VREADL (R148). Broadcasts lane g + i of each group. -/
  | vreadl (r : Run) (d a : BitVec 7) (w : BitVec 3) (i : BitVec 4)
  /-- VWRITEL (R148). Writes the lowest active lane's value into lane g + i of each group. -/
  | vwritel (r : Run) (d a : BitVec 7) (w : BitVec 3) (i : BitVec 4)
  /-- VMATCH (R151). Reports which active lanes of a group hold equal values. -/
  | vmatch (r : Run) (d a : BitVec 7) (w : BitVec 3) (h : BitVec 4)
  /-- CMPEQ (R152). Mask of bit-equal lanes. -/
  | cmpeq (r : Run) (d a b : BitVec 7)
  /-- CMPNE (R152). Mask of bit-unequal lanes. -/
  | cmpne (r : Run) (d a b : BitVec 7)
  /-- CMPLT (R152). Signed less-than mask. -/
  | cmplt (r : Run) (d a b : BitVec 7)
  /-- CMPLE (R152). Signed less-or-equal mask. -/
  | cmple (r : Run) (d a b : BitVec 7)
  /-- CMPLTN (R152). Natural less-than mask. -/
  | cmpltn (r : Run) (d a b : BitVec 7)
  /-- CMPLEN (R152). Natural less-or-equal mask. -/
  | cmplen (r : Run) (d a b : BitVec 7)
  /-- FCMPEQ (R152). FP32 equal mask. -/
  | fcmpeq (r : Run) (d a b : BitVec 7)
  /-- FCMPLT (R152). FP32 less-than mask. -/
  | fcmplt (r : Run) (d a b : BitVec 7)
  /-- FCMPLE (R152). FP32 less-or-equal mask. -/
  | fcmple (r : Run) (d a b : BitVec 7)
  /-- FCMPUN (R152). FP32 unordered mask. -/
  | fcmpun (r : Run) (d a b : BitVec 7)
  /-- MKAND (R153). Mask AND. -/
  | mkand (r : Run) (d a b : BitVec 7)
  /-- MKOR (R153). Mask OR. -/
  | mkor (r : Run) (d a b : BitVec 7)
  /-- MKXOR (R153). Mask XOR. -/
  | mkxor (r : Run) (d a b : BitVec 7)
  /-- MKANDN (R153). Mask AND-NOT. -/
  | mkandn (r : Run) (d a b : BitVec 7)
  /-- MKPOP (R153). Counts active mask bits into a scalar. -/
  | mkpop (r : Run) (d a : BitVec 7)
  /-- MKMOV (R153). Mask move. -/
  | mkmov (r : Run) (d a : BitVec 7)
  /-- LD_B (R194). Vector byte load, zero-extended. -/
  | ldB (r : Run) (d a b : BitVec 7)
  /-- LD_BS (R194). Vector byte load, sign-extended. -/
  | ldBs (r : Run) (d a b : BitVec 7)
  /-- LD_H (R194). Vector halfword load, zero-extended. -/
  | ldH (r : Run) (d a b : BitVec 7)
  /-- LD_HS (R194). Vector halfword load, sign-extended. -/
  | ldHs (r : Run) (d a b : BitVec 7)
  /-- LD_W (R194). Vector word load. -/
  | ldW (r : Run) (d a b : BitVec 7)
  /-- LD_D (R194). Vector doubleword load into a register pair. -/
  | ldD (r : Run) (d a b : BitVec 7)
  /-- LD_Q (R194). Vector 16-byte load into four registers. -/
  | ldQ (r : Run) (d a b : BitVec 7)
  /-- LDN_W (R196). Vector word load without a lease. -/
  | ldnW (r : Run) (d a b : BitVec 7)
  /-- ST_B (R194). Vector byte store. -/
  | stB (r : Run) (d a b : BitVec 7)
  /-- ST_H (R194). Vector halfword store. -/
  | stH (r : Run) (d a b : BitVec 7)
  /-- ST_W (R194). Vector word store. -/
  | stW (r : Run) (d a b : BitVec 7)
  /-- ST_D (R194). Vector doubleword store. -/
  | stD (r : Run) (d a b : BitVec 7)
  /-- ST_Q (R194). Vector 16-byte store. -/
  | stQ (r : Run) (d a b : BitVec 7)
  /-- PREF (R198). Prefetches lines into L1; failures are dropped silently. -/
  | pref (r : Run) (a b : BitVec 7)
  /-- LDN_D (R196). Vector doubleword load without a lease. -/
  | ldnD (r : Run) (d a b : BitVec 7)
  /-- LDS_W (R200). Scratchpad word load. -/
  | ldsW (r : Run) (d a b : BitVec 7)
  /-- LDS_D (R200). Scratchpad doubleword load. -/
  | ldsD (r : Run) (d a b : BitVec 7)
  /-- LDS_Q (R200). Scratchpad 16-byte load. -/
  | ldsQ (r : Run) (d a b : BitVec 7)
  /-- STS_W (R200). Scratchpad word store. -/
  | stsW (r : Run) (d a b : BitVec 7)
  /-- STS_D (R200). Scratchpad doubleword store. -/
  | stsD (r : Run) (d a b : BitVec 7)
  /-- STS_Q (R200). Scratchpad 16-byte store. -/
  | stsQ (r : Run) (d a b : BitVec 7)
  /-- VSPILL (R202). Spills n vector registers of every lane of the part to scratchpad. -/
  | vspill (r : Run) (d a n : BitVec 7)
  /-- VFILL (R202). Fills n vector registers of every lane of the part from scratchpad. -/
  | vfill (r : Run) (d a n : BitVec 7)
  /-- LDSP (R203). Loads a 64-bit scalar from scratchpad. -/
  | ldsp (r : Run) (d a b : BitVec 7)
  /-- STSP (R203). Stores a 64-bit scalar to scratchpad. -/
  | stsp (r : Run) (d a b : BitVec 7)
  /-- AADD (R204). Atomic add returning the old value. -/
  | aadd (r : Run) (d a b : BitVec 7)
  /-- AAND (R204). Atomic AND. -/
  | aand (r : Run) (d a b : BitVec 7)
  /-- AOR (R204). Atomic OR. -/
  | aor (r : Run) (d a b : BitVec 7)
  /-- AXOR (R204). Atomic XOR. -/
  | axor (r : Run) (d a b : BitVec 7)
  /-- AMIN (R204). Atomic signed minimum. -/
  | amin (r : Run) (d a b : BitVec 7)
  /-- AMAX (R204). Atomic signed maximum. -/
  | amax (r : Run) (d a b : BitVec 7)
  /-- AMINN (R204). Atomic natural minimum. -/
  | aminn (r : Run) (d a b : BitVec 7)
  /-- AMAXN (R204). Atomic natural maximum. -/
  | amaxn (r : Run) (d a b : BitVec 7)
  /-- AXCH (R204). Atomic exchange. -/
  | axch (r : Run) (d a b : BitVec 7)
  /-- ACAS (R204). Atomic compare-and-swap. -/
  | acas (r : Run) (d a b : BitVec 7)
  /-- AADDF (R205). Atomic FP32 add at RNE. -/
  | aaddf (r : Run) (d a b : BitVec 7)
  /-- AINCW (R204). Atomic wrapping increment. -/
  | aincw (r : Run) (d a b : BitVec 7)
  /-- ALD (R204). Atomic load. -/
  | ald (r : Run) (d a b : BitVec 7)
  /-- AST (R204). Atomic store. -/
  | ast (r : Run) (d a b : BitVec 7)
  /-- FENCE (R210). Release and/or acquire over the trackers named by a mask at a scope. -/
  | fence (r : Run) (a : BitVec 7)
  /-- TRKSET (R207). Binds a tracker to an address range with scope and lease length. -/
  | trkset (r : Run) (t a b : BitVec 7)
  /-- TRKSET_H (R208). Binds a tracker to a tensor handle's range. -/
  | trksetH (r : Run) (t a : BitVec 7)
  /-- TRKCLR (R209). Unbinds a tracker, keeping OUT and LCT. -/
  | trkclr (r : Run) (t : BitVec 7)
  /-- DRAINST (R213). Waits until the part's older stores and atomics are accepted. -/
  | drainst (r : Run)
  /-- WAITA (R214). Polls a scratchpad word until a condition holds or a cycle limit passes. -/
  | waita (r : Run) (d a b : BitVec 7)
  /-- BARDEF (R216). Defines a barrier word in scratchpad. -/
  | bardef (r : Run) (a b : BitVec 7)
  /-- BARARR (R217). Releases stores, records the part's quads as arrived and returns the phase. -/
  | bararr (r : Run) (d a : BitVec 7)
  /-- BARWAIT (R218). Waits until a barrier's phase differs from the given one, then acquires. -/
  | barwait (r : Run) (a b : BitVec 7)
  /-- BARC (R215). Arrives at a barrier and waits on the phase it returned. -/
  | barc (r : Run) (d a : BitVec 7)
  /-- BARINV (R219). Clears a barrier word's tag. -/
  | barinv (r : Run) (a : BitVec 7)
  /-- CPYL (R226). Starts a per-lane asynchronous copy. -/
  | cpyl (r : Run) (d a b : BitVec 7)
  /-- CPYT (R228). Starts a tensor box copy from a scratchpad descriptor. -/
  | cpyt (r : Run) (a : BitVec 7)
  /-- CPYR (R230). Starts a reduce-copy, optionally ticket-ordered. -/
  | cpyr (r : Run) (a : BitVec 7)
  /-- BUFDEF (R238). Defines a buffer handle's scratchpad region. -/
  | bufdef (r : Run) (n a b : BitVec 7)
  /-- BUFWAIT (R238). Waits for a handle to be full, free or idle, then acquires. -/
  | bufwait (r : Run) (n m : BitVec 7)
  /-- BUFREL (R238). Sets a handle to FREE or FULL. -/
  | bufrel (r : Run) (n m : BitVec 7)
  /-- BUFSTAT (R239). Reads a handle's status word. -/
  | bufstat (r : Run) (d n : BitVec 7)
  /-- QPOP (R248). Waits for and removes the head entry of a Sparge queue into lanes. -/
  | qpop (r : Run) (d q : BitVec 7)
  /-- QPEEK (R248). Reads the number of entries in a Sparge queue. -/
  | qpeek (r : Run) (d q : BitVec 7)
  /-- ALOOP (R242). Slice word opening a loop level. -/
  | aloop (r : Run) (k a : BitVec 7)
  /-- AEND (R242). Slice word closing or repeating a loop level. -/
  | aend (r : Run) (k : BitVec 7)
  /-- ASTRM (R243). Slice word reading 128 bytes at an affine address for a queue. -/
  | astrm (r : Run) (q a g : BitVec 7)
  /-- ACPY (R244). Slice word starting a fill copy into a ring of handles. -/
  | acpy (r : Run) (n a g : BitVec 7)
  /-- ASIG (R245). Slice word waiting for earlier work and writing a signal word. -/
  | asig (r : Run) (a b : BitVec 7)
  /-- AHALT (R245). Slice word halting the slice. -/
  | ahalt (r : Run)
  /-- ASTART (R247). Starts the crew's access slice once it is idle or halted. -/
  | astart (r : Run) (a : BitVec 7)
  /-- ASTAT (R247). Reads the Sparge slice status. -/
  | astat (r : Run) (d : BitVec 7)
  /-- MWLD (R262). Queues a weight-tile load into the matrix engine. -/
  | mwld (r : Run) (a b : BitVec 7)
  /-- MSTR (R263). Queues an activation stream from scratchpad into an accumulator. -/
  | mstr (r : Run) (n a b : BitVec 7)
  /-- MSTR_QUEUE (R263). Queues an activation stream taken from a Sparge queue. -/
  | mstrQueue (r : Run) (n b : BitVec 7)
  /-- MRDO (R264). Queues a scaled, rounded readout of accumulator rows to scratchpad. -/
  | mrdo (r : Run) (n a b : BitVec 7)
  /-- MZERO (R265). Queues zeroing of an accumulator and its tag. -/
  | mzero (r : Run) (n : BitVec 7)
  /-- MACSV (R265). Queues a save of accumulator rows as an image. -/
  | macsv (r : Run) (n a b : BitVec 7)
  /-- MACLD (R265). Queues a load of accumulator rows from an image. -/
  | macld (r : Run) (n a b : BitVec 7)
  /-- MSTAT (R266). Reads the engine status, optionally waiting for every command to stand. -/
  | mstat (r : Run) (d w : BitVec 7)
  /-- TRACE (R299). Releases, hands each active lane's ray to a traversal unit and exits the lanes. -/
  | trace (r : Run) (d a b : BitVec 7)
  /-- HITGET (R318). Reads a field of a ray record's result. -/
  | hitget (r : Run) (d a b : BitVec 7)
  /-- AHACC (R319). Commits an any-hit invocation as accepted and exits. -/
  | ahacc (r : Run)
  /-- AHREJ (R319). Commits an any-hit invocation as rejected and exits. -/
  | ahrej (r : Run)
  /-- CONTEND (R320). Releases and hands each active lane to the gatherer as a continuation. -/
  | contend (r : Run) (d : BitVec 7)
  /-- CONTGET (R320). Reads the lane's continuation value, record address or reference. -/
  | contget (r : Run) (d k : BitVec 7)
  /-- LNTINV (R314). Increments a BVH's generation, invalidating its Lantern hints. -/
  | lntinv (r : Run) (a : BitVec 7)
  /-- ISHIT (R319). Commits an intersection invocation's reported hit and exits. -/
  | ishit (r : Run) (a b : BitVec 7)
  /-- RAST (R321). Rasterises the next covered pixels of a triangle into lanes. -/
  | rast (r : Run) (d a b : BitVec 7)
  /-- RPRJ (R322). Reprojects pixels from a previous frame, accepting or rejecting per lane. -/
  | rprj (r : Run) (d a b : BitVec 7)
  /-- TEX (R323). Samples a texture with derivatives from the quad. -/
  | tex (r : Run) (d a b : BitVec 7)
  /-- TEXL (R323). Samples a texture at an explicit level of detail. -/
  | texl (r : Run) (d a b : BitVec 7)
  /-- LNCH (R364). Releases, captures a launch record and enqueues it on a device queue. -/
  | lnch (r : Run) (d a b : BitVec 7)
  /-- EVSET (R364). Releases, then sets bits of the context's event vector. -/
  | evset (r : Run) (a k : BitVec 7)
  /-- EVCLR (R364). Releases, then clears bits of the context's event vector. -/
  | evclr (r : Run) (a k : BitVec 7)
  /-- EMBER (R418). Writes a marker record or tags the part's next unit. -/
  | ember (r : Run) (a k : BitVec 7)
  /-- GRIST (R418). Adds a value under a key into sketch U. -/
  | grist (r : Run) (a b : BitVec 7)
  /-- MISS_SPLIT (R40). A load's miss timer expires and the part may split off its waiting quads. -/
  | missSplit (p : PartRef) (load : Nat)
  /-- JOIN_TIMEOUT (R43). A join timer expires and the present parts pass by timeout, fusing with one another. -/
  | joinTimeout (p : PartRef)
  /-- FUSE_WATCHDOG_EXPIRY (R46). A fuse watchdog expires and the part takes cause 0x07. -/
  | fuseWatchdogExpiry (p : PartRef)
  /-- LOAD_DATA_RETURN (R195). A load's data arrives and is written to its lanes, releasing the interlock. -/
  | loadDataReturn (p : PartRef) (load : Nat)
  /-- STORE_ACCEPTED (R184). A store passes its checks and is accepted, letting waiting DRAINST, EXIT or release proceed. -/
  | storeAccepted (crew id : Nat)
  /-- STORE_FAULT_REPORT (R162). A store's translation, grant or rights failure is reported and recorded in the store-fault queue. -/
  | storeFaultReport (crew id : Nat)
  /-- ACCESS_ANSWER (R187). An answer from a home arrives; OUT falls and LCT takes the completion time. -/
  | accessAnswer (id : Nat)
  /-- HOME_ACCESS (R288). A home L2 slice performs an arriving access in its coherence order, granting leases and completion times. -/
  | homeAccess (id : Nat)
  /-- FENCE_RELEASE_COMPLETE (R211). Once answers are in and TIME reaches LCT, a waiting release completes. -/
  | fenceReleaseComplete (p : PartRef)
  /-- WAITA_TIMEOUT (R214). A WAITA's cycle limit passes; the last test decides its result. -/
  | waitaTimeout (p : PartRef)
  /-- WAITCY_END (R124). A WAITCY count runs out and the part resumes. -/
  | waitcyEnd (p : PartRef)
  /-- COPY_COMPLETE (R234). A copy's payload is performed; it writes its completion word and makes its handle transition. -/
  | copyComplete (crew ord : Nat)
  /-- REDUCE_TICKET_POLL (R232). An ordered reduce-copy rereads its ticket word and starts applying elements when it matches. -/
  | reduceTicketPoll (crew ord : Nat)
  /-- REDUCE_TICKET_RELEASE (R232). After its element writes settle, an ordered reduce-copy writes TKT + 1 to the ticket. -/
  | reduceTicketRelease (crew ord : Nat)
  /-- COPY_SQUASH (R237). At the drain limit, copies still in flight are squashed and their lines released. -/
  | copySquash (crew : Nat)
  /-- ASTRM_PUSH (R243). An ASTRM's bytes return and are pushed as one entry onto its queue. -/
  | astrmPush (crew : Nat)
  /-- MATRIX_COMMAND_STANDS (R259). A matrix command's busy time ends, its effects stand and the next command starts. -/
  | matrixCommandStands (crew : Nat)
  /-- MWLD_LATCH (R259). A filled weight buffer latches once earlier commands stand. -/
  | mwldLatch (crew : Nat)
  /-- RAY_END (R300). A ray's traversal reaches a final state and the unit writes its record. -/
  | rayEnd (ray : Nat)
  /-- RAY_HANDOFF (R300). After the record's completion time passes, the ray is handed to the gatherer. -/
  | rayHandoff (ray : Nat)
  /-- GATHER_TIMEOUT (R300). 4,096 cycles after its first ray, a partly filled gatherer wave is launched. -/
  | gatherTimeout (wave : Nat)
  /-- VAULT_SAMPLE (R341). Every 10 µs a vault samples its temperature and updates MULT, CLOSED and TALW. -/
  | vaultSample (vault : Nat) (readings : List Int)
  /-- THERMAL_TRIP (R346). A sensor above 120 °C stops all work, records the trip and writes fault records. -/
  | thermalTrip (sensor : Nat)
  /-- PACKAGE_POWER_OFF (R346). After a trip's records are written, power is removed from the package rails. -/
  | packagePowerOff 
  /-- DROOP_TRIP (R347). The droop detector trips and the gutter divider halves the cluster clock. -/
  | droopTrip (cluster : Nat)
  /-- GUTTER_RESTORE (R347). After HOLD clear cycles with the vault open, the full clock is restored. -/
  | gutterRestore (cluster : Nat)
  /-- BIAS_REPLAN (R350). A cluster's body bias is re-planned at boot, every 24 powered hours or after a storm. -/
  | biasReplan (cluster : Nat) (slack : List (Int × Nat))
  /-- BIAS_CODE_STEP (R350). Each 1 µs the bias generator moves one code toward its target. -/
  | biasCodeStep (cluster : Nat)
  /-- BBIAS_CODE_WRITE (R351). A write to BBIAS.CODE moves the generator toward the written code. -/
  | bbiasCodeWrite (cluster : Nat) (value : BitVec 64)
  /-- TAPER_ESTIMATE (R352). Every 100 ns a cluster estimates its current and issues filler operations to hold the ramp. -/
  | taperEstimate (cluster amps filler : Nat)
  /-- TAPER_RAMP_END (R365). A taper ramp ends and its filler cycles are charged to the slot. -/
  | taperRampEnd (cluster : Nat)
  /-- ECC_CORRECTED (R354). A correctable error is corrected in place and counted. -/
  | eccCorrected (array cluster : Nat)
  /-- ECC_UNCORRECTABLE (R354). An uncorrectable error kills, poisons, drops or ends a ray according to its array. -/
  | eccUncorrectable (site : EccSite)
  /-- BACKGROUND_SCRUB (R354). The background scrub passes over vaults and GDDR 7 devices. -/
  | backgroundScrub 
  /-- SLOT_VISIT (R366). Lamplighter visits a slot, updates DEFICIT and places crews while it is positive. -/
  | slotVisit (slot : Nat)
  /-- LAUNCH_START (R361). A head launch whose WAIT mask is met is checked, its grants translated, and it starts. -/
  | launchStart (slot : Nat)
  /-- CREW_RETIRE (R273). After its copies, commands and write-downs finish, a retiring crew leaves its core and is charged. -/
  | crewRetire (crew : Nat)
  /-- SWAP_OUT (R274). A halted crew writes down, drains and writes its swap image. -/
  | swapOut (crew : Nat)
  /-- PREEMPT_DONE (R372). Every crew of the pre-empted context is swapped and the completion is written. -/
  | preemptDone (ctx : Nat)
  /-- DUMPC_DONE (R129). The dump's blocks are answered, the header rewritten and the result word written. -/
  | dumpcDone (crew : Nat)
  /-- HANDLE_MIGRATION_END (R394). The last line of a migrating handle moves, translations switch and the old space is freed. -/
  | handleMigrationEnd (ctx hdl : Nat)
  /-- NOTIFY (R360). A write to a slot's notify register makes Lamplighter serve the queue or sets PEND. -/
  | notify (slot : Nat)
  /-- ADMQ_WRITE (R359). A write to ADMQ sets the admin queue header and resumes its serving. -/
  | admqWrite (value : BitVec 64)
  /-- RESET_WRITE (R396). Writing 0x5253 to RESET resets the module. -/
  | resetWrite (value : BitVec 64)
  /-- REGISTER_WRITE (R5). A write to a register with no behaviour of its own updates its RW fields. -/
  | registerWrite (offset : Nat) (value : BitVec 64)
  /-- MODULE_BOOT (R398). After reset Lamplighter measures, verifies the patch, clears memory, re-plans and sets READY. -/
  | moduleBoot 
  /-- HOST_MEMORY_WRITE (R397). A host write through BAR 2 is performed at its home and receives a completion time. -/
  | hostMemoryWrite (offset : Nat) (bytes : List Byte)
  /-- HOST_MEMORY_READ (R397). A host read through BAR 2 returns the coherence-latest write at the home. -/
  | hostMemoryRead (offset length : Nat)
  /-- LAUNCH (R403). LAUNCH FORM 0 command naming a launch record read at the head. -/
  | launch (c : Cmd)
  /-- LAUNCH_CAPTURED (R364). LAUNCH FORM 1 command carrying a record captured by LNCH. -/
  | launchCaptured (c : Cmd)
  /-- EVSIGNAL_SET (R362). Sets bits of a context's event vector. -/
  | evsignalSet (c : Cmd)
  /-- EVSIGNAL_CLEAR (R362). Clears bits of a context's event vector. -/
  | evsignalClear (c : Cmd)
  /-- MAPQ (R360). Maps a queue onto a slot, clears PEND and serves it. -/
  | mapq (c : Cmd)
  /-- UNMAPQ (R360). Removes a queue from its slot. -/
  | unmapq (c : Cmd)
  /-- CTXNEW (R404). Creates the lowest free context with its tables, save area and rights. -/
  | ctxnew (c : Cmd)
  /-- CTXNEW_ALLOTMENT (R404). Writes a context's vault SRAM allotment mask. -/
  | ctxnewAllotment (c : Cmd)
  /-- CTXNEW_LANTERN_WAYS (R404). Writes a context's Lantern way mask in every cluster. -/
  | ctxnewLanternWays (c : Cmd)
  /-- CTXFREE (R376). Pre-empts and kills every crew of a context and frees its state. -/
  | ctxfree (c : Cmd)
  /-- HANDLE_CREATE (R405). Creates a tensor handle, or destroys it with EXTENT 0. -/
  | handleCreate (c : Cmd)
  /-- HANDLE_PRIORITY (R405). Sets a handle's priority. -/
  | handlePriority (c : Cmd)
  /-- HANDLE_MIGRATE (R394). Moves a handle to a tier and vault, completing when every line has moved. -/
  | handleMigrate (c : Cmd)
  /-- HANDLE_EVICT (R393). Moves a handle to host memory. -/
  | handleEvict (c : Cmd)
  /-- GRANT (R389). Replaces a launch's grant list and readmits or kills held crews. -/
  | grant (c : Cmd)
  /-- PREEMPT (R372). Starts pre-emption of a context. -/
  | preempt (c : Cmd)
  /-- PREEMPT_RESUME (R374). Marks a switched-out context runnable again. -/
  | preemptResume (c : Cmd)
  /-- DEBUG_ATTACH (R410). Attaches a debugger and sample buffer to a context. -/
  | debugAttach (c : Cmd)
  /-- DEBUG_DETACH (R422). Detaches the debugger and resumes every stopped crew. -/
  | debugDetach (c : Cmd)
  /-- DEBUG_PC_BREAKPOINT (R419). Sets or clears a PC breakpoint. -/
  | debugPcBreakpoint (c : Cmd)
  /-- DEBUG_WATCHPOINT (R419). Sets or clears a watchpoint. -/
  | debugWatchpoint (c : Cmd)
  /-- DEBUG_STOP_CREW (R421). Stops a named crew. -/
  | debugStopCrew (c : Cmd)
  /-- DEBUG_RESUME_CREW (R422). Readmits a stopped crew, optionally stepping one unit. -/
  | debugResumeCrew (c : Cmd)
  /-- DEBUG_EMBER (R414). Enables Ember sampling with an interval exponent and seed. -/
  | debugEmber (c : Cmd)
  /-- DEBUG_GRIST (R417). Sets or disables the Grist sketch base. -/
  | debugGrist (c : Cmd)
  /-- DEBUG_ICINV (R423). Performs ICINV at package scope. -/
  | debugIcinv (c : Cmd)
  /-- QUOTE (R407). Writes a signed quote of the measurements with a nonce. -/
  | quote (c : Cmd)
  /-- QUOTE_EXTEND (R406). Extends a measurement register with 32 bytes. -/
  | quoteExtend (c : Cmd)
  /-- POWERCAP (R408). Delivers a power cap message, accepted only with a greater SEQ. -/
  | powercap (c : Cmd)
  /-- COUNTERS_ACCOUNT (R403). Writes a context's account. -/
  | countersAccount (c : Cmd)
  /-- COUNTERS_READ_REGISTER (R403). Reads a Lamplighter system register. -/
  | countersReadRegister (c : Cmd)
  /-- COUNTERS_WRITE_REGISTER (R403). Writes a Lamplighter system register. -/
  | countersWriteRegister (c : Cmd)
  /-- COUNTERS_LIFETIME (R409). Copies out the lifetime records. -/
  | countersLifetime (c : Cmd)
  /-- KEYSET (R395). Loads the XTS keys of a key id. -/
  | keyset (c : Cmd)
  /-- POWER_ESTIMATE (R408). Every 100 µs module power is compared with the budget and placement throttled. -/
  | powerEstimate (watts : Nat)
  /-- CAP_EXPIRY (R408). TIME reaches a cap's EXPIRY and the budget returns to FLOOR. -/
  | capExpiry 
  /-- LIFETIME_RECORD_WRITE (R409). Every powered hour the lifetime records are written to flash. -/
  | lifetimeRecordWrite 
  /-- EMBER_TAG (R414). The issue count reaches the drawn interval and the next unit is tagged. -/
  | emberTag (core seq : Nat)
  /-- EMBER_RECORD (R415). A tagged unit ends and its stage record is written. -/
  | emberRecord (core seq : Nat) (stages : EmberStages)
  /-- FLIT_CRC_REPLAY (R428). A flit failing its CRC is replayed by the link. -/
  | flitCrcReplay (port : Nat)
  /-- INBOUND_ACCESS (R432). An access from a peer is checked against the inbound windows and performed. -/
  | inboundAccess (port : Nat) (access : PeerAccess)
  /-- REMOTE_ANSWER (R434). A peer's answer arrives and its lease and completion times are converted to local TIME. -/
  | remoteAnswer (id : Nat) (answer : PeerAnswer)
  /-- REMOTE_ACCESS_TIMEOUT (R432). A remote access unanswered after 200 µs fails. -/
  | remoteAccessTimeout (id : Nat)
  /-- SYNC_FLIT_SEND (R433). Every 1 ms a sync flit is sent on each up port. -/
  | syncFlitSend 
  /-- SYNC_FLIT_RECEIVE (R433). A received sync flit slews SOFS. -/
  | syncFlitReceive (port : Nat) (stime : BitVec 64)
  /-- PORT_SYNC_TIMEOUT (R433). A port with no sync for 10 ms is taken down. -/
  | portSyncTimeout (port : Nat)
  /-- QUOTE_REQUEST_FLIT (R436). A peer's quote request is answered with a quote or a busy flit. -/
  | quoteRequestFlit (port : Nat) (nonce : List Byte)
  /-- POWER_CAP_FLIT (R436). A peer's power cap message is accepted from a CAPSRC port. -/
  | powerCapFlit (port : Nat) (cap : CapMessage)
  /-- ILLEGAL_INSTRUCTION (R71). A part issues at a 32-bit word that R70 does not list as an instruction and takes cause 0x01. -/
  | illegalInstruction (r : Run) (reject : Reject)
  /-- FETCH_FAILURE (R384). An instruction fetch fails translation, lacks X, or reaches outside the global window, and the crew is killed or faults. -/
  | fetchFailure (outside : Bool)
  /-- ICINV_COMPLETE (R125). Every named instruction cache has dropped its lines, so the waiting ICINV or DEBUG FORM 8 completes. -/
  | icinvComplete (p : PartRef)
  /-- COPY_ERROR (R236). An access of a copy in flight fails translation, rights or grants, and the crew is killed with cause 0x10 or swapped out under RECOVER. -/
  | copyError (crew ord : Nat) (why : CopyFault)
  /-- INTERSECTION_SHADER_INVOKE (R308). Mid-traversal, a ray meets a custom reference, writes STATE 4 and is handed on for an intersection invocation. -/
  | intersectionShaderInvoke (ray : Nat)
  deriving DecidableEq, Repr

end Sys2Proof
end

