-- ==== Sys2Proof/Decode.lean ====
section
/-! DEFINITION. Decoding and encoding of instruction words and hint words (R54 to R71). Decoding looks at the major,
the function code and the fields that must be 0; register ranges, hints and operand limits are checked when the unit
issues (R72). Total on every word: what no row covers is rejected by name. -/

namespace Sys2Proof

/-! ### Fields of a word (R54, R55) -/

/-- `n` bits of a word from bit `lo` up. -/
def bitsAt (w : W32) (lo n : Nat) : BitVec n := BitVec.ofNat n (w.toNat / 2 ^ lo)

def fMaj (w : W32) : BitVec 5 := bitsAt w 27 5
def fStl (w : W32) : BitVec 2 := bitsAt w 25 2
def fD (w : W32) : BitVec 7 := bitsAt w 18 7
def fA (w : W32) : BitVec 7 := bitsAt w 11 7
def fB (w : W32) : BitVec 7 := bitsAt w 4 7
def fFn (w : W32) : BitVec 4 := bitsAt w 0 4
def fCond (w : W32) : BitVec 3 := bitsAt w 22 3
def fReg (w : W32) : BitVec 4 := bitsAt w 18 4
def fOff (w : W32) : BitVec 18 := bitsAt w 0 18
def fSlot (w : W32) : BitVec 2 := bitsAt w 16 2
def fImm16 (w : W32) : BitVec 16 := bitsAt w 0 16
def fWc (w : W32) : BitVec 3 := bitsAt w 8 3
def fF (w : W32) : BitVec 4 := bitsAt w 4 4
def fE (w : W32) : BitVec 1 := bitsAt w 4 1

/-- The instruction, when every field it does not name is 0 (R56). -/
def ifZero (c : Bool) (i : Instr) : Option Instr := if c then some i else none

/-! ### Hint words (R62) -/

/-- A word with MAJ 31 is a HINT word. -/
def isHint (w : W32) : Bool := fMaj w == 31#5

def decodeHint (w : W32) : Hint := { kind := bitsAt w 24 3, payload := bitsAt w 0 24 }

def encodeHint (h : Hint) : W32 :=
  BitVec.ofNat 32 (31 * 2 ^ 27 + h.kind.toNat * 2 ^ 24 + h.payload.toNat)

/-- The hints of one kind in a run, in address order. -/
def Run.ofKind (r : Run) (k : Nat) : List Hint := r.hints.filter (fun h => h.kind.toNat == k)

/-- Whether a run takes MSTR rows from a queue: SRCQ of its IMM24 control word, or no control word at all (R263). -/
def Run.srcq (r : Run) : Bool :=
  match r.ofKind 0 with
  | [h] => h.payload.getLsbD 13
  | _ => true

/-- Major 0, SYS (R70). -/
def decodeSys (r : Run) (w : W32) : Option Instr :=
  match (fFn w).toNat with
  | 0 => ifZero (fD w == 1#7 && fA w == 0#7 && fB w == 0#7) (.nop r)
  | 1 => ifZero (fD w == 0#7 && fB w == 0#7) (.trap r (fA w))
  | 2 => ifZero (fD w == 0#7 && fB w == 0#7) (.brk r (fA w))
  | 3 => ifZero (fD w == 0#7 && fA w == 0#7 && fB w == 0#7) (.xret r)
  | 4 => ifZero (fA w == 0#7) (.mvfs r (fD w) (fB w))
  | 5 => ifZero (fD w == 0#7) (.mvts r (fA w) (fB w))
  | 6 => some (.ptab r (fD w) (fA w) (fB w))
  | 7 => ifZero (fD w == 0#7 && fB w == 0#7) (.waitcy r (fA w))
  | 8 => ifZero (fA w == 0#7 && fB w == 0#7) (.time r (fD w))
  | 9 => ifZero (fD w == 0#7) (.icinv r (fA w) (fB w))
  | 10 => ifZero (fD w == 0#7 && fA w == 0#7 && fB w == 0#7) (.stop r)
  | 11 => some (.vrget r (fD w) (fA w) (fB w))
  | 12 => some (.vrset r (fD w) (fA w) (fB w))
  | 13 => ifZero (fB w == 0#7) (.sfq r (fD w) (fA w))
  | 14 => ifZero (fD w == 0#7 && fB w == 0#7) (.killc r (fA w))
  | 15 => some (.dumpc r (fD w) (fA w) (fB w))
  | _ => none

/-- Major 1, BRA (R70). -/
def decodeBra (r : Run) (w : W32) : Option Instr :=
  match (fCond w).toNat with
  | 0 => ifZero (fReg w == 0#4) (.b r (fOff w))
  | 1 => ifZero (fReg w == 0#4) (.call r (fOff w))
  | 2 => some (.bz r (fReg w) (fOff w))
  | 3 => some (.bnz r (fReg w) (fOff w))
  | 4 => some (.bneg r (fReg w) (fOff w))
  | 5 => some (.bany r (fReg w) (fOff w))
  | 6 => some (.ball r (fReg w) (fOff w))
  | 7 => some (.bdiv r (fReg w) (fOff w))
  | _ => none

/-- Major 2, CTL (R70). -/
def decodeCtl (r : Run) (w : W32) : Option Instr :=
  match (fFn w).toNat with
  | 0 => ifZero (fA w == 0#7 && fB w == 0#7) (.join r (fD w))
  | 1 => ifZero (fA w == 0#7 && fB w == 0#7) (.fuse r (fD w))
  | 2 => ifZero (fA w == 0#7 && fB w == 0#7) (.splitctl r (fD w))
  | 3 => ifZero (fD w == 0#7 && fA w == 0#7 && fB w == 0#7) (.exit r)
  | 4 => ifZero (fD w == 0#7 && fA w == 0#7 && fB w == 0#7) (.ret r)
  | 5 => ifZero (fD w == 0#7 && fB w == 0#7) (.jr r (fA w))
  | 6 => ifZero (fA w == 0#7 && fB w == 0#7) (.vxopen r (fD w))
  | 7 => ifZero (fD w == 0#7 && fA w == 0#7 && fB w == 0#7) (.vxclose r)
  | 8 => ifZero (fA w == 0#7 && fB w == 0#7) (.exmget r (fD w))
  | 9 => ifZero (fD w == 0#7 && fB w == 0#7) (.exmset r (fA w))
  | 10 => ifZero (fA w == 0#7 && fB w == 0#7) (.mkff r (fD w))
  | 11 => ifZero (fD w == 0#7 && fA w == 0#7 && fB w == 0#7) (.yield r)
  | _ => none

/-- Major 3, SALU (R70). -/
def decodeSalu (r : Run) (w : W32) : Option Instr :=
  match (fFn w).toNat with
  | 0 => some (.sadd r (fD w) (fA w) (fB w))
  | 1 => some (.ssub r (fD w) (fA w) (fB w))
  | 2 => some (.smul r (fD w) (fA w) (fB w))
  | 3 => some (.smulh r (fD w) (fA w) (fB w))
  | 4 => some (.sand r (fD w) (fA w) (fB w))
  | 5 => some (.sor r (fD w) (fA w) (fB w))
  | 6 => some (.sxor r (fD w) (fA w) (fB w))
  | 7 => some (.sshl r (fD w) (fA w) (fB w))
  | 8 => some (.sshr r (fD w) (fA w) (fB w))
  | 9 => some (.ssar r (fD w) (fA w) (fB w))
  | 10 => some (.smin r (fD w) (fA w) (fB w))
  | 11 => some (.smax r (fD w) (fA w) (fB w))
  | 12 => some (.sminn r (fD w) (fA w) (fB w))
  | 13 => some (.smaxn r (fD w) (fA w) (fB w))
  | 14 => some (.sslt r (fD w) (fA w) (fB w))
  | 15 => some (.ssltn r (fD w) (fA w) (fB w))
  | _ => none

/-- Major 4, SALI (R70). -/
def decodeSali (r : Run) (w : W32) : Option Instr :=
  match (fFn w).toNat with
  | 0 => some (.saddi r (fD w) (fA w) (fB w))
  | 1 => some (.sandi r (fD w) (fA w) (fB w))
  | 2 => some (.sori r (fD w) (fA w) (fB w))
  | 3 => some (.sxori r (fD w) (fA w) (fB w))
  | 4 => some (.sshli r (fD w) (fA w) (fB w))
  | 5 => some (.sshri r (fD w) (fA w) (fB w))
  | 6 => some (.ssari r (fD w) (fA w) (fB w))
  | 7 => some (.sslti r (fD w) (fA w) (fB w))
  | 8 => ifZero (fB w == 0#7) (.sclz r (fD w) (fA w))
  | 9 => ifZero (fB w == 0#7) (.spopc r (fD w) (fA w))
  | 10 => ifZero (fB w == 0#7) (.sbfx r (fD w) (fA w))
  | 11 => ifZero (fB w == 0#7) (.smov r (fD w) (fA w))
  | _ => none

/-- Major 5, SMEM (R70). -/
def decodeSmem (r : Run) (w : W32) : Option Instr :=
  match (fFn w).toNat with
  | 0 => some (.sld64 r (fD w) (fA w) (fB w))
  | 1 => some (.sld32 r (fD w) (fA w) (fB w))
  | 2 => some (.sst64 r (fD w) (fA w) (fB w))
  | 3 => some (.sst32 r (fD w) (fA w) (fB w))
  | _ => none

/-- Major 6, SLI (R70). -/
def decodeSli (r : Run) (w : W32) : Option Instr :=
  some (.sli r (fD w) (fSlot w) (fImm16 w))

/-- Major 7, VINT (R70). -/
def decodeVint (r : Run) (w : W32) : Option Instr :=
  match (fFn w).toNat with
  | 0 => some (.vadd r (fD w) (fA w) (fB w))
  | 1 => some (.vsub r (fD w) (fA w) (fB w))
  | 2 => some (.vmul r (fD w) (fA w) (fB w))
  | 3 => some (.vmulh r (fD w) (fA w) (fB w))
  | 4 => some (.vmulhn r (fD w) (fA w) (fB w))
  | 5 => some (.vand r (fD w) (fA w) (fB w))
  | 6 => some (.vor r (fD w) (fA w) (fB w))
  | 7 => some (.vxor r (fD w) (fA w) (fB w))
  | 8 => some (.vshl r (fD w) (fA w) (fB w))
  | 9 => some (.vshr r (fD w) (fA w) (fB w))
  | 10 => some (.vsar r (fD w) (fA w) (fB w))
  | 11 => some (.vmin r (fD w) (fA w) (fB w))
  | 12 => some (.vmax r (fD w) (fA w) (fB w))
  | 13 => some (.vminn r (fD w) (fA w) (fB w))
  | 14 => some (.vmaxn r (fD w) (fA w) (fB w))
  | 15 => some (.vsel r (fD w) (fA w) (fB w))
  | _ => none

/-- Major 8, VINT2 (R70). -/
def decodeVint2 (r : Run) (w : W32) : Option Instr :=
  match (fFn w).toNat with
  | 0 => some (.vmad r (fD w) (fA w) (fB w))
  | 1 => ifZero (fB w == 0#7) (.vabs r (fD w) (fA w))
  | 2 => ifZero (fB w == 0#7) (.vneg r (fD w) (fA w))
  | 3 => ifZero (fB w == 0#7) (.vnot r (fD w) (fA w))
  | 4 => ifZero (fB w == 0#7) (.vclz r (fD w) (fA w))
  | 5 => ifZero (fB w == 0#7) (.vpopc r (fD w) (fA w))
  | 6 => ifZero (fB w == 0#7) (.vbfx r (fD w) (fA w))
  | 7 => ifZero (fB w == 0#7) (.vbfi r (fD w) (fA w))
  | 8 => ifZero (fB w == 0#7) (.vbcst r (fD w) (fA w))
  | 9 => ifZero (fA w == 0#7 && fB w == 0#7) (.vlane r (fD w))
  | 10 => ifZero (fB w == 0#7) (.vmov r (fD w) (fA w))
  | 11 => some (.vadds r (fD w) (fA w) (fB w))
  | 12 => some (.vsubs r (fD w) (fA w) (fB w))
  | 13 => ifZero (fB w == 0#7) (.vquad r (fD w) (fA w))
  | 14 => ifZero (fB w == 0#7) (.vbrev r (fD w) (fA w))
  | _ => none

/-- Major 9, VINI (R70). -/
def decodeVini (r : Run) (w : W32) : Option Instr :=
  match (fFn w).toNat with
  | 0 => some (.vaddi r (fD w) (fA w) (fB w))
  | 1 => some (.vandi r (fD w) (fA w) (fB w))
  | 2 => some (.vori r (fD w) (fA w) (fB w))
  | 3 => some (.vxori r (fD w) (fA w) (fB w))
  | 4 => some (.vshli r (fD w) (fA w) (fB w))
  | 5 => some (.vshri r (fD w) (fA w) (fB w))
  | 6 => some (.vsari r (fD w) (fA w) (fB w))
  | 7 => some (.vmuli r (fD w) (fA w) (fB w))
  | _ => none

/-- Major 10, VF32 (R70). -/
def decodeVf32 (r : Run) (w : W32) : Option Instr :=
  match (fFn w).toNat with
  | 0 => some (.fadd r (fD w) (fA w) (fB w))
  | 1 => some (.fsub r (fD w) (fA w) (fB w))
  | 2 => some (.fmul r (fD w) (fA w) (fB w))
  | 3 => some (.ffma r (fD w) (fA w) (fB w))
  | 4 => some (.ffms r (fD w) (fA w) (fB w))
  | 5 => some (.fnma r (fD w) (fA w) (fB w))
  | 6 => some (.fmin r (fD w) (fA w) (fB w))
  | 7 => some (.fmax r (fD w) (fA w) (fB w))
  | 8 => ifZero (fB w == 0#7) (.fabs r (fD w) (fA w))
  | 9 => ifZero (fB w == 0#7) (.fneg r (fD w) (fA w))
  | 10 => some (.fcps r (fD w) (fA w) (fB w))
  | 11 => ifZero (fB w == 0#7) (.frnd r (fD w) (fA w))
  | 12 => ifZero (fB w == 0#7) (.ffrc r (fD w) (fA w))
  | 13 => some (.fscl r (fD w) (fA w) (fB w))
  | 14 => ifZero (fB w == 0#7) (.fexn r (fD w) (fA w))
  | _ => none

/-- Major 11, VF32X (R70). -/
def decodeVf32x (r : Run) (w : W32) : Option Instr :=
  match (fFn w).toNat with
  | 0 => ifZero (fB w == 0#7) (.frcp r (fD w) (fA w))
  | 1 => ifZero (fB w == 0#7) (.frsq r (fD w) (fA w))
  | 2 => ifZero (fB w == 0#7) (.fsqrt r (fD w) (fA w))
  | 3 => some (.fdiv r (fD w) (fA w) (fB w))
  | 4 => ifZero (fB w == 0#7) (.fexp2 r (fD w) (fA w))
  | 5 => ifZero (fB w == 0#7) (.flog2 r (fD w) (fA w))
  | 6 => ifZero (fB w == 0#7) (.fsin r (fD w) (fA w))
  | 7 => ifZero (fB w == 0#7) (.fcos r (fD w) (fA w))
  | 8 => ifZero (fB w == 0#7) (.ftanh r (fD w) (fA w))
  | 9 => ifZero (fB w == 0#7) (.fcls r (fD w) (fA w))
  | _ => none

/-- Major 12, VF16 (R70). -/
def decodeVf16 (r : Run) (w : W32) : Option Instr :=
  match (fFn w).toNat with
  | 0 => some (.hadd r (fD w) (fA w) (fB w))
  | 1 => some (.hmul r (fD w) (fA w) (fB w))
  | 2 => some (.hfma r (fD w) (fA w) (fB w))
  | 3 => some (.badd r (fD w) (fA w) (fB w))
  | 4 => some (.bmul r (fD w) (fA w) (fB w))
  | 5 => some (.bfma r (fD w) (fA w) (fB w))
  | 6 => some (.hdot r (fD w) (fA w) (fB w))
  | 7 => some (.bdot r (fD w) (fA w) (fB w))
  | _ => none

/-- Major 13, VCVT (R70). -/
def decodeVcvt (r : Run) (w : W32) : Option Instr :=
  match (fFn w).toNat with
  | 0 => ifZero (fB w == 0#7) (.cvtF32S32 r (fD w) (fA w))
  | 1 => ifZero (fB w == 0#7) (.cvtF32N32 r (fD w) (fA w))
  | 2 => ifZero (fB w == 0#7) (.cvtS32F32 r (fD w) (fA w))
  | 3 => ifZero (fB w == 0#7) (.cvtN32F32 r (fD w) (fA w))
  | 4 => some (.cvtF16x2 r (fD w) (fA w) (fB w))
  | 5 => some (.cvtBf16x2 r (fD w) (fA w) (fB w))
  | 6 => some (.cvtF32F16 r (fD w) (fA w) (fB w))
  | 7 => some (.cvtF32Bf16 r (fD w) (fA w) (fB w))
  | 8 => some (.cvtF8e4 r (fD w) (fA w) (fB w))
  | 9 => some (.cvtF8e5 r (fD w) (fA w) (fB w))
  | 10 => some (.cvtF32F8 r (fD w) (fA w) (fB w))
  | 11 => ifZero (fB w == 0#7) (.plane r (fD w) (fA w))
  | 12 => ifZero (fB w == 0#7) (.unplane r (fD w) (fA w))
  | 13 => some (.cvtS8 r (fD w) (fA w) (fB w))
  | 14 => some (.cvtS32S8 r (fD w) (fA w) (fB w))
  | _ => none

/-- Major 14, VXL (R70). -/
def decodeVxl (r : Run) (w : W32) : Option Instr :=
  match (fFn w).toNat with
  | 0 => ifZero (fF w == 0#4) (.vshfl r (fD w) (fA w) (fWc w))
  | 1 => some (.vshfx r (fD w) (fA w) (fWc w) (fF w))
  | 2 => some (.vshup r (fD w) (fA w) (fWc w) (fF w))
  | 3 => some (.vshdn r (fD w) (fA w) (fWc w) (fF w))
  | 4 => ifZero (fF w == 0#4) (.vredAddS32 r (fD w) (fA w) (fWc w))
  | 5 => ifZero (fF w == 0#4) (.vredAddF32 r (fD w) (fA w) (fWc w))
  | 6 => some (.vredMin r (fD w) (fA w) (fWc w) (fF w))
  | 7 => some (.vredMax r (fD w) (fA w) (fWc w) (fF w))
  | 8 => ifZero ((bitsAt w 5 3 : BitVec 3) == 0#3) (.vscanAddS32 r (fD w) (fA w) (fWc w) (fE w))
  | 9 => ifZero ((bitsAt w 5 3 : BitVec 3) == 0#3) (.vscanAddF32 r (fD w) (fA w) (fWc w) (fE w))
  | 10 => some (.vvote r (fD w) (fA w) (fWc w) (fF w))
  | 11 => ifZero (fF w == 0#4) (.vfirst r (fD w) (fA w) (fWc w))
  | 12 => some (.vreadl r (fD w) (fA w) (fWc w) (fF w))
  | 13 => some (.vwritel r (fD w) (fA w) (fWc w) (fF w))
  | 14 => some (.vmatch r (fD w) (fA w) (fWc w) (fF w))
  | _ => none

/-- Major 15, MASK (R70). -/
def decodeMask (r : Run) (w : W32) : Option Instr :=
  match (fFn w).toNat with
  | 0 => some (.cmpeq r (fD w) (fA w) (fB w))
  | 1 => some (.cmpne r (fD w) (fA w) (fB w))
  | 2 => some (.cmplt r (fD w) (fA w) (fB w))
  | 3 => some (.cmple r (fD w) (fA w) (fB w))
  | 4 => some (.cmpltn r (fD w) (fA w) (fB w))
  | 5 => some (.cmplen r (fD w) (fA w) (fB w))
  | 6 => some (.fcmpeq r (fD w) (fA w) (fB w))
  | 7 => some (.fcmplt r (fD w) (fA w) (fB w))
  | 8 => some (.fcmple r (fD w) (fA w) (fB w))
  | 9 => some (.fcmpun r (fD w) (fA w) (fB w))
  | 10 => some (.mkand r (fD w) (fA w) (fB w))
  | 11 => some (.mkor r (fD w) (fA w) (fB w))
  | 12 => some (.mkxor r (fD w) (fA w) (fB w))
  | 13 => some (.mkandn r (fD w) (fA w) (fB w))
  | 14 => ifZero (fB w == 0#7) (.mkpop r (fD w) (fA w))
  | 15 => ifZero (fB w == 0#7) (.mkmov r (fD w) (fA w))
  | _ => none

/-- Major 16, VMEM (R70). -/
def decodeVmem (r : Run) (w : W32) : Option Instr :=
  match (fFn w).toNat with
  | 0 => some (.ldB r (fD w) (fA w) (fB w))
  | 1 => some (.ldBs r (fD w) (fA w) (fB w))
  | 2 => some (.ldH r (fD w) (fA w) (fB w))
  | 3 => some (.ldHs r (fD w) (fA w) (fB w))
  | 4 => some (.ldW r (fD w) (fA w) (fB w))
  | 5 => some (.ldD r (fD w) (fA w) (fB w))
  | 6 => some (.ldQ r (fD w) (fA w) (fB w))
  | 7 => some (.ldnW r (fD w) (fA w) (fB w))
  | 8 => some (.stB r (fD w) (fA w) (fB w))
  | 9 => some (.stH r (fD w) (fA w) (fB w))
  | 10 => some (.stW r (fD w) (fA w) (fB w))
  | 11 => some (.stD r (fD w) (fA w) (fB w))
  | 12 => some (.stQ r (fD w) (fA w) (fB w))
  | 13 => ifZero (fD w == 0#7) (.pref r (fA w) (fB w))
  | 14 => some (.ldnD r (fD w) (fA w) (fB w))
  | _ => none

/-- Major 17, SPAD (R70). -/
def decodeSpad (r : Run) (w : W32) : Option Instr :=
  match (fFn w).toNat with
  | 0 => some (.ldsW r (fD w) (fA w) (fB w))
  | 1 => some (.ldsD r (fD w) (fA w) (fB w))
  | 2 => some (.ldsQ r (fD w) (fA w) (fB w))
  | 3 => some (.stsW r (fD w) (fA w) (fB w))
  | 4 => some (.stsD r (fD w) (fA w) (fB w))
  | 5 => some (.stsQ r (fD w) (fA w) (fB w))
  | 6 => some (.vspill r (fD w) (fA w) (fB w))
  | 7 => some (.vfill r (fD w) (fA w) (fB w))
  | 8 => some (.ldsp r (fD w) (fA w) (fB w))
  | 9 => some (.stsp r (fD w) (fA w) (fB w))
  | _ => none

/-- Major 18, ATOM (R70). -/
def decodeAtom (r : Run) (w : W32) : Option Instr :=
  match (fFn w).toNat with
  | 0 => some (.aadd r (fD w) (fA w) (fB w))
  | 1 => some (.aand r (fD w) (fA w) (fB w))
  | 2 => some (.aor r (fD w) (fA w) (fB w))
  | 3 => some (.axor r (fD w) (fA w) (fB w))
  | 4 => some (.amin r (fD w) (fA w) (fB w))
  | 5 => some (.amax r (fD w) (fA w) (fB w))
  | 6 => some (.aminn r (fD w) (fA w) (fB w))
  | 7 => some (.amaxn r (fD w) (fA w) (fB w))
  | 8 => some (.axch r (fD w) (fA w) (fB w))
  | 9 => some (.acas r (fD w) (fA w) (fB w))
  | 10 => some (.aaddf r (fD w) (fA w) (fB w))
  | 11 => some (.aincw r (fD w) (fA w) (fB w))
  | 12 => some (.ald r (fD w) (fA w) (fB w))
  | 13 => some (.ast r (fD w) (fA w) (fB w))
  | _ => none

/-- Major 19, SYNC (R70). -/
def decodeSync (r : Run) (w : W32) : Option Instr :=
  match (fFn w).toNat with
  | 0 => ifZero (fD w == 0#7 && fB w == 0#7) (.fence r (fA w))
  | 1 => if (fD w).toNat < 16 then some (.trkset r (fD w) (fA w) (fB w))
         else ifZero (fB w == 0#7) (.trksetH r (fD w) (fA w))
  | 2 => ifZero (fA w == 0#7 && fB w == 0#7) (.trkclr r (fD w))
  | 3 => ifZero (fD w == 0#7 && fA w == 0#7 && fB w == 0#7) (.drainst r)
  | 4 => some (.waita r (fD w) (fA w) (fB w))
  | 5 => ifZero (fD w == 0#7) (.bardef r (fA w) (fB w))
  | 6 => ifZero (fB w == 0#7) (.bararr r (fD w) (fA w))
  | 7 => ifZero (fD w == 0#7) (.barwait r (fA w) (fB w))
  | 8 => ifZero (fB w == 0#7) (.barc r (fD w) (fA w))
  | 9 => ifZero (fD w == 0#7 && fB w == 0#7) (.barinv r (fA w))
  | _ => none

/-- Major 20, COPY (R70). -/
noncomputable def decodeCopy (r : Run) (w : W32) : Option Instr :=
  match (fFn w).toNat with
  | 0 => some (.cpyl r (fD w) (fA w) (fB w))
  | 1 => ifZero (fD w == 0#7 && fB w == 0#7) (.cpyt r (fA w))
  | 2 => ifZero (fD w == 0#7 && fB w == 0#7) (.cpyr r (fA w))
  | 3 => some (.bufdef r (fD w) (fA w) (fB w))
  | 4 => ifZero (fA w == 0#7) (.bufwait r (fD w) (fB w))
  | 5 => ifZero (fA w == 0#7) (.bufrel r (fD w) (fB w))
  | 6 => ifZero (fB w == 0#7) (.bufstat r (fD w) (fA w))
  | 7 => ifZero (fB w == 0#7) (.qpop r (fD w) (fA w))
  | 8 => ifZero (fB w == 0#7) (.qpeek r (fD w) (fA w))
  | _ => none

/-- Major 21, ACCS (R70). -/
noncomputable def decodeAccs (r : Run) (w : W32) : Option Instr :=
  match (fFn w).toNat with
  | 0 => ifZero (fB w == 0#7) (.aloop r (fD w) (fA w))
  | 1 => ifZero (fA w == 0#7 && fB w == 0#7) (.aend r (fD w))
  | 2 => some (.astrm r (fD w) (fA w) (fB w))
  | 3 => some (.acpy r (fD w) (fA w) (fB w))
  | 4 => ifZero (fD w == 0#7) (.asig r (fA w) (fB w))
  | 5 => ifZero (fD w == 0#7 && fA w == 0#7 && fB w == 0#7) (.ahalt r)
  | 6 => ifZero (fD w == 0#7 && fB w == 0#7) (.astart r (fA w))
  | 7 => ifZero (fA w == 0#7 && fB w == 0#7) (.astat r (fD w))
  | _ => none

/-- Major 22, MATX (R70). -/
noncomputable def decodeMatx (r : Run) (w : W32) : Option Instr :=
  match (fFn w).toNat with
  | 0 => ifZero (fD w == 0#7) (.mwld r (fA w) (fB w))
  | 1 => if fA w == 0#7 && r.srcq then some (.mstrQueue r (fD w) (fB w))
         else some (.mstr r (fD w) (fA w) (fB w))
  | 2 => some (.mrdo r (fD w) (fA w) (fB w))
  | 3 => ifZero (fA w == 0#7 && fB w == 0#7) (.mzero r (fD w))
  | 4 => some (.macsv r (fD w) (fA w) (fB w))
  | 5 => some (.macld r (fD w) (fA w) (fB w))
  | 6 => ifZero (fA w == 0#7) (.mstat r (fD w) (fB w))
  | _ => none

/-- Major 23, RAY (R70). -/
noncomputable def decodeRay (r : Run) (w : W32) : Option Instr :=
  match (fFn w).toNat with
  | 0 => some (.trace r (fD w) (fA w) (fB w))
  | 1 => some (.hitget r (fD w) (fA w) (fB w))
  | 2 => ifZero (fD w == 0#7 && fA w == 0#7 && fB w == 0#7) (.ahacc r)
  | 3 => ifZero (fD w == 0#7 && fA w == 0#7 && fB w == 0#7) (.ahrej r)
  | 4 => ifZero (fA w == 0#7 && fB w == 0#7) (.contend r (fD w))
  | 5 => ifZero (fA w == 0#7) (.contget r (fD w) (fB w))
  | 6 => ifZero (fD w == 0#7 && fB w == 0#7) (.lntinv r (fA w))
  | 7 => ifZero (fD w == 0#7) (.ishit r (fA w) (fB w))
  | _ => none

/-- Major 24, GFX (R70). -/
noncomputable def decodeGfx (r : Run) (w : W32) : Option Instr :=
  match (fFn w).toNat with
  | 0 => some (.rast r (fD w) (fA w) (fB w))
  | 1 => some (.rprj r (fD w) (fA w) (fB w))
  | 2 => some (.tex r (fD w) (fA w) (fB w))
  | 3 => some (.texl r (fD w) (fA w) (fB w))
  | _ => none

/-- Major 25, LNCH (R70). -/
noncomputable def decodeLnch (r : Run) (w : W32) : Option Instr :=
  match (fFn w).toNat with
  | 0 => some (.lnch r (fD w) (fA w) (fB w))
  | 1 => ifZero (fD w == 0#7) (.evset r (fA w) (fB w))
  | 2 => ifZero (fD w == 0#7) (.evclr r (fA w) (fB w))
  | 3 => ifZero (fD w == 0#7) (.ember r (fA w) (fB w))
  | 4 => ifZero (fD w == 0#7) (.grist r (fA w) (fB w))
  | _ => none

/-- The instruction of a word that stands behind the hints of `r`, or none where R71 lists no instruction. -/
noncomputable def decodeWord (hints : List Hint) (w : W32) : Option Instr :=
  let r : Run := { hints := hints, stl := fStl w }
  match (fMaj w).toNat with
  | 0 => decodeSys r w
  | 1 => decodeBra r w
  | 2 => decodeCtl r w
  | 3 => decodeSalu r w
  | 4 => decodeSali r w
  | 5 => decodeSmem r w
  | 6 => decodeSli r w
  | 7 => decodeVint r w
  | 8 => decodeVint2 r w
  | 9 => decodeVini r w
  | 10 => decodeVf32 r w
  | 11 => decodeVf32x r w
  | 12 => decodeVf16 r w
  | 13 => decodeVcvt r w
  | 14 => decodeVxl r w
  | 15 => decodeMask r w
  | 16 => decodeVmem r w
  | 17 => decodeSpad r w
  | 18 => decodeAtom r w
  | 19 => decodeSync r w
  | 20 => decodeCopy r w
  | 21 => decodeAccs r w
  | 22 => decodeMatx r w
  | 23 => decodeRay r w
  | 24 => decodeGfx r w
  | 25 => decodeLnch r w
  | _ => none

/-! ### Units: a hint run and its instruction (R63, R69, R72) -/

/-- Whether a MOD payload holds a value that the table of R65 marks as misuse. -/
def modMisuse (p : BitVec 24) : Bool :=
  (p.extractLsb' 21 3 != 0#3) || (!p.getLsbD 20 && p.extractLsb' 6 4 != 0#4) || (p.extractLsb' 10 2 == 3#2)
    || BitVec.ule 6#3 (p.extractLsb' 3 3) || BitVec.ule 4#3 (p.extractLsb' 0 3)

/-- Whether a hint has a non-zero reserved payload bit, or a misuse value (R62, R63, R65). -/
def hintMisuse (h : Hint) : Bool :=
  match h.kind.toNat with
  | 1 => h.payload.extractLsb' 6 18 != 0#18
  | 2 => modMisuse h.payload
  | 3 => h.payload.extractLsb' 7 17 != 0#17
  | 4 => h.payload.extractLsb' 4 20 != 0#20
  | _ => false

/-- How many hints of a run may share this hint's kind: two IMM24 hints, one of every other kind (R63). -/
def kindLimit (h : Hint) : Nat := if h.kind.toNat = 0 then 2 else 1

/-- The first hint of a run that repeats its kind too often, or carries a misuse value (R63), with the hints before
it. -/
def misuseAt (before : List Hint) : List Hint → Option Hint
  | [] => none
  | h :: t =>
    if kindLimit h ≤ (before.filter (fun g => g.kind == h.kind)).length || hintMisuse h then some h
    else misuseAt (h :: before) t

/-- Steps 1 and 2 of R72: the kinds of the run, then its length, its duplicates and its misuse values. -/
def rejectRun (hs : List Hint) : Option Reject :=
  match hs.find? (fun h => 6 ≤ h.kind.toNat) with
  | some h => some { cause := 0x01, step := 1, word := encodeHint h }
  | none =>
    match hs.drop 3 with
    | h :: _ => some { cause := 0x0E, step := 2, word := encodeHint h }
    | [] =>
      match misuseAt [] hs with
      | some h => some { cause := 0x0E, step := 2, word := encodeHint h }
      | none => none

/-- The instruction of a unit: a hint run and the word it falls through to. A unit that fails step 1 or 2 of R72, or
whose word R70 does not list, is the step ILLEGAL_INSTRUCTION with the reason (R71). -/
noncomputable def decodeUnit (hs : List Hint) (w : W32) : Instr :=
  match rejectRun hs with
  | some e => .illegalInstruction { hints := hs, stl := fStl w } e
  | none =>
    match decodeWord hs w with
    | some i => i
    | none => .illegalInstruction { hints := hs, stl := fStl w } { cause := 0x01, step := 3, word := w }

/-- The word that four bytes in memory order hold (R2, R54). -/
def wordOfBytes (b0 b1 b2 b3 : Byte) : W32 :=
  BitVec.ofNat 32 (b0.toNat + 2 ^ 8 * b1.toNat + 2 ^ 16 * b2.toNat + 2 ^ 24 * b3.toNat)

/-- Decoding of a unit's bytes: every leading HINT word joins the run, and the first other word ends the unit.
Answers the instruction and the bytes after it; none when the bytes end first. -/
noncomputable def decodeBytes (hs : List Hint) : List Byte → Option (Instr × List Byte)
  | b0 :: b1 :: b2 :: b3 :: t =>
    let w := wordOfBytes b0 b1 b2 b3
    if isHint w then decodeBytes (hs ++ [decodeHint w]) t else some (decodeUnit hs w, t)
  | _ => none

/-- The four bytes of a word in memory order (R2). -/
def bytesOfWord (w : W32) : List Byte :=
  [BitVec.ofNat 8 w.toNat, BitVec.ofNat 8 (w.toNat / 2 ^ 8), BitVec.ofNat 8 (w.toNat / 2 ^ 16),
   BitVec.ofNat 8 (w.toNat / 2 ^ 24)]

/-- The decoder's reading of a row's word, laid out in memory order; none where the decoder refuses it. -/
noncomputable def decodeTableWord (nbits w : Nat) : Option Instr :=
  match decodeBytes [] (bytesOfWord (BitVec.ofNat 32 (w % 2 ^ nbits))) with
  | some (.illegalInstruction _ _, _) => none
  | some (i, _) => some i
  | none => none

/-! ### Encoding -/

/-- A word of the RRR, RRI and MEM formats (R55). -/
def wRRR (maj : Nat) (r : Run) (d a b : BitVec 7) (fn : Nat) : W32 :=
  BitVec.ofNat 32 (maj * 2 ^ 27 + r.stl.toNat * 2 ^ 25 + d.toNat * 2 ^ 18 + a.toNat * 2 ^ 11 + b.toNat * 2 ^ 4 + fn)

/-- A word of the BR format (R55). -/
def wBR (r : Run) (cond : Nat) (reg : BitVec 4) (o : BitVec 18) : W32 :=
  BitVec.ofNat 32 (1 * 2 ^ 27 + r.stl.toNat * 2 ^ 25 + cond * 2 ^ 22 + reg.toNat * 2 ^ 18 + o.toNat)

/-- A word of the LI format (R55). -/
def wLI (r : Run) (d : BitVec 7) (l : BitVec 2) (i : BitVec 16) : W32 :=
  BitVec.ofNat 32 (6 * 2 ^ 27 + r.stl.toNat * 2 ^ 25 + d.toNat * 2 ^ 18 + l.toNat * 2 ^ 16 + i.toNat)

/-- A word of VXL, with its width code and its operand field (R70, R147). -/
def wVXL (r : Run) (d a : BitVec 7) (wc : BitVec 3) (f : Nat) (fn : Nat) : W32 :=
  BitVec.ofNat 32
    (14 * 2 ^ 27 + r.stl.toNat * 2 ^ 25 + d.toNat * 2 ^ 18 + a.toNat * 2 ^ 11 + wc.toNat * 2 ^ 8 + f * 2 ^ 4 + fn)

/-- The word of an instruction, written from the encodings of R54 to R62 and of each major's rule; none for a step
that no word encodes. -/
def encodeWord : Instr → Option W32
  | .nop r => some (wRRR 0 r 1#7 0#7 0#7 0)
  | .trap r n => some (wRRR 0 r 0#7 n 0#7 1)
  | .brk r n => some (wRRR 0 r 0#7 n 0#7 2)
  | .xret r => some (wRRR 0 r 0#7 0#7 0#7 3)
  | .mvfs r d n => some (wRRR 0 r d 0#7 n 4)
  | .mvts r a n => some (wRRR 0 r 0#7 a n 5)
  | .ptab r d a k => some (wRRR 0 r d a k 6)
  | .waitcy r a => some (wRRR 0 r 0#7 a 0#7 7)
  | .time r d => some (wRRR 0 r d 0#7 0#7 8)
  | .icinv r a b => some (wRRR 0 r 0#7 a b 9)
  | .stop r => some (wRRR 0 r 0#7 0#7 0#7 10)
  | .vrget r d a b => some (wRRR 0 r d a b 11)
  | .vrset r d a b => some (wRRR 0 r d a b 12)
  | .sfq r d a => some (wRRR 0 r d a 0#7 13)
  | .killc r a => some (wRRR 0 r 0#7 a 0#7 14)
  | .dumpc r d a b => some (wRRR 0 r d a b 15)
  | .b r o => some (wBR r 0 0#4 o)
  | .call r o => some (wBR r 1 0#4 o)
  | .bz r reg o => some (wBR r 2 reg o)
  | .bnz r reg o => some (wBR r 3 reg o)
  | .bneg r reg o => some (wBR r 4 reg o)
  | .bany r reg o => some (wBR r 5 reg o)
  | .ball r reg o => some (wBR r 6 reg o)
  | .bdiv r reg o => some (wBR r 7 reg o)
  | .join r j => some (wRRR 2 r j 0#7 0#7 0)
  | .fuse r w => some (wRRR 2 r w 0#7 0#7 1)
  | .splitctl r f => some (wRRR 2 r f 0#7 0#7 2)
  | .exit r => some (wRRR 2 r 0#7 0#7 0#7 3)
  | .ret r => some (wRRR 2 r 0#7 0#7 0#7 4)
  | .jr r a => some (wRRR 2 r 0#7 a 0#7 5)
  | .vxopen r e => some (wRRR 2 r e 0#7 0#7 6)
  | .vxclose r => some (wRRR 2 r 0#7 0#7 0#7 7)
  | .exmget r d => some (wRRR 2 r d 0#7 0#7 8)
  | .exmset r a => some (wRRR 2 r 0#7 a 0#7 9)
  | .mkff r d => some (wRRR 2 r d 0#7 0#7 10)
  | .yield r => some (wRRR 2 r 0#7 0#7 0#7 11)
  | .sadd r d a b => some (wRRR 3 r d a b 0)
  | .ssub r d a b => some (wRRR 3 r d a b 1)
  | .smul r d a b => some (wRRR 3 r d a b 2)
  | .smulh r d a b => some (wRRR 3 r d a b 3)
  | .sand r d a b => some (wRRR 3 r d a b 4)
  | .sor r d a b => some (wRRR 3 r d a b 5)
  | .sxor r d a b => some (wRRR 3 r d a b 6)
  | .sshl r d a b => some (wRRR 3 r d a b 7)
  | .sshr r d a b => some (wRRR 3 r d a b 8)
  | .ssar r d a b => some (wRRR 3 r d a b 9)
  | .smin r d a b => some (wRRR 3 r d a b 10)
  | .smax r d a b => some (wRRR 3 r d a b 11)
  | .sminn r d a b => some (wRRR 3 r d a b 12)
  | .smaxn r d a b => some (wRRR 3 r d a b 13)
  | .sslt r d a b => some (wRRR 3 r d a b 14)
  | .ssltn r d a b => some (wRRR 3 r d a b 15)
  | .saddi r d a i => some (wRRR 4 r d a i 0)
  | .sandi r d a i => some (wRRR 4 r d a i 1)
  | .sori r d a i => some (wRRR 4 r d a i 2)
  | .sxori r d a i => some (wRRR 4 r d a i 3)
  | .sshli r d a i => some (wRRR 4 r d a i 4)
  | .sshri r d a i => some (wRRR 4 r d a i 5)
  | .ssari r d a i => some (wRRR 4 r d a i 6)
  | .sslti r d a i => some (wRRR 4 r d a i 7)
  | .sclz r d a => some (wRRR 4 r d a 0#7 8)
  | .spopc r d a => some (wRRR 4 r d a 0#7 9)
  | .sbfx r d a => some (wRRR 4 r d a 0#7 10)
  | .smov r d a => some (wRRR 4 r d a 0#7 11)
  | .sld64 r d a b => some (wRRR 5 r d a b 0)
  | .sld32 r d a b => some (wRRR 5 r d a b 1)
  | .sst64 r d a b => some (wRRR 5 r d a b 2)
  | .sst32 r d a b => some (wRRR 5 r d a b 3)
  | .sli r d l i => some (wLI r d l i)
  | .vadd r d a b => some (wRRR 7 r d a b 0)
  | .vsub r d a b => some (wRRR 7 r d a b 1)
  | .vmul r d a b => some (wRRR 7 r d a b 2)
  | .vmulh r d a b => some (wRRR 7 r d a b 3)
  | .vmulhn r d a b => some (wRRR 7 r d a b 4)
  | .vand r d a b => some (wRRR 7 r d a b 5)
  | .vor r d a b => some (wRRR 7 r d a b 6)
  | .vxor r d a b => some (wRRR 7 r d a b 7)
  | .vshl r d a b => some (wRRR 7 r d a b 8)
  | .vshr r d a b => some (wRRR 7 r d a b 9)
  | .vsar r d a b => some (wRRR 7 r d a b 10)
  | .vmin r d a b => some (wRRR 7 r d a b 11)
  | .vmax r d a b => some (wRRR 7 r d a b 12)
  | .vminn r d a b => some (wRRR 7 r d a b 13)
  | .vmaxn r d a b => some (wRRR 7 r d a b 14)
  | .vsel r d a b => some (wRRR 7 r d a b 15)
  | .vmad r d a b => some (wRRR 8 r d a b 0)
  | .vabs r d a => some (wRRR 8 r d a 0#7 1)
  | .vneg r d a => some (wRRR 8 r d a 0#7 2)
  | .vnot r d a => some (wRRR 8 r d a 0#7 3)
  | .vclz r d a => some (wRRR 8 r d a 0#7 4)
  | .vpopc r d a => some (wRRR 8 r d a 0#7 5)
  | .vbfx r d a => some (wRRR 8 r d a 0#7 6)
  | .vbfi r d a => some (wRRR 8 r d a 0#7 7)
  | .vbcst r d a => some (wRRR 8 r d a 0#7 8)
  | .vlane r d => some (wRRR 8 r d 0#7 0#7 9)
  | .vmov r d a => some (wRRR 8 r d a 0#7 10)
  | .vadds r d a b => some (wRRR 8 r d a b 11)
  | .vsubs r d a b => some (wRRR 8 r d a b 12)
  | .vquad r d a => some (wRRR 8 r d a 0#7 13)
  | .vbrev r d a => some (wRRR 8 r d a 0#7 14)
  | .vaddi r d a i => some (wRRR 9 r d a i 0)
  | .vandi r d a i => some (wRRR 9 r d a i 1)
  | .vori r d a i => some (wRRR 9 r d a i 2)
  | .vxori r d a i => some (wRRR 9 r d a i 3)
  | .vshli r d a i => some (wRRR 9 r d a i 4)
  | .vshri r d a i => some (wRRR 9 r d a i 5)
  | .vsari r d a i => some (wRRR 9 r d a i 6)
  | .vmuli r d a i => some (wRRR 9 r d a i 7)
  | .fadd r d a b => some (wRRR 10 r d a b 0)
  | .fsub r d a b => some (wRRR 10 r d a b 1)
  | .fmul r d a b => some (wRRR 10 r d a b 2)
  | .ffma r d a b => some (wRRR 10 r d a b 3)
  | .ffms r d a b => some (wRRR 10 r d a b 4)
  | .fnma r d a b => some (wRRR 10 r d a b 5)
  | .fmin r d a b => some (wRRR 10 r d a b 6)
  | .fmax r d a b => some (wRRR 10 r d a b 7)
  | .fabs r d a => some (wRRR 10 r d a 0#7 8)
  | .fneg r d a => some (wRRR 10 r d a 0#7 9)
  | .fcps r d a b => some (wRRR 10 r d a b 10)
  | .frnd r d a => some (wRRR 10 r d a 0#7 11)
  | .ffrc r d a => some (wRRR 10 r d a 0#7 12)
  | .fscl r d a b => some (wRRR 10 r d a b 13)
  | .fexn r d a => some (wRRR 10 r d a 0#7 14)
  | .frcp r d a => some (wRRR 11 r d a 0#7 0)
  | .frsq r d a => some (wRRR 11 r d a 0#7 1)
  | .fsqrt r d a => some (wRRR 11 r d a 0#7 2)
  | .fdiv r d a b => some (wRRR 11 r d a b 3)
  | .fexp2 r d a => some (wRRR 11 r d a 0#7 4)
  | .flog2 r d a => some (wRRR 11 r d a 0#7 5)
  | .fsin r d a => some (wRRR 11 r d a 0#7 6)
  | .fcos r d a => some (wRRR 11 r d a 0#7 7)
  | .ftanh r d a => some (wRRR 11 r d a 0#7 8)
  | .fcls r d a => some (wRRR 11 r d a 0#7 9)
  | .hadd r d a b => some (wRRR 12 r d a b 0)
  | .hmul r d a b => some (wRRR 12 r d a b 1)
  | .hfma r d a b => some (wRRR 12 r d a b 2)
  | .badd r d a b => some (wRRR 12 r d a b 3)
  | .bmul r d a b => some (wRRR 12 r d a b 4)
  | .bfma r d a b => some (wRRR 12 r d a b 5)
  | .hdot r d a b => some (wRRR 12 r d a b 6)
  | .bdot r d a b => some (wRRR 12 r d a b 7)
  | .cvtF32S32 r d a => some (wRRR 13 r d a 0#7 0)
  | .cvtF32N32 r d a => some (wRRR 13 r d a 0#7 1)
  | .cvtS32F32 r d a => some (wRRR 13 r d a 0#7 2)
  | .cvtN32F32 r d a => some (wRRR 13 r d a 0#7 3)
  | .cvtF16x2 r d a b => some (wRRR 13 r d a b 4)
  | .cvtBf16x2 r d a b => some (wRRR 13 r d a b 5)
  | .cvtF32F16 r d a h => some (wRRR 13 r d a h 6)
  | .cvtF32Bf16 r d a h => some (wRRR 13 r d a h 7)
  | .cvtF8e4 r d a k => some (wRRR 13 r d a k 8)
  | .cvtF8e5 r d a k => some (wRRR 13 r d a k 9)
  | .cvtF32F8 r d a k => some (wRRR 13 r d a k 10)
  | .plane r d a => some (wRRR 13 r d a 0#7 11)
  | .unplane r d a => some (wRRR 13 r d a 0#7 12)
  | .cvtS8 r d a k => some (wRRR 13 r d a k 13)
  | .cvtS32S8 r d a k => some (wRRR 13 r d a k 14)
  | .vshfl r d a w => some (wVXL r d a w 0 0)
  | .vshfx r d a w k => some (wVXL r d a w k.toNat 1)
  | .vshup r d a w n => some (wVXL r d a w n.toNat 2)
  | .vshdn r d a w n => some (wVXL r d a w n.toNat 3)
  | .vredAddS32 r d a w => some (wVXL r d a w 0 4)
  | .vredAddF32 r d a w => some (wVXL r d a w 0 5)
  | .vredMin r d a w t => some (wVXL r d a w t.toNat 6)
  | .vredMax r d a w t => some (wVXL r d a w t.toNat 7)
  | .vscanAddS32 r d a w e => some (wVXL r d a w e.toNat 8)
  | .vscanAddF32 r d a w e => some (wVXL r d a w e.toNat 9)
  | .vvote r d a w m => some (wVXL r d a w m.toNat 10)
  | .vfirst r d a w => some (wVXL r d a w 0 11)
  | .vreadl r d a w i => some (wVXL r d a w i.toNat 12)
  | .vwritel r d a w i => some (wVXL r d a w i.toNat 13)
  | .vmatch r d a w h => some (wVXL r d a w h.toNat 14)
  | .cmpeq r d a b => some (wRRR 15 r d a b 0)
  | .cmpne r d a b => some (wRRR 15 r d a b 1)
  | .cmplt r d a b => some (wRRR 15 r d a b 2)
  | .cmple r d a b => some (wRRR 15 r d a b 3)
  | .cmpltn r d a b => some (wRRR 15 r d a b 4)
  | .cmplen r d a b => some (wRRR 15 r d a b 5)
  | .fcmpeq r d a b => some (wRRR 15 r d a b 6)
  | .fcmplt r d a b => some (wRRR 15 r d a b 7)
  | .fcmple r d a b => some (wRRR 15 r d a b 8)
  | .fcmpun r d a b => some (wRRR 15 r d a b 9)
  | .mkand r d a b => some (wRRR 15 r d a b 10)
  | .mkor r d a b => some (wRRR 15 r d a b 11)
  | .mkxor r d a b => some (wRRR 15 r d a b 12)
  | .mkandn r d a b => some (wRRR 15 r d a b 13)
  | .mkpop r d a => some (wRRR 15 r d a 0#7 14)
  | .mkmov r d a => some (wRRR 15 r d a 0#7 15)
  | .ldB r d a b => some (wRRR 16 r d a b 0)
  | .ldBs r d a b => some (wRRR 16 r d a b 1)
  | .ldH r d a b => some (wRRR 16 r d a b 2)
  | .ldHs r d a b => some (wRRR 16 r d a b 3)
  | .ldW r d a b => some (wRRR 16 r d a b 4)
  | .ldD r d a b => some (wRRR 16 r d a b 5)
  | .ldQ r d a b => some (wRRR 16 r d a b 6)
  | .ldnW r d a b => some (wRRR 16 r d a b 7)
  | .stB r d a b => some (wRRR 16 r d a b 8)
  | .stH r d a b => some (wRRR 16 r d a b 9)
  | .stW r d a b => some (wRRR 16 r d a b 10)
  | .stD r d a b => some (wRRR 16 r d a b 11)
  | .stQ r d a b => some (wRRR 16 r d a b 12)
  | .pref r a b => some (wRRR 16 r 0#7 a b 13)
  | .ldnD r d a b => some (wRRR 16 r d a b 14)
  | .ldsW r d a b => some (wRRR 17 r d a b 0)
  | .ldsD r d a b => some (wRRR 17 r d a b 1)
  | .ldsQ r d a b => some (wRRR 17 r d a b 2)
  | .stsW r d a b => some (wRRR 17 r d a b 3)
  | .stsD r d a b => some (wRRR 17 r d a b 4)
  | .stsQ r d a b => some (wRRR 17 r d a b 5)
  | .vspill r d a n => some (wRRR 17 r d a n 6)
  | .vfill r d a n => some (wRRR 17 r d a n 7)
  | .ldsp r d a b => some (wRRR 17 r d a b 8)
  | .stsp r d a b => some (wRRR 17 r d a b 9)
  | .aadd r d a b => some (wRRR 18 r d a b 0)
  | .aand r d a b => some (wRRR 18 r d a b 1)
  | .aor r d a b => some (wRRR 18 r d a b 2)
  | .axor r d a b => some (wRRR 18 r d a b 3)
  | .amin r d a b => some (wRRR 18 r d a b 4)
  | .amax r d a b => some (wRRR 18 r d a b 5)
  | .aminn r d a b => some (wRRR 18 r d a b 6)
  | .amaxn r d a b => some (wRRR 18 r d a b 7)
  | .axch r d a b => some (wRRR 18 r d a b 8)
  | .acas r d a b => some (wRRR 18 r d a b 9)
  | .aaddf r d a b => some (wRRR 18 r d a b 10)
  | .aincw r d a b => some (wRRR 18 r d a b 11)
  | .ald r d a b => some (wRRR 18 r d a b 12)
  | .ast r d a b => some (wRRR 18 r d a b 13)
  | .fence r a => some (wRRR 19 r 0#7 a 0#7 0)
  | .trkset r t a b => some (wRRR 19 r t a b 1)
  | .trksetH r t a => some (wRRR 19 r t a 0#7 1)
  | .trkclr r t => some (wRRR 19 r t 0#7 0#7 2)
  | .drainst r => some (wRRR 19 r 0#7 0#7 0#7 3)
  | .waita r d a b => some (wRRR 19 r d a b 4)
  | .bardef r a b => some (wRRR 19 r 0#7 a b 5)
  | .bararr r d a => some (wRRR 19 r d a 0#7 6)
  | .barwait r a b => some (wRRR 19 r 0#7 a b 7)
  | .barc r d a => some (wRRR 19 r d a 0#7 8)
  | .barinv r a => some (wRRR 19 r 0#7 a 0#7 9)
  | .cpyl r d a b => some (wRRR 20 r d a b 0)
  | .cpyt r a => some (wRRR 20 r 0#7 a 0#7 1)
  | .cpyr r a => some (wRRR 20 r 0#7 a 0#7 2)
  | .bufdef r n a b => some (wRRR 20 r n a b 3)
  | .bufwait r n m => some (wRRR 20 r n 0#7 m 4)
  | .bufrel r n m => some (wRRR 20 r n 0#7 m 5)
  | .bufstat r d n => some (wRRR 20 r d n 0#7 6)
  | .qpop r d q => some (wRRR 20 r d q 0#7 7)
  | .qpeek r d q => some (wRRR 20 r d q 0#7 8)
  | .aloop r k a => some (wRRR 21 r k a 0#7 0)
  | .aend r k => some (wRRR 21 r k 0#7 0#7 1)
  | .astrm r q a g => some (wRRR 21 r q a g 2)
  | .acpy r n a g => some (wRRR 21 r n a g 3)
  | .asig r a b => some (wRRR 21 r 0#7 a b 4)
  | .ahalt r => some (wRRR 21 r 0#7 0#7 0#7 5)
  | .astart r a => some (wRRR 21 r 0#7 a 0#7 6)
  | .astat r d => some (wRRR 21 r d 0#7 0#7 7)
  | .mwld r a b => some (wRRR 22 r 0#7 a b 0)
  | .mstr r n a b => some (wRRR 22 r n a b 1)
  | .mstrQueue r n b => some (wRRR 22 r n 0#7 b 1)
  | .mrdo r n a b => some (wRRR 22 r n a b 2)
  | .mzero r n => some (wRRR 22 r n 0#7 0#7 3)
  | .macsv r n a b => some (wRRR 22 r n a b 4)
  | .macld r n a b => some (wRRR 22 r n a b 5)
  | .mstat r d w => some (wRRR 22 r d 0#7 w 6)
  | .trace r d a b => some (wRRR 23 r d a b 0)
  | .hitget r d a b => some (wRRR 23 r d a b 1)
  | .ahacc r => some (wRRR 23 r 0#7 0#7 0#7 2)
  | .ahrej r => some (wRRR 23 r 0#7 0#7 0#7 3)
  | .contend r d => some (wRRR 23 r d 0#7 0#7 4)
  | .contget r d k => some (wRRR 23 r d 0#7 k 5)
  | .lntinv r a => some (wRRR 23 r 0#7 a 0#7 6)
  | .ishit r a b => some (wRRR 23 r 0#7 a b 7)
  | .rast r d a b => some (wRRR 24 r d a b 0)
  | .rprj r d a b => some (wRRR 24 r d a b 1)
  | .tex r d a b => some (wRRR 24 r d a b 2)
  | .texl r d a b => some (wRRR 24 r d a b 3)
  | .lnch r d a b => some (wRRR 25 r d a b 0)
  | .evset r a k => some (wRRR 25 r 0#7 a k 1)
  | .evclr r a k => some (wRRR 25 r 0#7 a k 2)
  | .ember r a k => some (wRRR 25 r 0#7 a k 3)
  | .grist r a b => some (wRRR 25 r 0#7 a b 4)
  | .missSplit _ _ => none
  | .joinTimeout _ => none
  | .fuseWatchdogExpiry _ => none
  | .loadDataReturn _ _ => none
  | .storeAccepted _ _ => none
  | .storeFaultReport _ _ => none
  | .accessAnswer _ => none
  | .homeAccess _ => none
  | .fenceReleaseComplete _ => none
  | .waitaTimeout _ => none
  | .waitcyEnd _ => none
  | .copyComplete _ _ => none
  | .reduceTicketPoll _ _ => none
  | .reduceTicketRelease _ _ => none
  | .copySquash _ => none
  | .astrmPush _ => none
  | .matrixCommandStands _ => none
  | .mwldLatch _ => none
  | .rayEnd _ => none
  | .rayHandoff _ => none
  | .gatherTimeout _ => none
  | .vaultSample _ _ => none
  | .thermalTrip _ => none
  | .packagePowerOff => none
  | .droopTrip _ => none
  | .gutterRestore _ => none
  | .biasReplan _ _ => none
  | .biasCodeStep _ => none
  | .bbiasCodeWrite _ _ => none
  | .taperEstimate _ _ _ => none
  | .taperRampEnd _ => none
  | .eccCorrected _ _ => none
  | .eccUncorrectable _ => none
  | .backgroundScrub => none
  | .slotVisit _ => none
  | .launchStart _ => none
  | .crewRetire _ => none
  | .swapOut _ => none
  | .preemptDone _ => none
  | .dumpcDone _ => none
  | .handleMigrationEnd _ _ => none
  | .notify _ => none
  | .admqWrite _ => none
  | .resetWrite _ => none
  | .registerWrite _ _ => none
  | .moduleBoot => none
  | .hostMemoryWrite _ _ => none
  | .hostMemoryRead _ _ => none
  | .launch _ => none
  | .launchCaptured _ => none
  | .evsignalSet _ => none
  | .evsignalClear _ => none
  | .mapq _ => none
  | .unmapq _ => none
  | .ctxnew _ => none
  | .ctxnewAllotment _ => none
  | .ctxnewLanternWays _ => none
  | .ctxfree _ => none
  | .handleCreate _ => none
  | .handlePriority _ => none
  | .handleMigrate _ => none
  | .handleEvict _ => none
  | .grant _ => none
  | .preempt _ => none
  | .preemptResume _ => none
  | .debugAttach _ => none
  | .debugDetach _ => none
  | .debugPcBreakpoint _ => none
  | .debugWatchpoint _ => none
  | .debugStopCrew _ => none
  | .debugResumeCrew _ => none
  | .debugEmber _ => none
  | .debugGrist _ => none
  | .debugIcinv _ => none
  | .quote _ => none
  | .quoteExtend _ => none
  | .powercap _ => none
  | .countersAccount _ => none
  | .countersReadRegister _ => none
  | .countersWriteRegister _ => none
  | .countersLifetime _ => none
  | .keyset _ => none
  | .powerEstimate _ => none
  | .capExpiry => none
  | .lifetimeRecordWrite => none
  | .emberTag _ _ => none
  | .emberRecord _ _ _ => none
  | .flitCrcReplay _ => none
  | .inboundAccess _ _ => none
  | .remoteAnswer _ _ => none
  | .remoteAccessTimeout _ => none
  | .syncFlitSend => none
  | .syncFlitReceive _ _ => none
  | .portSyncTimeout _ => none
  | .quoteRequestFlit _ _ => none
  | .powerCapFlit _ _ => none
  | .illegalInstruction _ _ => none
  | .fetchFailure _ => none
  | .icinvComplete _ => none
  | .copyError _ _ _ => none
  | .intersectionShaderInvoke _ => none

/-- The run of a word's instruction; the empty run for a step that no word encodes. -/
def Instr.run : Instr → Run
  | .nop r => r
  | .trap r _ => r
  | .brk r _ => r
  | .xret r => r
  | .mvfs r _ _ => r
  | .mvts r _ _ => r
  | .ptab r _ _ _ => r
  | .waitcy r _ => r
  | .time r _ => r
  | .icinv r _ _ => r
  | .stop r => r
  | .vrget r _ _ _ => r
  | .vrset r _ _ _ => r
  | .sfq r _ _ => r
  | .killc r _ => r
  | .dumpc r _ _ _ => r
  | .b r _ => r
  | .call r _ => r
  | .bz r _ _ => r
  | .bnz r _ _ => r
  | .bneg r _ _ => r
  | .bany r _ _ => r
  | .ball r _ _ => r
  | .bdiv r _ _ => r
  | .join r _ => r
  | .fuse r _ => r
  | .splitctl r _ => r
  | .exit r => r
  | .ret r => r
  | .jr r _ => r
  | .vxopen r _ => r
  | .vxclose r => r
  | .exmget r _ => r
  | .exmset r _ => r
  | .mkff r _ => r
  | .yield r => r
  | .sadd r _ _ _ => r
  | .ssub r _ _ _ => r
  | .smul r _ _ _ => r
  | .smulh r _ _ _ => r
  | .sand r _ _ _ => r
  | .sor r _ _ _ => r
  | .sxor r _ _ _ => r
  | .sshl r _ _ _ => r
  | .sshr r _ _ _ => r
  | .ssar r _ _ _ => r
  | .smin r _ _ _ => r
  | .smax r _ _ _ => r
  | .sminn r _ _ _ => r
  | .smaxn r _ _ _ => r
  | .sslt r _ _ _ => r
  | .ssltn r _ _ _ => r
  | .saddi r _ _ _ => r
  | .sandi r _ _ _ => r
  | .sori r _ _ _ => r
  | .sxori r _ _ _ => r
  | .sshli r _ _ _ => r
  | .sshri r _ _ _ => r
  | .ssari r _ _ _ => r
  | .sslti r _ _ _ => r
  | .sclz r _ _ => r
  | .spopc r _ _ => r
  | .sbfx r _ _ => r
  | .smov r _ _ => r
  | .sld64 r _ _ _ => r
  | .sld32 r _ _ _ => r
  | .sst64 r _ _ _ => r
  | .sst32 r _ _ _ => r
  | .sli r _ _ _ => r
  | .vadd r _ _ _ => r
  | .vsub r _ _ _ => r
  | .vmul r _ _ _ => r
  | .vmulh r _ _ _ => r
  | .vmulhn r _ _ _ => r
  | .vand r _ _ _ => r
  | .vor r _ _ _ => r
  | .vxor r _ _ _ => r
  | .vshl r _ _ _ => r
  | .vshr r _ _ _ => r
  | .vsar r _ _ _ => r
  | .vmin r _ _ _ => r
  | .vmax r _ _ _ => r
  | .vminn r _ _ _ => r
  | .vmaxn r _ _ _ => r
  | .vsel r _ _ _ => r
  | .vmad r _ _ _ => r
  | .vabs r _ _ => r
  | .vneg r _ _ => r
  | .vnot r _ _ => r
  | .vclz r _ _ => r
  | .vpopc r _ _ => r
  | .vbfx r _ _ => r
  | .vbfi r _ _ => r
  | .vbcst r _ _ => r
  | .vlane r _ => r
  | .vmov r _ _ => r
  | .vadds r _ _ _ => r
  | .vsubs r _ _ _ => r
  | .vquad r _ _ => r
  | .vbrev r _ _ => r
  | .vaddi r _ _ _ => r
  | .vandi r _ _ _ => r
  | .vori r _ _ _ => r
  | .vxori r _ _ _ => r
  | .vshli r _ _ _ => r
  | .vshri r _ _ _ => r
  | .vsari r _ _ _ => r
  | .vmuli r _ _ _ => r
  | .fadd r _ _ _ => r
  | .fsub r _ _ _ => r
  | .fmul r _ _ _ => r
  | .ffma r _ _ _ => r
  | .ffms r _ _ _ => r
  | .fnma r _ _ _ => r
  | .fmin r _ _ _ => r
  | .fmax r _ _ _ => r
  | .fabs r _ _ => r
  | .fneg r _ _ => r
  | .fcps r _ _ _ => r
  | .frnd r _ _ => r
  | .ffrc r _ _ => r
  | .fscl r _ _ _ => r
  | .fexn r _ _ => r
  | .frcp r _ _ => r
  | .frsq r _ _ => r
  | .fsqrt r _ _ => r
  | .fdiv r _ _ _ => r
  | .fexp2 r _ _ => r
  | .flog2 r _ _ => r
  | .fsin r _ _ => r
  | .fcos r _ _ => r
  | .ftanh r _ _ => r
  | .fcls r _ _ => r
  | .hadd r _ _ _ => r
  | .hmul r _ _ _ => r
  | .hfma r _ _ _ => r
  | .badd r _ _ _ => r
  | .bmul r _ _ _ => r
  | .bfma r _ _ _ => r
  | .hdot r _ _ _ => r
  | .bdot r _ _ _ => r
  | .cvtF32S32 r _ _ => r
  | .cvtF32N32 r _ _ => r
  | .cvtS32F32 r _ _ => r
  | .cvtN32F32 r _ _ => r
  | .cvtF16x2 r _ _ _ => r
  | .cvtBf16x2 r _ _ _ => r
  | .cvtF32F16 r _ _ _ => r
  | .cvtF32Bf16 r _ _ _ => r
  | .cvtF8e4 r _ _ _ => r
  | .cvtF8e5 r _ _ _ => r
  | .cvtF32F8 r _ _ _ => r
  | .plane r _ _ => r
  | .unplane r _ _ => r
  | .cvtS8 r _ _ _ => r
  | .cvtS32S8 r _ _ _ => r
  | .vshfl r _ _ _ => r
  | .vshfx r _ _ _ _ => r
  | .vshup r _ _ _ _ => r
  | .vshdn r _ _ _ _ => r
  | .vredAddS32 r _ _ _ => r
  | .vredAddF32 r _ _ _ => r
  | .vredMin r _ _ _ _ => r
  | .vredMax r _ _ _ _ => r
  | .vscanAddS32 r _ _ _ _ => r
  | .vscanAddF32 r _ _ _ _ => r
  | .vvote r _ _ _ _ => r
  | .vfirst r _ _ _ => r
  | .vreadl r _ _ _ _ => r
  | .vwritel r _ _ _ _ => r
  | .vmatch r _ _ _ _ => r
  | .cmpeq r _ _ _ => r
  | .cmpne r _ _ _ => r
  | .cmplt r _ _ _ => r
  | .cmple r _ _ _ => r
  | .cmpltn r _ _ _ => r
  | .cmplen r _ _ _ => r
  | .fcmpeq r _ _ _ => r
  | .fcmplt r _ _ _ => r
  | .fcmple r _ _ _ => r
  | .fcmpun r _ _ _ => r
  | .mkand r _ _ _ => r
  | .mkor r _ _ _ => r
  | .mkxor r _ _ _ => r
  | .mkandn r _ _ _ => r
  | .mkpop r _ _ => r
  | .mkmov r _ _ => r
  | .ldB r _ _ _ => r
  | .ldBs r _ _ _ => r
  | .ldH r _ _ _ => r
  | .ldHs r _ _ _ => r
  | .ldW r _ _ _ => r
  | .ldD r _ _ _ => r
  | .ldQ r _ _ _ => r
  | .ldnW r _ _ _ => r
  | .stB r _ _ _ => r
  | .stH r _ _ _ => r
  | .stW r _ _ _ => r
  | .stD r _ _ _ => r
  | .stQ r _ _ _ => r
  | .pref r _ _ => r
  | .ldnD r _ _ _ => r
  | .ldsW r _ _ _ => r
  | .ldsD r _ _ _ => r
  | .ldsQ r _ _ _ => r
  | .stsW r _ _ _ => r
  | .stsD r _ _ _ => r
  | .stsQ r _ _ _ => r
  | .vspill r _ _ _ => r
  | .vfill r _ _ _ => r
  | .ldsp r _ _ _ => r
  | .stsp r _ _ _ => r
  | .aadd r _ _ _ => r
  | .aand r _ _ _ => r
  | .aor r _ _ _ => r
  | .axor r _ _ _ => r
  | .amin r _ _ _ => r
  | .amax r _ _ _ => r
  | .aminn r _ _ _ => r
  | .amaxn r _ _ _ => r
  | .axch r _ _ _ => r
  | .acas r _ _ _ => r
  | .aaddf r _ _ _ => r
  | .aincw r _ _ _ => r
  | .ald r _ _ _ => r
  | .ast r _ _ _ => r
  | .fence r _ => r
  | .trkset r _ _ _ => r
  | .trksetH r _ _ => r
  | .trkclr r _ => r
  | .drainst r => r
  | .waita r _ _ _ => r
  | .bardef r _ _ => r
  | .bararr r _ _ => r
  | .barwait r _ _ => r
  | .barc r _ _ => r
  | .barinv r _ => r
  | .cpyl r _ _ _ => r
  | .cpyt r _ => r
  | .cpyr r _ => r
  | .bufdef r _ _ _ => r
  | .bufwait r _ _ => r
  | .bufrel r _ _ => r
  | .bufstat r _ _ => r
  | .qpop r _ _ => r
  | .qpeek r _ _ => r
  | .aloop r _ _ => r
  | .aend r _ => r
  | .astrm r _ _ _ => r
  | .acpy r _ _ _ => r
  | .asig r _ _ => r
  | .ahalt r => r
  | .astart r _ => r
  | .astat r _ => r
  | .mwld r _ _ => r
  | .mstr r _ _ _ => r
  | .mstrQueue r _ _ => r
  | .mrdo r _ _ _ => r
  | .mzero r _ => r
  | .macsv r _ _ _ => r
  | .macld r _ _ _ => r
  | .mstat r _ _ => r
  | .trace r _ _ _ => r
  | .hitget r _ _ _ => r
  | .ahacc r => r
  | .ahrej r => r
  | .contend r _ => r
  | .contget r _ _ => r
  | .lntinv r _ => r
  | .ishit r _ _ => r
  | .rast r _ _ _ => r
  | .rprj r _ _ _ => r
  | .tex r _ _ _ => r
  | .texl r _ _ _ => r
  | .lnch r _ _ _ => r
  | .evset r _ _ => r
  | .evclr r _ _ => r
  | .ember r _ _ => r
  | .grist r _ _ => r
  | .missSplit _ _ => { hints := [], stl := 0#2 }
  | .joinTimeout _ => { hints := [], stl := 0#2 }
  | .fuseWatchdogExpiry _ => { hints := [], stl := 0#2 }
  | .loadDataReturn _ _ => { hints := [], stl := 0#2 }
  | .storeAccepted _ _ => { hints := [], stl := 0#2 }
  | .storeFaultReport _ _ => { hints := [], stl := 0#2 }
  | .accessAnswer _ => { hints := [], stl := 0#2 }
  | .homeAccess _ => { hints := [], stl := 0#2 }
  | .fenceReleaseComplete _ => { hints := [], stl := 0#2 }
  | .waitaTimeout _ => { hints := [], stl := 0#2 }
  | .waitcyEnd _ => { hints := [], stl := 0#2 }
  | .copyComplete _ _ => { hints := [], stl := 0#2 }
  | .reduceTicketPoll _ _ => { hints := [], stl := 0#2 }
  | .reduceTicketRelease _ _ => { hints := [], stl := 0#2 }
  | .copySquash _ => { hints := [], stl := 0#2 }
  | .astrmPush _ => { hints := [], stl := 0#2 }
  | .matrixCommandStands _ => { hints := [], stl := 0#2 }
  | .mwldLatch _ => { hints := [], stl := 0#2 }
  | .rayEnd _ => { hints := [], stl := 0#2 }
  | .rayHandoff _ => { hints := [], stl := 0#2 }
  | .gatherTimeout _ => { hints := [], stl := 0#2 }
  | .vaultSample _ _ => { hints := [], stl := 0#2 }
  | .thermalTrip _ => { hints := [], stl := 0#2 }
  | .packagePowerOff => { hints := [], stl := 0#2 }
  | .droopTrip _ => { hints := [], stl := 0#2 }
  | .gutterRestore _ => { hints := [], stl := 0#2 }
  | .biasReplan _ _ => { hints := [], stl := 0#2 }
  | .biasCodeStep _ => { hints := [], stl := 0#2 }
  | .bbiasCodeWrite _ _ => { hints := [], stl := 0#2 }
  | .taperEstimate _ _ _ => { hints := [], stl := 0#2 }
  | .taperRampEnd _ => { hints := [], stl := 0#2 }
  | .eccCorrected _ _ => { hints := [], stl := 0#2 }
  | .eccUncorrectable _ => { hints := [], stl := 0#2 }
  | .backgroundScrub => { hints := [], stl := 0#2 }
  | .slotVisit _ => { hints := [], stl := 0#2 }
  | .launchStart _ => { hints := [], stl := 0#2 }
  | .crewRetire _ => { hints := [], stl := 0#2 }
  | .swapOut _ => { hints := [], stl := 0#2 }
  | .preemptDone _ => { hints := [], stl := 0#2 }
  | .dumpcDone _ => { hints := [], stl := 0#2 }
  | .handleMigrationEnd _ _ => { hints := [], stl := 0#2 }
  | .notify _ => { hints := [], stl := 0#2 }
  | .admqWrite _ => { hints := [], stl := 0#2 }
  | .resetWrite _ => { hints := [], stl := 0#2 }
  | .registerWrite _ _ => { hints := [], stl := 0#2 }
  | .moduleBoot => { hints := [], stl := 0#2 }
  | .hostMemoryWrite _ _ => { hints := [], stl := 0#2 }
  | .hostMemoryRead _ _ => { hints := [], stl := 0#2 }
  | .launch _ => { hints := [], stl := 0#2 }
  | .launchCaptured _ => { hints := [], stl := 0#2 }
  | .evsignalSet _ => { hints := [], stl := 0#2 }
  | .evsignalClear _ => { hints := [], stl := 0#2 }
  | .mapq _ => { hints := [], stl := 0#2 }
  | .unmapq _ => { hints := [], stl := 0#2 }
  | .ctxnew _ => { hints := [], stl := 0#2 }
  | .ctxnewAllotment _ => { hints := [], stl := 0#2 }
  | .ctxnewLanternWays _ => { hints := [], stl := 0#2 }
  | .ctxfree _ => { hints := [], stl := 0#2 }
  | .handleCreate _ => { hints := [], stl := 0#2 }
  | .handlePriority _ => { hints := [], stl := 0#2 }
  | .handleMigrate _ => { hints := [], stl := 0#2 }
  | .handleEvict _ => { hints := [], stl := 0#2 }
  | .grant _ => { hints := [], stl := 0#2 }
  | .preempt _ => { hints := [], stl := 0#2 }
  | .preemptResume _ => { hints := [], stl := 0#2 }
  | .debugAttach _ => { hints := [], stl := 0#2 }
  | .debugDetach _ => { hints := [], stl := 0#2 }
  | .debugPcBreakpoint _ => { hints := [], stl := 0#2 }
  | .debugWatchpoint _ => { hints := [], stl := 0#2 }
  | .debugStopCrew _ => { hints := [], stl := 0#2 }
  | .debugResumeCrew _ => { hints := [], stl := 0#2 }
  | .debugEmber _ => { hints := [], stl := 0#2 }
  | .debugGrist _ => { hints := [], stl := 0#2 }
  | .debugIcinv _ => { hints := [], stl := 0#2 }
  | .quote _ => { hints := [], stl := 0#2 }
  | .quoteExtend _ => { hints := [], stl := 0#2 }
  | .powercap _ => { hints := [], stl := 0#2 }
  | .countersAccount _ => { hints := [], stl := 0#2 }
  | .countersReadRegister _ => { hints := [], stl := 0#2 }
  | .countersWriteRegister _ => { hints := [], stl := 0#2 }
  | .countersLifetime _ => { hints := [], stl := 0#2 }
  | .keyset _ => { hints := [], stl := 0#2 }
  | .powerEstimate _ => { hints := [], stl := 0#2 }
  | .capExpiry => { hints := [], stl := 0#2 }
  | .lifetimeRecordWrite => { hints := [], stl := 0#2 }
  | .emberTag _ _ => { hints := [], stl := 0#2 }
  | .emberRecord _ _ _ => { hints := [], stl := 0#2 }
  | .flitCrcReplay _ => { hints := [], stl := 0#2 }
  | .inboundAccess _ _ => { hints := [], stl := 0#2 }
  | .remoteAnswer _ _ => { hints := [], stl := 0#2 }
  | .remoteAccessTimeout _ => { hints := [], stl := 0#2 }
  | .syncFlitSend => { hints := [], stl := 0#2 }
  | .syncFlitReceive _ _ => { hints := [], stl := 0#2 }
  | .portSyncTimeout _ => { hints := [], stl := 0#2 }
  | .quoteRequestFlit _ _ => { hints := [], stl := 0#2 }
  | .powerCapFlit _ _ => { hints := [], stl := 0#2 }
  | .illegalInstruction r _ => r
  | .fetchFailure _ => { hints := [], stl := 0#2 }
  | .icinvComplete _ => { hints := [], stl := 0#2 }
  | .copyError _ _ _ => { hints := [], stl := 0#2 }
  | .intersectionShaderInvoke _ => { hints := [], stl := 0#2 }

/-- A unit's words: its hint run, then its instruction word (R69). -/
def encode (i : Instr) : Option (List W32) :=
  match encodeWord i with
  | some w => some (i.run.hints.map encodeHint ++ [w])
  | none => none

end Sys2Proof
end

