-- ==== Sys2Proof/Config.lean ====
section
/-! DEFINITION. The free values of the model: what the manual leaves open. Each is a constant without a body, so that no
proof can use a value of it; the first argument is the counter `free` of the state, or the operands it depends on.
notes/assumptions/2.md lists them. -/

namespace Sys2Proof.Config

/-- Which of the values a register may show a read sees, when the read comes before a fixed-latency result has landed
(R31): free counter, register key, lane. -/
opaque earlyPick : Nat → Nat → Nat → Nat

/-- The value that remains in a register after two fixed-latency writes landed out of program order (R31): free
counter, register key, lane. -/
opaque unordered : Nat → Nat → Nat → W64

/-- What a byte of a peer's memory behind a fabric window reads as, for the engines and for Lamplighter (R430): free
counter, physical address. -/
opaque peerByte : Nat → Nat → Byte

/-- How the larger scaled derivative length of a TEX is rounded, and what it is for coordinates that are not finite (R323): u
and v in lanes 0, 1 and 2 of the quad, width and height. -/
opaque texLength : List Nat → W32

/-- Which of the values that R323 leaves open a sampling takes: a tag that says which, the operand it depends on. -/
opaque texPick : Nat → Nat → Nat

/-- The tweak of a block in the space of a handle, whose place in the memory of its tier the manual leaves to Lamplighter (R395,
R394): tier, vault, the model's number of the block. -/
opaque handleTweak : Nat → Nat → Nat → Nat

/-- The two XTS keys of a key id that no KEYSET has loaded since the reset (R395). -/
opaque unsetKey : Nat → List Byte

/-- The two secret values and the public seed of the quote's key pair, 48 bytes, generated from the fused seed alone (R407); the
manual does not say how. -/
opaque quoteKeys : List Byte → List Byte

/-- The 16 bytes of randomness in the signature of a quote (R407), which SLH-DSA leaves to the signer: free counter. -/
opaque quoteRandom : Nat → List Byte

/-- What the header of a patch image says (R399), whose layout the manual does not give: 0 the magic, 1 the body length,
2 PVER. -/
opaque patchHead : Nat → List Byte → Nat

/-- The 48-byte public key of a patch image (R399), whose place the manual does not give. -/
opaque patchKey : List Byte → List Byte

/-- What R311 leaves open about how a ray ends: a tag that says which choice, and what the ray and its BVH give; the history of
the machine is no part of it (R102). -/
opaque rayPick : Nat → List Nat → Nat

/-- Which set of L1 a line belongs to (R182): the number of the line. -/
opaque l1Set : Nat → Nat

/-- Which set of a cluster's Lantern a key uses (R312). -/
opaque lanternSet : List Nat → Nat

/-- The lifetime records but for the count of powered hours, as COUNTERS writes them (R409): their layout is open, and the numbers
are what the records hold. -/
opaque lifeRest : List Nat → List Byte

/-- A free number where the manual gives no value: a tag that says which, and the free counter. -/
opaque freeNat : Nat → Nat → Nat

/-- A free yes or no where the manual leaves the choice open: a tag that says which, the free counter. -/
opaque freeBool : Nat → Nat → Bool

end Sys2Proof.Config
end

