-- ==== Sys2Proof/Machine/State.lean ====
section
/-! DEFINITION. The state of the device as plain data: parts, waves, crews, cores, clusters, vaults, homes and memory,
contexts, launches, the package, the fabric and the host's queues, with the reasons a step can stop and the state
after reset.

One part is in focus: `part` is the part whose unit a step issues, with the parts of its wave in `sibs`, the other
waves of its crew in `waves` and the other crews in `crews`. A crew outside the focus holds its waves itself. -/

namespace Sys2Proof.Machine

/-! ### Canonical maps -/

/-- A map from numbers to values as a list with strictly rising keys and no entry equal to what an unlisted key reads
as. -/
abbrev Cells (α : Type) := List (Nat × α)

/-- The value at a key; `d` where nothing is listed. -/
def cget {α : Type} (d : α) : Cells α → Nat → α
  | [], _ => d
  | (k, v) :: t, n => if n = k then v else cget d t n

/-- An entry put in its place. -/
def cput {α : Type} (n : Nat) (x : α) : Cells α → Cells α
  | [] => [(n, x)]
  | (k, v) :: t => if n < k then (n, x) :: (k, v) :: t else if n = k then (n, x) :: t else (k, v) :: cput n x t

/-- The map with the value at a key replaced, kept canonical. -/
def cset {α : Type} [DecidableEq α] (d : α) (m : Cells α) (n : Nat) (x : α) : Cells α :=
  if x = d then m.filter (fun e => e.1 != n) else cput n x m

/-- The canonical form from a lower bound of the keys up. -/
def cwfFrom {α : Type} [DecidableEq α] (d : α) : Nat → Cells α → Bool
  | _, [] => true
  | lo, (k, v) :: t => decide (lo ≤ k) && decide (v ≠ d) && cwfFrom d (k + 1) t

/-- The canonical form: strictly rising keys, no entry that reads as the default. -/
def cwf {α : Type} [DecidableEq α] (d : α) (m : Cells α) : Bool := cwfFrom d 0 m

/-- Memory: bytes by physical address. An unlisted byte reads as 0 (log 5). -/
abbrev Memory := List Host.Cell

/-- The canonical form of memory: strictly rising addresses, no byte 0 listed. -/
def Memory.wf (m : Memory) : Bool := cwf (0#8) m

/-! ### Parts and waves -/

/-- The states of a part (R35). -/
inductive PartState where
  | run
  | joinwait
  | fusewait
  | trapped
  | halted
  deriving DecidableEq, Repr

/-- A register as the scoreboard names it (R161, cause 0x05). -/
inductive RegId where
  | v (n : Nat)
  | s (n : Nat)
  | m (n : Nat)
  | exm
  deriving DecidableEq, Repr

/-- A fixed-latency write that has not landed (R30 to R34): the cycle it lands in, and the values the register held
before it, by lane (lane 0 for a scalar, a mask). The register file already holds the new value. -/
structure Pend where
  reg  : RegId
  land : Nat
  olds : Cells W64
  deriving DecidableEq, Repr

/-- An entry of the reconvergence stack (R38); `jj` holds J and JPC once bound, `jto` the JOINTO value of that JOIN
plus 1, or 0 when it has no such hint, and `hints` how many hints its run had (R37). -/
structure Entry where
  rpc   : W64
  lanes : W64
  outer : W64
  d     : Bool
  jj    : Option (Nat × W64)
  jto   : Nat
  hints : Nat
  deriving DecidableEq, Repr

/-- One lane of a load or an atomic in flight: the access that answers it, the offset in the line, and the bytes fixed
at issue from DIRTY bytes or an L1 hit (R182, R195). -/
structure LaneLoad where
  lane  : Nat
  acc   : Nat
  off   : Nat
  fixed : Cells W64
  deriving DecidableEq, Repr

/-- How a load's bytes become register values (R194, R111). -/
inductive LoadKind where
  | vec (size : Nat) (sext : Bool)
  | scalar (size : Nat)
  deriving DecidableEq, Repr

/-- A load or atomic in flight: its destination, the lanes still to be written, and its miss timer (R40). -/
structure Load where
  id    : Nat
  kind  : LoadKind
  reg   : Nat
  lanes : List LaneLoad
  acq   : Bool
  timer : Option Nat
  deriving DecidableEq, Repr

/-- What holds a part whose state is RUN or TRAPPED (R32, R48, R124, R129, R211, R214, R218, R221): `retry` holds it at the
boundary before its unit and `inside` within the unit until something it waits for may have come, `idle` until it has an
active lane again. A part halted inside a BARC resumes before it with `begun` false. -/
inductive Wait where
  | none
  | retry
  | inside
  | idle
  | cycles (till : Nat)
  | waita (till : Nat)
  | barw (off phase : Nat)
  | barc (off phase : Nat) (begun : Bool)
  | release (accs ords : List Nat) (mask : Nat)
  | icinv
  | dump
  deriving DecidableEq, Repr

/-- A part of a wave: everything R13 gives to a part. `quads` is QMASK; a part with no quads is no part. In JOINWAIT and
FUSEWAIT, `timer` is the cycle the join timer or watchdog ends in, `tlimit` the JOINTO value plus 1 (0 without one),
`waitAt` the address of the JOIN or of the wave-wide instruction, and `wcode` its width code; `jwait` is the index of the JOIN
waited at, and `jidx` that of the last JOIN passed. `arr` is the cycle from
which a part may issue again that has arrived at a JOIN in a cycle whose fuse conditions are still to be evaluated (R52),
`exiting` says that R48 brought it there; `fault` is the oldest faulting store that a held cause 0x0B reports, with its
lanes and address (R161). -/
structure Part where
  quads   : Nat
  s       : Cells W64
  exm     : W64
  pc      : W64
  state   : PartState
  stack   : List Entry
  nosplit : Bool
  jidx    : Nat
  jwait   : Nat
  jtout   : Bool
  timer   : Option Nat
  tlimit  : Nat
  waitAt  : W64
  wcode   : Nat
  ready   : Nat
  pend    : List Pend
  loads   : List Load
  xpc     : W64
  xcause  : W64
  xlanes  : W64
  xpart   : W64
  xinfo   : W64
  xaddr   : W64
  sexm    : W64
  arr     : Option Nat
  exiting : Bool
  fault   : Option (Nat × W64 × W64)
  drops   : Nat
  issued  : Nat
  wait    : Wait
  relDone : Bool
  before  : PartState
  fresh   : Bool
  yielded : Bool
  deriving DecidableEq, Repr

/-- No part: the absent part, with every field at its value at admission (R18, R22, R37, R158). -/
def Part.none : Part :=
  { quads := 0, s := [], exm := 0#64, pc := 0#64, state := .run, stack := [], nosplit := false, jidx := 0, jwait := 0,
    jtout := false, timer := .none, tlimit := 0, waitAt := 0#64, wcode := 0, ready := 0, pend := [], loads := [], xpc := 0#64, xcause := 0#64,
    xlanes := 0#64, xpart := 0#64, xinfo := 0#64, xaddr := 0#64, sexm := 0#64, arr := .none, exiting := false, fault := .none, drops := 0, issued := 0,
    wait := .none, relDone := false, before := .run, fresh := false, yielded := false }

/-- The launch value of WCTL (R25): FWD 64, JTO 256, MSPLIT 96. -/
def wctlLaunch : W64 := 0x0000004010018000#64

/-- What parts of one wave see of one another in the cycle `cycle`: the mask registers, the part table and the control
registers as they stood when it began (R21, R24, R123). -/
structure Snap where
  cycle : Nat
  m     : Cells W64
  table : List (Nat × W64 × W64)
  wctl  : W64
  tvec  : W64
  deriving DecidableEq, Repr

/-- A wave: everything R13 gives to a wave. `v` holds lane l of register n at key 64 n + l. `unsettled` is the cycle of
arrivals and exits after which the fuse conditions have not been evaluated yet (R52), and `kept` the cycles of fuses, one
for each scalar set that is free from the next cycle on (R44). -/
structure Wave where
  widx    : Nat
  code    : Nat
  vbase   : Nat
  vcur    : Nat
  v       : Cells W32
  m       : Cells W64
  wctl    : W64
  tvec    : W64
  exited  : W64
  exitedQ : Nat
  opens   : Cells W64
  seqn    : Nat
  qpos    : Nat
  snap    : Option Snap
  unsettled : Option Nat
  kept    : List Nat
  parts   : List Part
  deriving DecidableEq, Repr

/-- No wave: B is 0, which no wave has. -/
def Wave.none : Wave :=
  { widx := 0, code := 0, vbase := 0, vcur := 0, v := [], m := [], wctl := wctlLaunch, tvec := 0#64, exited := 0#64,
    exitedQ := 0, opens := [], seqn := 0, qpos := 0, snap := .none, unsettled := .none, kept := [], parts := [] }

/-! ### Crews -/

/-- What completes a command that is under way (R400, R402): the slot it was taken from, the number of its queue, its TAG word and
CPLA. -/
structure CmdTag where
  slot  : Nat
  queue : Nat
  word0 : W64
  cpla  : W64
  deriving DecidableEq, Repr

/-- The conditions of a crew (R270); `held` is a crew swapped out for a recoverable fault (R389), `stopped` one that a
debugger stopped (R421), `waiting` one that a launch declares and no core has admitted yet. -/
inductive Cond where
  | absent
  | waiting
  | resident
  | swapped
  | held
  | stopped
  | retired
  | killed
  deriving DecidableEq, Repr

/-- What a crew runs (R300, R308, R309). -/
inductive CrewKind where
  | launch
  | cont
  | anyhit
  | intersect
  deriving DecidableEq, Repr

/-- A tracker (R185). -/
structure Tracker where
  kind  : Nat
  base  : W64
  limit : W64
  scope : Nat
  lease : Nat
  out   : Nat
  lct   : Nat
  deriving DecidableEq, Repr

/-- A tracker after the admission of a new crew (R185; BASE, LIMIT and LCT: log 4). -/
def Tracker.reset : Tracker :=
  { kind := 0, base := 0#64, limit := 0#64, scope := 0, lease := 400, out := 0, lct := 0 }

/-- A buffer handle (R220). -/
structure Buf where
  off   : Nat
  size  : Nat
  state : Nat
  count : Nat
  deriving DecidableEq, Repr

def Buf.reset : Buf := { off := 0, size := 0, state := 0, count := 0 }

/-- A store issued and not yet accepted (R162, R184): the access it waits for, or the fault it will report. -/
structure PStore where
  id    : Nat
  wave  : Nat
  part  : Nat
  accs  : List Nat
  fault : Option Nat
  addr  : W64
  lanes : W64
  pc    : W64
  dreg  : Nat
  sst   : Bool
  lsz   : Nat
  at_   : Nat
  deriving DecidableEq, Repr

/-- A copy in flight with its captured operands (R225): `fn` 0 CPYL, 1 CPYT, 2 CPYR, 3 ACPY; `trk` the tracker that MOD
names, `trks` those its writes update, `bound` the bindings at issue; `desc` the captured descriptor bytes; `lanes` the
source and destination by lane, `size` bytes each; `lines` the destination lines written whole; `phase` of an ordered
reduce-copy: 0 waiting for its ticket, 1 applying its elements, 2 with its ticket written; `poll` the TIME from which it reads
its ticket again; `ct` the largest completion time of the payload. -/
structure Copy where
  ord    : Nat
  fn     : Nat
  ctl    : Nat
  trk    : Option Nat
  trks   : List Nat
  bound  : Cells Tracker
  hnd    : Option Nat
  cwOff  : Nat
  cwVal  : W64
  desc   : List Byte
  lanes  : List (Nat × W64 × W64)
  size   : Nat
  lines  : List Nat
  phase  : Nat
  poll   : Nat
  ct     : Nat
  squash : Bool
  slice  : Bool
  deriving DecidableEq, Repr

/-- A barrier word's hidden part (R179): its scratchpad offset and its arrival bitmap. -/
structure Barrier where
  off    : Nat
  bitmap : Nat
  deriving DecidableEq, Repr

/-- A store-fault record (R279). -/
structure SfRecord where
  addr   : W64
  lanes  : W64
  pc     : W64
  seq    : Nat
  reason : Nat
  dreg   : Nat
  sst    : Bool
  lsz    : Nat
  widx   : Nat
  pidx   : Nat
  deriving DecidableEq, Repr

/-- A command of the matrix engine with its captured operands (R258): `fn`, accumulator, control word, s[A], s[B],
s[C], rounding mode, rows done, and the cycle from which it stands, once it has started. -/
structure MCmd where
  fn   : Nat
  acc  : Nat
  ctl  : Nat
  a    : W64
  b    : W64
  c    : W64
  rnd  : Nat
  rows : Nat
  acpt : Nat
  due  : Option Nat
  deriving DecidableEq, Repr

/-- The latched weights of a tile (R251, R253): the fields and the column vectors as bytes, by column and byte. -/
structure Weights where
  fmt  : Nat
  wp   : Nat
  wk   : Nat
  kr   : Nat
  nc   : Nat
  cols : Cells Byte
  deriving DecidableEq, Repr

/-- The matrix engine's state for the crew that owns it (R251): `acc` holds acc[N][m][n] at key 32768 N + 256 m + n;
`wfmtL` to `tagsL` are the weight fields and tags that every accepted command leaves (R258, R266). -/
structure Matrix where
  owned   : Bool
  weights : Option Weights
  acc     : Cells W32
  tags    : Cells Nat
  cmds    : List MCmd
  lderr   : Bool
  wlast   : Option (Nat × Nat × Nat × Nat × Nat)
  tlast   : Cells Nat
  stoodAt : Nat
  latched : Nat
  deriving DecidableEq, Repr

def Matrix.reset : Matrix :=
  { owned := false, weights := none, acc := [], tags := [], cmds := [], lderr := false, wlast := none, tlast := [],
    stoodAt := 0, latched := 0 }

/-- A crew's Sparge slot (R240). `execs` counts by word address; `push` is the ASTRM under way: its queue and, for each
byte, the access that brings it and its offset in the line, or 0 and the byte fixed at issue. -/
structure Slice where
  has    : Bool
  queues : Cells (List (List Byte))
  a      : Cells W64
  pc     : W64
  ctr    : Cells Nat
  cnt    : Cells Nat
  loop   : Cells W64
  depth  : Nat
  execs  : Cells Nat
  state  : Nat
  push   : Option (Nat × List (Nat × Nat × Byte))
  deriving DecidableEq, Repr

def Slice.reset : Slice :=
  { has := false, queues := [], a := [], pc := 0#64, ctr := [], cnt := [], loop := [], depth := 0, execs := [],
    state := 0, push := none }

/-- A dump (R129, R424, R425), kept until the XRET of the part that wrote it: the part, the address after its DUMPC, the
destination register, address, limit, cycle and TIME; the HALT entries; the copies in flight at the broadcast, by ordinal
and FN; whether a pre-emption asks for its end; `phase` 0 while the crew halts, 1 with its blocks on their way, 2 with its
header on its way, 3 written; the bytes still to be written and where its sections start; the bytes written, the sections
begun, and whether LIMIT and FAULT are set. -/
structure Dump where
  wave  : Nat
  part  : Nat
  next  : W64
  dreg  : Nat
  addr  : W64
  limit : W64
  start : Nat
  time  : Nat
  halts : List (Nat × Nat × Nat × W64 × Nat)
  copies : List (Nat × Nat)
  preempt : Bool
  phase : Nat
  left  : List Byte
  starts : List Nat
  bytes : Nat
  nsect : Nat
  lim   : Bool
  fault : Bool
  deriving DecidableEq, Repr

/-- A lane that a gatherer has placed (R300, R320): the ray, its record's address, its continuation value, and the
reference under work. -/
structure GLane where
  ray   : Nat
  ra    : W64
  value : W32
  ref   : W32
  deriving DecidableEq, Repr

/-- A page held for a launch, or found by a walk (R382, R384): virtual base, size, physical base, rights, TSO, key. -/
structure Page where
  va   : Nat
  size : Nat
  pa   : Nat
  x    : Bool
  w    : Bool
  rd   : Bool
  tso  : Bool
  key  : Nat
  deriving DecidableEq, Repr

/-- A crew (R270, R271). `waves` holds its waves while the crew is out of focus; `centry` is the continuation-table entry
of a continuation or invocation crew (R302), `fetch` the pages its fetches hold (R384). `turnAt` and `turnKey` are the
cycle in which the crew last issued and the place of that unit in the order of R201 and R222: 16 times the wave index plus
the part index plus 1, then Sparge, then the engines. `again` are the parts, by wave and lowest quad, that stood before a unit
in the cycle in which another part matched (R422). `haltAt` is the TIME at which the crew began to halt (R372). -/
structure Crew where
  cid      : Nat
  cond     : Cond
  kind     : CrewKind
  ctx      : Nat
  launch   : Nat
  slot     : Nat
  core     : Nat
  ref      : Nat
  coords   : W64 × W64
  code     : Nat
  nwave    : Nat
  entry    : W64
  stackb   : W64
  scr      : Nat
  scrAt    : Nat
  scratch  : Cells Byte
  bars     : List Barrier
  trk      : Cells Tracker
  nbuf     : Nat
  bufs     : Cells Buf
  copies   : List Copy
  copyOrd  : Nat
  stores   : List PStore
  sfq      : List SfRecord
  sfseq    : Nat
  matrix   : Matrix
  slice    : Slice
  fetch    : List Page
  halt     : Bool
  recov    : Bool
  stop     : Option (Nat × Nat × Nat × Nat × W64 × W64)
  again    : List (Nat × Nat)
  waiter   : Option CmdTag
  step     : Option (Nat × Nat)
  dump     : Option Dump
  admitted : Nat
  cycles   : Nat
  refresh  : Option Nat
  swapEnd  : Nat
  image    : Nat
  runs     : Nat
  centry   : List Byte
  gather   : List GLane
  turnAt   : Nat
  turnKey  : Nat
  haltAt   : Nat
  waves    : List Wave
  deriving DecidableEq, Repr

/-- No crew. -/
def Crew.none : Crew :=
  { cid := 0, cond := .absent, kind := .launch, ctx := 0, launch := 0, slot := 0, core := 0, ref := 0,
    coords := (0#64, 0#64), code := 0, nwave := 0, entry := 0#64, stackb := 0#64, scr := 0, scrAt := 0, scratch := [], bars := [],
    trk := [], nbuf := 0, bufs := [], copies := [], copyOrd := 0, stores := [], sfq := [], sfseq := 0,
    matrix := Matrix.reset, slice := Slice.reset, fetch := [], halt := false, recov := false, stop := .none, again := [], waiter := .none, step := .none,
    dump := .none, admitted := 0, cycles := 0, refresh := .none, swapEnd := 0, image := 0, runs := 0, centry := [], gather := [],
    turnAt := 0, turnKey := 0, haltAt := 0, waves := [] }

/-! ### Cores, clusters, vaults -/

/-- An L1 line (R181); DIRTY bytes are a bit mask, data bytes stand by offset. -/
structure L1Line where
  filled : Bool
  dirty  : BitVec 128
  lease  : Nat
  trk    : Nat
  owner  : Nat
  data   : Cells Byte
  first  : Bool
  key    : Nat
  vault  : Bool
  poison : Nat
  deriving DecidableEq, Repr

/-- A line that L1 does not hold. -/
def L1Line.none : L1Line :=
  { filled := false, dirty := 0#128, lease := 0, trk := 0, owner := 0, data := [], first := false,
    key := 0, vault := false, poison := 0 }

/-- A tagged unit (R415): its crew and context, its CREWREF and the words that name its part, the address of its instruction word,
TIME, the numbers of its accesses (from `lo` on, and below `hi` once it has issued), the deepest place that they have reached,
whether it has ended before WB, and the crew name block as it stood when the unit issued (R416). -/
structure EmberTag where
  crew  : Nat
  ctx   : Nat
  ref   : Nat
  part  : Nat
  pc    : W64
  time  : Nat
  lo    : Nat
  hi    : Option Nat
  level : Nat
  ended : Bool
  name  : List W64
  deriving DecidableEq, Repr

/-- An Ember sampler of a sequencer (R414): LFSR, units counted, interval; `armed` when the next unit is to be tagged,
`own` the parts whose next unit EMBER tags; `tag` the unit in flight. -/
structure Ember where
  lfsr     : W32
  count    : Nat
  interval : Nat
  armed    : Bool
  own      : List (Nat × Nat × Nat)
  tag      : Option EmberTag
  deriving DecidableEq, Repr

def Ember.reset : Ember := { lfsr := 0#32, count := 0, interval := 0, armed := false, own := [], tag := none }

/-- A word in an instruction cache (R125): the word, and the contexts and virtual addresses that it was fetched at. -/
structure CodeWord where
  word : W32
  at_  : List (Nat × Nat)
  deriving DecidableEq, Repr

/-- What a sequencer has issued in the cycle `cycle`: the quad positions its units hold, and how many units it issued in
all and of the scalar, memory and engine command classes (R169). -/
structure Slots where
  cycle  : Nat
  held   : Nat
  units  : Nat
  scalar : Nat
  memory : Nat
  engine : Nat
  deriving DecidableEq, Repr

def Slots.none : Slots := { cycle := 0, held := 0, units := 0, scalar := 0, memory := 0, engine := 0 }

/-- A core: its L1 lines by line number, its instruction cache words by physical address, its Ember samplers, and the issue
slots of its sequencers. -/
structure Core where
  l1     : Cells L1Line
  icache : Cells (Option CodeWord)
  ember  : Cells Ember
  slots  : Cells Slots
  deriving DecidableEq, Repr

def Core.none : Core := { l1 := [], icache := [], ember := [], slots := [] }

/-- A taper ramp (R352, R365): the slot and context charged, the kernel entry, the cycles counted, the height of the ramp in
thousandths of an ampere at a TIME, and whether an estimate has been made since it started. -/
structure Ramp where
  ctx    : Nat
  queue  : Nat
  entry  : W64
  cycles : Nat
  amps   : Nat
  time   : Nat
  seen   : Bool
  deriving DecidableEq, Repr

/-- A Lantern entry (R312): its set, its way, its key (context, BVH id, GEN, cells and direction code), its leaf. A
cluster lists its entries from the least to the most recently used. -/
structure LEntry where
  set  : Nat
  way  : Nat
  key  : List Nat
  leaf : Nat
  deriving DecidableEq, Repr

/-- A cluster's clock and power controls (R347 to R353): the cycle count `cyc` at clock `clk`, the length of a cycle and the
clock of the boundary at which it changes, the droop hold, the trip times within the last 1 ms, GCTL, BBIAS and TAPCTL, the
code that the bias generator moves to, the TIME of its next move, whether a re-plan ends there and whether it found no code
with 60 ps, re-plans due, the estimate and the TIME of the next, the ramp, the clock up to which the lifetime records count,
and the corrected errors by array. -/
structure Cluster where
  cyc     : Nat
  clk     : Nat
  len     : Nat
  shift   : Option Nat
  tripped : Bool
  holdEnd : Nat
  trips   : List Nat
  gctl    : W64
  bbias   : W64
  tapctl  : W64
  target  : Option Int
  stepAt  : Nat
  planEnd : Bool
  short   : Bool
  planDue : Bool
  nextPlan : Nat
  estimate : Nat
  nextEst : Nat
  ramp    : Option Ramp
  lantern : List LEntry
  since   : Nat
  eccs    : Cells Nat
  deriving DecidableEq, Repr

/-- A cluster after reset: GCTL HOLD 1,024 and TRIP 10, BBIAS 0, TAPCTL SLOPE 10 (R348, R351, R353). -/
def Cluster.reset : Cluster :=
  { cyc := 0, clk := 0, len := 60, shift := none, tripped := false, holdEnd := 0, trips := [],
    gctl := 0x0000000004000A00#64, bbias := 0#64, tapctl := 0x000000000000000A#64, target := none, stepAt := 0,
    planEnd := false, short := false, planDue := false, nextPlan := 0, estimate := 0, nextEst := 0, ramp := none, lantern := [],
    since := 0, eccs := [] }

/-- A vault's thermal state (R341 to R345): TALW, the time MULT or CLOSED last changed, whether a sample has been taken since
reset, the TIME of the next sample, and the clock up to which the lifetime records count (R409). -/
structure Vault where
  talw    : W64
  changed : Nat
  sampled : Bool
  next    : Nat
  since   : Nat
  deriving DecidableEq, Repr

def Vault.reset : Vault := { talw := 0#64, changed := 0, sampled := false, next := 0, since := 0 }

/-! ### Homes and accesses -/

/-- A line at its home (R290 to R293): horizon, copies that own it, presence in the slice, FILLER and WRITER, and the cycles
of the home plus 1 in which it last performed an atomic on the line and granted a lease on it. -/
structure HomeLine where
  h       : Nat
  owners  : List (Nat × Nat)
  present : Bool
  dirty   : Bool
  filler  : Nat
  writer  : Nat
  atom    : Nat
  leased  : Nat
  deriving DecidableEq, Repr

def HomeLine.none : HomeLine :=
  { h := 0, owners := [], present := false, dirty := false, filler := 0, writer := 0, atom := 0, leased := 0 }

/-- What an access asks of its home: a read of a line with a requested lease length (0: none), bytes to write, an
atomic, a conditional element step. -/
inductive AccOp where
  | read (lease : Nat)
  | write (bytes : Cells W64)
  | atomic (fn : Nat) (size off : Nat) (v c : W64)
  deriving DecidableEq, Repr

/-- What becomes of the answer: it fills L1, or goes to a load alone; it fills L1 and an atomic is performed there (R206);
it dates a store or a write-down; it goes to a copy, or is a write-down that a copy needs first (R233); or it goes to the
unit, the n-th of its part, that waits for it (R317, R321). `here` is a lane of an atomic that is performed in its core once
the lanes before it have been (R204): in the scratchpad, or on a line that stood in L1. -/
inductive AccUse where
  | fill (first : Bool)
  | load
  | atom (fn size off : Nat) (v c : W64)
  | store
  | writedown
  | copy (ord : Nat)
  | ahead (ord : Nat)
  | unit (n : Nat)
  | here (scr : Bool) (fn size off : Nat) (v c : W64)
  deriving DecidableEq, Repr

/-- An answer of a home: the line's bytes (or the old value of an atomic), the lease expiry, the completion time. -/
structure Answer where
  bytes  : Cells W64
  lease  : Option Nat
  ct     : Option Nat
  poison : Nat
  failed : Bool
  deriving DecidableEq, Repr

/-- An access that has left its core (R187, R288): physical line, key id, TSO, tracker, and its answer once the home
has performed it; `back` once the answer has reached the core; `stale` marks a fill that a later write of its core
overtakes; `pc` is the PC of the part that sent it, and `quads` its QMASK, 0 for an engine's. For a fabric line `port` is the port it takes (16: none is up), and
`who` the lanes that it serves with their addresses. -/
structure Access where
  id    : Nat
  core  : Nat
  crew  : Nat
  wave  : Nat
  part  : Nat
  ctx   : Nat
  line  : Nat
  off   : Nat
  key   : Nat
  tso   : Bool
  trk   : Option Nat
  vault : Bool
  op    : AccOp
  use   : AccUse
  sent  : Nat
  pc    : W64
  quads : Nat
  port  : Nat
  who   : List (Nat × Nat)
  stale : Bool
  ans   : Option Answer
  back  : Bool
  deriving DecidableEq, Repr

/-! ### Contexts, launches, queues -/

/-- A grant of a launch (R386): its range and rights, and the handle it names. -/
structure Grant where
  base : Nat
  size : Nat
  hdl  : Option Nat
  gw   : Bool
  gr   : Bool
  deriving DecidableEq, Repr

/-- A tensor handle (R392): the physical base of its space, the key value that blocks of it which nothing has written
stand under, the time of its last grant, the migrations under way and waiting (target tier, target vault, and the command that
waits for it), and the time of its last migration by R368. -/
structure Handle where
  base   : Nat
  extent : Nat
  ndim   : Nat
  dims   : List Nat
  esz    : Nat
  format : Nat
  prio   : Nat
  tier   : Nat
  vault  : Nat
  pinned : Bool
  key    : Nat
  pa     : Nat
  wkey   : List Byte
  granted : Nat
  moving : List (Nat × Nat × Option CmdTag)
  lastMv : Nat
  deriving DecidableEq, Repr

/-- A launch (R356, R361): the record's bytes and address, the slot and queue it came from, its command's TAG word and
CPLA; whether LNCH captured it, whether it has started, whether it has passed its WAIT test; the crews admitted once, in
all, alive and lost; its grants and pages held (R384); `away` the crews placed away from the affinity vault (R368);
`ring` whether its record still stands at HEAD; `doms` the domains of its groups by level and group (R358). -/
structure Launch where
  lid     : Nat
  ctx     : Nat
  queue   : Nat
  slot    : Nat
  addr    : W64
  word0   : W64
  cpla    : W64
  bytes   : List Byte
  caught  : Bool
  started : Bool
  passed  : Bool
  next    : Nat
  total   : Nat
  alive   : Nat
  lost    : Nat
  grants  : List Grant
  pages   : List Page
  stkPages  : List Page
  away    : Nat
  ring    : Bool
  doms    : List (Nat × Nat × Nat)
  deriving DecidableEq, Repr

/-- A slot (R359, R360, R366): the last header mapped, its queue and context, whether it is mapped, whether it has ever been,
whether its header broke R359 since, whether it is served; `held` is the command that it waits for: the empty list one under way, other words one
that is tried again (R402, R393). -/
structure Slot where
  hdr     : W64
  queue   : Nat
  ctx     : Nat
  mapped  : Bool
  known   : Bool
  broken  : Bool
  serving : Bool
  quantum : Nat
  deficit : Int
  held    : Option (List W64)
  deriving DecidableEq, Repr

def Slot.none : Slot :=
  { hdr := 0#64, queue := 0, ctx := 0, mapped := false, known := false, broken := false, serving := false, quantum := 0, deficit := 0,
    held := Option.none }

/-- A watchpoint (R419): enable, kind, base, limit. -/
structure Watch where
  on    : Bool
  kind  : Nat
  base  : Nat
  limit : Nat
  deriving DecidableEq, Repr

/-- A context (R404, and what the commands of R403 give it). `preempt`: 0 it runs, 1 a pre-emption is under way for the
command `ptag`, 2 it is switched out; `freeing` says that the command is a CTXFREE. `caught` holds the records that LNCH
captured, by header and ring index; `held` the commands that unmapped queues wait for, by queue, as a slot holds them (R360,
R402); `space` the regions of the save area by crew; `names` the CREWREFs that have a crew name record that stands (R416). -/
structure Ctx where
  ptroot  : W64
  ring    : W64
  save    : W64
  saveLen : W64
  rights  : Nat
  allot   : Cells Nat
  ways    : Nat
  events  : Cells W64
  handles : Cells (Option Handle)
  queues  : List (Nat × W64)
  caught  : List (W64 × Nat × List Byte)
  held    : Cells (Option (List W64))
  seq     : Nat
  preempt : Nat
  ptag    : Option CmdTag
  freeing : Bool
  account : List Nat
  crewRef : Nat
  contCnt : Nat
  space   : List (Nat × Nat × Nat)
  names   : List Nat
  attached : Bool
  buffer  : W64
  bseq    : Nat
  bps     : Cells (Option W64)
  watches : Cells Watch
  emberOn : Bool
  emberK  : Nat
  grist   : W64
  deriving DecidableEq, Repr

def Watch.none : Watch := { on := false, kind := 0, base := 0, limit := 0 }

/-! ### Rays and the gatherer -/

/-- A hit of a reference (R303): t, PRIMID, INSTID, the reference, its parameters, whether it is treated as opaque, and
its leaf. -/
structure RayHit where
  t    : W32
  prim : W32
  inst : W32
  ref  : Nat
  hu   : Nat
  hv   : Nat
  opq  : Bool
  leaf : Nat
  deriving DecidableEq, Repr

/-- A ray in flight (R299, R300), or a lane that CONTEND handed on, with record address 0 and no bytes (R320). `bytes` is
the record as the unit holds it, `entry` the continuation-table entry read at TRACE. `stage`: 0 traversing, 1 handed on
once TIME is at least `ready`, 2 in a wave of a gatherer, 3 under the invocation that crew `crew` runs; `kind` says what
it is handed on to. `lkey` is the Lantern key after the look-up, `reports` what intersection invocations reported,
`best` the closest hit, `cands` the candidates still to be run, `last` the reference of the last one processed, and `many` says
that there were more than 8, so that fallback passes collect them (R310). `tmax0` is TMAX as TRACE found it. -/
structure Ray where
  id      : Nat
  ctx     : Nat
  launch  : Nat
  cluster : Nat
  ra      : W64
  pa      : Nat
  key     : Nat
  value   : W32
  k       : Nat
  entry   : List Byte
  bytes   : List Byte
  stage   : Nat
  kind    : CrewKind
  ready   : Nat
  crew    : Nat
  ref     : Nat
  looked  : Bool
  lkey    : Option (List Nat)
  tmax0   : W32
  reports : List (Nat × Option (W32 × W32))
  best    : Option RayHit
  cands   : List RayHit
  last    : Option Nat
  many    : Bool
  deriving DecidableEq, Repr

/-- A wave that a gatherer is filling (R300): its key, the entry it opened with, its lanes, and the cycle its timer
ends in. -/
structure GWave where
  id      : Nat
  cluster : Nat
  ctx     : Nat
  launch  : Nat
  k       : Nat
  kind    : CrewKind
  entry   : List Byte
  lanes   : List GLane
  due     : Nat
  deriving DecidableEq, Repr

/-! ### The package -/

/-- The power cap in force (R408). -/
structure Cap where
  seq    : Nat
  watts  : Nat
  expiry : Nat
  deriving DecidableEq, Repr

/-- The lifetime records (R409): powered hours; time by vault and 5 °C bin; trips, storms and halved time by cluster;
time by cluster and bias code, and derated time; the last slacks of each cluster; error counts by array; thermal trips.
Times count units of the clock. -/
structure Lifetime where
  hours   : Nat
  temps   : Cells Nat
  droop   : Cells Nat
  bias    : Cells Nat
  ageing  : Cells (List Nat)
  ecc     : Cells Nat
  trips   : List (Nat × Nat)
  deriving DecidableEq, Repr

def Lifetime.reset : Lifetime :=
  { hours := 0, temps := [], droop := [], bias := [], ageing := [], ecc := [], trips := [] }

/-- What manufacture and module flash fix: the ROM, the fuse block, the configuration record with its fabric section,
the patch image, the fused key hash and minimum version, the serial number, the fused seed of the quote's key pair (R407) and the lifetime
records as last written. -/
structure Flash where
  rom     : List Byte
  fuses   : List Byte
  config  : List Byte
  fabric  : Option (List Byte)
  patch   : Option (List Byte)
  keyHash : List Byte
  minVer  : Nat
  serial  : W64
  seed    : List Byte
  life    : Lifetime
  deriving DecidableEq, Repr

def Flash.none : Flash :=
  { rom := [], fuses := [], config := [], fabric := .none, patch := .none, keyHash := [], minVer := 0, serial := 0#64,
    seed := [], life := Lifetime.reset }

/-- A fabric port (R428 to R437): the last sync flit, the nonces of the quote requests held, and the flits that the port
has sent (log 30). -/
structure Port where
  up       : Bool
  lastSync : Nat
  quotes   : List (List Byte)
  sent     : List (List Byte)
  deriving DecidableEq, Repr

def Port.none : Port := { up := false, lastSync := 0, quotes := [], sent := [] }

/-- The fabric as Lamplighter read it at boot (R429): windows as words; SOFS as it was at the TIME `slewed`, the change to it
that is under way since, the rate of that change in ppm, and the TIME of the next sync flits (R433). -/
structure Fabric where
  fidx     : Nat
  capsrc   : Nat
  porten   : Nat
  outbound : Cells (W64 × W64)
  inbound  : Cells (W64 × W64 × W64)
  ports    : Cells Port
  sofs     : Int
  slewed   : Nat
  aim      : Int
  rate     : Nat
  nextSync : Nat
  deriving DecidableEq, Repr

def Fabric.none : Fabric :=
  { fidx := 0, capsrc := 0, porten := 0, outbound := [], inbound := [], ports := [], sofs := 0, slewed := 0, aim := 0,
    rate := 0, nextSync := 0 }

/-- A change of a context's event vector that has reached Lamplighter in this cycle (R362): `rank` 0 for the completion of a
launch, 1 for EVSET and EVCLR, 2 for a command, and `key` its place among those; the bits to be cleared and then set, by word;
and for a launch the completion that is written when its SET bits are applied (R402). -/
structure Change where
  rank  : Nat
  key   : Nat
  ctx   : Nat
  clear : Cells W64
  set   : Cells W64
  done  : Option CmdTag
  deriving DecidableEq, Repr

/-- A write of Lamplighter's that is a release at scope 4 (R334, R390, R400), with the vector it raises afterwards: the context
whose translation it goes through (none: physical), its address and bytes, and the slot whose command it completes. -/
structure Post where
  ctx    : Option Nat
  addr   : Nat
  bytes  : List Byte
  vector : Nat
  slot   : Option Nat
  deriving DecidableEq, Repr

/-- The package: power, boot, BAR 0 registers, Lamplighter's registers, measurements and records; the TIMEs of the next record
write, background scrub and power estimate; `power` is the last estimate, in watts; `changes` are the changes of event vectors in
this cycle, in the order they came, `posts` Lamplighter's releases still to be performed, oldest first, and `lampCt` the largest
completion time of its writes. -/
structure Package where
  powered  : Bool
  booting  : Bool
  booted   : Bool
  halted   : Bool
  tripDue  : Option Nat
  status   : W64
  admq     : W64
  winb     : W64
  schctl   : W64
  powerctl : W64
  meas     : Cells (List Byte)
  patch    : List Byte
  pver     : Nat
  cap      : Option Cap
  capSeq   : Option Nat
  power    : Nat
  changes  : List Change
  posts    : List Post
  lampCt   : Nat
  keys     : Cells (List Byte)
  life     : Lifetime
  msix     : Cells Nat
  read     : List Byte
  hostCt   : Nat
  flash    : Flash
  scrubs   : Nat
  nextHour : Nat
  nextScrub : Nat
  nextPower : Nat
  deriving DecidableEq, Repr

/-- The package after reset: POWERCTL.FLOOR 1,440, SCHCTL DFLTQ 64 and DRAIN 20, STATUS 0 (R371, R396, R408). -/
def Package.reset : Package :=
  { powered := true, booting := false, booted := false, halted := false, tripDue := none, status := 0#64, admq := 0#64, winb := 0#64,
    schctl := 0x0000000000400014#64, powerctl := 0x00000000000005A0#64, meas := [], patch := [], pver := 0, cap := none,
    capSeq := none, power := 0, changes := [], posts := [], lampCt := 0, keys := [], life := Lifetime.reset, msix := [], read := [], hostCt := 0,
    flash := Flash.none, scrubs := 0, nextHour := 3600 * 10 ^ 9, nextScrub := 12 * 3600 * 10 ^ 9, nextPower := 100000 }

/-- Physical memory and its homes. `poison` holds, by 32-byte block, a bit for each 8-byte word that still has to be written
whole, and bit 4 where the block is poisoned as a whole (R355); `keyed` the key id and key value that wrote a block (R395); `floors` HF by
slice (R291). -/
structure MemSys where
  bytes  : Memory
  poison : Cells Nat
  keyed  : Cells (Nat × List Byte)
  lines  : Cells HomeLine
  floors : Cells Nat
  deriving DecidableEq, Repr

def MemSys.reset : MemSys := { bytes := [], poison := [], keyed := [], lines := [], floors := [] }

/-- Who issues the next unit: a part of a wave, or Sparge for a crew's slice (R240). -/
inductive Agent where
  | wave
  | sparge
  deriving DecidableEq, Repr

/-- A pick of the sequencers or of Sparge (R50). -/
inductive Turn where
  | part (p : PartRef)
  | slice (crew : Nat)
  deriving DecidableEq, Repr

/-! ### Stops -/

/-- Why the machine stops. -/
inductive Fault where
  /-- Raised by `step` when the package rails are off after a thermal trip (R346) and no RESET write is next: the
  module stays unpowered, so nothing happens. Safe: the manual says the module stays unpowered. -/
  | unpowered
  deriving DecidableEq, Repr

/-- Why the machine has no meaning for an instruction. -/
inductive Refusal where
  /-- Answered by an arm of `exec` for a row whose meaning is not written. Safe: nothing can be proved of that row. -/
  | notModelled (mnemonic : String)
  deriving DecidableEq, Repr

/-! ### The state -/

/-- The device. `clock` counts units of 1/78 ns: a cycle at 1.3 GHz is 60 of them and a cycle at 1.2 GHz is 65. `free`
is the index of the next free value, `ids` names accesses, copies, rays, launches and crews, `agenda` holds the events
to come and `sched` the picks to come: the model's own fields (log 2, log 3). `rails` holds, by cluster, the falls of its rail to
come, as the environment gives them: how many mV below the setpoint, and for how many cycles (log 27). -/
structure State where
  agent    : Agent
  part     : Part
  sibs     : List Part
  wave     : Wave
  waves    : List Wave
  crew     : Crew
  crews    : List Crew
  cores    : Cells Core
  clusters : Cells Cluster
  vaults   : Cells Vault
  memsys   : MemSys
  net      : List Access
  ctxs     : Cells (Option Ctx)
  launches : List Launch
  slots    : Cells Slot
  rays     : List Ray
  gwaves   : List GWave
  pkg      : Package
  fabric   : Fabric
  clock    : Nat
  visit    : Nat
  icinvs   : List CmdTag
  free     : Nat
  ids      : Nat
  agenda   : List Instr
  sched    : List Turn
  rails    : Cells (List (Nat × Nat))
  deriving DecidableEq, Repr

/-- The state after reset: no crew, no context, nothing in memory, the registers at their reset values (R348, R351,
R353, R371, R396, R408; what the manual leaves open: log 4, log 5). -/
def State.reset : State :=
  { agent := .wave, part := Part.none, sibs := [], wave := Wave.none, waves := [], crew := Crew.none, crews := [],
    cores := [], clusters := [], vaults := [], memsys := MemSys.reset, net := [], ctxs := [], launches := [],
    slots := [], rays := [], gwaves := [], pkg := Package.reset, fabric := Fabric.none, clock := 0, visit := 0,
    icinvs := [], free := 0, ids := 1, agenda := [], sched := [], rails := [] }

end Sys2Proof.Machine
end

