-- ==== Sys2Proof/Machine/Bits.lean ====
section
/-! DEFINITION. Bit fields, lane masks, sign extension and byte order (R1, R2). -/

namespace Sys2Proof.Machine

/-- The field [hi:lo] of a 64-bit word as a number. -/
def bfield (x : W64) (hi lo : Nat) : Nat := x.toNat / 2 ^ lo % 2 ^ (hi + 1 - lo)

/-- An address as a PC holds it: a multiple of 4 (R59). -/
def wordPc (x : W64) : W64 := x &&& ~~~ 3#64

/-- A 64-bit word with the field [hi:lo] replaced by the low bits of `v`. -/
def bset (x : W64) (hi lo v : Nat) : W64 :=
  BitVec.ofNat 64 (x.toNat % 2 ^ lo + v % 2 ^ (hi + 1 - lo) * 2 ^ lo + x.toNat / 2 ^ (hi + 1) * 2 ^ (hi + 1))

/-- The lanes 0 to 63. -/
def lanes64 : List Nat := List.range 64

/-- The mask of the lanes that meet `f`. -/
def maskOf (f : Nat → Bool) : W64 :=
  lanes64.foldr (fun l m => if f l then m ||| (1#64 <<< l) else m) 0#64

/-- The lanes of a mask, in ascending order. -/
def lanesOf (m : W64) : List Nat := lanes64.filter (fun l => m.getLsbD l)

/-- The lanes of the quads of a quad mask (R11). -/
def quadLanes (q : Nat) : W64 := maskOf (fun l => q.testBit (l / 4))

/-- The lowest set bit of a quad mask, 0 when there is none (R36). -/
def lowBit (q : Nat) : Nat := ((List.range 16).find? (fun i => q.testBit i)).getD 0

/-- The lowest lane of a mask. -/
def lowLane (m : W64) : Option Nat := lanes64.find? (fun l => m.getLsbD l)

/-- How many lanes of a mask are set. -/
def popcount (m : W64) : Nat := (lanesOf m).length

/-- The value of bytes in memory order (R2). -/
def leNat : List Byte → Nat
  | [] => 0
  | b :: t => b.toNat + 256 * leNat t

/-- A number as `n` bytes in memory order (R2). -/
def leBytes : Nat → Nat → List Byte
  | 0, _ => []
  | n + 1, x => BitVec.ofNat 8 x :: leBytes n (x / 256)

/-- The signed value of the low `w` bits of a number. -/
def signedOf (w x : Nat) : Int :=
  let y := x % 2 ^ w
  if y < 2 ^ (w - 1) then (y : Int) else (y : Int) - (2 ^ w : Nat)

/-- The low `w` bits of an integer, as a number. -/
def wrapTo (w : Nat) (x : Int) : Nat := (x % ((2 ^ w : Nat) : Int)).toNat

/-- An integer as a 64-bit word, wrapped (R82). -/
def w64 (x : Int) : W64 := BitVec.ofInt 64 x

/-- An integer as a 32-bit word, wrapped (R82). -/
def w32 (x : Int) : W32 := BitVec.ofInt 32 x

/-- An integer clamped to a range. -/
def clampInt (x lo hi : Int) : Int := if x < lo then lo else if hi < x then hi else x

/-- The number of a wave's lanes for its width code (R11, R26). -/
def widthOf (code : Nat) : Nat := 4 * 2 ^ code

/-- The mask of the lanes below a width. -/
def widthMask (w : Nat) : W64 := maskOf (fun l => decide (l < w))

/-- The elements of a list at positions `n` to `n + k - 1`, padded with a default. -/
def sliceOf {α : Type} (d : α) (l : List α) (n k : Nat) : List α := (List.range k).map (fun i => (l[n + i]?).getD d)

/-- Word `i` (of 64 bits) of a byte list, missing bytes reading 0. -/
def word64 (l : List Byte) (i : Nat) : W64 := BitVec.ofNat 64 (leNat (sliceOf 0#8 l (8 * i) 8))

/-- Word `i` (of 32 bits) of a byte list, missing bytes reading 0. -/
def word32 (l : List Byte) (i : Nat) : W32 := BitVec.ofNat 32 (leNat (sliceOf 0#8 l (4 * i) 4))

/-- A 64-bit word's bytes in memory order. -/
def bytes64 (x : W64) : List Byte := leBytes 8 x.toNat

/-- A 32-bit word's bytes in memory order. -/
def bytes32 (x : W32) : List Byte := leBytes 4 x.toNat

/-- The words of a list as bytes. -/
def wordsBytes (l : List W64) : List Byte := l.flatMap bytes64

/-- A byte list padded with zero bytes to a multiple of `n`. -/
def padTo (n : Nat) (l : List Byte) : List Byte := l ++ List.replicate ((n - l.length % n) % n) 0#8

/-- Consecutive values stored in a map from a key on. -/
def csetList {α : Type} [DecidableEq α] (d : α) (m : Cells α) (k : Nat) : List α → Cells α
  | [] => m
  | x :: t => csetList d (cset d m k x) (k + 1) t

/-- Values at consecutive keys of a map. -/
def cgetList {α : Type} (d : α) (m : Cells α) (k n : Nat) : List α := (List.range n).map (fun i => cget d m (k + i))

/-- A list with the elements that meet `p` replaced. -/
def updIf {α : Type} (p : α → Bool) (f : α → α) (l : List α) : List α := l.map (fun x => if p x then f x else x)

/-- A value put in front of the first element that it may stand before. -/
def insertBy {α : Type} (le : α → α → Bool) (x : α) : List α → List α
  | [] => [x]
  | y :: t => if le x y then x :: y :: t else y :: insertBy le x t

/-- A list in order; equal elements keep their order. -/
def sortBy {α : Type} (le : α → α → Bool) (l : List α) : List α := l.foldr (insertBy le) []

/-- The ceiling of a quotient. -/
def ceilDiv (a b : Nat) : Nat := (a + b - 1) / b

end Sys2Proof.Machine
end

