-- ==== Sys2Proof/Machine/Crypto.lean ====
section
/-! DEFINITION. The cryptography that the manual names: SHA-256 and SHA-512 (FIPS 180-4), HMAC (FIPS 198-1), MGF1 (RFC 8017) and
AES-256 in XTS mode (FIPS 197, IEEE 1619), for the measurements and signatures (R398, R399, R406, R407) and the memory
controllers (R395). -/

namespace Sys2Proof.Machine

/-! ### Bytes, most significant first -/

/-- The number that bytes are, most significant byte first. -/
def beNat (l : List Byte) : Nat := l.foldl (fun n b => 256 * n + b.toNat) 0

/-- A number as `n` bytes, most significant byte first. -/
def beBytes (n x : Nat) : List Byte := (leBytes n x).reverse

/-- Bytes XORed, over the shorter of two lists. -/
def xorBytes (a b : List Byte) : List Byte := List.zipWith (· ^^^ ·) a b

/-! ### SHA-2 (FIPS 180-4) -/

/-- What tells SHA-256 from SHA-512, for words of `w` bits: the round constants, the first hash value, and the rotations of the
functions Σ0, Σ1, σ0 and σ1; the last number of a σ is a shift. -/
structure Sha (w : Nat) where
  consts : List (BitVec w)
  first  : List (BitVec w)
  big0   : Nat × Nat × Nat
  big1   : Nat × Nat × Nat
  small0 : Nat × Nat × Nat
  small1 : Nat × Nat × Nat
  deriving DecidableEq, Repr

/-- A word rotated right by three amounts, XORed. -/
def shaBig {w : Nat} (r : Nat × Nat × Nat) (x : BitVec w) : BitVec w :=
  x.rotateRight r.1 ^^^ x.rotateRight r.2.1 ^^^ x.rotateRight r.2.2

/-- A word rotated right by two amounts and shifted right by a third, XORed. -/
def shaSmall {w : Nat} (r : Nat × Nat × Nat) (x : BitVec w) : BitVec w :=
  x.rotateRight r.1 ^^^ x.rotateRight r.2.1 ^^^ (x >>> r.2.2)

/-- One round, on the eight working variables. -/
def shaRound {w : Nat} (p : Sha w) (k m : BitVec w) (v : List (BitVec w)) : List (BitVec w) :=
  match v with
  | [a, b, c, d, e, f, g, h] =>
    let t1 := h + shaBig p.big1 e + ((e &&& f) ^^^ (~~~e &&& g)) + k + m
    let t2 := shaBig p.big0 a + ((a &&& b) ^^^ (a &&& c) ^^^ (b &&& c))
    [t1 + t2, a, b, c, d + t1, e, f, g]
  | _ => v

/-- The window of sixteen words of the message schedule, one round on. -/
def shaWindow {w : Nat} (p : Sha w) (ws : List (BitVec w)) : List (BitVec w) :=
  let at_ := fun (i : Nat) => (ws[i]?).getD 0#w
  ws.drop 1 ++ [shaSmall p.small1 (at_ 14) + at_ 9 + shaSmall p.small0 (at_ 1) + at_ 0]

/-- A hash value after one block of sixteen words. -/
def shaBlock {w : Nat} (p : Sha w) (hash block : List (BitVec w)) : List (BitVec w) :=
  let step := fun (x : List (BitVec w) × List (BitVec w)) (k : BitVec w) =>
    (shaRound p k ((x.2[0]?).getD 0#w) x.1, shaWindow p x.2)
  List.zipWith (· + ·) hash (p.consts.foldl step (hash, block)).1

/-- A message with its padding and its length: a whole number of blocks of `2 w` bytes. -/
def shaPadded (w : Nat) (m : List Byte) : List Byte :=
  let k := 2 * w
  m ++ [0x80#8] ++ List.replicate ((k - (m.length + 1 + w / 4) % k) % k) 0#8 ++ beBytes (w / 4) (8 * m.length)

/-- Word `i` of a padded message. -/
def shaWord (w : Nat) (m : List Byte) (i : Nat) : BitVec w := BitVec.ofNat w (beNat ((m.drop (w / 8 * i)).take (w / 8)))

/-- The hash of a message. -/
def shaHash {w : Nat} (p : Sha w) (m : List Byte) : List Byte :=
  let x := shaPadded w m
  let block := fun (j : Nat) => (List.range 16).map (shaWord w ((x.drop (2 * w * j)).take (2 * w)))
  ((List.range (x.length / (2 * w))).foldl (fun h j => shaBlock p h (block j)) p.first).flatMap (fun y => beBytes (w / 8) y.toNat)

/-- The round constants of SHA-256. -/
def sha256Consts : List (BitVec 32) :=
  [0x428a2f98#32, 0x71374491#32, 0xb5c0fbcf#32, 0xe9b5dba5#32, 0x3956c25b#32, 0x59f111f1#32, 0x923f82a4#32, 0xab1c5ed5#32]
    ++ [0xd807aa98#32, 0x12835b01#32, 0x243185be#32, 0x550c7dc3#32, 0x72be5d74#32, 0x80deb1fe#32, 0x9bdc06a7#32, 0xc19bf174#32]
    ++ [0xe49b69c1#32, 0xefbe4786#32, 0x0fc19dc6#32, 0x240ca1cc#32, 0x2de92c6f#32, 0x4a7484aa#32, 0x5cb0a9dc#32, 0x76f988da#32]
    ++ [0x983e5152#32, 0xa831c66d#32, 0xb00327c8#32, 0xbf597fc7#32, 0xc6e00bf3#32, 0xd5a79147#32, 0x06ca6351#32, 0x14292967#32]
    ++ [0x27b70a85#32, 0x2e1b2138#32, 0x4d2c6dfc#32, 0x53380d13#32, 0x650a7354#32, 0x766a0abb#32, 0x81c2c92e#32, 0x92722c85#32]
    ++ [0xa2bfe8a1#32, 0xa81a664b#32, 0xc24b8b70#32, 0xc76c51a3#32, 0xd192e819#32, 0xd6990624#32, 0xf40e3585#32, 0x106aa070#32]
    ++ [0x19a4c116#32, 0x1e376c08#32, 0x2748774c#32, 0x34b0bcb5#32, 0x391c0cb3#32, 0x4ed8aa4a#32, 0x5b9cca4f#32, 0x682e6ff3#32]
    ++ [0x748f82ee#32, 0x78a5636f#32, 0x84c87814#32, 0x8cc70208#32, 0x90befffa#32, 0xa4506ceb#32, 0xbef9a3f7#32, 0xc67178f2#32]

/-- SHA-256. -/
def sha256Kind : Sha 32 :=
  { consts := sha256Consts,
    first := [0x6a09e667#32, 0xbb67ae85#32, 0x3c6ef372#32, 0xa54ff53a#32, 0x510e527f#32, 0x9b05688c#32, 0x1f83d9ab#32, 0x5be0cd19#32],
    big0 := (2, 13, 22), big1 := (6, 11, 25), small0 := (7, 18, 3), small1 := (17, 19, 10) }

/-- The SHA-256 hash of a message: 32 bytes. -/
def sha256 (m : List Byte) : List Byte := shaHash sha256Kind m

/-- The round constants of SHA-512. -/
def sha512Consts : List (BitVec 64) :=
  [0x428a2f98d728ae22#64, 0x7137449123ef65cd#64, 0xb5c0fbcfec4d3b2f#64, 0xe9b5dba58189dbbc#64]
    ++ [0x3956c25bf348b538#64, 0x59f111f1b605d019#64, 0x923f82a4af194f9b#64, 0xab1c5ed5da6d8118#64]
    ++ [0xd807aa98a3030242#64, 0x12835b0145706fbe#64, 0x243185be4ee4b28c#64, 0x550c7dc3d5ffb4e2#64]
    ++ [0x72be5d74f27b896f#64, 0x80deb1fe3b1696b1#64, 0x9bdc06a725c71235#64, 0xc19bf174cf692694#64]
    ++ [0xe49b69c19ef14ad2#64, 0xefbe4786384f25e3#64, 0x0fc19dc68b8cd5b5#64, 0x240ca1cc77ac9c65#64]
    ++ [0x2de92c6f592b0275#64, 0x4a7484aa6ea6e483#64, 0x5cb0a9dcbd41fbd4#64, 0x76f988da831153b5#64]
    ++ [0x983e5152ee66dfab#64, 0xa831c66d2db43210#64, 0xb00327c898fb213f#64, 0xbf597fc7beef0ee4#64]
    ++ [0xc6e00bf33da88fc2#64, 0xd5a79147930aa725#64, 0x06ca6351e003826f#64, 0x142929670a0e6e70#64]
    ++ [0x27b70a8546d22ffc#64, 0x2e1b21385c26c926#64, 0x4d2c6dfc5ac42aed#64, 0x53380d139d95b3df#64]
    ++ [0x650a73548baf63de#64, 0x766a0abb3c77b2a8#64, 0x81c2c92e47edaee6#64, 0x92722c851482353b#64]
    ++ [0xa2bfe8a14cf10364#64, 0xa81a664bbc423001#64, 0xc24b8b70d0f89791#64, 0xc76c51a30654be30#64]
    ++ [0xd192e819d6ef5218#64, 0xd69906245565a910#64, 0xf40e35855771202a#64, 0x106aa07032bbd1b8#64]
    ++ [0x19a4c116b8d2d0c8#64, 0x1e376c085141ab53#64, 0x2748774cdf8eeb99#64, 0x34b0bcb5e19b48a8#64]
    ++ [0x391c0cb3c5c95a63#64, 0x4ed8aa4ae3418acb#64, 0x5b9cca4f7763e373#64, 0x682e6ff3d6b2b8a3#64]
    ++ [0x748f82ee5defb2fc#64, 0x78a5636f43172f60#64, 0x84c87814a1f0ab72#64, 0x8cc702081a6439ec#64]
    ++ [0x90befffa23631e28#64, 0xa4506cebde82bde9#64, 0xbef9a3f7b2c67915#64, 0xc67178f2e372532b#64]
    ++ [0xca273eceea26619c#64, 0xd186b8c721c0c207#64, 0xeada7dd6cde0eb1e#64, 0xf57d4f7fee6ed178#64]
    ++ [0x06f067aa72176fba#64, 0x0a637dc5a2c898a6#64, 0x113f9804bef90dae#64, 0x1b710b35131c471b#64]
    ++ [0x28db77f523047d84#64, 0x32caab7b40c72493#64, 0x3c9ebe0a15c9bebc#64, 0x431d67c49c100d4c#64]
    ++ [0x4cc5d4becb3e42b6#64, 0x597f299cfc657e2a#64, 0x5fcb6fab3ad6faec#64, 0x6c44198c4a475817#64]

/-- SHA-512. -/
def sha512Kind : Sha 64 :=
  { consts := sha512Consts,
    first := [0x6a09e667f3bcc908#64, 0xbb67ae8584caa73b#64, 0x3c6ef372fe94f82b#64, 0xa54ff53a5f1d36f1#64]
      ++ [0x510e527fade682d1#64, 0x9b05688c2b3e6c1f#64, 0x1f83d9abfb41bd6b#64, 0x5be0cd19137e2179#64],
    big0 := (28, 34, 39), big1 := (14, 18, 41), small0 := (1, 8, 7), small1 := (19, 61, 6) }

/-- The SHA-512 hash of a message: 64 bytes. -/
def sha512 (m : List Byte) : List Byte := shaHash sha512Kind m

/-- HMAC over a hash whose blocks have `k` bytes (FIPS 198-1). -/
def hmac (hash : List Byte → List Byte) (k : Nat) (key m : List Byte) : List Byte :=
  let short := if k < key.length then hash key else key
  let pad := short ++ List.replicate (k - short.length) 0#8
  hash (pad.map (· ^^^ 0x5C#8) ++ hash (pad.map (· ^^^ 0x36#8) ++ m))

/-- MGF1: `n` bytes of mask from a seed, where a hash has `k` bytes (RFC 8017). -/
def mgf1 (hash : List Byte → List Byte) (k : Nat) (seed : List Byte) (n : Nat) : List Byte :=
  ((List.range (ceilDiv n k)).flatMap (fun i => hash (seed ++ beBytes 4 i))).take n

/-! ### AES-256 (FIPS 197) -/

/-- The S-box, sixteen entries to a row. -/
def sboxRows : List Nat :=
  [0x637c777bf26b6fc53001672bfed7ab76, 0xca82c97dfa5947f0add4a2af9ca472c0, 0xb7fd9326363ff7cc34a5e5f171d83115, 0x04c723c31896059a071280e2eb27b275,
   0x09832c1a1b6e5aa0523bd6b329e32f84, 0x53d100ed20fcb15b6acbbe394a4c58cf, 0xd0efaafb434d338545f9027f503c9fa8, 0x51a3408f929d38f5bcb6da2110fff3d2,
   0xcd0c13ec5f974417c4a77e3d645d1973, 0x60814fdc222a908846eeb814de5e0bdb, 0xe0323a0a4906245cc2d3ac629195e479, 0xe7c8376d8dd54ea96c56f4ea657aae08,
   0xba78252e1ca6b4c6e8dd741f4bbd8b8a, 0x703eb5664803f60e613557b986c11d9e, 0xe1f8981169d98e949b1e87e9ce5528df, 0x8ca1890dbfe6426841992d0fb054bb16]

/-- The inverse S-box. -/
def invSboxRows : List Nat :=
  [0x52096ad53036a538bf40a39e81f3d7fb, 0x7ce339829b2fff87348e4344c4dee9cb, 0x547b9432a6c2233dee4c950b42fac34e, 0x082ea16628d924b2765ba2496d8bd125,
   0x72f8f66486689816d4a45ccc5d65b692, 0x6c704850fdedb9da5e154657a78d9d84, 0x90d8ab008cbcd30af7e45805b8b34506, 0xd02c1e8fca3f0f02c1afbd0301138a6b,
   0x3a9111414f67dcea97f2cfcef0b4e673, 0x96ac7422e7ad3585e2f937e81c75df6e, 0x47f11a711d29c5896fb7620eaa18be1b, 0xfc563e4bc6d279209adbc0fe78cd5af4,
   0x1fdda8338807c731b11210592780ec5f, 0x60517fa919b54a0d2de57a9f93c99cef, 0xa0e03b4dae2af5b0c8ebbb3c83539961, 0x172b047eba77d626e169146355210c7d]

/-- An entry of an S-box. -/
def subByte (rows : List Nat) (b : Byte) : Byte := BitVec.ofNat 8 (((rows[b.toNat / 16]?).getD 0) >>> (8 * (15 - b.toNat % 16)))

/-- A byte of GF(2^8) times x. -/
def xtime (b : Byte) : Byte := (b <<< 1) ^^^ (if b.msb then 0x1B#8 else 0#8)

/-- A byte of GF(2^8) times a number below 16. -/
def gfMul (k : Nat) (b : Byte) : Byte :=
  let on := fun (i : Nat) (x : Byte) => if k.testBit i then x else 0#8
  on 0 b ^^^ on 1 (xtime b) ^^^ on 2 (xtime (xtime b)) ^^^ on 3 (xtime (xtime (xtime b)))

/-- Bytes put in another order: byte `i` is byte `f i`. -/
def permute (f : Nat → Nat) (x : List Byte) : List Byte := (List.range x.length).map (fun i => (x[f i]?).getD 0#8)

/-- ShiftRows: row `r` of the four columns moves left by `k r`; `k` is 1, or 3 for the inverse. -/
def shiftRows (k : Nat) (x : List Byte) : List Byte := permute (fun i => (i + 4 * k * (i % 4)) % 16) x

/-- MixColumns with the first row of its matrix: each row is the one before it, moved right by one. -/
def mixColumns (row : List Nat) (x : List Byte) : List Byte :=
  (List.range 16).map (fun i => (List.range 4).foldl (fun (acc : Byte) k =>
    acc ^^^ gfMul ((row[(k + 4 - i % 4) % 4]?).getD 0) ((x[i / 4 * 4 + k]?).getD 0#8)) 0#8)

/-- The next word of the key schedule, after the words so far; the round constants are the powers of x. -/
def aesKeyWord (ws : List (List Byte)) (i : Nat) : List Byte :=
  let w := fun (k : Nat) => (ws[k]?).getD []
  let t := w (i - 1)
  let u := if i % 8 = 0 then
      xorBytes ((permute (fun k => (k + 1) % 4) t).map (subByte sboxRows)) [BitVec.ofNat 8 (2 ^ (i / 8 - 1)), 0#8, 0#8, 0#8]
    else if i % 8 = 4 then t.map (subByte sboxRows) else t
  xorBytes (w (i - 8)) u

/-- The fifteen round keys of a key of 32 bytes, of 16 bytes each, as one list. -/
def aesKeys (key : List Byte) : List Byte :=
  let first := (List.range 8).map (fun i => sliceOf 0#8 key (4 * i) 4)
  ((List.range 52).foldl (fun ws i => ws ++ [aesKeyWord ws (i + 8)]) first).flatten

/-- A round key added. -/
def addRoundKey (keys : List Byte) (r : Nat) (x : List Byte) : List Byte := xorBytes x ((keys.drop (16 * r)).take 16)

/-- A block of 16 bytes encrypted. -/
def aesEncrypt (key x : List Byte) : List Byte :=
  let keys := aesKeys key
  let sub := fun (y : List Byte) => shiftRows 1 (y.map (subByte sboxRows))
  let mid := (List.range 13).foldl (fun y r => addRoundKey keys (r + 1) (mixColumns [2, 3, 1, 1] (sub y))) (addRoundKey keys 0 x)
  addRoundKey keys 14 (sub mid)

/-- A block of 16 bytes decrypted. -/
def aesDecrypt (key x : List Byte) : List Byte :=
  let keys := aesKeys key
  let sub := fun (y : List Byte) => (shiftRows 3 y).map (subByte invSboxRows)
  let mid := (List.range 13).foldl (fun y r => mixColumns [14, 11, 13, 9] (addRoundKey keys (13 - r) (sub y))) (addRoundKey keys 14 x)
  addRoundKey keys 0 (sub mid)

/-! ### XTS (IEEE 1619, R395) -/

/-- The tweak of block `j` of a data unit: the unit's number under the second key, times x as often as `j` says. -/
def xtsTweak (key : List Byte) (unit : Nat) : Nat → Nat
  | 0 => leNat (aesEncrypt (sliceOf 0#8 key 32 32) (leBytes 16 unit))
  | j + 1 =>
    let t := xtsTweak key unit j
    if 2 ^ 127 ≤ t then (2 * t - 2 ^ 128) ^^^ 0x87 else 2 * t

/-- A data unit of 32 bytes through AES in XTS mode, with `f` AES one way or the other; the first half of `key` is the key of the
data and the second that of the tweak. -/
def xts (f : List Byte → List Byte → List Byte) (key : List Byte) (unit : Nat) (x : List Byte) : List Byte :=
  (List.range 2).flatMap (fun j =>
    let t := leBytes 16 (xtsTweak key unit j)
    xorBytes t (f (sliceOf 0#8 key 0 32) (xorBytes t (sliceOf 0#8 x (16 * j) 16))))

/-- A block as a controller stores it (R395): key id 0, whose key is empty here, stores plaintext. -/
def encryptBlock (key : List Byte) (unit : Nat) (x : List Byte) : List Byte := if key = [] then x else xts aesEncrypt key unit x

/-- A stored block as a reader under a key sees it (R395). -/
def decryptBlock (key : List Byte) (unit : Nat) (x : List Byte) : List Byte := if key = [] then x else xts aesDecrypt key unit x

end Sys2Proof.Machine
end

