-- ==== Sys2Proof/Machine/Regs.lean ====
section
/-! DEFINITION. Time and cycles (R4, R326, R347), the focus on a part, and the one place where registers are read and
written, with the stall rules R29 to R34. -/

namespace Sys2Proof.Machine

/-! ### Clocks -/

/-- The cluster of a core: twelve cores each. -/
def clusterOf (core : Nat) : Nat := core / 12

def getCluster (s : State) (c : Nat) : Cluster := cget Cluster.reset s.clusters c

def setCluster (s : State) (c : Nat) (x : Cluster) : State :=
  { s with clusters := cset Cluster.reset s.clusters c x }

/-- Whether a cluster's clock is to be halved: the droop hold, or a closed vault above (R347). -/
def Cluster.halve (c : Cluster) : Bool := c.tripped || c.gctl.getLsbD 1

/-- The length that a cluster's cycle is to have, in units of 1/78 ns: 1.3 GHz, or 1.2 GHz when derated (R350), doubled when
halved (R347). -/
def cycleLen (c : Cluster) : Nat := (if c.bbias.getLsbD 16 then 65 else 60) * (if c.halve then 2 else 1)

/-- The cycle count of a cluster. -/
def cycleOf (s : State) (c : Nat) : Nat := (getCluster s c).cyc + (s.clock - (getCluster s c).clk) / (getCluster s c).len

/-- The cycle of the crew in focus. -/
def now (s : State) : Nat := cycleOf s (clusterOf s.crew.core)

/-- TIME in nanoseconds (R326). -/
def timeOf (s : State) : Nat := s.clock / 78

/-- The clock of the `b`-th cycle boundary of a cluster from now on. -/
def boundaryOf (s : State) (c b : Nat) : Nat :=
  (getCluster s c).clk + (cycleOf s c + b - (getCluster s c).cyc) * (getCluster s c).len

/-- The divider follows what a cluster's clock is to be from the `b`-th cycle boundary on (R347, R350). -/
def follow (c b : Nat) (s : State) : State :=
  let x := getCluster s c
  if x.shift.isSome || x.len == cycleLen x then s else setCluster s c { x with shift := some (boundaryOf s c b) }

/-! ### The focus -/

/-- A part put in its place among the parts of its wave, by its index (R36). -/
def insertPart (p : Part) : List Part → List Part
  | [] => [p]
  | q :: t => if lowBit p.quads < lowBit q.quads then p :: q :: t else q :: insertPart p t

/-- A wave put in its place among the waves of its crew. -/
def insertWave (w : Wave) : List Wave → List Wave
  | [] => [w]
  | x :: t => if w.widx < x.widx then w :: x :: t else x :: insertWave w t

/-- A crew put in its place by its number. -/
def insertCrew (c : Crew) : List Crew → List Crew
  | [] => [c]
  | x :: t => if c.cid < x.cid then c :: x :: t else x :: insertCrew c t

/-- The parts of the wave in focus. -/
def allParts (s : State) : List Part := if s.part.quads = 0 then s.sibs else insertPart s.part s.sibs

/-- The wave in focus with its parts. -/
def packWave (s : State) : Wave := { s.wave with parts := allParts s }

/-- The waves of the crew in focus. -/
def allWaves (s : State) : List Wave := if s.wave.vbase = 0 then s.waves else insertWave (packWave s) s.waves

/-- The crew in focus with its waves. -/
def packCrew (s : State) : Crew := { s.crew with waves := allWaves s }

/-- Every crew of the device. -/
def allCrews (s : State) : List Crew := if s.crew.cond = .absent then s.crews else insertCrew (packCrew s) s.crews

/-- No focus: every crew stands in `crews`. -/
def unfocus (s : State) : State :=
  { s with part := Part.none, sibs := [], wave := Wave.none, waves := [], crew := Crew.none, crews := allCrews s }

/-- The focus moved to a wave of the crew in focus, and to its part with index `pidx`, or to its first part. -/
def focusWave (s : State) (widx : Nat) (pidx : Option Nat) : State :=
  let ws := allWaves s
  match ws.find? (fun w => w.widx == widx) with
  | none => s
  | some w =>
    let p := match pidx with
      | some i => (w.parts.find? (fun q => lowBit q.quads == i)).getD Part.none
      | none => w.parts.head?.getD Part.none
    { s with waves := ws.filter (fun x => x.widx != widx), wave := { w with parts := [] }, part := p,
             sibs := w.parts.filter (fun q => q.quads != p.quads) }

/-- The focus moved to a crew, and to the first part of its first wave. -/
def focusCrew (s : State) (cid : Nat) : State :=
  if s.crew.cid = cid ∧ s.crew.cond ≠ .absent then s
  else
    let u := unfocus s
    match u.crews.find? (fun c => c.cid == cid) with
    | none => u
    | some c =>
      let t := { u with crews := u.crews.filter (fun x => x.cid != cid), crew := { c with waves := [] }, waves := c.waves }
      match c.waves with
      | [] => t
      | w :: _ => focusWave t w.widx none

/-- The focus moved to a part; where no such part exists, the part in focus is absent. -/
def focus (s : State) (p : PartRef) : State :=
  let t := focusCrew s p.crew
  if t.crew.cid = p.crew ∧ t.wave.widx = p.wave ∧ lowBit t.part.quads = p.part ∧ t.part.quads ≠ 0 then t
  else if (allWaves t).any (fun w => w.widx == p.wave) then focusWave t p.wave (some p.part)
  else { t with part := Part.none, sibs := allParts t }

/-- The part in focus, named. -/
def hereRef (s : State) : PartRef :=
  { crew := s.crew.cid, wave := s.wave.widx, part := lowBit s.part.quads }

/-- The crew in focus mapped over all waves and parts. -/
def mapParts (f : Wave → Part → Part) (s : State) : State :=
  { s with part := f s.wave s.part, sibs := s.sibs.map (f s.wave),
           waves := s.waves.map (fun w => { w with parts := w.parts.map (f w) }) }

/-! ### What parts of a wave see of one another in one cycle (R21, R24) -/

/-- The snapshot of the wave in focus, when it is of this cycle. -/
def snapNow (s : State) : Option Snap := s.wave.snap.filter (fun x => x.cycle == now s)

/-- WCTL of a wave as it holds in the cycle `c`: a write of that cycle holds from the next one on (R24). -/
def wctlAt (c : Nat) (w : Wave) : W64 := ((w.snap.filter (fun x => x.cycle == c)).map (·.wctl)).getD w.wctl

/-- TVEC of a wave as it holds in the cycle `c` (R24, R155). -/
def tvecAt (c : Nat) (w : Wave) : W64 := ((w.snap.filter (fun x => x.cycle == c)).map (·.tvec)).getD w.tvec

/-- WCTL as it holds in this cycle (R24). -/
def wctlOf (s : State) : W64 := wctlAt (now s) s.wave

/-- TVEC as it holds in this cycle (R24, R155). -/
def tvecOf (s : State) : W64 := tvecAt (now s) s.wave

/-! ### The order of one cycle (R201, R222) -/

/-- Whether a step of the crew in focus with place `key` may still come in this cycle. -/
def turnFree (key : Nat) (s : State) : Bool := s.crew.turnAt != now s || decide (s.crew.turnKey ≤ key)

/-- The crew in focus has come to the place `key` of this cycle. -/
def takeTurn (key : Nat) (s : State) : State := { s with crew := { s.crew with turnAt := now s, turnKey := key } }

/-- The place of a unit of the part in focus. -/
def partKey (s : State) : Nat := 16 * s.wave.widx + lowBit s.part.quads

/-- The crew in focus issues no further unit in this cycle, if it has issued one: an engine's step comes after them (R222,
R260); a step before the first unit of a cycle belongs to the cycle before. -/
def afterUnits (s : State) : State := if s.crew.turnAt = now s then takeTurn 2048 s else s

/-- The places of Sparge and of the engines: after every part (R222). -/
def spargeKey : Nat := 1024
def engineKey : Nat := 2048

/-! ### Registers -/

/-- The lanes of the part in focus (R36). -/
def partLanes (s : State) : W64 := quadLanes s.part.quads &&& widthMask (widthOf s.wave.code)

/-- The active lanes of the part in focus, ascending (R22). -/
def activeLanes (s : State) : List Nat := lanesOf s.part.exm

/-- A key that names a register of any kind. -/
def RegId.key : RegId → Nat
  | .v n => n
  | .s n => 1000 + n
  | .m n => 2000 + n
  | .exm => 3000

/-- The values that fixed-latency writes of a list have not replaced yet in a lane of a register (R30). -/
def unlandedOf (nowc : Nat) (pend : List Pend) (r : RegId) (l : Nat) : List W64 :=
  pend.filterMap (fun p => if p.reg = r ∧ nowc < p.land then p.olds.lookup l else none)

/-- Fixed-latency writes of the part in focus to a register that have not landed in a lane (R30). -/
def unlanded (s : State) (r : RegId) (l : Nat) : List W64 := unlandedOf (now s) s.part.pend r l

/-- The value in the register file, or where writes have not landed, that value or an older one (R31). -/
def early (s : State) (r : RegId) (l : Nat) (x : W64) (olds : List W64) : W64 :=
  match olds with
  | [] => x
  | _ => ((x :: olds)[Config.earlyPick s.free r.key l % (olds.length + 1)]?).getD x

/-- The value a read of the part in focus sees (R31). -/
def seen (s : State) (r : RegId) (l : Nat) (x : W64) : W64 := early s r l x (unlanded s r l)

/-- Scalar register `n` of the part in focus; `sz` reads 0 (R18). -/
def rdS (s : State) (n : Nat) : W64 := if n = 63 then 0#64 else seen s (.s n) 0 (cget 0#64 s.part.s n)

/-- Lane `l` of vector register `n`. -/
def vraw (w : Wave) (n l : Nat) : W32 := cget 0#32 w.v (64 * n + l)

/-- Lane `l` of vector register `n`, as an instruction reads it. -/
def rdV (s : State) (n l : Nat) : W32 := (seen s (.v n) l ((vraw s.wave n l).setWidth 64)).setWidth 32

/-- The bits of mask register `n` that other parts own, as they stood when the cycle began; a write of theirs that has not
landed may be seen or not (R21, R31). -/
def otherBits (s : State) (n : Nat) : W64 :=
  let x := cget 0#64 (((snapNow s).map (·.m)).getD s.wave.m) n
  s.sibs.foldl (fun y q => match unlandedOf (now s) q.pend (.m n) 0 with
    | [] => y
    | olds => (y &&& ~~~ quadLanes q.quads) ||| (early s (.m n) (lowBit q.quads) x olds &&& quadLanes q.quads)) x

/-- Mask register `n`, all 64 bits: the part's own bits follow the stall rules, the others read as they stand (R21). -/
def rdM (s : State) (n : Nat) : W64 :=
  (otherBits s n &&& ~~~ partLanes s) ||| (seen s (.m n) 0 (cget 0#64 s.wave.m n) &&& partLanes s)

/-- Whether an older fixed-latency write to a register lands after cycle `n` in some lane of `ls`. -/
def landsLater (s : State) (r : RegId) (ls : List Nat) (n : Nat) : Bool :=
  s.part.pend.any (fun p => decide (p.reg = r) && decide (n < p.land) && ls.any (fun l => (p.olds.lookup l).isSome))

/-- A pending write recorded at issue, when the latency is fixed (0 stands for a variable latency, R29, R32). -/
def addPend (lat : Nat) (r : RegId) (olds : List (Nat × W64)) (s : State) : State :=
  if lat = 0 ∨ olds = [] then s
  else { s with part := { s.part with
    pend := s.part.pend.filter (fun p => decide (now s < p.land)) ++ [{ reg := r, land := now s + lat, olds := olds }] } }

/-- What a write leaves in a register (R31): the value written, unless an older fixed-latency write lands later. A result of
variable latency stands over an older fixed-latency write that has not landed (log 49). -/
def settled (lat : Nat) (s : State) (r : RegId) (l : Nat) (x : W64) : W64 :=
  if lat ≠ 0 ∧ landsLater s r [l] (now s + lat) = true then Config.unordered s.free r.key l else x

/-- Scalar register `n` written with latency `lat`; a write of `sz` is discarded (R18). -/
def wrS (lat n : Nat) (x : W64) (s : State) : State :=
  if n = 63 then s
  else
    let y := settled lat s (.s n) 0 x
    let t := addPend lat (.s n) [(0, cget 0#64 s.part.s n)] s
    { t with part := { t.part with s := cset 0#64 t.part.s n y } }

/-- Lanes of a vector register replaced in a register file. -/
def vput (n : Nat) (f : Nat → W32) : List Nat → Cells W32 → Cells W32
  | [], v => v
  | l :: t, v => vput n f t (cset 0#32 v (64 * n + l) (f l))

/-- Vector register `n` written in the lanes `ls` with latency `lat` (R22). -/
def wrV (lat n : Nat) (ls : List Nat) (f : Nat → W32) (s : State) : State :=
  let t := addPend lat (.v n) (ls.map (fun l => (l, (vraw s.wave n l).setWidth 64))) s
  { t with wave := { t.wave with
    v := vput n (fun l => (settled lat s (.v n) l ((f l).setWidth 64)).setWidth 32) ls t.wave.v } }

/-- Bits of mask register `n` in the lanes `ls` replaced with latency `lat` (R20). -/
def wrM (lat n : Nat) (ls : List Nat) (f : Nat → Bool) (s : State) : State :=
  let old := cget 0#64 s.wave.m n
  let own := maskOf f
  let kept := settled lat s (.m n) 0 own
  let t := addPend lat (.m n) [(0, old)] s
  { t with wave := { t.wave with
    m := cset 0#64 t.wave.m n (maskOf (fun l => if ls.contains l then kept.getLsbD l else old.getLsbD l)) } }

/-- The execution mask of the part in focus replaced, limited to the part's lanes (R22). -/
def setExm (x : W64) (s : State) : State := { s with part := { s.part with exm := x &&& partLanes s } }

/-- Every pending fixed-latency write of the part in focus has landed (R34). -/
def landAll (s : State) : State := { s with part := { s.part with pend := [] } }

/-- The cycle in which the last pending write of the part in focus lands. -/
def lastLand (p : Part) : Nat := p.pend.foldl (fun m x => max m x.land) 0

end Sys2Proof.Machine
end

