-- ==== Sys2Proof/Machine/Mem.lean ====
section
/-! DEFINITION. Physical memory and its homes (R287 to R293, R355, R395), page walks (R381 to R383), the pages a launch
holds (R384), grants (R386, R388) and the steering of generic addresses (R173 to R176). -/

namespace Sys2Proof.Machine

/-! ### Contexts, launches, cores -/

def getCtx (s : State) (c : Nat) : Option Ctx := cget none s.ctxs c

def setCtx (s : State) (c : Nat) (x : Option Ctx) : State := { s with ctxs := cset none s.ctxs c x }

/-- A context changed in place; no effect where the context does not exist. -/
def updCtx (s : State) (c : Nat) (f : Ctx → Ctx) : State :=
  match getCtx s c with
  | some x => setCtx s c (some (f x))
  | none => s

def getLaunch (s : State) (l : Nat) : Option Launch := s.launches.find? (fun x => x.lid == l)

def updLaunch (s : State) (l : Nat) (f : Launch → Launch) : State :=
  { s with launches := updIf (fun x => x.lid == l) f s.launches }

def getCore (s : State) (k : Nat) : Core := cget Core.none s.cores k

def setCore (s : State) (k : Nat) (c : Core) : State := { s with cores := cset Core.none s.cores k c }

def getTrk (c : Crew) (t : Nat) : Tracker := cget Tracker.reset c.trk t

def setTrk (c : Crew) (t : Nat) (x : Tracker) : Crew := { c with trk := cset Tracker.reset c.trk t x }

/-- A crew changed wherever it stands. -/
def updCrew (s : State) (cid : Nat) (f : Crew → Crew) : State :=
  if s.crew.cid = cid ∧ s.crew.cond ≠ .absent then { s with crew := f s.crew }
  else { s with crews := updIf (fun c => c.cid == cid) f s.crews }

/-- A crew's own record, wherever it stands. -/
def findCrew (s : State) (cid : Nat) : Option Crew :=
  if s.crew.cid = cid ∧ s.crew.cond ≠ .absent then some s.crew else s.crews.find? (fun c => c.cid == cid)

/-! ### Physical addresses (R287) -/

/-- A physical address at or above 2^52 stands for space that Lamplighter places for a tensor handle (R392): handle h of
context c starts at 2^52 (1 + 4096 c + h) in the model (log 6). -/
def handlePa (ctx hdl : Nat) : Nat := 2 ^ 52 * (1 + 4096 * ctx + hdl)

/-- PA[51:45]: which memory an address names. -/
def paKind (pa : Nat) : Nat := pa / 2 ^ 45 % 128

/-- PA[44:40]: the vault, or the outbound window. -/
def paVault (pa : Nat) : Nat := pa / 2 ^ 40 % 32

/-- The handle whose space an address lies in. -/
def paHandle (s : State) (pa : Nat) : Option Handle :=
  if pa < 2 ^ 52 then none
  else match getCtx s ((pa / 2 ^ 52 - 1) / 4096) with
    | some c => cget none c.handles ((pa / 2 ^ 52 - 1) % 4096)
    | none => none

/-- Whether an address is memory (R287, R430). -/
def isMem (s : State) (pa : Nat) : Bool :=
  if 2 ^ 52 ≤ pa then (paHandle s pa).isSome
  else match paKind pa with
    | 0 => decide (pa % 2 ^ 40 < 9 * 2 ^ 30)
    | 1 => decide (pa % 2 ^ 40 < 192 * 2 ^ 20)
    | 2 => decide (pa % 2 ^ 45 < 192 * 2 ^ 30)
    | 3 => true
    | 4 => (cget (0#64, 0#64) s.fabric.outbound (paVault pa)).1.getLsbD 63
    | _ => false

/-- Whether every byte of a range of physical addresses is memory (R287, R400). -/
def physOk (s : State) (pa n : Nat) : Bool := decide (pa + n ≤ 2 ^ 52) && (List.range n).all (fun i => isMem s (pa + i))

/-- Whether a line lies behind a fabric window (R430). -/
def remoteLine (line : Nat) : Bool := decide (128 * line < 2 ^ 52) && paKind (128 * line) == 4

/-- The port that carries the accesses to a fabric line (R431); 16 where no port of its window is up. -/
def portOf (s : State) (line : Nat) : Nat :=
  let ports := bfield (cget (0#64, 0#64) s.fabric.outbound (paVault (128 * line))).1 15 0
  let up := (List.range 16).filter (fun p => ports.testBit p && (cget Port.none s.fabric.ports p).up)
  (up[line % 32 % max 1 up.length]?).getD 16

/-- The peer, and the address at the peer, that a fabric address names (R430). -/
def peerOf (s : State) (pa : Nat) : Nat := bfield (cget (0#64, 0#64) s.fabric.outbound (paVault pa)).1 47 32

def peerPa (s : State) (pa : Nat) : Nat := (cget (0#64, 0#64) s.fabric.outbound (paVault pa)).2.toNat + pa % 2 ^ 40

def getPort (s : State) (p : Nat) : Port := cget Port.none s.fabric.ports p

def setPort (p : Nat) (x : Port) (s : State) : State :=
  { s with fabric := { s.fabric with ports := cset Port.none s.fabric.ports p x } }

/-- A flit that a port sends: 256 bytes (R428); no port takes one while none is up (R437). -/
def sendFlit (p : Nat) (bs : List Byte) (s : State) : State :=
  if 16 ≤ p then s else setPort p { getPort s p with sent := (getPort s p).sent ++ [sliceOf 0#8 bs 0 256] } s

/-- What a flit that carries an access holds, as the model packs it: the kind, the access's number, the peer and the address
there, and the operands (R430; log 30). -/
def accessFlit (s : State) (a : Access) : List Byte :=
  let pa := 128 * a.line + a.off
  let head := fun (k : Nat) => leBytes 1 k ++ leBytes 8 a.id ++ leBytes 2 (peerOf s pa) ++ leBytes 8 (peerPa s pa)
  match a.op with
  | .read q => head 0 ++ leBytes 2 q
  | .write bs => head 1 ++ leBytes 16 (bs.foldl (fun m x => m ||| 2 ^ x.1) 0) ++
      (List.range 128).map (fun o => ((bs.lookup o).getD 0#64).setWidth 8)
  | .atomic fn n _ v c => head 2 ++ leBytes 1 fn ++ leBytes 1 n ++ bytes64 v ++ bytes64 c

/-- An access put on its way, under a new number; one to a fabric line takes a flit of its port (R428, R431). -/
def depart (a : Access) (s : State) : State :=
  let port := if remoteLine a.line then portOf s a.line else 16
  let x := { a with id := s.ids, sent := timeOf s, port := port }
  sendFlit port (accessFlit s x) { s with net := s.net ++ [x], ids := s.ids + 1 }

/-- Whether the controllers encrypt an address: stacked DRAM and GDDR 7 (R395). -/
def encrypted (s : State) (pa : Nat) : Bool :=
  match paHandle s pa with
  | some h => h.tier == 1 || h.tier == 2
  | none => decide (pa < 2 ^ 52) && (paKind pa == 0 || paKind pa == 2)

/-- The home slice of an address: eight times the die, plus the cluster (R287). -/
def homeSlice (s : State) (pa : Nat) : Nat :=
  match paHandle s pa with
  | some h => if h.tier < 2 then h.vault else pa / 2 ^ 7 % 4 * 8 + pa / 2 ^ 9 % 8
  | none => if paKind pa < 2 then paVault pa else pa / 2 ^ 7 % 4 * 8 + pa / 2 ^ 9 % 8

/-! ### Bytes and keys (R2, R395) -/

/-- The key value a key id stands for; key id 0 stores plaintext, and one that no KEYSET has loaded stands for free keys (log 60). -/
def keyVal (s : State) (k : Nat) : List Byte :=
  if k = 0 then [] else if (cget [] s.pkg.keys k).isEmpty then Config.unsetKey k else cget [] s.pkg.keys k

/-- Byte `a` as stored, before any decryption. -/
def rawByte (s : State) (a : Nat) : Byte := cget 0#8 s.memsys.bytes a

/-- The key id and key value that a block stands under: what wrote it, or for a handle's space that nothing has written
the key of the handle. -/
def blockTag (s : State) (b : Nat) : Nat × List Byte :=
  let tag := cget (0, []) s.memsys.keyed b
  match paHandle s (32 * b) with
  | some h => if tag = (0, []) then (h.key, h.wkey) else tag
  | none => tag

/-- The tweak of a 32-byte block (R395): PA[51:5], or for a handle's space what its place in its tier gives (log 60). -/
def blockUnit (s : State) (b : Nat) : Nat :=
  match paHandle s (32 * b) with
  | some h => Config.handleTweak h.tier h.vault b
  | none => b % 2 ^ 47

/-- A block as a reader under key id `k` sees it (R395): what was written, when it was written under the same key, and otherwise
what the stored block decrypts to under the reader's key. -/
def readBlock (s : State) (k b : Nat) : List Byte :=
  let tag := blockTag s b
  let x := cgetList 0#8 s.memsys.bytes (32 * b) 32
  if tag.2 = keyVal s k then x else decryptBlock (keyVal s k) (blockUnit s b) (encryptBlock tag.2 (blockUnit s b) x)

/-- Byte `a` as a reader under key id `k` sees it (R395): the byte that was written, when the block was written under
the same key, and otherwise what the block decrypts to under the reader's key. What a peer's memory holds, behind a
fabric window, is a free value. -/
def memByte (s : State) (k a : Nat) : Byte :=
  if a < 2 ^ 52 ∧ paKind a = 4 then Config.peerByte s.free a
  else if !encrypted s a || (blockTag s (a / 32)).2 == keyVal s k then rawByte s a
  else ((readBlock s k (a / 32))[a % 32]?).getD 0#8

/-- `n` bytes from `a` on, under key id `k`. -/
def memRead (s : State) (k a n : Nat) : List Byte := (List.range n).map (fun i => memByte s k (a + i))

/-- A block made the writer's own before a write under another key than the one it holds (R395). -/
def rekey (k a : Nat) (s : State) : State :=
  let tag := blockTag s (a / 32)
  if !encrypted s a || tag.2 == keyVal s k then s
  else { s with memsys := { s.memsys with
    bytes := csetList 0#8 s.memsys.bytes (a / 32 * 32) (readBlock s k (a / 32)),
    keyed := cset (0, []) s.memsys.keyed (a / 32) (k, keyVal s k) } }

/-- One byte written under key id `k`. -/
def setByte (k a : Nat) (b : Byte) (s : State) : State :=
  let t := rekey k a s
  { t with memsys := { t.memsys with bytes := cset 0#8 t.memsys.bytes a b } }

/-- Bytes written from `a` on. -/
def setBytes (k a : Nat) : List Byte → State → State
  | [], s => s
  | b :: t, s => setBytes k (a + 1) t (setByte k a b s)

/-- Whether word `i` of a block is poisoned, from the block's marks: one bit for each word still to be written whole, and bit 4
of a block that was poisoned as a whole, which keeps its mark until all four words have been written (R355). -/
def blockMarked (m i : Nat) : Bool := if m.testBit 4 then m % 16 != 0 else m.testBit i

/-- Whether an 8-byte word is poisoned. -/
def wordPoisoned (s : State) (w : Nat) : Bool := blockMarked (cget 0 s.memsys.poison (w / 4)) (w % 4)

/-- The marks of a block without that of a word. -/
def unmark (m i : Nat) : Nat := if m.testBit i then (if (m - 2 ^ i) % 16 = 0 then 0 else m - 2 ^ i) else m

/-- The 8-byte words that the `n` bytes from `a` on touch. -/
def wordsOf (a n : Nat) : List Nat :=
  if n = 0 then [] else (List.range ((a + n - 1) / 8 - a / 8 + 1)).map (fun i => a / 8 + i)

/-- Whether a byte range touches a poisoned word (R355). -/
def poisoned (s : State) (a n : Nat) : Bool := (wordsOf a n).any (wordPoisoned s)

/-- Poison marks after a write of the `n` bytes from `a` on: a word written whole clears its bit (R355). -/
def unpoison (a n : Nat) (s : State) : State :=
  let clear := fun (m : Cells Nat) (w : Nat) =>
    if a ≤ 8 * w ∧ 8 * w + 8 ≤ a + n then cset 0 m (w / 4) (unmark (cget 0 m (w / 4)) (w % 4)) else m
  { s with memsys := { s.memsys with poison := (wordsOf a n).foldl clear s.memsys.poison } }

/-! ### Homes (R288 to R293) -/

def homeLine (s : State) (line : Nat) : HomeLine :=
  let x := cget HomeLine.none s.memsys.lines line
  if x.present then x else { x with h := max x.h (cget 0 s.memsys.floors (homeSlice s (128 * line))) }

def setHomeLine (s : State) (line : Nat) (x : HomeLine) : State :=
  { s with memsys := { s.memsys with lines := cset HomeLine.none s.memsys.lines line x } }

/-- An amount added to entry `i` of a context's account (R293, R403): 0 core-cycles, 1 refresh, 2 taper, 3 fill bytes,
4 writeback bytes. -/
def charge (s : State) (ctx i : Nat) (n : Nat) : State :=
  updCtx s ctx (fun c => { c with account := (List.range 5).map (fun k => c.account[k]?.getD 0 + if k = i then n else 0) })

/-- The number that stands for no context: a request of the host, of a command of the admin queue or of Lamplighter's own
is charged to none (R293). -/
def noCtx : Nat := 64

/-- A line brought into its slice for a context, when it is not there (R291, R293). No slice holds a fabric line (R430). -/
def present (ctx line : Nat) (s : State) : State :=
  let x := homeLine s line
  let there := x.present || remoteLine line
  let t := setHomeLine (charge s ctx 3 128) line { x with present := true, filler := ctx }
  { s with
    ctxs := if there then s.ctxs else t.ctxs
    memsys := { s.memsys with lines := if there then s.memsys.lines else t.memsys.lines } }

/-- A line leaves its slice, when the slice chooses so (R291, R293): HF keeps the horizon, and a dirty line is charged
to its last writer. -/
def mayEvict (line : Nat) (s : State) : State :=
  let x := homeLine s line
  if x.present && x.owners.isEmpty && Config.freeBool 1 s.free then
    let sl := homeSlice s (128 * line)
    let t := if x.dirty then charge s x.writer 4 128 else s
    let u := setHomeLine t line { HomeLine.none with h := 0, writer := x.writer, atom := x.atom, leased := x.leased }
    { u with free := u.free + 1, memsys := { u.memsys with
      floors := cset 0 u.memsys.floors sl (max (cget 0 u.memsys.floors sl) x.h) } }
  else { s with free := s.free + 1 }

/-- The core number that stands for the hub: Lamplighter's writes and the host's leave from there. -/
def hubCore : Nat := 1000

/-- A write of no crew, of bytes within one fabric line: it leaves for the peer (R430). -/
def remoteWrite (ctx k a : Nat) (bs : List Byte) : Access :=
  { id := 0, core := hubCore, crew := 0, wave := 0, part := 0, ctx := ctx, line := a / 128, off := a % 128, key := k,
    tso := false, trk := none, vault := false,
    op := .write ((List.range bs.length).zipWith (fun i b => (a % 128 + i, b.setWidth 64)) bs), use := .store, sent := 0,
    pc := 0#64, quads := 0, port := 16, who := [], stale := false, ans := none, back := false }

/-- Bytes written at their home by a context's agent, within one line: the horizon is kept and the answer is the
completion time max(T, H + 8) (R290). A peer's home performs those of a fabric line when they reach it, and no slice here keeps
a horizon for them (R430). -/
def homeWrite (ctx k a : Nat) (bs : List Byte) (s : State) : State × Nat :=
  if remoteLine (a / 128) then (depart (remoteWrite ctx k a bs) s, timeOf s) else
  let s1 := present ctx (a / 128) s
  let x := homeLine s1 (a / 128)
  let s2 := setHomeLine s1 (a / 128) { x with dirty := true, writer := ctx }
  (unpoison a bs.length (setBytes k a bs s2), max (timeOf s) (x.h + 8))

/-- Bytes written at their homes, over as many lines as they touch; the answer is the largest completion time. -/
def homeWrites (ctx k a : Nat) (bs : List Byte) (s : State) : State × Nat :=
  let go := fun (st : State × Nat) (i : Nat) =>
    let line := a / 128 + i
    let lo := max a (128 * line)
    let hi := min (a + bs.length) (128 * line + 128)
    let r := homeWrite ctx k lo (sliceOf 0#8 bs (lo - a) (hi - lo)) st.1
    (r.1, max st.2 r.2)
  if bs = [] then (s, 0) else (List.range ((a + bs.length - 1) / 128 - a / 128 + 1)).foldl go (s, 0)

/-- The cycle of a line's home. -/
def homeCycle (s : State) (line : Nat) : Nat := cycleOf s (homeSlice s (128 * line))

/-- The home has performed an atomic on a line in this cycle (R290). -/
def notedAtom (line : Nat) (s : State) : State := setHomeLine s line { homeLine s line with atom := homeCycle s line + 1 }

/-- Whether the home has granted a lease on a line in this cycle: an atomic on the line is then performed in a later one, as no
lease is granted in the cycle of an atomic (R290). -/
def leasedNow (s : State) (line : Nat) : Bool := (homeLine s line).leased == homeCycle s line + 1

/-- A line read at its home with a requested lease length `q`: the lease expiry, when one is granted; none in a cycle in which
the home performs an atomic on the line (R290), and none here for a fabric line (R430). -/
def homeFill (ctx line q : Nat) (s : State) : State × Option Nat :=
  let s1 := present ctx line s
  let x := homeLine s1 line
  if remoteLine line then (s, none)
  else if q = 0 ∨ x.atom = homeCycle s1 line + 1 then (setHomeLine s1 line x, none)
  else (setHomeLine s1 line { x with h := max x.h (timeOf s + q), leased := homeCycle s1 line + 1 }, some (timeOf s + q))

/-- Whether no copy owns any of the lines (R292). -/
def unowned (s : State) (lines : List Nat) : Bool := lines.all (fun l => (homeLine s l).owners.isEmpty)

/-! ### Page walks (R381 to R383) -/

/-- The index fields of the four levels: high bit, low bit, entries, bytes and alignment of the table. -/
def walkLevels : List (Nat × Nat × Nat) := [(55, 43, 65536), (42, 30, 65536), (29, 24, 512), (23, 18, 512)]

/-- The entry of a table for a virtual address (R381). -/
def entryAt (va base hi lo : Nat) : Nat := base + 8 * (va / 2 ^ lo % 2 ^ (hi + 1 - lo))

/-- What an entry says (R383): the page of a leaf, the base of the next table, or nothing where translation fails there. -/
def walkStep (s : State) (va base lvl : Nat) : Nat × Nat × Nat → Option (Page ⊕ Nat)
  | (hi, lo, align) =>
    let ea := entryAt va base hi lo
    let e := BitVec.ofNat 64 (leNat (memRead s 0 ea 8))
    let adr := bfield e 60 18 * 512
    if base % align ≠ 0 ∨ isMem s ea = false then none
    else if e.getLsbD 0 = false ∨ bfield e 63 61 ≠ 0 ∨ bfield e 7 6 ≠ 0 then none
    else if e.getLsbD 1 then
      if lvl = 0 ∨ adr % 2 ^ lo ≠ 0 ∨ isMem s (adr + va % 2 ^ lo) = false then none
      else some (.inl { va := va / 2 ^ lo * 2 ^ lo, size := 2 ^ lo, pa := adr, x := e.getLsbD 4, w := e.getLsbD 3,
                        rd := e.getLsbD 2, tso := e.getLsbD 5, key := bfield e 17 8 })
    else if bfield e 17 8 ≠ 0 ∨ bfield e 5 2 ≠ 0 then none
    else some (.inr adr)

/-- The page a walk finds from a table base on; none where it fails translation (R383). -/
def walkFrom (s : State) (va : Nat) (base : Nat) (lvl : Nat) : List (Nat × Nat × Nat) → Option Page
  | [] => none
  | f :: rest => match walkStep s va base lvl f with
    | none => none
    | some (.inl p) => some p
    | some (.inr next) => walkFrom s va next (lvl + 1) rest

/-- The lines of the entries that a walk reads from a table base on (R383). -/
def walkLines (s : State) (va : Nat) (base : Nat) (lvl : Nat) : List (Nat × Nat × Nat) → List Nat
  | [] => []
  | f :: rest => entryAt va base f.1 f.2.1 / 128 :: match walkStep s va base lvl f with
    | some (.inr next) => walkLines s va next (lvl + 1) rest
    | _ => []

/-- The live handle of a context whose range holds a virtual address, with its number (R392). -/
def handleAt (c : Ctx) (va : Nat) : Option (Nat × Handle) :=
  c.handles.findSome? (fun (i, h) => h.bind (fun x => if x.base ≤ va ∧ va < x.base + x.extent then some (i, x) else none))

/-- The page of a tensor handle's range: TSO 0, rights RD and W, its own key id (R385, R392). -/
def handlePage (h : Handle) : Page :=
  { va := h.base, size := h.extent, pa := h.pa, x := false, w := true, rd := true, tso := false, key := h.key }

/-- What the page tables say of a page, without the ranges of live handles, which they never translate (R385, R392): the
stretch around a virtual address that lies in none of them. -/
def clip (c : Ctx) (va : Nat) (p : Page) : Page :=
  let ranges := c.handles.filterMap (fun h => h.2.map (fun x => (x.base, x.base + x.extent)))
  let lo := ranges.foldl (fun m r => if r.2 ≤ va then max m r.2 else m) p.va
  let hi := ranges.foldl (fun m r => if va < r.1 then min m r.1 else m) (p.va + p.size)
  { p with va := lo, size := hi - lo, pa := p.pa + (lo - p.va) }

/-- The translation of a virtual address of a context, at use: a live handle's range, else the page tables. -/
def walk (s : State) (ctx va : Nat) : Option Page :=
  match getCtx s ctx with
  | none => none
  | some c =>
    if 2 ^ 56 ≤ va then none
    else match handleAt c va with
      | some (_, h) => some (handlePage h)
      | none => (walkFrom s va c.ptroot.toNat 0 walkLevels).map (clip c va)

/-- The lines of the table entries that the translation of an address reads (R383, R392). -/
def tableLines (s : State) (ctx va : Nat) : List Nat :=
  match getCtx s ctx with
  | none => []
  | some c => if 2 ^ 56 ≤ va ∨ (handleAt c va).isSome = true then [] else walkLines s va c.ptroot.toNat 0 walkLevels

/-- Lines read at their homes for a context, as LDN reads read them (R293, R383). -/
def bring (ctx : Nat) (lines : List Nat) (s : State) : State :=
  let t := lines.foldl (fun t l => present ctx l t) s
  { s with ctxs := t.ctxs, memsys := t.memsys }

/-- The pages of a range, found by walks (R384); none where one is missing or lacks the rights asked for. -/
def pagesOf (s : State) (ctx : Nat) (rd w : Bool) : Nat → Nat → Nat → Option (List Page)
  | 0, _, _ => some []
  | fuel + 1, va, end_ =>
    if end_ ≤ va then some []
    else match walk s ctx va with
      | none => none
      | some p =>
        if (rd && !p.rd) || (w && !p.w) then none
        else (pagesOf s ctx rd w fuel (p.va + p.size) end_).map (fun l => p :: l)

/-- The lines of the table entries that the walks of a range read, up to the one that ends them (R384). -/
def rangeLines (s : State) (ctx : Nat) : Nat → Nat → Nat → List Nat
  | 0, _, _ => []
  | fuel + 1, va, end_ =>
    if end_ ≤ va then []
    else tableLines s ctx va ++ match walk s ctx va with
      | none => []
      | some p => rangeLines s ctx fuel (p.va + p.size) end_

/-- The page among `ps` that holds a virtual address. -/
def pageOf (ps : List Page) (va : Nat) : Option Page := ps.find? (fun p => decide (p.va ≤ va ∧ va < p.va + p.size))

/-- Whether two pages are one. -/
def Page.same (p q : Page) : Bool :=
  p.va == q.va && p.size == q.size && p.pa == q.pa && p.x == q.x && p.w == q.w && p.rd == q.rd && p.tso == q.tso && p.key == q.key

/-- The physical address of a virtual address in a page. -/
def Page.phys (p : Page) (va : Nat) : Nat := p.pa + (va - p.va)

/-- Bytes that Lamplighter reads through a context's translation at use (R384): none where a page fails translation or
read rights. -/
def ctxRead (s : State) (ctx va n : Nat) : Option (List Byte) :=
  (List.range n).foldr (fun i acc => match acc, walk s ctx (va + i) with
    | some bs, some p => if p.rd then some (memByte s p.key (p.phys (va + i)) :: bs) else none
    | _, _ => none) (some [])

/-- Whether every byte of a range has a translation with the rights asked for. -/
def ctxOk (s : State) (ctx va n : Nat) (rd w : Bool) : Bool :=
  decide (va + n ≤ 2 ^ 56) && (List.range n).all (fun i => match walk s ctx (va + i) with
    | some p => (!rd || p.rd) && (!w || p.w)
    | none => false)

/-- Bytes written through a context's translation, page by page, each line at its home; with the largest completion time. A
byte without a translation is passed over. -/
def ctxWrites (ctx : Nat) : Nat → Nat → List Byte → State × Nat → State × Nat
  | 0, _, _, st => st
  | fuel + 1, va, bs, st =>
    if bs = [] then st
    else match walk st.1 ctx va with
      | some p =>
        let n := max 1 (min bs.length (p.va + p.size - va))
        let r := homeWrites ctx p.key (p.phys va) (bs.take n) st.1
        ctxWrites ctx fuel (va + n) (bs.drop n) (r.1, max st.2 r.2)
      | none => ctxWrites ctx fuel (va + 1) (bs.drop 1) st

/-- Bytes that Lamplighter writes through a context's translation. -/
def ctxWrite (ctx va : Nat) (bs : List Byte) (s : State) : State := (ctxWrites ctx bs.length va bs (s, 0)).1

/-- A 64-bit word read through a context's translation, 0 where it fails. -/
def ctxWord (s : State) (ctx va : Nat) : W64 := BitVec.ofNat 64 (leNat ((ctxRead s ctx va 8).getD []))

/-- A 64-bit word that Lamplighter reads at an address whose rights it has checked already, whatever rights to read it has. -/
def ctxPeek (s : State) (ctx va : Nat) : W64 :=
  BitVec.ofNat 64 (leNat ((List.range 8).map (fun i => match walk s ctx (va + i) with
    | some p => memByte s p.key (p.phys (va + i))
    | none => 0#8)))

/-- Whether an address that a command names is one that a context translates, or lies in the vault window (R400). -/
def nameOk (s : State) (ctx va : Nat) : Bool := (walk s ctx va).isSome || va / 2 ^ 56 == 0xFC

/-! ### Generic addresses (R173 to R176) -/

/-- What a generic address names. -/
inductive Target where
  | glob (va : Nat) (stack : Bool)
  | scratch (off : Nat)
  | vault (v off : Nat)
  | bad
  deriving DecidableEq, Repr

/-- The lanes of the crew's waves with a lower index, and in all (R174). -/
def stackLanes (c : Crew) (w : Wave) (lane : Nat) : Nat × Nat :=
  (w.widx * widthOf c.code + lane, c.nwave * widthOf c.code)

/-- The window of an address formed by lane `lane` of the part in focus (none for a scalar access, R111), for an access
of `n` bytes. -/
def steer (s : State) (lane : Option Nat) (a : W64) (n : Nat) : Target :=
  let o := a.toNat % 2 ^ 56
  match a.toNat / 2 ^ 56 with
  | 0x00 => if o + n ≤ 2 ^ 56 then .glob o false else .bad
  | 0xFE => if o + n ≤ s.crew.scr then .scratch o else .bad
  | 0xFD =>
    match lane with
    | some l =>
      if o < 65536 ∧ s.crew.stackb ≠ 0#64 then
        let la := stackLanes s.crew s.wave l
        .glob ((s.crew.stackb.toNat + o / 16 * 16 * la.2 + 16 * la.1 + o % 16) % 2 ^ 56) true
      else .bad
    | none => .bad
  | 0xFC =>
    if o / 2 ^ 48 = 0 ∧ o / 2 ^ 28 % 2 ^ 15 = 0 ∧ o % 2 ^ 28 + n ≤ 0x0C000000 then .vault (o / 2 ^ 43 % 32) (o % 2 ^ 28)
    else .bad
  | _ => .bad

/-- Whether every byte of a range lies in a grant with the rights asked for (R388). -/
def granted (gs : List Grant) (va n : Nat) (rd w : Bool) : Bool :=
  (List.range n).all (fun i => gs.any (fun g =>
    decide (g.base ≤ va + i ∧ va + i < g.base + g.size) && (!rd || g.gr) && (!w || g.gw)))

/-- Where an access reaches memory: physical address, key id, TSO, and whether through the vault window. -/
structure Place where
  pa    : Nat
  key   : Nat
  tso   : Bool
  vault : Bool
  deriving DecidableEq, Repr

/-- Why an access fails (R279, R391): 1 translation, 2 rights, 3 outside the grants. -/
abbrev Reason := Nat

/-- The pages and grants that a crew's accesses are checked against: those of its launch (R384, R388). -/
def launchOf (s : State) : Option Launch := getLaunch s s.crew.launch

/-- Whether the first and the last of the `n` bytes from a physical address on are memory (R287). -/
def memSpan (s : State) (pa n : Nat) : Bool := isMem s pa && isMem s (pa + n - 1)

/-- A global access under a launch: checked against its grants (R388), translated through the pages the launch holds, and
checked against the page's rights. -/
def resolveL (s : State) (l : Launch) (va n : Nat) (stack rd w : Bool) : Except Reason Place :=
  if !(stack || granted l.grants va n rd w) then .error 3 else
  match (if stack then (pageOf l.stkPages va).orElse (fun _ => pageOf l.pages va) else pageOf l.pages va) with
  | none => .error 1
  | some p =>
    if p.va + p.size < va + n ∨ memSpan s (p.phys va) n = false then .error 1
    else if (rd && !p.rd) || (w && !p.w) then .error 2
    else .ok { pa := p.phys va, key := p.key, tso := p.tso, vault := false }

/-- A global access of the crew in focus. -/
def resolveG (s : State) (va n : Nat) (stack rd w : Bool) : Except Reason Place :=
  match launchOf s with
  | none => .error 1
  | some l => resolveL s l va n stack rd w

/-- The physical address of a vault-window byte (R175, R287). -/
def vaultPa (v off : Nat) : Nat := 2 ^ 45 + v * 2 ^ 40 + off

/-- Whether a context may use a range of a vault's SRAM (R289): 96 granules of 2 MiB. -/
def allotted (s : State) (ctx v off n : Nat) : Bool :=
  match getCtx s ctx with
  | some c => (cget 0 c.allot v).testBit (off / 2 ^ 21) && (cget 0 c.allot v).testBit ((off + n - 1) / 2 ^ 21)
  | none => false

end Sys2Proof.Machine
end

