-- ==== Sys2Proof/Machine/Records.lean ====
section
/-! DEFINITION. What Lamplighter and the debug units write: MSI-X vectors, completions (R400), the fault ring (R390,
R391), the sample buffer (R411 to R413, R416) and Grist sketches (R417); and a crew's scratchpad bytes. -/

namespace Sys2Proof.Machine

/-! ### Scratchpad bytes (R177) -/

def scrByte (c : Crew) (o : Nat) : Byte := cget 0#8 c.scratch o

def scrRead (c : Crew) (o n : Nat) : List Byte := cgetList 0#8 c.scratch o n

def scrNat (c : Crew) (o n : Nat) : Nat := leNat (scrRead c o n)

def scrWrite (o : Nat) (bs : List Byte) (c : Crew) : Crew := { c with scratch := csetList 0#8 c.scratch o bs }

/-- Whether a write of `n` bytes from offset `o` touches a barrier word (R180). -/
def touchesBar (c : Crew) (o n : Nat) : Bool := c.bars.any (fun b => decide (b.off < o + n ∧ o < b.off + 8))

/-- The crew name block (R271): 48 bytes, the barrier words in ascending offset. -/
def nameBlock (c : Crew) : List Byte :=
  let phases := (sortBy (fun a b => decide (a.off ≤ b.off)) c.bars).map (fun b => scrNat c (b.off + 6) 2)
  bytes64 c.coords.1
    ++ bytes64 (BitVec.ofNat 64 (c.coords.2.toNat % 2 ^ 48 + c.bars.length * 2 ^ 48 + c.ctx * 2 ^ 56))
    ++ (sliceOf 0 phases 0 16).flatMap (leBytes 2)

/-! ### Interrupt vectors and completions -/

/-- MSI-X vector `v` raised (R396): the count of times, by vector. -/
def msix (v : Nat) (s : State) : State :=
  { s with pkg := { s.pkg with msix := cset 0 s.pkg.msix v (cget 0 s.pkg.msix v + 1) } }

/-- A write of Lamplighter's has a completion time. -/
def noteCt (ct : Nat) (s : State) : State := { s with pkg := { s.pkg with lampCt := max s.pkg.lampCt ct } }

/-- Bytes that Lamplighter writes at their homes, through a context's translation or at physical addresses. -/
def viaWrite (ctx : Option Nat) (a : Nat) (bs : List Byte) (s : State) : State :=
  match ctx with
  | some c => let r := ctxWrites c bs.length a bs (s, 0)
    noteCt r.2 r.1
  | none => let r := homeWrites noCtx 0 a bs s
    noteCt r.2 r.1

/-- Bytes written through a context's translation, or at physical addresses for the admin queue (R400, R401): no effect
where a byte fails translation or write rights. -/
def putBytes (ctx : Option Nat) (a : Nat) (bs : List Byte) (s : State) : State :=
  if (match ctx with
    | some c => ctxOk s c a bs.length false true
    | none => physOk s a bs.length) then viaWrite ctx a bs s else s

/-- Whether every write that Lamplighter has made is settled, so that a release may be performed (R334). -/
def lampSettled (s : State) : Bool :=
  decide (s.pkg.lampCt ≤ timeOf s) && !(s.net.any (fun a => a.core == hubCore && !a.back))

/-- A release of Lamplighter's performed: its bytes are written, and then its vector is raised. -/
def putPost (x : Post) (s : State) : State := msix x.vector (putBytes x.ctx x.addr x.bytes s)

/-- A release of Lamplighter's (R334): it is performed when its earlier writes are settled, one after another. -/
def post (x : Post) (s : State) : State :=
  if s.pkg.posts.isEmpty && lampSettled s then putPost x s
  else { s with pkg := { s.pkg with posts := s.pkg.posts ++ [x] } }

/-- The oldest release that waits is performed, as soon as it can be. -/
def execPost (s : State) : Host.Outcome State Fault Refusal :=
  .next (match s.pkg.posts with
    | [] => s
    | x :: rest => if lampSettled s then putPost x { s with pkg := { s.pkg with posts := rest } } else s)

/-- The completion of a command (R400): slot, the context whose translation CPLA goes through (none for the admin
queue), the command's TAG word and CPLA, STATUS and RESULT. -/
def complete (slot : Nat) (ctx : Option Nat) (word0 cpla : W64) (status : Nat) (result : W64) (s : State) : State :=
  if cpla = 0#64 then msix slot s
  else post { ctx := ctx, addr := cpla.toNat, vector := slot, slot := some slot,
              bytes := bytes64 (BitVec.ofNat 64 (bfield word0 63 48 * 2 ^ 48 + status)) ++ bytes64 result } s

/-! ### The fault ring (R390, R391) -/

/-- A record's header word without its SEQ (R391). -/
structure RecHead where
  type    : Nat
  nslot   : Nat
  widx    : Nat
  pidx    : Nat
  trapreg : Bool
  restart : Bool
  recov   : Bool
  akind   : Nat
  reason  : Nat
  cause   : Nat
  deriving DecidableEq, Repr

def RecHead.word (h : RecHead) (seq : Nat) : W64 :=
  BitVec.ofNat 64 (h.cause % 256 + h.reason * 2 ^ 8 + h.akind * 2 ^ 12 + h.recov.toNat * 2 ^ 28
    + h.restart.toNat * 2 ^ 29 + h.trapreg.toNat * 2 ^ 30 + h.pidx * 2 ^ 31 + h.widx * 2 ^ 35 + h.nslot * 2 ^ 40
    + h.type * 2 ^ 44 + seq % 2 ^ 16 * 2 ^ 48)

/-- A record: its header and the words after it. -/
structure Rec where
  head : RecHead
  body : List W64
  deriving DecidableEq, Repr

/-- A record's bytes, with its sequence number: whole slots of 32 bytes. -/
def Rec.bytes (r : Rec) (seq : Nat) : List Byte :=
  sliceOf 0#8 (bytes64 (r.head.word seq) ++ wordsBytes r.body) 0 (32 * r.head.nslot)

/-- The bytes of a run, its records numbered from `seq` up. -/
def runBytes (seq : Nat) : List Rec → List Byte
  | [] => []
  | r :: t => r.bytes seq ++ runBytes (seq + 1) t

/-- Slots written one after another into a ring. -/
def putSlots (ctx ring size : Nat) (tail : Nat) : List (List Byte) → State → State
  | [], s => s
  | b :: t, s => putSlots ctx ring size (tail + 1) t (viaWrite (some ctx) (ring + 32 * (tail % size)) b s)

/-- A word that Lamplighter has written last: as a release that still waits has it, else as it stands in memory. -/
def lampWord (s : State) (ctx va : Nat) : W64 :=
  match s.pkg.posts.reverse.find? (fun x => x.ctx == some ctx && x.addr == va) with
  | some x => BitVec.ofNat 64 (leNat x.bytes)
  | none => ctxPeek s ctx va

/-- A run written into a context's fault ring, dropped or lost (R390); vector 64 is raised in every case. TAIL is written as a
release behind the slots, and SEQ does not count a run that is lost. -/
def faultRun (ctx : Nat) (recs : List Rec) (s : State) : State :=
  match getCtx s ctx with
  | none => s
  | some c =>
    let h := c.ring.toNat
    let bs := runBytes c.seq recs
    let n := bs.length / 32
    if ctxOk s ctx h 64 false true then
      let s1 := setCtx s ctx (some { c with seq := c.seq + recs.length })
      let ring := (ctxPeek s ctx h).toNat
      let size := 2 ^ (bfield (ctxPeek s ctx (h + 8)) 4 0)
      let tail := (lampWord s ctx (h + 16)).toNat
      let head := (ctxPeek s ctx (h + 24)).toNat
      let drops := bfield (ctxPeek s ctx (h + 32)) 31 0
      let fits := decide ((tail + 2 ^ 64 - head) % 2 ^ 64 + n ≤ size)
      let slots := (List.range n).map (fun i => sliceOf 0#8 bs (32 * i) 32)
      if fits && (List.range n).all (fun i => ctxOk s ctx (ring + 32 * ((tail + i) % size)) 32 false true) then
        post { ctx := some ctx, addr := h + 16, bytes := leBytes 8 (tail + n), vector := 64, slot := none }
          (putSlots ctx ring size tail slots s1)
      else msix 64 (viaWrite (some ctx) (h + 32) (leBytes 4 (min (drops + 1) (2 ^ 32 - 1))) s1)
    else msix 64 s

/-! ### The sample buffer (R411 to R413, R416) -/

/-- Words written into a ring of 2^logsz bytes, from stream position `w` on; one that reaches the ring's end goes on at its start. -/
def putRing (ctx buf size : Nat) (w : Nat) : List W64 → State → State
  | [], s => s
  | x :: t, s =>
    let n := min 8 (size - w % size)
    putRing ctx buf size (w + 8) t
      (ctxWrite ctx buf ((bytes64 x).drop n) (ctxWrite ctx (buf + w % size) ((bytes64 x).take n) s))

/-- A record's header word (R412). -/
def sampleHead (seq len type : Nat) : W64 :=
  BitVec.ofNat 64 (0xE5 + type * 2 ^ 8 + len * 2 ^ 16 + seq % 2 ^ 32 * 2 ^ 32)

/-- Records (type and body words) reserved together in a context's sample buffer and written, or dropped into PEND
(R413). Answers whether they were written. -/
def sampleWrite (ctx : Nat) (recs : List (Nat × List W64)) (s : State) : State × Bool :=
  match getCtx s ctx with
  | none => (s, false)
  | some c =>
    if c.attached = false then (s, false)
    else
      let h := c.buffer.toNat
      let s1 := setCtx s ctx (some { c with bseq := c.bseq + recs.length })
      let buf := (ctxWord s ctx h).toNat
      let size := 2 ^ (bfield (ctxWord s ctx (h + 8)) 4 0)
      let wp := (ctxWord s ctx (h + 16)).toNat
      let rp := (ctxWord s ctx (h + 24)).toNat
      let pend := bfield (ctxWord s ctx (h + 32)) 31 0
      let len := (recs.map (fun r => 8 * (r.2.length + 1))).sum
      let need := len + (if pend = 0 then 0 else 8)
      if need + (wp + 2 ^ 64 - rp) % 2 ^ 64 ≤ size then
        let s2 := ctxWrite ctx (h + 16) (leBytes 8 (wp + need)) s1
        let s3 := if pend = 0 then s2
          else ctxWrite ctx (h + 32) (leBytes 4 0) (putRing ctx buf size wp [sampleHead pend 1 3] s2)
        let go := fun (st : State × Nat × Nat) (r : Nat × List W64) =>
          let body := putRing ctx buf size (st.2.1 + 8) r.2 st.1
          (putRing ctx buf size st.2.1 [sampleHead st.2.2 (r.2.length + 1) r.1] body,
            st.2.1 + 8 * (r.2.length + 1), st.2.2 + 1)
        ((recs.foldl go (s3, wp + (if pend = 0 then 0 else 8), c.bseq)).1, true)
      else (ctxWrite ctx (h + 32) (leBytes 4 (min (pend + recs.length) (2 ^ 32 - 1))) s1, false)

/-- The crew name block as words. -/
def nameWords (c : Crew) : List W64 := (List.range 6).map (word64 (nameBlock c))

/-- Whether an admission of a crew, by its CREWREF, has a crew name record that stands (R416). -/
def hasName (s : State) (ctx ref : Nat) : Bool := ((getCtx s ctx).map (fun c => c.names.contains (ref % 2 ^ 16))).getD false

/-- What the context holds of that. -/
def setName (ctx ref : Nat) (on : Bool) (s : State) : State :=
  updCtx s ctx (fun c =>
    let rest := c.names.filter (· != ref % 2 ^ 16)
    { c with names := if on then ref % 2 ^ 16 :: rest else rest })

/-- An Ember or marker record of an admission of a crew, with a crew name record before it when there is none that stands, or
when a record has been dropped since (R416). -/
def crewSample (ctx ref : Nat) (name : List W64) (type : Nat) (body : List W64) (s : State) : State :=
  let recs := if hasName s ctx ref then [(type, body)]
    else [(2, BitVec.ofNat 64 (ref % 2 ^ 16) :: name), (type, body)]
  let r := sampleWrite ctx recs s
  setName ctx ref r.2 r.1

/-! ### Grist (R417) -/

/-- The multipliers of the four rows. -/
def gristA : List Nat := [0x9E3779B97F4A7C15, 0xC2B2AE3D27D4EB4F, 0x165667B19E3779F9, 0xD6E8FEB86659FD93]

/-- A value added to sketch `k` of a context under key `x`. -/
def gristAdd (ctx k : Nat) (x : W64) (v : Nat) (s : State) : State :=
  match getCtx s ctx with
  | none => s
  | some c =>
    if c.grist = 0#64 then s
    else
      let row := fun (st : State) (im : Nat × Nat) =>
        let a := c.grist.toNat + 65536 * k + 16384 * im.1 + 4 * (im.2 * x.toNat % 2 ^ 64 / 2 ^ 52)
        match ctxRead st ctx a 4 with
        | some b => if ctxOk st ctx a 4 true true then ctxWrite ctx a (leBytes 4 (min (leNat b + v) (2 ^ 32 - 1))) st else st
        | none => st
      ((List.range 4).zip gristA).foldl row s

end Sys2Proof.Machine
end

