-- ==== Sys2Proof/Machine/RayRec.lean ====
section
/-! DEFINITION. Rays outside their traversal: the record (R297, R298), the any-hit phase (R309, R310), Lantern's entries
(R312, R313), and what pre-emption and kills do to rays (R311, R315, R316, R325). -/

namespace Sys2Proof.Machine

/-! ### The record (R297) -/

/-- Word `i` of a record replaced. -/
def setWord (i : Nat) (x : W64) (b : List Byte) : List Byte := b.take (8 * i) ++ bytes64 x ++ b.drop (8 * i + 8)

/-- A field of word `i` of a record replaced. -/
def setField (i hi lo v : Nat) (b : List Byte) : List Byte := setWord i (bset (word64 b i) hi lo v) b

/-- Bytes of a record replaced from an offset on. -/
def setRange (o : Nat) (x b : List Byte) : List Byte := b.take o ++ x ++ b.drop (o + x.length)

def recTmin (b : List Byte) : W32 := word32 b 3
def recTmax (b : List Byte) : W32 := word32 b 7
def recFlags (b : List Byte) : Nat := bfield (word64 b 6) 31 24
def recBvh (b : List Byte) : Nat := bfield (word64 b 5) 63 52

/-- The address of the overflow area, 0 for none. -/
def recOvf (b : List Byte) : Nat := 64 * bfield (word64 b 5) 49 0

/-- STATE written, with no stack entry and no candidate. -/
def withState (n : Nat) (b : List Byte) : List Byte := setField 6 15 8 0 (setField 6 23 16 (16 * n) b)

/-- AHCOUNT raised by 1, saturating at 255 (R309). -/
def bumpAh (b : List Byte) : List Byte := setField 4 63 56 (min (bfield (word64 b 4) 63 56 + 1) 255) b

def updRay (id : Nat) (f : Ray → Ray) (s : State) : State := { s with rays := updIf (fun r => r.id == id) f s.rays }

/-- The unit writes the record from TMAX on (R301). The answer is the completion time of the write. -/
def writeRecord (r : Ray) (s : State) : State × Nat := homeWrites r.ctx r.key (r.pa + 0x1C) (r.bytes.drop 0x1C) s

/-- The ray's record is written, and the ray is handed on once TIME is at least the write's completion time (R300). -/
def handOn (kind : CrewKind) (ref : Nat) (r : Ray) (s : State) : State :=
  let w := if r.bytes = [] then (s, timeOf s) else writeRecord r s
  updRay r.id (fun _ => { r with stage := 1, kind := kind, ready := w.2, crew := 0, ref := ref }) w.1

/-- A ray ends in a STATE from 8 to 15. -/
def endRay (state : Nat) (r : Ray) (s : State) : State :=
  handOn .cont 0 { r with bytes := withState state r.bytes, cands := [] } s

/-- A hit becomes the closest hit: TMAX, HIT, HREF, HU and HV. -/
def Ray.close (r : Ray) (h : RayHit) : Ray :=
  { r with best := some h,
           bytes := setField 7 31 0 (h.hu + h.hv * 2 ^ 16) (setField 6 63 32 h.ref
             (setField 4 0 0 1 (setField 3 63 32 h.t.toNat r.bytes))) }

/-- A number that orders FP32 values, with -0 equal to +0. -/
def tOrd (x : W32) : Int := if x.msb then -((x.toNat % 2 ^ 31 : Nat) : Int) else (x.toNat : Int)

/-- The order of hits by key (R303). -/
def RayHit.less (a b : RayHit) : Bool :=
  if tOrd a.t ≠ tOrd b.t then decide (tOrd a.t < tOrd b.t)
  else if a.prim ≠ b.prim then decide (a.prim.toNat < b.prim.toNat)
  else if a.inst ≠ b.inst then decide (a.inst.toNat < b.inst.toNat)
  else decide (a.ref < b.ref)

/-! ### Lantern (R312, R313) -/

/-- The ways of a context as a list. -/
def waysOf (s : State) (ctx : Nat) : List Nat :=
  match getCtx s ctx with
  | some c => (List.range 4).filter (fun w => c.ways.testBit w)
  | none => []

/-- The entry of a key in a context's ways. -/
def lanternFind (s : State) (cl ctx : Nat) (key : List Nat) : Option LEntry :=
  (getCluster s cl).lantern.find? (fun e =>
    e.set == Config.lanternSet key % 4096 && (waysOf s ctx).contains e.way && e.key == key)

/-- An entry becomes the most recently used of its place. -/
def lanternTouch (cl : Nat) (e : LEntry) (s : State) : State :=
  let x := getCluster s cl
  setCluster s cl { x with lantern := x.lantern.filter (fun y => !(y.set == e.set && y.way == e.way)) ++ [e] }

/-- A key written with its leaf: over its own entry, in a free way of the context, or over the least recently used one. -/
def lanternPut (cl ctx : Nat) (key : List Nat) (leaf : Nat) (s : State) : State :=
  let set_ := Config.lanternSet key % 4096
  let mine := (getCluster s cl).lantern.filter (fun e => e.set == set_ && (waysOf s ctx).contains e.way)
  let way := match mine.find? (fun e => e.key == key) with
    | some e => some e.way
    | none => ((waysOf s ctx).find? (fun w => !mine.any (fun e => e.way == w))).orElse (fun _ => mine.head?.map (·.way))
  match way with
  | some w => lanternTouch cl { set := set_, way := w, key := key, leaf := leaf } s
  | none => s

/-- Entries dropped from every Lantern of the package. -/
def lanternDrop (p : LEntry → Bool) (s : State) : State :=
  let drop := fun (x : Cluster) => { x with lantern := x.lantern.filter (fun e => !p e) }
  { s with clusters := s.clusters.filterMap (fun (n, x) => if drop x = Cluster.reset then none else some (n, drop x)) }

/-! ### The any-hit phase (R309, R310) -/

/-- The bytes that a traversal unit reads for a launch: translated, granted and free of poison, or why not (R314, R388,
R355). Whether a peer answers in time is free (R432). -/
def rayRead (s : State) (launch va n : Nat) : Except (Nat × Reason) (List Byte) :=
  match getLaunch s launch with
  | none => .error (va, 1)
  | some l =>
    let one : Nat → Except (Nat × Reason) (Byte × Bool) := fun i => match resolveL s l (va + i) 1 false true false with
      | .ok p =>
        if 2 ^ 56 ≤ va + i then .error (va + i, 1)
        else if remoteLine (p.pa / 128) && Config.freeBool 3 s.free then .error (va + i, 2)
        else .ok (memByte s p.key p.pa, poisoned s p.pa 1)
      | .error e => .error (va + i, e)
    (List.range n).foldr (fun i acc => match one i, acc with
      | .error e, _ => .error e
      | _, .error e => .error e
      | .ok (b, bad), .ok bs => if bad then .error (va + i, 0) else .ok (b :: bs)) (.ok [])

/-- Bytes that a traversal unit writes in a ray's overflow area; no effect where it cannot. -/
def writeOvf (r : Ray) (o : Nat) (bs : List Byte) (s : State) : State :=
  match getLaunch s r.launch with
  | none => s
  | some l => match resolveL s l (recOvf r.bytes + o) bs.length false false true with
    | .ok p => (homeWrites r.ctx p.key p.pa bs s).1
    | .error _ => s

/-- The candidates that the record holds: up to 8. -/
def withCands (l : List Nat) (b : List Byte) : List Byte :=
  setRange 0x60 ((l.take 8).flatMap (leBytes 4)) (setField 6 19 16 (min l.length 8) b)

/-- The next candidate is handed on for its any-hit invocation, with STATE 3; with none left a ray in fallback makes its next
pass in STATE 5 (R310), and any other ends in STATE 8 or 9, where an opaque closest hit enters Lantern first (R309, R313,
R324). -/
def nextCand (r : Ray) (s : State) : State :=
  match r.cands with
  | c :: _ =>
    let t := match r.last with
      | some n => if r.many then writeOvf r 0 (leBytes 4 n) s else s
      | none => s
    handOn .anyhit c.ref { r with bytes := withCands (r.cands.map (·.ref)) (withState 3 r.bytes) } t
  | [] =>
    if r.many then updRay r.id (fun _ => { r with bytes := withState 5 r.bytes, stage := 0, crew := 0 }) s
    else match r.best with
    | none => endRay 9 r s
    | some h =>
      let t := match r.lkey with
        | some k => if h.opq then lanternPut r.cluster r.ctx k h.leaf s else s
        | none => s
      endRay 8 r t

/-- An any-hit invocation commits (R309): AHCOUNT rises, and the candidate is rejected, or accepted and the phase ends. -/
def commitAny (acc : Bool) (r : Ray) (s : State) : State :=
  match r.cands with
  | [] => s
  | c :: rest =>
    let r1 := { r with bytes := bumpAh r.bytes, last := some c.ref }
    if acc then
      let better := match r.best with
        | none => true
        | some h => c.less h
      nextCand { (if better then r1.close c else r1) with cands := [], many := false } s
    else nextCand { r1 with cands := rest } s

/-- An intersection invocation commits (R308, R319): its report is kept with the reference, and the ray traverses on. -/
def commitHit (rep : Option (W32 × W32)) (r : Ray) (s : State) : State :=
  updRay r.id (fun _ => { r with
    reports := r.reports.filter (fun x => x.1 != r.ref) ++ [(r.ref, rep)], stage := 0, crew := 0,
    bytes := withState (if r.many then 5 else 2) r.bytes }) s

/-- The ray whose invocation a lane of the crew in focus runs. -/
def laneRay (s : State) (l : Nat) : Option Ray :=
  (s.crew.gather[l]?).bind (fun g => s.rays.find? (fun r => r.id == g.ray && r.stage == 3 && r.crew == s.crew.cid))

/-- An invocation that ends without a result of its own (R319): a rejection, or a report of no hit. -/
def commitNone (r : Ray) (s : State) : State :=
  match r.kind with
  | .anyhit => commitAny false r s
  | .intersect => commitHit none r s
  | _ => s

/-- The lanes of a mask commit, in ascending order. -/
def commitLanes (f : Nat → Ray → State → State) (m : W64) (s : State) : State :=
  (lanesOf m).foldl (fun t l => match laneRay t l with
    | some r => f l r t
    | none => t) s

/-! ### Invocations, pre-emption, kills -/

/-- The rays whose invocations a crew runs. -/
def raysOf (s : State) (cid : Nat) : List Ray := s.rays.filter (fun r => r.stage == 3 && r.crew == cid)

/-- The rays of a killed invocation crew end in STATE 15 (R311). -/
def endInvocations (cid : Nat) (s : State) : State := (raysOf s cid).foldl (fun t r => endRay 15 r t) s

/-- The launch record's bytes of a launch. -/
def launchBytes (s : State) (lid : Nat) : List Byte := ((getLaunch s lid).map (·.bytes)).getD []

/-- The address of the descriptor of a ray's BVH. -/
def descAddr (s : State) (r : Ray) : Nat := (word64 (launchBytes s r.launch) 3).toNat + 64 * recBvh r.bytes

/-- The lines that reads of a traversal unit touch, as far as they may be read. -/
def readLines (s : State) (lid : Nat) (reads : List (Nat × Nat)) : List Nat :=
  match getLaunch s lid with
  | none => []
  | some l => (reads.flatMap (fun x => (List.range (ceilDiv (x.2 + x.1 % 128) 128)).filterMap (fun i =>
      match resolveL s l (max x.1 (128 * (x.1 / 128 + i))) 1 false true false with
      | .ok p => some (p.pa / 128)
      | .error _ => none))).eraseDups

/-- Whether no copy owns a line that such reads touch (R292). -/
def readsOpen (s : State) (lid : Nat) (reads : List (Nat × Nat)) : Bool := unowned s (readLines s lid reads)

/-- The lines that the unit's reads touch get leases of 400 ns at their homes (R314, R290). -/
def leaseReads (r : Ray) (reads : List (Nat × Nat)) (s : State) : State :=
  (readLines s r.launch reads).foldl (fun t n => (homeFill r.ctx n 400 t).1) s

/-- The read of the descriptor of a ray's BVH, when the launch has one (R294, R311). -/
def descRead (s : State) (r : Ray) : List (Nat × Nat) :=
  if word64 (launchBytes s r.launch) 3 = 0#64 then [] else [(descAddr s r, 64)]

/-- The ROOT of a ray's BVH, where the descriptor can be read. -/
def rootOf (s : State) (r : Ray) : Option Nat :=
  match getLaunch s r.launch with
  | none => none
  | some l => match rayRead s r.launch ((word64 l.bytes 3).toNat + 64 * recBvh r.bytes) 64 with
    | .ok d => some (bfield (word64 d 3) 23 0)
    | .error _ => none

/-- A ray that traverses is written back in STATE 2 or 5 at ROOT, and looks Lantern up no more; one that a gatherer holds is
handed to a gatherer again after the resumption (R315, R325). -/
def parkRay (r : Ray) (s0 : State) : State :=
  let s := if r.stage = 0 then leaseReads r (descRead s0 r) s0 else s0
  if r.stage = 0 then
    let at_ := withState (if r.many then 5 else 2) r.bytes
    let b := match rootOf s r with
      | some n => setRange 0x3C (leBytes 3 n) (setField 6 15 8 1 at_)
      | none => at_
    let q := { r with bytes := b, looked := true }
    let t := match r.last with
      | some n => if r.many then writeOvf r 0 (leBytes 4 n) s else s
      | none => s
    updRay r.id (fun _ => q) (writeRecord q t).1
  else if r.stage = 2 then updRay r.id (fun x => { x with stage := 1 }) s
  else s

/-- The rays of a context written back, and its open gatherer waves dropped (R315, R325). -/
def parkRays (ctx : Nat) (s : State) : State :=
  (s.rays.filter (fun r => r.ctx == ctx)).foldl (fun t r => parkRay r t)
    { s with gwaves := s.gwaves.filter (fun g => g.ctx != ctx) }

/-- The rays, open waves and Lantern entries of a context dropped (R316). -/
def dropRays (ctx : Nat) (s : State) : State :=
  lanternDrop (fun e => e.key.head? == some ctx)
    { s with rays := s.rays.filter (fun r => r.ctx != ctx), gwaves := s.gwaves.filter (fun g => g.ctx != ctx) }

end Sys2Proof.Machine
end

