-- ==== Sys2Proof/Machine/Crews.lean ====
section
/-! DEFINITION. A crew's dealings outside its waves: accesses that leave its core (R187), write-downs (R183), charges
(R365), the end of launches (R362, R402), and the kill of a crew (R281 to R284). -/

namespace Sys2Proof.Machine

/-! ### Accesses that leave the core (R187) -/

/-- OUT of a crew's tracker changed by `f`. -/
def bumpOut (cid t : Nat) (f : Nat → Nat) (s : State) : State :=
  updCrew s cid (fun c => setTrk c t { getTrk c t with out := f (getTrk c t).out })

/-- Whether a tracker may take another access: OUT never passes 65,535 (R187). -/
def outRoom (s : State) (cid t : Nat) : Bool :=
  match findCrew s cid with
  | some c => decide ((getTrk c t).out < 65535)
  | none => true

/-- A fill on its way to a line no longer fills L1 once a write of the same core follows it (R195, R332): its answer
would be older than that write. -/
def spoilFill (a : Access) (x : Access) : Access :=
  match x.use with
  | .fill _ => if x.core = a.core ∧ x.line = a.line then { x with use := .load } else x
  | .atom .. => if x.core = a.core ∧ x.line = a.line then { x with stale := true } else x
  | _ => x

/-- An access whose answer is older than a newer read of its line (R332): a fill no longer fills L1, and an atomic that is
performed there asks for its line again. -/
def outdated (x : Access) : Access :=
  match x.use with
  | .fill _ => { x with use := .load }
  | .atom .. => { x with stale := true }
  | _ => x

/-- A newer read of a line at its home overtakes what the core holds of it (R332): the line in L1 no longer stands FILLED, and
fills on their way no longer fill it. `own` are the accesses of the unit that reads: its lanes come one after another (R204). -/
def overtake (own : List Nat) (core line : Nat) (s : State) : State :=
  let old := fun (x : Access) => if x.core = core ∧ x.line = line ∧ own.contains x.id = false then outdated x else x
  let c := getCore s core
  let x := cget L1Line.none c.l1 line
  let y : L1Line := if x.dirty = 0#128 then L1Line.none else { x with filled := false }
  setCore { s with net := s.net.map old } core { c with l1 := cset L1Line.none c.l1 line y }

/-- The QMASK that an access carries: that of the part in focus, and 0 where an engine or the L1 sends it. -/
def sentQuads (a : Access) (s : State) : Nat :=
  match a.use with
  | .copy _ => 0
  | .ahead _ => 0
  | .writedown => 0
  | _ => if s.agent = .sparge then 0 else s.part.quads

/-- An access sent to its home; OUT of its tracker rises by 1. -/
def send (a : Access) (s : State) : State :=
  let t := match a.trk with
    | some k => bumpOut a.crew k (· + 1) s
    | none => s
  let net := match a.op with
    | .read _ => t.net
    | _ => t.net.map (spoilFill a)
  depart { a with pc := s.part.pc, quads := sentQuads a s } { t with net := net }

/-- An access of a crew on a core, with the fields every kind shares. -/
def mkAccess (c : Crew) (line key : Nat) (tso vault : Bool) (trk : Option Nat) (op : AccOp) (use : AccUse) : Access :=
  { id := 0, core := c.core, crew := c.cid, wave := 0, part := 0, ctx := c.ctx, line := line, off := 0, key := key,
    tso := tso, trk := trk, vault := vault, op := op, use := use, sent := 0,
    pc := 0#64, quads := 0, port := 16, who := [], stale := false, ans := none, back := false }

/-! ### L1 (R181 to R183) -/

def getL1 (s : State) (core line : Nat) : L1Line := cget L1Line.none (getCore s core).l1 line

def setL1 (s : State) (core line : Nat) (x : L1Line) : State :=
  setCore s core { getCore s core with l1 := cset L1Line.none (getCore s core).l1 line x }

/-- The DIRTY bytes of a line, by offset. -/
def dirtyBytes (x : L1Line) : Cells W64 :=
  (List.range 128).filterMap (fun o => if x.dirty.getLsbD o then some (o, (cget 0#8 x.data o).setWidth 64) else none)

/-- A line written down (R183): its DIRTY bytes go to the home under TRKTAG and OWNER; the data and the lease stay. -/
def writeDown (core line : Nat) (s : State) : State :=
  let x := getL1 s core line
  if x.dirty = 0#128 then s
  else
    let ctx := match findCrew s x.owner with
      | some c => c.ctx
      | none => 0
    let a : Access :=
      { id := 0, core := core, crew := x.owner, wave := 0, part := 0, ctx := ctx, line := line, off := 0, key := x.key,
        tso := false, trk := some x.trk, vault := x.vault, op := .write (dirtyBytes x), use := .writedown, sent := 0,
        pc := 0#64, quads := 0, port := 16, who := [], stale := false, ans := none, back := false }
    send a (setL1 s core line { x with dirty := 0#128 })

/-- A line written down when OUT of its tracker has room (R187); none when the write-down has to wait. -/
def tryDown (core line : Nat) (s : State) : Option State :=
  let x := getL1 s core line
  if x.dirty = 0#128 ∨ outRoom s x.owner x.trk = true then some (writeDown core line s) else none

/-- The lines of a core that hold DIRTY bytes of a crew, under the trackers that `p` names. -/
def dirtyLines (s : State) (core cid : Nat) (p : Nat → Bool) : List Nat :=
  (getCore s core).l1.filterMap (fun (n, x) => if x.dirty ≠ 0#128 ∧ x.owner = cid ∧ p x.trk = true then some n else none)

/-- Several lines written down, each as soon as OUT of its tracker has room (R187). -/
def writeDowns (core : Nat) : List Nat → State → State
  | [], s => s
  | l :: t, s => writeDowns core t ((tryDown core l s).getD s)

/-- A crew's DIRTY bytes discarded without a write-down (R282, R283): the lines that hold them are dropped. -/
def dropDirty (core cid : Nat) (s : State) : State :=
  let kept := (getCore s core).l1.filter (fun (_, x) => !(decide (x.dirty ≠ 0#128) && x.owner == cid))
  setCore s core { getCore s core with l1 := kept }

/-- The bytes of stores that a kill discards leave L1 as well, where they stand without DIRTY on a line that was present (R182,
R282): no later load may return them (R328). -/
def dropStores (core cid : Nat) (s : State) : State :=
  let lost := (s.net.filter (fun a => a.crew == cid && a.use == .store && a.ans.isNone)).map (·.line)
  let drop := fun (m : Cells L1Line) (n : Nat) =>
    let x := cget L1Line.none m n
    cset L1Line.none m n (if x.dirty = 0#128 then L1Line.none else { x with filled := false })
  setCore s core { getCore s core with l1 := lost.foldl drop (getCore s core).l1 }

/-! ### Charges (R365) -/

/-- The slot onto which a context's queue is mapped. -/
def slotOf (s : State) (ctx queue : Nat) : Option Nat :=
  s.slots.findSome? (fun (i, x) => if i ≠ 0 ∧ x.mapped ∧ x.ctx = ctx ∧ x.queue = queue then some i else none)

def getSlot (s : State) (i : Nat) : Slot := cget Slot.none s.slots i

def setSlot (s : State) (i : Nat) (x : Slot) : State := { s with slots := cset Slot.none s.slots i x }

/-- An amount subtracted from the DEFICIT of the slot that a queue is mapped on, if any (R360). -/
def debit (ctx queue n : Nat) (s : State) : State :=
  match slotOf s ctx queue with
  | some i => setSlot s i { getSlot s i with deficit := (getSlot s i).deficit - n }
  | none => s

/-- A taper ramp's filler cycles charged (R365, R417). -/
def chargeRamp (r : Ramp) (s : State) : State :=
  let t := ceilDiv r.cycles 32
  gristAdd r.ctx 1 r.entry t (charge (debit r.ctx r.queue t s) r.ctx 2 t)

/-- The ramp of a cluster, if one runs, ends, and is charged. -/
def endRamp (cl : Nat) (s : State) : State :=
  match (getCluster s cl).ramp with
  | some r => chargeRamp r (setCluster s cl { getCluster s cl with ramp := none })
  | none => s

/-- The estimate of a cluster that holds now (R352): each cluster makes one every 100 ns, and what it reads is free. One that
nothing looks at is not kept, so it is drawn when a departure needs it, unless TAPER_ESTIMATE has given it (log 62). -/
def freshEstimate (cl : Nat) (s : State) : State :=
  let x := getCluster s cl
  if timeOf s < x.nextEst then s
  else setCluster { s with free := s.free + 1 } cl
    { x with estimate := Config.freeNat 10 s.free, nextEst := 100 * (timeOf s / 100) + 100 }

/-- A departure starts a ramp from the current estimate, unless SLOPE is 0; a ramp under way ends its count (R352). -/
def startRamp (cl : Nat) (c : Crew) (queue : Nat) (s : State) : State :=
  let u := endRamp cl s
  let t := freshEstimate cl u
  let x := getCluster t cl
  if bfield (getCluster u cl).tapctl 7 0 = 0 then u
  else setCluster t cl { x with ramp := some {
    ctx := c.ctx, queue := queue, entry := c.entry, cycles := 0, amps := x.estimate, time := timeOf s, seen := false } }

/-- Quad positions of a crew (R365). -/
def quadsHeld (c : Crew) : Nat := c.nwave * (widthOf c.code / 4)

/-- The residency of a crew ended: the cycles since its admission are added (R365). -/
def endResidency (s : State) (c : Crew) : Crew :=
  if c.cond = .resident then { c with cycles := c.cycles + (cycleOf s (clusterOf c.core) - c.admitted) } else c

/-- A crew's Charge subtracted when it retires or is killed (R365), and the taper ramp its departure starts (R352). -/
def chargeCrew (c : Crew) (s : State) : State :=
  let q := match getLaunch s c.launch with
    | some l => l.queue
    | none => 256
  let core := ceilDiv (c.cycles * quadsHeld c) 32
  let refresh := c.refresh.getD 0
  let s1 := debit c.ctx q (core + refresh) s
  let s2 := charge (charge s1 c.ctx 0 core) c.ctx 1 refresh
  let s3 := gristAdd c.ctx 1 c.entry (core + refresh) s2
  if c.cond = .resident then startRamp (clusterOf c.core) c q s3 else s3

/-! ### The end of a launch (R362, R402) -/

/-- The launch that stands at the head of a context's queue: the first that has not started (R361). -/
def headOf (s : State) (ctx queue : Nat) : Option Launch :=
  s.launches.find? (fun m => m.ctx == ctx && m.queue == queue && !m.started)

/-- Whether every bit of a launch's WAIT mask is set (R361), once its record has been read. -/
def waitMet (c : Ctx) (l : Launch) : Bool :=
  !l.bytes.isEmpty && (List.range 4).all (fun k => word64 l.bytes (16 + k) &&& ~~~ (cget 0#64 c.events k) == 0#64)

/-- Every head launch of a context tested; one that passes stays eligible (R362). -/
def testHeads (ctx : Nat) (s : State) : State :=
  match getCtx s ctx with
  | none => s
  | some c =>
    let passes := fun (l : Launch) =>
      l.ctx == ctx && !l.started && (headOf s ctx l.queue).map (·.lid) == some l.lid && waitMet c l
    { s with launches := updIf passes (fun l => { l with passed := true }) s.launches }

/-- A change of an event vector reaches Lamplighter, which applies it with the others of the cycle (R362). -/
def addChange (x : Change) (s : State) : State := { s with pkg := { s.pkg with changes := s.pkg.changes ++ [x] } }

/-- The change that sets, or clears, the bits `m` of word `k`. -/
def bitChange (rank key ctx k : Nat) (on : Bool) (m : W64) : Change :=
  { rank := rank, key := key, ctx := ctx, clear := if on then [] else cset 0#64 [] k m,
    set := if on then cset 0#64 [] k m else [], done := none }

/-- One change applied, followed by the test of every head launch (R362); with the SET bits of a launch, its completion is
written (R402). -/
def applyChange (x : Change) (s : State) : State :=
  let change := fun (m : Cells W64) (k : Nat) => cset 0#64 m k (cget 0#64 m k &&& ~~~ (cget 0#64 x.clear k) ||| cget 0#64 x.set k)
  let t := testHeads x.ctx (updCtx s x.ctx (fun c => { c with events := (List.range 4).foldl change c.events }))
  match x.done with
  | some k => complete k.slot (some x.ctx) k.word0 k.cpla 0 0#64 t
  | none => t

/-- The order of two changes of one cycle (R362): completions of launches by slot, then EVSET and EVCLR by die, cluster, core, wave
and part, then commands. -/
def Change.before (x y : Change) : Bool := decide (x.rank < y.rank) || (x.rank == y.rank && decide (x.key ≤ y.key))

/-- The changes of a cycle applied one at a time, in their order. -/
def applyChanges (s : State) : State :=
  (sortBy Change.before s.pkg.changes).foldl (fun t x => applyChange x t) { s with pkg := { s.pkg with changes := [] } }

/-- A launch that has placed all its crews and has none left, and no ray and no gathered wave, completes: its SET bits reach
Lamplighter, or its completion says how many crews were lost (R362, R402). -/
def finishLaunch (lid : Nat) (s : State) : State :=
  match getLaunch s lid with
  | none => s
  | some l =>
    if l.started && l.next == l.total && l.alive == 0 && !(s.rays.any (fun r => r.launch == lid))
        && !(s.gwaves.any (fun g => g.launch == lid)) then
      let s1 := { s with launches := s.launches.filter (fun x => x.lid != lid) }
      if l.lost = 0 then
        addChange { rank := 0, key := l.slot, ctx := l.ctx, clear := [],
                    set := (List.range 4).foldl (fun m k => cset 0#64 m k (word64 l.bytes (20 + k))) [],
                    done := some { slot := l.slot, queue := l.queue, word0 := l.word0, cpla := l.cpla } } s1
      else complete l.slot (some l.ctx) l.word0 l.cpla 4 (BitVec.ofNat 64 l.lost) s1
    else s

/-! ### Groups (R358) -/

/-- The counts of a launch at levels 3 to 7; an undeclared level has 1. -/
def launchCounts (b : List Byte) : List Nat :=
  [bfield (word64 b 6) 31 0 + 1, bfield (word64 b 6) 63 32 + 1, bfield (word64 b 7) 15 0 + 1, bfield (word64 b 7) 31 16 + 1,
    bfield (word64 b 7) 47 32 + 1]

/-- The coordinates of a crew as numbers, c3 to c7 (R27). -/
def coordList (c : Crew) : List Nat :=
  [bfield c.coords.1 31 0, bfield c.coords.1 63 32, bfield c.coords.2 15 0, bfield c.coords.2 31 16, bfield c.coords.2 47 32]

/-- The linear index of a crew (R356). -/
def linOf (counts coords : List Nat) : Nat := (counts.zip coords).foldr (fun x acc => x.2 + x.1 * acc) 0

/-- How many consecutive crews agree at level `k` and above: the counts below it multiplied. -/
def groupSize (b : List Byte) (k : Nat) : Nat := ((launchCounts b).take (k - 3)).foldl (· * ·) 1

/-- Whether a group still keeps its domain: a crew of it is on a core, waits to be placed again, or has not been placed
yet (R358). -/
def groupAlive (s : State) (l : Launch) (k g : Nat) : Bool :=
  let n := groupSize l.bytes k
  let mine := fun (c : Crew) => c.launch == l.lid && c.kind == .launch && (c.cond == .resident || c.cond == .waiting)
    && linOf (launchCounts l.bytes) (coordList c) / n == g
  (allCrews s).any mine || decide (l.next < min ((g + 1) * n) l.total)

/-- Domains that no group keeps any more dropped. -/
def cleanDoms (lid : Nat) (s : State) : State :=
  updLaunch s lid (fun l => { l with doms := l.doms.filter (fun d => groupAlive s l d.1 d.2.1) })

/-! ### The end of a command that was under way (R402) -/

/-- The slot goes on to the next record. -/
def freeSlot (slot : Nat) (s : State) : State := setSlot s slot { getSlot s slot with held := none }

/-- A context's queue goes on to its next record: the slot that it is mapped on does, or the queue when it is mapped again. -/
def freeQueue (ctx q : Nat) (s : State) : State :=
  match slotOf s ctx q with
  | some i => freeSlot i s
  | none => updCtx s ctx (fun c => { c with held := cset none c.held q none })

/-- The completion of a command that was under way: its queue goes on, a context's or the admin queue. -/
def endCommand (tag : CmdTag) (ctx : Option Nat) (status : Nat) (result : W64) (s : State) : State :=
  let t := complete tag.slot ctx tag.word0 tag.cpla status result s
  match ctx with
  | some x => freeQueue x tag.queue t
  | none => freeSlot tag.slot t

/-- A DEBUG stop whose crew has gone completes with STATUS 3 (R410). -/
def endWaiter (c : Crew) (s : State) : State :=
  match c.waiter with
  | some k => endCommand k none 3 0#64 s
  | none => s

/-! ### Kills (R281 to R284) -/

/-- What an access record says beside its PC (R391): faulting address, lane mask, AKIND, REASON. -/
structure AccRec where
  addr   : W64
  lanes  : W64
  akind  : Nat
  reason : Nat
  deriving DecidableEq, Repr

/-- What a kill's records say: cause, INFO, faulting address, PC, wave and part, the access records, and the trap
registers when the record holds them. -/
structure Kill where
  cause  : Nat
  info   : W64
  addr   : W64
  pc     : W64
  widx   : Nat
  pidx   : Nat
  access : List AccRec
  regs   : Option (List W64)
  deriving DecidableEq, Repr

/-- A kill by an engine: no wave and no part. -/
def engineKill (cause : Nat) (info addr pc : W64) (access : List AccRec) : Kill :=
  { cause := cause, info := info, addr := addr, pc := pc, widx := 0, pidx := 0, access := access, regs := none }

/-- A crew record and its access records (R391). -/
def crewRecs (c : Crew) (k : Kill) (restart recov : Bool) : List Rec :=
  let name := (List.range 6).map (word64 (nameBlock c))
  let h : RecHead :=
    { type := 2, nslot := if k.regs.isSome then 5 else 3, widx := k.widx, pidx := k.pidx,
      trapreg := k.regs.isSome, restart := restart, recov := recov, akind := 0, reason := 0, cause := k.cause }
  { head := h, body := [k.info, k.addr, k.pc] ++ name ++ [0#64, 0#64] ++ k.regs.getD [] } ::
    k.access.map (fun x =>
      let a : RecHead :=
        { type := 1, nslot := 1, widx := k.widx, pidx := k.pidx, trapreg := false, restart := false,
          recov := false, akind := x.akind, reason := x.reason, cause := k.cause }
      { head := a, body := [x.addr, x.lanes, k.pc] })

/-- Lines that a crew's copies own released at their homes (R292). -/
def releaseLines (cid : Nat) (ord : Option Nat) (s : State) : State :=
  let drop := fun (x : HomeLine) =>
    { x with owners := x.owners.filter (fun o => !(o.1 == cid && (ord.isNone || ord == some o.2))) }
  let kept := s.memsys.lines.filterMap (fun (n, x) => if drop x = HomeLine.none then none else some (n, drop x))
  { s with memsys := { s.memsys with lines := kept } }

/-- The space of a crew's image in the save area freed (R378). -/
def freeSpace (ctx cid : Nat) (s : State) : State :=
  updCtx s ctx (fun c => { c with space := c.space.filter (fun x => x.1 != cid) })

/-- The crew as it waits to be placed again from its launch record (R284, R370). -/
def relaunched (c : Crew) : Crew :=
  { Crew.none with cid := c.cid, cond := .waiting, kind := c.kind, ctx := c.ctx, launch := c.launch, slot := c.slot,
                   coords := c.coords, code := c.code, nwave := c.nwave, entry := c.entry, stackb := c.stackb,
                   scr := c.scr, nbuf := c.nbuf, matrix := { Matrix.reset with owned := c.matrix.owned },
                   slice := { Slice.reset with has := c.slice.has }, runs := c.runs + 1, centry := c.centry,
                   gather := c.gather }

/-- Whether a killed crew is relaunched: cause 0x11, a restartable launch, and at most three relaunches (R284, R370). -/
def relaunches (s : State) (c : Crew) (cause : Nat) : Bool :=
  cause == 0x11 && decide (c.runs < 3) &&
    match getLaunch s c.launch with
    | some l => (word64 l.bytes 5).getLsbD 41
    | none => false

/-- An access of a killed crew: a store or an atomic that its home has not performed yet is discarded; a read, a write-down and a
copy's access go on by themselves, and nobody waits for their answers (R282, R339). -/
def orphan (cid : Nat) (a : Access) : Option Access :=
  if a.crew ≠ cid then some a
  else match a.use with
    | .store => if a.ans.isNone then none else some { a with crew := 0 }
    | .atom .. => some { a with crew := 0, use := .load }
    | .here .. => none
    | .copy _ => some { a with crew := 0 }
    | _ => match a.op with
      | .atomic .. => if a.ans.isNone then none else some { a with crew := 0 }
      | _ => some { a with crew := 0 }

/-- The crew in focus is killed (R282): nothing of it issues again, its DIRTY bytes, pending stores and loads are
discarded, its copies stop, its records are written (unless `quiet`, R376), its charge is taken and its resources are
freed; a restartable crew waits to be placed again. The focus is left empty. -/
def killCrew (quiet : Bool) (k : Kill) (s : State) : State :=
  let c := packCrew s
  let again := relaunches s c k.cause
  let s1 := dropDirty c.core c.cid (dropStores c.core c.cid s)
  let s2 := releaseLines c.cid none s1
  let s3 := if quiet then s2 else faultRun c.ctx (crewRecs c k again false) s2
  let s4 := chargeCrew (endResidency s3 c) s3
  let s5 := endWaiter c { s4 with
    part := Part.none, sibs := [], wave := Wave.none, waves := [], crew := Crew.none,
    agent := .wave, net := s4.net.filterMap (orphan c.cid) }
  if again then { s5 with crews := insertCrew (relaunched c) s5.crews }
  else finishLaunch c.launch (cleanDoms c.launch <| freeSpace c.ctx c.cid
    (updLaunch (endInvocations c.cid s5) c.launch (fun l => { l with alive := l.alive - 1, lost := l.lost + 1 })))

/-- Another crew is killed; the focus moves to it and is left empty. -/
def killOther (cid : Nat) (quiet : Bool) (k : Kill) (s : State) : State :=
  let t := focusCrew s cid
  if t.crew.cid = cid ∧ t.crew.cond ≠ .absent then killCrew quiet k t else t

end Sys2Proof.Machine
end

