-- ==== Sys2Proof/Machine/Fuse.lean ====
section
/-! DEFINITION. How parts split and fuse (R19, R36 to R46): what a split gives to each part, the arrival at a JOIN, and the
evaluation of the fuse conditions of a wave at the end of a cycle (R52). -/

namespace Sys2Proof.Machine

/-! ### Splits (R19, R39, R40) -/

/-- The scalar sets of a wave at a cycle: one per part (R18, R19), and until the cycle after a fuse one for each part that
it took in (R44). -/
def setsOf (nowc : Nat) (w : Wave) : Nat := w.parts.length + (w.kept.filter (fun n => decide (nowc ≤ n))).length

/-- Whether a scalar set of the wave's sequencer is free in the cycle `n`: each sequencer has 64 (R18, R19, R44). -/
def freeSetAt (n : Nat) (s : State) : Bool :=
  let parts := fun (c : Crew) => if c.core = s.crew.core ∧ c.cond = .resident then
      (c.waves.map (fun w => if w.seqn = s.wave.seqn then setsOf n w else 0)).sum else 0
  decide ((parts (packCrew s)) + (s.crews.map parts).sum < 64)

/-- Whether one is free now. -/
def freeSet (s : State) : Bool := freeSetAt (now s) s

/-- A stack entry restricted to lanes. -/
def Entry.restrict (m : W64) (e : Entry) : Entry := { e with lanes := e.lanes &&& m, outer := e.outer &&& m }

/-- Pending writes restricted to lanes; scalar ones stay with the part that keeps the set (R34, R19). -/
def splitPend (keeps : Bool) (m : W64) (l : List Pend) : List Pend :=
  l.filterMap (fun p => match p.reg with
    | .v _ => some { p with olds := p.olds.filter (fun x => m.getLsbD x.1) }
    | .s _ => if keeps then some p else none
    | _ => some p)

/-- Loads in flight restricted to lanes; a scalar load is awaited by both parts. -/
def splitLoads (m : W64) (l : List Load) : List Load :=
  l.filterMap (fun x => match x.kind with
    | .scalar _ => some { x with timer := none }
    | .vec .. =>
      let ls := x.lanes.filter (fun y => m.getLsbD y.lane)
      if ls = [] then none else some { x with lanes := ls, timer := none })

/-- The part that holds the quads `q` of part `p` after a split (R39, R40): masks restricted to its quads, the trap
registers, NOSPLIT, the state and what the part waits for copied (R40), JIDX and JTOUT too (log 50). A held store fault stays
with the lanes it names. -/
def subPart (p : Part) (q : Nat) (keeps : Bool) : Part :=
  let m := quadLanes q
  let mine := match p.fault with
    | some f => match lowLane f.2.1 with
      | some l => if m.getLsbD l then true else keeps && !(quadLanes p.quads).getLsbD l
      | none => keeps
    | none => keeps
  { p with quads := q, exm := p.exm &&& m, stack := p.stack.map (Entry.restrict m), pend := splitPend keeps m p.pend,
           loads := splitLoads m p.loads, fault := if mine then p.fault else none, drops := if mine then p.drops else 0 }

/-- The cycle in which the last pending scalar write of a part lands (R19, R53). -/
def lastScalar (p : Part) : Nat :=
  p.pend.foldl (fun m x => match x.reg with
    | .s _ => max m x.land
    | _ => m) 0

/-- Whether every quad of the part has all its active lanes in `taken` or none (R39). -/
def quadUniform (p : Part) (taken : W64) : Bool :=
  (List.range 16).all (fun q => !p.quads.testBit q ||
    (let m := quadLanes (2 ^ q) &&& p.exm
     m &&& taken == m || m &&& taken == 0#64))

/-- Whether a quad goes with the fall-through part (R39): by its active lanes, or, with none active, by the innermost
stack level that holds a lane of it. -/
def goesFall (s : State) (taken : W64) (q : Nat) : Bool :=
  let p := s.part
  let act := fun (i : Nat) => quadLanes (2 ^ i) &&& p.exm
  if act q ≠ 0#64 then act q &&& taken == 0#64
  else
    let live := quadLanes (2 ^ q) &&& ~~~ s.wave.exited
    match p.stack.find? (fun e => (e.lanes ||| e.outer) &&& live ≠ 0#64) with
    | none => false
    | some e =>
      let peers := (List.range 16).filter (fun i => p.quads.testBit i && act i ≠ 0#64 && quadLanes (2 ^ i) &&& e.outer ≠ 0#64)
      !peers.isEmpty && peers.all (fun i => act i &&& taken == 0#64)

/-- The part in focus replaced by two parts; the focus stays on the first. -/
def splitInto (p q : Part) (s : State) : State := { s with part := p, sibs := insertPart q s.sibs }

/-! ### Fuses (R42 to R45) -/

/-- Compatible parts: stacks of one depth, level by level the same RPC, D, J and JPC (R42). -/
def compatible (p q : Part) : Bool :=
  p.stack.length == q.stack.length &&
    (p.stack.zip q.stack).all (fun (e, f) => e.rpc == f.rpc && e.d == f.d && e.jj == f.jj)

/-- The loads in flight of two parts; the halves of a load that a split divided come together again. -/
def joinLoads (l : List Load) : List Load → List Load
  | [] => l
  | x :: t =>
    joinLoads (if l.any (fun y => y.id == x.id) then
        updIf (fun y => y.id == x.id) (fun y => { y with lanes := y.lanes ++ x.lanes }) l
      else l ++ [x]) t

/-- The older of two faulting stores: stores are numbered in the order in which they issue (R161). -/
def olderFault (a b : Option (Nat × W64 × W64)) : Option (Nat × W64 × W64) :=
  match a, b with
  | some x, some y => if x.1 ≤ y.1 then a else b
  | some _, none => a
  | none, _ => b

/-- The fuse of two compatible parts (R44): unions of quads and masks, and the scalar set, NOSPLIT and trap registers of
the part with the lowest quad, with its JIDX and JTOUT (log 50). The older of their held store faults is kept, and their drop
counts are added (log 43). -/
def fuse2 (p q : Part) : Part :=
  let hi := if lowBit p.quads ≤ lowBit q.quads then q else p
  let lo := if lowBit p.quads ≤ lowBit q.quads then p else q
  { lo with
    quads := p.quads ||| q.quads, exm := p.exm ||| q.exm, state := .run,
    stack := (lo.stack.zip hi.stack).map (fun (e, f) => { e with lanes := e.lanes ||| f.lanes, outer := e.outer ||| f.outer }),
    pend := lo.pend ++ hi.pend.filter (fun x => match x.reg with
      | .s _ => false
      | _ => true),
    loads := joinLoads lo.loads (hi.loads.filter (fun x => match x.kind with
      | .scalar _ => false
      | _ => true)),
    fault := olderFault lo.fault hi.fault, drops := min (lo.drops + hi.drops) 255,
    issued := max lo.issued hi.issued, timer := none, wait := .none, relDone := false, arr := none, exiting := false }

/-- OPEN marks (R43): mark `j` of the quads of `q` set or cleared. -/
def markOpen (q j : Nat) (on : Bool) (w : Wave) : Wave :=
  { w with opens := (List.range 16).foldl (fun m i =>
      if q.testBit i then
        let x := cget 0#64 m i
        cset 0#64 m i (if on then x ||| (1#64 <<< j) else x &&& ~~~ (1#64 <<< j))
      else m) w.opens }

/-- Whether every quad of `q` carries OPEN mark `j`. -/
def allOpen (w : Wave) (q j : Nat) : Bool :=
  (List.range 16).all (fun i => !q.testBit i || (cget 0#64 w.opens i).getLsbD j)

/-- The quads of a list of parts. -/
def quadsOf (l : List Part) : Nat := l.foldl (fun m p => m ||| p.quads) 0

/-- Whether part `q` waits at the JOIN `j` at `a` and is compatible with `p` (R42). -/
def presentWith (p : Part) (j : Nat) (a : W64) (q : Part) : Bool :=
  q.state == .joinwait && q.jwait == j && q.waitAt == a && compatible p q

/-- The siblings present at JOIN `j` at `a` for the part in focus (R42). -/
def presentAt (j : Nat) (a : W64) (s : State) : List Part := s.sibs.filter (presentWith s.part j a)

/-- The parts of a list without those of another. -/
def dropParts (g l : List Part) : List Part := l.filter (fun q => !(g.any (fun x => x.quads == q.quads)))

/-- The parts of a list taken out of the siblings. -/
def without (g : List Part) (s : State) : State := { s with sibs := dropParts g s.sibs }

/-- The scalar sets of `k` parts that a fuse of cycle `c` took in, free from the next cycle on (R44). -/
def keepSets (c k : Nat) (w : Wave) : Wave :=
  { w with kept := w.kept.filter (fun n => decide (c ≤ n)) ++ List.replicate k c }

/-- A part passes a JOIN (R37, R42, R43): PC after it, JIDX, JTOUT, and its next issue at cycle `n`. -/
def passPart (j : Nat) (a : W64) (tout : Bool) (n : Nat) (p : Part) : Part :=
  { p with state := if p.state = .trapped then .trapped else .run, pc := a + 4#64, jidx := j, jtout := tout,
           timer := none, ready := n, wait := .none, arr := none }

/-- The limit of a join timer that starts now: the JOINTO value, `jto` less 1, or WCTL.JTO (R42). -/
def joinLimit (wctl : W64) (jto : Nat) : Nat := if jto = 0 then bfield wctl 31 20 else jto - 1

/-- A part enters JOINWAIT at a JOIN in cycle `c`, to issue at `once` where the evaluation of that cycle lets it pass. -/
def waitPart (j : Nat) (a : W64) (wctl : W64) (jto c once : Nat) (p : Part) : Part :=
  { p with state := .joinwait, jwait := j, waitAt := a, timer := some (c + joinLimit wctl jto), tlimit := jto, wait := .none,
           arr := some once }

/-- The cycle in which a fused part issues again: `n`, or the stall count of a JOIN that one of the parts has arrived at in
this cycle (R53). -/
def fuseReady (n : Nat) (l : List Part) : Nat := l.foldl (fun m q => max m (q.arr.getD 0)) n

/-- The arrival of the part in focus at a JOIN (R42, R52): it passes in a handler, it fuses when every live sibling is
present, and otherwise it waits; what else R42 gives is evaluated when every unit of the cycle has issued. `jto` is the
JOINTO value plus 1, `fused` the cycle of the next issue after a fuse, `once` after a pass at once. -/
def arriveJoin (j : Nat) (a : W64) (jto fused once : Nat) (s : State) : State :=
  if s.part.state = .trapped then { s with part := passPart j a false once s.part }
  else
    let g := presentAt j a s
    if g.length = s.sibs.length then
      let t := without g s
      let p := g.foldl fuse2 s.part
      { t with part := passPart j a false (fuseReady fused g) p,
               wave := keepSets (now s) g.length (markOpen p.quads j false t.wave) }
    else
      { s with part := waitPart j a (wctlOf s) jto (now s) once s.part,
               wave := { s.wave with unsettled := some (now s) } }

/-! ### Exits (R48) -/

/-- The rule of R48 for a part whose lanes have exited in cycle `c`, for as long as no lane is active and the stack is not
empty; at a JOIN it arrives like a part that issues it, and its next issue keeps the stall count of its last unit (log 43). -/
def exitRule (c : Nat) (wctl : W64) : Nat → Part → Part
  | 0, p => p
  | n + 1, p =>
    if p.exm ≠ 0#64 then { p with exiting := false }
    else match p.stack with
      | [] => { p with wait := .idle, exiting := false }
      | e :: rest =>
        if e.d = false then
          exitRule c wctl n { p with
            stack := { e with d := true, jj := none, jto := 0, hints := 0 } :: rest, exm := e.lanes, pc := e.rpc }
        else match e.jj with
          | none => exitRule c wctl n { p with stack := rest }
          | some (j, a) =>
            let q := { p with exm := e.outer, stack := rest }
            if p.state = .trapped then exitRule c wctl n (passPart j a false (max p.ready (c + 1)) q)
            else { waitPart j a wctl e.jto c (max p.ready (c + 1)) q with
                   pc := a - BitVec.ofNat 64 (4 * e.hints), exiting := true }

/-- A part that has passed goes on with the rule of R48 where an exit brought it to its JOIN. -/
def resumeExit (c : Nat) (wctl : W64) (p : Part) : Part := if p.exiting then exitRule c wctl 40 p else p

/-! ### The evaluation at the end of a cycle (R42, R43, R45, R52) -/

/-- The wave with the parts `g` replaced by the part `p`. -/
def replaceParts (g : List Part) (p : Part) (w : Wave) : Wave := { w with parts := insertPart p (dropParts g w.parts) }

/-- Whether the part that parts fuse into is still subject to R48: an exit brought one of them here, and no lane is active. -/
def stillExits (l : List Part) (m : Part) : Bool := l.any (·.exiting) && m.exm == 0#64

/-- Pass by timeout (R43): the parts `p :: g` fuse, JTOUT is set, and the open mark is cleared for their quads and set for
every quad of every other part. Where R48 takes the passing part on to another JOIN, its fuse stage there is still to be
evaluated for the cycle `c`. -/
def timeoutPass (c n : Nat) (p : Part) (g : List Part) (w : Wave) : Wave :=
  let others := dropParts (p :: g) w.parts
  let m := g.foldl fuse2 p
  let w1 := markOpen (quadsOf others) p.jwait true (markOpen m.quads p.jwait false w)
  let q := resumeExit c (wctlAt c w) (passPart p.jwait p.waitAt true n { m with exiting := stillExits (p :: g) m })
  keepSets c g.length (replaceParts (p :: g) q { w1 with unsettled := if q.arr.isSome then some c else w.unsettled })

/-- The parts present at the JOIN of a part. -/
def presentIn (w : Wave) (p : Part) : List Part := (dropParts [p] w.parts).filter (presentWith p p.jwait p.waitAt)

/-- Whether every other part of the wave is present at the JOIN of a part. -/
def allPresent (w : Wave) (p : Part) : Bool := (presentIn w p).length + 1 == w.parts.length

/-- The fuse stage of a part that has arrived at a JOIN in cycle `c`, or whose siblings have left it alone there (R42). -/
def settleJoin (c : Nat) (w : Wave) (p : Part) : Wave :=
  let g := presentIn w p
  if allPresent w p then
    let m := g.foldl fuse2 p
    let n := fuseReady (max (c + 2) p.ready) (p :: g)
    let q := resumeExit c (wctlAt c w) (passPart p.jwait p.waitAt false n { m with exiting := stillExits (p :: g) m })
    keepSets c g.length (replaceParts (p :: g) q (markOpen m.quads p.jwait false w))
  else match p.arr with
    | none => w
    | some once =>
      if allOpen w p.quads p.jwait then
        replaceParts [p] (resumeExit c (wctlAt c w) (passPart p.jwait p.waitAt false once p)) (markOpen p.quads p.jwait false w)
      else if p.timer = some c then timeoutPass c once p [] w
      else replaceParts [p] { p with arr := none } w

/-- The fuse stages of a wave's parts, by rising part index, until none is left. -/
def settleJoins (c : Nat) : Nat → Wave → Wave
  | 0, w => w
  | n + 1, w => match w.parts.find? (fun p => p.state == .joinwait && (p.arr.isSome || allPresent w p)) with
    | none => w
    | some p => settleJoins c n (settleJoin c w p)

/-- The needed quads of a part for a width (R45): every quad of every aligned group that holds a quad of it. -/
def neededQuads (w q : Nat) : Nat :=
  let n := w / 4
  (List.range 16).foldl (fun m i =>
    if (List.range n).any (fun k => q.testBit (i / n * n + k)) then m + 2 ^ i else m) 0

/-- Whether needed quads are covered by parts' quads and exited quads. -/
def coveredIn (wv : Wave) (w : Nat) (p have_ : Nat) : Bool :=
  let need := neededQuads w p &&& (2 ^ (widthOf wv.code / 4) - 1)
  (List.range 16).all (fun i => !need.testBit i || have_.testBit i || wv.exitedQ.testBit i)

/-- The same in the wave in focus. -/
def covered (s : State) (w : Nat) (p have_ : Nat) : Bool := coveredIn s.wave w p have_

/-- The greatest set of parts whose needed quads are all theirs or exited (R45), from a list of candidates. -/
def closedSet (wv : Wave) (w : Nat) : Nat → List Part → List Part
  | 0, l => l
  | n + 1, l =>
    let k := l.filter (fun p => coveredIn wv w p.quads (quadsOf l))
    if k.length = l.length then l else closedSet wv w n k

/-- The limit of a watchdog that starts now (R45): WCTL.FWD × 1,024 cycles, where 0 stands for 256 (R25). -/
def watchLimit (wctl : W64) : Nat := 1024 * (if bfield wctl 39 32 = 0 then 256 else bfield wctl 39 32)

/-- The parts that wait with a part at its wave-wide instruction and are compatible with it. -/
def fuseClass (w : Wave) (p : Part) : List Part :=
  w.parts.filter (fun q => q.state == .fusewait && q.waitAt == p.waitAt && compatible p q)

/-- The fuse of the class of a part in FUSEWAIT (R45): every part of it that belongs to a set which covers its own groups
fuses into one part, which issues the instruction two cycles later (R53). -/
def settleFuse (c : Nat) (w : Wave) (p : Part) : Wave :=
  if w.parts.any (fun q => q.quads == p.quads && q.state == .fusewait) = false then w
  else
    let l := closedSet w (widthOf p.wcode) 16 (fuseClass w p)
    if l.any (fun q => q.quads == p.quads) = false then w
    else
      let g := dropParts [p] l
      let m := g.foldl fuse2 p
      keepSets c g.length (replaceParts (p :: g)
        { m with state := .run, pc := p.pc, ready := max m.ready (c + 2), timer := none } w)

/-- The fuse conditions of a wave, evaluated for the cycle `c` (R52). -/
def settleWave (c : Nat) (w : Wave) : Wave :=
  let w1 := settleJoins c 320 w
  { w1.parts.foldl (settleFuse c) w1 with unsettled := none }

/-- A wave whose arrivals and exits of a cycle before `nowc` are still to be evaluated, evaluated. -/
def settleBefore (nowc : Nat) (w : Wave) : Wave :=
  match w.unsettled with
  | some c => if c < nowc then settleWave c w else w
  | none => w

/-- The wave in focus replaced, with the focus on the part that holds the lowest quad of the one in focus before. -/
def refocus (w : Wave) (s : State) : State :=
  let p := match w.parts.find? (fun q => q.quads.testBit (lowBit s.part.quads)) with
    | some q => q
    | none => w.parts.head?.getD Part.none
  { s with wave := { w with parts := [] }, part := p, sibs := dropParts [p] w.parts }

/-- The waves of the crew in focus with arrivals and exits of cycles before `nowc` evaluated. -/
def settleCrew (nowc : Nat) (s : State) : State :=
  let t := if s.wave.unsettled = none then s else refocus (settleBefore nowc (packWave s)) s
  { t with waves := t.waves.map (settleBefore nowc) }

/-- Whether no wave of the crew in focus has arrivals or exits of an earlier cycle to evaluate. -/
def arrivalsDone (s : State) : Bool :=
  (s.wave :: s.waves).all (fun w => (w.unsettled.map (fun c => decide (now s ≤ c))).getD true)

end Sys2Proof.Machine
end

