-- ==== Sys2Proof/Machine/Ops.lean ====
section
/-! DEFINITION. How a unit issues: its hints (R63 to R68), the checks of R72, the interlocks and the checking scoreboard
(R32, R33), traps (R154 to R166), the return from a handler (R165), stops under a debugger (R419 to R421), store faults
(R162), and the end of a unit (R30). -/

namespace Sys2Proof.Machine

/-! ### Hints of a unit (R62 to R68) -/

/-- The payload of the run's first hint of a kind. -/
def payload (r : Run) (k : Nat) : Option Nat := (r.ofKind k).head?.map (fun h => h.payload.toNat)

/-- How many IMM24 hints the run has. -/
def immCount (r : Run) : Nat := (r.ofKind 0).length

/-- The immediate of the run's IMM24 hints (R64). -/
def immOf (r : Run) : Option W64 :=
  match r.ofKind 0 with
  | [h] => some (h.payload.signExtend 64)
  | [h, g] => some ((h.payload ++ g.payload).signExtend 64)
  | _ => none

/-- The payload of the MOD hint, 0 without one (R65). -/
def modOf (r : Run) : Nat := (payload r 2).getD 0

/-- A field of the MOD payload. -/
def modField (r : Run) (hi lo : Nat) : Nat := modOf r / 2 ^ lo % 2 ^ (hi + 1 - lo)

/-- Whether the run has a MOD hint. -/
def hasMod (r : Run) : Bool := (payload r 2).isSome

/-- The register number of the OPC hint (R66). -/
def opcOf (r : Run) : Nat := (payload r 3).getD 0

/-- The value of the WIDTH hint (R67). -/
def widthHint (r : Run) : Option Nat := payload r 4

/-- The stall count S (R30). -/
def stallOf (r : Run) : Nat := r.stl.toNat + (payload r 1).getD 0

/-- The words of a unit: its hints and its instruction word. -/
def unitWords (r : Run) : Nat := r.hints.length + 1

/-- The address of the instruction word of the unit at the part's PC (R58, R69). -/
def unitAddr (r : Run) (s : State) : W64 := s.part.pc + BitVec.ofNat 64 (4 * r.hints.length)

/-- The address after the unit at the part's PC. -/
def unitNext (r : Run) (s : State) : W64 := s.part.pc + BitVec.ofNat 64 (4 * unitWords r)

/-! ### Traps (R154 to R164) -/

/-- A handled cause with the contents of XLANES, XINFO and XADDR (R161). -/
structure Trap where
  cause : Nat
  lanes : W64
  info  : W64
  addr  : W64
  deriving DecidableEq, Repr

/-- XCAUSE (R160): cause, IMPR and ULEN. -/
def xcauseOf (cause ulen : Nat) : W64 :=
  BitVec.ofNat 64 (cause + (if cause = 0x0B then 2 ^ 9 else 0) + min ulen 7 * 2 ^ 10)

/-- XPART (R160): QMASK, WIDX and PIDX of the part in focus. -/
def xpartOf (s : State) : W64 :=
  BitVec.ofNat 64 (s.part.quads % 2 ^ 16 * 2 ^ 32 + s.wave.widx % 2 ^ 5 * 2 ^ 16 + lowBit s.part.quads)

/-- Bits [55:2] of an address, as XPC and TVEC hold it (R155, R159). -/
def pcField (x : W64) : W64 := x &&& 0x00FFFFFFFFFFFFFC#64

/-- Miss timers of the part cancelled (R40, R51). -/
def cancelTimers (p : Part) : Part := { p with loads := p.loads.map (fun l => { l with timer := none }) }

/-- Taking an exception in the cycle `c` (R156): every pending write lands, the trap registers are written, exm is saved, and
the part enters the handler at TVEC, as it holds in that cycle (R155), in TRAPPED, no earlier than 4 cycles later. -/
def enterHandlerAt (c : Nat) (t : Trap) (ulen : Nat) (s : State) : State :=
  let p := cancelTimers s.part
  { s with part := { p with
      pend := [], xpc := pcField s.part.pc, xcause := xcauseOf t.cause ulen, xlanes := t.lanes, xpart := xpartOf s,
      xinfo := t.info, xaddr := t.addr, sexm := s.part.exm, state := .trapped, pc := pcField (tvecAt c s.wave),
      ready := max (c + 4) (lastLand s.part), timer := none, wait := .none, relDone := false, fresh := false } }

/-- Taking an exception now. -/
def enterHandler (t : Trap) (ulen : Nat) (s : State) : State := enterHandlerAt (now s) t ulen s

/-- The trap registers as a fault-ring record holds them (R164, R391). -/
def trapRegs (p : Part) : List W64 := [p.xpc, p.xcause, p.xlanes, p.xpart, p.xinfo, p.xaddr]

/-- The crew of the part in focus is killed by a cause of that part (R154, R281). -/
def killHere (cause : Nat) (info addr : W64) (access : List AccRec) (regs : Option (List W64))
    (s : State) : State :=
  killCrew false { cause := cause, info := info, addr := addr, pc := pcField s.part.pc, widx := s.wave.widx,
                   pidx := lowBit s.part.quads, access := access, regs := regs } s

/-- A handled cause of the cycle `c` in the part in focus at a unit of `ulen` words (R154 to R156, R164): its handler; a kill
when the wave has none, or when the part is in its handler already. -/
def trapIn (c : Nat) (t : Trap) (ulen : Nat) (s : State) : State :=
  if s.part.state = .trapped then killHere t.cause t.info t.addr [] (some (trapRegs s.part)) s
  else if pcField (tvecAt c s.wave) = 0#64 then killHere t.cause t.info t.addr [] none s
  else enterHandlerAt c t ulen s

/-- A handled cause that arises now. -/
def trapAt (t : Trap) (ulen : Nat) (s : State) : State := trapIn (now s) t ulen s

/-- A handled cause of the unit that issues. -/
def trap (t : Trap) (r : Run) (s : State) : State := trapAt t (unitWords r) s

/-- Cause 0x0D kills the crew (R173). -/
def aperture (addr : W64) (s : State) : State := killHere 0x0D 0#64 addr [] none s

/-- Cause 0x0C kills the crew (R180, R216). -/
def barrierKill (s : State) : State := killHere 0x0C 0#64 0#64 [] none s

/-- The lanes that the part may activate (R116). -/
def allowed (s : State) : W64 :=
  let l := partLanes s &&& ~~~ s.wave.exited
  match s.part.stack with
  | [] => l
  | e :: _ => if e.d then l &&& e.lanes else l &&& e.outer &&& ~~~ e.lanes

/-- Return from a handler (R121, R165): exm from SEXM, the PC from XPC, RUN, and the resumed unit entered as a branch
target no earlier than 3 cycles later, unchecked against breakpoints (R419). -/
def returnFromTrap (s : State) : State :=
  { s with free := s.free + 1, part := { s.part with
      exm := s.part.sexm &&& allowed s, pc := s.part.xpc, state := .run, ready := now s + 3, wait := .none,
      relDone := false, fresh := true, issued := s.part.issued + 1 } }

/-! ### Stops under a debugger (R51, R419 to R421) -/

/-- Whether a debugger is attached to the crew's context (R410). -/
def debugged (s : State) : Bool :=
  match getCtx s s.crew.ctx with
  | some c => c.attached
  | none => false

/-- A part halted at an instruction boundary (R51): waits that run again in full are dropped, the wait inside a BARC is
kept, and the state before the halt is remembered. A part inside DUMPC halts when its dump has ended (R129). -/
def haltPart (p : Part) : Part :=
  if p.quads = 0 ∨ p.state = .halted ∨ p.wait = .dump then p
  else
    let w := match p.wait with
      | .barc o ph _ => Wait.barc o ph false
      | .idle => Wait.idle
      | _ => Wait.none
    { cancelTimers p with state := .halted, before := p.state, pend := [], timer := none, wait := w, relDone := false }

/-- The crew in focus halts at an instruction boundary (R51): arrivals at JOINs and at wave-wide instructions are evaluated
first, as no further unit of it issues in this cycle. -/
def haltAll (s : State) : State :=
  let t := mapParts (fun _ p => haltPart p) (settleCrew (now s + 1) s)
  { t with crew := { t.crew with haltAt := if t.crew.halt then t.crew.haltAt else timeOf s } }

/-- A halted part returned to the state it was halted in; a join timer or a watchdog starts again at its full limit
(R51, R426). -/
def resumePart (nowc : Nat) (w : Wave) (p : Part) : Part :=
  if p.state ≠ .halted then p
  else
    let p1 := { p with state := p.before, before := .run }
    match p.before with
    | .joinwait => { p1 with timer := some (nowc + joinLimit w.wctl p.tlimit) }
    | .fusewait => { p1 with timer := some (nowc + watchLimit w.wctl) }
    | _ => p1

/-- The parts beside the one in focus that stand before a unit in this cycle, which is to be checked: where it matches too, it
matches again after DEBUG resume (R422). -/
def matchAgain (s : State) : List (Nat × Nat) :=
  let open_ := fun (p : Part) => (p.state == .run || p.state == .trapped) && p.wait == .none && decide (p.ready ≤ now s) && !p.fresh
  let of_ := fun (w : Wave) (ps : List Part) => (ps.filter open_).map (fun p => (w.widx, lowBit p.quads))
  of_ s.wave s.sibs ++ s.waves.flatMap (fun w => of_ w w.parts)

/-- The crew in focus halts for a debugger stop (R421): reason, value, the stopping unit's PC and the lowest matching
address; `past` moves the saved PC past the unit (BRK, STOP). The swap-out and the report follow (SWAP_OUT). -/
def stopCrew (reason n : Nat) (addr : W64) (past : Option W64) (s : State) : State :=
  let stopped : Nat × Nat × Nat × Nat × W64 × W64 := (reason, n, s.wave.widx, lowBit s.part.quads, s.part.pc, addr)
  let p := match past with
    | some a => { s.part with pc := a }
    | none => s.part
  let t := haltAll { s with part := p }
  let more := if reason = 3 ∨ reason = 4 then matchAgain s else []
  { t with crew := { t.crew with halt := true, stop := some stopped, again := t.crew.again ++ more } }

/-- After a unit of a step (R422): the crew stops again with REASON 5, unless it has gone or halts already. -/
def stepStop (t v : State) : State :=
  if v.crew.cid = t.crew.cid ∧ v.crew.step = some (t.wave.widx, lowBit t.part.quads) then
    let u := { v with crew := { v.crew with step := none } }
    if v.crew.halt then u else stopCrew 5 0 0#64 none u
  else v

/-- The PC breakpoint that matches the unit at the part's PC (R419, R164). -/
def breakAt (r : Run) (s : State) : Option Nat :=
  if s.part.fresh then none
  else match getCtx s s.crew.ctx with
    | none => none
    | some c =>
      if s.part.state = .trapped ∧ c.attached = false then none
      else (List.range 8).find? (fun k => cget none c.bps k == some (unitAddr r s))

/-- A breakpoint's match: a debugger stop, or cause 0x08 (R420). -/
def breakpoint (k : Nat) (r : Run) (s : State) : State :=
  if debugged s then stopCrew 3 k 0#64 none s
  else trap { cause := 0x08, lanes := s.part.exm, info := BitVec.ofNat 64 (0x90 + k), addr := 0#64 } r s

/-- The lowest watchpoint that an access matches, with its lowest matching byte and the matching lanes: lanes with their
addresses, the size, and whether the access reads or writes (R419, R161). -/
def watchHit (accs : List (Nat × Nat)) (n : Nat) (rd w : Bool) (s : State) : Option (Nat × W64 × W64) :=
  if s.part.fresh then none
  else match getCtx s s.crew.ctx with
    | none => none
    | some c =>
      if s.part.state = .trapped ∧ c.attached = false then none
      else (List.range 4).findSome? (fun k =>
        let x := cget Watch.none c.watches k
        let hit := fun (a : Nat) => x.on && ((rd && x.kind % 2 == 1) || (w && 2 ≤ x.kind))
          && decide (a < x.limit ∧ x.base < a + n ∧ x.base < x.limit)
        match (accs.filter (fun la => hit la.2)) with
        | [] => none
        | h :: t => some (k, maskOf (fun l => (h :: t).any (fun la => la.1 == l)),
            BitVec.ofNat 64 ((t.foldl (fun m la => min m (max la.2 x.base)) (max h.2 x.base)))))

/-- A watchpoint's match: a debugger stop, or cause 0x12 (R420, R161). -/
def watchpoint (k : Nat) (ls addr : W64) (w : Bool) (r : Run) (s : State) : State :=
  if debugged s then stopCrew 4 k addr none s
  else trap { cause := 0x12, lanes := ls, info := BitVec.ofNat 64 (k + 4 * w.toNat), addr := addr } r s

/-! ### Store faults (R162, R164, R279, R280) -/

/-- A pending store's fault reported: SEQ counts it, the record enters the queue or is dropped and counted for its part,
and the part holds cause 0x0B; where the issuing part has split, the part that holds its lowest quad (log 51). -/
def reportStore (x : PStore) (reason : Nat) (s : State) : State :=
  let full := decide (8 ≤ s.crew.sfq.length)
  let rec_ : SfRecord :=
    { addr := x.addr, lanes := x.lanes, pc := x.pc, seq := s.crew.sfseq, reason := reason, dreg := x.dreg,
      sst := x.sst, lsz := x.lsz, widx := x.wave, pidx := x.part }
  let mark := fun (w : Wave) (p : Part) =>
    if w.widx = x.wave ∧ p.quads.testBit x.part = true then
      { p with fault := olderFault p.fault (some (x.id, x.lanes, x.addr)),
               drops := if full then min (p.drops + 1) 255 else p.drops }
    else p
  let t := mapParts mark s
  { t with crew := { t.crew with
      sfq := if full then t.crew.sfq else t.crew.sfq ++ [rec_], sfseq := (t.crew.sfseq + 1) % 2 ^ 16,
      stores := t.crew.stores.filter (fun y => y.id != x.id) } }

/-- The pending stores of the part in focus. -/
def ownStores (s : State) : List PStore :=
  s.crew.stores.filter (fun x => x.wave == s.wave.widx && s.part.quads.testBit x.part)

/-- Whether a peer may still refuse a line of a store (R432): its answer has not come. A store is reported once, with all its
faulting lanes, when no line of it is left so (R161, R279). -/
def outstanding (x : PStore) (s : State) : Bool := s.net.any (fun a => x.accs.contains a.id && remoteLine a.line && !a.back)

/-- Every faulting store of the part in focus reported. -/
def reportAll (s : State) : State :=
  (ownStores s).foldl (fun t x => match x.fault with
    | some re => if outstanding x s then t else reportStore x re t
    | none => t) s

/-- Faulting stores reported before the 17th unit after them (R162). -/
def reportDue (s : State) : State :=
  (ownStores s).foldl (fun t x => match x.fault with
    | some re => if x.at_ + 17 ≤ s.part.issued ∧ outstanding x s = false then reportStore x re t else t
    | none => t) s

/-- Whether a store of the part in focus that a peer may still refuse keeps it from issuing: one which `p` picks (R162). -/
def unanswered (p : PStore → Bool) (s : State) : Bool := (ownStores s).any (fun x => p x && outstanding x s)

/-- Whether the part's next unit would be the 17th after such a store. -/
def answerDue (s : State) : Bool := s.part.state != .trapped && unanswered (fun x => decide (x.at_ + 17 ≤ s.part.issued)) s

/-- Cause 0x0B at a boundary (R161, R162). -/
def storeTrap (r : Run) (s : State) : State :=
  let f := s.part.fault.getD (0, 0#64, 0#64)
  trap { cause := 0x0B, lanes := f.2.1, info := BitVec.ofNat 64 (s.part.drops * 2 ^ 8 + s.crew.sfq.length), addr := f.2.2 } r
    { s with part := { s.part with fault := none, drops := 0 } }

/-! ### The checks of R72 -/

/-- A register field: the registers it names, its alignment, and whether the unit reads or writes them. -/
structure Use where
  reg   : RegId
  cnt   : Nat
  align : Nat
  rd    : Bool
  wr    : Bool
  deriving DecidableEq, Repr

/-- What a unit's checks need to know of its instruction: its word, its hint run, the register fields, the other limits
of step 3, how many IMM24 hints it takes and whether their value is accepted, the MOD fields it lists and whether their
values are accepted, its OPC operand, its WIDTH range, JOINTO, its fixed latency (0 when variable), and the system register
number for which it is privileged. -/
structure Op where
  word   : W32
  run    : Run
  uses   : List Use
  lims   : Bool
  immMin : Nat
  immMax : Nat
  immOk  : Bool
  mods   : Option Nat
  modOk  : Bool
  opc    : Option (Bool × Use)
  width  : Option (Nat × Nat)
  join   : Bool
  lat    : Nat
  priv   : Option Nat

/-- An instruction that takes no hint but STALL. -/
def Op.plain (word : W32) (r : Run) (lat : Nat) (uses : List Use) : Op :=
  { word := word, run := r, uses := uses, lims := true, immMin := 0, immMax := 0, immOk := true, mods := none,
    modOk := true, opc := none, width := none, join := false, lat := lat, priv := none }

/-- The limits of a register field (R57, R15, R192). -/
def useOk (s : State) (u : Use) : Bool :=
  match u.reg with
  | .v n => decide (n + u.cnt ≤ s.wave.vcur) && decide (n % u.align = 0)
  | .s n => decide (n < 64)
  | .m n => decide (n < 8)
  | .exm => true

/-- The register fields of a unit, its OPC operand included when the hint stands. -/
def Op.allUses (o : Op) : List Use :=
  match o.opc, payload o.run 3 with
  | some (_, u), some _ => o.uses ++ [u]
  | _, _ => o.uses

/-- Step 4 of R72: the hint that the instruction does not accept. -/
def badKind (o : Op) : Option Hint :=
  let imms := o.run.ofKind 0
  o.run.hints.find? (fun h => match h.kind.toNat with
    | 0 => decide (o.immMax = 0) || (decide (o.immMax < imms.length) && decide (imms.getLast? = some h))
    | 1 => false
    | 2 => o.mods.isNone
    | 3 => o.opc.isNone
    | 4 => o.width.isNone
    | 5 => !o.join
    | _ => true)

/-- Step 5 of R72: the hint whose value the instruction does not accept. -/
def badValue (o : Op) (s : State) : Option Hint :=
  o.run.hints.find? (fun h => match h.kind.toNat with
    | 0 => !o.immOk
    | 2 => !o.modOk || decide (h.payload &&& ~~~ (BitVec.ofNat 24 (o.mods.getD 0)) ≠ 0#24)
    | 3 => match o.opc with
      | some (_, u) => !useOk s u
      | none => false
    | 4 => match o.width with
      | some (lo, hi) => decide (h.payload.toNat < lo ∨ hi < h.payload.toNat)
      | none => false
    | _ => false)

/-- Steps 3 to 5 of R72: the cause, the step that fails and the word it fails on. A required hint that is missing fails
step 4 on the instruction word (log 7). -/
def rejectOp (o : Op) (s : State) : Option Reject :=
  if !o.lims || !(o.uses.all (useOk s)) then some { cause := 0x01, step := 3, word := o.word }
  else match badKind o with
    | some h => some { cause := 0x01, step := 4, word := encodeHint h }
    | none =>
      if immCount o.run < o.immMin ∨ (o.opc.map (·.1) = some true ∧ payload o.run 3 = none) then
        some { cause := 0x01, step := 4, word := o.word }
      else match badValue o s with
        | some h => some { cause := 0x0E, step := 5, word := encodeHint h }
        | none => none

/-- The trap of a unit that fails a check of R72 (R161). -/
def rejectTrap (e : Reject) (s : State) : Trap :=
  { cause := e.cause, lanes := s.part.exm, info := BitVec.ofNat 64 (e.word.toNat + e.step * 2 ^ 32), addr := 0#64 }

/-! ### Interlocks and the checking scoreboard (R32, R33) -/

/-- The registers that a register field names, one by one. -/
def Use.regs (u : Use) : List RegId :=
  match u.reg with
  | .v n => (List.range u.cnt).map (fun i => .v (n + i))
  | r => [r]

/-- The registers that a load will write. -/
def Load.regs (l : Load) : List RegId :=
  match l.kind with
  | .vec size _ => (List.range (max 1 (size / 4))).map (fun i => .v (l.reg + i))
  | .scalar _ => if l.reg = 63 then [] else [.s l.reg]

/-- Whether a register of the unit waits for a result of variable latency (R32). -/
def interlocked (o : Op) (s : State) : Bool :=
  !s.part.loads.isEmpty &&
    o.allUses.any (fun u => u.regs.any (fun x => s.part.loads.any (fun l => l.regs.contains x)))

/-- The register for which WCTL.CHK stops the unit (R33). -/
def underrun (o : Op) (s : State) : Option RegId :=
  if (wctlOf s).getLsbD 1 = false then none
  else
    let ls := fun (x : RegId) => match x with
      | .v _ => lanesOf (partLanes s)
      | _ => [0]
    (o.allUses.flatMap (fun u => u.regs.map (fun x => (u, x)))).findSome? (fun (u, x) =>
      if (u.rd && landsLater s x (ls x) (now s)) || (u.wr && o.lat != 0 && landsLater s x (ls x) (now s + o.lat)) then
        some x
      else none)

/-- XINFO of cause 0x05 (R161). -/
def RegId.info : RegId → W64
  | .v n => BitVec.ofNat 64 n
  | .s n => BitVec.ofNat 64 (2 ^ 8 + n)
  | .m n => BitVec.ofNat 64 (2 ^ 9 + n)
  | .exm => BitVec.ofNat 64 (2 ^ 9 + 2 ^ 8)

/-! ### Issue -/

/-- Whether the part in focus may issue: it exists, runs or is in its handler, its crew is resident, and no thermal trip
has stopped the package (R35, R346). -/
def canIssue (s : State) : Bool :=
  s.crew.cond == .resident && s.part.quads != 0 && (s.part.state == .run || s.part.state == .trapped)
    && s.pkg.powered && !s.pkg.halted

/-- The part in focus held at the boundary before its unit until it is picked again. -/
def hold (s : State) : State := { s with part := { s.part with wait := .retry } }

/-- The part in focus held inside its unit, which goes on when the part is picked again. -/
def holdIn (s : State) : State := { s with part := { s.part with wait := .inside } }

/-- A slice error (R246): the crew is killed with cause 0x10, subcode 4. -/
def sliceError (s : State) : State :=
  killCrew false (engineKill 0x10 4#64 0#64 (pcField s.crew.slice.pc) []) s

/-- A unit at the part's PC once its boundary has been passed: steps 1 to 6 of R72, the interlock, the checking scoreboard
(log 44), and then its effect. -/
def unitBody (o : Op) (f : State → State) (s : State) : State :=
  match rejectOp o s with
  | some e => trap (rejectTrap e s) o.run s
  | none => match o.priv with
    | some n => trap { cause := 0x02, lanes := s.part.exm, info := BitVec.ofNat 64 n, addr := 0#64 } o.run s
    | none =>
      if interlocked o s then hold s
      else match underrun o s with
        | some x => trap { cause := 0x05, lanes := s.part.exm, info := x.info, addr := 0#64 } o.run s
        | none => f s

/-- Whether a crew's last wave has retired. -/
def noParts (s : State) : Bool := (allWaves s).all (fun w => w.parts.isEmpty)

/-- Whether Sparge may execute a word of the crew in focus: the slice runs, no ASTRM is under way, and the crew is resident, has
waves left and is not halting (R240, R273). -/
def spargeReady (s : State) : Bool :=
  s.crew.cond == .resident && s.crew.slice.has && decide (1 ≤ s.crew.slice.state ∧ s.crew.slice.state ≤ 3)
    && s.crew.slice.push == none && !noParts s && !s.crew.halt && s.pkg.powered && !s.pkg.halted

/-- Whether a part is inside a unit: it has passed the boundary before it and waits in it. -/
def Part.inUnit (p : Part) : Bool :=
  p.relDone || match p.wait with
  | .inside => true
  | .waita _ => true
  | .barw .. => true
  | .barc _ _ begun => begun
  | .release .. => true
  | .dump => true
  | _ => false

/-- The boundary before a unit: a held store fault and a breakpoint come before the unit itself, `f` (R162, R419). A unit that
waits has it behind it. Where Sparge meets the unit, it is a slice error (R246). -/
def boundary (r : Run) (f : State → State) (s : State) : State :=
  match s.agent with
  | .sparge => if spargeReady s then sliceError s else s
  | .wave =>
    if canIssue s = false then s
    else if s.part.inUnit then f s
    else
      let t := reportDue s
      if t.part.fault.isSome ∧ t.part.state ≠ .trapped then storeTrap r t
      else if answerDue t then hold t
      else match breakAt r t with
        | some k => breakpoint k r t
        | none => f t

/-- A unit at the part's PC. -/
def unitStep (o : Op) (f : State → State) (s : State) : State := boundary o.run (unitBody o f) s

/-- The meaning of a unit: always a next state. -/
def unit (o : Op) (f : State → State) (s : State) : Host.Outcome State Fault Refusal := .next (unitStep o f s)

/-- The end of a unit that goes on at `pc`, no earlier than `n` cycles after its issue, and no earlier than its stall
count allows (R30, R105). -/
def goto (r : Run) (n : Nat) (pc : W64) (s : State) : State :=
  { s with free := s.free + 1, part := { s.part with
      pc := pc, ready := now s + max n (stallOf r + 1), wait := .none, relDone := false, fresh := false,
      issued := s.part.issued + 1 } }

/-- The end of a unit that falls through (R30). -/
def done (r : Run) (s : State) : State := goto r 1 (unitNext r s) s

/-- The value of the condition that a unit without effect on registers sets: its trap with exm as XLANES (R161). -/
def trapExm (cause info : Nat) (r : Run) (s : State) : State :=
  trap { cause := cause, lanes := s.part.exm, info := BitVec.ofNat 64 info, addr := 0#64 } r s

/-- Cause 0x03 of a scalar or control instruction (R161): XLANES 0, the size and the address. -/
def misaligned (size : Nat) (addr : W64) (r : Run) (s : State) : State :=
  trap { cause := 0x03, lanes := 0#64, info := BitVec.ofNat 64 size, addr := addr } r s

end Sys2Proof.Machine
end

