-- ==== Sys2Proof/Machine/Operands.lean ====
section
/-! DEFINITION. Operand forms: register fields by kind, immediates (R64), the B operand of vector instructions with BSC
(R130, R131), and the addresses of memory operands (R61, R111, R191, R203). -/

namespace Sys2Proof.Machine

/-! ### Register fields -/

/-- A scalar source. -/
def srcS (n : BitVec 7) : Use := { reg := .s n.toNat, cnt := 1, align := 1, rd := true, wr := false }

/-- A scalar destination. -/
def dstS (n : BitVec 7) : Use := { reg := .s n.toNat, cnt := 1, align := 1, rd := false, wr := true }

/-- A scalar that is read and written. -/
def modS (n : BitVec 7) : Use := { reg := .s n.toNat, cnt := 1, align := 1, rd := true, wr := true }

/-- A group of `k` vector registers as a source, its number a multiple of `al` (R192). -/
def srcVs (n : BitVec 7) (k al : Nat) : Use := { reg := .v n.toNat, cnt := k, align := al, rd := true, wr := false }

def dstVs (n : BitVec 7) (k al : Nat) : Use := { reg := .v n.toNat, cnt := k, align := al, rd := false, wr := true }

def modVs (n : BitVec 7) (k al : Nat) : Use := { reg := .v n.toNat, cnt := k, align := al, rd := true, wr := true }

def srcV (n : BitVec 7) : Use := srcVs n 1 1

def dstV (n : BitVec 7) : Use := dstVs n 1 1

def modV (n : BitVec 7) : Use := modVs n 1 1

def srcM (n : BitVec 7) : Use := { reg := .m n.toNat, cnt := 1, align := 1, rd := true, wr := false }

def dstM (n : BitVec 7) : Use := { reg := .m n.toNat, cnt := 1, align := 1, rd := false, wr := true }

/-- The OPC operand as a field (R66). -/
def opcField (r : Run) : BitVec 7 := BitVec.ofNat 7 (opcOf r)

/-! ### Scalar operands -/

/-- Scalar register of a field. -/
def sreg (s : State) (n : BitVec 7) : W64 := rdS s n.toNat

/-- The immediate of an RRI instruction: the IMM24 hints' value, else IMM7 (R64). -/
def immRRI (r : Run) (i : BitVec 7) : W64 := (immOf r).getD (i.signExtend 64)

/-- A displacement (R61). -/
def dispOf (r : Run) : W64 := (immOf r).getD 0#64

/-- The address of an access with a scalar index (R111, R203). -/
def addrS (r : Run) (a b : BitVec 7) (scale : Nat) (s : State) : W64 :=
  sreg s a + (sreg s b <<< (widthHint r).getD scale) + dispOf r

/-- The address formed in lane `l` of an access with a vector index; B = 0 adds none (R191). -/
def addrV (r : Run) (a b : BitVec 7) (scale : Nat) (l : Nat) (s : State) : W64 :=
  let idx := if b = 0#7 then 0#64 else (rdV s b.toNat l).setWidth 64 <<< (widthHint r).getD scale
  sreg s a + idx + dispOf r

/-! ### MOD masks (R65) -/

def modTRK : Nat := 2 ^ 20 + 0xF * 2 ^ 6
def modREL : Nat := 2 ^ 19
def modACQ : Nat := 2 ^ 18
def modBSC : Nat := 2 ^ 17
def modMSEL : Nat := 7 * 2 ^ 14
def modW64 : Nat := 2 ^ 13
def modSAT : Nat := 2 ^ 12
def modCACHE : Nat := 3 * 2 ^ 10
def modSCOPE : Nat := 7 * 2 ^ 3
def modRND : Nat := 7

/-- The SCOPE field. -/
def scopeOf (r : Run) : Nat := modField r 5 3

end Sys2Proof.Machine
end

