-- ==== Sys2Proof/Machine/Scalar.lean ====
section
/-! DEFINITION. Scalar arithmetic: SALU (R107), SALI (R108, R109) and SLI (R110). -/

namespace Sys2Proof.Machine

/-! ### SALU (R107) -/

/-- The checks of a SALU unit: three scalar fields, and MOD with SAT where the row takes it (R104). -/
def opSalu (fn : Nat) (sat : Bool) (r : Run) (d a b : BitVec 7) : Op :=
  { Op.plain (wRRR 3 r d a b fn) r 2 [srcS a, srcS b, dstS d] with mods := if sat then some modSAT else none }

/-- A SALU unit: s[D] := f(s[A], s[B]) with latency 2. -/
def salu (fn : Nat) (sat : Bool) (f : W64 → W64 → W64) (r : Run) (d a b : BitVec 7) (s : State) :
    Host.Outcome State Fault Refusal :=
  unit (opSalu fn sat r d a b) (fun t => done r (wrS 2 d.toNat (f (sreg t a) (sreg t b)) t)) s

/-- An exact result wrapped to 64 bits, or clamped as s64 when MOD.SAT is 1 (R83, R107). -/
def satOrWrap (r : Run) (x : Int) : W64 :=
  if modField r 12 12 = 1 then w64 (clampInt x (-2 ^ 63) (2 ^ 63 - 1)) else w64 x

/-- SADD (R107). -/
def execSadd (r : Run) (d a b : BitVec 7) (s : State) : Host.Outcome State Fault Refusal :=
  salu 0 true (fun x y => satOrWrap r (x.toInt + y.toInt)) r d a b s

/-- SSUB (R107). -/
def execSsub (r : Run) (d a b : BitVec 7) (s : State) : Host.Outcome State Fault Refusal :=
  salu 1 true (fun x y => satOrWrap r (x.toInt - y.toInt)) r d a b s

/-- SMUL (R107). -/
def execSmul (r : Run) (d a b : BitVec 7) (s : State) : Host.Outcome State Fault Refusal :=
  salu 2 true (fun x y => satOrWrap r (x.toInt * y.toInt)) r d a b s

/-- SMULH (R107): floor of the signed product over 2^64. -/
def execSmulh (r : Run) (d a b : BitVec 7) (s : State) : Host.Outcome State Fault Refusal :=
  salu 3 false (fun x y => w64 (x.toInt * y.toInt / 2 ^ 64)) r d a b s

/-- SAND (R107). -/
def execSand (r : Run) (d a b : BitVec 7) (s : State) : Host.Outcome State Fault Refusal :=
  salu 4 false (fun x y => x &&& y) r d a b s

/-- SOR (R107). -/
def execSor (r : Run) (d a b : BitVec 7) (s : State) : Host.Outcome State Fault Refusal :=
  salu 5 false (fun x y => x ||| y) r d a b s

/-- SXOR (R107). -/
def execSxor (r : Run) (d a b : BitVec 7) (s : State) : Host.Outcome State Fault Refusal :=
  salu 6 false (fun x y => x ^^^ y) r d a b s

/-- A shift count: bits [5:0] (R107). -/
def cnt6 (y : W64) : Nat := y.toNat % 64

/-- SSHL (R107). -/
def execSshl (r : Run) (d a b : BitVec 7) (s : State) : Host.Outcome State Fault Refusal :=
  salu 7 false (fun x y => x <<< cnt6 y) r d a b s

/-- SSHR (R107). -/
def execSshr (r : Run) (d a b : BitVec 7) (s : State) : Host.Outcome State Fault Refusal :=
  salu 8 false (fun x y => x >>> cnt6 y) r d a b s

/-- SSAR (R107). -/
def execSsar (r : Run) (d a b : BitVec 7) (s : State) : Host.Outcome State Fault Refusal :=
  salu 9 false (fun x y => x.sshiftRight (cnt6 y)) r d a b s

/-- SMIN (R107). -/
def execSmin (r : Run) (d a b : BitVec 7) (s : State) : Host.Outcome State Fault Refusal :=
  salu 10 false (fun x y => if x.toInt < y.toInt then x else y) r d a b s

/-- SMAX (R107). -/
def execSmax (r : Run) (d a b : BitVec 7) (s : State) : Host.Outcome State Fault Refusal :=
  salu 11 false (fun x y => if y.toInt < x.toInt then x else y) r d a b s

/-- SMINN (R107). -/
def execSminn (r : Run) (d a b : BitVec 7) (s : State) : Host.Outcome State Fault Refusal :=
  salu 12 false (fun x y => if x.toNat < y.toNat then x else y) r d a b s

/-- SMAXN (R107). -/
def execSmaxn (r : Run) (d a b : BitVec 7) (s : State) : Host.Outcome State Fault Refusal :=
  salu 13 false (fun x y => if y.toNat < x.toNat then x else y) r d a b s

/-- SSLT (R107). -/
def execSslt (r : Run) (d a b : BitVec 7) (s : State) : Host.Outcome State Fault Refusal :=
  salu 14 false (fun x y => if x.toInt < y.toInt then 1#64 else 0#64) r d a b s

/-- SSLTN (R107). -/
def execSsltn (r : Run) (d a b : BitVec 7) (s : State) : Host.Outcome State Fault Refusal :=
  salu 15 false (fun x y => if x.toNat < y.toNat then 1#64 else 0#64) r d a b s

/-! ### SALI (R108, R109) -/

/-- The checks of a SALI unit with an immediate from IMM7, or from one or two IMM24 hints, when IMM7 is 0 (R56). -/
def opSali (fn : Nat) (r : Run) (d a i : BitVec 7) : Op :=
  { Op.plain (wRRR 4 r d a i fn) r 2 [srcS a, dstS d] with
    lims := immCount r = 0 || i == 0#7, immMax := 2 }

/-- A SALI unit: s[D] := f(s[A], i) with latency 2. -/
def sali (fn : Nat) (f : W64 → W64 → W64) (r : Run) (d a i : BitVec 7) (s : State) :
    Host.Outcome State Fault Refusal :=
  unit (opSali fn r d a i) (fun t => done r (wrS 2 d.toNat (f (sreg t a) (immRRI r i)) t)) s

/-- SADDI (R108). -/
def execSaddi (r : Run) (d a i : BitVec 7) (s : State) : Host.Outcome State Fault Refusal :=
  sali 0 (fun x y => x + y) r d a i s

/-- SANDI (R108). -/
def execSandi (r : Run) (d a i : BitVec 7) (s : State) : Host.Outcome State Fault Refusal :=
  sali 1 (fun x y => x &&& y) r d a i s

/-- SORI (R108). -/
def execSori (r : Run) (d a i : BitVec 7) (s : State) : Host.Outcome State Fault Refusal :=
  sali 2 (fun x y => x ||| y) r d a i s

/-- SXORI (R108). -/
def execSxori (r : Run) (d a i : BitVec 7) (s : State) : Host.Outcome State Fault Refusal :=
  sali 3 (fun x y => x ^^^ y) r d a i s

/-- The checks of a shift by an immediate (R108): a negative IMM7 fails step 3, an IMM24 pair or a value outside 0 to 63
step 5. -/
def opShiftI (maj fn lat top : Nat) (uses : List Use) (r : Run) (d a i : BitVec 7) : Op :=
  { Op.plain (wRRR maj r d a i fn) r lat uses with
    lims := if immCount r = 0 then decide (i.toNat < 64) && decide (i.toNat ≤ top) else i == 0#7, immMax := 2,
    immOk := immCount r ≠ 2 && decide (((immOf r).getD 0#64).toNat ≤ top) }

/-- A shift of SALI. -/
def saliShift (fn : Nat) (f : W64 → Nat → W64) (r : Run) (d a i : BitVec 7) (s : State) :
    Host.Outcome State Fault Refusal :=
  unit (opShiftI 4 fn 2 63 [srcS a, dstS d] r d a i)
    (fun t => done r (wrS 2 d.toNat (f (sreg t a) (immRRI r i).toNat) t)) s

/-- SSHLI (R108). -/
def execSshli (r : Run) (d a i : BitVec 7) (s : State) : Host.Outcome State Fault Refusal :=
  saliShift 4 (fun x n => x <<< n) r d a i s

/-- SSHRI (R108). -/
def execSshri (r : Run) (d a i : BitVec 7) (s : State) : Host.Outcome State Fault Refusal :=
  saliShift 5 (fun x n => x >>> n) r d a i s

/-- SSARI (R108). -/
def execSsari (r : Run) (d a i : BitVec 7) (s : State) : Host.Outcome State Fault Refusal :=
  saliShift 6 (fun x n => x.sshiftRight n) r d a i s

/-- SSLTI (R108). -/
def execSslti (r : Run) (d a i : BitVec 7) (s : State) : Host.Outcome State Fault Refusal :=
  sali 7 (fun x y => if x.toInt < y.toInt then 1#64 else 0#64) r d a i s

/-- A SALI unit without an immediate (SCLZ, SPOPC, SMOV). -/
def saliMove (fn : Nat) (f : W64 → W64) (r : Run) (d a : BitVec 7) (s : State) : Host.Outcome State Fault Refusal :=
  unit (Op.plain (wRRR 4 r d a 0#7 fn) r 2 [srcS a, dstS d]) (fun t => done r (wrS 2 d.toNat (f (sreg t a)) t)) s

/-- The count of leading zero bits of the low `n` bits of a number. -/
def clz (n x : Nat) : Nat := ((List.range n).find? (fun i => x.testBit (n - 1 - i))).getD n

/-- The count of one bits among the low `n` bits of a number. -/
def ones (n x : Nat) : Nat := ((List.range n).filter (fun i => x.testBit i)).length

/-- SCLZ (R108). -/
def execSclz (r : Run) (d a : BitVec 7) (s : State) : Host.Outcome State Fault Refusal :=
  saliMove 8 (fun x => BitVec.ofNat 64 (clz 64 x.toNat)) r d a s

/-- SPOPC (R108). -/
def execSpopc (r : Run) (d a : BitVec 7) (s : State) : Host.Outcome State Fault Refusal :=
  saliMove 9 (fun x => BitVec.ofNat 64 (ones 64 x.toNat)) r d a s

/-- SMOV (R108). -/
def execSmov (r : Run) (d a : BitVec 7) (s : State) : Host.Outcome State Fault Refusal :=
  saliMove 11 (fun x => x) r d a s

/-- The checks of SBFX (R109): exactly one IMM24 hint, bits [23:13] zero, POS + LENM1 at most 63. -/
def opSbfx (r : Run) (d a : BitVec 7) : Op :=
  let p := (payload r 0).getD 0
  { Op.plain (wRRR 4 r d a 0#7 10) r 2 [srcS a, dstS d] with
    immMin := 1, immMax := 1, immOk := decide (p < 2 ^ 13) && decide (p % 64 + p / 64 % 64 ≤ 63) }

/-- The field that SBFX extracts, extended as SX selects (R109). -/
def sbfxOf (p : Nat) (x : W64) : W64 :=
  let len := p / 64 % 64 + 1
  let v := x.toNat / 2 ^ (p % 64) % 2 ^ len
  if p.testBit 12 then w64 (signedOf len v) else BitVec.ofNat 64 v

/-- SBFX (R109). -/
def execSbfx (r : Run) (d a : BitVec 7) (s : State) : Host.Outcome State Fault Refusal :=
  unit (opSbfx r d a) (fun t => done r (wrS 2 d.toNat (sbfxOf ((payload r 0).getD 0) (sreg t a)) t)) s

/-! ### SLI (R110) -/

/-- SLI (R110): SLOT 0 writes the sign-extended immediate; SLOT 1 to 3 replace 16 bits and keep the others. -/
def sliOf (old : W64) (l : BitVec 2) (i : BitVec 16) : W64 :=
  if l = 0#2 then i.signExtend 64 else bset old (16 * l.toNat + 15) (16 * l.toNat) i.toNat

/-- SLI (R110). -/
def execSli (r : Run) (d : BitVec 7) (l : BitVec 2) (i : BitVec 16) (s : State) : Host.Outcome State Fault Refusal :=
  unit (Op.plain (wLI r d l i) r 2 [if l = 0#2 then dstS d else modS d])
    (fun t => done r (wrS 2 d.toNat (sliOf (if l = 0#2 then 0#64 else sreg t d) l i) t)) s

end Sys2Proof.Machine
end

