-- ==== Sys2Proof/Machine/VInt.lean ====
section
/-! DEFINITION. Integer lanes: VINT (R135), VINT2 (R136, R137) and VINI (R138). -/

namespace Sys2Proof.Machine

/-! ### The B operand (R131) -/

/-- Whether MOD.BSC names a scalar as the B operand. -/
def bsc (r : Run) : Bool := modField r 17 17 == 1

/-- The B field of a vector instruction that accepts BSC. -/
def bUse (r : Run) (b : BitVec 7) : Use := if bsc r then srcS b else srcV b

/-- The B operand in lane `l`. -/
def rdB (r : Run) (b : BitVec 7) (s : State) (l : Nat) : W32 := if bsc r then (sreg s b).setWidth 32 else rdV s b.toNat l

/-- The A operand in lane `l`. -/
def rdA (a : BitVec 7) (s : State) (l : Nat) : W32 := rdV s a.toNat l

/-- The C operand in lane `l` (R131). -/
def rdC (r : Run) (s : State) (l : Nat) : W32 := rdV s (opcOf r) l

/-- A lane-wise unit: the active lanes of v[D] receive `f` (R22, R130). -/
def laneUnit (o : Op) (d : BitVec 7) (f : State → Nat → W32) (s : State) : Host.Outcome State Fault Refusal :=
  unit o (fun t => done o.run (wrV o.lat d.toNat (activeLanes t) (f t) t)) s

/-! ### VINT (R135) -/

/-- The checks of a VINT unit (R132). -/
def opVint (fn mods : Nat) (r : Run) (d a b : BitVec 7) : Op :=
  { Op.plain (wRRR 7 r d a b fn) r 4 [srcV a, bUse r b, dstV d] with mods := some (modBSC + mods) }

/-- A VINT unit: v[D][l] := f(a, b) in each active lane. -/
def vint (fn mods : Nat) (f : W32 → W32 → W32) (r : Run) (d a b : BitVec 7) (s : State) :
    Host.Outcome State Fault Refusal :=
  laneUnit (opVint fn mods r d a b) d (fun t l => f (rdA a t l) (rdB r b t l)) s

/-- An exact result wrapped to 32 bits, or clamped as s32 when MOD.SAT is 1 (R83). -/
def satOrWrap32 (r : Run) (x : Int) : W32 :=
  if modField r 12 12 = 1 then w32 (clampInt x (-2 ^ 31) (2 ^ 31 - 1)) else w32 x

/-- VADD (R135). -/
def execVadd (r : Run) (d a b : BitVec 7) (s : State) : Host.Outcome State Fault Refusal :=
  vint 0 modSAT (fun x y => satOrWrap32 r (x.toInt + y.toInt)) r d a b s

/-- VSUB (R135). -/
def execVsub (r : Run) (d a b : BitVec 7) (s : State) : Host.Outcome State Fault Refusal :=
  vint 1 modSAT (fun x y => satOrWrap32 r (x.toInt - y.toInt)) r d a b s

/-- VMUL (R135). -/
def execVmul (r : Run) (d a b : BitVec 7) (s : State) : Host.Outcome State Fault Refusal :=
  vint 2 modSAT (fun x y => satOrWrap32 r (x.toInt * y.toInt)) r d a b s

/-- VMULH (R135): floor of the signed product over 2^32. -/
def execVmulh (r : Run) (d a b : BitVec 7) (s : State) : Host.Outcome State Fault Refusal :=
  vint 3 0 (fun x y => w32 (x.toInt * y.toInt / 2 ^ 32)) r d a b s

/-- VMULHN (R135): floor of the natural product over 2^32. -/
def execVmulhn (r : Run) (d a b : BitVec 7) (s : State) : Host.Outcome State Fault Refusal :=
  vint 4 0 (fun x y => BitVec.ofNat 32 (x.toNat * y.toNat / 2 ^ 32)) r d a b s

/-- VAND (R135). -/
def execVand (r : Run) (d a b : BitVec 7) (s : State) : Host.Outcome State Fault Refusal :=
  vint 5 0 (fun x y => x &&& y) r d a b s

/-- VOR (R135). -/
def execVor (r : Run) (d a b : BitVec 7) (s : State) : Host.Outcome State Fault Refusal :=
  vint 6 0 (fun x y => x ||| y) r d a b s

/-- VXOR (R135). -/
def execVxor (r : Run) (d a b : BitVec 7) (s : State) : Host.Outcome State Fault Refusal :=
  vint 7 0 (fun x y => x ^^^ y) r d a b s

/-- A shift count: bits [4:0] (R135). -/
def cnt5 (y : W32) : Nat := y.toNat % 32

/-- VSHL (R135). -/
def execVshl (r : Run) (d a b : BitVec 7) (s : State) : Host.Outcome State Fault Refusal :=
  vint 8 0 (fun x y => x <<< cnt5 y) r d a b s

/-- VSHR (R135). -/
def execVshr (r : Run) (d a b : BitVec 7) (s : State) : Host.Outcome State Fault Refusal :=
  vint 9 0 (fun x y => x >>> cnt5 y) r d a b s

/-- VSAR (R135). -/
def execVsar (r : Run) (d a b : BitVec 7) (s : State) : Host.Outcome State Fault Refusal :=
  vint 10 0 (fun x y => x.sshiftRight (cnt5 y)) r d a b s

def minS (x y : W32) : W32 := if y.toInt < x.toInt then y else x
def maxS (x y : W32) : W32 := if x.toInt < y.toInt then y else x
def minN (x y : W32) : W32 := if y.toNat < x.toNat then y else x
def maxN (x y : W32) : W32 := if x.toNat < y.toNat then y else x

/-- VMIN (R135). -/
def execVmin (r : Run) (d a b : BitVec 7) (s : State) : Host.Outcome State Fault Refusal := vint 11 0 minS r d a b s

/-- VMAX (R135). -/
def execVmax (r : Run) (d a b : BitVec 7) (s : State) : Host.Outcome State Fault Refusal := vint 12 0 maxS r d a b s

/-- VMINN (R135). -/
def execVminn (r : Run) (d a b : BitVec 7) (s : State) : Host.Outcome State Fault Refusal := vint 13 0 minN r d a b s

/-- VMAXN (R135). -/
def execVmaxn (r : Run) (d a b : BitVec 7) (s : State) : Host.Outcome State Fault Refusal := vint 14 0 maxN r d a b s

/-- The checks of VSEL: the mask register is a source too. -/
def opVsel (r : Run) (d a b : BitVec 7) : Op :=
  { opVint 15 modMSEL r d a b with
    uses := [srcV a, bUse r b, dstV d, srcM (BitVec.ofNat 7 (modField r 16 14))] }

/-- VSEL (R135). -/
def execVsel (r : Run) (d a b : BitVec 7) (s : State) : Host.Outcome State Fault Refusal :=
  laneUnit (opVsel r d a b) d
    (fun t l => if (rdM t (modField r 16 14)).getLsbD l then rdA a t l else rdB r b t l) s

/-! ### VINT2 (R136, R137) -/

/-- The checks of a VINT2 unit with its register fields. -/
def opVint2 (fn : Nat) (r : Run) (d a b : BitVec 7) (uses : List Use) : Op := Op.plain (wRRR 8 r d a b fn) r 4 uses

/-- A VINT2 unit with one vector source and no hint but STALL. -/
def vint2 (fn : Nat) (f : W32 → W32) (r : Run) (d a : BitVec 7) (s : State) : Host.Outcome State Fault Refusal :=
  laneUnit (opVint2 fn r d a 0#7 [srcV a, dstV d]) d (fun t l => f (rdA a t l)) s

/-- The checks of VMAD. -/
def opVmad (r : Run) (d a b : BitVec 7) : Op :=
  { opVint2 0 r d a b [srcV a, bUse r b, dstV d] with mods := some modBSC, opc := some (true, srcV (opcField r)) }

/-- VMAD (R136). -/
def execVmad (r : Run) (d a b : BitVec 7) (s : State) : Host.Outcome State Fault Refusal :=
  laneUnit (opVmad r d a b) d
    (fun t l => rdA a t l * rdB r b t l + rdC r t l) s

/-- The checks of VABS and VNEG, which take SAT. -/
def opSat (fn : Nat) (r : Run) (d a : BitVec 7) : Op :=
  { opVint2 fn r d a 0#7 [srcV a, dstV d] with mods := some modSAT }

/-- VABS (R136). -/
def execVabs (r : Run) (d a : BitVec 7) (s : State) : Host.Outcome State Fault Refusal :=
  laneUnit (opSat 1 r d a) d (fun t l => satOrWrap32 r ((rdA a t l).toInt.natAbs : Int)) s

/-- VNEG (R136). -/
def execVneg (r : Run) (d a : BitVec 7) (s : State) : Host.Outcome State Fault Refusal :=
  laneUnit (opSat 2 r d a) d (fun t l => satOrWrap32 r (-(rdA a t l).toInt)) s

/-- VNOT (R136). -/
def execVnot (r : Run) (d a : BitVec 7) (s : State) : Host.Outcome State Fault Refusal := vint2 3 (fun x => ~~~ x) r d a s

/-- VCLZ (R136). -/
def execVclz (r : Run) (d a : BitVec 7) (s : State) : Host.Outcome State Fault Refusal :=
  vint2 4 (fun x => BitVec.ofNat 32 (clz 32 x.toNat)) r d a s

/-- VPOPC (R136). -/
def execVpopc (r : Run) (d a : BitVec 7) (s : State) : Host.Outcome State Fault Refusal :=
  vint2 5 (fun x => BitVec.ofNat 32 (ones 32 x.toNat)) r d a s

/-- The payload of the one IMM24 hint of VBFX, VBFI and VQUAD. -/
def pay (r : Run) : Nat := (payload r 0).getD 0

/-- The checks of VBFX and VBFI (R137). -/
def opField (fn top : Nat) (r : Run) (d a : BitVec 7) (dst : Use) : Op :=
  { opVint2 fn r d a 0#7 [srcV a, dst] with
    immMin := 1, immMax := 1, immOk := decide (pay r < top) && decide (pay r % 32 + pay r / 32 % 32 ≤ 31) }

/-- The field that VBFX extracts (R136, R137). -/
def fieldOf (p : Nat) (x : W32) : W32 :=
  let len := p / 32 % 32 + 1
  let v := x.toNat / 2 ^ (p % 32) % 2 ^ len
  if p.testBit 10 then w32 (signedOf len v) else BitVec.ofNat 32 v

/-- VBFX (R136). -/
def execVbfx (r : Run) (d a : BitVec 7) (s : State) : Host.Outcome State Fault Refusal :=
  laneUnit (opField 6 (2 ^ 11) r d a (dstV d)) d (fun t l => fieldOf (pay r) (rdA a t l)) s

/-- v[D] with the field replaced by the low bits of a (R136). -/
def fieldIn (p : Nat) (old x : W32) : W32 :=
  let pos := p % 32
  let len := p / 32 % 32 + 1
  BitVec.ofNat 32 (old.toNat % 2 ^ pos + x.toNat % 2 ^ len * 2 ^ pos + old.toNat / 2 ^ (pos + len) * 2 ^ (pos + len))

/-- VBFI (R136): SX must be 0. -/
def execVbfi (r : Run) (d a : BitVec 7) (s : State) : Host.Outcome State Fault Refusal :=
  laneUnit (opField 7 (2 ^ 10) r d a (modV d)) d (fun t l => fieldIn (pay r) (rdV t d.toNat l) (rdA a t l)) s

/-- VBCST (R136). -/
def execVbcst (r : Run) (d a : BitVec 7) (s : State) : Host.Outcome State Fault Refusal :=
  laneUnit (opVint2 8 r d a 0#7 [srcS a, dstV d]) d (fun t _ => (sreg t a).setWidth 32) s

/-- VLANE (R136). -/
def execVlane (r : Run) (d : BitVec 7) (s : State) : Host.Outcome State Fault Refusal :=
  laneUnit (opVint2 9 r d 0#7 0#7 [dstV d]) d (fun _ l => BitVec.ofNat 32 l) s

/-- VMOV (R136). -/
def execVmov (r : Run) (d a : BitVec 7) (s : State) : Host.Outcome State Fault Refusal := vint2 10 (fun x => x) r d a s

/-- The checks of VADDS and VSUBS. -/
def opSatN (fn : Nat) (r : Run) (d a b : BitVec 7) : Op :=
  { opVint2 fn r d a b [srcV a, bUse r b, dstV d] with mods := some modBSC }

/-- VADDS (R136): the natural sum clamped to 2^32 - 1. -/
def execVadds (r : Run) (d a b : BitVec 7) (s : State) : Host.Outcome State Fault Refusal :=
  laneUnit (opSatN 11 r d a b) d
    (fun t l => BitVec.ofNat 32 (min ((rdA a t l).toNat + (rdB r b t l).toNat) (2 ^ 32 - 1))) s

/-- VSUBS (R136): the natural difference clamped to 0. -/
def execVsubs (r : Run) (d a b : BitVec 7) (s : State) : Host.Outcome State Fault Refusal :=
  laneUnit (opSatN 12 r d a b) d (fun t l => BitVec.ofNat 32 ((rdA a t l).toNat - (rdB r b t l).toNat)) s

/-- The checks of VQUAD. -/
def opVquad (r : Run) (d a : BitVec 7) : Op :=
  { opVint2 13 r d a 0#7 [srcV a, dstV d] with immMin := 1, immMax := 1, immOk := decide (pay r < 2 ^ 8) }

/-- VQUAD (R136): the source lane is read whether or not it is active. -/
def execVquad (r : Run) (d a : BitVec 7) (s : State) : Host.Outcome State Fault Refusal :=
  laneUnit (opVquad r d a) d
    (fun t l => rdA a t (l / 4 * 4 + pay r / 4 ^ (l % 4) % 4)) s

/-- The bits of a word in reverse order. -/
def brev (x : W32) : W32 := (List.range 32).foldl (fun m j => if x.getLsbD j then m ||| (1#32 <<< (31 - j)) else m) 0#32

/-- VBREV (R136). -/
def execVbrev (r : Run) (d a : BitVec 7) (s : State) : Host.Outcome State Fault Refusal := vint2 14 brev r d a s

/-! ### VINI (R138) -/

/-- The checks of a VINI unit: an immediate from a hint lies from -2^31 to 2^32 - 1. -/
def opVini (fn : Nat) (r : Run) (d a i : BitVec 7) : Op :=
  let x := ((immOf r).getD 0#64).toInt
  { Op.plain (wRRR 9 r d a i fn) r 4 [srcV a, dstV d] with
    lims := immCount r = 0 || i == 0#7, immMax := 2, immOk := decide (-2 ^ 31 ≤ x ∧ x ≤ 2 ^ 32 - 1) }

/-- A VINI unit: v[D][l] := f(a, i[31:0]). -/
def vini (fn : Nat) (f : W32 → W32 → W32) (r : Run) (d a i : BitVec 7) (s : State) : Host.Outcome State Fault Refusal :=
  laneUnit (opVini fn r d a i) d (fun t l => f (rdA a t l) ((immRRI r i).setWidth 32)) s

/-- VADDI (R138). -/
def execVaddi (r : Run) (d a i : BitVec 7) (s : State) : Host.Outcome State Fault Refusal := vini 0 (fun x y => x + y) r d a i s

/-- VANDI (R138). -/
def execVandi (r : Run) (d a i : BitVec 7) (s : State) : Host.Outcome State Fault Refusal := vini 1 (fun x y => x &&& y) r d a i s

/-- VORI (R138). -/
def execVori (r : Run) (d a i : BitVec 7) (s : State) : Host.Outcome State Fault Refusal := vini 2 (fun x y => x ||| y) r d a i s

/-- VXORI (R138). -/
def execVxori (r : Run) (d a i : BitVec 7) (s : State) : Host.Outcome State Fault Refusal := vini 3 (fun x y => x ^^^ y) r d a i s

/-- The checks of a shift of VINI (R138): the count lies from 0 to 31. -/
def opViniShift (fn : Nat) (r : Run) (d a i : BitVec 7) : Op := opShiftI 9 fn 4 31 [srcV a, dstV d] r d a i

/-- A shift of VINI (R138). -/
def viniShift (fn : Nat) (f : W32 → Nat → W32) (r : Run) (d a i : BitVec 7) (s : State) :
    Host.Outcome State Fault Refusal :=
  laneUnit (opViniShift fn r d a i) d (fun t l => f (rdA a t l) (immRRI r i).toNat) s

/-- VSHLI (R138). -/
def execVshli (r : Run) (d a i : BitVec 7) (s : State) : Host.Outcome State Fault Refusal := viniShift 4 (fun x n => x <<< n) r d a i s

/-- VSHRI (R138). -/
def execVshri (r : Run) (d a i : BitVec 7) (s : State) : Host.Outcome State Fault Refusal := viniShift 5 (fun x n => x >>> n) r d a i s

/-- VSARI (R138). -/
def execVsari (r : Run) (d a i : BitVec 7) (s : State) : Host.Outcome State Fault Refusal :=
  viniShift 6 (fun x n => x.sshiftRight n) r d a i s

/-- VMULI (R138). -/
def execVmuli (r : Run) (d a i : BitVec 7) (s : State) : Host.Outcome State Fault Refusal := vini 7 (fun x y => x * y) r d a i s

end Sys2Proof.Machine
end

