-- ==== Sys2Proof/Machine/Fp.lean ====
section
/-! DEFINITION. Floating formats and exact arithmetic (R84 to R93): values, rounding, NaN payloads, sums and products.
A finite value is a sign, a natural significand and a power of two; every operation is exact and rounds once. -/

namespace Sys2Proof.Machine

/-! ### Formats (R84 to R86) -/

/-- A floating format: the widths of its exponent and fraction fields, its bias, and whether it has infinities. -/
structure Fmt where
  ew   : Nat
  fw   : Nat
  bias : Nat
  infs : Bool
  deriving DecidableEq, Repr

def fp32 : Fmt := { ew := 8, fw := 23, bias := 127, infs := true }
def fp16 : Fmt := { ew := 5, fw := 10, bias := 15, infs := true }
def bf16 : Fmt := { ew := 8, fw := 7, bias := 127, infs := true }
def f8e5 : Fmt := { ew := 5, fw := 2, bias := 15, infs := true }
def f8e4 : Fmt := { ew := 4, fw := 3, bias := 7, infs := false }

/-- The place of the sign bit. -/
def Fmt.sign (f : Fmt) : Nat := f.ew + f.fw

/-- A decoded value: a NaN with its sign, an infinity, or (-1)^neg m 2^e. -/
inductive Val where
  | nan (neg quiet : Bool)
  | inf (neg : Bool)
  | fin (neg : Bool) (m : Nat) (e : Int)
  deriving DecidableEq, Repr

/-- The value of an encoding (R85). -/
def Fmt.decode (f : Fmt) (x : Nat) : Val :=
  let neg := x.testBit f.sign
  let e := x / 2 ^ f.fw % 2 ^ f.ew
  let m := x % 2 ^ f.fw
  let top := 2 ^ f.ew - 1
  if f.infs = true ∧ e = top then
    if m = 0 then .inf neg else .nan neg (m.testBit (f.fw - 1))
  else if f.infs = false ∧ e = top ∧ m = 2 ^ f.fw - 1 then .nan neg true
  else if e = 0 then .fin neg m (1 - (f.bias : Int) - f.fw)
  else .fin neg (2 ^ f.fw + m) ((e : Int) - f.bias - f.fw)

/-- The encoding of the largest finite magnitude. -/
def Fmt.maxFin (f : Fmt) : Nat := if f.infs then (2 ^ f.ew - 1) * 2 ^ f.fw - 1 else 2 ^ (f.ew + f.fw) - 2

/-- An encoding with its sign. -/
def Fmt.signed (f : Fmt) (neg : Bool) (mag : Nat) : Nat := mag + neg.toNat * 2 ^ f.sign

/-- Infinity; the largest finite value in a format without infinities (R87, R88). -/
def Fmt.infinity (f : Fmt) (neg : Bool) : Nat := f.signed neg (if f.infs then (2 ^ f.ew - 1) * 2 ^ f.fw else f.maxFin)

/-! ### Rounding (R87) -/

/-- A quotient rounded to an integer in a mode, for a magnitude with a sign: 0 RNE, 1 RTZ, 2 RUP, 3 RDN. -/
def roundDiv (rnd : Nat) (neg : Bool) (n d : Nat) : Nat :=
  let q := n / d
  let r := n % d
  let up := match rnd with
    | 0 => decide (d < 2 * r) || (2 * r == d && q % 2 == 1)
    | 1 => false
    | 2 => r != 0 && !neg
    | _ => r != 0 && neg
  q + up.toNat

/-- n / d times 2^k as a fraction. -/
def scaleFrac (n d : Nat) (k : Int) : Nat × Nat := if 0 ≤ k then (n * 2 ^ k.toNat, d) else (n, d * 2 ^ (-k).toNat)

/-- floor(log2 (n / d)) for positive n and d. -/
def ilog2 (n d : Nat) : Int :=
  let k : Int := (Nat.log2 n : Int) - Nat.log2 d
  let p := scaleFrac n d (-k)
  if p.2 ≤ p.1 then k else k - 1

/-- The magnitude n / d 2^e rounded to the format: its encoding without the sign, which lies above `maxFin` when it
overflows. -/
def Fmt.roundMag (f : Fmt) (rnd : Nat) (neg : Bool) (n d : Nat) (e : Int) : Nat :=
  if n = 0 then 0
  else
    let emin : Int := 1 - (f.bias : Int)
    let u : Int := max (ilog2 n d + e) emin - f.fw
    let p := scaleFrac n d (e - u)
    let q := roundDiv rnd neg p.1 p.2
    (u + f.fw - emin).toNat * 2 ^ f.fw + q

/-- An arithmetic result rounded once; an overflow as R87 gives. -/
def Fmt.round (f : Fmt) (rnd : Nat) (neg : Bool) (n d : Nat) (e : Int) : Nat :=
  let mag := f.roundMag rnd neg n d e
  if mag ≤ f.maxFin then f.signed neg mag
  else if rnd = 0 ∨ (rnd = 2 ∧ neg = false) ∨ (rnd = 3 ∧ neg = true) then f.infinity neg
  else f.signed neg f.maxFin

/-- A conversion rounded once; an overflow saturates (R88). -/
def Fmt.convert (f : Fmt) (rnd : Nat) (neg : Bool) (n d : Nat) (e : Int) : Nat :=
  f.signed neg (min (f.roundMag rnd neg n d e) f.maxFin)

/-- A signed exact value m 2^e rounded; `zneg` is the sign of a zero. -/
def Fmt.roundInt (f : Fmt) (rnd : Nat) (zneg : Bool) (m : Int) (e : Int) : Nat :=
  if m = 0 then f.signed zneg 0 else f.round rnd (decide (m < 0)) m.natAbs 1 e

/-! ### NaN payloads (R89 to R92) -/

/-- The FP32 generated NaN of an event (R89). -/
def genNan (code origin : Nat) : Nat := 0x7FC00000 + code * 2 ^ 16 + origin

/-- A generated NaN in a format (R89): the FP32 form with its origin, or the table's form of a narrower format. -/
def Fmt.genNan (f : Fmt) (code origin : Nat) : Nat :=
  if f.infs = false then 2 ^ f.sign - 1
  else if f.fw = 2 then 0x7E
  else if f.fw = 23 then Sys2Proof.Machine.genNan code origin
  else Sys2Proof.Machine.genNan code 0 / 2 ^ (23 - f.fw) % 2 ^ f.fw + (2 ^ f.ew - 1) * 2 ^ f.fw

/-- Whether an encoding is a NaN. -/
def Fmt.isNan (f : Fmt) (x : Nat) : Bool :=
  match f.decode x with
  | .nan _ _ => true
  | _ => false

/-- Whether an encoding is a signalling NaN. -/
def Fmt.isSnan (f : Fmt) (x : Nat) : Bool :=
  match f.decode x with
  | .nan _ q => !q
  | _ => false

/-- A NaN of format `g` converted to format `f`: sign kept, quiet bit set, the top fraction bits that fit kept; an F8 NaN widens to a bare quiet NaN (R89). -/
def Fmt.nanFrom (f g : Fmt) (x : Nat) : Nat :=
  let neg := x.testBit g.sign
  if f.infs = false then f.signed neg (2 ^ f.sign - 1)
  else
    let frac := if g.fw < 7 then 0 else x % 2 ^ g.fw
    let moved := if g.fw ≤ f.fw then frac * 2 ^ (f.fw - g.fw) else frac / 2 ^ (g.fw - f.fw)
    f.signed neg ((2 ^ f.ew - 1) * 2 ^ f.fw + (if f.fw = 2 then 2 else moved % 2 ^ (f.fw - 1) + 2 ^ (f.fw - 1)))

/-- A NaN quietened in its own format. -/
def Fmt.quieten (f : Fmt) (x : Nat) : Nat := f.nanFrom f x

/-- The first NaN among operands in order. -/
def Fmt.firstNan (f : Fmt) (l : List Nat) : Option Nat := l.find? f.isNan

/-! ### Exact arithmetic -/

/-- An exact sum of values m 2^e: the significand and exponent of the total. -/
def dyadicSum (l : List (Int × Int)) : Int × Int :=
  let e := l.foldl (fun a x => min a x.2) ((l.head?.map (·.2)).getD 0)
  ((l.map (fun x => x.1 * 2 ^ (x.2 - e).toNat)).sum, e)

/-- A signed significand. -/
def sgn (neg : Bool) (m : Nat) : Int := if neg then -(m : Int) else m

/-- The sign of a zero sum (R87): the common sign when all terms are zeros of one sign, else by the mode. -/
def zeroSign (rnd : Nat) (negs : List Bool) : Bool :=
  if negs.all (fun b => b) then true else if negs.all (fun b => !b) then false else rnd == 3

/-- What an operation gives: an encoding, and whether an FP32 invalid event took place (R93). -/
structure Res where
  bits : Nat
  inv  : Bool
  deriving DecidableEq, Repr

/-- A quiet result. -/
def Res.ok (x : Nat) : Res := { bits := x, inv := false }

/-- A term of a sum: a value that is an infinity or finite. -/
inductive Term where
  | inf (neg : Bool)
  | fin (neg : Bool) (m : Nat) (e : Int)
  deriving DecidableEq, Repr

/-- A sum of terms rounded once: infinities of both signs give `code`; else an infinity, or the exact sum. The sign of an
exact zero follows the zero terms (R87). -/
def Fmt.sumTerms (f : Fmt) (rnd code origin : Nat) (l : List Term) : Res :=
  let has := fun (b : Bool) => l.any (fun t => match t with
    | .inf n => n == b
    | .fin .. => false)
  if has true && has false then { bits := f.genNan code origin, inv := true }
  else if has true then Res.ok (f.infinity true)
  else if has false then Res.ok (f.infinity false)
  else
    let fins := l.filterMap (fun t => match t with
      | .fin n m e => some (n, m, e)
      | .inf _ => none)
    let s := dyadicSum (fins.map (fun x => (sgn x.1 x.2.1, x.2.2)))
    let z := if fins.all (fun x => x.2.1 == 0) then zeroSign rnd (fins.map (·.1)) else rnd == 3
    Res.ok (f.roundInt rnd z s.1 s.2)

/-- The product of two values that are no NaN: none for 0 times infinity. An exact zero takes the XOR of the signs (log 54). -/
def mulVal (x y : Val) : Option Term :=
  match x, y with
  | .inf a, .inf b => some (.inf (a != b))
  | .inf a, .fin b m _ => if m = 0 then none else some (.inf (a != b))
  | .fin a m _, .inf b => if m = 0 then none else some (.inf (a != b))
  | .fin a m e, .fin b n k => some (.fin (a != b) (m * n) (e + k))
  | _, _ => none

/-- A value that is no NaN as a term. -/
def termOf (x : Val) : Term :=
  match x with
  | .inf a => .inf a
  | .fin a m e => .fin a m e
  | .nan _ _ => .fin false 0 0

/-- A term with its sign inverted. -/
def Term.neg (t : Term) : Term :=
  match t with
  | .inf a => .inf (!a)
  | .fin a m e => .fin (!a) m e

/-- An operation with NaN operands handled first (R92, R93): the first NaN, quietened. -/
def Fmt.withNans (f : Fmt) (ops : List Nat) (go : Unit → Res) : Res :=
  match f.firstNan ops with
  | some x => { bits := f.quieten x, inv := ops.any f.isSnan }
  | none => go ()

/-- a + b, or a - b (R139). -/
def Fmt.add (f : Fmt) (rnd code origin : Nat) (sub : Bool) (a b : Nat) : Res :=
  f.withNans [a, b] (fun _ =>
    let y := termOf (f.decode b)
    f.sumTerms rnd code origin [termOf (f.decode a), if sub then y.neg else y])

/-- a × b. -/
def Fmt.mul (f : Fmt) (rnd code origin : Nat) (a b : Nat) : Res :=
  f.withNans [a, b] (fun _ =>
    match mulVal (f.decode a) (f.decode b) with
    | none => { bits := f.genNan code origin, inv := true }
    | some (.inf n) => Res.ok (f.infinity n)
    | some (.fin n m e) => Res.ok (f.roundInt rnd n (sgn n m) e))

/-- ±(a × b) ± c: 0 × ∞ is tested before ∞ - ∞ (R139). -/
def Fmt.fma (f : Fmt) (rnd origin : Nat) (np nc : Bool) (a b c : Nat) : Res :=
  f.withNans [a, b, c] (fun _ =>
    match mulVal (f.decode a) (f.decode b) with
    | none => { bits := f.genNan 0x02 origin, inv := true }
    | some p =>
      let t := termOf (f.decode c)
      f.sumTerms rnd 0x01 origin [if np then p.neg else p, if nc then t.neg else t])

/-! ### Order -/

/-- A number that orders encodings that are no NaN, with -0 below +0. -/
def Fmt.key (f : Fmt) (x : Nat) : Int :=
  let mag := x % 2 ^ f.sign
  if x.testBit f.sign then -(mag : Int) - 1 else mag

/-- A number that orders encodings that are no NaN, with -0 equal to +0. -/
def Fmt.order (f : Fmt) (x : Nat) : Int :=
  let mag := x % 2 ^ f.sign
  if x.testBit f.sign then -(mag : Int) else mag

/-- The smaller or the larger value (R139). -/
def Fmt.minmax (f : Fmt) (larger : Bool) (a b : Nat) : Res :=
  f.withNans [a, b] (fun _ =>
    Res.ok (if larger then (if f.key a < f.key b then b else a) else (if f.key b < f.key a then b else a)))

/-! ### Integers -/

/-- A finite value m 2^e rounded to an integer in a mode (R88). -/
def roundToInt (rnd : Nat) (neg : Bool) (m : Nat) (e : Int) : Int :=
  let p := scaleFrac m 1 e
  sgn neg (roundDiv rnd neg p.1 p.2)

/-- A float converted to an integer of a range: saturated, a NaN gives 0 with an event (R88, R93). -/
def Fmt.toInt (f : Fmt) (rnd : Nat) (lo hi : Int) (x : Nat) : Int × Bool :=
  match f.decode x with
  | .nan _ _ => (0, true)
  | .inf n => (if n then lo else hi, false)
  | .fin n m e => (clampInt (roundToInt rnd n m e) lo hi, false)

/-- A value of format `g` converted to format `f` (R88, R89). -/
def Fmt.from (f g : Fmt) (rnd : Nat) (x : Nat) : Nat :=
  match g.decode x with
  | .nan _ _ => f.nanFrom g x
  | .inf n => f.infinity n
  | .fin n m e => f.convert rnd n m 1 e

end Sys2Proof.Machine
end

