-- ==== Sys2Proof/Machine/VFloat.lean ====
section
/-! DEFINITION. FP32 lanes (R139, R140), packed 16-bit lanes (R144) and conversions (R145, R146), with the FP32 invalid
trap (R134). -/

namespace Sys2Proof.Machine

/-! ### Results with events (R93, R134) -/

/-- The origin of a NaN that the unit at the part's PC generates (R90). -/
def originOf (r : Run) (s : State) : Nat := bfield (unitAddr r s) 17 2

/-- Lane results written, or cause 0x04 when TRAPEN is set, the part is not TRAPPED and a lane has an event (R134, R164). -/
def putRes (r : Run) (lat : Nat) (d : BitVec 7) (f : Nat → Res) (s : State) : State :=
  let ls := activeLanes s
  let ev := ls.filter (fun l => (f l).inv)
  if (wctlOf s).getLsbD 2 = true ∧ s.part.state ≠ .trapped ∧ ev ≠ [] then
    trap { cause := 0x04, lanes := maskOf (fun l => ev.contains l), info := 0#64, addr := 0#64 } r s
  else done r (wrV lat d.toNat ls (fun l => BitVec.ofNat 32 (f l).bits) s)

/-- A lane-wise floating unit. -/
def fpUnit (o : Op) (d : BitVec 7) (f : State → Nat → Res) (s : State) : Host.Outcome State Fault Refusal :=
  unit o (fun t => putRes o.run o.lat d (f t) t) s

/-- The rounding mode of MOD.RND (R87). -/
def rndOf (r : Run) : Nat := modField r 2 0

/-- A lane's operand as a number. -/
def fA (a : BitVec 7) (s : State) (l : Nat) : Nat := (rdA a s l).toNat
def fB (r : Run) (b : BitVec 7) (s : State) (l : Nat) : Nat := (rdB r b s l).toNat
def fC (r : Run) (s : State) (l : Nat) : Nat := (rdC r s l).toNat

/-! ### VF32 (R139, R140) -/

/-- The checks of a VF32 unit with two operands. -/
def opVf (maj fn lat mods : Nat) (r : Run) (d a b : BitVec 7) : Op :=
  { Op.plain (wRRR maj r d a b fn) r lat [srcV a, bUse r b, dstV d] with mods := some mods }

/-- The checks of a unit with three operands. -/
def opVf3 (maj fn lat mods : Nat) (r : Run) (d a b : BitVec 7) : Op :=
  { opVf maj fn lat mods r d a b with opc := some (true, srcV (opcField r)) }

/-- The checks of a unit with one operand. -/
def opVf1 (maj fn lat : Nat) (mods : Option Nat) (r : Run) (d a : BitVec 7) : Op :=
  { Op.plain (wRRR maj r d a 0#7 fn) r lat [srcV a, dstV d] with mods := mods }

/-- FADD (R139). -/
def execFadd (r : Run) (d a b : BitVec 7) (s : State) : Host.Outcome State Fault Refusal :=
  fpUnit (opVf 10 0 6 (modRND + modBSC) r d a b) d
    (fun t l => fp32.add (rndOf r) 0x01 (originOf r t) false (fA a t l) (fB r b t l)) s

/-- FSUB (R139). -/
def execFsub (r : Run) (d a b : BitVec 7) (s : State) : Host.Outcome State Fault Refusal :=
  fpUnit (opVf 10 1 6 (modRND + modBSC) r d a b) d
    (fun t l => fp32.add (rndOf r) 0x01 (originOf r t) true (fA a t l) (fB r b t l)) s

/-- FMUL (R139). -/
def execFmul (r : Run) (d a b : BitVec 7) (s : State) : Host.Outcome State Fault Refusal :=
  fpUnit (opVf 10 2 6 (modRND + modBSC) r d a b) d
    (fun t l => fp32.mul (rndOf r) 0x02 (originOf r t) (fA a t l) (fB r b t l)) s

/-- A fused multiply-add of VF32. -/
def vfma (fn : Nat) (np nc : Bool) (r : Run) (d a b : BitVec 7) (s : State) : Host.Outcome State Fault Refusal :=
  fpUnit (opVf3 10 fn 6 (modRND + modBSC) r d a b) d
    (fun t l => fp32.fma (rndOf r) (originOf r t) np nc (fA a t l) (fB r b t l) (fC r t l)) s

/-- FFMA (R139). -/
def execFfma (r : Run) (d a b : BitVec 7) (s : State) : Host.Outcome State Fault Refusal := vfma 3 false false r d a b s

/-- FFMS (R139). -/
def execFfms (r : Run) (d a b : BitVec 7) (s : State) : Host.Outcome State Fault Refusal := vfma 4 false true r d a b s

/-- FNMA (R139). -/
def execFnma (r : Run) (d a b : BitVec 7) (s : State) : Host.Outcome State Fault Refusal := vfma 5 true false r d a b s

/-- FMIN (R139). -/
def execFmin (r : Run) (d a b : BitVec 7) (s : State) : Host.Outcome State Fault Refusal :=
  fpUnit (opVf 10 6 6 modBSC r d a b) d (fun t l => fp32.minmax false (fA a t l) (fB r b t l)) s

/-- FMAX (R139). -/
def execFmax (r : Run) (d a b : BitVec 7) (s : State) : Host.Outcome State Fault Refusal :=
  fpUnit (opVf 10 7 6 modBSC r d a b) d (fun t l => fp32.minmax true (fA a t l) (fB r b t l)) s

/-- FABS (R139). -/
def execFabs (r : Run) (d a : BitVec 7) (s : State) : Host.Outcome State Fault Refusal :=
  laneUnit (opVf1 10 8 6 none r d a) d (fun t l => rdA a t l &&& 0x7FFFFFFF#32) s

/-- FNEG (R139). -/
def execFneg (r : Run) (d a : BitVec 7) (s : State) : Host.Outcome State Fault Refusal :=
  laneUnit (opVf1 10 9 6 none r d a) d (fun t l => rdA a t l ^^^ 0x80000000#32) s

/-- FCPS (R139). -/
def execFcps (r : Run) (d a b : BitVec 7) (s : State) : Host.Outcome State Fault Refusal :=
  laneUnit (opVf 10 10 6 modBSC r d a b) d
    (fun t l => (rdA a t l &&& 0x7FFFFFFF#32) ||| (rdB r b t l &&& 0x80000000#32)) s

/-- a rounded to an integral value, its sign kept (R139). -/
def frnd (rnd : Nat) (a : Nat) : Res :=
  fp32.withNans [a] (fun _ =>
    match fp32.decode a with
    | .fin n m e => Res.ok (fp32.signed n (fp32.roundMag 0 n (roundToInt rnd n m e).natAbs 1 0))
    | _ => Res.ok a)

/-- FRND (R139). -/
def execFrnd (r : Run) (d a : BitVec 7) (s : State) : Host.Outcome State Fault Refusal :=
  fpUnit (opVf1 10 11 6 (some modRND) r d a) d (fun t l => frnd (rndOf r) (fA a t l)) s

/-- a - floor(a) under RNE; 1.0 becomes the value below it, and ±0 gives +0 (R139). -/
def ffrc (origin : Nat) (a : Nat) : Res :=
  fp32.withNans [a] (fun _ =>
    match fp32.decode a with
    | .fin n m e =>
      let fl := roundToInt 3 n m e
      let x := dyadicSum [(sgn n m, e), (-fl, 0)]
      let y := fp32.roundInt 0 false x.1 x.2
      Res.ok (if y = 0x3F800000 then 0x3F7FFFFF else y)
    | _ => { bits := genNan 0x08 origin, inv := true })

/-- FFRC (R139). -/
def execFfrc (r : Run) (d a : BitVec 7) (s : State) : Host.Outcome State Fault Refusal :=
  fpUnit (opVf1 10 12 6 none r d a) d (fun t l => ffrc (originOf r t) (fA a t l)) s

/-- a × 2^n, rounded once (R139). A count beyond ±600 gives what ±600 gives, for every a. -/
def fscl (rnd : Nat) (a : Nat) (n : Int) : Res :=
  fp32.withNans [a] (fun _ =>
    match fp32.decode a with
    | .fin g m e => Res.ok (if m = 0 then a else fp32.round rnd g m 1 (e + clampInt n (-600) 600))
    | _ => Res.ok a)

/-- FSCL (R139). -/
def execFscl (r : Run) (d a b : BitVec 7) (s : State) : Host.Outcome State Fault Refusal :=
  fpUnit (opVf 10 13 6 (modRND + modBSC) r d a b) d
    (fun t l => fscl (rndOf r) (fA a t l) (rdB r b t l).toInt) s

/-- floor(log2 |a|) as s32, with the special values of R140. -/
def fexn (a : Nat) : W32 :=
  match fp32.decode a with
  | .fin _ m e => if m = 0 then 0x80000000#32 else w32 ((Nat.log2 m : Int) + e)
  | _ => 0x7FFFFFFF#32

/-- FEXN (R139, R140). -/
def execFexn (r : Run) (d a : BitVec 7) (s : State) : Host.Outcome State Fault Refusal :=
  laneUnit (opVf1 10 14 6 none r d a) d (fun t l => fexn (fA a t l)) s

/-! ### VF16 (R144) -/

/-- The two halves of a lane. -/
def lo16 (x : Nat) : Nat := x % 2 ^ 16
def hi16 (x : Nat) : Nat := x / 2 ^ 16

/-- Two half results in one lane; half results never trap (R144). -/
def pair16 (x y : Res) : Res := Res.ok (x.bits % 2 ^ 16 + y.bits % 2 ^ 16 * 2 ^ 16)

/-- A half-wise operation on two operands. -/
def half2 (f : Nat → Nat → Res) (a b : Nat) : Res := pair16 (f (lo16 a) (lo16 b)) (f (hi16 a) (hi16 b))

/-- A half-wise operation on three operands. -/
def half3 (f : Nat → Nat → Nat → Res) (a b c : Nat) : Res :=
  pair16 (f (lo16 a) (lo16 b) (lo16 c)) (f (hi16 a) (hi16 b) (hi16 c))

/-- A VF16 unit with two operands. -/
def vf16 (fn : Nat) (f : Nat → Nat → Res) (r : Run) (d a b : BitVec 7) (s : State) : Host.Outcome State Fault Refusal :=
  fpUnit (opVf 12 fn 6 (modRND + modBSC) r d a b) d (fun t l => half2 f (fA a t l) (fB r b t l)) s

/-- A half-wise fused multiply-add. -/
def vf16fma (fn : Nat) (fm : Fmt) (r : Run) (d a b : BitVec 7) (s : State) : Host.Outcome State Fault Refusal :=
  fpUnit (opVf3 12 fn 6 (modRND + modBSC) r d a b) d
    (fun t l =>
      half3 (fm.fma (rndOf r) 0 false false) (fA a t l) (fB r b t l) (fC r t l)) s

/-- HADD (R144). -/
def execHadd (r : Run) (d a b : BitVec 7) (s : State) : Host.Outcome State Fault Refusal :=
  vf16 0 (fp16.add (rndOf r) 0x01 0 false) r d a b s

/-- HMUL (R144). -/
def execHmul (r : Run) (d a b : BitVec 7) (s : State) : Host.Outcome State Fault Refusal :=
  vf16 1 (fp16.mul (rndOf r) 0x02 0) r d a b s

/-- HFMA (R144). -/
def execHfma (r : Run) (d a b : BitVec 7) (s : State) : Host.Outcome State Fault Refusal := vf16fma 2 fp16 r d a b s

/-- BADD (R144). -/
def execBadd (r : Run) (d a b : BitVec 7) (s : State) : Host.Outcome State Fault Refusal :=
  vf16 3 (bf16.add (rndOf r) 0x01 0 false) r d a b s

/-- BMUL (R144). -/
def execBmul (r : Run) (d a b : BitVec 7) (s : State) : Host.Outcome State Fault Refusal :=
  vf16 4 (bf16.mul (rndOf r) 0x02 0) r d a b s

/-- BFMA (R144). -/
def execBfma (r : Run) (d a b : BitVec 7) (s : State) : Host.Outcome State Fault Refusal := vf16fma 5 bf16 r d a b s

/-- a.lo × b.lo + a.hi × b.hi + c, exact and rounded once into FP32 (R144). NaN operands come in the order a.lo, a.hi,
b.lo, b.hi, c. -/
def dot2 (fm : Fmt) (rnd origin : Nat) (a b c : Nat) : Res :=
  let halves := [lo16 a, hi16 a, lo16 b, hi16 b]
  match fm.firstNan halves with
  | some x => { bits := fp32.nanFrom fm x, inv := fp32.isSnan c }
  | none =>
    if fp32.isNan c then { bits := fp32.quieten c, inv := fp32.isSnan c }
    else match mulVal (fm.decode (lo16 a)) (fm.decode (lo16 b)), mulVal (fm.decode (hi16 a)) (fm.decode (hi16 b)) with
      | some p, some q => fp32.sumTerms rnd 0x01 origin [p, q, termOf (fp32.decode c)]
      | _, _ => { bits := genNan 0x02 origin, inv := true }

/-- A VF16 dot product. -/
def vdot (fn : Nat) (fm : Fmt) (r : Run) (d a b : BitVec 7) (s : State) : Host.Outcome State Fault Refusal :=
  fpUnit (opVf3 12 fn 6 (modRND + modBSC) r d a b) d
    (fun t l => dot2 fm (rndOf r) (originOf r t) (fA a t l) (fB r b t l) (fC r t l)) s

/-- HDOT (R144). -/
def execHdot (r : Run) (d a b : BitVec 7) (s : State) : Host.Outcome State Fault Refusal := vdot 6 fp16 r d a b s

/-- BDOT (R144). -/
def execBdot (r : Run) (d a b : BitVec 7) (s : State) : Host.Outcome State Fault Refusal := vdot 7 bf16 r d a b s

/-! ### VCVT (R145) -/

/-- An integer converted to FP32 in a mode (R88). -/
def intToF32 (rnd : Nat) (x : Int) : Nat := fp32.signed (decide (x < 0)) (fp32.roundMag rnd (decide (x < 0)) x.natAbs 1 0)

/-- CVT.f32.s32 (R145). -/
def execCvtF32S32 (r : Run) (d a : BitVec 7) (s : State) : Host.Outcome State Fault Refusal :=
  fpUnit (opVf1 13 0 6 (some modRND) r d a) d (fun t l => Res.ok (intToF32 (rndOf r) (rdA a t l).toInt)) s

/-- CVT.f32.n32 (R145). -/
def execCvtF32N32 (r : Run) (d a : BitVec 7) (s : State) : Host.Outcome State Fault Refusal :=
  fpUnit (opVf1 13 1 6 (some modRND) r d a) d (fun t l => Res.ok (intToF32 (rndOf r) (rdA a t l).toNat)) s

/-- An FP32 value converted to an integer of a range. -/
def f32ToInt (rnd : Nat) (lo hi : Int) (a : Nat) : Res :=
  let x := fp32.toInt rnd lo hi a
  { bits := wrapTo 32 x.1, inv := x.2 }

/-- CVT.s32.f32 (R145). -/
def execCvtS32F32 (r : Run) (d a : BitVec 7) (s : State) : Host.Outcome State Fault Refusal :=
  fpUnit (opVf1 13 2 6 (some modRND) r d a) d (fun t l => f32ToInt (rndOf r) (-2 ^ 31) (2 ^ 31 - 1) (fA a t l)) s

/-- CVT.n32.f32 (R145). -/
def execCvtN32F32 (r : Run) (d a : BitVec 7) (s : State) : Host.Outcome State Fault Refusal :=
  fpUnit (opVf1 13 3 6 (some modRND) r d a) d (fun t l => f32ToInt (rndOf r) 0 (2 ^ 32 - 1) (fA a t l)) s

/-- An FP32 source narrowed: a signalling NaN is an event (R145). -/
def narrow (f : Fmt) (rnd : Nat) (a : Nat) : Res := { bits := f.from fp32 rnd a, inv := fp32.isSnan a }

/-- The checks of a conversion of two FP32 sources. -/
def opCvt2 (fn : Nat) (r : Run) (d a b : BitVec 7) : Op :=
  { Op.plain (wRRR 13 r d a b fn) r 6 [srcV a, srcV b, dstV d] with mods := some modRND }

/-- Two FP32 values converted into halves. -/
def cvt2 (f : Fmt) (rnd x y : Nat) : Res :=
  let p := narrow f rnd x
  let q := narrow f rnd y
  { bits := p.bits + q.bits * 2 ^ 16, inv := p.inv || q.inv }

/-- A conversion of two FP32 sources into halves. -/
def vcvt2 (fn : Nat) (f : Fmt) (r : Run) (d a b : BitVec 7) (s : State) : Host.Outcome State Fault Refusal :=
  fpUnit (opCvt2 fn r d a b) d (fun t l => cvt2 f (rndOf r) (fA a t l) (rdV t b.toNat l).toNat) s

/-- CVT.f16x2 (R145). -/
def execCvtF16x2 (r : Run) (d a b : BitVec 7) (s : State) : Host.Outcome State Fault Refusal := vcvt2 4 fp16 r d a b s

/-- CVT.bf16x2 (R145). -/
def execCvtBf16x2 (r : Run) (d a b : BitVec 7) (s : State) : Host.Outcome State Fault Refusal := vcvt2 5 bf16 r d a b s

/-- The checks of a conversion whose B field is a number below a limit. -/
def opCvtK (fn top : Nat) (mods : Option Nat) (r : Run) (d a k : BitVec 7) (dst : Use) : Op :=
  { Op.plain (wRRR 13 r d a k fn) r 6 [srcV a, dst] with mods := mods, lims := decide (k.toNat < top) }

/-- CVT.f32.f16 (R145). -/
def execCvtF32F16 (r : Run) (d a h : BitVec 7) (s : State) : Host.Outcome State Fault Refusal :=
  fpUnit (opCvtK 6 2 none r d a h (dstV d)) d
    (fun t l => Res.ok (fp32.from fp16 0 (fA a t l / 2 ^ (16 * h.toNat) % 2 ^ 16))) s

/-- CVT.f32.bf16 (R145). -/
def execCvtF32Bf16 (r : Run) (d a h : BitVec 7) (s : State) : Host.Outcome State Fault Refusal :=
  fpUnit (opCvtK 7 2 none r d a h (dstV d)) d
    (fun t l => Res.ok (fp32.from bf16 0 (fA a t l / 2 ^ (16 * h.toNat) % 2 ^ 16))) s

/-- A word with byte `k` replaced. -/
def putByte (x k b : Nat) : Nat := x % 2 ^ (8 * k) + b % 256 * 2 ^ (8 * k) + x / 2 ^ (8 * k + 8) * 2 ^ (8 * k + 8)

/-- Byte `k` of a word replaced by a narrowed FP32 value. -/
def cvt8 (f : Fmt) (rnd k old a : Nat) : Res :=
  let x := narrow f rnd a
  { bits := putByte old k x.bits, inv := x.inv }

/-- A narrowing conversion into byte `k` of v[D]. -/
def vcvt8 (fn : Nat) (f : Fmt) (r : Run) (d a k : BitVec 7) (s : State) : Host.Outcome State Fault Refusal :=
  fpUnit (opCvtK fn 4 (some modRND) r d a k (modV d)) d
    (fun t l => cvt8 f (rndOf r) k.toNat (rdV t d.toNat l).toNat (fA a t l)) s

/-- CVT.f8e4 (R145). -/
def execCvtF8e4 (r : Run) (d a k : BitVec 7) (s : State) : Host.Outcome State Fault Refusal := vcvt8 8 f8e4 r d a k s

/-- CVT.f8e5 (R145). -/
def execCvtF8e5 (r : Run) (d a k : BitVec 7) (s : State) : Host.Outcome State Fault Refusal := vcvt8 9 f8e5 r d a k s

/-- CVT.f32.f8 (R145). -/
def execCvtF32F8 (r : Run) (d a k : BitVec 7) (s : State) : Host.Outcome State Fault Refusal :=
  fpUnit (opCvtK 10 8 none r d a k (dstV d)) d
    (fun t l => Res.ok (fp32.from (if k.toNat < 4 then f8e4 else f8e5) 0 (fA a t l / 2 ^ (8 * (k.toNat % 4)) % 256))) s

/-- CVT.s8 (R145). -/
def execCvtS8 (r : Run) (d a k : BitVec 7) (s : State) : Host.Outcome State Fault Refusal :=
  laneUnit (opCvtK 13 4 none r d a k (modV d)) d
    (fun t l => BitVec.ofNat 32
      (putByte (rdV t d.toNat l).toNat k.toNat (wrapTo 8 (clampInt (rdA a t l).toInt (-128) 127)))) s

/-- CVT.s32.s8 (R145). -/
def execCvtS32S8 (r : Run) (d a k : BitVec 7) (s : State) : Host.Outcome State Fault Refusal :=
  laneUnit (opCvtK 14 4 none r d a k (dstV d)) d
    (fun t l => w32 (signedOf 8 (fA a t l / 2 ^ (8 * k.toNat)))) s

/-! ### PLANE and UNPLANE (R146) -/

/-- The checks of PLANE and UNPLANE: a wave of 32 or 64 lanes, P from 2 to 8. -/
def opPlane (fn : Nat) (r : Run) (d a : BitVec 7) (s : State) : Op :=
  { opVf1 13 fn 6 none r d a with lims := decide (3 ≤ s.wave.code), width := some (2, 8) }

/-- Whether every aligned 32-lane group that holds a quad of the part lies wholly inside it. -/
def wholeGroups (s : State) : Bool :=
  (List.range 2).all (fun g => let q := s.part.quads / 2 ^ (8 * g) % 256
    q == 0 || q == 255)

/-- The PLANE or UNPLANE of a group by lane (R146), or cause 0x06 with subcode 6. -/
def planeUnit (fn : Nat) (f : State → Nat → Nat → W32) (r : Run) (d a : BitVec 7) (s : State) :
    Host.Outcome State Fault Refusal :=
  unit (opPlane fn r d a s)
    (fun t => if wholeGroups t then
        done r (wrV 6 d.toNat (activeLanes t) (fun l => f t ((widthHint r).getD 8) l) t)
      else trapExm 0x06 6 r t) s

/-- The word of plane `k` of a group of 32 values: bit j is bit P - 1 - k of value j. -/
def planeWord (p k : Nat) (x : Nat → Int) : W32 :=
  BitVec.ofNat 32 ((List.range 32).foldl (fun m j => if (wrapTo p (x j)).testBit (p - 1 - k) then m + 2 ^ j else m) 0)

/-- The word that PLANE gives a lane for P planes. -/
def planeOf (a : BitVec 7) (t : State) (p l : Nat) : W32 :=
  let g := l / 32 * 32
  let x := fun j => clampInt (rdA a t (g + j)).toInt (-(2 ^ (p - 1) : Nat)) ((2 ^ (p - 1) : Nat) - 1)
  if l - g < p then planeWord p (l - g) x else 0#32

/-- The word that UNPLANE gives a lane for P planes. -/
def unplaneOf (a : BitVec 7) (t : State) (p l : Nat) : W32 :=
  let g := l / 32 * 32
  let y := (List.range p).foldl (fun m k => if (rdA a t (g + k)).getLsbD (l - g) then m + 2 ^ (p - 1 - k) else m) 0
  w32 (signedOf p y)

/-- PLANE (R146). -/
def execPlane (r : Run) (d a : BitVec 7) (s : State) : Host.Outcome State Fault Refusal :=
  planeUnit 11 (planeOf a) r d a s

/-- UNPLANE (R146). -/
def execUnplane (r : Run) (d a : BitVec 7) (s : State) : Host.Outcome State Fault Refusal :=
  planeUnit 12 (unplaneOf a) r d a s

end Sys2Proof.Machine
end

