-- ==== Sys2Proof/Machine/Parts.lean ====
section
/-! DEFINITION. Wave-wide instructions (R45), the exit of lanes (R36, R48), and the crew barriers that count quads (R49, R216,
R217). -/

namespace Sys2Proof.Machine

/-! ### Barriers (R49, R179, R217) -/

/-- The exited quads of a wave as crew quads (R270). -/
def waveExited (c : Crew) (w : Wave) : Nat := w.exitedQ * 2 ^ (w.widx * (widthOf c.code / 4))

/-- The exited quads of the crew in focus, one bit per crew quad. -/
def crewExited (s : State) : Nat :=
  (if s.wave.vbase = 0 then 0 else waveExited s.crew s.wave) + (s.waves.map (waveExited s.crew)).sum

/-- The bits of a crew quad mask. -/
def crewQuads (m : Nat) : List Nat := (List.range 512).filter (fun i => m.testBit i)

/-- A barrier word (R179). -/
def barWord (phase expect arrived : Nat) : W64 :=
  BitVec.ofNat 64 (phase % 2 ^ 16 * 2 ^ 48 + expect % 2 ^ 10 * 2 ^ 32 + arrived % 2 ^ 10 * 2 ^ 16)

def barPhase (c : Crew) (off : Nat) : Nat := scrNat c (off + 6) 2
def barExpect (c : Crew) (off : Nat) : Nat := scrNat c (off + 4) 2 % 2 ^ 10
def barArrived (c : Crew) (off : Nat) : Nat := scrNat c (off + 2) 2 % 2 ^ 10

/-- The bitmap of a barrier word replaced. -/
def setBitmap (off m : Nat) (c : Crew) : Crew := { c with bars := updIf (fun b => b.off == off) (fun b => { b with bitmap := m }) c.bars }

/-- A phase completes when ARRIVED reaches EXPECT (R217): PHASE rises, and the bitmap and ARRIVED start from the exited
quads. -/
def phaseCheck (off exited : Nat) (c : Crew) : Crew :=
  if barExpect c off ≤ barArrived c off then
    setBitmap off exited (scrWrite off
      (bytes64 (barWord (barPhase c off + 1) (barExpect c off) (crewQuads exited).length)) c)
  else c

/-- Crew quads recorded as arrived at a barrier word, each at most once per phase; then the phase check (R217). -/
def barArrive (off : Nat) (quads : List Nat) (exited : Nat) (c : Crew) : Crew :=
  let bm := ((c.bars.find? (fun b => b.off == off)).map (·.bitmap)).getD 0
  let fresh := quads.filter (fun q => !bm.testBit q)
  let bm' := fresh.foldl (fun m q => m + 2 ^ q) bm
  phaseCheck off exited (setBitmap off bm' (scrWrite off
    (bytes64 (barWord (barPhase c off) (barExpect c off) (barArrived c off + fresh.length))) c))

/-- A quad exits: it arrives at every barrier word (R217, R49). -/
def exitArrive (q exited : Nat) (c : Crew) : Crew :=
  c.bars.foldl (fun x b => if b.bitmap.testBit q then phaseCheck b.off exited x else barArrive b.off [q] exited x) c

/-! ### Wave-wide instructions (R45) -/

/-- A wave-wide instruction (R45) with width code `code`: it executes at once when its groups are the part's own or exited,
and traps in a handler where they are not; otherwise the part enters FUSEWAIT under the watchdog, and the fuse of parts that
cover their groups is evaluated when every unit of the cycle has issued (R52). -/
def waveWide (r : Run) (code : Nat) (f : State → State) (s : State) : State :=
  if covered s (widthOf code) s.part.quads s.part.quads then f s
  else if s.part.state = .trapped then trapExm 0x06 4 r s
  else { s with
    part := { s.part with
      state := .fusewait, waitAt := unitAddr r s, wcode := code, timer := some (now s + watchLimit (wctlOf s)), tlimit := 0,
      wait := .none },
    wave := { s.wave with unsettled := some (now s) } }

/-! ### Exits (R36, R48) -/

/-- Lanes of the part in focus exit (R36, R48): their bits leave exm and the stack, quads whose lanes have all exited
leave the part and arrive at every barrier, and a part without quads ceases to exist. Fuses that the exit completes are
evaluated when every unit of the cycle has issued (R52). -/
def exitLanes (ls : W64) (s : State) : State :=
  let ex := s.wave.exited ||| ls
  let gone := (List.range 16).filter (fun q => s.part.quads.testBit q && (quadLanes (2 ^ q) &&& ex) == quadLanes (2 ^ q))
  let p : Part := { s.part with
    exm := s.part.exm &&& ~~~ ls, stack := s.part.stack.map (Entry.restrict (~~~ ls)),
    quads := gone.foldl (fun m q => m - 2 ^ q) s.part.quads }
  let w : Wave := { s.wave with exited := ex, exitedQ := gone.foldl (fun m q => m ||| 2 ^ q) s.wave.exitedQ }
  let t : State := { s with part := p, wave := w }
  let base := s.wave.widx * (widthOf s.crew.code / 4)
  let c := gone.foldl (fun c q => exitArrive (base + q) (crewExited t) c) t.crew
  let u : State := { t with crew := c, wave := { w with unsettled := some (now s) } }
  if p.quads = 0 then { u with part := Part.none } else { u with part := exitRule (now s) (wctlOf s) 40 p }

end Sys2Proof.Machine
end

