-- ==== Sys2Proof/Machine/Branch.lean ====
section
/-! DEFINITION. Branches: BRA (R58, R105, R113) and BDIV (R39, R53). -/

namespace Sys2Proof.Machine

/-- A scalar register named by the REG field (R57). -/
def srcS4 (n : BitVec 4) : Use := { reg := .s n.toNat, cnt := 1, align := 1, rd := true, wr := false }

/-- A mask register named by the REG field (R57). -/
def srcM4 (n : BitVec 4) : Use := { reg := .m n.toNat, cnt := 1, align := 1, rd := true, wr := false }

/-- The target of a BR word: its own address plus four times the offset (R58). -/
def branchTarget (r : Run) (o : BitVec 18) (s : State) : W64 := unitAddr r s + (o.signExtend 64 <<< 2)

/-- The end of a branch: at the target when it is taken, else after the unit, no earlier than max(2, S + 1) cycles later
(R105). -/
def branchTo (r : Run) (o : BitVec 18) (taken : Bool) (s : State) : State :=
  goto r 2 (if taken then branchTarget r o s else unitNext r s) s

/-- B (R113). -/
def execB (r : Run) (o : BitVec 18) (s : State) : Host.Outcome State Fault Refusal :=
  unit (Op.plain (wBR r 0 0#4 o) r 0 []) (fun t => branchTo r o true t) s

/-- CALL (R113): lk := P + 4. -/
def execCall (r : Run) (o : BitVec 18) (s : State) : Host.Outcome State Fault Refusal :=
  unit (Op.plain (wBR r 1 0#4 o) r 0 [dstS 62#7]) (fun t => branchTo r o true (wrS 0 62 (unitAddr r t + 4#64) t)) s

/-- BZ (R113). -/
def execBz (r : Run) (n : BitVec 4) (o : BitVec 18) (s : State) : Host.Outcome State Fault Refusal :=
  unit (Op.plain (wBR r 2 n o) r 0 [srcS4 n]) (fun t => branchTo r o (rdS t n.toNat == 0#64) t) s

/-- BNZ (R113). -/
def execBnz (r : Run) (n : BitVec 4) (o : BitVec 18) (s : State) : Host.Outcome State Fault Refusal :=
  unit (Op.plain (wBR r 3 n o) r 0 [srcS4 n]) (fun t => branchTo r o (rdS t n.toNat != 0#64) t) s

/-- BNEG (R113). -/
def execBneg (r : Run) (n : BitVec 4) (o : BitVec 18) (s : State) : Host.Outcome State Fault Refusal :=
  unit (Op.plain (wBR r 4 n o) r 0 [srcS4 n]) (fun t => branchTo r o ((rdS t n.toNat).getLsbD 63) t) s

/-- BANY (R113). -/
def execBany (r : Run) (n : BitVec 4) (o : BitVec 18) (s : State) : Host.Outcome State Fault Refusal :=
  unit (Op.plain (wBR r 5 n o) r 0 [srcM4 n]) (fun t => branchTo r o (rdM t n.toNat &&& t.part.exm != 0#64) t) s

/-- BALL (R113). -/
def execBall (r : Run) (n : BitVec 4) (o : BitVec 18) (s : State) : Host.Outcome State Fault Refusal :=
  unit (Op.plain (wBR r 6 n o) r 0 [srcM4 n]) (fun t => branchTo r o (t.part.exm &&& ~~~ rdM t n.toNat == 0#64) t) s

/-- An entry on top of a part's stack. -/
def pushEntry (rpc lanes : W64) (p : Part) : Part :=
  { p with stack := { rpc := rpc, lanes := lanes, outer := p.exm, d := false, jj := none, jto := 0, hints := 0 } :: p.stack }

/-- A divergent branch of the part in focus (R39): uniform, split along quads, or masked. -/
def divide (r : Run) (taken : W64) (target : W64) (s : State) : State :=
  let p := s.part
  let next := unitNext r s
  let fall := p.exm &&& ~~~ taken
  if p.stack.length = 16 then trapExm 0x06 1 r s
  else if taken = 0#64 ∨ fall = 0#64 then
    goto r 2 (if taken = 0#64 then next else target) { s with part := pushEntry next 0#64 p }
  else if quadUniform p taken && !p.nosplit && p.state != .trapped && freeSet s then
    let fq := (List.range 16).foldl (fun m q => if p.quads.testBit q && goesFall s taken q then m + 2 ^ q else m) 0
    let tq := p.quads - fq
    let tkeeps := decide (lowBit tq ≤ lowBit fq)
    let set_ := max 3 (stallOf r + 1) + (lastScalar p - now s)
    let keep := max 2 (stallOf r + 1)
    let u := goto r 2 next s
    let mk := fun (q : Nat) (keeps : Bool) (pc : W64) =>
      let x := pushEntry next 0#64 (subPart (cancelTimers u.part) q keeps)
      { x with pc := pc, ready := now s + (if keeps then keep else set_) }
    if tkeeps then splitInto (mk tq true target) (mk fq false next) u
    else splitInto (mk fq true next) (mk tq false target) u
  else
    let q := pushEntry next fall p
    goto r 2 target { s with part := { q with exm := taken } }

/-- BDIV (R39). -/
def execBdiv (r : Run) (n : BitVec 4) (o : BitVec 18) (s : State) : Host.Outcome State Fault Refusal :=
  unit (Op.plain (wBR r 7 n o) r 0 [srcM4 n])
    (fun t => divide r (t.part.exm &&& rdM t n.toNat) (branchTarget r o t) t) s

end Sys2Proof.Machine
end

