-- ==== Sys2Proof/Machine/Ctl.lean ====
section
/-! DEFINITION. Part control: CTL (R114 to R118), JOIN (R41 to R43), FUSE (R45) and the vector register extension
(R16). -/

namespace Sys2Proof.Machine

/-- A CTL word. -/
def opCtl (fn : Nat) (r : Run) (d a : BitVec 7) (lims : Bool) (uses : List Use) : Op :=
  { Op.plain (wRRR 2 r d a 0#7 fn) r 0 uses with lims := lims }

/-- The JOINTO value of a JOIN plus 1, or 0 without the hint (R42). -/
def jointo (r : Run) : Nat := match payload r 5 with
  | some t => t + 1
  | none => 0

/-- The step that a JOIN takes on the stack, and then its fuse stage (R41, R53). -/
def joinAt (r : Run) (j : Nat) (s : State) : State :=
  let a := unitAddr r s
  let jto := jointo r
  let slow := now s + max 2 (stallOf r + 1)
  let once := now s + (stallOf r + 1)
  let fin := fun (t : State) =>
    { t with free := s.free + 1, part := { t.part with issued := s.part.issued + 1, fresh := false, relDone := false } }
  match s.part.stack with
  | [] => arriveJoin j a jto slow once (fin s)
  | e :: rest =>
    if e.d = false ∧ e.lanes ≠ 0#64 then
      goto r 2 e.rpc { s with part := { s.part with
        stack := { e with d := true, jj := some (j, a), jto := jto, hints := r.hints.length } :: rest, exm := e.lanes } }
    else if e.d = true ∧ (e.jj.map (·.1)).any (fun k => k != j) = true then trapExm 0x06 2 r s
    else arriveJoin j a jto slow once (fin { s with part := { s.part with exm := e.outer, stack := rest } })

/-- The checks of JOIN: a number below 16, and it takes JOINTO. -/
def opJoin (r : Run) (j : BitVec 7) : Op := { opCtl 0 r j 0#7 (decide (j.toNat < 16)) [] with join := true }

/-- JOIN (R41). -/
def execJoin (r : Run) (j : BitVec 7) (s : State) : Host.Outcome State Fault Refusal :=
  unit (opJoin r j) (fun t => joinAt r j.toNat t) s

/-- FUSE (R45): a wave-wide instruction with no other effect. -/
def execFuse (r : Run) (w : BitVec 7) (s : State) : Host.Outcome State Fault Refusal :=
  unit (opCtl 1 r w 0#7 (decide (w.toNat ≤ 4) && decide (w.toNat ≤ s.wave.code)) [])
    (fun t => waveWide r w.toNat (done r) t) s

/-- SPLITCTL (R114). -/
def execSplitctl (r : Run) (f : BitVec 7) (s : State) : Host.Outcome State Fault Refusal :=
  unit (opCtl 2 r f 0#7 (decide (f.toNat < 2)) [])
    (fun t => done r { t with part := { t.part with nosplit := f.toNat == 1 } }) s

/-- The wait for the part's older stores to be accepted (R115, R213): a fault among them is taken first, unless the part
is in its handler, where a faulted store counts as accepted (R164). -/
def drainBy (wait : State → State) (r : Run) (f : State → State) (s : State) : State :=
  let t := reportAll s
  if t.part.fault.isSome ∧ t.part.state ≠ .trapped then storeTrap r t
  else if (ownStores t).isEmpty then f t
  else wait t

/-- That wait inside a unit. A fence and a barrier arrival wait at their boundary (R340). -/
def drained (r : Run) (f : State → State) (s : State) : State := drainBy holdIn r f s

/-- The active lanes exit at the end of a unit (R36, R48); a lane of an invocation commits with no result of its own
(R319). -/
def leave (r : Run) (s : State) : State :=
  if s.part.exm = 0#64 then done r s
  else exitLanes s.part.exm (done r (commitLanes (fun _ => commitNone) s.part.exm s))

/-- EXIT (R115). -/
def execExit (r : Run) (s : State) : Host.Outcome State Fault Refusal :=
  unit (opCtl 3 r 0#7 0#7 true []) (drained r (leave r)) s

/-- A jump to an address in a register; a target that is not a multiple of 4 is misaligned (R59). -/
def jumpTo (r : Run) (target : W64) (s : State) : State :=
  if target &&& 3#64 ≠ 0#64 then misaligned 4 target r s else goto r 2 target s

/-- RET (R114). -/
def execRet (r : Run) (s : State) : Host.Outcome State Fault Refusal :=
  unit (opCtl 4 r 0#7 0#7 true [srcS 62#7]) (fun t => jumpTo r (rdS t 62) t) s

/-- JR (R114). -/
def execJr (r : Run) (a : BitVec 7) (s : State) : Host.Outcome State Fault Refusal :=
  unit (opCtl 5 r 0#7 a true [srcS a]) (fun t => jumpTo r (sreg t a) t) s

/-- Registers per lane in use in the bank of a quad position of the wave's sequencer (R14, R15). -/
def bankUse (s : State) (pos : Nat) : Nat :=
  let of_ := fun (c : Crew) => if c.core = s.crew.core ∧ c.cond = .resident then
      (c.waves.map (fun w => if w.seqn = s.wave.seqn ∧ w.qpos ≤ pos ∧ pos < w.qpos + widthOf w.code / 4 ∧ w.parts ≠ []
        then w.vcur else 0)).sum else 0
  of_ (packCrew s) + (s.crews.map of_).sum

/-- Whether `n` further registers per lane are free in every bank of the wave (R16). -/
def bankRoom (s : State) (n : Nat) : Bool :=
  (List.range (widthOf s.wave.code / 4)).all (fun i => decide (bankUse s (s.wave.qpos + i) + n ≤ 1024))

/-- Registers `lo` to `hi - 1` of a wave set to 0 in every lane. -/
def clearRegs (lo hi : Nat) (v : Cells W32) : Cells W32 := v.filter (fun x => !(decide (64 * lo ≤ x.1 ∧ x.1 < 64 * hi)))

/-- The limits of VXOPEN (R16, R114): E a multiple of 8 above B and at most 128, with no extension open. -/
def vxopenOk (e : BitVec 7) (s : State) : Bool :=
  decide (2 ≤ e.toNat ∧ e.toNat ≤ 16) && decide (s.wave.vbase < 8 * e.toNat) && s.wave.vcur == s.wave.vbase

/-- VXOPEN (R16): waits for free space in every bank of the wave, then raises C to E; the new registers are 0. -/
def execVxopen (r : Run) (e : BitVec 7) (s : State) : Host.Outcome State Fault Refusal :=
  unit (opCtl 6 r e 0#7 (vxopenOk e s) [])
    (fun t => waveWide r t.wave.code (fun u =>
      if bankRoom u (8 * e.toNat - u.wave.vbase) then
        done r { u with wave := { u.wave with
          vcur := 8 * e.toNat, v := clearRegs u.wave.vbase (8 * e.toNat) u.wave.v } }
      else hold u) t) s

/-- VXCLOSE (R16): sets C back to B; the values above are discarded. -/
def execVxclose (r : Run) (s : State) : Host.Outcome State Fault Refusal :=
  unit (opCtl 7 r 0#7 0#7 true [])
    (fun t => waveWide r t.wave.code (fun u =>
      done r { u with wave := { u.wave with
        vcur := u.wave.vbase, v := clearRegs u.wave.vbase u.wave.vcur u.wave.v } }) t) s

/-- EXMGET (R114). -/
def execExmget (r : Run) (d : BitVec 7) (s : State) : Host.Outcome State Fault Refusal :=
  unit (opCtl 8 r d 0#7 true [dstS d]) (fun t => done r (wrS 0 d.toNat t.part.exm t)) s

/-- EXMSET (R116). -/
def execExmset (r : Run) (a : BitVec 7) (s : State) : Host.Outcome State Fault Refusal :=
  unit (opCtl 9 r 0#7 a true [srcS a]) (fun t => done r (setExm (sreg t a &&& allowed t) t)) s

/-- MKFF (R117). -/
def execMkff (r : Run) (d : BitVec 7) (s : State) : Host.Outcome State Fault Refusal :=
  unit (opCtl 10 r d 0#7 true [dstM d])
    (fun t => done r (wrM 0 d.toNat (lanesOf (partLanes t)) (fun l => lowLane t.part.exm == some l) t)) s

/-- YIELD (R118): issues nothing in the next cycle, and ranks below every other ready part for one pick. -/
def execYield (r : Run) (s : State) : Host.Outcome State Fault Refusal :=
  unit (opCtl 11 r 0#7 0#7 true [])
    (fun t => let u := goto r 2 (unitNext r t) t
      { u with part := { u.part with yielded := true } }) s

end Sys2Proof.Machine
end

