-- ==== Sys2Proof/Machine/Payload.lean ====
section
/-! DEFINITION. What a copy moves: its payload byte by byte, from its captured operands (R225 to R231), the lines it
writes, and the engine ownership of those lines (R233, R292). -/

namespace Sys2Proof.Machine

/-! ### The captured operands -/

/-- A place of a copy: a scratchpad offset, or a generic address. -/
inductive CLoc where
  | scr (off : Nat)
  | mem (addr : Nat)
  deriving DecidableEq, Repr

def Copy.hmode (c : Copy) : Nat := c.ctl / 2 ^ 16 % 4
def Copy.opx (c : Copy) : Nat := c.ctl % 16
def Copy.hasCw (c : Copy) : Bool := c.ctl / 2 ^ 18 % 2 == 1
def Copy.word (c : Copy) (i : Nat) : W64 := word64 c.desc i

def getBuf (c : Crew) (n : Nat) : Buf := cget Buf.reset c.bufs n

def setBuf (c : Crew) (n : Nat) (b : Buf) : Crew := { c with bufs := cset Buf.reset c.bufs n b }

/-- The OFFSET of the region of the copy's handle. -/
def Copy.region (s : State) (c : Copy) : Nat := (getBuf s.crew (c.hnd.getD 0)).off

/-- An address of a copy's side: an offset into its region, or a global or vault address. -/
def Copy.side (s : State) (c : Copy) (region : Bool) (a : Nat) : CLoc :=
  if region then .scr (c.region s + a) else .mem (a % 2 ^ 64)

/-! ### CPYT (R228, R229) -/

/-- The box of a CPYT descriptor. -/
structure Box where
  dir   : Bool
  esz   : Nat
  hdl   : Nat
  other : Nat
  org   : List Int
  ext   : List Nat
  deriving DecidableEq, Repr

def Copy.box (c : Copy) : Box :=
  { dir := (c.word 0).getLsbD 16, esz := 2 ^ bfield (c.word 0) 13 12, hdl := bfield (c.word 0) 11 0,
    other := (c.word 1).toNat,
    org := [signedOf 32 (bfield (c.word 2) 31 0), signedOf 32 (bfield (c.word 2) 63 32),
            signedOf 32 (bfield (c.word 3) 31 0), signedOf 32 (bfield (c.word 3) 63 32)],
    ext := (List.range 4).map (fun k => bfield (c.word 4) (16 * k + 15) (16 * k)) }

/-- The number of box elements. -/
def Box.count (b : Box) : Nat := b.ext.foldl (· * ·) 1

/-- The handle that a descriptor names, when it is live. -/
def handleOf (s : State) (n : Nat) : Option Handle := (getCtx s s.crew.ctx).bind (fun c => cget none c.handles n)

/-- Whether a CPYT descriptor is invalid under a handle mode (R228). -/
def badBox (s : State) (c : Copy) : Bool :=
  let b := c.box
  (c.word 0 &&& ~~~ 0x0000000000013FFF#64) != 0#64 || c.word 5 != 0#64 || c.word 6 != 0#64 || c.word 7 != 0#64 ||
  bfield (c.word 0) 13 12 == 3 || b.ext.any (· == 0) || decide (2 ^ 24 < b.esz * b.count) ||
  (b.dir && c.hmode == 1) || (!b.dir && c.hmode == 2) ||
  match handleOf s b.hdl with
  | none => true
  | some h => 2 ^ h.esz != b.esz || (List.range 4).any (fun k =>
      decide (h.ndim ≤ k) && (b.org[k]?.getD 0 != 0 || b.ext[k]?.getD 1 != 1))

/-- The coordinates of box element `j` (R229). -/
def Box.coords (b : Box) (j : Nat) : List Int :=
  let e := fun (k : Nat) => b.ext[k]?.getD 1
  let i := [j % e 0, j / e 0 % e 1, j / (e 0 * e 1) % e 2, j / (e 0 * e 1 * e 2)]
  List.zipWith (fun (x : Nat) (o : Int) => (x : Int) + o) i b.org

/-- The virtual address of box element `j` in its tensor; none outside the tensor's extents (R229, R392). -/
def Box.elem (b : Box) (h : Handle) (j : Nat) : Option Nat :=
  let d := fun (k : Nat) => (h.dims[k]?).getD 1
  let co := b.coords j
  let inside := (List.range 4).all (fun k => decide (0 ≤ (co[k]?).getD 0 ∧ (co[k]?).getD 0 < (d k : Int)))
  let at_ := fun (k : Nat) => ((co[k]?).getD 0).toNat
  if inside then some (h.base + b.esz * (at_ 0 + d 0 * (at_ 1 + d 1 * (at_ 2 + d 2 * at_ 3)))) else none

/-- Byte `i` of box element `j` on the tensor side. -/
def tensorByte (s : State) (b : Box) (j i : Nat) : Option CLoc :=
  (handleOf s b.hdl).bind (fun h => (b.elem h j).map (fun a => .mem (a + i)))

/-! ### CPYR (R230, R231) -/

def Copy.count (c : Copy) : Nat := bfield (c.word 2) 16 0

/-- Whether a reduce-copy is ordered by tickets. -/
def Copy.ordered (c : Copy) : Bool := c.fn == 2 && 8 ≤ c.opx

/-- Whether a CPYR descriptor is invalid (R230). -/
def badReduce (c : Copy) : Bool :=
  decide (bfield (c.word 0) 1 0 ≠ 0) || decide (bfield (c.word 1) 1 0 ≠ 0) || decide (bfield (c.word 2) 63 17 ≠ 0) ||
  decide (c.count = 0 ∨ 65536 < c.count) || c.word 5 != 0#64 || c.word 6 != 0#64 || c.word 7 != 0#64 ||
  (if c.ordered then decide (bfield (c.word 3) 2 0 ≠ 0 ∨ bfield (c.word 3) 63 56 ≠ 0)
    else c.word 3 != 0#64 || c.word 4 != 0#64)

/-- Whether the descriptor that a copy captured is invalid (R236, subcode 3). -/
def Copy.badDesc (s : State) (c : Copy) : Bool :=
  match c.fn with
  | 1 => badBox s c
  | 2 => badReduce c
  | _ => false

/-! ### The payload -/

/-- The planes of a CPYT, 0 without conversion. -/
def Copy.planes (c : Copy) : Nat := if c.fn = 1 then c.opx else 0

/-- The number of payload bytes; none of an invalid descriptor is moved. -/
def Copy.len (s : State) (c : Copy) : Nat :=
  if c.badDesc s then 0
  else match c.fn with
    | 1 => if c.planes = 0 then c.box.esz * c.box.count else 4 * c.planes * ceilDiv c.box.count 32
    | 2 => 4 * c.count
    | _ => c.lanes.length * c.size

/-- The source and destination of a lane of a CPYL, or of an ACPY, which is one lane. -/
def Copy.lane (c : Copy) (n : Nat) : W64 × W64 := (c.lanes[n / c.size]?.map (·.2)).getD (0#64, 0#64)

/-- Where payload byte `n` goes; none where it is not written (R229). -/
def Copy.dst (s : State) (c : Copy) (n : Nat) : Option CLoc :=
  match c.fn with
  | 1 =>
    let b := c.box
    if b.dir then tensorByte s b (n / b.esz) (n % b.esz) else some (c.side s (c.hmode != 0) (b.other + n))
  | 2 => some (.mem (((c.word 0).toNat + n) % 2 ^ 64))
  | _ => some (c.side s (c.hmode == 1) ((c.lane n).2.toNat + n % c.size))

/-- The source bytes that payload byte `n` is formed from. -/
def Copy.srcs (s : State) (c : Copy) (n : Nat) : List CLoc :=
  match c.fn with
  | 1 =>
    let b := c.box
    if b.dir then [c.side s (c.hmode != 0) (b.other + n)]
    else if c.planes = 0 then (tensorByte s b (n / b.esz) (n % b.esz)).toList
    else
      let j0 := 32 * (n / (4 * c.planes)) + 8 * (n % 4)
      (List.range 8).flatMap (fun i => if j0 + i < b.count then
        (List.range b.esz).flatMap (fun k => (tensorByte s b (j0 + i) k).toList) else [])
  | 2 => [c.side s (c.hmode == 2) ((c.word 1).toNat + n)]
  | _ => [c.side s (c.hmode == 2) ((c.lane n).1.toNat + n % c.size)]

/-- The place of one byte of a copy in memory, checked against the grants of its launch (R388); the allotment is checked at the
home (R289). -/
def copyPlace (rd w : Bool) (a : Nat) (s : State) : Except Reason Place :=
  match steer s none (BitVec.ofNat 64 a) 1 with
  | .glob va _ => resolveG s va 1 false rd w
  | .vault v o => .ok { pa := vaultPa v o, key := 0, tso := false, vault := true }
  | _ => .error 1

/-- An access of a copy to a line, while the copy needs its answer. -/
def copyAccess (s : State) (ord line : Nat) (p : AccOp → Bool) : Option Access :=
  s.net.find? (fun a => a.crew == s.crew.cid && a.use == .copy ord && a.line == line && p a.op)

def AccOp.isRead : AccOp → Bool
  | .read _ => true
  | _ => false

/-- A byte that a copy reads: in the scratchpad, or as its home answered (R286). -/
def copyByte (s : State) (ord : Nat) (l : CLoc) : Byte :=
  match l with
  | .scr o => scrByte s.crew o
  | .mem a => match copyPlace true false a s with
    | .ok p => match (copyAccess s ord (p.pa / 128) AccOp.isRead).bind (·.ans) with
      | some r => (cget 0#64 r.bytes (p.pa % 128)).setWidth 8
      | none => 0#8
    | .error _ => 0#8

/-- Bit-plane byte `n` of a CPYT with planes (R94, R229): values clamped to P bits, the most significant plane first. -/
def planeByte (s : State) (c : Copy) (n : Nat) : Byte :=
  let b := c.box
  let p := c.planes
  let j0 := 32 * (n / (4 * p)) + 8 * (n % 4)
  let plane := n % (4 * p) / 4
  let value := fun (j : Nat) =>
    let raw := leNat ((List.range b.esz).map (fun k => match tensorByte s b j k with
      | some l => copyByte s c.ord l
      | none => 0#8))
    wrapTo p (clampInt (signedOf (8 * b.esz) raw) (-(2 ^ (p - 1))) (2 ^ (p - 1) - 1))
  BitVec.ofNat 8 ((List.range 8).foldl (fun m i =>
    if j0 + i < b.count ∧ (value (j0 + i)).testBit (p - 1 - plane) = true then m + 2 ^ i else m) 0)

/-- The value of payload byte `n`, before the operation of a reduce-copy. -/
def Copy.val (s : State) (c : Copy) (n : Nat) : Byte :=
  if c.planes ≠ 0 then planeByte s c n else ((c.srcs s n).head?.map (copyByte s c.ord)).getD 0#8

/-! ### Lines -/

/-- The rights that a destination needs: the element step of a reduce-copy needs both (R388). -/
def Copy.dstRd (c : Copy) : Bool := c.fn == 2

/-- The line that a place lies in, scratchpad lines numbered from 2^60 up; none where it is not reached. -/
def lineOf (s : State) (rd w : Bool) (l : CLoc) : Option Nat :=
  match l with
  | .scr o => some (2 ^ 60 + o / 128)
  | .mem a => match copyPlace rd w a s with
    | .ok p => some (p.pa / 128)
    | .error _ => none

/-- The line that payload byte `n` is written in. -/
def Copy.dstLine (s : State) (c : Copy) (n : Nat) : Option Nat := (c.dst s n).bind (lineOf s c.dstRd true)

/-- The destination lines of a copy, in its own order. -/
def Copy.dstLines (s : State) (c : Copy) : List Nat := ((List.range (c.len s)).filterMap (c.dstLine s)).eraseDups

/-- The source lines of the payload bytes of a destination line. -/
def Copy.srcLines (s : State) (c : Copy) (line : Nat) : List Nat :=
  (((List.range (c.len s)).filter (fun n => c.dstLine s n == some line)).flatMap (fun n =>
    (c.srcs s n).filterMap (lineOf s true false))).eraseDups

/-- The destination lines not yet written whole. -/
def Copy.todo (s : State) (c : Copy) : List Nat := (c.dstLines s).filter (fun l => !c.lines.contains l)

/-! ### Errors (R236) -/

/-- The byte of a copy that fails: why, its address, AKIND and REASON (R391). -/
structure CopyBad where
  why    : CopyFault
  addr   : Nat
  akind  : Nat
  reason : Nat
  deriving DecidableEq, Repr

/-- Why a place of a copy is not reached. -/
def badLoc (s : State) (akind : Nat) (rd w : Bool) (l : CLoc) : Option CopyBad :=
  match l with
  | .scr _ => none
  | .mem a => match copyPlace rd w a s with
    | .ok _ => none
    | .error r => some { why := if r = 3 then .outsideGrants else .translation, addr := a, akind := akind, reason := r }

/-- The errors of payload byte `n`. -/
def Copy.badByte (s : State) (c : Copy) (n : Nat) : List CopyBad :=
  (c.srcs s n).filterMap (badLoc s 4 true false) ++ (c.dst s n).toList.filterMap (badLoc s 5 c.dstRd true)

/-- The errors that a copy has still to meet. -/
def Copy.bads (s : State) (c : Copy) : List CopyBad :=
  if c.badDesc s then [{ why := .descriptor, addr := 0, akind := 0, reason := 0 }]
  else
    (if c.ordered then (List.range 8).filterMap (fun i => badLoc s 5 true true (.mem ((c.word 3).toNat + i))) else []) ++
    ((List.range (c.len s)).filter (fun n => match c.dstLine s n with
      | some l => !c.lines.contains l
      | none => true)).flatMap (c.badByte s)

/-! ### Ownership (R233, R292) -/

/-- A copy takes the destination lines that it has not written. -/
def ownLines (c : Copy) (s : State) : State :=
  (c.todo s).foldl (fun t l =>
    if l < 2 ^ 60 then
      let x := homeLine t l
      setHomeLine t l { x with owners := x.owners ++ [(t.crew.cid, c.ord)] }
    else t) s

/-- A copy releases one line. -/
def disownLine (cid ord line : Nat) (s : State) : State :=
  let x := homeLine s line
  if x.owners = [] then s else setHomeLine s line { x with owners := x.owners.filter (fun o => o != (cid, ord)) }

/-- Copies in flight on a core (R188). -/
def copiesOn (s : State) (core : Nat) : Nat :=
  let of_ := fun (c : Crew) => if c.core = core ∧ c.cond = .resident then (c.copies.filter (fun x => !x.squash)).length else 0
  of_ s.crew + (s.crews.map of_).sum

/-- Squashed copies that wait on a core for their replay. -/
def squashedOn (s : State) (core : Nat) : Nat :=
  let of_ := fun (c : Crew) => if c.core = core ∧ c.cond = .resident then (c.copies.filter (·.squash)).length else 0
  of_ s.crew + (s.crews.map of_).sum

/-- A squashed copy of the crew in focus replayed: it takes its remaining lines again (R237). -/
def replayCopy (c : Copy) (s : State) : State :=
  let t := ownLines c s
  { t with crew := { t.crew with copies := updIf (fun (x : Copy) => x.ord == c.ord) (fun (x : Copy) => { x with squash := false }) t.crew.copies } }

/-- The squashed copies of the crew in focus replayed, as far as the core has a place for them (R188). -/
def replayCopies (s : State) : State :=
  (s.crew.copies.filter (·.squash)).foldl (fun t c => if copiesOn t t.crew.core < 64 then replayCopy c t else t) s

/-- The most destination lines that a copy has: 16 MiB from the middle of a line on (R228). -/
def copyLineLimit : Nat := 131073

/-- Copies of the crew in focus squashed (R237): their unwritten lines are released. -/
def squashCopies (p : Copy → Bool) (s : State) : State :=
  let gone := s.crew.copies.filter (fun c => p c && !c.squash)
  let t := gone.foldl (fun t c => releaseLines t.crew.cid (some c.ord) t) s
  { t with crew := { t.crew with copies := updIf p (fun (x : Copy) => { x with squash := true }) t.crew.copies } }

/-! ### Writes of cells at a home -/

/-- Consecutive cells as runs of bytes. -/
def runsOf : Cells Byte → List (Nat × List Byte)
  | [] => []
  | (k, v) :: t =>
    match runsOf t with
    | (k', bs) :: r => if k' = k + 1 then (k, v :: bs) :: r else (k, [v]) :: (k', bs) :: r
    | [] => [(k, [v])]

/-- Bytes of one line written at its home, by offset; the answer is the completion time. -/
def homeCells (ctx k line : Nat) (m : Cells Byte) (s : State) : State × Nat :=
  (runsOf m).foldl (fun st x =>
    let r := homeWrite ctx k (128 * line + x.1) x.2 st.1
    (r.1, max st.2 r.2)) (s, 0)

end Sys2Proof.Machine
end

