-- ==== Sys2Proof/Machine/System.lean ====
section
/-! DEFINITION. System instructions: SYS (R119 to R129), with the system registers (R23 to R28) and the part table
(R37). -/

namespace Sys2Proof.Machine

/-- A SYS word with its register fields and its other limits. -/
def opSys (fn : Nat) (r : Run) (d a b : BitVec 7) (lims : Bool) (uses : List Use) : Op :=
  { Op.plain (wRRR 0 r d a b fn) r 0 uses with lims := lims }

/-- NOP (R119). -/
def execNop (r : Run) (s : State) : Host.Outcome State Fault Refusal :=
  unit (opSys 0 r 1#7 0#7 0#7 true []) (done r) s

/-- TRAP (R120): cause 0x09 with n. -/
def execTrap (r : Run) (n : BitVec 7) (s : State) : Host.Outcome State Fault Refusal :=
  unit (opSys 1 r 0#7 n 0#7 true []) (trapExm 0x09 n.toNat r) s

/-- BRK (R120): cause 0x08 with n, or a debugger stop that carries n, with the saved PC after the BRK (R421). -/
def execBrk (r : Run) (n : BitVec 7) (s : State) : Host.Outcome State Fault Refusal :=
  unit (opSys 2 r 0#7 n 0#7 true [])
    (fun t => if debugged t then stopCrew 1 n.toNat 0#64 (some (unitNext r t)) t else trapExm 0x08 n.toNat r t) s

/-- STOP (R120): cause 0x08 with 0x80, or a debugger stop. -/
def execStop (r : Run) (s : State) : Host.Outcome State Fault Refusal :=
  unit (opSys 10 r 0#7 0#7 0#7 true [])
    (fun t => if debugged t then stopCrew 2 0 0#64 (some (unitNext r t)) t else trapExm 0x08 0x80 r t) s

/-- XRET (R121, R165). In a part that is not in TRAPPED it is an illegal instruction at step 3. -/
def execXret (r : Run) (s : State) : Host.Outcome State Fault Refusal :=
  unit (opSys 3 r 0#7 0#7 0#7 (s.part.state == .trapped) [])
    (fun t => let u := returnFromTrap t
      let n := max 3 (stallOf r + 1)
      -- Parts that a DUMPC of this part halted go back to their saved states, and its squashed copies are
      -- replayed (R129, R424).
      let v := match u.crew.dump with
        | some d => if d.wave = u.wave.widx ∧ u.part.quads.testBit d.part = true then
            replayCopies { mapParts (fun w p => resumePart (now t) w p) u with crew := { u.crew with dump := none } }
          else u
        | none => u
      { v with part := { v.part with ready := now t + n } }) s

/-! ### System registers (R23 to R28, R122) -/

/-- The system register number of MVFS and MVTS (R122). -/
def sysNum (r : Run) (n : BitVec 7) : Nat :=
  match payload r 0 with
  | some p => p % 4096
  | none => n.toNat

/-- WINFO (R26). -/
def winfo (s : State) : W64 :=
  BitVec.ofNat 64 (s.wave.code + s.wave.vbase / 8 * 2 ^ 11 + s.wave.vcur / 8 * 2 ^ 16 + s.wave.widx * 2 ^ 21)

/-- A system register below 0x20 as MVFS reads it (R23). -/
def sysRead (s : State) (n : Nat) : W64 :=
  match n with
  | 0x00 => wctlOf s
  | 0x01 => tvecOf s
  | 0x02 => s.part.xpc
  | 0x03 => s.part.xcause
  | 0x04 => s.part.xlanes
  | 0x05 => s.part.xpart
  | 0x06 => s.part.xinfo
  | 0x07 => s.part.xaddr
  | 0x08 => winfo s
  | 0x09 => s.crew.coords.1
  | 0x0A => s.crew.coords.2
  | 0x0B => BitVec.ofNat 64 (timeOf s)
  | 0x0C => BitVec.ofNat 64 s.crew.ctx
  | _ => 0#64

/-- The fields of WCTL, XCAUSE and XPART; every other bit is reserved and reads 0 (R25, R160, R6). -/
def wctlFields : W64 := 0x000000FFFFFFFC07#64
def xcauseFields : W64 := 0x1EFF#64
def xpartFields : W64 := 0x0000FFFF001F000F#64

/-- A system register below 0x20 written by MVTS: WCTL, TVEC and XPC keep their reserved bits; the others are RO (R23,
R25, R155, R159, R6). What parts of the wave see of WCTL and TVEC in this cycle does not change (R24). -/
def sysWrite (n : Nat) (x : W64) (s : State) : State :=
  match n with
  | 0x00 => { s with wave := { s.wave with wctl := x &&& wctlFields } }
  | 0x01 => { s with wave := { s.wave with tvec := pcField x } }
  | 0x02 => { s with part := { s.part with xpc := pcField x } }
  | _ => s

/-- The checks of MVFS and MVTS (R122, R23): one IMM24 hint at most, with B = 0 and payload bits [23:12] zero; a number
from 0x0D to 0x1F is illegal, at step 3 (log 44), and one of 0x20 or above is privileged. -/
def opMv (fn : Nat) (r : Run) (d a n : BitVec 7) (uses : List Use) : Op :=
  let num := sysNum r n
  { opSys fn r d a n ((immCount r = 0 || n == 0#7) && !(decide (0x0D ≤ num ∧ num ≤ 0x1F))) uses with
    immMax := 1, immOk := decide ((payload r 0).getD 0 < 4096), priv := if 0x20 ≤ num then some num else none }

/-- MVFS (R122). -/
def execMvfs (r : Run) (d n : BitVec 7) (s : State) : Host.Outcome State Fault Refusal :=
  unit (opMv 4 r d 0#7 n [dstS d])
    (fun t => done r (wrS 0 d.toNat (sysRead t (sysNum r n)) t)) s

/-- MVTS (R122). -/
def execMvts (r : Run) (a n : BitVec 7) (s : State) : Host.Outcome State Fault Refusal :=
  unit (opMv 5 r 0#7 a n [srcS a])
    (fun t => done r (sysWrite (sysNum r n) (sreg t a) t)) s

/-! ### The part table (R37) -/

/-- The state code of R35. -/
def PartState.code : PartState → Nat
  | .run => 0
  | .joinwait => 1
  | .fusewait => 2
  | .trapped => 3
  | .halted => 4

/-- The OPENJ field: the marks that every quad of the part carries. -/
def openJ (w : Wave) (q : Nat) : Nat :=
  (List.range 16).foldl (fun m j => if allOpen w q j then m + 2 ^ j else m) 0

/-- Word 0 of a part's table entry, with the state code given: in JOINWAIT, code 1, with the index waited at (R37). -/
def ptabWord0 (w : Wave) (p : Part) (code : Nat) : W64 :=
  BitVec.ofNat 64 (code + p.stack.length * 2 ^ 5 + p.nosplit.toNat * 2 ^ 10 + p.jtout.toNat * 2 ^ 11
    + (if code = 1 then p.jwait else p.jidx) % 16 * 2 ^ 12 + openJ w p.quads * 2 ^ 16 + p.quads % 2 ^ 16 * 2 ^ 32)

/-- The part table of a wave: each part's index and its two words (R37). -/
def ptabOf (w : Wave) (ps : List Part) : List (Nat × W64 × W64) :=
  ps.map (fun p => (lowBit p.quads, ptabWord0 w p p.state.code, pcField p.pc))

/-- The part table as it stood when the cycle began (R21, R123). -/
def ptabNow (s : State) : List (Nat × W64 × W64) := ((snapNow s).map (·.table)).getD (ptabOf s.wave (allParts s))

/-- Word `k` of the part table entry `i`, read by a unit whose next unit is at `next` (R37, R123, R167): the part's own
entry as it is, another part's as it stood when the cycle began. -/
def ptabWord (i k : Nat) (next : W64) (s : State) : W64 :=
  if lowBit s.part.quads = i ∧ s.part.quads ≠ 0 then
    if k = 0 then ptabWord0 s.wave s.part s.part.state.code else pcField next
  else match (ptabNow s).find? (fun x => x.1 == i) with
    | none => if k = 0 then 7#64 else 0#64
    | some x => if k = 0 then x.2.1 else x.2.2

/-- PTAB (R123). -/
def execPtab (r : Run) (d a k : BitVec 7) (s : State) : Host.Outcome State Fault Refusal :=
  unit (opSys 6 r d a k (decide (k.toNat < 2)) [srcS a, dstS d])
    (fun t => done r (wrS 0 d.toNat (ptabWord (sreg t a).toNat k.toNat (unitNext r t) t) t)) s

/-! ### Waits, time, instruction caches -/

/-- WAITCY (R124): the part issues nothing for s[A][31:0] cycles after its issue cycle. -/
def execWaitcy (r : Run) (a : BitVec 7) (s : State) : Host.Outcome State Fault Refusal :=
  unit (opSys 7 r 0#7 a 0#7 true [srcS a])
    (fun t =>
      let n := bfield (sreg t a) 31 0
      if n = 0 then done r t
      else
        let u := done r t
        { u with part := { u.part with wait := .cycles (now t + n + 1) } }) s

/-- TIME (R119, R326). -/
def execTime (r : Run) (d : BitVec 7) (s : State) : Host.Outcome State Fault Refusal :=
  unit (opSys 8 r d 0#7 0#7 true [dstS d]) (fun t => done r (wrS 0 d.toNat (BitVec.ofNat 64 (timeOf t)) t)) s

/-- The cores that an instruction-cache scope names, from an issuing core (R125): 12 to a cluster, 96 to a die. -/
def inScope (scope core other : Nat) : Bool :=
  if scope < 2 then other == core
  else if scope = 2 then other / 12 == core / 12
  else if scope = 3 then other / 96 == core / 96
  else true

/-- The cached words of the named cores that meet a test dropped (R125). -/
def dropWords (hit : Nat → CodeWord → Bool) (named : Nat → Bool) (s : State) : State :=
  let clean := fun (c : Core) => { c with icache := c.icache.filter (fun x => match x.2 with
    | some w => !hit x.1 w
    | none => true) }
  let cores := s.cores.filterMap (fun (k, c) =>
    let c' := if named k then clean c else c
    if c' = Core.none then none else some (k, c'))
  { s with cores := cores }

/-- Whether a cached word at a physical address holds a byte of a virtual range of a context, by an address that it was
fetched at or by a page that the crew in focus holds (R125). -/
def inCode (s : State) (a n : W64) (pa : Nat) (w : CodeWord) : Bool :=
  let inside := fun (va : Nat) => (List.range 4).any (fun i => decide ((BitVec.ofNat 64 (va + i) - a).toNat < n.toNat))
  let pages := s.crew.fetch ++ ((launchOf s).map (·.pages)).getD []
  w.at_.any (fun x => x.1 == s.crew.ctx && inside x.2) ||
    pages.any (fun p => decide (p.pa ≤ pa ∧ pa < p.pa + p.size) && inside (p.va + (pa - p.pa)))

/-- The checks of ICINV. -/
def opIcinv (r : Run) (a b : BitVec 7) : Op :=
  { opSys 9 r 0#7 a b true [srcS a, srcS b] with mods := some modSCOPE, modOk := decide (scopeOf r ≤ 5) }

/-- ICINV (R125): without a MOD hint the scope is package. The part waits until the caches have dropped the lines. -/
def execIcinv (r : Run) (a b : BitVec 7) (s : State) : Host.Outcome State Fault Refusal :=
  unit (opIcinv r a b)
    (fun t =>
      if sreg t b = 0#64 then done r t
      else
        let scope := if hasMod r then scopeOf r else 4
        let u := done r (dropWords (inCode t (sreg t a) (sreg t b)) (inScope scope t.crew.core) t)
        { u with part := { u.part with wait := .icinv } }) s

/-! ### Single lanes (R126) -/

/-- A vector field that is checked and interlocked but waits for fixed-latency results by itself (R126). -/
def laneV (n : BitVec 7) : Use := { reg := .v n.toNat, cnt := 1, align := 1, rd := false, wr := false }

/-- The cycle in which the pending writes to a vector register in the named lanes have landed. -/
def landOf (s : State) (n : Nat) (ls : List Nat) : Nat :=
  s.part.pend.foldl (fun m p => if p.reg = .v n ∧ ls.any (fun l => (p.olds.lookup l).isSome) = true then max m p.land else m) 0

/-- A unit that waits until the pending writes to a vector register in the named lanes have landed. -/
def landed (n : Nat) (ls : List Nat) (f : State → State) (s : State) : State :=
  if now s < landOf s n ls then { s with part := { s.part with ready := landOf s n ls } } else f s

/-- VRGET (R126). -/
def execVrget (r : Run) (d a b : BitVec 7) (s : State) : Host.Outcome State Fault Refusal :=
  unit (opSys 11 r d a b true [laneV a, srcS b, dstS d])
    (fun t =>
      let l := (sreg t b).toNat
      if l < 64 ∧ (partLanes t).getLsbD l = true then
        landed a.toNat [l] (fun u => done r (wrS 0 d.toNat ((vraw u.wave a.toNat l).setWidth 64) u)) t
      else trapExm 0x06 5 r t) s

/-- VRSET (R126). -/
def execVrset (r : Run) (d a b : BitVec 7) (s : State) : Host.Outcome State Fault Refusal :=
  unit (opSys 12 r d a b true [laneV d, srcS a, srcS b])
    (fun t =>
      let ls := lanesOf (sreg t b &&& partLanes t)
      landed d.toNat ls (fun u => done r (wrV 0 d.toNat ls (fun _ => (sreg u a).setWidth 32) u)) t) s

/-! ### Store-fault records, kills and dumps (R127 to R129) -/

/-- A store-fault record's bytes (R279). -/
def SfRecord.bytes (x : SfRecord) : List Byte :=
  wordsBytes [x.addr, x.lanes, pcField x.pc,
    BitVec.ofNat 64 (x.pidx % 16 + x.widx % 32 * 2 ^ 8 + x.lsz % 16 * 2 ^ 16 + x.sst.toNat * 2 ^ 24 + x.dreg % 128 * 2 ^ 25
      + x.reason % 256 * 2 ^ 32 + x.seq % 2 ^ 16 * 2 ^ 48)]

/-- SFQ's removal of the oldest record (R127). -/
def popRecord (r : Run) (d : BitVec 7) (o : Nat) (s : State) : State :=
  match s.crew.sfq with
  | [] => done r (wrS 0 d.toNat 0#64 s)
  | x :: rest =>
    if touchesBar s.crew o 32 then barrierKill s
    else done r (wrS 0 d.toNat (BitVec.ofNat 64 (rest.length + 1))
      { s with crew := scrWrite o x.bytes { s.crew with sfq := rest } })

/-- SFQ (R127): an address that is not a multiple of 32 traps, and one outside the reservation kills the crew. -/
def execSfq (r : Run) (d a : BitVec 7) (s : State) : Host.Outcome State Fault Refusal :=
  unit (opSys 13 r d a 0#7 true [srcS a, dstS d])
    (fun t =>
      let o := (sreg t a).toNat
      if o % 32 ≠ 0 then misaligned 32 (sreg t a) r t
      else if t.crew.scr < o + 32 then aperture (sreg t a) t
      else popRecord r d o t) s

/-- KILLC (R128): cause 0x09 with s[A][15:0] as INFO; never relaunched (R284). -/
def execKillc (r : Run) (a : BitVec 7) (s : State) : Host.Outcome State Fault Refusal :=
  unit (opSys 14 r 0#7 a 0#7 true [srcS a])
    (fun t => killHere 0x09 (BitVec.ofNat 64 (bfield (sreg t a) 15 0)) 0#64 [] none t) s

/-- The HALT entry of a part: wave, part, the state before the halt, PC, and the cycles until it halted (R424, R426). -/
def haltEntry (n : Nat) (w : Wave) (p : Part) : Nat × Nat × Nat × W64 × Nat :=
  (w.widx, lowBit p.quads, if p.state = .halted then p.before.code else p.state.code, p.pc, n)

/-- The HALT entries of the parts of the crew in focus that an earlier DUMPC has halted. -/
def haltEntries (s : State) : List (Nat × Nat × Nat × W64 × Nat) :=
  (allWaves s).flatMap (fun w => (w.parts.filter (fun p => p.state == .halted)).map (haltEntry 1 w))

/-- The copies in flight of the crew in focus, by ordinal and FN. -/
def flightOf (s : State) : List (Nat × Nat) :=
  (s.crew.copies.filter (fun (c : Copy) => !c.squash)).map (fun (c : Copy) => (c.ord, c.fn))

/-- Whether a dump of the crew in focus is under way. -/
def dumping (s : State) : Bool := match s.crew.dump with
  | some d => decide (d.phase < 3)
  | none => false

/-- DUMPC's start (R129): the part waits inside its unit. Every other part of the crew halts from the next cycle on
(`haltOthers`), and the dump is written when the copies have drained or been squashed (DUMPC_DONE). -/
def startDump (r : Run) (d : BitVec 7) (addr limit : W64) (s : State) : State :=
  let dump : Dump :=
    { wave := s.wave.widx, part := lowBit s.part.quads, next := unitNext r s, dreg := d.toNat, addr := addr,
      limit := limit, start := now s, time := timeOf s, halts := haltEntries s,
      copies := flightOf s, preempt := false, phase := 0, left := [], starts := [], bytes := 0, nsect := 0, lim := false,
      fault := false }
  let q : Part := { s.part with wait := .dump, fresh := false, ready := now s + (stallOf r + 1) }
  { s with free := s.free + 1, part := q, crew := { s.crew with dump := some dump } }

/-- Whether the broadcast of a dump halts a part of the crew in focus now (R129, R424): any other part at an instruction
boundary. A part inside a unit, such as an ICINV or a DRAINST, halts when the unit has ended. -/
def haltsNow (d : Dump) (w : Wave) (p : Part) : Bool :=
  p.quads != 0 && p.state != .halted && !(w.widx == d.wave && p.quads.testBit d.part) && p.wait != .icinv && p.wait != .inside

/-- The broadcast of a dump, in a cycle after that of its DUMPC: the parts at an instruction boundary halt, and their HALT
entries hold the state before the halt (R424, R426). The copies in flight at the broadcast are those of the DUMPC's cycle. -/
def haltOthers (d : Dump) (s : State) : State :=
  let es := (allWaves s).flatMap (fun w => (w.parts.filter (haltsNow d w)).map (haltEntry (now s - d.start) w))
  let t := mapParts (fun w p => if haltsNow d w p then haltPart p else p) s
  let new := (flightOf s).filter (fun c => !d.copies.contains c)
  { t with crew := { t.crew with dump := some { d with
      halts := d.halts ++ es, copies := if now s = d.start + 1 then d.copies ++ new else d.copies } } }

/-- DUMPC (R129): legal only in TRAPPED, which is a check of step 3 (log 44); s[A] must be a multiple of 256. While a dump of
another part of the crew is under way the part stays before its DUMPC, where that dump halts it. -/
def execDumpc (r : Run) (d a b : BitVec 7) (s : State) : Host.Outcome State Fault Refusal :=
  unit (opSys 15 r d a b (s.part.state == .trapped) [srcS a, srcS b, dstS d])
    (fun t =>
      if dumping t then hold t
      else if bfield (sreg t a) 7 0 ≠ 0 then misaligned 256 (sreg t a) r t
      else startDump r d (sreg t a) (sreg t b) t) s

end Sys2Proof.Machine
end

