-- ==== Sys2Proof/Machine/Access.lean ====
section
/-! DEFINITION. Accesses of the parts of a crew (R173 to R187, R191 to R199): the checks in their order, the trackers
they find, loads, stores and releases. VMEM, SMEM and ATOM share what stands here. -/

namespace Sys2Proof.Machine

/-! ### Checks in their order (R193, R173, R419) -/

/-- The form of an access: its size, whether it is SMEM's, and whether it reads and writes. -/
structure Form where
  size   : Nat
  scalar : Bool
  rd     : Bool
  wr     : Bool
  deriving DecidableEq, Repr

/-- A lane's access with its address and window. -/
structure LaneAcc where
  lane : Nat
  addr : W64
  tgt  : Target
  deriving DecidableEq, Repr

/-- The address that watchpoints and records use: the global address after the stack mapping, or the vault-window
address (R419, R279). -/
def LaneAcc.va (a : LaneAcc) : Nat :=
  match a.tgt with
  | .glob va _ => va
  | _ => a.addr.toNat

/-- Whether watchpoints look at an access (R419): global and vault-window accesses. -/
def LaneAcc.watched (a : LaneAcc) : Bool :=
  match a.tgt with
  | .glob _ _ => true
  | .vault _ _ => true
  | _ => false

/-- Whether an access was made by lanes of the part in focus, before or after splits and fuses. -/
def ofPart (s : State) (a : Access) : Bool :=
  a.crew == s.crew.cid && a.wave == s.wave.widx && a.quads &&& s.part.quads != 0

/-- Whether an access is performed in its core, and has not been yet: a lane of an atomic that waits for its line to come to L1
(R206), or for the lanes before it (R204). -/
def Access.local (a : Access) : Bool :=
  !a.back && match a.use with
    | .atom .. => true
    | .here .. => true
    | _ => false

/-- Whether such an atomic of the part is under way (R206): the part's later accesses are performed after it. -/
def atomPending (s : State) : Bool := s.net.any (fun a => ofPart s a && a.local)

/-- Whether a lane of an atomic of the part has still to be performed at the scratchpad (R204): the part's later accesses to the
scratchpad come after it (R201). -/
def scratchPending (s : State) : Bool :=
  s.net.any (fun a => ofPart s a && !a.back && match a.use with
    | .here scr .. => scr
    | _ => false)

/-- The accesses of lanes with their windows (R173). -/
def accsOf (m : Form) (addrs : List (Nat × W64)) (s : State) : List LaneAcc :=
  addrs.map (fun x =>
    ({ lane := x.1, addr := x.2, tgt := steer s (if m.scalar then none else some x.1) x.2 m.size } : LaneAcc))

/-- The checks of an access before translation: alignment in every active lane, then aperture, then watchpoints. -/
def checked (m : Form) (r : Run) (addrs : List (Nat × W64)) (f : List LaneAcc → State → State) (s : State) : State :=
  if atomPending s then hold s else
  let bad := addrs.filter (fun x => x.2.toNat % m.size != 0)
  match bad with
  | b :: _ =>
    if m.scalar then misaligned m.size b.2 r s
    else trap { cause := 0x03, lanes := maskOf (fun l => bad.any (fun x => x.1 == l)), info := BitVec.ofNat 64 m.size,
                addr := b.2 } r s
  | [] =>
    let accs := accsOf m addrs s
    match accs.find? (fun a => a.tgt == .bad) with
    | some a => aperture a.addr s
    | none =>
      match watchHit ((accs.filter LaneAcc.watched).map (fun a => (a.lane, a.va))) m.size m.rd m.wr s with
      | some (k, ls, addr) => watchpoint k ls addr m.wr r s
      | none => f accs s

/-! ### Trackers (R186, R208) -/

/-- Whether a bound tracker's range holds a location. -/
def trkHolds (x : Tracker) (t : Target) : Bool :=
  match t with
  | .glob va _ => (x.kind == 1 || x.kind == 2) && decide (x.base.toNat ≤ va ∧ va < x.limit.toNat)
  | .vault v o => x.kind == 3 && decide (x.base.toNat ≤ v * 2 ^ 43 + o ∧ v * 2 ^ 43 + o < x.limit.toNat)
  | _ => false

/-- The tracker that matches a location by address (R186). -/
def trkMatch (c : Crew) (t : Target) : Nat := ((List.range 15).find? (fun i => trkHolds (getTrk c i) t)).getD 15

/-- The tracker of a lane's access (R186): the one MOD names, or the match by address. -/
def trkOf (r : Run) (c : Crew) (t : Target) : Nat := if modField r 20 20 = 1 then modField r 9 6 else trkMatch c t

/-- Whether OUT of every tracker of the list may rise by the number of times it is listed (R187). -/
def roomFor (s : State) (ts : List Nat) : Bool :=
  ts.all (fun t => decide ((getTrk s.crew t).out + (ts.filter (fun x => x == t)).length ≤ 65535))

/-! ### Translation, grants and rights (R388, R199, R162) -/

/-- A lane's access that has passed its checks: where it goes, and its tracker. -/
structure Ready where
  lane  : Nat
  tgt   : Target
  place : Place
  trk   : Nat
  deriving DecidableEq, Repr

/-- The lane and its address, for a fabric line. -/
def Ready.who (q : Ready) : List (Nat × Nat) :=
  match q.tgt with
  | .glob va _ => if remoteLine (q.place.pa / 128) then [(q.lane, va)] else []
  | _ => []

/-- A lane's place, or why it has none. Scratchpad accesses have no place. -/
def placeOf (m : Form) (a : LaneAcc) (s : State) : Except Reason (Option Place) :=
  match a.tgt with
  | .glob va st => (resolveG s va m.size st m.rd m.wr).map some
  | .vault v o => .ok (some { pa := vaultPa v o, key := 0, tso := false, vault := true })
  | _ => .ok none

/-- The lanes that fail, with their reasons. -/
def failing (m : Form) (accs : List LaneAcc) (s : State) : List (LaneAcc × Reason) :=
  accs.filterMap (fun a => match placeOf m a s with
    | .error e => some (a, e)
    | .ok _ => none)

/-- The lanes that reach memory. -/
def readyOf (m : Form) (r : Run) (accs : List LaneAcc) (s : State) : List Ready :=
  accs.filterMap (fun a => match placeOf m a s with
    | .ok (some p) => some { lane := a.lane, tgt := a.tgt, place := p, trk := trkOf r s.crew a.tgt }
    | _ => none)

/-- The lanes in the scratchpad window, with their offsets (R176). -/
def scratchOf (accs : List LaneAcc) : List (Nat × Nat) :=
  accs.filterMap (fun a => match a.tgt with
    | .scratch o => some (a.lane, o)
    | _ => none)

/-- The access records of failing lanes, one for each line (R390, R391). -/
def accRecs (akind : Nat) (bad : List (LaneAcc × Reason)) : List AccRec :=
  let lines := (bad.map (fun x => x.1.va / 128)).eraseDups
  lines.map (fun n =>
    let g := bad.filter (fun x => x.1.va / 128 == n)
    { addr := BitVec.ofNat 64 (g.foldl (fun m x => min m x.1.va) (2 ^ 64)),
      lanes := maskOf (fun l => g.any (fun x => x.1.lane == l)), akind := akind,
      reason := ((g.head?.map (·.2)).getD 3) })

/-- Whether the launch of the crew in focus is marked recoverable (R356). -/
def recoverable (s : State) : Bool :=
  match launchOf s with
  | some l => (word64 l.bytes 5).getLsbD 42
  | none => false

/-- A crew halts to be swapped out for a recoverable fault (R389): its records are written with RECOV, and the swap-out
follows (SWAP_OUT). -/
def recoverBy (k : Kill) (s : State) : State :=
  let t := faultRun s.crew.ctx (crewRecs (packCrew s) k false true) s
  let u := haltAll t
  { u with crew := { u.crew with halt := true, recov := true } }

/-- The same for a fault of the part in focus. -/
def recoverHere (recs : List AccRec) (s : State) : State :=
  recoverBy { cause := 0x0A, info := 0#64, addr := ((recs.head?.map (·.addr)).getD 0#64), pc := pcField s.part.pc,
              widx := s.wave.widx, pidx := lowBit s.part.quads, access := recs, regs := none } s

/-- A failing access with its records (R199, R389): the crew is killed with cause 0x0A, or swapped out when the launch
is recoverable and the fault is a grant's. -/
def accFault (recs : List AccRec) (s : State) : State :=
  if recoverable s && recs.all (fun x => x.reason == 3) then recoverHere recs s
  else killHere 0x0A 0#64 ((recs.head?.map (·.addr)).getD 0#64) recs none s

/-- A load or an atomic that fails. -/
def loadFault (akind : Nat) (bad : List (LaneAcc × Reason)) (s : State) : State :=
  if bad.all (fun x => x.2 == 3) then accFault (accRecs akind bad) s
  else killHere 0x0A 0#64 (((accRecs akind bad).head?.map (·.addr)).getD 0#64) (accRecs akind bad) none s

/-- Cause 0x11, subcode 5: a poisoned word is read (R355). -/
def poisonKill (s : State) : State := killHere 0x11 5#64 0#64 [] none s

/-! ### L1 (R181 to R183) -/

/-- Whether L1 holds a line. -/
def inL1 (s : State) (core line : Nat) : Bool := (getCore s core).l1.any (fun x => x.1 == line)

/-- The lines of L1 that can be evicted now: those whose write-down need not wait (R187). -/
def evictable (s : State) (core : Nat) : List (Nat × L1Line) :=
  (getCore s core).l1.filter (fun x => x.2.dirty == 0#128 || outRoom s x.2.owner x.2.trk)

/-- The line that an eviction takes: a free choice, but in its set one that CACHE 1 has marked goes first (R182). -/
def victim (s : State) (core line : Nat) : Nat :=
  let l := evictable s core
  let n := ((l[Config.freeNat 3 s.free % max 1 l.length]?).map (·.1)).getD line
  ((l.find? (fun x => x.2.first && Config.l1Set x.1 == Config.l1Set n)).map (·.1)).getD n

/-- L1 holds 2,048 lines. Before a line is allocated a line may be evicted, and is when L1 is full (R182, R183); none when the
line's place has to wait for a write-down (R187). -/
def makeRoom (core line : Nat) (s : State) : Option State :=
  let all := (getCore s core).l1
  let full := decide (2048 ≤ all.length)
  if all.any (fun x => x.1 == line) then some s
  else if (evictable s core).isEmpty then (if full then none else some { s with free := s.free + 1 })
  else if full || Config.freeBool 2 s.free then
    let n := victim s core line
    some (setL1 (writeDown core n { s with free := s.free + 1 }) core n L1Line.none)
  else some { s with free := s.free + 1 }

/-- The words of a line that the bytes from `off` on touch. -/
def lineWords (off n : Nat) : List Nat := (List.range 16).filter (fun w => decide (8 * w < off + n ∧ off < 8 * w + 8))

/-- Whether an access of a line touches a poisoned word, from the marks of the line: bits 0 to 15 for its words, and bits 16
to 19 for its blocks that were poisoned as a whole (R355). -/
def lineMarked (marks off n : Nat) : Bool :=
  (lineWords off n).any (fun w =>
    blockMarked (marks / 2 ^ (w / 4 * 4) % 16 + (if marks.testBit (16 + w / 4) then 16 else 0)) (w % 4))

/-- Whether an access of a line touches a poisoned word that L1 holds (R355). -/
def poisonedL1 (s : State) (line off n : Nat) : Bool := lineMarked (getL1 s s.crew.core line).poison off n

/-- Poison marks of a line after a write of `n` bytes at `off`: words written whole lose theirs. -/
def clearL1Poison (x : L1Line) (off n : Nat) : Nat :=
  (List.range 16).foldl (fun m w => if off ≤ 8 * w ∧ 8 * w + 8 ≤ off + n ∧ m.testBit w = true then m - 2 ^ w else m) x.poison

/-- The DIRTY bits of `n` bytes at `off`. -/
def dirtyMask (off n : Nat) : BitVec 128 := BitVec.ofNat 128 ((2 ^ n - 1) * 2 ^ off)

/-- A line of L1 after a store of `bs` at an offset under a tracker of a crew (R182, R183). -/
def storedLine (cid trk key : Nat) (vault first : Bool) (off : Nat) (bs : List Byte) (y : L1Line) : L1Line :=
  { y with
    dirty := y.dirty ||| dirtyMask off bs.length, trk := trk, owner := cid, key := key, vault := vault,
    data := csetList 0#8 y.data off bs, first := y.first || first, poison := clearL1Poison y off bs.length }

/-- A store's bytes placed DIRTY in L1 (R182, R183): a line of another tracker or crew is written down first. `first`
marks the line under CACHE 1. None when the line's place or that write-down has to wait (R187). -/
def putDirty (core cid trk key : Nat) (vault first : Bool) (pa : Nat) (bs : List Byte) (s : State) : Option State :=
  let line := pa / 128
  (makeRoom core line s).bind (fun t =>
    let x := getL1 t core line
    let other := x.dirty ≠ 0#128 ∧ ¬ (x.trk = trk ∧ x.owner = cid)
    (if other then tryDown core line t else some t).map (fun u =>
      setL1 u core line (storedLine cid trk key vault first (pa % 128) bs (getL1 u core line))))

/-- The bytes of `n` at `off` as cells. -/
def byteCells (off : Nat) (bs : List Byte) : Cells W64 := (List.range bs.length).zipWith (fun i b => (off + i, b.setWidth 64)) bs

/-- A write sent to its home at once (R182, R197, R338): older DIRTY bytes of the line go first, and a line that is
present takes the bytes without DIRTY and keeps its lease. None when OUT has no room for them (R187). -/
def sendWrite (q : Ready) (bs : List Byte) (s : State) : Option State :=
  let core := s.crew.core
  let line := q.place.pa / 128
  let off := q.place.pa % 128
  (tryDown core line s).bind (fun t =>
    let x := getL1 t core line
    let u := if inL1 t core line && !q.place.tso then
        setL1 t core line { x with data := csetList 0#8 x.data off bs, poison := clearL1Poison x off bs.length }
      else t
    let a := mkAccess u.crew line q.place.key q.place.tso q.place.vault (some q.trk) (.write (byteCells off bs)) .store
    if outRoom u u.crew.cid q.trk then
      some (send { a with wave := s.wave.widx, part := lowBit s.part.quads, off := off, who := q.who } u)
    else none)

/-! ### Loads (R195 to R197) -/

/-- How a load finds its bytes: LDN, acquire, and the CACHE field. -/
structure How where
  ldn   : Bool
  acq   : Bool
  cache : Nat
  deriving DecidableEq, Repr

/-- The TSO accesses of the part that its homes have not performed yet. -/
def tsoOpen (s : State) : List Access := s.net.filter (fun a => ofPart s a && a.tso && a.ans.isNone)

/-- Whether an access is a write. -/
def AccOp.isWrite : AccOp → Bool
  | .write _ => true
  | _ => false

/-- The bytes that a write gives to `n` places of a line. -/
def writtenAt (line off n : Nat) (a : Access) : Cells W64 :=
  match a.op with
  | .write bs => if a.line = line then (List.range n).filterMap (fun i => (bs.lookup (off + i)).map (fun b => (i, b))) else []
  | _ => []

/-- The bytes of a TSO load that the newest pending TSO store of the part to any of them covers, when it covers all (R338). A
load that it covers in part goes to the home and is performed there after it, so that all its bytes come from one write (R329);
so does a load behind a pending TSO load or atomic, before which no later access may be performed. -/
def tsoPending (line off n : Nat) (s : State) : Cells W64 :=
  let olds := tsoOpen s
  if olds.all (fun a => a.op.isWrite) then
    match ((olds.map (writtenAt line off n)).filter (fun bs => !bs.isEmpty)).getLast? with
    | some bs => if bs.length = n then bs else []
    | none => []
  else []

/-- The bytes of a lane that are fixed at issue: every byte of a hit, else the DIRTY ones (R182, R195, R196). Positions
count from the lane's first byte. -/
def fixedBytes (h : How) (q : Ready) (n : Nat) (s : State) : Cells W64 :=
  let line := q.place.pa / 128
  let off := q.place.pa % 128
  if q.place.tso then tsoPending line off n s
  else
    let x := getL1 s s.crew.core line
    let live := !h.ldn && !h.acq && x.filled && decide (timeOf s < x.lease)
    (List.range n).filterMap (fun i =>
      if live || x.dirty.getLsbD (off + i) then some (i, (cget 0#8 x.data (off + i)).setWidth 64) else none)

/-- Whether a lane has all its bytes at issue. -/
def isHit (h : How) (q : Ready) (n : Nat) (s : State) : Bool := decide ((fixedBytes h q n s).length = n)

/-- The lanes that miss, coalesced by line and tracker (R327, R391). -/
def missGroups (h : How) (qs : List Ready) (n : Nat) (s : State) : List Ready :=
  (qs.filter (fun q => !isHit h q n s)).foldl
    (fun g q => if g.any (fun x => x.place.pa / 128 == q.place.pa / 128 && x.trk == q.trk) then g else g ++ [q]) []

/-- The lease length that a fill asks for (R187, R196, R338). -/
def leaseAsked (h : How) (q : Ready) (s : State) : Nat :=
  if h.ldn || q.place.tso then 0 else (getTrk s.crew q.trk).lease

/-- A fill sent for a group of lanes; what the core holds of the line is older than its answer, which an LDN leaves out of
account (R332). -/
def sendFill (h : How) (use : AccUse) (trk : Option Nat) (q : Ready) (s : State) : State :=
  let t := if h.ldn || q.place.tso then s else overtake [] s.crew.core (q.place.pa / 128) s
  let a := mkAccess t.crew (q.place.pa / 128) q.place.key q.place.tso q.place.vault trk (.read (leaseAsked h q t)) use
  send { a with wave := t.wave.widx, part := lowBit t.part.quads } t

/-- What becomes of a load's answer: it fills L1, unless the load takes no line (R182, R196, R197). -/
def fillUse (h : How) (q : Ready) : AccUse :=
  if h.ldn || q.place.tso || h.cache == 2 then .load else .fill (h.cache == 1)

/-- The index of a lane's group. -/
def groupOf (gs : List Ready) (q : Ready) : Nat :=
  (gs.findIdx? (fun x => x.place.pa / 128 == q.place.pa / 128 && x.trk == q.trk)).getD 0

/-- The lines of L1 that a load under CACHE 1 hits: each goes first when its set next loses a line (R182). -/
def hitLines (h : How) (qs : List Ready) (n : Nat) (s : State) : List Nat :=
  if h.cache = 1 then (qs.filter (fun q => !q.place.tso && isHit h q n s)).map (fun q => q.place.pa / 128) else []

/-- Lines of the core that L1 holds marked as the first to go (R182). -/
def markFirst (core : Nat) (lines : List Nat) (s : State) : State :=
  lines.foldl (fun t l => if inL1 t core l then setL1 t core l { getL1 t core l with first := true } else t) s

/-- Cells of scratchpad bytes, by position. -/
def scratchCells (c : Crew) (o n : Nat) : Cells W64 := byteCells 0 (scrRead c o n)

/-- A load of the part in focus: fills leave for the lanes that miss, and the load stands until its data has returned
(R195, R32). -/
def issueLoad (r : Run) (h : How) (kind : LoadKind) (reg n : Nat) (split : Bool) (accs : List LaneAcc) (m : Form)
    (s : State) : State :=
  let qs := readyOf m r accs s
  let gs := missGroups h qs n s
  if qs.any (fun q => isHit h q n s && poisonedL1 s (q.place.pa / 128) (q.place.pa % 128) n) then
    poisonKill s
  else if !roomFor s (gs.map (·.trk)) then hold s
  else
    let base := s.ids
    let sent := markFirst s.crew.core (hitLines h qs n s) (gs.foldl (fun t g => sendFill h (fillUse h g) (some g.trk) g t) s)
    let name := fun (a : Access) =>
      if base ≤ a.id ∧ remoteLine a.line = true then
        { a with who := (qs.filter (fun q => !isHit h q n s && base + groupOf gs q == a.id)).flatMap Ready.who }
      else a
    let t := if gs.any (fun g => remoteLine (g.place.pa / 128)) then { sent with net := sent.net.map name } else sent
    let mem := qs.map (fun q =>
      ({ lane := q.lane, acc := if isHit h q n s then 0 else base + groupOf gs q, off := q.place.pa % 128,
         fixed := fixedBytes h q n s } : LaneLoad))
    let scr := (scratchOf accs).map (fun x =>
      ({ lane := x.1, acc := 0, off := 0, fixed := scratchCells s.crew x.2 n } : LaneLoad))
    let timer := if split ∧ (wctlOf s).getLsbD 0 = true ∧ lowBit s.part.quads ≠ Nat.log2 s.part.quads then
        some (now s + max 16 (bfield (wctlOf s) 19 10)) else none
    let ld : Load := { id := t.ids, kind := kind, reg := reg, lanes := mem ++ scr, acq := h.acq, timer := timer }
    done r { t with ids := t.ids + 1, part := { t.part with loads := t.part.loads ++ [ld] } }

/-- Whether an earlier acquire load of the part has not returned its data (R197). -/
def acquiring (s : State) : Bool := s.part.loads.any (·.acq)

/-! ### Stores (R195, R162, R184) -/

/-- A store that fails its checks: it writes nothing and is reported later (R162), with its faulting lanes and the address of the
lowest of them (R279; for the trap, log 51). -/
def faultingStore (bad : List (LaneAcc × Reason)) (dreg lsz : Nat) (scalar : Bool) (s : State) : State :=
  let lanes := if scalar then maskOf (fun l => lowLane (partLanes s) == some l)
    else maskOf (fun l => bad.any (fun x => x.1.lane == l))
  let st : PStore :=
    { id := s.ids, wave := s.wave.widx, part := lowBit s.part.quads, accs := [],
      fault := bad.head?.map (·.2), addr := BitVec.ofNat 64 ((bad.head?.map (fun x => x.1.va)).getD 0), lanes := lanes,
      pc := s.part.pc, dreg := dreg, sst := scalar, lsz := lsz, at_ := s.part.issued }
  { s with ids := s.ids + 1, crew := { s.crew with stores := s.crew.stores ++ [st] } }

/-- A lane's bytes stored in memory: DIRTY in L1, or at the home under CACHE 2, REL or TSO. -/
def storeLane (direct first : Bool) (q : Ready) (bs : List Byte) (s : State) : Option State :=
  if direct || q.place.tso then sendWrite q bs s
  else putDirty s.crew.core s.crew.cid q.trk q.place.key q.place.vault first q.place.pa bs s

/-- Lanes stored in memory one after another; none when one of them has to wait. -/
def storeMem (direct first : Bool) (data : Nat → List Byte) : List Ready → State → Option State
  | [], s => some s
  | q :: t, s => (storeLane direct first q (data q.lane) s).bind (storeMem direct first data t)

/-- A store's lanes performed in ascending order, so that the highest lane stands (R195); none when the store waits for a
place in L1, for a write-down, or for OUT (R187). -/
def storeLanes (direct first : Bool) (data : Nat → List Byte) (accs : List LaneAcc) (qs : List Ready) (s : State) :
    Option State :=
  let scr := (scratchOf accs).foldl (fun (c : Crew) x => scrWrite x.2 (data x.1) c) s.crew
  storeMem direct first data qs { s with crew := scr }

/-- The accesses that the writes of a store have put on their way: those sent since `base`, as stores. -/
def sentStores (base : Nat) (s : State) : List Nat :=
  s.net.filterMap (fun a => if base ≤ a.id ∧ a.use = .store then some a.id else none)

/-- A store of the part in focus (R195, R180, R162). -/
def issueStore (r : Run) (cache dreg lsz : Nat) (rel : Bool) (data : Nat → List Byte) (accs : List LaneAcc) (m : Form)
    (s : State) : State :=
  let qs := readyOf m r accs s
  let direct := rel || cache == 2
  if (scratchOf accs).any (fun x => touchesBar s.crew x.2 m.size) then barrierKill s
  else match failing m accs s with
    | b :: t => done r (faultingStore (b :: t) dreg lsz m.scalar s)
    | [] =>
      match storeLanes direct (cache == 1) data accs qs s with
      | none => hold s
      | some t =>
        let st : PStore :=
          { id := t.ids, wave := s.wave.widx, part := lowBit s.part.quads, accs := sentStores s.ids t, fault := none,
            addr := 0#64, lanes := 0#64, pc := s.part.pc, dreg := dreg, sst := m.scalar, lsz := lsz,
            at_ := s.part.issued }
        done r { t with ids := t.ids + 1,
                        crew := { t.crew with stores := if accs = [] then t.crew.stores else t.crew.stores ++ [st] } }

/-! ### Releases (R211) and acquires (R212) -/

/-- The trackers of a mask whose effective scope reaches beyond the core (R211 step 1). -/
def farTrks (c : Crew) (mask scope : Nat) : List Nat :=
  (List.range 16).filter (fun t => mask.testBit t && decide (2 ≤ max scope (getTrk c t).scope))

/-- The accesses of the crew in focus under the named trackers that write and have not been answered (R211 step 4). -/
def writesUnder (s : State) (ts : List Nat) : List Nat :=
  s.net.filterMap (fun a =>
    let w := match a.op with
      | .read _ => false
      | _ => true
    if a.crew = s.crew.cid ∧ w = true ∧ a.back = false ∧ (a.trk.map (ts.contains ·)) = some true then some a.id else none)

/-- The copies of the crew in focus that may write under the named trackers. -/
def copiesUnder (s : State) (ts : List Nat) : List Nat :=
  s.crew.copies.filterMap (fun c => if c.trks.any (ts.contains ·) then some c.ord else none)

/-- The greatest completion time of the named trackers. -/
def lctOf (c : Crew) (ts : List Nat) : Nat := ts.foldl (fun m t => max m (getTrk c t).lct) 0

/-- Whether a release has nothing left to wait for. -/
def released (accs ords ts : List Nat) (s : State) : Bool :=
  !(s.net.any (fun a => accs.contains a.id && !a.back)) && !(s.crew.copies.any (fun c => ords.contains c.ord))
    && decide (lctOf s.crew ts ≤ timeOf s)

/-- The trackers of a mask. -/
def maskTrks (mask : Nat) : List Nat := (List.range 16).filter (fun t => mask.testBit t)

/-- A release with a mask and a scope before `f` (R211): the part's stores are accepted, the DIRTY lines under the
trackers go down, and the part waits until their writes are answered and dated. A release that has completed
(FENCE_RELEASE_COMPLETE) lets the unit go on. -/
def releaseThen (r : Run) (mask scope : Nat) (f : State → State) (s : State) : State :=
  if s.part.relDone then f s
  else drainBy hold r (fun t =>
    let ts := farTrks t.crew mask scope
    let lines := dirtyLines t t.crew.core t.crew.cid (fun k => ts.contains k)
    if !roomFor t (lines.map (fun n => (getL1 t t.crew.core n).trk)) then hold t
    else
      let u := writeDowns t.crew.core lines t
      let accs := writesUnder u ts
      let ords := copiesUnder u ts
      if released accs ords ts u then f u
      else { u with part := { u.part with wait := .release accs ords (ts.foldl (fun m k => m + 2 ^ k) 0) } }) s

/-- An acquire before `f` (R212): the part's earlier loads and atomics have returned their data. -/
def acquireThen (f : State → State) (s : State) : State := if s.part.loads = [] then f s else hold s

end Sys2Proof.Machine
end

