-- ==== Sys2Proof/Machine/Smem.lean ====
section
/-! DEFINITION. Scalar memory accesses: SMEM (R111, R112). -/

namespace Sys2Proof.Machine

/-- The lane that stands for a scalar access: the part's lowest (R112, R279). -/
def scalarLane (s : State) : Nat := (lowLane (partLanes s)).getD 0

/-- MOD of an access that may be an acquire or a release: SCOPE needs one of them (R111, R197). -/
def scopeNeeds (r : Run) : Bool := decide (scopeOf r = 0) || modField r 18 18 == 1 || modField r 19 19 == 1

/-- The checks of an SMEM unit (R104, R111). -/
def opSmem (fn : Nat) (store : Bool) (r : Run) (d a b : BitVec 7) : Op :=
  { Op.plain (wRRR 5 r d a b fn) r 0 [srcS a, srcS b, if store then srcS d else dstS d] with
    immMax := 2, mods := some (modTRK + modCACHE + modSCOPE + (if store then modREL else modACQ)),
    modOk := scopeNeeds r, width := some (0, 4) }

/-- An SMEM load of 4 or 8 bytes: an access of the part as a single lane (R111, R112). -/
def smemLoad (fn n scale : Nat) (r : Run) (d a b : BitVec 7) (s : State) : Host.Outcome State Fault Refusal :=
  let m : Form := { size := n, scalar := true, rd := true, wr := false }
  unit (opSmem fn false r d a b)
    (fun t => if acquiring t then hold t
      else checked m r [(scalarLane t, addrS r a b scale t)] (fun accs u =>
        match failing m accs u with
        | x :: l => loadFault 0 (x :: l) u
        | [] => issueLoad r { ldn := false, acq := modField r 18 18 == 1, cache := modField r 11 10 } (.scalar n) d.toNat n
            false accs m u) t) s

/-- An SMEM store of 4 or 8 bytes. -/
def smemStore (fn n scale : Nat) (r : Run) (d a b : BitVec 7) (s : State) : Host.Outcome State Fault Refusal :=
  let m : Form := { size := n, scalar := true, rd := false, wr := true }
  let rel := modField r 19 19 == 1
  unit (opSmem fn true r d a b)
    (fun t => checked m r [(scalarLane t, addrS r a b scale t)] (fun accs u =>
      let go := fun (v : State) => issueStore r (modField r 11 10) d.toNat (Nat.log2 n) rel
        (fun _ => leBytes n (sreg v d).toNat) accs m v
      if rel then releaseThen r ((readyOf m r accs u).foldl (fun k q => k ||| 2 ^ q.trk) 0) (scopeOf r) go u else go u) t) s

/-- SLD.64 (R111). -/
def execSld64 (r : Run) (d a b : BitVec 7) (s : State) : Host.Outcome State Fault Refusal := smemLoad 0 8 3 r d a b s

/-- SLD.32 (R111). -/
def execSld32 (r : Run) (d a b : BitVec 7) (s : State) : Host.Outcome State Fault Refusal := smemLoad 1 4 2 r d a b s

/-- SST.64 (R111). -/
def execSst64 (r : Run) (d a b : BitVec 7) (s : State) : Host.Outcome State Fault Refusal := smemStore 2 8 3 r d a b s

/-- SST.32 (R111). -/
def execSst32 (r : Run) (d a b : BitVec 7) (s : State) : Host.Outcome State Fault Refusal := smemStore 3 4 2 r d a b s

end Sys2Proof.Machine
end

