-- ==== Sys2Proof/Machine/Vmem.lean ====
section
/-! DEFINITION. Vector memory accesses: VMEM (R190 to R199). -/

namespace Sys2Proof.Machine

/-- The index field of a vector access: 0 names no register (R191). -/
def idxUse (b : BitVec 7) : List Use := if b = 0#7 then [] else [srcV b]

/-- The registers of an access of `n` bytes (R192). -/
def grp (n : Nat) : Nat := max 1 (n / 4)

/-- The addresses of the active lanes (R191). -/
def laneAddrs (r : Run) (a b : BitVec 7) (scale : Nat) (s : State) : List (Nat × W64) :=
  (activeLanes s).map (fun l => (l, addrV r a b scale l s))

/-- The bytes of a lane's data register or group (R192). -/
def laneBytes (s : State) (d n l : Nat) : List Byte :=
  ((List.range (grp n)).flatMap (fun i => bytes32 (rdV s (d + i) l))).take n

/-- The checks of a VMEM load: ACQ below cluster scope is misuse on an LDN (R190, R197). -/
def opVld (fn n : Nat) (ldn : Bool) (r : Run) (d a b : BitVec 7) : Op :=
  { Op.plain (wRRR 16 r d a b fn) r 0 ([srcS a, dstVs d (grp n) (grp n)] ++ idxUse b) with
    immMax := 2, mods := some (modTRK + modCACHE + modSCOPE + modACQ),
    modOk := scopeNeeds r && !(ldn && modField r 18 18 == 1 && decide (scopeOf r < 2)), width := some (0, 4) }

/-- A VMEM load of `n` bytes (R194, R195). -/
def vmemLoad (fn n : Nat) (sext ldn : Bool) (r : Run) (d a b : BitVec 7) (s : State) : Host.Outcome State Fault Refusal :=
  let m : Form := { size := n, scalar := false, rd := true, wr := false }
  unit (opVld fn n ldn r d a b)
    (fun t => if t.part.exm = 0#64 then done r t
      else if acquiring t then hold t
      else checked m r (laneAddrs r a b (Nat.log2 n) t) (fun accs u =>
        match failing m accs u with
        | x :: l => loadFault 0 (x :: l) u
        | [] => issueLoad r { ldn := ldn, acq := modField r 18 18 == 1, cache := modField r 11 10 } (.vec n sext) d.toNat n
            true accs m u) t) s

/-- The checks of a VMEM store (R190, R197). -/
def opVst (fn n : Nat) (r : Run) (d a b : BitVec 7) : Op :=
  { Op.plain (wRRR 16 r d a b fn) r 0 ([srcS a, srcVs d (grp n) (grp n)] ++ idxUse b) with
    immMax := 2, mods := some (modTRK + modCACHE + modSCOPE + modREL), modOk := scopeNeeds r, width := some (0, 4) }

/-- A VMEM store of `n` bytes (R194, R195, R197). -/
def vmemStore (fn n : Nat) (r : Run) (d a b : BitVec 7) (s : State) : Host.Outcome State Fault Refusal :=
  let m : Form := { size := n, scalar := false, rd := false, wr := true }
  let rel := modField r 19 19 == 1
  unit (opVst fn n r d a b)
    (fun t => if t.part.exm = 0#64 then done r t
      else checked m r (laneAddrs r a b (Nat.log2 n) t) (fun accs u =>
        let go := fun (v : State) => issueStore r (modField r 11 10) d.toNat (Nat.log2 n) rel
          (laneBytes v d.toNat n) accs m v
        if rel then releaseThen r ((readyOf m r accs u).foldl (fun k q => k ||| 2 ^ q.trk) 0) (scopeOf r) go u else go u) t) s

/-- LD.b (R194). -/
def execLdB (r : Run) (d a b : BitVec 7) (s : State) : Host.Outcome State Fault Refusal := vmemLoad 0 1 false false r d a b s

/-- LD.bs (R194). -/
def execLdBs (r : Run) (d a b : BitVec 7) (s : State) : Host.Outcome State Fault Refusal := vmemLoad 1 1 true false r d a b s

/-- LD.h (R194). -/
def execLdH (r : Run) (d a b : BitVec 7) (s : State) : Host.Outcome State Fault Refusal := vmemLoad 2 2 false false r d a b s

/-- LD.hs (R194). -/
def execLdHs (r : Run) (d a b : BitVec 7) (s : State) : Host.Outcome State Fault Refusal := vmemLoad 3 2 true false r d a b s

/-- LD.w (R194). -/
def execLdW (r : Run) (d a b : BitVec 7) (s : State) : Host.Outcome State Fault Refusal := vmemLoad 4 4 false false r d a b s

/-- LD.d (R194). -/
def execLdD (r : Run) (d a b : BitVec 7) (s : State) : Host.Outcome State Fault Refusal := vmemLoad 5 8 false false r d a b s

/-- LD.q (R194). -/
def execLdQ (r : Run) (d a b : BitVec 7) (s : State) : Host.Outcome State Fault Refusal := vmemLoad 6 16 false false r d a b s

/-- LDN.w (R194, R196). -/
def execLdnW (r : Run) (d a b : BitVec 7) (s : State) : Host.Outcome State Fault Refusal := vmemLoad 7 4 false true r d a b s

/-- LDN.d (R194, R196). -/
def execLdnD (r : Run) (d a b : BitVec 7) (s : State) : Host.Outcome State Fault Refusal := vmemLoad 14 8 false true r d a b s

/-- ST.b (R194). -/
def execStB (r : Run) (d a b : BitVec 7) (s : State) : Host.Outcome State Fault Refusal := vmemStore 8 1 r d a b s

/-- ST.h (R194). -/
def execStH (r : Run) (d a b : BitVec 7) (s : State) : Host.Outcome State Fault Refusal := vmemStore 9 2 r d a b s

/-- ST.w (R194). -/
def execStW (r : Run) (d a b : BitVec 7) (s : State) : Host.Outcome State Fault Refusal := vmemStore 10 4 r d a b s

/-- ST.d (R194). -/
def execStD (r : Run) (d a b : BitVec 7) (s : State) : Host.Outcome State Fault Refusal := vmemStore 11 8 r d a b s

/-- ST.q (R194). -/
def execStQ (r : Run) (d a b : BitVec 7) (s : State) : Host.Outcome State Fault Refusal := vmemStore 12 16 r d a b s

/-! ### PREF (R198) -/

/-- The lanes of a PREF that reach memory, one for each line; every failure is dropped (R198). The lowest lane of a line says
which tracker's lease length is asked for (log 55). -/
def prefLanes (r : Run) (a b : BitVec 7) (s : State) : List Ready :=
  let m : Form := { size := 1, scalar := false, rd := true, wr := false }
  let accs := (laneAddrs r a b 7 s).map (fun x =>
    ({ lane := x.1, addr := x.2, tgt := steer s (some x.1) x.2 1 } : LaneAcc))
  let qs := (accs.filterMap (fun c => match placeOf m c s with
    | .ok (some p) => some ({ lane := c.lane, tgt := c.tgt, place := p, trk := trkMatch s.crew c.tgt } : Ready)
    | _ => none)).filter (fun q =>
      !q.place.vault || allotted s s.crew.ctx (q.place.pa / 2 ^ 40 % 32) (q.place.pa % 2 ^ 40) 1)
  qs.foldl (fun g q => if g.any (fun x => x.place.pa / 128 == q.place.pa / 128) then g else g ++ [q]) []

/-- The checks of PREF. -/
def opPref (r : Run) (a b : BitVec 7) : Op :=
  { Op.plain (wRRR 16 r 0#7 a b 13) r 0 ([srcS a] ++ idxUse b) with
    immMax := 2, mods := some modCACHE, width := some (0, 4) }

/-- PREF (R198): fills leave for the lines, under no tracker. -/
def execPref (r : Run) (a b : BitVec 7) (s : State) : Host.Outcome State Fault Refusal :=
  unit (opPref r a b)
    (fun t =>
      let h : How := { ldn := false, acq := false, cache := modField r 11 10 }
      let go := fun (u : State) (q : Ready) => sendFill h (fillUse h q) none q u
      done r ((prefLanes r a b t).foldl go t)) s

end Sys2Proof.Machine
end

