-- ==== Sys2Proof/Machine/Atom.lean ====
section
/-! DEFINITION. Atomics: ATOM (R204 to R206). -/

namespace Sys2Proof.Machine

/-! ### The operations (R204, R205) -/

/-- The new value of an atomic of `n` bytes from the old value, v and c (R204, R205). -/
def atomNew (fn n old v c : Nat) : Nat :=
  let w := 8 * n
  match fn with
  | 0 => (old + v) % 2 ^ w
  | 1 => old &&& v
  | 2 => old ||| v
  | 3 => old ^^^ v
  | 4 => if signedOf w v < signedOf w old then v else old
  | 5 => if signedOf w old < signedOf w v then v else old
  | 6 => if v < old then v else old
  | 7 => if old < v then v else old
  | 8 => v
  | 9 => if old = c then v else old
  | 10 => (fp32.add 0 0x25 0xF003 false old v).bits
  | 11 => if v ≤ old then 0 else old + 1
  | 12 => old
  | _ => v

/-- Whether the form writes memory: all but ALD. -/
def atomWrites (fn : Nat) : Bool := fn != 12

/-- The value of cells from position `o` on. -/
def cellsNat (m : Cells W64) (o n : Nat) : Nat :=
  leNat ((List.range n).map (fun i => ((m.lookup (o + i)).getD 0#64).setWidth 8))

/-! ### One lane (R206) -/

/-- The lanes of an atomic so far: the state, the loads' lanes, and the accesses sent. -/
structure AtomRun where
  st    : State
  lanes : List LaneLoad
  accs  : List Nat

/-- A lane in the scratchpad window (R201, R206). -/
def atomScratch (fn n : Nat) (v c : Nat → Nat) (x : AtomRun) (lo : Nat × Nat) : AtomRun :=
  let old := scrNat x.st.crew lo.2 n
  let cr := if atomWrites fn then scrWrite lo.2 (leBytes n (atomNew fn n old (v lo.1) (c lo.1))) x.st.crew else x.st.crew
  { st := { x.st with crew := cr },
    lanes := x.lanes ++ [{ lane := lo.1, acc := 0, off := 0, fixed := byteCells 0 (leBytes n old) }], accs := x.accs }

/-- A lane that is performed in its core, after a lane that is still on its way (R204): in the scratchpad, or on a line that
stands in L1. -/
def atomHere (fn n : Nat) (v c : Nat → Nat) (x : AtomRun) (lane line off key : Nat) (vault : Bool) (trk : Option Nat) : AtomRun :=
  let s := x.st
  let use : AccUse := .here trk.isNone fn n off (BitVec.ofNat 64 (v lane)) (BitVec.ofNat 64 (c lane))
  let a := mkAccess s.crew line key false vault trk (.read 0) use
  let b := { a with id := s.ids, wave := s.wave.widx, part := lowBit s.part.quads, off := off, sent := timeOf s,
                    pc := s.part.pc, quads := s.part.quads }
  { st := { s with net := s.net ++ [b], ids := s.ids + 1 },
    lanes := x.lanes ++ [{ lane := lane, acc := s.ids, off := 0, fixed := [] }], accs := x.accs ++ [s.ids] }

/-- The line number that stands for the scratchpad. -/
def scratchLine : Nat := 2 ^ 60

/-- A lane whose line stands in L1 at scope 0 or 1: performed there (R206); none when its store has to wait (R187). -/
def atomHit (fn n : Nat) (v c : Nat → Nat) (x : AtomRun) (q : Ready) : Option AtomRun :=
  let core := x.st.crew.core
  let old := leNat (cgetList 0#8 (getL1 x.st core (q.place.pa / 128)).data (q.place.pa % 128) n)
  let st := if atomWrites fn then
      putDirty core x.st.crew.cid q.trk q.place.key q.place.vault false q.place.pa
        (leBytes n (atomNew fn n old (v q.lane) (c q.lane))) x.st
    else some x.st
  st.map (fun t =>
    { st := t, lanes := x.lanes ++ [{ lane := q.lane, acc := 0, off := 0, fixed := byteCells 0 (leBytes n old) }],
      accs := x.accs })

/-- A lane that goes to the home: an atomic there, after the line's DIRTY bytes, and the line no longer stands FILLED; or,
at scope 0 or 1, a fill on whose arrival it is performed in L1 (R206). None when OUT has no room (R187). -/
def atomSend (far : Bool) (fn n : Nat) (v c : Nat → Nat) (x : AtomRun) (q : Ready) : Option AtomRun :=
  let line := q.place.pa / 128
  let off := q.place.pa % 128
  let vv := BitVec.ofNat 64 (v q.lane)
  let cc := BitVec.ofNat 64 (c q.lane)
  let home := far || q.place.tso || remoteLine line
  let h : How := { ldn := false, acq := false, cache := 0 }
  (if home then tryDown x.st.crew.core line x.st else some x.st).bind (fun w =>
    let t := overtake x.accs w.crew.core line w
    let a := mkAccess t.crew line q.place.key q.place.tso q.place.vault (some q.trk)
      (if home then .atomic fn n off vv cc else .read (leaseAsked h q t)) (if home then .load else .atom fn n off vv cc)
    let id := t.ids
    if outRoom t t.crew.cid q.trk then
      some { st := send { a with wave := t.wave.widx, part := lowBit t.part.quads, off := off, who := q.who } t,
             lanes := x.lanes ++ [{ lane := q.lane, acc := id, off := if home then off else 0, fixed := [] }],
             accs := x.accs ++ [id] }
    else none)

/-- One lane: at the scratchpad, or in memory where `qs` says that it goes. -/
def atomLane (far : Bool) (fn n : Nat) (v c : Nat → Nat) (qs : List Ready) (x : AtomRun) (a : LaneAcc) : Option AtomRun :=
  let h : How := { ldn := false, acq := false, cache := 0 }
  match a.tgt with
  | .scratch o =>
    some (if x.accs = [] then atomScratch fn n v c x (a.lane, o) else atomHere fn n v c x a.lane scratchLine o 0 false none)
  | _ => match qs.find? (fun q => q.lane == a.lane) with
    | none => some x
    | some q =>
      let line := q.place.pa / 128
      if !far && !q.place.tso && !remoteLine line && isHit h q n x.st then
        if x.accs = [] then atomHit fn n v c x q
        else some (atomHere fn n v c x q.lane line (q.place.pa % 128) q.place.key q.place.vault (some q.trk))
      else atomSend far fn n v c x q

/-- The lanes one after another in ascending order (R204); none when one of them has to wait. -/
def atomLanes (far : Bool) (fn n : Nat) (v c : Nat → Nat) (qs : List Ready) : List LaneAcc → AtomRun → Option AtomRun
  | [], x => some x
  | a :: t, x => (atomLane far fn n v c qs x a).bind (atomLanes far fn n v c qs t)

/-! ### The unit -/

/-- Whether the atomic is performed at the home: SCOPE 2 to 5; 4 without a MOD hint (R206). -/
def atomFar (r : Run) : Bool := !hasMod r || decide (2 ≤ scopeOf r)

/-- The operand of a lane: `n` bytes from register `d` on. -/
def laneNat (s : State) (d n l : Nat) : Nat := leNat (laneBytes s d n l)

/-- The lanes of an atomic performed in ascending order (R204). -/
def issueAtom (fn n : Nat) (r : Run) (d : BitVec 7) (m : Form) (accs : List LaneAcc) (s : State) : State :=
  let qs := readyOf m r accs s
  let v := laneNat s d.toNat n
  let c := laneNat s (opcOf r) n
  let h : How := { ldn := false, acq := false, cache := 0 }
  if atomWrites fn && (scratchOf accs).any (fun x => touchesBar s.crew x.2 n) then barrierKill s
  else if qs.any (fun q => !atomFar r && !q.place.tso && isHit h q n s &&
      poisonedL1 s (q.place.pa / 128) (q.place.pa % 128) n) then poisonKill s
  else match atomLanes (atomFar r) fn n v c qs accs { st := s, lanes := [], accs := [] } with
  | none => hold s
  | some x2 =>
    let t := x2.st
    let st : PStore :=
      { id := t.ids, wave := s.wave.widx, part := lowBit s.part.quads, accs := x2.accs, fault := none, addr := 0#64,
        lanes := 0#64, pc := s.part.pc, dreg := d.toNat, sst := false, lsz := Nat.log2 n, at_ := s.part.issued }
    let ld : Load :=
      { id := t.ids + 1, kind := .vec n false, reg := d.toNat, lanes := x2.lanes, acq := modField r 18 18 == 1,
        timer := none }
    done r { t with
      ids := t.ids + 2
      crew := { t.crew with stores := t.crew.stores ++ [st] }
      part := { t.part with loads := if fn = 13 then t.part.loads else t.part.loads ++ [ld] } }

/-- The bytes of an atomic: 4, or 8 with MOD.W64 (R204), which AADDF does not list (R190, R205). -/
def atomSize (fn : Nat) (r : Run) : Nat := if fn ≠ 10 ∧ modField r 13 13 = 1 then 8 else 4

/-- The checks of an atomic (R190, R206): ACQ or REL below cluster scope is misuse. The register pair that a 64-bit ACAS names
by OPC is checked at step 3, as R192 has it, and a single register as R63 has it (log 44). -/
def opAtom (fn mods : Nat) (cas : Bool) (r : Run) (d a b : BitVec 7) : Op :=
  let k := grp (atomSize fn r)
  let dst : Use := { reg := .v d.toNat, cnt := k, align := k, rd := fn != 12, wr := fn != 13 }
  { Op.plain (wRRR 18 r d a b fn) r 0
      ([srcS a, dst] ++ idxUse b ++ if cas && k == 2 && (payload r 3).isSome then [srcVs (opcField r) k k] else []) with
    immMax := 2, mods := some (modTRK + modSCOPE + mods),
    modOk := !(modField r 18 18 == 1 || modField r 19 19 == 1) || decide (2 ≤ scopeOf r),
    opc := if cas then some (true, srcVs (opcField r) k k) else none, width := some (0, 4) }

/-- An atomic unit (R204 to R206). -/
def atom (fn mods : Nat) (cas : Bool) (r : Run) (d a b : BitVec 7) (s : State) : Host.Outcome State Fault Refusal :=
  let n := atomSize fn r
  let m : Form := { size := n, scalar := false, rd := true, wr := true }
  unit (opAtom fn mods cas r d a b)
    (fun t => if t.part.exm = 0#64 then done r t
      else if acquiring t then hold t
      else checked m r (laneAddrs r a b (Nat.log2 n) t) (fun accs u =>
        match failing m accs u with
        | x :: l => loadFault 2 (x :: l) u
        | [] =>
          let go := issueAtom fn n r d m accs
          if modField r 19 19 = 1 then
            releaseThen r ((readyOf m r accs u).foldl (fun k q => k ||| 2 ^ q.trk) 0) (scopeOf r) go u
          else go u) t) s

/-- The MOD fields of the integer atomics. -/
def atomMods : Nat := 2 ^ 13 + modACQ + modREL

/-- AADD (R204). -/
def execAadd (r : Run) (d a b : BitVec 7) (s : State) : Host.Outcome State Fault Refusal := atom 0 atomMods false r d a b s

/-- AAND (R204). -/
def execAand (r : Run) (d a b : BitVec 7) (s : State) : Host.Outcome State Fault Refusal := atom 1 atomMods false r d a b s

/-- AOR (R204). -/
def execAor (r : Run) (d a b : BitVec 7) (s : State) : Host.Outcome State Fault Refusal := atom 2 atomMods false r d a b s

/-- AXOR (R204). -/
def execAxor (r : Run) (d a b : BitVec 7) (s : State) : Host.Outcome State Fault Refusal := atom 3 atomMods false r d a b s

/-- AMIN (R204). -/
def execAmin (r : Run) (d a b : BitVec 7) (s : State) : Host.Outcome State Fault Refusal := atom 4 atomMods false r d a b s

/-- AMAX (R204). -/
def execAmax (r : Run) (d a b : BitVec 7) (s : State) : Host.Outcome State Fault Refusal := atom 5 atomMods false r d a b s

/-- AMINN (R204). -/
def execAminn (r : Run) (d a b : BitVec 7) (s : State) : Host.Outcome State Fault Refusal := atom 6 atomMods false r d a b s

/-- AMAXN (R204). -/
def execAmaxn (r : Run) (d a b : BitVec 7) (s : State) : Host.Outcome State Fault Refusal := atom 7 atomMods false r d a b s

/-- AXCH (R204). -/
def execAxch (r : Run) (d a b : BitVec 7) (s : State) : Host.Outcome State Fault Refusal := atom 8 atomMods false r d a b s

/-- ACAS (R204): c is the OPC register or pair. -/
def execAcas (r : Run) (d a b : BitVec 7) (s : State) : Host.Outcome State Fault Refusal := atom 9 atomMods true r d a b s

/-- AADDF (R204, R205): no W64. -/
def execAaddf (r : Run) (d a b : BitVec 7) (s : State) : Host.Outcome State Fault Refusal :=
  atom 10 (modACQ + modREL) false r d a b s

/-- AINCW (R204). -/
def execAincw (r : Run) (d a b : BitVec 7) (s : State) : Host.Outcome State Fault Refusal := atom 11 atomMods false r d a b s

/-- ALD (R204): no REL. -/
def execAld (r : Run) (d a b : BitVec 7) (s : State) : Host.Outcome State Fault Refusal :=
  atom 12 (2 ^ 13 + modACQ) false r d a b s

/-- AST (R204): no ACQ; v[D] keeps its value. -/
def execAst (r : Run) (d a b : BitVec 7) (s : State) : Host.Outcome State Fault Refusal :=
  atom 13 (2 ^ 13 + modREL) false r d a b s

end Sys2Proof.Machine
end

