-- ==== Sys2Proof/Machine/Queues.lean ====
section
/-! DEFINITION. Command queues and their headers (R359, R360), and Ember's samplers (R414). -/

namespace Sys2Proof.Machine

/-! ### Queue headers (R359) -/

/-- Where a queue's header and ring are read and written: a context's translation, or physically for the admin queue
(R401). -/
abbrev Via := Option Nat

/-- Whether every byte of a range can be reached, with rights. -/
def viaOk (s : State) (v : Via) (a n : Nat) (rd w : Bool) : Bool :=
  match v with
  | some c => ctxOk s c a n rd w
  | none => physOk s a n

/-- Bytes read at their homes; none where a byte cannot be reached. -/
def viaRead (s : State) (v : Via) (a n : Nat) : Option (List Byte) :=
  match v with
  | some c => ctxRead s c a n
  | none => if viaOk s none a n true false then some (memRead s 0 a n) else none

/-- A queue header as it is read (R359): RING, LOGSZ, DEV, TAIL, HEAD; none where it breaks R359. -/
structure QHead where
  ring  : Nat
  logsz : Nat
  dev   : Bool
  tail  : Nat
  head  : Nat
  deriving DecidableEq, Repr

def qheadOf (b : List Byte) : Option QHead :=
  let w := fun (i : Nat) => word64 b i
  let ok := bfield (w 0) 5 0 == 0 && bfield (w 1) 63 17 == 0 && decide (4 ≤ bfield (w 1) 15 0 ∧ bfield (w 1) 15 0 ≤ 16)
    && bfield (w 4) 63 1 == 0 && w 5 == 0#64 && w 6 == 0#64 && w 7 == 0#64
  if ok then some { ring := (w 0).toNat, logsz := bfield (w 1) 15 0, dev := (w 1).getLsbD 16, tail := (w 2).toNat,
                    head := (w 3).toNat }
  else none

/-- The header at an address. -/
def qheadAt (s : State) (v : Via) (h : Nat) : Option QHead := (viaRead s v h 64).bind qheadOf

/-- The address of record `i` of a ring. -/
def ringAddr (q : QHead) (i : Nat) : Nat := q.ring + 64 * (i % 2 ^ q.logsz)

/-- The header of the last MAPQ of a queue in a context (R364). -/
def queueHdr (s : State) (ctx q : Nat) : Option W64 := (getCtx s ctx).bind (fun c => c.queues.lookup q)

/-! ### Notifies (R360) -/

/-- PEND of a header written. -/
def setPend (v : Via) (h : Nat) (on : Bool) (s : State) : State :=
  if viaOk s v (h + 0x20) 8 true true then
    viaWrite v (h + 0x20) [BitVec.ofNat 8 (((viaRead s v (h + 0x20) 1).map leNat).getD 0 / 2 * 2 + on.toNat)] s
  else s

/-- A notify to a slot (R360): a mapped slot is served; one that was mapped before sets PEND in its last header; one that
never was ignores it. -/
def notifySlot (i : Nat) (s : State) : State :=
  let x := getSlot s i
  if x.mapped then setSlot s i { x with serving := !x.broken }
  else if x.known = false then s
  else setPend (some x.ctx) x.hdr.toNat true s

/-- A notify to a queue of a context. -/
def notifyQueue (ctx q : Nat) (h : W64) (s : State) : State :=
  match slotOf s ctx q with
  | some i => notifySlot i s
  | none => setPend (some ctx) h.toNat true s

/-! ### Ember (R414) -/

def getEmber (s : State) (core seq : Nat) : Ember := cget Ember.reset (getCore s core).ember seq

def setEmber (core seq : Nat) (e : Ember) (s : State) : State :=
  setCore s core { getCore s core with ember := cset Ember.reset (getCore s core).ember seq e }

/-- One step of the Galois LFSR. -/
def lfsrStep (x : W32) : W32 := if x.getLsbD 0 then (x >>> 1) ^^^ 0x80200003#32 else x >>> 1

/-- A draw: 32 steps, and the interval N + (state mod N) with N = 2^k. -/
def drawEmber (k : Nat) (e : Ember) : Ember :=
  let x := (List.range 32).foldl (fun (y : W32) _ => lfsrStep y) e.lfsr
  { e with lfsr := x, count := 0, interval := 2 ^ k + x.toNat % 2 ^ k }

/-- The words that name a crew's part in a record (R415, R418). -/
def partWord (c : Crew) (wave part : Nat) : Nat := c.ref % 2 ^ 16 * 2 ^ 48 + wave % 32 * 2 ^ 43 + part % 16 * 2 ^ 39

end Sys2Proof.Machine
end

