-- ==== Sys2Proof/Machine/Commands.lean ====
section
/-! DEFINITION. What every command shares (R400 to R403): its record's fields, the queue it comes from, the checks before
it has any effect, and its completion; the pages of a range, and the rights of a command over them. -/

namespace Sys2Proof.Machine

/-! ### The record (R400) -/

/-- Word `i` of a record, at offset 8 i. -/
def Cmd.word (c : Cmd) (i : Nat) : W64 := (c.words[i]?).getD 0#64

/-- The command code. -/
def Cmd.code (c : Cmd) : Nat := bfield (Cmd.word c 0) 7 0

/-- The form. -/
def Cmd.form (c : Cmd) : Nat := bfield (Cmd.word c 0) 39 32

/-- The queue that a command comes from: a context's, or the admin queue (R401). -/
def cmdVia (s : State) (c : Cmd) : Via := if c.slot = 0 then none else some (getSlot s c.slot).ctx

/-- Where a command is accepted from (R401). -/
inductive Origin where
  | admin
  | user
  | both
  deriving DecidableEq, Repr

/-- Whether a queue of this kind may bring the command. -/
def Origin.allows (o : Origin) (v : Via) : Bool :=
  match o, v with
  | .admin, none => true
  | .user, some _ => true
  | .both, _ => true
  | _, _ => false

/-- Whether Lamplighter takes commands from the slot: the package is ready, and a context's queue is mapped there and its
context runs (R360, R374, R398). -/
def takes (s : State) (c : Cmd) : Bool :=
  s.pkg.booted && s.pkg.powered && !s.pkg.halted &&
    (c.slot == 0 || ((getSlot s c.slot).mapped && (match getCtx s (getSlot s c.slot).ctx with
      | some x => x.preempt == 0
      | none => false)))

/-- The completion of a command (R400). -/
def reply (c : Cmd) (status : Nat) (result : W64) (s : State) : State :=
  complete c.slot (cmdVia s c) (Cmd.word c 0) (Cmd.word c 1) status result s

/-- Whether a payload sets only the bits that the command names: `used` gives the mask of each of the words 2 to 7
(R400, R403). -/
def payloadOk (c : Cmd) (used : List W64) : Bool :=
  (List.range 6).all (fun i => Cmd.word c (i + 2) &&& ~~~ ((used[i]?).getD 0#64) == 0#64)

/-- A command (R400, R401): a CPLA that is neither 0 nor a multiple of 16 leaves only the vector; an invalid record
completes with STATUS 1, one from the wrong queue with STATUS 2; then `f` performs it. -/
def command (c : Cmd) (code form : Nat) (o : Origin) (used : List W64) (f : State → State) (s : State) :
    Host.Outcome State Fault Refusal :=
  .next (if takes s c = false ∨ Cmd.code c ≠ code ∨ Cmd.form c ≠ form then s
    else if bfield (Cmd.word c 1) 3 0 ≠ 0 then msix c.slot s
    else if bfield (Cmd.word c 0) 47 40 ≠ 0 ∨ bfield (Cmd.word c 0) 31 8 ≠ 0 then reply c 1 0#64 s
    else if o.allows (cmdVia s c) = false then reply c 2 0#64 s
    else if payloadOk c used = false then reply c 1 0#64 s
    else f s)

/-- The context that a command of both kinds acts on: its queue's, or the one that the payload names (R401). -/
def actsOn (s : State) (c : Cmd) (named : Nat) : Nat :=
  match cmdVia s c with
  | some x => x
  | none => named

/-- A command on a context that exists; otherwise STATUS 3 (R401). -/
def onCtx (c : Cmd) (ctx : Nat) (f : Ctx → State → State) (s : State) : State :=
  match getCtx s ctx with
  | some x => f x s
  | none => reply c 3 0#64 s

/-- The admin queue waits until the command under way completes (R402). -/
def holdSlot (slot : Nat) (words : List W64) (s : State) : State := setSlot s slot { getSlot s slot with held := some words }

/-- The tag by which a command under way is completed. -/
def cmdTag (s : State) (c : Cmd) : CmdTag :=
  { slot := c.slot, queue := (getSlot s c.slot).queue, word0 := Cmd.word c 0, cpla := Cmd.word c 1 }

/-! ### Ranges -/

/-- Whether every page of a range of a context's addresses has the rights asked for, or every byte of a physical range is
memory (R400). -/
def rangeOk (s : State) (v : Via) (a n : Nat) (rd w : Bool) : Bool :=
  match v with
  | some ctx => decide (a + n ≤ 2 ^ 56) && (pagesOf s ctx rd w n a (a + n)).isSome
  | none => decide (a + n ≤ 2 ^ 52) && (List.range (ceilDiv n 64 + 1)).all (fun i => isMem s (min (a + 64 * i) (a + n - 1)))

/-- Bytes written to a command's output. -/
def putOut (v : Via) (a : Nat) (bs : List Byte) (s : State) : State := viaWrite v a bs s

end Sys2Proof.Machine
end

