-- ==== Sys2Proof/Machine/Handles.lean ====
section
/-! DEFINITION. Tensor handles (R392 to R394, R405): tiers and their space, migrations, and the HANDLE commands. -/

namespace Sys2Proof.Machine

/-! ### Handles and grants -/

def getHandle (s : State) (ctx hdl : Nat) : Option Handle := (getCtx s ctx).bind (fun c => cget none c.handles hdl)

def setHandle (ctx hdl : Nat) (h : Option Handle) (s : State) : State :=
  updCtx s ctx (fun c => { c with handles := cset none c.handles hdl h })

/-- Whether a handle is granted to a launch that holds its grants (R393). -/
def isGranted (s : State) (ctx hdl : Nat) : Bool :=
  s.launches.any (fun l => l.started && l.ctx == ctx && l.grants.any (fun g => g.hdl == some hdl))

/-! ### Space (R393) -/

/-- Every live handle, with its context and number. -/
def allHandles (s : State) : List (Nat × Nat × Handle) :=
  s.ctxs.flatMap (fun (c, x) => match x with
    | some y => y.handles.filterMap (fun (n, h) => h.map (fun z => (c, n, z)))
    | none => [])

/-- Whether a handle stands in a tier, and for tiers 0 and 1 in a vault. -/
def inTier (tier vault : Nat) (h : Handle) : Bool := h.tier == tier && (decide (2 ≤ tier) || h.vault == vault)

/-- The bytes of a tier: a vault's SRAM, a vault's DRAM, GDDR 7; host memory has no limit of its own (R287). -/
def tierSize (tier : Nat) : Option Nat :=
  match tier with
  | 0 => some (192 * 2 ^ 20)
  | 1 => some (9 * 2 ^ 30)
  | 2 => some (192 * 2 ^ 30)
  | _ => none

/-- Whether a tier has room for `n` further bytes of handles. -/
def tierRoom (s : State) (tier vault n : Nat) : Bool :=
  match tierSize tier with
  | none => true
  | some m => decide (((allHandles s).map (fun x => if inTier tier vault x.2.2 then x.2.2.extent else 0)).sum + n ≤ m)

/-- The bytes that a handle's blocks read as under its own key, and its tags dropped: what stands in its space after its
lines have moved (R394). Where KEYSET has changed the key since the space was placed, those are all of its blocks. -/
def settleSpace (ctx hdl : Nat) (h : Handle) (s : State) : State :=
  let base := handlePa ctx hdl
  let mine := fun (b : Nat) => decide (base ≤ 32 * b ∧ 32 * b < base + 2 ^ 52)
  let blocks := if h.wkey = keyVal s h.key then (s.memsys.keyed.map (·.1)).filter mine
    else (List.range (ceilDiv h.extent 32)).map (fun i => base / 32 + i)
  let stale := blocks.filter (fun b => encrypted s (32 * b) && (blockTag s b).2 != keyVal s h.key)
  let bytes := stale.foldl (fun (m : Memory) b => csetList 0#8 m (32 * b) (readBlock s h.key b)) s.memsys.bytes
  { s with memsys := { s.memsys with bytes := bytes, keyed := s.memsys.keyed.filter (fun x => !mine x.1) } }

/-- The horizons of a handle's new homes: none starts below those of its old homes (R394). -/
def carryFloors (old new : Nat → Bool) (s : State) : State :=
  let top := (List.range 32).foldl (fun m v => if old v then max m (cget 0 s.memsys.floors v) else m) 0
  let put := fun (m : Cells Nat) (v : Nat) => if new v then cset 0 m v (max (cget 0 m v) top) else m
  { s with memsys := { s.memsys with floors := (List.range 32).foldl put s.memsys.floors } }

/-- A handle's lines moved to a tier and vault (R394): values, coherence order and leases go on; the transfers are charged
to the context's account (R293). -/
def moveHandle (ctx hdl tier vault : Nat) (s : State) : State :=
  match getHandle s ctx hdl with
  | none => s
  | some h =>
    let t := settleSpace ctx hdl h s
    let homes := fun (k v x : Nat) => decide (2 ≤ k) || x == v
    let u := carryFloors (homes h.tier h.vault) (homes tier vault) t
    let n := 128 * ceilDiv h.extent 128
    setHandle ctx hdl (some { h with
      tier := tier, vault := if tier < 2 then vault else 0, wkey := keyVal s h.key }) (charge (charge u ctx 3 n) ctx 4 n)

/-- The handles of a tier that may be demoted, in the order of R393; `keep` are handles about to be granted, by context and
number. -/
def demotable (keep : List (Nat × Nat)) (s : State) (tier vault : Nat) : List (Nat × Nat × Handle) :=
  let ok := fun (x : Nat × Nat × Handle) =>
    inTier tier vault x.2.2 && !x.2.2.pinned && x.2.2.moving.isEmpty &&
      !(tier == 2 && (isGranted s x.1 x.2.1 || keep.contains (x.1, x.2.1)))
  sortBy (fun a b =>
    decide (a.2.2.prio < b.2.2.prio) || (a.2.2.prio == b.2.2.prio && decide (a.2.2.granted ≤ b.2.2.granted))) ((allHandles s).filter ok)

/-- Space for `n` bytes in a tier: unpinned handles are demoted one tier down, in ascending PRIO and then least recently
granted, until there is room; none where no such order frees it (R393). A demotion has moved every line when the space is
used (log 22). -/
def makeSpace (keep : List (Nat × Nat)) : Nat → Nat → Nat → Nat → State → Option State
  | 0, _, _, _, _ => none
  | fuel + 1, tier, vault, n, s =>
    if tierRoom s tier vault n then some s
    else if match tierSize tier with
      | some m => decide (m < n)
      | none => false then none
    else
      let down := fun (acc : Option State) (x : Nat × Nat × Handle) => acc.bind (fun t =>
        if tierRoom t tier vault n then some t
        else (makeSpace keep fuel (tier + 1) vault x.2.2.extent t).map (moveHandle x.1 x.2.1 (tier + 1) vault))
      ((demotable keep s tier vault).foldl down (some s)).bind (fun t => if tierRoom t tier vault n then some t else none)

/-- Space in a tier, over at most four tiers. -/
def spaceFor (keep : List (Nat × Nat)) (tier vault n : Nat) (s : State) : Option State := makeSpace keep 4 tier vault n s

/-! ### Migrations (R394) -/

/-- A migration asked for: it runs, or waits behind those of the same handle. -/
def startMove (ctx hdl tier vault : Nat) (tag : Option CmdTag) (s : State) : State :=
  match getHandle s ctx hdl with
  | none => s
  | some h => setHandle ctx hdl (some { h with moving := h.moving ++ [(tier, vault, tag)] }) s

/-- MULT, CLOSED and HEAD of a vault (R345). -/
def talw (s : State) (v : Nat) : W64 := (cget Vault.reset s.vaults v).talw

/-- Whether a vault is closed (R344). -/
def closedVault (s : State) (v : Nat) : Bool := (talw s v).getLsbD 31

/-- Whether a migration would promote a handle into the SRAM or the DRAM of a closed vault (R344). -/
def shutOut (s : State) (tier vault : Nat) (h : Handle) : Bool :=
  decide (tier < 2) && decide (tier < h.tier) && closedVault s vault

/-- HANDLE_MIGRATION_END (R394): the last line of the migration under way has moved and the translations are switched.
A migration waits for space, one to host memory while the handle is granted (R393), and a promotion into a vault while that is
closed (R344). -/
def execHandleMigrationEnd (ctx hdl : Nat) (s : State) : Host.Outcome State Fault Refusal :=
  .next (match getHandle s ctx hdl with
    | none => s
    | some h => match h.moving with
      | [] => s
      | (tier, vault, tag) :: rest =>
        if (tier = 3 ∧ isGranted s ctx hdl = true) ∨ shutOut s tier vault h = true then s
        else
          let room := if inTier tier vault h then some s else spaceFor [] tier vault h.extent s
          match room with
          | none => s
          | some t =>
            let u := moveHandle ctx hdl tier vault t
            let v := match getHandle u ctx hdl with
              | some x => setHandle ctx hdl (some { x with moving := rest }) u
              | none => u
            match tag with
            | some k => endCommand k (some ctx) 0 0#64 v
            | none => v)

/-! ### HANDLE (R403, R405) -/

/-- The dimensions of a create. -/
def createDims (c : Cmd) : List Nat :=
  [bfield (Cmd.word c 5) 31 0, bfield (Cmd.word c 5) 63 32, bfield (Cmd.word c 6) 31 0, bfield (Cmd.word c 6) 63 32]

/-- Whether the fields of a create keep their limits (R392). -/
def createOk (c : Cmd) : Bool :=
  let p := Cmd.word c 2
  let base := (Cmd.word c 3).toNat
  let ext := (Cmd.word c 4).toNat
  let nd := bfield p 33 32 + 1
  let dims := createDims c
  bfield p 13 12 != 3 && base % 2 ^ 18 == 0 && decide (ext < 2 ^ 40) && decide (base + ext ≤ 2 ^ 56) &&
    dims.all (· != 0) && (dims.drop nd).all (· == 1) && decide (dims.foldl (· * ·) (2 ^ bfield p 13 12) ≤ ext)

/-- The handle that a create describes. -/
def createdHandle (s : State) (ctx : Nat) (c : Cmd) : Handle :=
  let p := Cmd.word c 2
  let tier := bfield p 25 24
  { base := (Cmd.word c 3).toNat, extent := (Cmd.word c 4).toNat, ndim := bfield p 33 32 + 1, dims := createDims c,
    esz := bfield p 13 12, format := bfield p 19 16, prio := bfield p 22 20, tier := tier,
    vault := if tier < 2 then bfield p 30 26 else 0, pinned := p.getLsbD 23, key := bfield p 49 40,
    pa := handlePa ctx (bfield p 11 0), wkey := keyVal s (bfield p 49 40), granted := 0, moving := [], lastMv := 0 }

/-- A handle destroyed (R405): its memory is freed; in the model the bytes of its space are dropped (log 6). -/
def destroyHandle (ctx hdl : Nat) (s : State) : State :=
  let base := handlePa ctx hdl
  let out := fun (a : Nat) => !(decide (base ≤ a ∧ a < base + 2 ^ 52))
  setHandle ctx hdl none { s with memsys := { s.memsys with
    bytes := s.memsys.bytes.filter (fun x => out x.1), keyed := s.memsys.keyed.filter (fun x => out (32 * x.1)),
    poison := s.memsys.poison.filter (fun x => out (32 * x.1)) } }

/-- HANDLE create (R405). A create that needs space waits for it (R393), and so does the end of a handle that migrates. -/
def execHandleCreate (c : Cmd) (s : State) : Host.Outcome State Fault Refusal :=
  command c 0x07 0 .user [0x0003FF037FFF3FFF#64, -1#64, -1#64, -1#64, -1#64]
    (fun t =>
      let ctx := (getSlot t c.slot).ctx
      let hdl := bfield (Cmd.word c 2) 11 0
      let old := getHandle t ctx hdl
      let u := freeSlot c.slot t
      if Cmd.word c 4 = 0#64 then match old with
        | none => reply c 0 0#64 u
        | some h =>
          if isGranted t ctx hdl then reply c 3 0#64 u
          else if h.moving ≠ [] then holdSlot c.slot c.words t
          else reply c 0 0#64 (destroyHandle ctx hdl u)
      else if createOk c = false then reply c 1 0#64 u
      else
        let h := createdHandle t ctx c
        let clash := (allHandles t).any (fun x => x.1 == ctx &&
          decide (x.2.2.base < h.base + h.extent ∧ h.base < x.2.2.base + x.2.2.extent))
        if old.isSome ∨ clash = true then reply c 3 0#64 u
        else match spaceFor [] h.tier h.vault h.extent u with
          | none => holdSlot c.slot c.words t
          | some v => reply c 0 0#64 (setHandle ctx hdl (some h) v)) s

/-- A HANDLE command on a live handle (R405). -/
def onHandle (c : Cmd) (f : Nat → Nat → Handle → State → State) (s : State) : State :=
  let ctx := (getSlot s c.slot).ctx
  let hdl := bfield (Cmd.word c 2) 11 0
  match getHandle s ctx hdl with
  | some h => f ctx hdl h s
  | none => reply c 3 0#64 s

/-- HANDLE priority (R405). -/
def execHandlePriority (c : Cmd) (s : State) : Host.Outcome State Fault Refusal :=
  command c 0x07 1 .user [0x0000000000700FFF#64]
    (onHandle c (fun ctx hdl h t =>
      reply c 0 0#64 (setHandle ctx hdl (some { h with prio := bfield (Cmd.word c 2) 22 20 }) t))) s

/-- HANDLE migrate (R394, R405): under way until HANDLE_MIGRATION_END; a granted handle does not go to tier 3. -/
def execHandleMigrate (c : Cmd) (s : State) : Host.Outcome State Fault Refusal :=
  command c 0x07 2 .user [0x000000007F000FFF#64]
    (onHandle c (fun ctx hdl _ t =>
      let tier := bfield (Cmd.word c 2) 25 24
      if tier = 3 ∧ isGranted t ctx hdl = true then reply c 3 0#64 t
      else holdSlot c.slot [] (startMove ctx hdl tier (bfield (Cmd.word c 2) 30 26) (some (cmdTag t c)) t))) s

/-- HANDLE evict (R393): a migration to host memory; a granted handle is refused, and so is a pinned one, which HANDLE migrate
alone moves (R392; log 59). -/
def execHandleEvict (c : Cmd) (s : State) : Host.Outcome State Fault Refusal :=
  command c 0x07 3 .user [0x0000000000000FFF#64]
    (onHandle c (fun ctx hdl h t =>
      if isGranted t ctx hdl || h.pinned then reply c 3 0#64 t
      else holdSlot c.slot [] (startMove ctx hdl 3 0 (some (cmdTag t c)) t))) s

end Sys2Proof.Machine
end

