-- ==== Sys2Proof/Machine/Copy.lean ====
section
/-! DEFINITION. Asynchronous copies, buffer handles and the operand queues' reads: COPY (R220 to R239, R248), with the
steps of the copy engine. -/

namespace Sys2Proof.Machine

/-! ### Handles (R220 to R222) -/

/-- The words' accepted states (R221). -/
def bufAccepts (hmode : Nat) (b : Buf) : Bool :=
  match hmode with
  | 0 => true
  | 1 => b.state == 0 || b.state == 1
  | _ => b.state == 2 || b.state == 3

/-- A copy takes its handle (R221). -/
def takeBuf (hmode n : Nat) (c : Crew) : Crew :=
  if hmode = 0 then c
  else setBuf c n { getBuf c n with count := (getBuf c n).count + 1, state := if hmode = 1 then 1 else 3 }

/-- A completion on a handle (R222). -/
def leaveBuf (hmode n : Nat) (c : Crew) : Crew :=
  if hmode = 0 then c
  else
    let b := getBuf c n
    let k := b.count - 1
    setBuf c n { b with count := k, state := if k ≠ 0 then b.state else if hmode = 1 then 2 else 0 }

/-! ### The copy control word (R224) -/

/-- The control word of the IMM24 hint. -/
def ctlOf (r : Run) : Nat := (payload r 0).getD 0

def ctlCwr (w : Nat) : Nat := w / 2 ^ 19 % 32
def ctlCw (w : Nat) : Bool := w / 2 ^ 18 % 2 == 1
def ctlHmode (w : Nat) : Nat := w / 2 ^ 16 % 4
def ctlHnd (w : Nat) : Nat := w / 2 ^ 10 % 64
def ctlOpx (w : Nat) : Nat := w % 16

/-- The control words that every copy refuses (R224). -/
def ctlOk (w : Nat) : Bool :=
  ctlCwr w != 31 && (ctlCw w || ctlCwr w == 0) && ctlHmode w != 3 && (ctlHmode w != 0 || ctlHnd w == 0) && w / 2 ^ 4 % 64 == 0

/-- The registers of the completion word. -/
def cwUses (w : Nat) : List Use :=
  if ctlCw w then [srcS (BitVec.ofNat 7 (2 * ctlCwr w)), srcS (BitVec.ofNat 7 (2 * ctlCwr w + 1))] else []

/-- The checks of a copy (R224, R172): one IMM24 hint, MOD with TRK alone, a handle number below n. -/
def opCopy (fn : Nat) (r : Run) (d a b : BitVec 7) (opxOk : Bool) (uses : List Use) (s : State) : Op :=
  let w := ctlOf r
  { Op.plain (wRRR 20 r d a b fn) r 0 (uses ++ cwUses w) with
    lims := ctlHmode w == 0 || ctlHmode w == 3 || decide (ctlHnd w < s.crew.nbuf),
    immMin := 1, immMax := 1, immOk := ctlOk w && opxOk, mods := some modTRK,
    opc := if fn = 0 then some (true, srcS (opcField r)) else none }

/-! ### The start of a copy (R225) -/

/-- The tracker of a line of a copy, from an address in it (R233): the one that MOD names, or the match for the line's address
(R186) with the bindings at its issue. -/
def Copy.tracker (s : State) (c : Copy) (a : Nat) : Nat :=
  match c.trk with
  | some t => t
  | none => trkMatch { s.crew with trk := c.bound } (steer s none (BitVec.ofNat 64 (a / 128 * 128)) 1)

/-- The trackers that a copy's writes update. -/
def Copy.writeTrks (s : State) (c : Copy) : List Nat :=
  let dsts := (List.range (c.len s)).filterMap (fun n => match c.dst s n with
    | some (.mem a) => some (c.tracker s a)
    | _ => none)
  (dsts ++ if c.ordered then [c.tracker s (c.word 3).toNat] else []).eraseDups

/-- Whether L1 holds DIRTY bytes of the crew in focus in a line. -/
def ownDirty (s : State) (line : Nat) : Bool :=
  (getL1 s s.crew.core line).owner == s.crew.cid && (getL1 s s.crew.core line).dirty != 0#128

/-- The write-down of the crew's DIRTY bytes in a line that a copy is about to touch (R233), as soon as OUT has room for it
(R187). -/
def downFor (ord line : Nat) (s : State) : State :=
  if ownDirty s line then
    match tryDown s.crew.core line s with
    | none => s
    | some t =>
      let mark := fun (a : Access) => if a.id = s.ids then { a with use := .ahead ord } else a
      { t with net := t.net.map mark }
  else s

/-- A copy that has passed its checks starts (R225, R233): its first write-downs leave, its destination lines become
engine-owned, and its handle moves. -/
def startCopy (c : Copy) (s : State) : State :=
  let c1 := { c with trks := c.writeTrks s }
  let lines := ((c1.dstLines s) ++ (c1.dstLines s).flatMap (c1.srcLines s)).eraseDups
  let t := (lines.filter (fun l => l < 2 ^ 60)).foldl (fun t l => downFor c1.ord l t) s
  let u := ownLines c1 t
  let cr := takeBuf c1.hmode (c1.hnd.getD 0) u.crew
  { u with crew := { cr with copies := cr.copies ++ [c1], copyOrd := (cr.copyOrd + 1) % 2 ^ 32 } }

/-- The bounds of a region that a copy reads or writes (R225 step 3): whether they hold. -/
def regionOk (s : State) (c : Copy) : Bool :=
  let size := (getBuf s.crew (c.hnd.getD 0)).size
  if c.hmode = 0 || c.badDesc s then true
  else match c.fn with
    | 1 => decide ((c.word 1).toNat +
        (if c.planes = 0 then c.box.esz * c.box.count else 4 * c.planes * ceilDiv c.box.count 32) ≤ size)
    | 2 => decide ((c.word 1).toNat + 4 * c.count ≤ size)
    | _ => c.lanes.all (fun x => decide ((if c.hmode = 1 then x.2.2 else x.2.1).toNat + c.size ≤ size))

/-- The generic addresses that a copy forms, with the bytes from there on (R173). -/
def Copy.addrs (s : State) (c : Copy) : List (W64 × Nat) :=
  if c.badDesc s then []
  else match c.fn with
    | 1 => if c.hmode = 0 then [(c.word 1, c.box.esz * c.box.count)] else []
    | 2 => (c.word 0, 4 * c.count) :: (if c.hmode = 2 then [] else [(c.word 1, 4 * c.count)])
    | _ => c.lanes.flatMap (fun x =>
      (if c.hmode = 2 then [] else [(x.2.1, c.size)]) ++ (if c.hmode = 1 then [] else [(x.2.2, c.size)]))

/-- The first address outside the global and vault windows (R226, R233). -/
def Copy.astray (s : State) (c : Copy) : Option W64 :=
  ((c.addrs s).find? (fun x => match steer s none x.1 x.2 with
    | .glob .. => false
    | .vault .. => false
    | _ => true)).map (·.1)

/-- A copy as its word captures it (R225). -/
def captured (fn : Nat) (r : Run) (desc : List Byte) (lanes : List (Nat × W64 × W64)) (size : Nat) (s : State) : Copy :=
  let w := ctlOf r
  { ord := s.crew.copyOrd, fn := fn, ctl := w, trk := if modField r 20 20 = 1 then some (modField r 9 6) else none,
    trks := [], bound := s.crew.trk, hnd := if ctlHmode w = 0 then none else some (ctlHnd w),
    cwOff := if ctlCw w then (rdS s (2 * ctlCwr w)).toNat else 0,
    cwVal := if ctlCw w then rdS s (2 * ctlCwr w + 1) else 0#64, desc := desc, lanes := lanes, size := size, lines := [],
    phase := 0, poll := 0, ct := 0, squash := false, slice := false }

/-- Whether the copy engine has no place for one more copy (R188): copies that wait for their replay come first. -/
def fullEngine (s : State) : Bool := decide (64 ≤ copiesOn s s.crew.core + squashedOn s s.crew.core)

/-- Steps 2 to 4 of R225, and the start; the window of each address is checked with the bounds (log 45). -/
def beginCopy (f : State → State) (descAt : Option W64) (c : Copy) (s : State) : State :=
  if !bufAccepts c.hmode (getBuf s.crew (c.hnd.getD 0)) then hold s
  else if c.hasCw ∧ s.crew.scr < c.cwOff + 8 then aperture (BitVec.ofNat 64 c.cwOff) s
  else match descAt.filter (fun a => decide (s.crew.scr < a.toNat + 64)) with
    | some a => aperture a s
    | none =>
      if !regionOk s c then aperture 0#64 s
      else match c.astray s with
        | some a => aperture a s
        | none => if fullEngine s then hold s else f (startCopy c s)

/-- Step 1 of R225 for the completion word. -/
def cwAligned (r : Run) (c : Copy) (f : State → State) (s : State) : State :=
  if c.hasCw ∧ c.cwOff % 8 ≠ 0 then misaligned 8 (BitVec.ofNat 64 c.cwOff) r s else f s

/-! ### The end of a copy (R234) -/

/-- A copy's completion: the completion word, then the handle (R234, R222). A completion word on a barrier word kills
the crew (R180). -/
def finishCopy (c : Copy) (s : State) : State :=
  if c.hasCw && touchesBar s.crew c.cwOff 8 then
    killCrew false (engineKill 0x0C 0#64 (BitVec.ofNat 64 c.cwOff) 0#64 []) s
  else
    let c1 := if c.hasCw then scrWrite c.cwOff (bytes64 c.cwVal) s.crew else s.crew
    let c2 := leaveBuf c.hmode (c.hnd.getD 0) c1
    { s with crew := { c2 with copies := c2.copies.filter (fun (x : Copy) => x.ord != c.ord) },
             net := s.net.filter (fun a => !(a.crew == s.crew.cid && a.use == .copy c.ord)) }

/-! ### CPYL, CPYT, CPYR -/

/-- The lanes of a CPYL with source and destination (R226). -/
def cpylLanes (r : Run) (d a b : BitVec 7) (s : State) : List (Nat × W64 × W64) :=
  (activeLanes s).map (fun l => (l, addrV { r with hints := [] } a b 0 l s,
    addrV { r with hints := [] } (opcField r) d 0 l s))

/-- CPYL (R226). With no active lane it completes in its cycle, among the copy completions (R222). -/
def execCpyl (r : Run) (d a b : BitVec 7) (s : State) : Host.Outcome State Fault Refusal :=
  unit (opCopy 0 r d a b (decide (ctlOpx (ctlOf r) ≤ 2)) ([srcS a] ++ idxUse d ++ idxUse b) s)
    (fun t =>
      let size := 4 * 2 ^ ctlOpx (ctlOf r)
      let lanes := cpylLanes r d a b t
      let c := captured 0 r [] lanes size t
      let bad := lanes.filter (fun x => x.2.1.toNat % size != 0 || x.2.2.toNat % size != 0)
      cwAligned r c (fun u =>
        match bad with
        | x :: _ =>
          trap { cause := 0x03, lanes := maskOf (fun l => bad.any (fun y => y.1 == l)), info := BitVec.ofNat 64 size,
                 addr := if x.2.1.toNat % size ≠ 0 then x.2.1 else x.2.2 } r u
        | [] => beginCopy (done r) none c u) t) s

/-- The descriptor of a CPYT or a CPYR at s[A]. -/
def descOf (s : State) (a : BitVec 7) : List Byte := scrRead s.crew (sreg s a).toNat 64

/-- A copy with a descriptor (R225, R285). -/
def descCopy (fn : Nat) (r : Run) (a : BitVec 7) (c : Copy) (s : State) : State :=
  cwAligned r c (fun u =>
    if (sreg u a).toNat % 64 ≠ 0 then misaligned 64 (sreg u a) r u
    else beginCopy (done r) (some (sreg u a)) { c with fn := fn } u) s

/-- The IMM24 hint whose value is not accepted (R72 step 5). -/
def misuseImm (r : Run) (s : State) : State :=
  trap (rejectTrap { cause := 0x0E, step := 5, word := (r.ofKind 0).head?.elim 0#32 encodeHint } s) r s

/-- CPYT (R228, R229): plane conversion goes with HMODE 1 and DIR 0 only. -/
def execCpyt (r : Run) (a : BitVec 7) (s : State) : Host.Outcome State Fault Refusal :=
  let opx := ctlOpx (ctlOf r)
  unit (opCopy 1 r 0#7 a 0#7 (opx == 0 || (decide (2 ≤ opx ∧ opx ≤ 8) && ctlHmode (ctlOf r) == 1)) [srcS a] s)
    (fun t =>
      let c := captured 1 r (descOf t a) [] 0 t
      if opx ≠ 0 ∧ (sreg t a).toNat % 64 = 0 ∧ (sreg t a).toNat + 64 ≤ t.crew.scr ∧ c.box.dir = true then misuseImm r t
      else descCopy 1 r a c t) s

/-- CPYR (R230, R231). -/
def execCpyr (r : Run) (a : BitVec 7) (s : State) : Host.Outcome State Fault Refusal :=
  unit (opCopy 2 r 0#7 a 0#7 (ctlOpx (ctlOf r) % 8 != 7 && ctlHmode (ctlOf r) != 1) [srcS a] s)
    (fun t => descCopy 2 r a (captured 2 r (descOf t a) [] 0 t) t) s

/-! ### Progress of a copy (R233, R286) -/

/-- The step of a reduce-copy: op(d, s) (R231). -/
def reduceOp (op d x : Nat) : Nat :=
  match op with
  | 0 => (d + x) % 2 ^ 32
  | 1 => wrapTo 32 (clampInt (signedOf 32 d + signedOf 32 x) (-(2 ^ 31)) (2 ^ 31 - 1))
  | 2 => (fp32.add 0 0x24 0xF001 false d x).bits
  | 3 => if signedOf 32 x < signedOf 32 d then x else d
  | 4 => if signedOf 32 d < signedOf 32 x then x else d
  | 5 => (fp32.minmax false d x).bits
  | _ => (fp32.minmax true d x).bits


/-- The copy with a number. -/
def findCopy (s : State) (ord : Nat) : Option Copy := s.crew.copies.find? (fun c => c.ord == ord)

def updCopy (ord : Nat) (f : Copy → Copy) (s : State) : State :=
  { s with crew := { s.crew with copies := updIf (fun (c : Copy) => c.ord == ord) f s.crew.copies } }

/-- The payload bytes of a line, with their offsets in it. -/
def Copy.piece (s : State) (c : Copy) (line : Nat) : List (Nat × Nat) :=
  (List.range (c.len s)).filterMap (fun n =>
    if c.dstLine s n = some line then match c.dst s n with
      | some (.scr o) => some (n, o % 128)
      | some (.mem a) => match copyPlace c.dstRd true a s with
        | .ok p => some (n, p.pa % 128)
        | .error _ => none
      | none => none
    else none)

/-- The place of a byte of a copy in a line, with its address. -/
def spotIn (s : State) (rd w : Bool) (line : Nat) (l : CLoc) : Option (Place × Nat) :=
  match l with
  | .scr _ => none
  | .mem a => match copyPlace rd w a s with
    | .ok p => if p.pa / 128 = line then some (p, a) else none
    | .error _ => none

/-- The first source byte of a copy in a line. -/
def Copy.srcSpot (s : State) (c : Copy) (line : Nat) : Option (Place × Nat) :=
  (List.range (c.len s)).findSome? (fun n => (c.srcs s n).findSome? (spotIn s true false line))

/-- The first destination byte of a copy in a line. -/
def Copy.dstSpot (s : State) (c : Copy) (line : Nat) : Option (Place × Nat) :=
  (List.range (c.len s)).findSome? (fun n => (c.dst s n).bind (spotIn s c.dstRd true line))

/-- The values of a piece as cells; a later payload byte replaces an earlier one (R226). -/
def Copy.cells (s : State) (c : Copy) (line : Nat) : Cells Byte :=
  (c.piece s line).foldl (fun m x => cset 0#8 (m.filter (fun y => y.1 != x.2)) x.2 (c.val s x.1)) []

/-- The cells with every offset of the piece listed, zero bytes too. -/
def Copy.offsets (s : State) (c : Copy) (line : Nat) : List Nat :=
  (List.range 128).filter (fun o => (c.piece s line).any (fun x => x.2 == o))

/-- Whether a line of a copy's source came back with a poisoned word among the bytes that a piece reads (R355). -/
def Copy.poisoned (s : State) (c : Copy) (line : Nat) : Bool :=
  (c.piece s line).any (fun x => (c.srcs s x.1).any (fun l => match l with
    | .mem a => match copyPlace true false a s with
      | .ok p => match (copyAccess s c.ord (p.pa / 128) AccOp.isRead).bind (·.ans) with
        | some r => lineMarked r.poison (p.pa % 128) 1
        | none => false
      | .error _ => false
    | .scr _ => false))

/-- A line of a copy that stands written (R234): its completion time counts for the copy, and the line is released (R292). -/
def wroteLine (c : Copy) (line ct : Nat) (s : State) : State :=
  let t := updCopy c.ord (fun x => { x with lines := x.lines ++ [line], ct := max x.ct ct }) s
  if line < 2 ^ 60 then disownLine t.crew.cid c.ord line t else t

/-- A piece written in the scratchpad; a barrier word there ends the copy and kills the crew (R180). -/
def putScratch (c : Copy) (line : Nat) (s : State) : State :=
  let base := 128 * (line - 2 ^ 60)
  let m := c.cells s line
  let os := c.offsets s line
  if os.any (fun o => touchesBar s.crew (base + o) 1) then
    killCrew false (engineKill 0x0C 0#64 (BitVec.ofNat 64 base) 0#64 []) s
  else
    let runs := runsOf (os.map (fun o => (o, cget 0#8 m o)))
    wroteLine c line 0 { s with crew := runs.foldl (fun (x : Crew) y => scrWrite (base + y.1) y.2 x) s.crew }

/-- An access of a copy to a line that leaves the core when OUT of the line's tracker has room (R233, R187); a line of the
fabric carries its address for its records. -/
def sendCopy (c : Copy) (line off : Nat) (spot : Place × Nat) (op : AccOp) (s : State) : Option State :=
  let t := c.tracker s spot.2
  let a := mkAccess s.crew line spot.1.key false spot.1.vault (some t) op (.copy c.ord)
  if outRoom s s.crew.cid t then some (send { a with off := off, who := [(0, spot.2)] } s) else none

/-- What the home of a line is asked to do for a piece: one write, or for a reduce-copy a step for each element (R231). -/
def Copy.asks (s : State) (c : Copy) (line : Nat) : List (Nat × AccOp) :=
  let m := c.cells s line
  let os := c.offsets s line
  if c.fn = 2 then
    (os.filter (fun o => o % 4 == 0)).map (fun o =>
      let x := leNat ((List.range 4).map (fun i => cget 0#8 m (o + i)))
      (o, .atomic (16 + c.opx % 8) 4 o (BitVec.ofNat 64 x) 0#64))
  else [(0, .write (os.map (fun o => (o, (cget 0#8 m o).setWidth 64))))]

/-- The accesses of a list sent one after another; none when OUT has no room for all of them. -/
def sendAsks (c : Copy) (line : Nat) (spot : Place × Nat) : List (Nat × AccOp) → State → Option State
  | [], s => some s
  | x :: t, s => (sendCopy c line x.1 spot x.2 s).bind (sendAsks c line spot t)

/-- A piece sent to its home. -/
def sendPiece (c : Copy) (line : Nat) (s : State) : State :=
  match c.dstSpot s line with
  | none => s
  | some spot => (sendAsks c line spot (c.asks s line) s).getD s

/-- The writes of a piece that have left. -/
def sentWrites (s : State) (c : Copy) (line : Nat) : List Access :=
  s.net.filter (fun a => a.crew == s.crew.cid && a.use == .copy c.ord && a.line == line && !a.op.isRead)

/-- The source lines of a piece asked for, each once for the whole copy (R227). -/
def askLines (c : Copy) (lines : List Nat) (s : State) : State :=
  lines.foldl (fun t l => match c.srcSpot t l with
    | none => t
    | some spot => (sendCopy c l 0 spot (.read 0) t).getD t) s

/-- Whether a write-down of a copy's crew is still on its way to a line that the copy is about to touch (R233). -/
def aheadOn (s : State) (c : Copy) (line : Nat) : Bool :=
  s.net.any (fun a => a.crew == s.crew.cid && a.use == .ahead c.ord && a.line == line && a.ans.isNone)

/-- Whether a source line of a copy has come. -/
def lineRead (s : State) (c : Copy) (line : Nat) : Bool :=
  match copyAccess s c.ord line AccOp.isRead with
  | some a => a.back && !(a.ans.map (·.failed)).getD true
  | none => false

/-- A piece of a copy (R233, R286): DIRTY bytes of the crew in its lines go first; its source lines are read at their homes;
then the line is written, and stands written when every answer has come. -/
def movePiece (c : Copy) (line : Nat) (s : State) : State :=
  let srcs := (c.srcLines s line).filter (fun l => l < 2 ^ 60)
  let lines := if line < 2 ^ 60 then (line :: srcs).eraseDups else srcs
  let missing := srcs.filter (fun l => (copyAccess s c.ord l AccOp.isRead).isNone)
  let ws := sentWrites s c line
  if ws ≠ [] then
    if ws.all (fun a => a.back && !(a.ans.map (·.failed)).getD true) then
      wroteLine c line (ws.foldl (fun m a => max m ((a.ans.bind (·.ct)).getD 0)) 0)
        { s with net := s.net.filter (fun a => !(ws.any (fun x => x.id == a.id))) }
    else s
  else if lines.any (ownDirty s) then lines.foldl (fun t l => downFor c.ord l t) s
  else if lines.any (aheadOn s c) then s
  else if missing ≠ [] then askLines c missing s
  else if !(srcs.all (lineRead s c)) then s
  else if c.poisoned s line then killCrew false (engineKill 0x11 5#64 0#64 0#64 []) s
  else if 2 ^ 60 ≤ line then putScratch c line s
  else sendPiece c line s

/-- Whether every line of a copy is written and, for an ordered reduce-copy, its ticket too. -/
def Copy.moved (s : State) (c : Copy) : Bool := (c.todo s).isEmpty && c.bads s == [] && (!c.ordered || c.phase == 2)

/-- The lines that a copy can write now: those without an error (R236). -/
def Copy.open_ (s : State) (c : Copy) : List Nat :=
  if c.ordered && c.phase != 1 then []
  else (c.todo s).filter (fun l => (c.piece s l).all (fun x => (c.badByte s x.1).isEmpty))

/-- Whether the drain limit has passed for the copies of the crew in focus, which halts or writes a dump (R371, R372, R129):
100 ns times DRAIN, of which values above 35 act as 35. A crew with no wave left retires and is not swapped, so its copies go on
(R273, R373; log 58). -/
def drainEnded (s : State) : Bool :=
  let n := 100 * min 35 (bfield s.pkg.schctl 5 0)
  (s.crew.halt && !noParts s && decide (s.crew.haltAt + n ≤ timeOf s)) || (match s.crew.dump with
    | some d => d.phase == 0 && decide (d.time + n ≤ timeOf s)
    | none => false)

/-- Whether a copy of the crew in focus may begin anything now: before the drain limit, and before a thermal trip (R346). -/
def copyRuns (s : State) : Bool := !drainEnded s && !s.pkg.halted

/-- A squashed copy is replayed once its crew runs on, or has only its copies left, and the core has a place for it (R237, R188,
R273). -/
def mayReplay (s : State) : Bool :=
  (!s.crew.halt || noParts s) && s.crew.dump.isNone && !s.pkg.halted && decide (copiesOn s s.crew.core < 64)

/-- COPY_COMPLETE (R234): a copy in flight moves a line, whichever the engine takes next, or with its payload performed
and settled it completes, after the units of the cycle (R222); a squashed copy is replayed (R237). -/
def execCopyComplete (crew ord : Nat) (s : State) : Host.Outcome State Fault Refusal :=
  let t := focusCrew s crew
  match findCopy t ord with
  | none => .next s
  | some c =>
    if t.crew.cid ≠ crew ∨ t.crew.cond ≠ .resident then .next s
    else if c.squash then .next (if mayReplay t then replayCopy c t else s)
    else if c.moved t then
      if c.ct ≤ timeOf t then .next (finishCopy c (afterUnits t)) else .next s
    else
      let ls := (c.open_ t).filter (fun l => copyRuns t || !(sentWrites t c l).isEmpty)
      match ls[Config.freeNat 4 t.free % max 1 ls.length]? with
      | none => .next s
      | some l => .next (movePiece c l { t with free := t.free + 1 })

/-! ### Tickets (R232) -/

/-- The place of the ticket word of an ordered reduce-copy. -/
def ticketPlace (s : State) (c : Copy) : Option Place :=
  match (List.range 8).filterMap (fun i => badLoc s 5 true true (.mem ((c.word 3).toNat + i))),
      copyPlace true true (c.word 3).toNat s with
  | [], .ok p => some p
  | _, _ => none

/-- An ordered reduce-copy of a resident crew that may act. -/
def ticketCopy (crew ord phase : Nat) (t : State) : Option (Copy × Place) :=
  match findCopy t ord with
  | some c =>
    if t.crew.cid = crew ∧ t.crew.cond = .resident ∧ c.squash = false ∧ c.ordered = true ∧ c.phase = phase
        ∧ c.badDesc t = false then (ticketPlace t c).map (fun p => (c, p)) else none
  | none => none

/-- An access of a copy to its ticket word (R232, R233): the crew's DIRTY bytes in the line go down first; then the access leaves,
and `use` takes its answer when it has come back. -/
def ticketAccess (c : Copy) (p : Place) (op : AccOp) (use : Answer → State → State) (s : State) : State :=
  let line := p.pa / 128
  match copyAccess s c.ord line (fun o => o.isRead == op.isRead) with
  | some a => match a.ans with
    | some r => if a.back && !r.failed then use r { s with net := s.net.filter (fun x => x.id != a.id) } else s
    | none => s
  | none =>
    if copyRuns s = false ∨ (op.isRead = true ∧ timeOf s < c.poll) then s
    else if ownDirty s line then downFor c.ord line s
    else if aheadOn s c line then s
    else (sendCopy c line (p.pa % 128) (p, (c.word 3).toNat) op s).getD s

/-- The TIME at which a copy reads its ticket again: no later than 1 µs after the answer (R232). -/
def nextPoll (s : State) : Nat := timeOf s + 1 + Config.freeNat 50 s.free % 1000

/-- REDUCE_TICKET_POLL (R232 phase 1): the ticket word is read at its home; at TKT the elements may start, and else it is read
again later. -/
def execReduceTicketPoll (crew ord : Nat) (s : State) : Host.Outcome State Fault Refusal :=
  let t := focusCrew s crew
  .next (match ticketCopy crew ord 0 t with
    | none => s
    | some (c, p) => ticketAccess c p (.read 0) (fun r u =>
        if lineMarked r.poison (p.pa % 128) 8 then killCrew false (engineKill 0x11 5#64 0#64 0#64 []) u
        else if cellsNat r.bytes (p.pa % 128) 8 = (c.word 4).toNat then updCopy ord (fun x => { x with phase := 1 }) u
        else updCopy ord (fun x => { x with poll := nextPoll u }) { u with free := u.free + 1 }) t)

/-- REDUCE_TICKET_RELEASE (R232 phase 3): with every element answered and settled, TKA := TKT + 1 at its home. -/
def execReduceTicketRelease (crew ord : Nat) (s : State) : Host.Outcome State Fault Refusal :=
  let t := focusCrew s crew
  .next (match ticketCopy crew ord 1 t with
    | none => s
    | some (c, p) =>
      if !(c.todo t).isEmpty || decide (timeOf t < c.ct) then s
      else ticketAccess c p (.write (byteCells (p.pa % 128) (bytes64 (c.word 4 + 1#64)))) (fun r u =>
        updCopy ord (fun x => { x with phase := 2, ct := max x.ct (r.ct.getD 0) }) u) t)

/-! ### Squash and errors (R236, R237) -/

/-- Whether a copy can be squashed now (R237): none of its writes is under way, so that what it has written is known. -/
def squashable (s : State) (c : Copy) : Bool :=
  !(s.net.any (fun a => a.crew == s.crew.cid && (a.use == .copy c.ord) && !a.op.isRead))

/-- The copies of the crew in focus squashed as far as they can be. -/
def squashAll (s : State) : State := squashCopies (squashable s) s

/-- COPY_SQUASH (R237, R372): at the drain limit the copies in flight of a crew that halts, or of one that writes a dump, are
squashed. -/
def execCopySquash (crew : Nat) (s : State) : Host.Outcome State Fault Refusal :=
  let t := focusCrew s crew
  .next (if t.crew.cid = crew ∧ t.crew.cond = .resident ∧ drainEnded t = true then squashAll t else s)

/-- The errors of a copy: what its own checks find, and the accesses that have failed (R289, R432). -/
def Copy.errors (s : State) (c : Copy) : List CopyBad :=
  c.bads s ++ (s.net.filter (fun a => a.crew == s.crew.cid && a.use == .copy c.ord &&
      ((a.ans.map (·.failed)).getD false))).map (fun a =>
    ({ why := .translation, addr := ((a.who.head?.map (·.2)).getD 0), akind := if a.op.isRead then 4 else 5,
       reason := if remoteLine a.line then 2 else 1 } : CopyBad))

/-- The subcode of R236. -/
def copySubcode : CopyFault → Nat
  | .translation => 1
  | .outsideGrants => 2
  | .descriptor => 3
  | .slice => 4

/-- COPY_ERROR (R236, R389): an access of a copy fails, or its descriptor is invalid: the crew is killed with cause 0x10,
or swapped out with the copy squashed when the launch is recoverable and the fault is a grant's. -/
def execCopyError (crew ord : Nat) (why : CopyFault) (s : State) : Host.Outcome State Fault Refusal :=
  let t := focusCrew s crew
  match findCopy t ord with
  | none => .next s
  | some c =>
    if t.crew.cid ≠ crew ∨ t.crew.cond ≠ .resident ∨ c.squash = true then .next s
    else match (c.errors t).find? (fun b => b.why == why) with
      | none => .next s
      | some b =>
        let recs : List AccRec := if why = .descriptor then []
          else [{ addr := BitVec.ofNat 64 b.addr, lanes := 0#64, akind := b.akind, reason := b.reason }]
        if why = .outsideGrants ∧ recoverable t = true then
          .next (if t.crew.recov then s
            else recoverBy (engineKill 0x0A 0#64 (BitVec.ofNat 64 b.addr) 0#64 recs)
              (squashCopies (fun x => x.ord == ord && squashable t x) t))
        else
          .next (killCrew false
            (engineKill 0x10 (BitVec.ofNat 64 (copySubcode why)) (BitVec.ofNat 64 b.addr) 0#64 recs) t)

/-! ### Buffer instructions (R238, R239) -/

/-- A buffer word: its handle number must be below n (R172). -/
def opBuf (fn : Nat) (r : Run) (d a b n : BitVec 7) (lims : Bool) (uses : List Use) (s : State) : Op :=
  { Op.plain (wRRR 20 r d a b fn) r 0 uses with lims := lims && decide (n.toNat < s.crew.nbuf) }

/-- BUFDEF (R238): the alignment, then the wait for FREE, then the bounds (log 45). -/
def execBufdef (r : Run) (n a b : BitVec 7) (s : State) : Host.Outcome State Fault Refusal :=
  unit (opBuf 3 r n a b n true [srcS a, srcS b] s)
    (fun t =>
      let off := sreg t a
      let size := sreg t b
      let h := getBuf t.crew n.toNat
      if off.toNat % 128 ≠ 0 then misaligned 128 off r t
      else if size.toNat % 128 ≠ 0 then misaligned 128 size r t
      else if h.state ≠ 0 then hold t
      else if t.crew.scr < off.toNat + size.toNat then aperture off t
      else done r { t with crew := setBuf t.crew n.toNat { h with off := off.toNat, size := size.toNat } }) s

/-- Whether a handle is in the state that a BUFWAIT waits for (R221): full, free, idle. -/
def bufReady (m : Nat) (b : Buf) : Bool :=
  match m with
  | 0 => b.state == 2
  | 1 => b.state == 0
  | _ => b.state == 0 || b.state == 2

/-- BUFWAIT (R238): the wait, then the acquire of R212; a wait that has ended stays ended while the acquire waits. -/
def execBufwait (r : Run) (n m : BitVec 7) (s : State) : Host.Outcome State Fault Refusal :=
  unit (opBuf 4 r n 0#7 m n (decide (m.toNat ≤ 2)) [] s)
    (fun t =>
      if t.part.relDone || bufReady m.toNat (getBuf t.crew n.toNat) then
        if t.part.loads = [] then done r t
        else { t with part := { t.part with wait := .retry, relDone := true } }
      else hold t) s

/-- BUFREL (R238, R221). -/
def execBufrel (r : Run) (n m : BitVec 7) (s : State) : Host.Outcome State Fault Refusal :=
  unit (opBuf 5 r n 0#7 m n (decide (m.toNat ≤ 1)) [] s)
    (fun t =>
      let h := getBuf t.crew n.toNat
      if h.state ≠ 0 ∧ h.state ≠ 2 then hold t
      else done r { t with crew := setBuf t.crew n.toNat { h with state := if m = 0#7 then 0 else 2 } }) s

/-- The status word of a handle (R239). -/
def bufStatus (b : Buf) : W64 :=
  BitVec.ofNat 64 (b.size / 128 * 2 ^ 32 + b.off / 128 * 2 ^ 16 + b.count * 2 ^ 8 + b.state)

/-- BUFSTAT (R239). -/
def execBufstat (r : Run) (d n : BitVec 7) (s : State) : Host.Outcome State Fault Refusal :=
  unit (opBuf 6 r d n 0#7 n true [dstS d] s)
    (fun t => done r (wrS 0 d.toNat (bufStatus (getBuf t.crew n.toNat)) t)) s

/-! ### Operand queues (R248) -/

/-- A queue of the crew's slice. -/
def queueOf (c : Crew) (q : Nat) : List (List Byte) := cget [] c.slice.queues q

def setQueue (c : Crew) (q : Nat) (x : List (List Byte)) : Crew :=
  { c with slice := { c.slice with queues := cset [] c.slice.queues q x } }

/-- QPOP (R248): the head entry's word l mod 32 in each active lane. -/
def execQpop (r : Run) (d q : BitVec 7) (s : State) : Host.Outcome State Fault Refusal :=
  unit { Op.plain (wRRR 20 r d q 0#7 7) r 0 [dstV d] with lims := s.crew.slice.has && decide (q.toNat < 8) }
    (fun t => match queueOf t.crew q.toNat with
      | [] => hold t
      | e :: rest =>
        done r (wrV 0 d.toNat (activeLanes t) (fun l => word32 e (l % 32)) { t with crew := setQueue t.crew q.toNat rest })) s

/-- QPEEK (R248). -/
def execQpeek (r : Run) (d q : BitVec 7) (s : State) : Host.Outcome State Fault Refusal :=
  unit { Op.plain (wRRR 20 r d q 0#7 8) r 0 [dstS d] with lims := s.crew.slice.has && decide (q.toNat < 8) }
    (fun t => done r (wrS 0 d.toNat (BitVec.ofNat 64 (queueOf t.crew q.toNat).length) t)) s

end Sys2Proof.Machine
end

