-- ==== Sys2Proof/Machine/Slice.lean ====
section
/-! DEFINITION. Sparge access slices: ACCS (R240 to R249). FN 0 to 5 run in a slice, FN 6 and 7 in a wave. -/

namespace Sys2Proof.Machine

/-! ### Slice words (R240, R246) -/

/-- The slice changed. -/
def updSlice (f : Slice → Slice) (s : State) : State := { s with crew := { s.crew with slice := f s.crew.slice } }

/-- A slice register. -/
def areg (s : State) (n : BitVec 7) : W64 := cget 0#64 s.crew.slice.a n.toNat

/-- The address of the slice word at the slice PC, after its hints. -/
def sliceWord (r : Run) (s : State) : Nat := s.crew.slice.pc.toNat + 4 * r.hints.length

/-- The slice goes on at the next word. -/
def sliceNext (r : Run) (s : State) : State :=
  updSlice (fun x => { x with pc := x.pc + BitVec.ofNat 64 (4 * unitWords r), state := 1 }) s

/-- A slice word: in a wave it is illegal; Sparge refuses a word that breaks R246, a stall field or a hint (R240, R241). -/
def sliceOp (word : W32) (r : Run) (imm : Bool) (ok : Bool) (f : State → State) (s : State) :
    Host.Outcome State Fault Refusal :=
  match s.agent with
  | .wave => unit { Op.plain word r 0 [] with lims := false } id s
  | .sparge =>
    let hints := if imm then decide (r.hints.length = 1 ∧ immCount r = 1) else r.hints == []
    if !spargeReady s then .next s
    else if r.stl ≠ 0#2 ∨ hints = false ∨ ok = false then .next (sliceError s)
    else .next (f s)

/-- ALOOP (R242). -/
def execAloop (r : Run) (k a : BitVec 7) (s : State) : Host.Outcome State Fault Refusal :=
  sliceOp (wRRR 21 r k a 0#7 0) r false (decide (k.toNat < 4) && decide (a.toNat < 16))
    (fun t =>
      let n := (areg t a).toNat
      if t.crew.slice.depth = k.toNat ∧ 1 ≤ n ∧ n ≤ 2 ^ 32 then
        let next := t.crew.slice.pc + 4#64
        sliceNext r (updSlice (fun x => { x with
          ctr := cset 0 x.ctr k.toNat 0, cnt := cset 0 x.cnt k.toNat n, loop := cset 0#64 x.loop k.toNat next,
          depth := k.toNat + 1 }) t)
      else sliceError t) s

/-- AEND (R242). -/
def execAend (r : Run) (k : BitVec 7) (s : State) : Host.Outcome State Fault Refusal :=
  sliceOp (wRRR 21 r k 0#7 0#7 1) r false (decide (k.toNat < 4))
    (fun t =>
      let x := t.crew.slice
      let i := cget 0 x.ctr k.toNat + 1
      if x.depth ≠ k.toNat + 1 then sliceError t
      else if i < cget 0 x.cnt k.toNat then
        updSlice (fun y => { y with ctr := cset 0 y.ctr k.toNat i, pc := cget 0#64 y.loop k.toNat, state := 1 }) t
      else sliceNext r (updSlice (fun y => { y with ctr := cset 0 y.ctr k.toNat 0, depth := k.toNat }) t)) s

/-- The affine address (R243): a[A] + the counters times a stride group, modulo 2^64. -/
def affine (s : State) (a g : BitVec 7) : W64 :=
  (List.range 4).foldl (fun x k =>
    x + BitVec.ofNat 64 (cget 0 s.crew.slice.ctr k) * cget 0#64 s.crew.slice.a (g.toNat + k)) (areg s a)

/-- A stride group: 0, 4, 8 or 12. -/
def groupOk (g : BitVec 7) : Bool := decide (g.toNat % 4 = 0 ∧ g.toNat < 16)

/-- The lines that the 128 bytes from an address touch, as address and length. -/
def astrmParts (a : Nat) : List (Nat × Nat) :=
  if a % 128 = 0 then [(a, 128)] else [(a, 128 - a % 128), (a + (128 - a % 128), a % 128)]

/-- One part of an ASTRM as a load's lane (R243): translated, granted and checked on its own. -/
def astrmPlace (s : State) (p : Nat × Nat) : Except Reason Ready :=
  let t := steer s none (BitVec.ofNat 64 p.1) p.2
  match t with
  | .glob va _ => (resolveG s va p.2 false true false).map (fun x =>
      ({ lane := 0, tgt := t, place := x, trk := trkMatch s.crew t } : Ready))
  | .vault v o =>
      .ok { lane := 0, tgt := t, place := { pa := vaultPa v o, key := 0, tso := false, vault := true },
            trk := trkMatch s.crew t }
  | _ => .error 1

/-- An ASTRM that fails (R199, R389). -/
def astrmFault (bad : List (Nat × Reason)) (s : State) : State :=
  let recs := bad.map (fun x => ({ addr := BitVec.ofNat 64 x.1, lanes := 0#64, akind := 6, reason := x.2 } : AccRec))
  let k := engineKill 0x0A 0#64 ((recs.head?.map (·.addr)).getD 0#64) (pcField s.crew.slice.pc) recs
  if recoverable s && bad.all (fun x => x.2 == 3) then recoverBy k s else killCrew false k s

/-- How Sparge loads. -/
def spargeHow : How := { ldn := false, acq := false, cache := 0 }

/-- The bytes of a part that stand in L1 at issue. -/
def astrmFixed (q : Ready) (n : Nat) (s : State) : Cells W64 := if q.place.tso then [] else fixedBytes spargeHow q n s

/-- One part read through L1: a fill leaves when a byte of it misses. The entry's bytes so far, and the state. -/
def astrmRead (x : State × List (Nat × Nat × Byte)) (qn : Ready × Nat) : State × List (Nat × Nat × Byte) :=
  let q := qn.1
  let fixed := astrmFixed q qn.2 x.1
  let miss := decide (fixed.length < qn.2)
  let id := x.1.ids
  let a := mkAccess x.1.crew (q.place.pa / 128) q.place.key q.place.tso q.place.vault (some q.trk)
    (.read (leaseAsked spargeHow q x.1)) (fillUse spargeHow q)
  let st := if miss then send { a with wave := 32, part := 16 } x.1 else x.1
  let bytes := (List.range qn.2).map (fun i => match fixed.lookup i with
    | some b => (0, 0, b.setWidth 8)
    | none => (id, q.place.pa % 128 + i, 0#8))
  (st, x.2 ++ bytes)

/-- ASTRM (R243): the reads leave; the entry is pushed when all have returned (ASTRM_PUSH). -/
def execAstrm (r : Run) (q a g : BitVec 7) (s : State) : Host.Outcome State Fault Refusal :=
  sliceOp (wRRR 21 r q a g 2) r false (decide (q.toNat < 8) && decide (a.toNat < 16) && groupOk g)
    (fun t =>
      let addr := affine t a g
      let ok := match steer t none addr 128 with
        | .glob .. => true
        | .vault .. => true
        | _ => false
      if addr.toNat % 16 ≠ 0 ∨ ok = false then sliceError t
      else
        let parts := astrmParts addr.toNat
        let bad := parts.filterMap (fun p => match astrmPlace t p with
          | .error e => some (p.1, e)
          | .ok _ => none)
        let qs := parts.filterMap (fun p => match astrmPlace t p with
          | .ok x => some (x, p.2)
          | .error _ => none)
        if bad ≠ [] then astrmFault bad t
        else if qs.any (fun x => decide ((astrmFixed x.1 x.2 t).length = x.2) &&
            poisonedL1 t (x.1.place.pa / 128) (x.1.place.pa % 128) x.2) then
          killCrew false (engineKill 0x11 5#64 0#64 (pcField t.crew.slice.pc) []) t
        else if !roomFor t (qs.map (·.1.trk)) then t
        else
          let u := qs.foldl astrmRead (t, [])
          updSlice (fun x => { x with push := some (q.toNat, u.2) }) u.1) s

/-- ACPY (R244): a fill copy into a ring of handles. It waits for the handle before it looks at the length (log 56). -/
def execAcpy (r : Run) (n a g : BitVec 7) (s : State) : Host.Outcome State Fault Refusal :=
  sliceOp (wRRR 21 r n a g 3) r true (decide (a.toNat < 16) && groupOk g)
    (fun t =>
      let imm := (payload r 0).getD 0
      let w := sliceWord r t
      let h := n.toNat + cget 0 t.crew.slice.execs w % (imm / 2 ^ 20 + 1)
      let len := 16 * (imm % 2 ^ 20)
      let buf := getBuf t.crew h
      if t.crew.nbuf ≤ h ∨ len = 0 then sliceError t
      else if !bufAccepts 1 buf then updSlice (fun x => { x with state := 3 }) t
      else if buf.size < len then sliceError t
      else
        let c : Copy :=
          { ord := t.crew.copyOrd, fn := 3, ctl := 2 ^ 16 + h * 2 ^ 10, trk := none, trks := [], bound := t.crew.trk,
            hnd := some h, cwOff := 0, cwVal := 0#64, desc := [], lanes := [(0, affine t a g, 0#64)], size := len,
            lines := [], phase := 0, poll := 0, ct := 0, squash := false, slice := true }
        match c.astray t with
        | some addr => killCrew false (engineKill 0x0D 0#64 addr (pcField t.crew.slice.pc) []) t
        | none =>
          if fullEngine t then t
          else sliceNext r (updSlice (fun x => { x with execs := cset 0 x.execs w (cget 0 x.execs w + 1) })
            (startCopy c t))) s

/-- ASIG (R245): after every earlier push and every earlier ACPY, a word in the scratchpad. An offset outside it is a slice error
at once (log 56). -/
def execAsig (r : Run) (a b : BitVec 7) (s : State) : Host.Outcome State Fault Refusal :=
  sliceOp (wRRR 21 r 0#7 a b 4) r false (decide (a.toNat < 16) && decide (b.toNat < 16))
    (fun t =>
      let o := areg t a
      let w := sliceWord r t
      let m := cget 0 t.crew.slice.execs w + 1
      if o.toNat % 8 ≠ 0 ∨ t.crew.scr < o.toNat + 8 then sliceError t
      else if t.crew.copies.any (·.slice) then t
      else if touchesBar t.crew o.toNat 8 then
        killCrew false (engineKill 0x0C 0#64 o (pcField t.crew.slice.pc) []) t
      else sliceNext r (updSlice (fun x => { x with execs := cset 0 x.execs w m })
        { t with crew := scrWrite o.toNat (bytes64 (areg t b + BitVec.ofNat 64 m)) t.crew })) s

/-- AHALT (R245). -/
def execAhalt (r : Run) (s : State) : Host.Outcome State Fault Refusal :=
  sliceOp (wRRR 21 r 0#7 0#7 0#7 5) r false true (fun t => updSlice (fun x => { x with state := 4 }) (sliceNext r t)) s

/-! ### ASTART and ASTAT (R247) -/

/-- An ACCS word of a wave: illegal in a crew without an access slice. -/
def opAccs (fn : Nat) (r : Run) (d a : BitVec 7) (uses : List Use) (s : State) : Op :=
  { Op.plain (wRRR 21 r d a 0#7 fn) r 0 uses with lims := s.crew.slice.has }

/-- s0 to s15 of the part as slice registers. -/
def sliceRegs (s : State) : Cells W64 := csetList 0#64 [] 0 ((List.range 16).map (rdS s))

/-- ASTART (R247): waits until the slice is idle or halted. The PC takes s[A] without its bits [1:0] (R59, log 53). -/
def execAstart (r : Run) (a : BitVec 7) (s : State) : Host.Outcome State Fault Refusal :=
  unit (opAccs 6 r 0#7 a (srcS a :: (List.range 16).map (fun i => srcS (BitVec.ofNat 7 i))) s)
    (fun t =>
      if t.crew.slice.state = 0 ∨ t.crew.slice.state = 4 then
        done r (updSlice (fun _ => { Slice.reset with has := true, a := sliceRegs t, pc := wordPc (sreg t a), state := 1 }) t)
      else hold t) s

/-- The status word (R247). -/
def sliceStatus (c : Crew) : W64 :=
  BitVec.ofNat 64 ((List.range 8).foldl (fun m q => m + (queueOf c q).length * 2 ^ (8 + 5 * q)) c.slice.state)

/-- ASTAT (R247). -/
def execAstat (r : Run) (d : BitVec 7) (s : State) : Host.Outcome State Fault Refusal :=
  unit (opAccs 7 r d 0#7 [dstS d] s) (fun t => done r (wrS 0 d.toNat (sliceStatus t.crew) t)) s

/-! ### The push of an entry -/

/-- The bytes of an ASTRM's entry, once its accesses have come back. -/
def entryBytes (s : State) (bs : List (Nat × Nat × Byte)) : List Byte :=
  bs.map (fun x => match s.net.find? (fun a => a.id == x.1 && x.1 != 0) with
    | some a => match a.ans with
      | some r => (cget 0#64 r.bytes x.2.1).setWidth 8
      | none => 0#8
    | none => x.2.2)

/-- ASTRM_PUSH (R243): every part has returned; the entry is pushed, or Sparge waits while the queue is full. A poisoned
word kills the crew (R355), and so does a failed remote access (R432). -/
def execAstrmPush (crew : Nat) (s : State) : Host.Outcome State Fault Refusal :=
  let t := focusCrew s crew
  match t.crew.slice.push with
  | none => .next s
  | some (q, bs) =>
    let mine := t.net.filter (fun a => bs.any (fun x => x.1 == a.id && x.1 != 0))
    if t.crew.cid ≠ crew ∨ t.crew.cond ≠ .resident ∨ noParts t = true ∨ mine.any (fun a => !a.back) = true then .next s
    else match mine.find? (fun a => (a.ans.map (·.failed)).getD false) with
      | some a => .next (astrmFault [(128 * a.line, 2)] t)
      | none =>
        if mine.any (fun a => bs.any (fun x => x.1 == a.id && lineMarked ((a.ans.map Answer.poison).getD 0) x.2.1 1)) then
          .next (killCrew false (engineKill 0x11 5#64 0#64 (pcField t.crew.slice.pc) []) t)
        else if 16 ≤ (queueOf t.crew q).length then .next (updSlice (fun x => { x with state := 2 }) t)
        else
          let u := { t with crew := setQueue t.crew q (queueOf t.crew q ++ [entryBytes t bs]),
                            net := t.net.filter (fun a => !(mine.any (fun x => x.id == a.id))) }
          .next (updSlice (fun x => { x with push := none, pc := x.pc + 4#64, state := 1 }) u)

end Sys2Proof.Machine
end

