-- ==== Sys2Proof/Machine/Matrix.lean ====
section
/-! DEFINITION. The weight-stationary matrix engine: MATX (R250 to R269), with the exact arithmetic of R95 to R101. -/

namespace Sys2Proof.Machine

/-! ### Control words and shapes (R252, R261 to R265) -/

/-- Whether a format code with its planes stored and read is accepted (R261). -/
def mfmtOk (f p k : Nat) : Bool :=
  if f = 0 then decide (2 ≤ p ∧ p ≤ 8 ∧ 1 ≤ k ∧ k ≤ p) else decide (f ≤ 4) && p == 0 && k == 0

def mfmt (w : Nat) : Nat := w % 16
def mplanes (w : Nat) : Nat := w / 2 ^ 4 % 16
def mread (w : Nat) : Nat := w / 2 ^ 8 % 16

/-- The bytes of an element of a floating format. -/
def melem (f : Nat) : Nat := if f ≤ 2 then 1 else 2

/-- The size of a column vector or an activation row (R253, R254). -/
def vecSize (f p : Nat) : Nat := if f = 0 then 16 * p else 128 * melem f

/-- The steps of a weight (R252). -/
def msteps (f k : Nat) : Nat :=
  match f with
  | 0 => ceilDiv k 2
  | 1 => 3
  | 2 => 2
  | 3 => 5
  | _ => 6

/-- The class of a format: 1 integer (s32), 2 floating (FP32). -/
def mclass (f : Nat) : Nat := if f = 0 then 1 else 2

/-- The floating format of a code. -/
def mfloat (f : Nat) : Fmt :=
  match f with
  | 1 => f8e4
  | 2 => f8e5
  | 3 => bf16
  | _ => fp16

/-- Fields of a shape: rows, first row, stride. -/
def shapeM (b : W64) : Nat := bfield b 6 0 + 1
def shapeM0 (b : W64) : Nat := bfield b 14 8
def shapeStride (b : W64) : Nat := bfield b 39 16

/-- NC of an MWLD shape. -/
def shapeNc (b : W64) : Nat := bfield b 15 8 + 1

/-- The output element sizes of MRDO (R264). -/
def outSize (o : Nat) : Nat :=
  match o with
  | 0 => 4
  | 1 => 2
  | 2 => 2
  | 5 => 4
  | _ => 1

/-- The bytes of an accumulator image (R265). -/
def imageSize (m : Nat) : Nat := 64 + 1024 * m

/-! ### Issue (R258) -/

/-- R47: the aligned 16-lane group of the part's lowest quad lies wholly in the part with every lane active. -/
def groupActive (s : State) : Bool :=
  let g := lowBit s.part.quads / 4
  (List.range 4).all (fun i => s.part.quads.testBit (4 * g + i)) &&
    (List.range 16).all (fun i => s.part.exm.getLsbD (16 * g + i))

/-- The engine state of the crew changed. -/
def updMatrix (f : Matrix → Matrix) (s : State) : State := { s with crew := { s.crew with matrix := f s.crew.matrix } }

/-- A command with what its word captures (R258). -/
def mcmd (fn acc : Nat) (r : Run) (a b : W64) (s : State) : MCmd :=
  { fn := fn, acc := acc, ctl := ctlOf r, a := a, b := b, c := if (payload r 3).isSome then rdS s (opcOf r) else 0#64,
    rnd := rndOf r, rows := 0, acpt := now s, due := none }

/-- The tag of an accumulator that every accepted command leaves. -/
def tagLast (s : State) (n : Nat) : Nat := cget 0 s.crew.matrix.tlast n

/-- Checks in the order of R258: the first that fails decides. Each names what the part does. -/
def firstFail : List (Bool × (State → State)) → (State → State) → State → State
  | [], f, s => f s
  | (ok, g) :: t, f, s => if ok then firstFail t f s else g s

/-- A MATX unit after steps 1 to 6 of R72 (R258): alignment, bounds, engine conditions, room, and acceptance with the
state that the command leaves. `align` holds operands with the multiple each must be of, `extent` the end of the bytes
named. -/
def acceptCmd (r : Run) (align : List (W64 × Nat)) (extent : Nat) (cond : Bool) (c : MCmd) (leave : Matrix → Matrix)
    (s : State) : State :=
  let bad := align.find? (fun x => x.1.toNat % x.2 != 0)
  firstFail
    [(groupActive s, trapExm 0x06 3 r),
     (s.crew.matrix.owned, trapExm 0x06 7 r),
     (bad.isNone, fun t => misaligned ((bad.map (·.2)).getD 0) ((bad.map (·.1)).getD 0#64) r t),
     (decide (extent ≤ s.crew.scr), aperture 0#64),
     (cond, trapExm 0x06 7 r),
     (decide (s.crew.matrix.cmds.length < 8), hold)]
    (fun t => done r (updMatrix (fun m => leave { m with cmds := m.cmds ++ [c] }) t)) s

/-- A MATX word: D names an accumulator below 4 where it names one (R261). -/
def opMatx (fn : Nat) (r : Run) (d a b : BitVec 7) (acc : Bool) (uses : List Use) : Op :=
  { Op.plain (wRRR 22 r d a b fn) r 0 uses with lims := !acc || decide (d.toNat < 4) }

/-- MWLD (R262). -/
def execMwld (r : Run) (a b : BitVec 7) (s : State) : Host.Outcome State Fault Refusal :=
  let w := ctlOf r
  unit { opMatx 0 r 0#7 a b false [srcS a, srcS b] with
         immMin := 1, immMax := 1, immOk := w / 2 ^ 12 == 0 && mfmtOk (mfmt w) (mplanes w) (mread w) }
    (fun t =>
      let wb := sreg t a
      let sh := sreg t b
      let stride := shapeStride sh
      let size := vecSize (mfmt w) (mplanes w)
      acceptCmd r [(wb, 16), (BitVec.ofNat 64 stride, 16)] (wb.toNat + (shapeNc sh - 1) * stride + size)
        (decide (size ≤ stride)) (mcmd 0 0 r wb sh t)
        (fun m => { m with wlast := some (mfmt w, mplanes w, mread w, shapeM sh, shapeNc sh) }) t) s

/-- The class of the weights that every accepted command leaves; none without weights. -/
def weightClass (s : State) : Option Nat := s.crew.matrix.wlast.map (fun w => mclass w.1)

/-- MSTR from the scratchpad or from a queue (R263). -/
def mstr (queue : Bool) (r : Run) (n a b : BitVec 7) (s : State) : Host.Outcome State Fault Refusal :=
  let w := ctlOf r
  let srcq := w.testBit 13
  unit { opMatx 1 r n a b true (if srcq then [srcS b] else [srcS a, srcS b]) with
         lims := decide (n.toNat < 4) && (!srcq || a == 0#7 || queue),
         immMin := 1, immMax := 1,
         immOk := w / 2 ^ 17 == 0 && mfmtOk (mfmt w) (mplanes w) (mread w) && (!w.testBit 12 || mfmt w == 0)
           && (srcq || w / 2 ^ 14 % 8 == 0) }
    (fun t =>
      let ab := if srcq then 0#64 else sreg t a
      let sh := sreg t b
      let stride := shapeStride sh
      let size := vecSize (mfmt w) (mplanes w)
      let cls := mclass (mfmt w)
      acceptCmd r (if srcq then [] else [(ab, 16), (BitVec.ofNat 64 stride, 16)])
        (if srcq then 0 else ab.toNat + (shapeM sh - 1) * stride + size)
        (weightClass t == some cls && (tagLast t n.toNat == 0 || tagLast t n.toNat == cls)
          && decide (shapeM0 sh + shapeM sh ≤ 128) && (srcq || decide (size ≤ stride))
          && (!srcq || t.crew.slice.has))
        (mcmd 1 n.toNat r ab sh t) (fun m => { m with tlast := cset 0 m.tlast n.toNat cls }) t) s

/-- MSTR (R263). -/
def execMstr (r : Run) (n a b : BitVec 7) (s : State) : Host.Outcome State Fault Refusal := mstr false r n a b s

/-- MSTR with a queue source (R263). -/
def execMstrQueue (r : Run) (n b : BitVec 7) (s : State) : Host.Outcome State Fault Refusal := mstr true r n 0#7 b s

/-- MRDO (R264). -/
def execMrdo (r : Run) (n a b : BitVec 7) (s : State) : Host.Outcome State Fault Refusal :=
  let w := ctlOf r
  let ofmt := w % 8
  let wsc := w.testBit 3
  let asc := w.testBit 4
  unit { opMatx 2 r n a b true [srcS a, srcS b] with
         immMin := 1, immMax := 1, immOk := w / 2 ^ 5 == 0 && ofmt != 7 && !(ofmt == 5 && (wsc || asc)),
         mods := some modRND, modOk := ofmt != 5 || rndOf r == 0,
         opc := some (wsc || asc, srcS (opcField r)) }
    (fun t =>
      let ob := sreg t a
      let sh := sreg t b
      let stride := shapeStride sh
      let row := 256 * outSize ofmt
      let c := rdS t (opcOf r)
      let wso := bfield c 23 0
      let aso := bfield c 47 24
      let ends := [ob.toNat + (shapeM sh - 1) * stride + row, if wsc then wso + 1024 else 0,
        if asc then aso + 4 * (shapeM0 sh + shapeM sh) else 0]
      acceptCmd r ([(ob, 16), (BitVec.ofNat 64 stride, 16)] ++ (if wsc then [(BitVec.ofNat 64 wso, 4)] else [])
          ++ if asc then [(BitVec.ofNat 64 aso, 4)] else [])
        (ends.foldl max 0) (decide (row ≤ stride) && decide (shapeM0 sh + shapeM sh ≤ 128))
        (mcmd 2 n.toNat r ob sh t) id t) s

/-- MZERO (R265). -/
def execMzero (r : Run) (n : BitVec 7) (s : State) : Host.Outcome State Fault Refusal :=
  unit (opMatx 3 r n 0#7 0#7 true [])
    (fun t => acceptCmd r [] 0 true (mcmd 3 n.toNat r 0#64 0#64 t)
      (fun m => { m with tlast := cset 0 m.tlast n.toNat 0 }) t) s

/-- MACSV (R265). -/
def execMacsv (r : Run) (n a b : BitVec 7) (s : State) : Host.Outcome State Fault Refusal :=
  unit (opMatx 4 r n a b true [srcS a, srcS b])
    (fun t =>
      let off := sreg t a
      let sh := sreg t b
      acceptCmd r [(off, 64)] (off.toNat + imageSize (shapeM sh)) (decide (shapeM0 sh + shapeM sh ≤ 128))
        (mcmd 4 n.toNat r off sh t) id t) s

/-- MACLD (R265): the declared class becomes the tag when M is 128 or the accumulator is EMPTY. -/
def execMacld (r : Run) (n a b : BitVec 7) (s : State) : Host.Outcome State Fault Refusal :=
  unit (opMatx 5 r n a b true [srcS a, srcS b])
    (fun t =>
      let off := sreg t a
      let sh := sreg t b
      let cls := bfield sh 17 16
      let tag := tagLast t n.toNat
      let whole := decide (shapeM sh = 128)
      acceptCmd r [(off, 64)] (off.toNat + imageSize (shapeM sh))
        (decide (shapeM0 sh + shapeM sh ≤ 128) && cls != 3 && (whole || cls == 0 || tag == 0 || cls == tag))
        (mcmd 5 n.toNat r off sh t)
        (fun m => if whole || tag == 0 then { m with tlast := cset 0 m.tlast n.toNat cls } else m) t) s

/-! ### Operand values (R94, R95, R253 to R255) -/

/-- Element `k` of an INT vector in bytes read with `rd` of `p` planes, at the full scale, with the centre bit (R95). -/
def intElem (v : List Byte) (p rd : Nat) (ctr : Bool) (k : Nat) : Int :=
  let bit := fun (t : Nat) => (leNat (sliceOf 0#8 v (4 * (k / 32 * p + t)) 4)).testBit (k % 32)
  let q := signedOf rd ((List.range rd).foldl (fun m t => 2 * m + (bit t).toNat) 0)
  if ctr && decide (rd < p) then (2 * q + 1) * 2 ^ (p - rd - 1) else q * 2 ^ (p - rd)

/-- Element `k` of a floating vector, as an encoding. -/
def floatElem (v : List Byte) (f k : Nat) : Nat := leNat (sliceOf 0#8 v (k * melem f) (melem f))

/-- A column vector of the latched weights. -/
def Weights.col (w : Weights) (n : Nat) : List Byte := cgetList 0#8 w.cols (256 * n) (vecSize w.fmt w.wp)

/-! ### Sums (R96 to R100) -/

/-- The integer chunk sum of a row and a column. -/
def intChunk (wt : Weights) (ctl : Nat) (row col : List Byte) : Int :=
  ((List.range wt.kr).map (fun k =>
    intElem row (mplanes ctl) (mread ctl) (ctl.testBit 12) k * intElem col wt.wp wt.wk false k)).sum

/-- The windowed sum of R98: each product truncated toward zero to a multiple of 2^(E - 55). -/
def windowed (l : List (Int × Int)) : Int × Int :=
  let live := l.filter (fun x => x.1 != 0)
  match live with
  | [] => (0, 0)
  | h :: t =>
    let top := fun (x : Int × Int) => (Nat.log2 x.1.natAbs : Int) + x.2
    let u := t.foldl (fun m x => max m (top x)) (top h) - 55
    let cut := fun (x : Int × Int) =>
      let mag := if u ≤ x.2 then x.1.natAbs * 2 ^ (x.2 - u).toNat else x.1.natAbs / 2 ^ (u - x.2).toNat
      if x.1 < 0 then -(mag : Int) else (mag : Int)
    ((live.map cut).sum, u)

/-- The floating chunk sum as an FP32 encoding (R96 to R99). -/
def floatChunk (wt : Weights) (f : Nat) (row col : List Byte) : Nat :=
  let ks := List.range wt.kr
  let ops := ks.flatMap (fun k => [(f, floatElem row f k), (wt.fmt, floatElem col wt.fmt k)])
  match ops.find? (fun x => (mfloat x.1).isNan x.2) with
  | some x => fp32.nanFrom (mfloat x.1) x.2
  | none =>
    let prods := ks.map (fun k =>
      mulVal ((mfloat f).decode (floatElem row f k)) ((mfloat wt.fmt).decode (floatElem col wt.fmt k)))
    if prods.any (·.isNone) then genNan 0x21 0xF000
    else
      let terms := prods.filterMap id
      let fins := terms.filterMap (fun t => match t with
        | .fin n m e => some (sgn n m, e)
        | .inf _ => none)
      let inf := fun (b : Bool) => terms.any (fun t => match t with
        | .inf n => n == b
        | .fin .. => false)
      if inf true && inf false then genNan 0x22 0xF000
      else if inf true then fp32.infinity true
      else if inf false then fp32.infinity false
      else
        let x := if f ≤ 2 ∧ wt.fmt ≤ 2 then dyadicSum fins else windowed fins
        fp32.roundInt 0 false x.1 x.2

/-- The new accumulator word of a row and a column (R256). -/
def accStep (wt : Weights) (ctl : Nat) (row col : List Byte) (old : W32) : W32 :=
  if mfmt ctl = 0 then
    w32 (clampInt (old.toInt + intChunk wt ctl row col) (-(2 ^ 31)) (2 ^ 31 - 1))
  else BitVec.ofNat 32 (fp32.add 0 0x22 0xF000 false old.toNat (floatChunk wt (mfmt ctl) row col)).bits

/-! ### Commands by rows -/

/-- The key of an accumulator word. -/
def accKey (n m k : Nat) : Nat := 32768 * n + 256 * m + k

/-- The rows a command works through. -/
def MCmd.total (c : MCmd) : Nat := if c.fn = 3 ∨ c.fn = 0 then 1 else shapeM c.b

/-- The accumulator row of the next step of a command. -/
def MCmd.row (c : MCmd) : Nat := shapeM0 c.b + c.rows

/-- The rows of accumulator `n` from words. -/
def setRow (n m : Nat) (f : Nat → W32) (cols : Nat) (a : Cells W32) : Cells W32 :=
  (List.range cols).foldl (fun x k => cset 0#32 x (accKey n m k) (f k)) a

/-- How many queue entries a row of MSTR takes (R254). -/
def rowEntries (ctl : Nat) : Nat := if 3 ≤ mfmt ctl then 2 else 1

/-- Whether a command waits for queue entries (R254, R259). -/
def MCmd.starved (s : State) (c : MCmd) : Bool :=
  c.fn == 1 && c.ctl.testBit 13 && decide (c.rows < c.total) &&
    decide ((queueOf s.crew (c.ctl / 2 ^ 14 % 8)).length < rowEntries c.ctl)

/-- A row of an MSTR (R263). -/
def mstrRow (c : MCmd) (s : State) : State :=
  match s.crew.matrix.weights with
  | none => s
  | some wt =>
    let q := c.ctl / 2 ^ 14 % 8
    let size := vecSize (mfmt c.ctl) (mplanes c.ctl)
    let es := queueOf s.crew q
    let row := if c.ctl.testBit 13 then (es.take (rowEntries c.ctl)).flatMap (fun e => sliceOf 0#8 e 0 128)
      else scrRead s.crew (c.a.toNat + c.rows * shapeStride c.b) size
    let old := s.crew.matrix.acc
    let new := fun (k : Nat) => accStep wt c.ctl row (wt.col k) (cget 0#32 old (accKey c.acc c.row k))
    let t := if c.ctl.testBit 13 then { s with crew := setQueue s.crew q (es.drop (rowEntries c.ctl)) } else s
    updMatrix (fun m => { m with acc := setRow c.acc c.row new wt.nc m.acc,
                                 tags := cset 0 m.tags c.acc (mclass (mfmt c.ctl)) }) t

/-- An output word of MRDO (R101, R264): a × ws × as rounded once. The sign of a zero is that of the product (log 54). -/
def readout (c : MCmd) (tag : Nat) (a ws as_ : Nat) : Nat :=
  let ofmt := c.ctl % 8
  let isF := decide (tag = 2)
  let ops := (if isF then [a] else []) ++ (if c.ctl.testBit 3 then [ws] else []) ++ (if c.ctl.testBit 4 then [as_] else [])
  let out := match ofmt with
    | 0 => fp32
    | 1 => bf16
    | 2 => fp16
    | 3 => f8e4
    | _ => f8e5
  if ofmt = 5 then a
  else match fp32.firstNan ops with
    | some x => if ofmt = 6 then 0 else out.nanFrom fp32 x
    | none =>
      let v : Val := if isF then fp32.decode a else .fin (decide (signedOf 32 a < 0)) (signedOf 32 a).natAbs 0
      let step := fun (x : Option Val) (f : Nat × Bool) => if f.2 then
          (x.bind (fun y => mulVal y (fp32.decode f.1))).map (fun t => match t with
            | .inf n => Val.inf n
            | .fin n m e => Val.fin n m e)
        else x
      match step (step (some v) (ws, c.ctl.testBit 3)) (as_, c.ctl.testBit 4) with
      | none => if ofmt = 6 then 0 else out.genNan 0x23 0xF000
      | some (.inf n) => if ofmt = 6 then (if n then 0x80 else 0x7F) else out.infinity n
      | some (.fin n m e) =>
        if ofmt = 6 then wrapTo 8 (clampInt (roundToInt c.rnd n m e) (-128) 127)
        else if ofmt = 0 then out.round c.rnd n m 1 e
        else out.convert c.rnd n m 1 e
      | some (.nan _ _) => 0

/-- The engine writes the scratchpad: on a barrier word the crew is killed and nothing of it is written (R260). -/
def engineWrite (o : Nat) (bs : List Byte) (s : State) : State :=
  if touchesBar s.crew o bs.length then killCrew false (engineKill 0x0C 0#64 (BitVec.ofNat 64 o) 0#64 []) s
  else { s with crew := scrWrite o bs s.crew }

/-- A row of an MRDO. -/
def mrdoRow (c : MCmd) (s : State) : State :=
  let size := outSize (c.ctl % 8)
  let word := fun (o : Nat) => scrNat s.crew o 4
  let as_ := word (bfield c.c 47 24 + 4 * c.row)
  let out := fun (k : Nat) => readout c (cget 0 s.crew.matrix.tags c.acc)
    (cget 0#32 s.crew.matrix.acc (accKey c.acc c.row k)).toNat (word (bfield c.c 23 0 + 4 * k)) as_
  engineWrite (c.a.toNat + c.rows * shapeStride c.b) ((List.range 256).flatMap (fun k => leBytes size (out k))) s

/-- The header of an accumulator image (R265). -/
def imageHead (m0 m tag : Nat) : List Byte :=
  sliceOf 0#8 (leBytes 8 (1 + tag * 2 ^ 8 + (m - 1) * 2 ^ 16 + m0 * 2 ^ 24)) 0 64

/-- A row of an accumulator as bytes. -/
def accRowBytes (x : Matrix) (n m : Nat) : List Byte :=
  (List.range 256).flatMap (fun k => bytes32 (cget 0#32 x.acc (accKey n m k)))

/-- A row of a MACSV; the header goes with the first. -/
def macsvRow (c : MCmd) (s : State) : State :=
  let o := c.a.toNat
  let row := fun (t : State) => engineWrite (o + 64 + 1024 * c.rows) (accRowBytes t.crew.matrix c.acc c.row) t
  if c.rows = 0 then
    let t := engineWrite o (imageHead (shapeM0 c.b) (shapeM c.b) (cget 0 s.crew.matrix.tags c.acc)) s
    if t.crew.cond = .absent then t else row t
  else row s

/-- Whether an image's header agrees with a MACLD (R265). -/
def headOk (c : MCmd) (h : List Byte) : Bool :=
  let w := word64 h 0
  bfield w 7 0 == 1 && bfield w 22 16 + 1 == shapeM c.b && bfield w 9 8 == bfield c.b 17 16 &&
    bfield w 15 10 == 0 && bfield w 23 23 == 0 && bfield w 63 31 == 0 && (h.drop 8).all (· == 0#8)

/-- A row of a MACLD. -/
def macldRow (c : MCmd) (s : State) : State :=
  let ok := headOk c (scrRead s.crew c.a.toNat 64)
  let o := c.a.toNat + 64 + 1024 * c.rows
  let f := fun (k : Nat) => if ok then BitVec.ofNat 32 (scrNat s.crew (o + 4 * k) 4) else 0#32
  let cls := bfield c.b 17 16
  updMatrix (fun m => { m with
    acc := setRow c.acc c.row f 256 m.acc, lderr := m.lderr || !ok,
    tags := if shapeM c.b = 128 ∨ cget 0 m.tags c.acc = 0 then cset 0 m.tags c.acc cls else m.tags }) s

/-- MZERO's effect (R265). -/
def mzeroAll (c : MCmd) (s : State) : State :=
  updMatrix (fun m => { m with
    acc := m.acc.filter (fun x => !(decide (32768 * c.acc ≤ x.1 ∧ x.1 < 32768 * (c.acc + 1)))),
    tags := cset 0 m.tags c.acc 0 }) s

/-- The next row of the command at the head. -/
def cmdRow (c : MCmd) (s : State) : State :=
  match c.fn with
  | 1 => mstrRow c s
  | 2 => mrdoRow c s
  | 3 => mzeroAll c s
  | 4 => macsvRow c s
  | _ => macldRow c s

/-- The head command's rows counted. -/
def setHead (f : MCmd → MCmd) (s : State) : State :=
  updMatrix (fun m => { m with cmds := match m.cmds with
    | [] => []
    | c :: t => f c :: t }) s

/-- Rows of the head command performed while it has any and its queue feeds it; nothing more after a kill. -/
def runRows : Nat → State → State
  | 0, s => s
  | n + 1, s =>
    match s.crew.matrix.cmds with
    | [] => s
    | c :: _ =>
      if c.fn = 0 ∨ c.total ≤ c.rows ∨ c.starved s = true then s
      else
        let t := cmdRow c s
        if t.crew.cond = .absent then t else runRows n (setHead (fun x => { x with rows := x.rows + 1 }) t)

/-! ### Timing (R259) -/

/-- The cycles that a command is busy for, from its next row on. -/
def MCmd.busy (m : Matrix) (c : MCmd) : Nat :=
  let rows := c.total - c.rows
  match c.fn with
  | 0 => 24 + ceilDiv (shapeNc c.b * (if mfmt c.ctl = 0 then 16 * mread c.ctl else 128 * melem (mfmt c.ctl))) 128
  | 1 => 24 + rows * ((m.weights.map (fun w => msteps w.fmt w.wk)).getD 0) + 16
  | 2 => (if c.ctl.testBit 3 || c.ctl.testBit 4 then 24 else 0) + 16 + rows * (2 * outSize (c.ctl % 8))
  | 3 => 4
  | 4 => 16 + rows * 8
  | _ => 24 + rows * 8

/-- The cycle a command starts in: when the previous command stands, or the cycle after its acceptance; an MWLD fills from
the cycle after the last latch on. -/
def MCmd.start (m : Matrix) (c : MCmd) : Nat := max (c.acpt + 1) (if c.fn = 0 then m.latched + 1 else m.stoodAt)

/-- The cycle from which the head command stands. -/
def MCmd.stands (m : Matrix) (c : MCmd) : Nat :=
  match c.due with
  | some n => n
  | none => if c.fn = 0 then max (c.start m + c.busy m) m.stoodAt else c.start m + c.busy m

/-- The head command stands at cycle `n` and leaves the queue. -/
def headStands (n : Nat) (s : State) : State :=
  updMatrix (fun m => { m with cmds := m.cmds.drop 1, stoodAt := n }) s

/-- The crew that owns the engine and may use it. -/
def engineOn (crew : Nat) (s : State) : Bool :=
  s.crew.cid == crew && s.crew.cond == .resident && s.crew.matrix.owned && !s.crew.halt

/-- MATRIX_COMMAND_STANDS (R259): the head command, no MWLD, works through its next row; in the cycle before the one in which it
stands, through all that are left. A command that found its queue empty stands later by its wait, and none starts after a thermal
trip (R346). Entries that an MSTR takes from a queue are taken after the pops of the cycle (R260). -/
def execMatrixCommandStands (crew : Nat) (s : State) : Host.Outcome State Fault Refusal :=
  let t := focusCrew s crew
  match t.crew.matrix.cmds with
  | [] => .next s
  | c :: _ =>
    let m := t.crew.matrix
    if !engineOn crew t || c.fn == 0 || decide (now t < c.start m) || (c.due.isNone && t.pkg.halted) then .next s
    else if c.starved t then
      .next (setHead (fun x => { x with due := some (max (c.stands m) (now t + 1 + x.busy m - 24)) }) t)
    else
      let due := c.stands m
      let u := setHead (fun x => { x with due := some due }) t
      let v := runRows (if due ≤ now t + 1 then c.total else 1) u
      let z := if c.fn = 1 ∧ c.ctl.testBit 13 = true then afterUnits v else v
      match z.crew.matrix.cmds with
      | [] => .next z
      | d :: _ => if due ≤ now t ∧ d.total ≤ d.rows then .next (headStands due z) else .next z

/-- A column vector with the rows from KR on, and the words of INT planes that are not read, as 0 (R253, R262, R439). -/
def latchedCol (fmt wp wk kr : Nat) (v : List Byte) : List Byte :=
  v.zipIdx.map (fun x =>
    if fmt = 0 then
      let row := x.2 / 4 / wp * 32 + x.2 % 4 * 8
      if x.2 / 4 % wp < wk then x.1 &&& BitVec.ofNat 8 (2 ^ (kr - row) - 1) else 0#8
    else if x.2 / melem fmt < kr then x.1 else 0#8)

/-- The weights that an MWLD reads (R253, R262). -/
def readWeights (c : MCmd) (s : State) : Weights :=
  let size := vecSize (mfmt c.ctl) (mplanes c.ctl)
  let nc := shapeNc c.b
  let col := fun (n : Nat) => latchedCol (mfmt c.ctl) (mplanes c.ctl) (mread c.ctl) (shapeM c.b)
    (scrRead s.crew (c.a.toNat + n * shapeStride c.b) size)
  { fmt := mfmt c.ctl, wp := mplanes c.ctl, wk := mread c.ctl, kr := shapeM c.b, nc := nc,
    cols := (List.range nc).foldl (fun m n => csetList 0#8 m (256 * n) (col n)) [] }

/-- MWLD_LATCH (R259, R262): with its fill done and every earlier command standing, the MWLD at the head latches. -/
def execMwldLatch (crew : Nat) (s : State) : Host.Outcome State Fault Refusal :=
  let t := focusCrew s crew
  match t.crew.matrix.cmds with
  | [] => .next s
  | c :: _ =>
    let due := c.stands t.crew.matrix
    if !engineOn crew t || c.fn != 0 || decide (now t < due) || t.pkg.halted then .next s
    else .next (headStands due (updMatrix (fun m => { m with weights := some (readWeights c t), latched := due }) t))

/-! ### Status (R266) -/

/-- The status word: weight fields and tags as every accepted command leaves them. -/
def mstatWord (s : State) : W64 :=
  let m := s.crew.matrix
  let w := match m.wlast with
    | some (f, p, k, _, _) => f * 2 ^ 28 + p * 2 ^ 24 + k * 2 ^ 20
    | none => 15 * 2 ^ 28
  let tags := (List.range 4).foldl (fun x n => x + cget 0 m.tlast n * 2 ^ (12 + 2 * n)) 0
  let st := match m.cmds with
    | [] => 0
    | c :: _ => if c.starved s then 2 else 1
  BitVec.ofNat 64 (w + tags + m.lderr.toNat * 2 ^ 11 + m.cmds.length * 2 ^ 4 + st)

/-- MSTAT (R266): with B = 1 it waits until every accepted command stands, and then acquires; a wait that has ended stays
ended while the acquire waits. -/
def execMstat (r : Run) (d w : BitVec 7) (s : State) : Host.Outcome State Fault Refusal :=
  unit { opMatx 6 r d 0#7 w false [dstS d] with lims := decide (w.toNat < 2) }
    (fun t => firstFail
      [(groupActive t, trapExm 0x06 3 r), (t.crew.matrix.owned, trapExm 0x06 7 r),
       (w == 0#7 || t.part.relDone || t.crew.matrix.cmds == [], hold),
       (w == 0#7 || t.part.loads == [],
         fun u => { u with part := { u.part with wait := .retry, relDone := true } })]
      (fun u => done r (wrS 0 d.toNat (mstatWord u) (updMatrix (fun m => { m with lderr := false }) u))) t) s

end Sys2Proof.Machine
end

