-- ==== Sys2Proof/Machine/Image.lean ====
section
/-! DEFINITION. The swap-out image of a crew as bytes, and the crew that an image restores (R275 to R278, R439). -/

namespace Sys2Proof.Machine

/-! ### Sections (R275, R276) -/

/-- A section: its header, its body, and zero bytes up to a multiple of 64. -/
def section_ (type idx : Nat) (body : List Byte) : List Byte :=
  padTo 64 (bytes64 (BitVec.ofNat 64 (type + 2 ^ 8 + idx * 2 ^ 32)) ++ bytes64 (BitVec.ofNat 64 body.length) ++ body)

/-- The 64-byte header of an image: KIND, sections, length, and the crew name block. -/
def imageHeader (kind nsect len : Nat) (c : Crew) : List Byte :=
  bytes64 (BitVec.ofNat 64 (0x5357 * 2 ^ 48 + kind * 2 ^ 40 + 2 ^ 32 + nsect % 2 ^ 32)) ++ bytes64 (BitVec.ofNat 64 len)
    ++ nameBlock c

/-- Bits as bytes, bit j of the map at byte j / 8. -/
def bitBytes (n : Nat) (f : Nat → Bool) : List Byte :=
  (List.range (ceilDiv n 8)).map (fun i =>
    BitVec.ofNat 8 ((List.range 8).foldl (fun m j => if f (8 * i + j) then m + 2 ^ j else m) 0))

/-! ### The bodies (R277) -/

/-- WAVE. -/
def waveBody (w : Wave) : List Byte :=
  wordsBytes ([w.wctl, w.tvec] ++ (List.range 8).map (cget 0#64 w.m)
    ++ [BitVec.ofNat 64 (w.vbase / 8 * 2 ^ 11 + w.vcur / 8 * 2 ^ 16 + w.exitedQ % 2 ^ 16 * 2 ^ 32)])

/-- The state that an image records for a part: the one it was halted in, but HALTED for the part that a STOP halted. -/
def savedState (stopped : Bool) (p : Part) : PartState :=
  if stopped then .halted else if p.state = .halted then p.before else p.state

/-- Word 0 of a PART section: the table word, and the phase that a BARC's arrival returned. -/
def partWord0 (stopped : Bool) (w : Wave) (p : Part) : W64 :=
  let base := (ptabWord0 w p (savedState stopped p).code).toNat
  match p.wait with
  | .barc _ ph _ => BitVec.ofNat 64 (base + 2 ^ 4 + ph % 2 ^ 16 * 2 ^ 48)
  | _ => BitVec.ofNat 64 base

/-- A stack entry: four words. -/
def entryWords (e : Entry) : List W64 :=
  [pcField e.rpc, e.lanes, e.outer, match e.jj with
    | some (j, a) => (pcField a) ||| BitVec.ofNat 64 (j % 16 * 2 ^ 56 + 2 + e.d.toNat)
    | none => BitVec.ofNat 64 e.d.toNat]

/-- The OPEN marks of a part's quads: halfword j holds mark j. -/
def openBytes (w : Wave) (q : Nat) : List Byte :=
  (List.range 16).flatMap (fun j => leBytes 2 ((List.range 16).foldl (fun m i =>
    if q.testBit i && (cget 0#64 w.opens i).getLsbD j then m + 2 ^ i else m) 0))

/-- PART. The stack stands from its outermost entry up. -/
def partBody (stopped : Bool) (w : Wave) (p : Part) : List Byte :=
  wordsBytes [partWord0 stopped w p, pcField p.pc, p.exm, p.sexm] ++ openBytes w p.quads ++ wordsBytes (trapRegs p)
    ++ wordsBytes (sliceOf 0#64 (p.stack.reverse.flatMap entryWords) 0 64) ++ wordsBytes (cgetList 0#64 p.s 0 63)

/-- VREGS. -/
def vregsBody (w : Wave) : List Byte :=
  (List.range w.vcur).flatMap (fun n => (List.range (widthOf w.code)).flatMap (fun l => bytes32 (vraw w n l)))

/-- SCRATCH. -/
def scratchBody (c : Crew) : List Byte :=
  let bar := fun (o : Nat) => c.bars.find? (fun b => b.off == o)
  leBytes 8 c.scr ++ scrRead c 0 c.scr ++ bitBytes (c.scr / 8) (fun j => (bar (8 * j)).isSome)
    ++ ((List.range (c.scr / 8)).flatMap (fun j => match bar (8 * j) with
      | some b => leBytes 64 b.bitmap
      | none => []))

/-- TRACKERS. -/
def trackersBody (c : Crew) : List Byte :=
  (List.range 16).flatMap (fun k =>
    let t := getTrk c k
    wordsBytes [BitVec.ofNat 64 (t.kind % 4 + t.scope % 8 * 2 ^ 8 + t.lease % 2 ^ 16 * 2 ^ 16), t.base, t.limit, BitVec.ofNat 64 t.lct])

/-- HANDLES. -/
def handlesBody (c : Crew) : List Byte :=
  (List.range c.nbuf).flatMap (fun n =>
    let b := getBuf c n
    wordsBytes [BitVec.ofNat 64 b.off, BitVec.ofNat 64 (b.size % 2 ^ 32 + b.state % 8 * 2 ^ 32 + b.count % 2 ^ 8 * 2 ^ 40)])

/-- COPY. The manual names the contents in order; the model packs them so: a word with FN, the control word, a word with the
named tracker, the phase of an ordered reduce-copy and the size of a lane, the completion offset and value, the descriptor or
the numbers of the lanes as a mask and 64 lanes, and the bitmap of the lines written (log 19). -/
def copyBody (s : State) (c : Copy) : List Byte :=
  let lines := c.dstLines s
  let trk := BitVec.ofNat 64 (c.phase * 2 ^ 4 + (match c.trk with
    | some t => 2 ^ 8 + t % 16 * 2 ^ 9
    | none => 0) + c.size % 2 ^ 32 * 2 ^ 32)
  let mask := maskOf (fun l => c.lanes.any (fun x => x.1 == l))
  let lane := fun (l : Nat) => ((c.lanes.find? (fun x => x.1 == l)).map (·.2)).getD (0#64, 0#64)
  wordsBytes [BitVec.ofNat 64 c.fn, BitVec.ofNat 64 c.ctl, trk, BitVec.ofNat 64 c.cwOff, c.cwVal, mask]
    ++ (if c.fn = 1 ∨ c.fn = 2 then sliceOf 0#8 c.desc 0 64
      else (List.range 64).flatMap (fun l => wordsBytes [(lane l).1, (lane l).2]))
    ++ bitBytes lines.length (fun i => (lines[i]?.map c.lines.contains).getD false)

/-- Whether an SFQ section has content. -/
def hasSfq (c : Crew) : Bool := c.sfq != [] || c.waves.any (fun w => w.parts.any (fun p => p.drops != 0))

/-- SFQ. -/
def sfqBody (c : Crew) : List Byte :=
  let drops := fun (w : Wave) (i : Nat) => ((w.parts.find? (fun p => lowBit p.quads == i)).map (·.drops)).getD 0
  leBytes 8 c.sfq.length
    ++ (List.range c.nwave).flatMap (fun n => match c.waves.find? (fun w => w.widx == n) with
      | some w => (List.range 16).map (fun i => BitVec.ofNat 8 (drops w i))
      | none => List.replicate 16 0#8)
    ++ c.sfq.flatMap SfRecord.bytes

/-- MATRIX (R439). -/
def matrixBody (m : Matrix) : List Byte :=
  let head := match m.weights with
    | some w => [BitVec.ofNat 64 (w.fmt + w.wp * 2 ^ 4 + w.wk * 2 ^ 8),
        BitVec.ofNat 64 (w.kr - 1 + (w.nc - 1) * 2 ^ 8 + vecSize w.fmt w.wp * 2 ^ 16)]
    | none => [15#64, 0#64]
  let cols := match m.weights with
    | some w => (List.range w.nc).flatMap w.col
    | none => []
  let accs := (List.range 4).flatMap (fun n =>
    imageHead 0 128 (cget 0 m.tags n) ++ (List.range 128).flatMap (accRowBytes m n))
  let cmd := fun (x : MCmd × Nat) =>
    let c := x.1
    wordsBytes [BitVec.ofNat 64 (c.fn + c.acc * 2 ^ 8 + (if x.2 = 0 ∧ c.fn ≠ 0 ∧ (c.due.isSome = true ∨ 0 < c.rows) then 2 ^ 16 + c.rows * 2 ^ 24 else 0)),
      BitVec.ofNat 64 c.ctl, c.a, c.b, c.c, 0#64, 0#64, 0#64]
  wordsBytes head ++ cols ++ accs ++ wordsBytes [BitVec.ofNat 64 m.lderr.toNat, BitVec.ofNat 64 m.cmds.length]
    ++ (m.cmds.zipIdx).flatMap cmd

/-- SLICE. The manual names the contents in order; the model packs a loop level as counter, count and loop address, the
execution counts as a number of address and count pairs, and each queue as a number of entries (log 19). -/
def sliceBody (x : Slice) : List Byte :=
  wordsBytes (cgetList 0#64 x.a 0 16) ++ wordsBytes [x.pc]
    ++ (List.range 4).flatMap (fun k => leBytes 8 (cget 0 x.ctr k) ++ leBytes 8 (cget 0 x.cnt k) ++ bytes64 (cget 0#64 x.loop k))
    ++ leBytes 8 x.depth ++ leBytes 8 x.execs.length
    ++ x.execs.flatMap (fun e => leBytes 8 e.1 ++ leBytes 8 e.2) ++ leBytes 8 x.state
    ++ (List.range 8).flatMap (fun q => leBytes 8 (cget [] x.queues q).length
      ++ (cget [] x.queues q).flatMap (fun e => sliceOf 0#8 e 0 128))

/-! ### The image (R275, R277) -/

/-- The sections of R277 for the crew in focus. A crew that a STOP halted has its stopping part saved as HALTED. -/
def crewSections (s : State) : List (List Byte) :=
  let c := packCrew s
  let stopped := fun (w : Wave) (p : Part) => match c.stop with
    | some (2, _, wi, pi, _, _) => w.widx == wi && lowBit p.quads == pi
    | _ => false
  c.waves.map (fun w => section_ 0x01 w.widx (waveBody w))
    ++ c.waves.flatMap (fun w => w.parts.map (fun p =>
      section_ 0x02 (16 * w.widx + lowBit p.quads) (partBody (stopped w p) w p)))
    ++ c.waves.map (fun w => section_ 0x03 w.widx (vregsBody w))
    ++ [section_ 0x04 0 (scratchBody c), section_ 0x05 0 (trackersBody c), section_ 0x06 0 (handlesBody c)]
    ++ (c.copies.filter (·.squash)).map (fun x => section_ 0x07 x.ord (copyBody s x))
    ++ (if hasSfq c then [section_ 0x08 0 (sfqBody c)] else [])
    ++ (if c.matrix.owned then [section_ 0x09 0 (matrixBody c.matrix)] else [])
    ++ (if c.slice.has then [section_ 0x0A 0 (sliceBody c.slice)] else [])

/-- The swap image of the crew in focus. -/
def swapImage (s : State) : List Byte :=
  let secs := crewSections s ++ [section_ 0x00 0 []]
  let body := secs.flatten
  imageHeader 0 secs.length (64 + body.length) (packCrew s) ++ body

/-- The largest image of a crew (R378): every part split, 128 registers to a lane, 16 barrier words, 64 squashed copies,
and the engines' sections where they are declared; a copy is squashed only when its bitmap fits (log 19). -/
def maxImage (code nwave scr nbuf : Nat) (matx sli : Bool) : Nat :=
  let sec := fun (n : Nat) => 64 * ceilDiv (16 + n) 64
  let w := widthOf code
  let n := 64 + nwave * (sec 0x58 + w / 4 * sec 0x468 + sec (512 * w)) + sec (8 + scr + scr / 64 + 1024) + sec 512
    + sec (16 * nbuf) + 64 * sec (48 + 1024 + copyLineLimit / 8) + sec (8 + 16 * nwave + 256)
    + (if matx then sec (32 + 65536 + 4 * 131136 + 512) else 0) + (if sli then sec (65536 + 16384) else 0) + 64
  256 * ceilDiv n 256

/-! ### Reading an image back (R278) -/

/-- A section as it is read: TYPE, INDEX and body. -/
structure Sect where
  type : Nat
  idx  : Nat
  body : List Byte
  deriving DecidableEq, Repr

/-- The sections of an image; none where a format tag or a type is refused or a section is cut. -/
def readSects : Nat → List Byte → Option (List Sect)
  | 0, _ => none
  | n + 1, b =>
    let h := word64 b 0
    let len := (word64 b 1).toNat
    if b.length < 16 ∨ b.length < 16 + len ∨ bfield h 15 8 ≠ 1 ∨ bfield h 31 16 ≠ 0 ∨ 0x0B ≤ bfield h 7 0 then none
    else if bfield h 7 0 = 0 then (if len = 0 ∧ n = 0 then some [] else none)
    else (readSects n (b.drop (64 * ceilDiv (16 + len) 64))).map (fun l =>
      { type := bfield h 7 0, idx := bfield h 63 32, body := (b.drop 16).take len } :: l)

/-- Whether bit `j` of a bitmap is set. -/
def bitAt (b : List Byte) (j : Nat) : Bool := ((b[j / 8]?).getD 0#8).getLsbD (j % 8)

/-- A part's state code read back, from the state before the halt: the part that a STOP halted is saved as HALTED and returns
to RUN, or to its handler (R166, R421). -/
def stateOf (before : PartState) (n : Nat) : Option PartState :=
  match n with
  | 0 => some .run
  | 1 => some .joinwait
  | 2 => some .fusewait
  | 3 => some .trapped
  | 4 => some (if before = .trapped then .trapped else .run)
  | _ => none

/-- The wave of a WAVE section; what the image does not hold comes from the wave as it was saved (log 20). -/
def readWave (old : Crew) (x : Sect) : Option Wave :=
  let o := (old.waves.find? (fun w => w.widx == x.idx)).getD Wave.none
  let w := word64 x.body 10
  if x.body.length ≠ 0x58 ∨ old.nwave ≤ x.idx then none
  else some { o with
    widx := x.idx, code := old.code, vbase := 8 * bfield w 15 11, vcur := 8 * bfield w 20 16, v := [],
    m := csetList 0#64 [] 0 ((List.range 8).map (fun i => word64 x.body (2 + i) &&& widthMask (widthOf old.code))),
    wctl := word64 x.body 0 &&& wctlFields,
    tvec := pcField (word64 x.body 1), exitedQ := bfield w 47 32, opens := [],
    snap := none, unsettled := none, kept := [], parts := [] }

/-- A stack entry read back; the hints of a bound JOIN come from the entry as it was saved (log 20). -/
def readEntry (saved : List Entry) (b : List Byte) (i : Nat) : Entry :=
  let w := fun (k : Nat) => word64 b (14 + 4 * i + k)
  let jj := if (w 3).getLsbD 1 then some (bfield (w 3) 59 56, pcField (w 3)) else none
  let o := (saved[i]?).filter (fun e => e.jj == jj)
  { rpc := pcField (w 0), lanes := w 1, outer := w 2, d := (w 3).getLsbD 0, jj := jj, jto := (o.map (·.jto)).getD 0,
    hints := (o.map (·.hints)).getD 0 }

/-- The part of a PART section. A part in JOINWAIT or FUSEWAIT waits at its saved PC; the word that a BARC waits on, and the
JOIN last passed by a part in JOINWAIT, come from the part as it was saved (log 20). -/
def readPart (old : Crew) (x : Sect) : Option Part :=
  let b := x.body
  let w0 := word64 b 0
  let ow := (old.waves.find? (fun w => w.widx == x.idx / 16)).getD Wave.none
  let q := bfield w0 47 32
  let o := (ow.parts.find? (fun p => lowBit p.quads == lowBit q)).getD Part.none
  let wait := match o.wait with
    | .barc off _ _ => if w0.getLsbD 4 then Wait.barc off (bfield w0 63 48) false else Wait.none
    | .idle => if word64 b 2 = 0#64 ∧ bfield w0 9 5 = 0 then Wait.idle else Wait.none
    | _ => Wait.none
  match stateOf o.before (bfield w0 2 0) with
  | none => none
  | some st =>
    if b.length ≠ 0x468 ∨ q = 0 ∨ lowBit q ≠ x.idx % 16 ∨ 16 < bfield w0 9 5 then none
    else some { o with
      quads := q, s := csetList 0#64 [] 0 ((List.range 63).map (fun i => word64 b (78 + i))),
      exm := word64 b 2 &&& quadLanes q,
      pc := pcField (word64 b 1), state := .halted, before := st,
      stack := ((List.range (bfield w0 9 5)).map (readEntry o.stack.reverse b)).reverse, nosplit := w0.getLsbD 10,
      jtout := w0.getLsbD 11, jidx := if st = .joinwait then o.jidx else bfield w0 15 12, jwait := bfield w0 15 12, timer := none, ready := 0, pend := [], loads := [],
      xpc := pcField (word64 b 8), xcause := word64 b 9 &&& xcauseFields, xlanes := word64 b 10,
      xpart := word64 b 11 &&& xpartFields, xinfo := word64 b 12,
      xaddr := word64 b 13, sexm := word64 b 3, wait := wait, relDone := false, drops := 0, yielded := false, arr := none,
      waitAt := if o.pc = pcField (word64 b 1) then o.waitAt else pcField (word64 b 1) }

/-- A part put in its wave, with its OPEN marks. -/
def putPart (b : List Byte) (p : Part) (w : Wave) : Wave :=
  let marks := fun (m : Cells W64) (i : Nat) =>
    if p.quads.testBit i then
      cset 0#64 m i (BitVec.ofNat 64 ((List.range 16).foldl (fun x j =>
        if (leNat (sliceOf 0#8 b (32 + 2 * j) 2)).testBit i then x + 2 ^ j else x) 0))
    else m
  { w with parts := insertPart p w.parts, opens := (List.range 16).foldl marks w.opens }

/-- VREGS read back. -/
def readVregs (w : Wave) (b : List Byte) : Cells W32 :=
  (List.range w.vcur).foldl (fun m n => (List.range (widthOf w.code)).foldl (fun k l =>
    cset 0#32 k (64 * n + l) (word32 b (n * widthOf w.code + l))) m) []

/-- SCRATCH read back. -/
def readScratch (c : Crew) (b : List Byte) : Option Crew :=
  let tags := (List.range (c.scr / 8)).filter (fun j => bitAt (b.drop (8 + c.scr)) j)
  let base := 8 + c.scr + ceilDiv (c.scr / 8) 8
  if leNat (b.take 8) ≠ c.scr ∨ b.length ≠ base + 64 * tags.length then none
  else some { c with
    scratch := csetList 0#8 [] 0 ((b.drop 8).take c.scr),
    bars := (tags.zipIdx).map (fun x => ({ off := 8 * x.1, bitmap := leNat (sliceOf 0#8 b (base + 64 * x.2) 64) } : Barrier)) }

/-- TRACKERS read back: OUT starts at 0. -/
def readTrackers (c : Crew) (b : List Byte) : Option Crew :=
  if b.length ≠ 512 then none
  else some ((List.range 16).foldl (fun x k =>
    let w := word64 b (4 * k)
    setTrk x k { kind := bfield w 1 0, base := word64 b (4 * k + 1), limit := word64 b (4 * k + 2), scope := bfield w 10 8,
                 lease := bfield w 31 16, out := 0, lct := (word64 b (4 * k + 3)).toNat }) { c with trk := [] })

/-- HANDLES read back. -/
def readHandles (c : Crew) (b : List Byte) : Option Crew :=
  if b.length ≠ 16 * c.nbuf then none
  else some ((List.range c.nbuf).foldl (fun x n =>
    let w := word64 b (2 * n + 1)
    setBuf x n { off := (word64 b (2 * n)).toNat, size := bfield w 31 0, state := bfield w 34 32, count := bfield w 47 40 })
    { c with bufs := [] })

/-- The bytes of a COPY before its bitmap. -/
def copyHead (fn : Nat) : Nat := if fn = 1 ∨ fn = 2 then 112 else 1072

/-- A COPY read back: `lines` holds positions in the copy's line order until the crew stands on its core. The completion
times of the lines written come from the copy as it was saved (log 20). -/
def readCopy (old : Crew) (x : Sect) : Option Copy :=
  let b := x.body
  let fn := (word64 b 0).toNat
  let h := word64 b 2
  let ctl := bfield (word64 b 1) 23 0
  let boxed := fn == 1 || fn == 2
  let at_ := copyHead fn
  let o := old.copies.find? (fun c => c.ord == x.idx)
  let mask := word64 b 5
  if b.length < at_ ∨ 3 < fn then none
  else some {
    ord := x.idx, fn := fn, ctl := ctl, trk := if h.getLsbD 8 then some (bfield h 12 9) else none,
    trks := (o.map (·.trks)).getD [], bound := (o.map (·.bound)).getD old.trk,
    hnd := if ctlHmode ctl = 0 then none else some (ctlHnd ctl), cwOff := (word64 b 3).toNat, cwVal := word64 b 4,
    desc := if boxed then sliceOf 0#8 b 48 64 else [],
    lanes := if boxed then []
      else (lanesOf mask).map (fun l => (l, word64 b (6 + 2 * l), word64 b (7 + 2 * l))),
    size := bfield h 63 32, lines := (List.range (8 * (b.length - at_))).filter (bitAt (b.drop at_)),
    phase := bfield h 5 4, poll := 0, ct := (o.map (·.ct)).getD 0, squash := true, slice := (o.map (·.slice)).getD false }

/-- A store-fault record read back. -/
def readSf (b : List Byte) : SfRecord :=
  let w := word64 b 3
  { addr := word64 b 0, lanes := word64 b 1, pc := word64 b 2, seq := bfield w 63 48, reason := bfield w 39 32,
    dreg := bfield w 31 25, sst := w.getLsbD 24, lsz := bfield w 19 16, widx := bfield w 12 8, pidx := bfield w 3 0 }

/-- SFQ read back. -/
def readSfq (c : Crew) (b : List Byte) : Option Crew :=
  let n := leNat (b.take 8)
  let drop := fun (w : Wave) (p : Part) => { p with drops := ((b[8 + 16 * w.widx + lowBit p.quads]?).getD 0#8).toNat }
  if 8 < n ∨ b.length ≠ 8 + 16 * c.nwave + 32 * n then none
  else some { c with
    sfq := (List.range n).map (fun i => readSf (sliceOf 0#8 b (8 + 16 * c.nwave + 32 * i) 32)),
    waves := c.waves.map (fun w => { w with parts := w.parts.map (drop w) }) }

/-- Whether the command at position `i` keeps the layout of R439: an FN of a queued command, the named bits alone, rows done
only in the command in progress, which is the first and no MWLD, and 0 for what its word does not capture, such as the A of an MSTR
from a queue (R263). -/
def cmdOk (b : List Byte) (i : Nat) : Bool :=
  let w := fun (k : Nat) => word64 b (8 * i + k)
  let fn := bfield (w 0) 2 0
  let runs := (w 0).getLsbD 16
  w 0 &&& ~~~ 0xFF010307#64 == 0#64 && decide (fn ≤ 5) && (!runs || (i == 0 && fn != 0)) &&
    (runs || bfield (w 0) 31 24 == 0) && bfield (w 1) 63 24 == 0 && (fn != 1 || !(w 1).getLsbD 13 || w 2 == 0#64) && (decide (fn ≤ 2) || w 1 == 0#64) &&
    (fn != 3 || (bfield (w 0) 9 8 ≤ 3 && w 2 == 0#64 && w 3 == 0#64)) && (fn == 2 || w 4 == 0#64) &&
    (fn != 0 || bfield (w 0) 9 8 == 0) && w 5 == 0#64 && w 6 == 0#64 && w 7 == 0#64

/-- The weight fields and tags that the commands of a list leave (R258, R266). -/
def leaveCmds (m : Matrix) : List MCmd → Matrix
  | [] => m
  | c :: t =>
    let tag := cget 0 m.tlast c.acc
    leaveCmds (match c.fn with
      | 0 => { m with wlast := some (mfmt c.ctl, mplanes c.ctl, mread c.ctl, shapeM c.b, shapeNc c.b) }
      | 1 => { m with tlast := cset 0 m.tlast c.acc (mclass (mfmt c.ctl)) }
      | 3 => { m with tlast := cset 0 m.tlast c.acc 0 }
      | 5 => if shapeM c.b = 128 ∨ tag = 0 then { m with tlast := cset 0 m.tlast c.acc (bfield c.b 17 16) } else m
      | _ => m) t

/-- The commands of a MATRIX section; the rounding mode, for which the image has no field, is that of the command as it
was saved (log 20). -/
def readCmds (old : Matrix) (b : List Byte) (n : Nat) : List MCmd :=
  (List.range n).map (fun i =>
    let w := fun (k : Nat) => word64 b (8 * i + k)
    let o := old.cmds[i]?
    { fn := bfield (w 0) 2 0, acc := bfield (w 0) 9 8, ctl := bfield (w 1) 23 0, a := w 2, b := w 3, c := w 4,
      rnd := (o.map (·.rnd)).getD 0, rows := bfield (w 0) 31 24, acpt := 0, due := none })

/-- Whether the header of an accumulator's image of 128 rows is well formed (R265): its tag is EMPTY, s32 or FP32 (R251). -/
def accHeadOk (w : W64) (rest : List Byte) : Bool :=
  bfield w 7 0 == 1 && bfield w 22 16 == 127 && bfield w 9 8 != 3 && bfield w 15 10 == 0 && bfield w 63 23 == 0 && rest.all (· == 0#8)

/-- MATRIX read back (R439). -/
def readMatrix (old : Matrix) (b : List Byte) : Option Matrix :=
  let w0 := word64 b 0
  let w1 := word64 b 1
  let held := bfield w0 3 0 != 15
  let fmt := bfield w0 3 0
  let size := vecSize fmt (bfield w0 7 4)
  let nc := if held then bfield w1 15 8 + 1 else 0
  let accs := b.drop (16 + nc * size)
  let tail := accs.drop (4 * 131136)
  let n := (word64 tail 1).toNat
  let col := fun (k : Nat) => sliceOf 0#8 b (16 + k * size) size
  let acc := fun (m : Cells W32) (i : Nat) => (List.range 128).foldl (fun x r => (List.range 256).foldl (fun y k =>
    cset 0#32 y (accKey i r k) (word32 accs (i * 131136 / 4 + 16 + 256 * r + k))) x) m
  let ok := bfield w0 63 12 == 0 && (if held then mfmtOk fmt (bfield w0 7 4) (bfield w0 11 8) && bfield w1 39 16 == size
      && bfield w1 63 40 == 0 && bfield w1 7 7 == 0 else w0 == 15#64 && w1 == 0#64)
    && decide (n ≤ 8) && decide (b.length = 16 + nc * size + 4 * 131136 + 16 + 64 * n)
    && bfield (word64 tail 0) 63 1 == 0 && (List.range n).all (cmdOk (tail.drop 16))
    && (List.range nc).all (fun k => col k == latchedCol fmt (bfield w0 7 4) (bfield w0 11 8) (bfield w1 6 0 + 1) (col k))
    && (List.range 4).all (fun i => accHeadOk (word64 accs (i * 131136 / 8)) (sliceOf 0#8 accs (i * 131136 + 8) 56))
  if !ok then none
  else
    let tags := csetList 0 [] 0 ((List.range 4).map (fun i => bfield (word64 accs (i * 131136 / 8)) 9 8))
    let cmds := readCmds old (tail.drop 16) n
    let wlast := if held then some (fmt, bfield w0 7 4, bfield w0 11 8, bfield w1 6 0 + 1, nc) else none
    some <| (fun (m : Matrix) => leaveCmds m cmds) { old with
    owned := true, wlast := wlast, tlast := tags,
    weights := if held then some { fmt := fmt, wp := bfield w0 7 4, wk := bfield w0 11 8, kr := bfield w1 6 0 + 1, nc := nc,
                                   cols := (List.range nc).foldl (fun m k => csetList 0#8 m (256 * k) (col k)) [] } else none,
    acc := (List.range 4).foldl acc [],
    tags := tags, cmds := cmds, lderr := (word64 tail 0).getLsbD 0, stoodAt := 0, latched := 0 }

/-- The queues of a SLICE section from its bytes on: each a number of entries and the entries. -/
def readQueues : Nat → Nat → List Byte → Cells (List (List Byte)) → Option (Cells (List (List Byte)))
  | 0, _, b, m => if b = [] then some m else none
  | k + 1, q, b, m =>
    let n := leNat (b.take 8)
    if b.length < 8 ∨ 16 < n ∨ b.length < 8 + 128 * n then none
    else readQueues k (q + 1) (b.drop (8 + 128 * n)) (cset [] m q ((List.range n).map (fun i => sliceOf 0#8 b (8 + 128 * i) 128)))

/-- SLICE read back; its addresses are multiples of 4 (R59, log 53). -/
def readSlice (old : Slice) (b : List Byte) : Option Slice :=
  let w := fun (k : Nat) => word64 b k
  let n := (w 30).toNat
  let rest := b.drop (8 * (31 + 2 * n))
  if b.length < 8 * (32 + 2 * n) then none
  else (readQueues 8 0 (rest.drop 8) []).map (fun qs => { old with
    has := true, queues := qs, a := csetList 0#64 [] 0 ((List.range 16).map w), pc := wordPc (w 16),
    ctr := csetList 0 [] 0 ((List.range 4).map (fun k => (w (17 + 3 * k)).toNat)),
    cnt := csetList 0 [] 0 ((List.range 4).map (fun k => (w (18 + 3 * k)).toNat)),
    loop := csetList 0#64 [] 0 ((List.range 4).map (fun k => wordPc (w (19 + 3 * k)))), depth := (w 29).toNat,
    execs := (List.range n).foldl (fun m i => cset 0 m (w (31 + 2 * i)).toNat (w (32 + 2 * i)).toNat) [],
    state := (word64 rest 0).toNat, push := none })

/-- One section restored into a crew. -/
def readSect (old : Crew) (x : Sect) (c : Crew) : Option Crew :=
  match x.type with
  | 0x01 => (readWave old x).map (fun w => { c with waves := insertWave w c.waves })
  | 0x02 => (readPart old x).bind (fun p =>
      if c.waves.any (fun w => w.widx == x.idx / 16) then
        some { c with waves := updIf (fun (w : Wave) => w.widx == x.idx / 16) (putPart x.body p) c.waves }
      else none)
  | 0x03 => match c.waves.find? (fun w => w.widx == x.idx) with
    | some w =>
      let put := fun (y : Wave) => { y with v := readVregs w x.body }
      if x.body.length = 4 * w.vcur * widthOf w.code then
        some { c with waves := updIf (fun (y : Wave) => y.widx == x.idx) put c.waves }
      else none
    | none => none
  | 0x04 => readScratch c x.body
  | 0x05 => readTrackers c x.body
  | 0x06 => readHandles c x.body
  | 0x07 => (readCopy old x).map (fun y => { c with copies := c.copies ++ [y] })
  | 0x08 => readSfq c x.body
  | 0x09 => (readMatrix old.matrix x.body).map (fun m => { c with matrix := m })
  | _ => (readSlice old.slice x.body).map (fun y => { c with slice := y })

/-- The crew that an image restores, from the crew as it was saved; none where the image is refused (R278). -/
def readImage (old : Crew) (b : List Byte) : Option Crew :=
  let w0 := word64 b 0
  let base : Crew := { old with
    waves := [], scratch := [], bars := [], trk := [], bufs := [], copies := [], sfq := [], stores := [],
    matrix := { Matrix.reset with owned := old.matrix.owned }, slice := { Slice.reset with has := old.slice.has } }
  if bfield w0 63 48 ≠ 0x5357 ∨ bfield w0 47 40 ≠ 0 ∨ bfield w0 39 32 ≠ 1 then none
  else match readSects (bfield w0 31 0) ((b.take (word64 b 1).toNat).drop 64) with
    | none => none
    | some l => l.foldl (fun c x => c.bind (readSect old x)) (some base)

/-- Whether the bitmap of each COPY section of an image has a bit for each line of its copy (R278), once the crew that the
image restores stands in focus. -/
def bitmapsOk (b : List Byte) (s : State) : Bool :=
  match readSects (bfield (word64 b 0) 31 0) ((b.take (word64 b 1).toNat).drop 64) with
  | none => false
  | some l => (l.filter (fun x => x.type == 7)).all (fun x => match findCopy s x.idx with
      | some c => x.body.length == copyHead c.fn + ceilDiv (c.dstLines s).length 8
      | none => false)

/-- The engine of a restored crew starts again from its next row, and fills weights that have not latched again, from this
cycle on (R267). -/
def restartEngine (s : State) : State :=
  { s with crew := { s.crew with matrix := { s.crew.matrix with
    cmds := s.crew.matrix.cmds.map (fun (c : MCmd) => { c with acpt := now s, due := none }), stoodAt := now s, latched := now s } } }

/-- The line positions of restored copies turned into lines, once the crew stands in focus on its core. -/
def fixCopies (s : State) : State :=
  let fix := fun (c : Copy) =>
    let all := c.dstLines s
    { c with lines := c.lines.filterMap (fun i => all[i]?) }
  { s with crew := { s.crew with copies := s.crew.copies.map fix } }

end Sys2Proof.Machine
end

