-- ==== Sys2Proof/Machine/Power.lean ====
section
/-! DEFINITION. Heat, refresh, droop, body bias, taper, soft errors and the power cap (R341 to R354, R408, R409). -/

namespace Sys2Proof.Machine

/-! ### Lifetime records (R409) -/

def updLife (f : Lifetime → Lifetime) (s : State) : State := { s with pkg := { s.pkg with life := f s.pkg.life } }

/-- A count raised. -/
def addCell (m : Cells Nat) (k n : Nat) : Cells Nat := cset 0 m k (cget 0 m k + n)

/-- The bias code of a cluster (R351). -/
def biasCode (c : Cluster) : Int := signedOf 8 (bfield c.bbias 15 8)

/-- The time since a cluster was last counted goes into its records: halved time, time at its bias code, derated time. -/
def countCluster (c : Nat) (s : State) : State :=
  let x := getCluster s c
  let dt := s.clock - x.since
  let code := (biasCode x + 40).toNat
  updLife (fun (l : Lifetime) => { l with
      droop := if x.gctl.getLsbD 0 then addCell l.droop (4 * c + 2) dt else l.droop,
      bias := addCell (if x.bbias.getLsbD 16 then addCell l.bias (128 * c + 127) dt else l.bias) (128 * c + code) dt })
    (setCluster s c { x with since := s.clock })

/-- The boundary has come at which a cluster's cycle changes its length: its time is counted first, and its cycle count goes
on (R347). -/
def settleClock (c : Nat) (s : State) : State :=
  let x := getCluster s c
  match x.shift with
  | some n =>
    if s.clock < n then s
    else
      let t := countCluster c s
      let y := getCluster t c
      setCluster t c { y with
        cyc := cycleOf s c, clk := n, len := cycleLen y, shift := none, gctl := bset y.gctl 0 0 y.halve.toNat }
  | none => s

/-- The 5 °C bin of a temperature in quarter degrees: one below 40 °C, one above 125 °C (R409). -/
def tempBin (t : Int) : Nat := if t < 160 then 0 else if 500 ≤ t then 18 else ((t - 160) / 20).toNat + 1

/-- The time since a vault was last counted goes into the bin of its last reading (R409). -/
def countVault (v : Nat) (s : State) : State :=
  let x := cget Vault.reset s.vaults v
  if x.sampled = false then s
  else updLife (fun (l : Lifetime) => { l with
      temps := addCell l.temps (32 * v + tempBin (signedOf 12 (bfield x.talw 27 16))) (s.clock - x.since) })
    { s with vaults := cset Vault.reset s.vaults v { x with since := s.clock } }

/-- Records with what has been counted after them. -/
def Lifetime.add (a b : Lifetime) : Lifetime :=
  let sum := fun (x y : Cells Nat) => y.foldl (fun m z => addCell m z.1 z.2) x
  { hours := a.hours + b.hours, temps := sum a.temps b.temps, droop := sum a.droop b.droop, bias := sum a.bias b.bias,
    ageing := b.ageing.foldl (fun m z => cset [] m z.1 z.2) a.ageing, ecc := sum a.ecc b.ecc, trips := a.trips ++ b.trips }

/-- The records as module flash takes them: before boot has loaded those of module flash, what has been counted is added to
those (R398). -/
def writeLife (s : State) : State :=
  let t := (List.range 32).foldl (fun u c => countVault c (countCluster c u)) s
  let put := fun (x y : Lifetime) => { t with pkg := { t.pkg with life := y, flash := { t.pkg.flash with life := x } } }
  if t.pkg.booted then put t.pkg.life t.pkg.life else put (Lifetime.add t.pkg.flash.life t.pkg.life) Lifetime.reset

/-- LIFETIME_RECORD_WRITE (R409): every powered hour. -/
def execLifetimeRecordWrite (s : State) : Host.Outcome State Fault Refusal :=
  .next (if s.pkg.powered ∧ s.pkg.nextHour ≤ timeOf s then
      writeLife (updLife (fun (l : Lifetime) => { l with hours := l.hours + 1 })
        { s with pkg := { s.pkg with nextHour := s.pkg.nextHour + 3600 * 10 ^ 9 } })
    else s)

/-! ### Vault temperature (R341 to R345) -/

/-- MULT and CLOSED after a sample at `t` quarter degrees (R342 to R344); `dwelt` when 1 ms has passed since they last
changed. -/
def nextMult (mult : Nat) (closed dwelt : Bool) (t : Int) : Nat × Bool :=
  if 420 < t then (2, true)
  else if closed then (2, decide (400 ≤ t))
  else if 380 < t then (2, false)
  else if 340 < t ∧ mult < 1 then (1, false)
  else if dwelt ∧ ((mult = 1 ∧ t ≤ 332) ∨ (mult = 2 ∧ t ≤ 372)) then (mult - 1, false)
  else (mult, false)

/-- TALW (R345). -/
def talwOf (seq mult : Nat) (closed : Bool) (t : Int) : W64 :=
  BitVec.ofNat 64 (seq % 2 ^ 16 * 2 ^ 48 + mult * 2 ^ 32 + closed.toNat * 2 ^ 31 + wrapTo 12 t * 2 ^ 16 + wrapTo 16 (420 - t))

/-- The gutter divider follows the vault above (R344, R347). -/
def vaultHold (c : Nat) (closed : Bool) (s : State) : State :=
  let x := getCluster s c
  if x.gctl.getLsbD 1 = closed then s else follow c 1 (setCluster s c { x with gctl := bset x.gctl 1 1 closed.toNat })

/-- One sample of a vault at `t` quarter degrees; the time since the last one belongs to that one's reading. -/
def sampleVault (v : Nat) (t : Int) (s0 : State) : State :=
  let s := countVault v s0
  let x := cget Vault.reset s.vaults v
  let mult := bfield x.talw 33 32
  let closed := x.talw.getLsbD 31
  let n := nextMult mult closed (x.sampled && decide (x.changed + 1000000 ≤ timeOf s)) t
  let moved := n != (mult, closed)
  let seq := bfield x.talw 63 48 + moved.toNat
  let y : Vault := {
    talw := talwOf seq n.1 n.2 t, changed := if moved || !x.sampled then timeOf s else x.changed, sampled := true,
    next := (if x.sampled then x.next else timeOf s) + 10000, since := s.clock }
  vaultHold v n.2 { s with vaults := cset Vault.reset s.vaults v y }

/-! ### Thermal trips (R346) -/

/-- The trip's record for a resident crew (R346, R354). -/
def tripRecord (c : Crew) (s : State) : State := faultRun c.ctx (crewRecs c (engineKill 0x11 7#64 0#64 0#64 []) false false) s

/-- Nothing issues any more, the trip is recorded, and STATUS.TRIPPED is set (R346). -/
def tripAll (sensor : Nat) (s : State) : State :=
  if s.pkg.halted then s
  else
    let trips := fun (l : Lifetime) => { l with trips := ((timeOf s, sensor) :: l.trips).take 16 }
    let t := updLife trips { s with pkg := { s.pkg with halted := true, tripDue := some (timeOf s + 1000000) } }
    let u := ((allCrews t).filter (fun c => c.cond == .resident)).foldl (fun v c => tripRecord c v) (writeLife t)
    msix 64 { u with pkg := { u.pkg with status := u.pkg.status ||| 8#64 } }

/-- THERMAL_TRIP (R346): a sensor of the package reads above 120 °C. -/
def execThermalTrip (sensor : Nat) (s : State) : Host.Outcome State Fault Refusal := .next (tripAll sensor s)

/-- VAULT_SAMPLE (R341, R346): every 10 µs; the highest of the 16 readings, in quarter degrees, decides, and the first above
120 °C trips. -/
def execVaultSample (vault : Nat) (readings : List Int) (s : State) : Host.Outcome State Fault Refusal :=
  let x := cget Vault.reset s.vaults vault
  .next (match readings with
    | [] => s
    | t :: l =>
      if vault < 32 ∧ readings.length = 16 ∧ s.pkg.powered = true ∧ x.next ≤ timeOf s then
        let u := sampleVault vault (l.foldl max t) s
        match readings.findIdx? (fun r => decide (480 < r)) with
        | some i => tripAll (16 * vault + i) u
        | none => u
      else s)

/-- A sample that the device takes of itself: what the sensors read is free, up to 120 °C (log 27). -/
def freeSample (v : Nat) (s : State) : State :=
  let r := fun (i : Nat) => (((Config.freeNat 9 (s.free + i)) % 961 : Nat) : Int) - 480
  sampleVault v ((List.range 16).foldl (fun m i => max m (r i)) (r 0)) { s with free := s.free + 16 }

/-- PACKAGE_POWER_OFF (R346). -/
def execPackagePowerOff (s : State) : Host.Outcome State Fault Refusal :=
  .next (if s.pkg.tripDue.isSome then { s with pkg := { s.pkg with powered := false, tripDue := none } } else s)

/-! ### The gutter divider (R347 to R349) -/

/-- The trips of the last 1 ms, with one now. -/
def recentTrips (s : State) (c : Nat) : List Nat :=
  timeOf s :: (getCluster s c).trips.filter (fun t => decide (timeOf s < t + 1000000))

/-- The fall of the rail in mV beyond which a cluster's droop detector trips (R347, R348). -/
def tripDepth (c : Cluster) : Nat := 5 * max 4 (bfield c.gctl 15 8)

/-- The boundary from which a trip halves the clock: the first or the second, which is free (R347). -/
def tripBoundary (s : State) : Nat := if Config.freeBool 4 s.free then 2 else 1

/-- A trip of a cluster's droop detector, which is clear again after `cycles` cycles (R347, R349). The clock is halved until
HOLD clear cycles have passed; the sixteenth trip within 1 ms is a storm. -/
def tripCluster (cluster cycles : Nat) (s : State) : State :=
  let x := getCluster s cluster
  let storm := decide (16 ≤ (recentTrips s cluster).length)
  let b := if x.gctl.getLsbD 0 then 0 else tripBoundary s
  let t := setCluster { s with free := s.free + 1 } cluster { x with
    tripped := true, holdEnd := cycleOf s cluster + max b cycles + max 64 (bfield x.gctl 31 16),
    gctl := bset x.gctl 2 2 (if storm then 1 else bfield x.gctl 2 2),
    trips := if storm then [] else recentTrips s cluster, planDue := x.planDue || storm }
  updLife (fun (l : Lifetime) => { l with
    droop := addCell (addCell l.droop (4 * cluster) 1) (4 * cluster + 1) storm.toNat }) (follow cluster b t)

/-- DROOP_TRIP (R347, R348): the rail of a cluster falls as the environment lets it, and the detector trips where it falls more
than TRIP times 5 mV. -/
def execDroopTrip (cluster : Nat) (s : State) : Host.Outcome State Fault Refusal :=
  .next (match cget [] s.rails cluster with
    | [] => s
    | (drop, cycles) :: rest =>
      let t := { s with rails := cset [] s.rails cluster rest }
      if cluster < 32 ∧ tripDepth (getCluster s cluster) < drop then tripCluster cluster cycles t else t)

/-- GUTTER_RESTORE (R347): HOLD clear cycles have passed; unless the vault is closed, the full clock comes back at the next
boundary. -/
def execGutterRestore (cluster : Nat) (s : State) : Host.Outcome State Fault Refusal :=
  let x := getCluster s cluster
  .next (if x.tripped ∧ x.holdEnd ≤ cycleOf s cluster then follow cluster 1 (setCluster s cluster { x with tripped := false }) else s)

/-! ### Body bias (R349 to R351) -/

/-- A day of TIME. -/
def dayNs : Nat := 86400 * 10 ^ 9

/-- The lowest code with a measured slack of at least 60 ps (R350). -/
def planCode (slack : List (Int × Nat)) : Option (Int × Nat) :=
  ((List.range 81).map (fun (i : Nat) => (i : Int) - 40)).findSome? (fun c =>
    (slack.find? (fun x => x.1 == c && decide (60 ≤ x.2))).map (fun x => (c, x.2)))

/-- When the generator stands at its target, a re-plan that led there ends, and marks the cluster derated or clears the mark
(R350 steps 4 and 5, R351). -/
def biasArrived (c : Nat) (s : State) : State :=
  let x := getCluster s c
  if x.target ≠ some (biasCode x) then s
  else if x.planEnd then
    let t := countCluster c s
    let y := getCluster t c
    writeLife (follow c 1 (setCluster t c { y with
      target := none, planEnd := false,
      bbias := bset (bset y.bbias 16 16 y.short.toNat) 7 0 (bfield y.bbias 7 0 + 1) }))
  else setCluster s c { x with target := none }

/-- The generator is to move to a code: one code in each 1 µs (R350). -/
def aimBias (c : Nat) (code : Int) (s : State) : State :=
  let x := getCluster s c
  setCluster s c { x with target := some code, stepAt := if x.target.isSome then x.stepAt else timeOf s + 1000 }

/-- A re-plan with its measurement (R350). -/
def replan (c : Nat) (slack : List (Int × Nat)) (s : State) : State :=
  let plan := planCode slack
  let ps := match plan with
    | some x => x.2
    | none => (slack.lookup 40).getD 0
  let x := getCluster s c
  let t := aimBias c ((plan.map (·.1)).getD 40) (setCluster s c { x with
    planEnd := true, short := plan.isNone, bbias := bset x.bbias 31 24 (min ps 255) })
  let note := fun (l : Lifetime) => { l with ageing := cset [] l.ageing c (((cget [] l.ageing c) ++ [ps]).reverse.take 64).reverse }
  biasArrived c (updLife note t)

/-- What the replicas of a cluster measure when the device re-plans of itself, which is free. -/
def freeSlack (s : State) : List (Int × Nat) :=
  (List.range 81).map (fun (i : Nat) => ((i : Int) - 40, Config.freeNat 8 (s.free + i)))

/-- BIAS_REPLAN (R349, R350): a re-plan that is due starts, or waits for the one that is running. -/
def execBiasReplan (cluster : Nat) (slack : List (Int × Nat)) (s : State) : Host.Outcome State Fault Refusal :=
  let x := getCluster s cluster
  let day := decide (x.nextPlan ≤ timeOf s)
  .next (if 32 ≤ cluster ∨ (x.planDue || day) = false then s
    else
      let y : Cluster := { x with nextPlan := if day then timeOf s + dayNs else x.nextPlan }
      if x.planEnd then setCluster s cluster { y with planDue := true }
      else replan cluster slack (setCluster s cluster { y with planDue := false }))

/-- BIAS_CODE_STEP (R350 step 3): in each 1 µs, one code toward the target. -/
def execBiasCodeStep (cluster : Nat) (s : State) : Host.Outcome State Fault Refusal :=
  .next (match (getCluster s cluster).target with
    | none => s
    | some t =>
      if timeOf s < (getCluster s cluster).stepAt then s
      else
        let u := countCluster cluster s
        let x := getCluster u cluster
        let c := biasCode x
        let d := if c < t then c + 1 else if t < c then c - 1 else c
        biasArrived cluster (setCluster u cluster { x with
          bbias := bset x.bbias 15 8 (wrapTo 8 d), stepAt := x.stepAt + 1000 }))

/-- A write to BBIAS (R351): CODE alone is RW, and is clamped. A re-plan that runs overrides it (log 27). -/
def writeBbias (c : Nat) (x : W64) (s : State) : State :=
  if (getCluster s c).planEnd then s else biasArrived c (aimBias c (clampInt (signedOf 8 (bfield x 15 8)) (-40) 40) s)

/-- BBIAS_CODE_WRITE (R351). -/
def execBbiasCodeWrite (cluster : Nat) (value : BitVec 64) (s : State) : Host.Outcome State Fault Refusal :=
  .next (if cluster < 32 then writeBbias cluster value s else s)

/-- A write to GCTL (R348): HOLD and TRIP are RW, STORM is cleared by 1. -/
def writeGctl (c : Nat) (x : W64) (s : State) : State :=
  let y := getCluster s c
  setCluster s c { y with gctl := bset (bset y.gctl 31 8 (bfield x 31 8)) 2 2 (if x.getLsbD 2 then 0 else bfield y.gctl 2 2) }

/-! ### Taper (R352, R353) -/

/-- SLOPE in A/µs. -/
def slopeOf (c : Cluster) : Nat := min 64 (bfield c.tapctl 7 0)

/-- A ramp at a TIME, at a slope in A/µs, which is a thousandth of an ampere in each ns. -/
def Ramp.at (slope time : Nat) (r : Ramp) : Ramp := { r with amps := r.amps - slope * (time - r.time), time := time }

/-- A write to TAPCTL (R353): the ramp goes on at the new slope, and SLOPE 0 ends it. -/
def writeTapctl (c : Nat) (x : W64) (s : State) : State :=
  let y := getCluster s c
  let t := setCluster s c { y with
    tapctl := bset y.tapctl 7 0 (bfield x 7 0), ramp := y.ramp.map (Ramp.at (slopeOf y) (timeOf s)) }
  if bfield x 7 0 = 0 then endRamp c t else t

/-- TAPER_ESTIMATE (R352): every 100 ns, the estimate in thousandths of an ampere, and the quad-position cycles of filler that
ran in the last 100 ns; fillers run only while the estimate lies below the ramp. -/
def execTaperEstimate (cluster amps filler : Nat) (s : State) : Host.Outcome State Fault Refusal :=
  let x := getCluster s cluster
  .next (if 32 ≤ cluster ∨ timeOf s < x.nextEst then s
    else setCluster s cluster { x with
      estimate := amps, nextEst := 100 * (timeOf s / 100) + 100,
      ramp := x.ramp.map (fun (r : Ramp) =>
        let q := r.at (slopeOf x) (timeOf s)
        { q with cycles := r.cycles + (if amps < r.amps then filler else 0), seen := true }) })

/-- TAPER_RAMP_END (R352, R365): the ramp has come down to an estimate made since the departure. -/
def execTaperRampEnd (cluster : Nat) (s : State) : Host.Outcome State Fault Refusal :=
  let x := getCluster s cluster
  .next (match x.ramp with
    | some r => if r.seen ∧ (r.at (slopeOf x) (timeOf s)).amps ≤ x.estimate then endRamp cluster s else s
    | none => s)

/-! ### Soft errors (R354) -/

/-- The class of an error site in the lifetime records: the row of R354's table. -/
def eccRow : EccSite → Nat
  | .registers _ => 0
  | .scratchpad .. => 1
  | .matrix _ => 2
  | .l1Dirty .. => 3
  | .l1Clean .. => 4
  | .icache .. => 4
  | .memoryWord _ => 5
  | .memoryBlock _ => 5
  | .queue .. => 6
  | .lantern .. => 7
  | .ray _ => 8

/-- ECC_CORRECTED (R354): counted; the data stays as it was. -/
def execEccCorrected (array cluster : Nat) (s : State) : Host.Outcome State Fault Refusal :=
  let x := getCluster s cluster
  .next (if 32 ≤ cluster ∨ 9 ≤ array then s
    else updLife (fun (l : Lifetime) => { l with ecc := addCell l.ecc (2 * array) 1 })
      (setCluster s cluster { x with eccs := addCell x.eccs array 1 }))

/-- A resident crew killed by a soft error (R354). -/
def eccKill (crew sub : Nat) (s : State) : State :=
  match findCrew s crew with
  | some c => if c.cond = .resident then killOther crew false (engineKill 0x11 (BitVec.ofNat 64 sub) 0#64 0#64 []) s else s
  | none => s

/-- The commands of a crew's engine that may be reading the scratchpad: the one that is being performed, and an MWLD that fills
its shadow buffer behind it (R259). -/
def reading (c : Crew) : List MCmd := c.matrix.cmds.take 1 ++ ((c.matrix.cmds.drop 1).filter (fun x => x.fn == 0)).take 1

/-- The FN of the command that meets a fetch fault, and the row that it has reached, as the record carries them (R268). A word of
the scratchpad may be read by either of two commands, which is free; the rest is read by the command that is being performed (log 28). -/
def fetchFault (scratch : Bool) (s : State) (crew : Nat) : Nat :=
  let cs := ((findCrew s crew).map (fun c => if scratch then reading c else c.matrix.cmds.take 1)).getD []
  match cs[Config.freeNat 51 s.free % max 1 cs.length]? with
  | some c => c.fn % 16 * 2 ^ 8 + min c.rows 127 * 2 ^ 12
  | none => 0

/-- Whether a crew owns its core's matrix engine, or a slot of Sparge (R171, R189). -/
def ownsEngine (s : State) (crew : Nat) : Bool := ((findCrew s crew).map (fun c => c.matrix.owned)).getD false

def ownsSlice (s : State) (crew : Nat) : Bool := ((findCrew s crew).map (fun c => c.slice.has)).getD false

/-- Whether an error of an 8-byte word is one of its word alone: a word of vault SRAM, or of a line that the home's L2 holds;
else the memory beneath marks its 32-byte block (R354). -/
def wordAlone (s : State) (w : Nat) : Bool := !encrypted s (8 * w) || (homeLine s (w / 16)).present

/-- Poison marks set on a block: a word of it, or the block as a whole. -/
def poisonBlock (block mask : Nat) (s : State) : State :=
  { s with memsys := { s.memsys with poison := cset 0 s.memsys.poison block (cget 0 s.memsys.poison block ||| mask) } }

/-- The action of R354 for an uncorrectable error. -/
def eccAction (site : EccSite) (s : State) : State :=
  match site with
  | .registers crew => eccKill crew 1 s
  | .scratchpad crew engine => if engine && !ownsEngine s crew then s
    else eccKill crew (2 + if engine then fetchFault true s crew else 0) { s with free := s.free + 1 }
  | .matrix crew => if ownsEngine s crew then eccKill crew (3 + fetchFault false s crew) s else s
  | .l1Dirty crew line =>
    match findCrew s crew with
    | some c =>
      let x := cget L1Line.none (getCore s c.core).l1 line
      if x.dirty ≠ 0#128 ∧ x.owner = crew then eccKill crew 4 s else s
    | none => s
  | .l1Clean core line =>
    let x := cget L1Line.none (getCore s core).l1 line
    let y : L1Line := if x.dirty = 0#128 then L1Line.none
      else { x with filled := false, lease := 0, poison := 0, data := x.data.filter (fun d => x.dirty.getLsbD d.1) }
    setCore s core { getCore s core with l1 := cset L1Line.none (getCore s core).l1 line y }
  | .icache core word =>
    setCore s core { getCore s core with icache := cset none (getCore s core).icache word none }
  | .memoryWord word => poisonBlock (word / 4) (if wordAlone s word then 2 ^ (word % 4) else 31) s
  | .memoryBlock block => if encrypted s (32 * block) then poisonBlock block 31 s else s
  | .queue crew engine =>
    if ownsSlice s crew && (!engine || ownsEngine s crew) then
      eccKill crew (6 + if engine then fetchFault false s crew else 0) s
    else s
  | .lantern cluster index =>
    let x := getCluster s cluster
    setCluster s cluster { x with lantern := x.lantern.eraseIdx index }
  | .ray id => match s.rays.find? (fun r => r.id == id && r.stage == 0) with
    | some r => endRay 15 r s
    | none => s

/-- ECC_UNCORRECTABLE (R354). -/
def execEccUncorrectable (site : EccSite) (s : State) : Host.Outcome State Fault Refusal :=
  .next (eccAction site (updLife (fun (l : Lifetime) => { l with ecc := addCell l.ecc (2 * eccRow site + 1) 1 }) s))

/-- BACKGROUND_SCRUB (R354): once in 12 powered hours, a pass over every vault and every GDDR 7 device; what it finds are steps
of their own. -/
def execBackgroundScrub (s : State) : Host.Outcome State Fault Refusal :=
  .next (if s.pkg.powered ∧ s.pkg.nextScrub ≤ timeOf s then
      { s with pkg := { s.pkg with scrubs := s.pkg.scrubs + 1, nextScrub := s.pkg.nextScrub + 12 * 3600 * 10 ^ 9 } }
    else s)

/-! ### The power cap (R408) -/

/-- The budget in watts. -/
def budget (s : State) : Nat :=
  match s.pkg.cap with
  | some c => if timeOf s < c.expiry then c.watts else min 2400 (max 600 (bfield s.pkg.powerctl 15 0))
  | none => min 2400 (max 600 (bfield s.pkg.powerctl 15 0))

/-- A cap message (R408): accepted with a greater SEQ only, and clamped. -/
def acceptCap (m : CapMessage) (s : State) : State :=
  let seq := m.seq.toNat
  if (match s.pkg.capSeq with
      | some q => decide (q < seq)
      | none => true) then
    { s with pkg := { s.pkg with
      capSeq := some seq,
      cap := some { seq := seq, watts := min 2400 (max 600 m.watts.toNat), expiry := m.expiry.toNat } } }
  else s

/-- POWER_ESTIMATE (R408): every 100 µs; while the estimate exceeds the budget in force, no new crew is placed. -/
def execPowerEstimate (watts : Nat) (s : State) : Host.Outcome State Fault Refusal :=
  .next (if s.pkg.nextPower ≤ timeOf s then
      { s with pkg := { s.pkg with power := watts, nextPower := s.pkg.nextPower + 100000 } }
    else s)

/-- CAP_EXPIRY (R408). -/
def execCapExpiry (s : State) : Host.Outcome State Fault Refusal :=
  .next (match s.pkg.cap with
    | some c => if c.expiry ≤ timeOf s then { s with pkg := { s.pkg with cap := none } } else s
    | none => s)

end Sys2Proof.Machine
end

