-- ==== Sys2Proof/Machine/Transc.lean ====
section
/-! DEFINITION. The functions of VF32X (R141 to R143): the exact value rounded once. Quotients and roots are exact; the
others are formed in fixed point with 384 fraction bits, far below the distance of any FP32 operand's value from a
rounding boundary (log 9). -/

namespace Sys2Proof.Machine

/-! ### Fixed point -/

/-- The scale of the fixed-point numbers of this file. -/
def fxOne : Nat := 2 ^ 384

/-- A sum of `n` terms, each formed from the one before it. -/
def series (next : Nat → Int → Int) : Nat → Nat → Int → Int → Int
  | 0, _, _, acc => acc
  | n + 1, k, t, acc => series next n (k + 1) (next k t) (acc + t)

/-- atanh z for a fixed-point z of at most 1/3. -/
def fxAtanh (z : Nat) : Int :=
  let z2 := z * z / fxOne
  ((List.range 130).foldl (fun (st : Nat × Nat) i => (st.1 + st.2 / (2 * i + 1), st.2 * z2 / fxOne)) (0, z)).1

/-- ln 2. -/
def fxLn2 : Nat := (2 * fxAtanh (fxOne / 3)).toNat

/-- arctan (1 / k). -/
def fxAtanInv (k : Nat) : Int :=
  ((List.range 100).foldl
    (fun (st : Int × Nat) i => (st.1 + (if i % 2 = 0 then 1 else -1) * ((st.2 / (2 * i + 1) : Nat) : Int), st.2 / (k * k)))
    (0, fxOne / k)).1

/-- π, by Machin's formula. -/
def fxPi : Nat := (16 * fxAtanInv 5 - 4 * fxAtanInv 239).toNat

/-- e^y for a fixed-point y from -1 to 1. -/
def fxExp (y : Int) : Int := series (fun k t => t * y / fxOne / (k + 1)) 110 0 fxOne 0

/-- sin θ for a fixed-point θ from 0 to π/2. -/
def fxSin (x : Nat) : Int :=
  let x2 : Int := (x * x / fxOne : Nat)
  series (fun k t => -(t * x2 / fxOne / ((2 * k + 2) * (2 * k + 3)))) 70 0 x 0

/-- The natural square root, bit by bit from bit `b` down. -/
def isqrt : Nat → Nat → Nat → Nat
  | 0, _, r => r
  | b + 1, n, r => if (r + 2 ^ b) * (r + 2 ^ b) ≤ n then isqrt b n (r + 2 ^ b) else isqrt b n r

/-- A positive or negative fixed-point value that lies strictly between two neighbours, rounded to FP32. -/
def roundFx (rnd : Nat) (neg : Bool) (v : Nat) : Nat := fp32.round rnd neg (2 * v + 1) 1 (-385)

/-! ### Exact functions -/

/-- A root `s`, exact or strictly between s and s + 1, times 2^e. -/
def roundRoot (rnd : Nat) (exact : Bool) (s : Nat) (e : Int) : Nat :=
  if exact then fp32.round rnd false s 1 e else fp32.round rnd false (2 * s + 1) 1 (e - 1)

/-- A significand with an even exponent. -/
def evenExp (m : Nat) (e : Int) : Nat × Int := if e % 2 = 0 then (m, e) else (2 * m, e - 1)

/-- √(m 2^e). -/
def sqrtMag (rnd m : Nat) (e : Int) : Nat :=
  let p := evenExp m e
  let n := p.1 * 2 ^ 80
  let s := isqrt 60 n 0
  roundRoot rnd (s * s == n) s (p.2 / 2 - 40)

/-- 1 / √(m 2^e). -/
def rsqMag (rnd m : Nat) (e : Int) : Nat :=
  let p := evenExp m e
  let s := isqrt 64 (2 ^ 120 / p.1) 0
  roundRoot rnd (s * s * p.1 == 2 ^ 120) s (-(p.2 / 2) - 60)

/-! ### Transcendental functions of finite operands -/

/-- floor of m 2^e with a sign. -/
def floorOf (neg : Bool) (m : Nat) (e : Int) : Int := roundToInt 3 neg m e

/-- 2^a. -/
def exp2Fin (rnd : Nat) (neg : Bool) (m : Nat) (e : Int) : Nat :=
  let i := floorOf neg m e
  if 200 ≤ i then fp32.round rnd false 1 1 1000
  else if i < -300 then fp32.round rnd false 1 1 (-1000)
  else
    let f := dyadicSum [(sgn neg m, e), (-i, 0)]
    if f.1 = 0 then fp32.round rnd false 1 1 i
    else
      let v := fxExp (f.1 * fxLn2 / 2 ^ (-f.2).toNat)
      fp32.round rnd false (2 * v.toNat + 1) 1 (i - 385)

/-- log2 of a positive m 2^e. -/
def log2Fin (rnd : Nat) (m : Nat) (e : Int) : Nat :=
  let k := Nat.log2 m
  let n : Int := (k : Int) + e
  if m = 2 ^ k then intToF32 rnd n
  else
    let l := 2 * fxAtanh ((m - 2 ^ k) * fxOne / (m + 2 ^ k)) * fxOne / fxLn2
    fp32.roundInt rnd false (2 * (n * fxOne + l) + 1) (-385)

/-- sin(π x) for an x 2^e that is no integer. -/
def sinPi (rnd : Nat) (x : Int × Int) : Nat :=
  let d : Nat := 2 ^ (-x.2).toNat
  let neg := x.1 / d % 2 == 1
  let f := (x.1 % d).toNat
  let g := if d < 2 * f then d - f else f
  if 2 * g = d then fp32.signed neg 0x3F800000
  else roundFx rnd neg (fxSin (g * fxPi / d)).toNat

/-- Whether x 2^e is an integer. -/
def isInt (x : Int × Int) : Bool := decide (0 ≤ x.2) || x.1 % (2 ^ (-x.2).toNat : Nat) == 0

/-- tanh of a finite non-zero operand. Below 2^-40 it lies just inside the operand, from 32 on just inside 1. -/
def tanhFin (rnd : Nat) (neg : Bool) (m : Nat) (e : Int) : Nat :=
  let lg := (Nat.log2 m : Int) + e
  if lg < -40 then fp32.round rnd neg (m * 2 ^ 100 - 1) 1 (e - 100)
  else if 5 ≤ lg then fp32.round rnd neg (2 ^ 60 - 1) 1 (-60)
  else
    let p := scaleFrac (m * fxOne) 32 e
    let q := (List.range 6).foldl (fun (y : Int) _ => y * y / fxOne) (fxExp (-((p.1 / p.2 : Nat) : Int)))
    roundFx rnd neg ((fxOne - q) * fxOne / (fxOne + q)).toNat

/-! ### The rows of VF32X (R141, R142) -/

/-- A function of one operand, NaNs first (R142). -/
def fx1 (f : Nat → Nat → Nat → Res) (rnd origin a : Nat) : Res := fp32.withNans [a] (fun _ => f rnd origin a)

/-- A generated NaN. -/
def invalid (code origin : Nat) : Res := { bits := genNan code origin, inv := true }

def frcp (rnd _origin a : Nat) : Res :=
  match fp32.decode a with
  | .fin n m e => Res.ok (if m = 0 then fp32.infinity n else fp32.round rnd n 1 m (-e))
  | .inf n => Res.ok (fp32.signed n 0)
  | .nan _ _ => Res.ok a

def frsq (rnd origin a : Nat) : Res :=
  match fp32.decode a with
  | .fin n m e => if m = 0 then Res.ok (fp32.infinity n) else if n then invalid 0x05 origin else Res.ok (rsqMag rnd m e)
  | .inf n => if n then invalid 0x05 origin else Res.ok 0
  | .nan _ _ => Res.ok a

def fsqrt (rnd origin a : Nat) : Res :=
  match fp32.decode a with
  | .fin n m e => if m = 0 then Res.ok a else if n then invalid 0x05 origin else Res.ok (sqrtMag rnd m e)
  | .inf n => if n then invalid 0x05 origin else Res.ok a
  | .nan _ _ => Res.ok a

def fdiv (rnd origin a b : Nat) : Res :=
  fp32.withNans [a, b] (fun _ =>
    match fp32.decode a, fp32.decode b with
    | .inf _, .inf _ => invalid 0x04 origin
    | .inf n, .fin k _ _ => Res.ok (fp32.infinity (n != k))
    | .fin n _ _, .inf k => Res.ok (fp32.signed (n != k) 0)
    | .fin n m e, .fin k d g =>
      if d = 0 then (if m = 0 then invalid 0x03 origin else Res.ok (fp32.infinity (n != k)))
      else if m = 0 then Res.ok (fp32.signed (n != k) 0)
      else Res.ok (fp32.round rnd (n != k) m d (e - g))
    | _, _ => Res.ok a)

def fexp2 (rnd _origin a : Nat) : Res :=
  match fp32.decode a with
  | .fin n m e => Res.ok (if m = 0 then 0x3F800000 else exp2Fin rnd n m e)
  | .inf n => Res.ok (if n then 0 else a)
  | .nan _ _ => Res.ok a

def flog2 (rnd origin a : Nat) : Res :=
  match fp32.decode a with
  | .fin n m e =>
    if m = 0 then Res.ok (fp32.infinity true) else if n then invalid 0x06 origin else Res.ok (log2Fin rnd m e)
  | .inf n => if n then invalid 0x06 origin else Res.ok a
  | .nan _ _ => Res.ok a

def fsin (rnd origin a : Nat) : Res :=
  match fp32.decode a with
  | .fin n m e => Res.ok (if isInt (sgn n m, e) then fp32.signed n 0 else sinPi rnd (sgn n m, e))
  | .inf _ => invalid 0x07 origin
  | .nan _ _ => Res.ok a

/-- cos(π a) is sin(π (a + 1/2)). -/
def fcos (rnd origin a : Nat) : Res :=
  match fp32.decode a with
  | .fin n m e =>
    let x := dyadicSum [(sgn n m, e), (1, -1)]
    Res.ok (if isInt x then 0 else sinPi rnd x)
  | .inf _ => invalid 0x07 origin
  | .nan _ _ => Res.ok a

def ftanh (rnd _origin a : Nat) : Res :=
  match fp32.decode a with
  | .fin n m e => Res.ok (if m = 0 then a else tanhFin rnd n m e)
  | .inf n => Res.ok (fp32.signed n 0x3F800000)
  | .nan _ _ => Res.ok a

/-- The class mask of R143. -/
def fcls (a : Nat) : Nat :=
  match fp32.decode a with
  | .inf n => if n then 1 else 2 ^ 7
  | .nan _ q => if q then 2 ^ 9 else 2 ^ 8
  | .fin n m _ =>
    if m = 0 then (if n then 2 ^ 3 else 2 ^ 4)
    else if m < 2 ^ 23 then (if n then 2 ^ 2 else 2 ^ 5)
    else (if n then 2 ^ 1 else 2 ^ 6)

/-- A VF32X unit with one operand. -/
def vf32x (fn : Nat) (f : Nat → Nat → Nat → Res) (r : Run) (d a : BitVec 7) (s : State) :
    Host.Outcome State Fault Refusal :=
  fpUnit (opVf1 11 fn 12 (some modRND) r d a) d (fun t l => fx1 f (rndOf r) (originOf r t) (fA a t l)) s

/-- FRCP (R141, R142). -/
def execFrcp (r : Run) (d a : BitVec 7) (s : State) : Host.Outcome State Fault Refusal := vf32x 0 frcp r d a s

/-- FRSQ (R141, R142). -/
def execFrsq (r : Run) (d a : BitVec 7) (s : State) : Host.Outcome State Fault Refusal := vf32x 1 frsq r d a s

/-- FSQRT (R141, R142). -/
def execFsqrt (r : Run) (d a : BitVec 7) (s : State) : Host.Outcome State Fault Refusal := vf32x 2 fsqrt r d a s

/-- FDIV (R141, R142). -/
def execFdiv (r : Run) (d a b : BitVec 7) (s : State) : Host.Outcome State Fault Refusal :=
  fpUnit (opVf 11 3 12 (modRND + modBSC) r d a b) d
    (fun t l => fdiv (rndOf r) (originOf r t) (fA a t l) (fB r b t l)) s

/-- FEXP2 (R141, R142). -/
def execFexp2 (r : Run) (d a : BitVec 7) (s : State) : Host.Outcome State Fault Refusal := vf32x 4 fexp2 r d a s

/-- FLOG2 (R141, R142). -/
def execFlog2 (r : Run) (d a : BitVec 7) (s : State) : Host.Outcome State Fault Refusal := vf32x 5 flog2 r d a s

/-- FSIN (R141, R142). -/
def execFsin (r : Run) (d a : BitVec 7) (s : State) : Host.Outcome State Fault Refusal := vf32x 6 fsin r d a s

/-- FCOS (R141, R142). -/
def execFcos (r : Run) (d a : BitVec 7) (s : State) : Host.Outcome State Fault Refusal := vf32x 7 fcos r d a s

/-- FTANH (R141, R142). -/
def execFtanh (r : Run) (d a : BitVec 7) (s : State) : Host.Outcome State Fault Refusal := vf32x 8 ftanh r d a s

/-- FCLS (R143). -/
def execFcls (r : Run) (d a : BitVec 7) (s : State) : Host.Outcome State Fault Refusal :=
  laneUnit (opVf1 11 9 12 none r d a) d (fun t l => BitVec.ofNat 32 (fcls (fA a t l))) s

end Sys2Proof.Machine
end

