-- ==== Sys2Proof/Machine/RayPrim.lean ====
section
/-! DEFINITION. The intersection procedures of the traversal units (R305 to R307, R438): FP32 arithmetic with every
operation rounded once, and exact rational arithmetic where the rules say Exact. -/

namespace Sys2Proof.Machine

/-! ### FP32 and exact values -/

def xadd (a b : Nat) : Nat := (fp32.add 0 1 0xF002 false a b).bits
def xsub (a b : Nat) : Nat := (fp32.add 0 1 0xF002 true a b).bits
def xmul (a b : Nat) : Nat := (fp32.mul 0 2 0xF002 a b).bits
def xdiv (a b : Nat) : Nat := (fdiv 0 0xF002 a b).bits
def xsqrt (a : Nat) : Nat := (fsqrt 0 0xF002 a).bits

def fOne : Nat := 0x3F800000
def fTwo : Nat := 0x40000000
def fThree : Nat := 0x40400000
def fSix : Nat := 0x40C00000
def fHalf : Nat := 0x3F000000

/-- The exact value of a finite FP32 encoding; none of an infinity or a NaN. -/
def ratOf (x : Nat) : Option Rat :=
  match fp32.decode x with
  | .fin n m e => some (if 0 ≤ e then ((sgn n m * 2 ^ e.toNat : Int) : Rat) else ((sgn n m : Int) : Rat) / ((2 ^ (-e).toNat : Nat) : Rat))
  | _ => none

/-- An exact value rounded once to FP32 under RNE. -/
def rneRat (x : Rat) : Nat := fp32.round 0 (decide (x.num < 0)) x.num.natAbs x.den 0

/-- Whether an encoding is finite (R438). -/
def isFin (x : Nat) : Bool := decide (x / 2 ^ 23 % 256 ≠ 255)

/-- a ≤ b as FP32 values; false with a NaN. -/
def fle (a b : Nat) : Bool := !fp32.isNan a && !fp32.isNan b && decide (fp32.order a ≤ fp32.order b)

/-- a < b as FP32 values; false with a NaN. -/
def flt (a b : Nat) : Bool := !fp32.isNan a && !fp32.isNan b && decide (fp32.order a < fp32.order b)

/-- RoundN16 (R305): RNE of 65,535 x from an exact x, kept in the range of n16. -/
def roundN16 (x : Rat) : Nat :=
  let y := x * 65535
  (clampInt (sgn (decide (y.num < 0)) (roundDiv 0 (decide (y.num < 0)) y.num.natAbs y.den)) 0 65535).toNat

/-- A list of optional values as an optional list. -/
def allSome {α : Type} : List (Option α) → Option (List α)
  | [] => some []
  | x :: t => match x, allSome t with
    | some a, some l => some (a :: l)
    | _, _ => none

/-- An element of a list of exact values. -/
def at0 (l : List Rat) (i : Nat) : Rat := l[i]?.getD 0

/-- An element of a list of encodings. -/
def nth (l : List Nat) (i : Nat) : Nat := l[i]?.getD 0

/-! ### The sheared frame (R305) -/

/-- The axes and the shear of a ray: kx, ky, kz, Sx, Sy, Sz. -/
structure Frame where
  kx : Nat
  ky : Nat
  kz : Nat
  sx : Nat
  sy : Nat
  sz : Nat
  deriving DecidableEq, Repr

/-- The frame of a direction. -/
def frameOf (d : List Nat) : Frame :=
  let mag := fun (i : Nat) => nth d i % 2 ^ 31
  let kz := if mag 0 < mag 1 then (if mag 1 < mag 2 then 2 else 1) else if mag 0 < mag 2 then 2 else 0
  let kx := (kz + 1) % 3
  let ky := (kx + 1) % 3
  let neg := flt (nth d kz) 0
  let x := if neg then ky else kx
  let y := if neg then kx else ky
  { kx := x, ky := y, kz := kz, sx := xdiv (nth d x) (nth d kz), sy := xdiv (nth d y) (nth d kz), sz := xdiv fOne (nth d kz) }

/-- A point in the sheared frame: RNE of P - o, and then one rounding of each exact coordinate. None where a value is not
finite (R438). -/
def shear (f : Frame) (o p : List Nat) : Option (List Nat) :=
  let q := (List.range 3).map (fun i => xsub (nth p i) (nth o i))
  match ratOf f.sx, ratOf f.sy, ratOf f.sz, allSome (q.map ratOf) with
  | some sx, some sy, some sz, some e =>
    let r := [rneRat (at0 e f.kx - sx * at0 e f.kz), rneRat (at0 e f.ky - sy * at0 e f.kz), rneRat (sz * at0 e f.kz)]
    if r.all isFin then some r else none
  | _, _, _, _ => none

/-- What a test finds: t, HU and HV. -/
structure Found where
  t  : Nat
  hu : Nat
  hv : Nat
  deriving DecidableEq, Repr

/-! ### Triangles (R305) -/

/-- The triangle test on sheared, exact vertices. -/
def triExact (a b c : List Rat) (front back : Bool) : Option Found :=
  let u := at0 c 0 * at0 b 1 - at0 c 1 * at0 b 0
  let v := at0 a 0 * at0 c 1 - at0 a 1 * at0 c 0
  let w := at0 b 0 * at0 a 1 - at0 b 1 * at0 a 0
  let det := u + v + w
  if (u < 0 ∨ v < 0 ∨ w < 0) ∧ (0 < u ∨ 0 < v ∨ 0 < w) then none
  else if det = 0 then none
  else if (0 < det ∧ front = true) ∨ (det < 0 ∧ back = true) then none
  else
    let t := rneRat ((u * at0 a 2 + v * at0 b 2 + w * at0 c 2) / det)
    if isFin t then some { t := t, hu := roundN16 (v / det), hv := roundN16 (w / det) } else none

/-- A triangle of nine FP32 values; FLAGS[1] and FLAGS[2] cull. -/
def triangle (o d v : List Nat) (flags : Nat) : Option Found :=
  let f := frameOf d
  match allSome ((List.range 3).map (fun i => (shear f o ((v.drop (3 * i)).take 3)).bind (fun p => allSome (p.map ratOf)))) with
  | some [a, b, c] => triExact a b c (flags.testBit 1) (flags.testBit 2)
  | _ => none

/-! ### Uniform cubic B-splines (R306, R307) -/

/-- The polar form of the segment with control values g0 to g3 at three parameters. -/
def polar (g : List Rat) (u v w : Rat) : Rat :=
  let a := ((1 - u) * at0 g 0 + (u + 2) * at0 g 1) / 3
  let b := ((2 - u) * at0 g 1 + (u + 1) * at0 g 2) / 3
  let c := ((3 - u) * at0 g 2 + u * at0 g 3) / 3
  let d := ((1 - v) * a + (v + 1) * b) / 2
  let e := ((2 - v) * b + v * c) / 2
  (1 - w) * d + w * e

/-- Weight of control value `j` in Bézier point `k` of piece `i` of 16. -/
def subWeight (i k j : Nat) : Rat :=
  let lo : Rat := (i : Rat) / 16
  let hi : Rat := ((i + 1 : Nat) : Rat) / 16
  let p := fun (n : Nat) => if n < k then hi else lo
  polar ((List.range 4).map (fun m => if m = j then 1 else 0)) (p 0) (p 1) (p 2)

/-- A Bézier control value of a piece: one rounding of the exact sum. -/
def bezier (i : Nat) (g : List Rat) (k : Nat) : Nat :=
  rneRat (((List.range 4).map (fun j => subWeight i k j * at0 g j)).sum)

/-- Power-basis coefficients of four Bézier values, lowest power first, every operation rounded: b0, 3 (b1 - b0),
3 ((b0 - 2 b1) + b2) and ((b3 - 3 b2) + 3 b1) - b0, in this order (log 15). -/
def powers (b : List Nat) : List Nat :=
  let b0 := nth b 0
  let b1 := nth b 1
  let b2 := nth b 2
  [b0, xmul fThree (xsub b1 b0), xmul fThree (xadd (xsub b0 (xmul fTwo b1)) b2),
   xsub (xadd (xsub (nth b 3) (xmul fThree b2)) (xmul fThree b1)) b0]

/-- Horner's rule, every operation rounded; coefficients lowest power first. -/
def horner (w : Nat) : List Nat → Nat
  | [] => 0
  | [c] => c
  | c :: t => xadd (xmul (horner w t) w) c

/-- The coefficients of the derivative. -/
def deriv (c : List Nat) : List Nat := [nth c 1, xmul fTwo (nth c 2), xmul fThree (nth c 3)]

/-- The coefficients of the second derivative. -/
def deriv2 (c : List Nat) : List Nat := [xmul fTwo (nth c 2), xmul fSix (nth c 3)]

/-- A value clamped to [0, 1]. -/
def clamp01 (x : Nat) : Nat := if flt x 0 then 0 else if flt fOne x then fOne else x

/-- The least and the largest of exact values. -/
def ratMin (l : List Rat) : Rat := l.foldl (fun m x => if x < m then x else m) (at0 l 0)
def ratMax (l : List Rat) : Rat := l.foldl (fun m x => if m < x then x else m) (at0 l 0)

/-- Whether a control-point box, widened, contains x' = y' = 0 and meets [TMIN, bound] in z'. An infinite TMIN or bound
cuts nothing off. -/
def boxKept (xs ys zs : List Rat) (wide : Rat) (tmin bound : Nat) : Bool :=
  let has0 := fun (l : List Rat) => decide (ratMin l - wide ≤ 0 ∧ 0 ≤ ratMax l + wide)
  let lo := match ratOf tmin with
    | some t => decide (t ≤ ratMax zs + wide)
    | none => tmin == 0xFF800000
  let hi := match ratOf bound with
    | some t => decide (ratMin zs - wide ≤ t)
    | none => bound == 0x7F800000
  has0 xs && has0 ys && lo && hi

/-- One Newton step on x'² + y'² at w; none for an iterate that is not finite. -/
def curveStep (x y : List Nat) (w : Nat) : Option Nat :=
  let x0 := horner w x
  let y0 := horner w y
  let x1 := horner w (deriv x)
  let y1 := horner w (deriv y)
  let f1 := xmul fTwo (xadd (xmul x0 x1) (xmul y0 y1))
  let f2 := xmul fTwo (xadd (xadd (xadd (xmul x1 x1) (xmul x0 (horner w (deriv2 x)))) (xmul y1 y1)) (xmul y0 (horner w (deriv2 y))))
  if !flt 0 f2 then some w
  else
    let n := xsub w (xdiv f1 f2)
    if isFin n then some (clamp01 n) else none

/-- HV of a curve (R306): s / r mapped from [-1, 1]; the centre for r = 0. -/
def curveHv (x y : List Nat) (w d2 r : Nat) : Nat :=
  if fp32.order r = 0 then 0x8000
  else
    let cross := xsub (xmul (horner w (deriv x)) (horner w y)) (xmul (horner w (deriv y)) (horner w x))
    let s := if flt cross 0 then fp32.signed true (xsqrt d2) else xsqrt d2
    match ratOf (xdiv (xadd (xdiv s r) fOne) fTwo) with
    | some v => roundN16 v
    | none => 0x8000

/-- Piece `i` of a curve segment: its hit, when it has one; a piece whose box lies outside [TMIN, bound] is discarded. -/
def curvePiece (g : List (List Rat)) (tmin bound i : Nat) : Option Found :=
  let b := g.map (fun c => (List.range 4).map (bezier i c))
  match allSome (b.map (fun c => allSome (c.map ratOf))) with
  | some [xs, ys, zs, rs] =>
    if !boxKept xs ys zs (ratMax rs) tmin bound then none
    else
      let c := fun (k : Nat) => powers (b[k]?.getD [])
      let x := c 0
      let y := c 1
      match ((curveStep x y fHalf).bind (curveStep x y)).bind (curveStep x y) with
      | none => none
      | some w =>
        let px := horner w x
        let py := horner w y
        let r := horner w (c 3)
        let d2 := xadd (xmul px px) (xmul py py)
        let r2 := xmul r r
        let t := xsub (horner w (c 2)) (xsqrt (xsub r2 d2))
        if isFin r && fle d2 r2 && isFin t then
          some { t := t, hu := roundN16 (((i : Rat) + (ratOf w).getD 0) / 16), hv := curveHv x y w d2 r }
        else none
  | _ => none

/-- The least t of a list, the first of equals. -/
def leastT (l : List Found) : Option Found :=
  l.foldl (fun m x => match m with
    | none => some x
    | some y => if flt x.t y.t then some x else some y) none

/-- A curve segment of four points with radii (R306). -/
def curve (o d v : List Nat) (tmin bound : Nat) : Option Found :=
  let f := frameOf d
  let pts := (List.range 4).map (fun j =>
    (shear f o ((v.drop (4 * j)).take 3)).bind (fun p => allSome ((p ++ [nth v (4 * j + 3)]).map ratOf)))
  match allSome pts with
  | some l => leastT ((List.range 16).filterMap (curvePiece ((List.range 4).map (fun c => l.map (fun p => at0 p c))) tmin bound))
  | none => none

/-! ### Patches (R307) -/

/-- Bézier control value (k, m) of subpatch (i, j): u along a row, v across rows. -/
def bezier2 (i j : Nat) (g : List Rat) (k m : Nat) : Nat :=
  rneRat (((List.range 4).map (fun b => ((List.range 4).map (fun a =>
    subWeight i k a * subWeight j m b * at0 g (4 * b + a))).sum)).sum)

/-- The power-basis coefficients of a subpatch's coordinate: for each power of v, those of u; first along the rows and then
across them (log 15). -/
def powers2 (b : List Nat) : List (List Nat) :=
  let rows := (List.range 4).map (fun m => powers ((List.range 4).map (fun k => nth b (4 * m + k))))
  let cols := (List.range 4).map (fun p => powers (rows.map (fun r => nth r p)))
  (List.range 4).map (fun q => (List.range 4).map (fun p => nth (cols[p]?.getD []) q))

/-- The value of a bicubic at (u, v): Horner's rule in u for each power of v, and then in v. -/
def horner2 (c : List (List Nat)) (u v : Nat) : Nat := horner v (c.map (horner u))

/-- The partial derivatives. -/
def derivU (c : List (List Nat)) : List (List Nat) := c.map deriv
def hornerV (c : List (List Nat)) (u v : Nat) : Nat := horner v (deriv (c.map (horner u)))

/-- One Newton step on (x', y') = 0; none for an iterate that is not finite. -/
def patchStep (x y : List (List Nat)) (uv : Nat × Nat) : Option (Nat × Nat) :=
  let u := uv.1
  let v := uv.2
  let fx := horner2 x u v
  let fy := horner2 y u v
  let xu := horner2 (derivU x) u v
  let xv := hornerV x u v
  let yu := horner2 (derivU y) u v
  let yv := hornerV y u v
  let det := xsub (xmul xu yv) (xmul xv yu)
  if !fp32.isNan det && fp32.order det == 0 then some uv
  else
    let a := xsub u (xdiv (xsub (xmul fx yv) (xmul fy xv)) det)
    let b := xsub v (xdiv (xsub (xmul fy xu) (xmul fx yu)) det)
    if isFin a && isFin b then some (clamp01 a, clamp01 b) else none

/-- Subpatch 16 j + i: its hit, when it has one; a subpatch whose box lies outside [TMIN, bound] is discarded. -/
def subpatch (g : List (List Rat)) (tmin bound n : Nat) : Option Found :=
  let i := n % 16
  let j := n / 16
  let b := g.map (fun c => (List.range 16).map (fun q => bezier2 i j c (q % 4) (q / 4)))
  match allSome (b.map (fun c => allSome (c.map ratOf))) with
  | some [xs, ys, zs] =>
    if !boxKept xs ys zs 0 tmin bound then none
    else
      let c := fun (k : Nat) => powers2 (b[k]?.getD [])
      let x := c 0
      let y := c 1
      match ((patchStep x y (fHalf, fHalf)).bind (patchStep x y)).bind (patchStep x y) with
      | none => none
      | some (u, v) =>
        let ext := max (ratMax xs - ratMin xs) (ratMax ys - ratMin ys)
        let e := rneRat (ext / 4096)
        let px := horner2 x u v
        let py := horner2 y u v
        let t := horner2 (c 2) u v
        if fle (px % 2 ^ 31) e && fle (py % 2 ^ 31) e && isFin t then
          some { t := t, hu := roundN16 (((i : Rat) + (ratOf u).getD 0) / 16),
                 hv := roundN16 (((j : Rat) + (ratOf v).getD 0) / 16) }
        else none
  | _ => none

/-- A patch of 16 control points, row by row (R307). -/
def patch (o d v : List Nat) (tmin bound : Nat) : Option Found :=
  let f := frameOf d
  let pts := (List.range 16).map (fun j =>
    (shear f o ((v.drop (3 * j)).take 3)).bind (fun p => allSome (p.map ratOf)))
  match allSome pts with
  | some l => leastT ((List.range 256).filterMap (subpatch ((List.range 3).map (fun c => l.map (fun p => at0 p c))) tmin bound))
  | none => none

/-! ### Transforms and boxes (R296, R295) -/

/-- A ray mapped by a 3 × 4 matrix: each component one rounding of the exact affine sum; none where a value is not finite
(R438). -/
def transformed (m o d : List Nat) : Option (List Nat × List Nat) :=
  match allSome (m.map ratOf), allSome (o.map ratOf), allSome (d.map ratOf) with
  | some a, some p, some q =>
    let row := fun (v : List Rat) (i : Nat) => at0 a (4 * i) * at0 v 0 + at0 a (4 * i + 1) * at0 v 1 + at0 a (4 * i + 2) * at0 v 2
    let no := (List.range 3).map (fun i => rneRat (row p i + at0 a (4 * i + 3)))
    let nd := (List.range 3).map (fun i => rneRat (row q i))
    if no.all isFin && nd.all isFin then some (no, nd) else none
  | _, _, _ => none

/-- A side of a box, exactly: none where it is open, as an infinite coordinate on its own side is. -/
def boxSide (b : List Nat) (i : Nat) : Option Rat := ratOf (nth b i)

/-- Whether the sides of a box are numbers, and none is infinite on the side where the box is then empty. -/
def boxSides (b : List Nat) : Bool :=
  (List.range 3).all (fun i => (isFin (nth b i) || nth b i == 0xFF800000) && (isFin (nth b (3 + i)) || nth b (3 + i) == 0x7F800000))

/-- Whether a box meets the ray at some t in [TMIN, bound], exactly; an infinite end of the interval or an open side cuts nothing
off. False where the ray is not finite or the box is empty. -/
def boxMeets (o d b : List Nat) (tmin bound : Nat) : Bool :=
  match allSome (o.map ratOf), allSome (d.map ratOf) with
  | some p, some q =>
    let at_ := fun (i k : Nat) => (boxSide b k).map (fun v => (v - at0 p i) / at0 q i)
    let enter := fun (i : Nat) => if 0 < at0 q i then at_ i i else at_ i (3 + i)
    let leave := fun (i : Nat) => if 0 < at0 q i then at_ i (3 + i) else at_ i i
    let axes := (List.range 3).filter (fun i => at0 q i != 0)
    let los := axes.filterMap enter ++ (ratOf tmin).toList
    let his := axes.filterMap leave ++ (ratOf bound).toList
    let holds := fun (i : Nat) => (boxSide b i).all (fun v => decide (v ≤ at0 p i)) && (boxSide b (3 + i)).all (fun v => decide (at0 p i ≤ v))
    boxSides b && (List.range 3).all (fun i => at0 q i != 0 || holds i) &&
      (isFin tmin || tmin == 0xFF800000) && (isFin bound || bound == 0x7F800000) &&
      los.all (fun x => his.all (fun y => decide (x ≤ y)))
  | _, _ => false

/-- Whether a point lies in a box, exactly. -/
def inBox (b p : List Nat) : Bool :=
  (List.range 3).all (fun i => fle (nth b i) (nth p i) && fle (nth p i) (nth b (3 + i)))

/-! ### Lantern's keys (R312) -/

/-- The floor of an exact value. -/
def ratFloor (x : Rat) : Int := x.num / (x.den : Int)

/-- A cell of an origin component: floor(o 2^-Q) clamped to s32, its low 16 bits. -/
def cellOf (q : Int) (o : Nat) : Nat :=
  let f : Int := match ratOf o with
    | some x => ratFloor (if 0 ≤ q then x / ((2 ^ q.toNat : Nat) : Rat) else x * ((2 ^ (-q).toNat : Nat) : Rat))
    | none => if o.testBit 31 then -(2 ^ 31) else 2 ^ 31 - 1
  wrapTo 16 (clampInt f (-(2 ^ 31)) (2 ^ 31 - 1))

/-- A direction's components for the code: infinite components as ±1 and finite ones as 0, when some are infinite. -/
def dirParts (d : List Nat) : List Rat :=
  if d.all isFin then d.map (fun x => (ratOf x).getD 0)
  else d.map (fun x => if isFin x then 0 else if x.testBit 31 then -1 else 1)

/-- The octahedral direction code (a, b). -/
def dirCode (d : List Nat) : Nat × Nat :=
  let c := dirParts d
  let abs := fun (x : Rat) => if x < 0 then -x else x
  let l := abs (at0 c 0) + abs (at0 c 1) + abs (at0 c 2)
  if l = 0 then (32, 32)
  else
    let x := at0 c 0 / l
    let y := at0 c 1 / l
    let sign := fun (v : Rat) => if v < 0 then (-1 : Rat) else 1
    let ab := if at0 c 2 < 0 then ((1 - abs y) * sign x, (1 - abs x) * sign y) else (x, y)
    let q := fun (v : Rat) => (clampInt (ratFloor ((v + 1) * 32)) 0 63).toNat
    (q ab.1, q ab.2)

/-- A Lantern key. -/
def lanternKey (ctx bvh gen : Nat) (q : Int) (o d : List Nat) : List Nat :=
  [ctx, bvh, gen] ++ o.map (cellOf q) ++ [(dirCode d).1, (dirCode d).2]

end Sys2Proof.Machine
end

