-- ==== Sys2Proof/Machine/Traverse.lean ====
section
/-! DEFINITION. What a traversal returns (R294 to R313): the walk from ROOT, the errors of R311, the hits of R303, and
Lantern's look-up. The unit's order of visits, its box margins and its stack are its own; where they decide, the model
makes a free choice. -/

namespace Sys2Proof.Machine

/-! ### Errors (R311) -/

/-- An error that a ray may meet: whether every traversal meets it, the STATE, and the access that failed. -/
structure RayErr where
  sure  : Bool
  state : Nat
  acc   : Option (Nat × Reason)
  deriving DecidableEq, Repr

def RayErr.malformed (sure : Bool) : RayErr := { sure := sure, state := 14, acc := none }

/-- A read that fails: STATE 15, with the access that its fault-ring record names; a poisoned word has none (R355). -/
def RayErr.failed (sure : Bool) (e : Nat × Reason) : RayErr :=
  { sure := sure, state := 15, acc := if e.2 = 0 then none else some e }

/-- The bytes of a BVH descriptor with its fields (R294). -/
structure Desc where
  nodes : Nat
  refs  : Nat
  xf    : Nat
  q     : Int
  gen   : Nat
  root  : Nat
  isk   : Nat
  ahk   : Nat
  deriving DecidableEq, Repr

def bvhDesc (b : List Byte) : Desc :=
  { nodes := (word64 b 0).toNat, refs := (word64 b 1).toNat, xf := (word64 b 2).toNat,
    q := signedOf 8 (bfield (word64 b 3) 47 40), gen := bfield (word64 b 3) 39 32, root := bfield (word64 b 3) 23 0,
    isk := bfield (word64 b 4) 7 4, ahk := bfield (word64 b 4) 3 0 }

/-- Whether a descriptor may be traced: VALID set, and no reserved bit and no broken alignment. -/
def descOk (b : List Byte) : Bool :=
  (word64 b 3).getLsbD 48 && bfield (word64 b 3) 63 49 == 0 && bfield (word64 b 3) 31 24 == 0 &&
  bfield (word64 b 4) 63 8 == 0 && word64 b 5 == 0#64 && word64 b 6 == 0#64 && word64 b 7 == 0#64 &&
  bfield (word64 b 0) 5 0 == 0 && bfield (word64 b 1) 4 0 == 0 && bfield (word64 b 2) 3 0 == 0

/-- The descriptor of a ray's BVH (R294, R311). -/
def rayDesc (s : State) (r : Ray) : Except RayErr Desc :=
  if word64 (launchBytes s r.launch) 3 = 0#64 then .error (RayErr.malformed true)
  else match rayRead s r.launch (descAddr s r) 64 with
    | .error e => .error (RayErr.failed true e)
    | .ok b => if descOk b then .ok (bvhDesc b) else .error (RayErr.malformed true)

/-! ### The walk (R295) -/

/-- A reference that a leaf names: its index, its leaf, whether every traversal visits it, and the boxes above it. -/
structure RefAt where
  ref   : Nat
  leaf  : Nat
  sure  : Bool
  boxes : List (List Nat)
  deriving DecidableEq, Repr

/-- What the nodes below a node hold: references, errors, node indices, the longest path, whether some path is too long,
and the reads made. -/
structure Walk where
  refs  : List RefAt
  errs  : List RayErr
  nodes : List Nat
  deep  : Nat
  tooDeep : Bool
  reads : List (Nat × Nat)
  deriving DecidableEq, Repr

def Walk.nil : Walk := { refs := [], errs := [], nodes := [], deep := 0, tooDeep := false, reads := [] }

def Walk.plus (a b : Walk) : Walk :=
  { refs := a.refs ++ b.refs, errs := a.errs ++ b.errs, nodes := a.nodes ++ b.nodes, deep := max a.deep b.deep,
    tooDeep := a.tooDeep || b.tooDeep, reads := a.reads ++ b.reads }

/-- The ray's origin, direction and TMIN. -/
def rayO (b : List Byte) : List Nat := (List.range 3).map (fun i => (word32 b i).toNat)
def rayD (b : List Byte) : List Nat := (List.range 3).map (fun i => (word32 b (4 + i)).toNat)

/-- Words `i` to `i + n - 1` of a byte list, as FP32 encodings. -/
def words (b : List Byte) (i n : Nat) : List Nat := (List.range n).map (fun k => (word32 b (i + k)).toNat)

/-- The end of the pages that hold a range without a gap, from an address of one of them on. -/
def pagesEnd (ps : List Page) : Nat → Nat → Nat
  | 0, va => va
  | fuel + 1, va => match pageOf ps va with
    | some p => pagesEnd ps fuel (p.va + p.size)
    | none => va

/-- Whether an address lies past the end of the pages that the launch has translated from NODES on (R311, R384; log 15). -/
def pastPages (s : State) (lid nodes va : Nat) : Bool :=
  match getLaunch s lid with
  | some l => (pageOf l.pages nodes).isSome && decide (pagesEnd l.pages l.pages.length nodes ≤ va)
  | none => false

/-- The nodes from index `n` down (R295, R311). `sure` says that every traversal visits the node; a child is visited for
sure when the ray meets its box within [TMIN, bound]. -/
def walkNode (s : State) (r : Ray) (d : Desc) (bound : Nat) : Nat → Nat → Bool → List (List Nat) → Walk
  | 0, _, _, _ => { Walk.nil with tooDeep := true }
  | fuel + 1, n, sure, boxes =>
    let va := d.nodes + 64 * n
    match rayRead s r.launch va 64 with
    | .error e =>
      let x := if pastPages s r.launch d.nodes va then RayErr.malformed sure else RayErr.failed sure e
      { Walk.nil with errs := [x], nodes := [n] }
    | .ok b =>
      let self : Walk := { Walk.nil with nodes := [n], deep := 1, reads := [(va, 64)] }
      let kind := (word64 b 7).toNat
      if kind = 1 then
        let cnt := (word32 b 1).toNat
        if cnt = 0 ∨ 15 < cnt ∨ ((b.drop 8).take 48).any (· != 0#8) = true then
          { self with errs := [RayErr.malformed sure] }
        else { self with refs := (List.range cnt).map (fun i =>
          { ref := (word32 b 0).toNat + i, leaf := n, sure := sure, boxes := boxes }) }
      else if kind ≠ 0 then { self with errs := [RayErr.malformed sure] }
      else
        let child := fun (c : Nat) =>
          let x := (word32 b (12 + c)).toNat
          let box := words b (6 * c) 6
          if x / 2 ^ 24 % 64 ≠ 0 ∨ 1 < x / 2 ^ 30 then { Walk.nil with errs := [RayErr.malformed sure] }
          else if x / 2 ^ 30 = 0 then Walk.nil
          else walkNode s r d bound fuel (x % 2 ^ 24) (sure && boxMeets (rayO r.bytes) (rayD r.bytes) box (recTmin r.bytes).toNat bound)
            (box :: boxes)
        let w := (child 0).plus (child 1)
        { self.plus w with deep := w.deep + 1 }

/-- The walk of a ray's BVH: no path holds more than 74 nodes. -/
def walkAll (s : State) (r : Ray) (d : Desc) (bound : Nat) : Walk := walkNode s r d bound 74 d.root true []

/-! ### Tests (R303, R305 to R308) -/

/-- What testing a reference gives. -/
inductive Tested where
  | none
  | err (e : RayErr)
  | hit (h : RayHit)
  | pending
  deriving DecidableEq, Repr

/-- A reference's result, and the reads made. -/
structure TestOut where
  out   : Tested
  reads : List (Nat × Nat)
  off   : Bool
  deriving DecidableEq, Repr

/-- The address of a transform. -/
def xformAt (d : Desc) (xf : Nat) : Nat := d.xf + 48 * (xf - 1)

/-- The object-space ray of a reference: the ray itself, its image under a transform, or none where the test is a miss. -/
def objectRay (s : State) (r : Ray) (d : Desc) (xf : Nat) (sure : Bool) : Except RayErr (Option (List Nat × List Nat)) :=
  if xf = 0 then .ok (some (rayO r.bytes, rayD r.bytes))
  else match rayRead s r.launch (xformAt d xf) 48 with
    | .error e => .error (RayErr.failed sure e)
    | .ok m => .ok (transformed (words m 0 12) (rayO r.bytes) (rayD r.bytes))

/-- A built-in primitive tested against [TMIN, TMAX at TRACE]. -/
def primTest (kind : Nat) (o d v : List Nat) (flags tmin bound : Nat) : Option Found :=
  let f := match kind with
    | 0 => triangle o d v flags
    | 1 => curve o d v tmin bound
    | _ => patch o d v tmin bound
  f.bind (fun x => if fle tmin x.t && fle x.t bound then some x else none)

/-- The words of a primitive's data. -/
def primWords (kind : Nat) : Nat :=
  match kind with
  | 0 => 9
  | 1 => 16
  | _ => 48

/-- One reference tested (R303). `hint` is the test of a hinted leaf: opaque references alone, and no custom ones (R313).
`off` says that a triangle's vertex lies outside a box above it, which breaks R295. -/
def testRef (s : State) (r : Ray) (d : Desc) (hint : Bool) (x : RefAt) : TestOut :=
  let va := d.refs + 32 * x.ref
  match rayRead s r.launch va 32 with
  | .error e => { out := .err (RayErr.failed x.sure e), reads := [], off := false }
  | .ok b =>
    let w := (word32 b 5).toNat
    let kind := w % 4
    let flags := recFlags r.bytes
    let opq := w.testBit 2 || flags.testBit 0
    let mk := fun (f : Found) => ({ t := BitVec.ofNat 32 f.t, prim := word32 b 2, inst := word32 b 3, ref := x.ref, hu := f.hu, hv := f.hv, opq := opq, leaf := x.leaf } : RayHit)
    let only := fun (t : Tested) => ({ out := t, reads := [(va, 32)], off := false } : TestOut)
    let xf := (word32 b 4).toNat
    if 8 ≤ w ∨ word64 b 3 ≠ 0#64 ∨ (xf ≠ 0 ∧ d.xf = 0) then only (.err (RayErr.malformed x.sure))
    else if kind < 3 ∧ flags.testBit (4 + kind) = true then only .none
    else if hint && (kind == 3 || !opq) then only .none
    else if kind = 3 then
      if recOvf r.bytes = 0 then only (.err (RayErr.malformed x.sure))
      else match r.reports.lookup x.ref with
        | none => only .pending
        | some none => only .none
        | some (some (t, uv)) => only (.hit (mk { t := t.toNat, hu := uv.toNat % 65536, hv := uv.toNat / 65536 }))
    else match objectRay s r d xf x.sure with
      | .error e => only (.err e)
      | .ok ray =>
        let n := primWords kind
        match rayRead s r.launch (word64 b 0).toNat (4 * n) with
        | .error e => only (.err (RayErr.failed x.sure e))
        | .ok data =>
          let v := words data 0 n
          let off := kind == 0 && xf == 0 &&
            (List.range 3).any (fun i => x.boxes.any (fun bx => !inBox bx ((v.drop (3 * i)).take 3)))
          let res := ray.bind (fun od => primTest kind od.1 od.2 v flags (recTmin r.bytes).toNat r.tmax0.toNat)
          { out := match res with
              | some f => .hit (mk f)
              | none => .none,
            reads := [(va, 32), ((word64 b 0).toNat, 4 * n)] ++ if xf = 0 then [] else [(xformAt d xf, 48)], off := off }

/-- The least hit of a list by key. -/
def leastHit (l : List RayHit) : Option RayHit :=
  l.foldl (fun m x => match m with
    | none => some x
    | some y => if x.less y then some x else some y) none

/-- A hit put in its place by key. -/
def insertHit (h : RayHit) : List RayHit → List RayHit
  | [] => [h]
  | x :: t => if h.less x then h :: x :: t else x :: insertHit h t

/-- Hits in ascending key order. -/
def sortHits (l : List RayHit) : List RayHit := l.foldl (fun m h => insertHit h m) []

/-- The hits among results. -/
def hitsOf (l : List TestOut) : List RayHit :=
  l.filterMap (fun x => match x.out with
    | .hit h => some h
    | _ => none)

/-- The errors among results. -/
def errsOf (l : List TestOut) : List RayErr :=
  l.filterMap (fun x => match x.out with
    | .err e => some e
    | _ => none)

/-! ### The start of a traversal (R311, R313) -/

/-- The hinted leaf's references, where the leaf can be read. -/
def leafRefs (s : State) (r : Ray) (d : Desc) (n : Nat) : List RefAt :=
  match rayRead s r.launch (d.nodes + 64 * n) 64 with
  | .error _ => []
  | .ok b =>
    if word64 b 7 = 1#64 then
      (List.range (min (word32 b 1).toNat 15)).map (fun i => { ref := (word32 b 0).toNat + i, leaf := n, sure := false, boxes := [] })
    else []

/-- The look-up of a ray (R313): in STATE 0, once, a match sets the starting bound from the hinted leaf. A ray that was written
back before its look-up forms its key all the same, for its insertion (R315). None while a copy owns a line of the leaf
(R292). -/
def lookUp (d : Desc) (r : Ray) (s : State) : Option (Ray × State) :=
  if (recFlags r.bytes).testBit 3 then some ({ r with looked := true }, s)
  else
    let key := r.lkey.getD (lanternKey r.ctx (recBvh r.bytes) d.gen d.q (rayO r.bytes) (rayD r.bytes))
    let q := { r with looked := true, lkey := some key }
    if r.looked then some (q, s)
    else match lanternFind s r.cluster r.ctx key with
    | none => some (q, s)
    | some e =>
      let outs := (leafRefs s r d e.leaf).map (testRef s r d true)
      let reads := (d.nodes + 64 * e.leaf, 64) :: outs.flatMap (·.reads)
      let t := leaseReads r reads (lanternTouch r.cluster e s)
      if readsOpen s r.launch reads = false then none
      else match leastHit ((hitsOf outs).filter (·.opq)) with
      | none => some (q, t)
      | some h =>
        let c := q.close h
        some ({ c with bytes := setField 4 1 1 1 c.bytes }, t)

/-- A ray that ends before its traversal (R298, R311): a reserved bit of its record, a NaN operand, a finite TMIN above
TMAX. The record that a NaN leaves has HIT 0 and TMAX 0x7FE6F002. -/
def earlyEnd (r : Ray) : Option (Nat × List Byte) :=
  let b := r.bytes
  let vals := words b 0 8
  if bfield (word64 b 5) 51 50 ≠ 0 ∨ bfield (word64 b 6) 7 4 ≠ 0 ∨ (recFlags b).testBit 7 = true then some (14, b)
  else if vals.any fp32.isNan then some (13, setField 4 0 0 0 (setField 3 63 32 0x7FE6F002 b))
  else if isFin (nth vals 3) && flt (nth vals 7) (nth vals 3) then some (9, b)
  else none

/-! ### The end of a traversal -/

/-- What a whole traversal gives: hits, the errors, whether the BVH breaks R295, the longest path, the custom references
without a report, and the reads. -/
structure Traversal where
  hits  : List RayHit
  errs  : List RayErr
  bad   : Bool
  deep  : Nat
  pend  : List Nat
  reads : List (Nat × Nat)
  deriving DecidableEq, Repr

/-- The references that leaves name, each once (R303): under the first leaf that names it, with the boxes above all of them. -/
def distinctRefs (l : List RefAt) : List RefAt :=
  l.foldl (fun m x =>
    if m.any (fun y => y.ref == x.ref) then
      updIf (fun (y : RefAt) => y.ref == x.ref) (fun (y : RefAt) => { y with sure := y.sure || x.sure, boxes := y.boxes ++ x.boxes }) m
    else m ++ [x]) []

/-- The traversal of a ray under a bound that decides what it visits for sure. -/
def traverseTo (s : State) (r : Ray) (d : Desc) (bound : Nat) : Traversal :=
  let w := walkAll s r d bound
  let outs := (distinctRefs w.refs).map (fun x => (x, testRef s r d false x))
  let pend := outs.filterMap (fun x => if x.2.out = .pending then some x.1 else none)
  let many : List RayErr := if 2 ^ 28 < w.nodes.length + w.refs.length then [RayErr.malformed true] else []
  { hits := hitsOf (outs.map (·.2)), errs := many ++ w.errs ++ errsOf (outs.map (·.2)),
    bad := w.tooDeep || w.nodes.eraseDups.length != w.nodes.length || outs.any (fun x => x.2.off), deep := w.deep,
    pend := pend.map (·.ref),
    reads := w.reads ++ outs.flatMap (fun x => x.2.reads) }

/-- The traversal with the bound that its closest opaque hit leaves. -/
def traverse (s : State) (r : Ray) (d : Desc) : Traversal :=
  match leastHit ((traverseTo s r d r.tmax0.toNat).hits.filter (·.opq)) with
  | some h => traverseTo s r d h.t.toNat
  | none => traverseTo s r d r.tmax0.toNat

/-- A ray ends with an error (R311): a failed read is named by a ray access record (R391). -/
def endWith (e : RayErr) (r : Ray) (s : State) : State :=
  let t := match e.acc with
    | some (a, re) =>
      let h : RecHead :=
        { type := 4, nslot := 1, widx := 0, pidx := 0, trapreg := false, restart := false, recov := false, akind := 7,
          reason := re, cause := 0x0A }
      faultRun r.ctx [{ head := h, body := [BitVec.ofNat 64 a, 0#64, r.ra] }] s
    | none => s
  endRay e.state r t

/-- The end of a ray over a BVH that breaks R295, where R303 does not bind: every result is free. -/
def endFree (r : Ray) (s : State) : State :=
  let f := fun (k : Nat) => Config.freeNat (100 + k) s.free
  let state := ([8, 9, 12, 13, 14, 15][f 0 % 6]?).getD 8
  let b := setField 7 31 0 (f 1) (setField 6 63 32 (f 2) (setField 4 63 56 (f 3) (setField 4 0 0 (f 4) (setField 3 63 32 (f 5) r.bytes))))
  endRay state { r with bytes := b } { s with free := s.free + 1 }

/-- What a choice about the end of a ray may depend on: the ray as TRACE took it, its BVH, and the errors that it may meet. -/
def rayFacts (d : Desc) (r : Ray) (v : Traversal) : List Nat :=
  rayO r.bytes ++ rayD r.bytes ++ [(recTmin r.bytes).toNat, r.tmax0.toNat, recBvh r.bytes, recFlags r.bytes, d.nodes, d.refs, d.xf,
    d.root, v.deep] ++ v.errs.flatMap (fun e => [e.sure.toNat, e.state, (e.acc.map (·.1)).getD 0, (e.acc.map (·.2)).getD 0])

/-- The candidates of R303: the non-opaque hits no later than the closest opaque one, in ascending key order. -/
def candidates (v : Traversal) (best : Option RayHit) : List RayHit :=
  sortHits (v.hits.filter (fun h => !h.opq && (match best with
    | some c => decide (tOrd h.t ≤ tOrd c.t)
    | none => true)))

/-- The end of a traversal (R303, R309 to R311): with every custom reference reported, the closest hit is set and the any-hit
phase begins. With more than 8 candidates the ray enters STATE 5, and each fallback pass hands on the 8 least above the last
one processed (R310). `s0` stands while a custom reference is still to be met, or a copy owns a line that is read (R292). -/
def finishTraversal (d : Desc) (r : Ray) (s0 s : State) : State :=
  let v := traverse s r d
  if v.pend ≠ [] ∨ readsOpen s r.launch v.reads = false then s0
  else
    let facts := rayFacts d r v
    let t := leaseReads r v.reads { s with free := s.free + 1 }
    let errs := if Config.rayPick 10 facts % 2 = 0 then v.errs else v.errs.filter (·.sure)
    if v.bad && Config.freeBool 11 s.free then endFree r t
    else match errs[Config.rayPick 12 facts % errs.length]? with
      | some e => endWith e r t
      | none =>
        if recOvf r.bytes = 0 && decide (12 < v.deep) && Config.rayPick 13 facts % 2 == 0 then endRay 12 r t
        else
          let best := leastHit (v.hits.filter (·.opq))
          let cands := candidates v best
          let q := match best with
            | some h => r.close h
            | none => r
          if r.many then
            let rest := match r.last with
              | some n => (cands.dropWhile (fun h => h.ref != n)).drop 1
              | none => cands
            nextCand { q with cands := rest.take 8, many := decide (rest ≠ []) } t
          else if cands.length ≤ 8 then nextCand { q with cands := cands, last := none } t
          else if recOvf r.bytes = 0 then endRay 12 q t
          else updRay r.id (fun _ => { q with bytes := withState 5 q.bytes, last := none, many := true }) t

end Sys2Proof.Machine
end

