-- ==== Sys2Proof/Machine/UnitRead.lean ====
section
/-! DEFINITION. Reads that a unit makes itself before it completes (R317, R321): loads for their trackers, leases and
faults (R195), made one after another while the unit waits, interlocked. -/

namespace Sys2Proof.Machine

/-- How such a unit loads: through L1, or at the home (R196, R364). -/
def unitHow (ldn : Bool) : How := { ldn := ldn, acq := false, cache := 0 }

/-- The accesses that the unit of the part in focus has made: their answers wait for it. -/
def ownReads (s : State) : List Access :=
  s.net.filter (fun a => ofPart s a && a.use == .unit s.part.issued)

/-- The part's own reads dropped. -/
def dropReads (s : State) : State :=
  { s with net := s.net.filter (fun a => !((ownReads s).any (fun b => b.id == a.id))) }

/-- The answer that the unit holds for a line. -/
def answerFor (s : State) (line : Nat) : Option Answer :=
  ((ownReads s).find? (fun a => a.line == line && a.back)).bind (·.ans)

/-- The `n` bytes of a lane's access, once they are at hand: the scratchpad's, the L1's, or those of an answer under the
DIRTY bytes of L1. -/
def unitBytes (h : How) (m : Form) (r : Run) (n : Nat) (c : LaneAcc) (s : State) : Option (List Byte) :=
  match c.tgt with
  | .scratch o => some (scrRead s.crew o n)
  | _ => match (readyOf m r [c] s).head? with
    | none => none
    | some q =>
      let fixed := fixedBytes h q n s
      if fixed.length = n then some (fixed.map (fun x => x.2.setWidth 8))
      else (answerFor s (q.place.pa / 128)).map (fun a => (List.range n).map (fun i =>
        match fixed.lookup i with
        | some b => b.setWidth 8
        | none => (cget 0#64 a.bytes (q.place.pa % 128 + i)).setWidth 8))

/-- Whether a lane's access reads a poisoned word (R355). -/
def unitPoison (m : Form) (r : Run) (n : Nat) (c : LaneAcc) (s : State) : Bool :=
  match (readyOf m r [c] s).head? with
  | none => false
  | some q =>
    let off := q.place.pa % 128
    match answerFor s (q.place.pa / 128) with
    | some a => lineMarked a.poison off n
    | none => poisonedL1 s (q.place.pa / 128) off n

/-- The lines that the unit has still to ask for, one access each. -/
def toAsk (h : How) (m : Form) (r : Run) (n : Nat) (accs : List LaneAcc) (s : State) : List Ready :=
  let missing := (readyOf m r accs s).filter (fun q =>
    (fixedBytes h q n s).length != n && !((ownReads s).any (fun a => a.line == q.place.pa / 128)))
  missing.foldl (fun g q => if g.any (fun x => x.place.pa / 128 == q.place.pa / 128) then g else g ++ [q]) []

/-- The lanes whose remote access has failed (R432), with REASON 2. -/
def failedLanes (m : Form) (r : Run) (accs : List LaneAcc) (s : State) : List (LaneAcc × Reason) :=
  let lines := (ownReads s).filterMap (fun a => if (a.ans.map (·.failed)).getD false then some a.line else none)
  (accs.filter (fun c => (readyOf m r [c] s).any (fun q => lines.contains (q.place.pa / 128)))).map (fun c => (c, 2))

/-- Whether a remote access of the unit has failed. -/
def unitFailed (s : State) : Bool := (ownReads s).any (fun a => (a.ans.map (·.failed)).getD false)

/-- `n` bytes read by each lane of a list, and then `f` (R195): the checks first, then accesses for the lines that are
not at hand, for whose answers the unit waits. -/
def phaseReadBy (h : How) (scalar : Bool) (n : Nat) (r : Run) (addrs : List (Nat × W64))
    (f : (Nat → List Byte) → State → State) (s : State) : State :=
  let m : Form := { size := n, scalar := scalar, rd := true, wr := false }
  if acquiring s then hold s else
  checked m r addrs (fun accs t =>
    match failing m accs t with
    | x :: l => loadFault 0 (x :: l) t
    | [] =>
      let vals := accs.map (fun c => (c.lane, unitBytes h m r n c s))
      if unitFailed s then accFault (accRecs 0 (failedLanes m r accs s)) t
      else if vals.all (fun x => x.2.isSome) then
        if accs.any (fun c => unitPoison m r n c s) then poisonKill t
        else f (fun l => ((vals.lookup l).bind id).getD []) s
      else
        let qs := toAsk h m r n accs s
        if !roomFor s (qs.map (·.trk)) then hold s
        else holdIn (qs.foldl (fun u q => sendFill h (.unit s.part.issued) (some q.trk) q u) s)) (dropReads s)

/-- Such reads by the lanes of a vector unit. -/
def phaseRead (n : Nat) (r : Run) (addrs : List (Nat × W64)) (f : (Nat → List Byte) → State → State) (s : State) : State :=
  phaseReadBy (unitHow false) false n r addrs f s

/-- The end of such a unit. -/
def doneReads (r : Run) (s : State) : State := done r (dropReads s)

end Sys2Proof.Machine
end

