-- ==== Sys2Proof/Machine/Ray.lean ====
section
/-! DEFINITION. Ray instructions: RAY (R299 to R302, R314, R317 to R320), and the steps of the traversal units and of the
gatherers. -/

namespace Sys2Proof.Machine

/-! ### The continuation table (R302) -/

/-- What reading a continuation-table entry gives. -/
inductive EntryRes where
  | ok (entry : List Byte)
  | invalid
  | failed (addr : Nat) (reason : Reason)
  deriving DecidableEq, Repr

/-- The fields of a shape word (R302, R356): width code, base registers, scratchpad bytes, handles, engine, slice. -/
structure Shape where
  code : Nat
  base : Nat
  scr  : Nat
  nbuf : Nat
  matx : Bool
  sli  : Bool
  deriving DecidableEq, Repr

def shapeOf (x : W64) : Shape :=
  { code := bfield x 2 0, base := 8 * bfield x 7 3, scr := 256 * bfield x 28 16, nbuf := bfield x 38 32,
    matx := x.getLsbD 39, sli := x.getLsbD 40 }

/-- The limits of a shape (R302, R356). -/
def Shape.ok (x : Shape) : Bool :=
  decide (x.code ≤ 4) && decide (8 ≤ x.base ∧ x.base ≤ 128) && decide (x.scr ≤ 256 * 6144) && decide (x.nbuf ≤ 64)

/-- How many waves of a shape an empty core can hold (R170): 16 quad positions to a sequencer, 1,024 registers per lane to
a bank, 32 waves to a sequencer. -/
def Shape.fits (x : Shape) : Nat := 2 * min 32 (16 / (widthOf x.code / 4) * (1024 / x.base))

/-- Whether an entry is valid (R302). -/
def entryOk (e : List Byte) : Bool :=
  let w := word64 e 3
  let x := shapeOf w
  bfield w 63 41 == 0 && bfield w 31 29 == 0 && bfield w 15 8 == 0 && (List.range 4).all (fun i => word64 e (4 + i) == 0#64)
    && bfield (word64 e 0) 1 0 == 0 && bfield (word64 e 1) 1 0 == 0 && bfield (word64 e 2) 7 0 == 0 && x.ok
    && decide (1 ≤ x.fits)

/-- Entry `k` of a launch's continuation table, read as loads of the context (R302). -/
def contEntry (s : State) (lid k : Nat) : EntryRes :=
  let base := (word64 (launchBytes s lid) 4).toNat
  if base = 0 then .invalid
  else match rayRead s lid base 64 with
    | .error e => .failed e.1 e.2
    | .ok h =>
      let n := (word64 h 0).toNat
      if n = 0 ∨ 16 < n ∨ (h.drop 8).any (· != 0#8) = true ∨ n ≤ k then .invalid
      else match rayRead s lid (base + 64 + 64 * k) 64 with
        | .error e => .failed e.1 e.2
        | .ok e => if entryOk e then .ok e else .invalid

/-- The reads of the table that give entry `k`. -/
def entryReads (s : State) (lid k : Nat) : List (Nat × Nat) :=
  let base := (word64 (launchBytes s lid) 4).toNat
  if base = 0 then [] else [(base, 64), (base + 64 + 64 * k, 64)]

/-- The pages of a stack region that are not held yet, translated one by one (R384): or the first address that fails, with its
reason, which is the rights where a leaf lacks RD or W. -/
def stackWalk (s : State) (ctx : Nat) (held : List Page) : Nat → Nat → Nat → Except (Nat × Reason) (List Page)
  | 0, _, _ => .ok []
  | fuel + 1, va, end_ =>
    if end_ ≤ va then .ok []
    else match pageOf held va, walk s ctx va with
      | some p, _ => stackWalk s ctx held fuel (p.va + p.size) end_
      | none, none => .error (va, 1)
      | none, some p =>
        if !p.rd || !p.w then .error (va, 2) else (stackWalk s ctx held fuel (p.va + p.size) end_).map (fun l => p :: l)

/-- The lines of the table entries that such walks read. -/
def stackLines (s : State) (ctx : Nat) (held : List Page) : Nat → Nat → Nat → List Nat
  | 0, _, _ => []
  | fuel + 1, va, end_ =>
    if end_ ≤ va then []
    else match pageOf held va, walk s ctx va with
      | some p, _ => stackLines s ctx held fuel (p.va + p.size) end_
      | none, none => tableLines s ctx va
      | none, some p => tableLines s ctx va ++ stackLines s ctx held fuel (p.va + p.size) end_

/-- The stack region of an entry: its base and its bytes. -/
def entryStack (e : List Byte) : Nat × Nat := ((word64 e 2).toNat, 65536 * widthOf (shapeOf (word64 e 3)).code)

/-- The lines of the page tables that naming an entry reads. -/
def entryLines (s : State) (lid : Nat) (e : List Byte) : List Nat :=
  let r := entryStack e
  match getLaunch s lid with
  | none => []
  | some l => if r.1 = 0 then [] else stackLines s l.ctx l.stkPages r.2 r.1 (r.1 + r.2)

/-- The stack pages of an entry, translated when the entry is first named (R384); or the address that fails. -/
def nameEntry (lid : Nat) (e : List Byte) (s : State) : Except (Nat × Reason) State :=
  let r := entryStack e
  match getLaunch s lid with
  | none => .error (r.1, 1)
  | some l =>
    if r.1 = 0 then .ok s
    else (stackWalk s l.ctx l.stkPages r.2 r.1 (r.1 + r.2)).map (fun ps =>
      updLaunch (bring l.ctx (entryLines s lid e) s) lid (fun x => { x with stkPages := x.stkPages ++ ps }))

/-- Whether no copy owns a line that naming entry `k` reads, in the table or in the page tables (R292). -/
def entryOpen (s : State) (lid k : Nat) : Bool :=
  readsOpen s lid (entryReads s lid k) && match contEntry s lid k with
    | .ok e => unowned s (entryLines s lid e)
    | _ => true

/-! ### TRACE and CONTEND (R299, R302, R320) -/

/-- A RAY word. -/
def opRay (fn : Nat) (r : Run) (d a b : BitVec 7) (lims : Bool) (uses : List Use) : Op :=
  { Op.plain (wRRR 23 r d a b fn) r 0 uses with lims := lims }

/-- A WIDTH value that the instruction does not accept (R302): it is named by its hint, or by the word without one
(log 7). -/
def badK (word : W32) (r : Run) (s : State) : State :=
  let w := match (r.ofKind 4).head? with
    | some h => encodeHint h
    | none => word
  trap (rejectTrap { cause := 0x0E, step := 5, word := w } s) r s

/-- Entry K named by a unit, before any lane exits: `f` receives it. -/
def withEntry (word : W32) (k : Nat) (r : Run) (f : List Byte → State → State) (s : State) : State :=
  if entryOpen s s.crew.launch k = false then holdIn s
  else match contEntry s s.crew.launch k with
  | .failed _ 0 => poisonKill s
  | .failed a re => accFault [{ addr := BitVec.ofNat 64 a, lanes := 0#64, akind := 7, reason := re }] s
  | .invalid => badK word r s
  | .ok e => match nameEntry s.crew.launch e s with
    | .ok t => f e t
    | .error x => accFault [{ addr := BitVec.ofNat 64 x.1, lanes := 0#64, akind := 7, reason := x.2 }] s

/-- A lane's ray, or a lane that CONTEND hands on. -/
def newRay (s : State) (k : Nat) (entry : List Byte) (value : W32) (ra : W64) (pa key : Nat) (bytes : List Byte) : Ray :=
  { id := s.ids, ctx := s.crew.ctx, launch := s.crew.launch, cluster := clusterOf s.crew.core, ra := ra, pa := pa,
    key := key, value := value, k := k, entry := entry, bytes := bytes, stage := 0, kind := .cont, ready := 0, crew := 0,
    ref := 0, looked := false, lkey := none, tmax0 := recTmax bytes, reports := [], best := none, cands := [], last := none,
    many := false }

/-- The record as the unit takes it (R299): CONT, CIDX and STATE set, HIT, HINTUSED, AHCOUNT, NCAND and NSTK 0. -/
def takenRecord (k : Nat) (entry b : List Byte) : List Byte :=
  setField 6 3 0 k (withState 0 (setWord 4 (pcField (word64 entry 0)) b))

/-- A lane's ray handed to a traversal unit: the record is read at its home, and its fields are written back. A poisoned
record ends the ray in STATE 15 (R355), and so does one that a peer does not give (R432), whether it does being free. -/
def takeRay (k : Nat) (entry : List Byte) (value : W32) (ra : W64) (p : Place) (s : State) : State :=
  let bad := poisoned s p.pa 128
  let lost := remoteLine (p.pa / 128) && Config.freeBool 3 s.free
  let b := takenRecord k entry (memRead s p.key p.pa 128)
  let q := newRay s k entry value ra p.pa p.key b
  let t := (writeRecord q { s with ids := s.ids + 1, rays := s.rays ++ [q], free := s.free + 1 }).1
  if lost then endWith (RayErr.failed true (ra.toNat, 2)) q t else if bad then endRay 15 q t else t

/-- How many rays the units of a cluster hold. -/
def raysHeld (s : State) (cl : Nat) : Nat := (s.rays.filter (fun r => r.cluster == cl && r.bytes != [])).length

/-- The addresses of TRACE's records in the active lanes. -/
def rayAddrs (a b : BitVec 7) (s : State) : List (Nat × W64) :=
  (activeLanes s).map (fun l => (l, sreg s a + (rdV s b.toNat l).setWidth 64))

/-- The checks of TRACE's record addresses (R299): alignment, the global window, then translation, grants and rights;
`f` receives the lanes with their places. -/
def rayPlaces (r : Run) (addrs : List (Nat × W64)) (f : List (Nat × W64 × Place) → State → State) (s : State) : State :=
  let bad := addrs.filter (fun x => x.2.toNat % 128 != 0)
  match bad with
  | b :: _ =>
    trap { cause := 0x03, lanes := maskOf (fun l => bad.any (fun x => x.1 == l)), info := 128#64, addr := b.2 } r s
  | [] => match addrs.find? (fun x => decide (2 ^ 56 ≤ x.2.toNat)) with
    | some x => aperture x.2 s
    | none =>
      let m : Form := { size := 128, scalar := false, rd := true, wr := true }
      let accs := addrs.map (fun x => ({ lane := x.1, addr := x.2, tgt := .glob x.2.toNat false } : LaneAcc))
      match failing m accs s with
      | x :: l => loadFault 8 (x :: l) s
      | [] => f (accs.filterMap (fun c => match placeOf m c s with
          | .ok (some p) => some (c.lane, c.addr, p)
          | _ => none)) s

/-- TRACE (R299). In TRAPPED it fails step 3 (R317), also while a store fault is held (log 47). -/
def execTrace (r : Run) (d a b : BitVec 7) (s : State) : Host.Outcome State Fault Refusal :=
  let k := (widthHint r).getD 0
  let calls := s.crew.kind != .anyhit && s.crew.kind != .intersect
  unit { opRay 0 r d a b (s.part.state != .trapped && calls) [srcV d, srcS a, srcV b] with width := some (0, 15) }
    (drained r (withEntry (wRRR 23 r d a b 0) k r (fun e t =>
      rayPlaces r (rayAddrs a b t) (fun ls u =>
        if 1024 < raysHeld u (clusterOf u.crew.core) + ls.length ∨ unowned u (ls.map (fun x => x.2.2.pa / 128)) = false then hold u
        else releaseThen r 0xFFFF 4 (fun v =>
          leave r (ls.foldl (fun w x => takeRay k e (rdV v d.toNat x.1) x.2.1 x.2.2 w) v)) u) t))) s

/-- A lane given to the gatherer without a record (R320). -/
def handLane (k : Nat) (entry : List Byte) (value : W32) (s : State) : State :=
  let q := newRay s k entry value 0#64 0 0 []
  { s with ids := s.ids + 1, rays := s.rays ++ [{ q with stage := 1, ready := timeOf s }] }

/-- CONTEND (R320). In TRAPPED it fails step 3 (R317), also while a store fault is held (log 47). -/
def execContend (r : Run) (d : BitVec 7) (s : State) : Host.Outcome State Fault Refusal :=
  let k := (widthHint r).getD 0
  unit { opRay 4 r d 0#7 0#7 (s.part.state != .trapped) [srcV d] with width := some (0, 15) }
    (drained r (withEntry (wRRR 23 r d 0#7 0#7 4) k r (fun e t =>
      releaseThen r 0xFFFF 4 (fun v =>
        leave r ((activeLanes v).foldl (fun w l => handLane k e (rdV v d.toNat l) w) v)) t))) s

/-! ### Invocations (R319) -/

/-- A commit of the active lanes, which then exit. -/
def commitUnit (r : Run) (f : Nat → Ray → State → State) (s : State) : State :=
  if s.part.exm = 0#64 then done r s else exitLanes s.part.exm (done r (commitLanes f s.part.exm s))

/-- AHACC (R309, R319). -/
def execAhacc (r : Run) (s : State) : Host.Outcome State Fault Refusal :=
  unit (opRay 2 r 0#7 0#7 0#7 (s.part.state != .trapped && s.crew.kind == .anyhit) [])
    (drained r (commitUnit r (fun _ => commitAny true))) s

/-- AHREJ (R309, R319). -/
def execAhrej (r : Run) (s : State) : Host.Outcome State Fault Refusal :=
  unit (opRay 3 r 0#7 0#7 0#7 (s.part.state != .trapped && s.crew.kind == .anyhit) [])
    (drained r (commitUnit r (fun _ => commitAny false))) s

/-- ISHIT (R308, R319): a NaN t, or a t outside [TMIN, bound], reports no hit. -/
def execIshit (r : Run) (a b : BitVec 7) (s : State) : Host.Outcome State Fault Refusal :=
  unit (opRay 7 r 0#7 a b (s.part.state != .trapped && s.crew.kind == .intersect) [srcV a, srcV b])
    (drained r (fun t => commitUnit r (fun l q =>
      let x := rdV t a.toNat l
      let inside := fle (recTmin q.bytes).toNat x.toNat && fle x.toNat (recTmax q.bytes).toNat
      commitHit (if inside then some (x, rdV t b.toNat l) else none) q) t)) s

/-- CONTGET (R320). -/
def execContget (r : Run) (d k : BitVec 7) (s : State) : Host.Outcome State Fault Refusal :=
  unit (opRay 5 r d 0#7 k (decide (k.toNat < 4)) [dstV d])
    (fun t =>
      let val := fun (l : Nat) => match t.crew.gather[l]? with
        | none => 0#32
        | some g => match k.toNat with
          | 0 => g.value
          | 1 => g.ra.setWidth 32
          | 2 => (g.ra >>> 32).setWidth 32
          | _ => if t.crew.kind = .cont then 0#32 else g.ref
      done r (wrV 0 d.toNat (activeLanes t) val t)) s

/-! ### HITGET (R318) -/

/-- Whether a record holds a hit. -/
def recHit (b : List Byte) : Bool := (word64 b 4).getLsbD 0

/-- A fraction of 65,535 as FP32 (R318). -/
def frac65535 (n : Nat) : W32 := BitVec.ofNat 32 (fp32.round 0 false n 65535 0)

/-- What HITGET.N writes from a record and, for N of 1, 2 and 7, from reference HREF. -/
def hitValue (n : Nat) (b ref : List Byte) : W32 :=
  let miss := !recHit b
  match n with
  | 0 => recTmax b
  | 1 => if miss then 0xFFFFFFFF#32 else word32 ref 2
  | 2 => if miss then 0xFFFFFFFF#32 else word32 ref 3
  | 3 => if miss then 0#32 else frac65535 (bfield (word64 b 7) 15 0)
  | 4 => if miss then 0#32 else frac65535 (bfield (word64 b 7) 31 16)
  | 5 => word32 b 12
  | 6 => BitVec.ofNat 32 (bfield (word64 b 4) 63 56 + bfield (word64 b 4) 0 0 * 2 ^ 8 + bfield (word64 b 4) 1 1 * 2 ^ 9)
  | _ => if miss then 0xFFFFFFFF#32 else word32 ref 5 &&& 3#32

/-- HITGET (R318). -/
def execHitget (r : Run) (d a b : BitVec 7) (s : State) : Host.Outcome State Fault Refusal :=
  let n := (widthHint r).getD 0
  unit { opRay 1 r d a b true [dstV d, srcS a, srcV b] with width := some (0, 7) }
    (fun t => phaseRead 128 r (rayAddrs a b t) (fun rec_ u =>
      let fin := fun (ref : Nat → List Byte) (v : State) =>
        doneReads r (wrV 0 d.toNat (activeLanes v) (fun l => hitValue n (rec_ l) (ref l)) v)
      if n = 1 ∨ n = 2 ∨ n = 7 then
        let ls := (activeLanes u).filter (fun l => recHit (rec_ l))
        let base := word64 (launchBytes u u.crew.launch) 3
        phaseRead 64 r (ls.map (fun l => (l, base + BitVec.ofNat 64 (64 * recBvh (rec_ l))))) (fun desc v =>
          phaseRead 32 r (ls.map (fun l => (l, word64 (desc l) 1 + BitVec.ofNat 64 (32 * bfield (word64 (rec_ l) 6) 63 32))))
            fin v) u
      else fin (fun _ => []) u) t) s

/-! ### LNTINV (R314) -/

/-- LNTINV (R314): an atomic at package scope at the descriptor's home adds 1 to GEN; when GEN wraps, the BVH's entries
leave every Lantern before the instruction completes. -/
def execLntinv (r : Run) (a : BitVec 7) (s : State) : Host.Outcome State Fault Refusal :=
  unit (opRay 6 r 0#7 a 0#7 true [srcS a])
    (fun t =>
      let bvh := bfield (sreg t a) 11 0
      let addr := word64 (launchBytes t t.crew.launch) 3 + BitVec.ofNat 64 (64 * bvh + 0x1C)
      let m : Form := { size := 1, scalar := true, rd := true, wr := true }
      checked m r [(scalarLane t, addr)] (fun accs u =>
        match failing m accs u, readyOf m r accs u with
        | x :: l, _ => loadFault 2 (x :: l) u
        | [], [] => aperture addr u
        | [], q :: _ =>
          let line := q.place.pa / 128
          let off := q.place.pa % 128
          match (ownReads u).head? with
          | some x =>
            if !x.back then holdIn u
            else if (x.ans.map (·.failed)).getD false then
              accFault [{ addr := addr, lanes := 0#64, akind := 2, reason := 2 }] (dropReads u)
            else if lineMarked ((x.ans.map Answer.poison).getD 0) off 1 then poisonKill (dropReads u)
            else
              let old := cget 0#64 ((x.ans.map (·.bytes)).getD []) off
              let v := if old.setWidth 8 = 255#8 then
                  lanternDrop (fun e => e.key.take 2 == [u.crew.ctx, bvh]) u
                else u
              doneReads r v
          | none =>
            match tryDown u.crew.core line u with
            | none => hold u
            | some v =>
              let w := overtake [] v.crew.core line v
              let c := mkAccess w.crew line q.place.key q.place.tso q.place.vault (some q.trk)
                (.atomic 0 1 off 1#64 0#64) (.unit w.part.issued)
              if outRoom w w.crew.cid q.trk then
                holdIn (send { c with wave := w.wave.widx, part := lowBit w.part.quads, off := off } w)
              else hold u) t) s

/-! ### Gatherers (R300, R325) -/

/-- Whether a context runs: it exists and is not pre-empted (R372), and no thermal trip has stopped the package (R346). -/
def ctxRuns (s : State) (ctx : Nat) : Bool :=
  match getCtx s ctx with
  | some c => c.preempt == 0 && !s.pkg.halted
  | none => false

/-- The crew of a gathered wave (R300, R302, R369): one wave of the entry's shape, with the next number of its context as
its coordinate. -/
def gatheredCrew (s : State) (g : GWave) : Crew :=
  let x := shapeOf (word64 g.entry 3)
  let l := getLaunch s g.launch
  let n := ((getCtx s g.ctx).map (·.contCnt)).getD 0
  { Crew.none with
    cid := s.ids, cond := .waiting, kind := g.kind, ctx := g.ctx, launch := g.launch, slot := (l.map (·.slot)).getD 0,
    coords := (BitVec.ofNat 64 (n % 2 ^ 32), 0#64), code := x.code, nwave := 1, entry := word64 g.entry 0,
    stackb := word64 g.entry 2, scr := x.scr, nbuf := x.nbuf, matrix := { Matrix.reset with owned := x.matx },
    slice := { Slice.reset with has := x.sli }, centry := g.entry, gather := g.lanes }

/-- A gatherer launches a wave (R300): continuation rays end, and the rays of invocations wait for their commits. -/
def launchWave (g : GWave) (s : State) : State :=
  let c := gatheredCrew s g
  let mine := fun (r : Ray) => g.lanes.any (fun x => x.ray == r.id)
  let rays := if g.kind = .cont then s.rays.filter (fun r => !mine r)
    else updIf mine (fun (r : Ray) => { r with stage := 3, crew := c.cid }) s.rays
  let t := updCtx s g.ctx (fun (x : Ctx) => { x with contCnt := (x.contCnt + 1) % 2 ^ 32 })
  let u := updLaunch t g.launch (fun (l : Launch) => { l with alive := l.alive + 1 })
  { u with ids := s.ids + 1, rays := rays, crews := insertCrew c u.crews, gwaves := u.gwaves.filter (fun x => x.id != g.id) }

/-- A lane placed in a wave at a place that the device chooses (R300); the lanes fill from 0 (log 48), and a full wave is
launched. -/
def placeLane (g : GWave) (r : Ray) (s : State) : State :=
  let lane : GLane := { ray := r.id, ra := r.ra, value := r.value, ref := BitVec.ofNat 32 r.ref }
  let n := Config.freeNat 14 s.free % (g.lanes.length + 1)
  let q : GWave := { g with lanes := g.lanes.take n ++ [lane] ++ g.lanes.drop n }
  let t := updRay r.id (fun (x : Ray) => { x with stage := 2 })
    { s with free := s.free + 1, gwaves := s.gwaves.filter (fun x => x.id != g.id) ++ [q] }
  if widthOf (shapeOf (word64 q.entry 3)).code ≤ q.lanes.length then launchWave q t else t

/-- A wave opened for a ray, with the entry as it stands now (R302). -/
def openWave (r : Ray) (k : Nat) (entry : List Byte) (s : State) : State :=
  let g : GWave :=
    { id := s.ids, cluster := r.cluster, ctx := r.ctx, launch := r.launch, k := k, kind := r.kind, entry := entry,
      lanes := [], due := cycleOf s r.cluster + 4096 }
  placeLane g r { s with ids := s.ids + 1 }

/-- A ray handed to the gatherer of its cluster under entry `k` (R300). An entry named by AHK or ISK that is invalid ends
the ray in STATE 14, one that cannot be read in STATE 15 (R302, R384); a continuation keeps the entry that TRACE read. -/
def handTo (k : Nat) (r : Ray) (s : State) : State :=
  match s.gwaves.find? (fun g => g.cluster == r.cluster && g.launch == r.launch && g.k == k && g.kind == r.kind) with
  | some g => placeLane g r s
  | none =>
    let cont := r.kind == .cont
    match contEntry s r.launch k with
    | .ok e => match nameEntry r.launch e s with
      | .ok t => openWave r k e t
      | .error x => if cont then openWave r k r.entry s else endWith (RayErr.failed true x) r s
    | .invalid => if cont then openWave r k r.entry s else endWith (RayErr.malformed true) r s
    | .failed a re => if cont then openWave r k r.entry s else endWith (RayErr.failed true (a, re)) r s

/-- Whether a peer still has to answer a write of a ray's record (R300, R430). -/
def recordOut (s : State) (r : Ray) : Bool := s.net.any (fun a => a.core == hubCore && a.line == r.pa / 128 && !a.back)

/-- Whether nothing keeps the hand-over to entry `k` waiting (R292). -/
def handReady (s : State) (k : Nat) (r : Ray) : Bool :=
  s.gwaves.any (fun g => g.cluster == r.cluster && g.launch == r.launch && g.k == k && g.kind == r.kind) || entryOpen s r.launch k

/-- The hand-over of a ray to its entry AHK or ISK, which its descriptor names. -/
def handInvocation (r : Ray) (s : State) : State :=
  let t := leaseReads r (descRead s r) s
  if readsOpen s r.launch (descRead s r) = false then s
  else match rayDesc s r with
    | .error e => endWith e r t
    | .ok d =>
      let k := if r.kind = .anyhit then d.ahk else d.isk
      if handReady s k r then handTo k r t else s

/-- RAY_HANDOFF (R300): once TIME is at least the completion time of the record's write. -/
def execRayHandoff (ray : Nat) (s : State) : Host.Outcome State Fault Refusal :=
  .next (match s.rays.find? (fun r => r.id == ray) with
    | none => s
    | some r =>
      if r.stage ≠ 1 ∨ timeOf s < r.ready ∨ recordOut s r = true ∨ ctxRuns s r.ctx = false ∨ s.pkg.halted = true then s
      else if r.kind = .cont then (if handReady s r.k r then handTo r.k r s else s)
      else handInvocation r s)

/-- GATHER_TIMEOUT (R300): 4,096 cycles after its first ray. -/
def execGatherTimeout (wave : Nat) (s : State) : Host.Outcome State Fault Refusal :=
  .next (match s.gwaves.find? (fun g => g.id == wave) with
    | none => s
    | some g => if g.lanes = [] ∨ cycleOf s g.cluster < g.due ∨ s.pkg.halted = true then s else launchWave g s)

/-! ### The traversal units -/

/-- A traversing ray of a context that runs, unless a thermal trip has stopped the package (R346). -/
def traversing (ray : Nat) (s : State) : Option Ray :=
  s.rays.find? (fun r => r.id == ray && r.stage == 0 && ctxRuns s r.ctx && !s.pkg.halted)

/-- RAY_END (R300, R303, R309, R311, R313): the traversal is over, and the ray ends or goes to its first any-hit
invocation. A ray that still has to meet a custom reference goes on. -/
def execRayEnd (ray : Nat) (s : State) : Host.Outcome State Fault Refusal :=
  .next (match traversing ray s with
    | none => s
    | some r => match earlyEnd r with
      | some (st, b) => endRay st { r with bytes := b } s
      | none =>
        let t := leaseReads r (descRead s r) s
        if readsOpen s r.launch (descRead s r) = false then s
        else match rayDesc s r with
        | .error e => endWith e r t
        | .ok d => match lookUp d r t with
          | none => s
          | some q => finishTraversal d q.1 s (updRay r.id (fun _ => q.1) q.2))

/-- INTERSECTION_SHADER_INVOKE (R308): the ray meets a custom reference that has not been reported; which one comes first
is the unit's choice. -/
def execIntersectionShaderInvoke (ray : Nat) (s : State) : Host.Outcome State Fault Refusal :=
  .next (match traversing ray s with
    | none => s
    | some r => match earlyEnd r, rayDesc s r with
      | none, .ok d => match lookUp d r (leaseReads r (descRead s r) s) with
        | none => s
        | some q =>
        let v := traverse q.2 q.1 d
        match v.pend[Config.freeNat 15 s.free % v.pend.length]? with
        | none => s
        | some n =>
          if recOvf r.bytes = 0 ∨ readsOpen s r.launch (descRead s r ++ v.reads) = false then s
          else handOn .intersect n { q.1 with bytes := withState 4 q.1.bytes }
            (writeOvf q.1 0 (leBytes 4 n) (leaseReads q.1 v.reads { q.2 with free := s.free + 1 }))
      | _, _ => s)

end Sys2Proof.Machine
end

