-- ==== Sys2Proof/Machine/Sched.lean ====
section
/-! DEFINITION. The scheduler: launch records and grant lists (R356, R357, R386, R387), the start of a launch (R361),
placement (R358, R367, R368), admission (R170, R278), the visit of a slot (R366) and the end of a crew (R273). -/

namespace Sys2Proof.Machine

/-! ### Launch records (R356, R357) -/

/-- The shape that a launch record declares. -/
def launchShape (b : List Byte) : Shape := shapeOf (word64 b 5)

/-- The number of waves of a crew. -/
def launchWaves (b : List Byte) : Nat := bfield (word64 b 5) 12 8 + 1

/-- Whether a record sets no reserved bit, and no count of a level that it does not declare. -/
def recordBits (b : List Byte) : Bool :=
  let w := fun (i : Nat) => word64 b i
  let nlev := bfield (w 5) 45 43
  let counts := [bfield (w 6) 63 32, bfield (w 7) 15 0, bfield (w 7) 31 16, bfield (w 7) 47 32]
  bfield (w 5) 63 46 == 0 && bfield (w 5) 31 29 == 0 && bfield (w 5) 15 13 == 0 && bfield (w 7) 63 48 == 0
    && bfield (w 9) 63 5 == 0 && bfield (w 11) 63 29 == 0
    && (List.range 4).all (fun i => bfield (w (12 + i)) 62 61 == 0 && bfield (w (12 + i)) 55 48 == 0)
    && (List.range 8).all (fun i => w (24 + i) == 0#64) && (counts.drop nlev).all (· == 0)

/-- Whether a record's fields keep their limits and alignments. -/
def recordFields (b : List Byte) : Bool :=
  let w := fun (i : Nat) => word64 b i
  (launchShape b).ok && decide (bfield (w 9) 4 0 ≤ 16) && decide (bfield (w 5) 45 43 ≤ 4)
    && bfield (w 0) 1 0 == 0 && bfield (w 1) 1 0 == 0 && bfield (w 2) 7 0 == 0 && bfield (w 3) 5 0 == 0
    && bfield (w 4) 5 0 == 0 && bfield (w 8) 4 0 == 0

/-- Whether a launch record is valid in a context (R357). -/
def recordOk (c : Ctx) (b : List Byte) : Bool :=
  let x := launchShape b
  recordBits b && recordFields b && (!x.sli || c.rights.testBit 1) && (!x.matx || c.rights.testBit 0)
    && decide (launchWaves b ≤ x.fits)

/-- The lanes of a crew's waves in all (R174). -/
def crewLanes (b : List Byte) : Nat := launchWaves b * widthOf (launchShape b).code

/-- The crews that a module runs: those whose c7, which is 0 where level 7 is not declared, is its fabric index (R27, R358). -/
def localCrews (s : State) (b : List Byte) : Nat × Nat :=
  let counts := launchCounts b
  let all := counts.foldl (· * ·) 1
  let n := (counts.take 4).foldl (· * ·) 1
  if s.fabric.fidx < counts[4]?.getD 1 then (s.fabric.fidx * n, (s.fabric.fidx + 1) * n) else (all, all)

/-! ### Grants (R386, R387) -/

/-- An entry of a grant list as it is read: its grant, or none where it breaks R386. A handle's range comes later. -/
def readGrant (b : List Byte) : Option Grant :=
  let w := fun (i : Nat) => word64 b i
  let kind := bfield (w 2) 9 8
  let hdl := bfield (w 2) 27 16
  let bits := bfield (w 2) 63 28 == 0 && bfield (w 2) 15 10 == 0 && bfield (w 2) 7 2 == 0 && w 3 == 0#64
  if !bits then none
  else if kind = 1 then
    if hdl = 0 ∧ 1 ≤ (w 1).toNat ∧ (w 0).toNat + (w 1).toNat ≤ 2 ^ 56 then
      some { base := (w 0).toNat, size := (w 1).toNat, hdl := none, gw := (w 2).getLsbD 1, gr := (w 2).getLsbD 0 }
    else none
  else if kind = 2 then
    if w 0 = 0#64 ∧ w 1 = 0#64 then
      some { base := 0, size := 0, hdl := some hdl, gw := (w 2).getLsbD 1, gr := (w 2).getLsbD 0 }
    else none
  else none

/-- A list of grants; none where an entry breaks R386. -/
def readGrants (b : List Byte) : Nat → Option (List Grant)
  | 0 => some []
  | n + 1 => match readGrants b n, readGrant (sliceOf 0#8 b (32 * n) 32) with
    | some l, some g => some (l ++ [g])
    | _, _ => none

/-- A grant with its range, and the pages under it; none where its handle is not live, or a page fails (R387). -/
def grantPages (s : State) (ctx : Nat) (g : Grant) : Option (Grant × List Page) :=
  match g.hdl with
  | some n => (getHandle s ctx n).map (fun h => ({ g with base := h.base, size := h.extent }, [handlePage h]))
  | none => (pagesOf s ctx g.gr g.gw g.size g.base (g.base + g.size)).map (fun ps => (g, ps))

/-- The grants of a list with their pages. -/
def allGrants (s : State) (ctx : Nat) (l : List Grant) : Option (List Grant × List Page) :=
  l.foldr (fun g acc => match acc, grantPages s ctx g with
    | some (gs, ps), some (x, qs) => some (x :: gs, qs ++ ps.filter (fun p => !qs.contains p))
    | _, _ => none) (some ([], []))

/-- The lines of the page tables that the translation of a list reads (R293, R383). -/
def grantLines (s : State) (ctx : Nat) (l : List Grant) : List Nat :=
  l.flatMap (fun g => if g.hdl.isSome then [] else rangeLines s ctx g.size g.base (g.base + g.size))

/-- The stack pages of a launch (R384). -/
def stackPages (s : State) (ctx : Nat) (b : List Byte) : Option (List Page) :=
  let sb := (word64 b 2).toNat
  let n := 65536 * crewLanes b
  if sb = 0 then some [] else if 2 ^ 56 < sb + n then none else pagesOf s ctx true true n sb (sb + n)

/-- The lines of the page tables that the translation of a launch's stack region reads. -/
def stackTables (s : State) (ctx : Nat) (b : List Byte) : List Nat :=
  let sb := (word64 b 2).toNat
  let n := 65536 * crewLanes b
  if sb = 0 ∨ 2 ^ 56 < sb + n then [] else rangeLines s ctx n sb (sb + n)

/-- Granted handles in host memory promoted to GDDR 7, but for pinned ones, which HANDLE migrate alone moves (R392); and the time
of the grant noted (R387, R393). None while a tier has no room that leaves the other handles granted where they are. -/
def promote (ctx : Nat) (l : List Grant) (s : State) : Option State :=
  let keep := l.filterMap (fun g => g.hdl.map (fun n => (ctx, n)))
  l.foldl (fun acc g => match acc, g.hdl with
    | some t, some n => match getHandle t ctx n with
      | some h =>
        let moved := if h.tier = 3 ∧ h.pinned = false then (spaceFor keep 2 0 h.extent t).map (moveHandle ctx n 2 0) else some t
        moved.map (fun u => match getHandle u ctx n with
          | some x => setHandle ctx n (some { x with granted := timeOf u }) u
          | none => u)
      | none => some t
    | acc, _ => acc) (some s)

/-! ### The start of a launch (R361, R402) -/

/-- HEAD of a queue header advanced by one record (R402). -/
def advanceHead (v : Via) (hdr : Nat) (s : State) : State :=
  match viaRead s v (hdr + 0x18) 8 with
  | some b => if viaOk s v (hdr + 0x18) 8 true true then viaWrite v (hdr + 0x18) (leBytes 8 (leNat b + 1)) s else s
  | none => s

/-- The record of a launch served: HEAD passes it when it stands there. -/
def passRecord (l : Launch) (s : State) : State :=
  if l.ring then match queueHdr s l.ctx l.queue with
    | some h => advanceHead (some l.ctx) h.toNat s
    | none => s
  else s

/-- A launch dropped (R357, R387): a fault-ring record with the record's address, and STATUS 5. -/
def dropLaunch (l : Launch) (cause : Nat) (s : State) : State :=
  let h : RecHead :=
    { type := 3, nslot := 1, widx := 0, pidx := 0, trapreg := false, restart := false, recov := false, akind := 0,
      reason := 0, cause := cause }
  let t := faultRun l.ctx [{ head := h, body := [l.addr] }] s
  complete l.slot (some l.ctx) l.word0 l.cpla 5 0#64
    (passRecord l { t with launches := t.launches.filter (fun x => x.lid != l.lid) })

/-- Whether every crew of the launches of a queue that have started has been admitted once (R361). -/
def queueFree (s : State) (ctx queue : Nat) : Bool :=
  s.launches.all (fun l => !(l.ctx == ctx && l.queue == queue && l.started) || l.next == l.total)

/-- A launch whose grant list has been read starts, with its grants and its stack translated. -/
def startWith (l : Launch) (list : List Grant) (s : State) : State :=
  match allGrants s l.ctx list, stackPages s l.ctx l.bytes with
  | some (gs, ps), some st => match promote l.ctx gs s with
    | none => s
    | some t =>
      let run := localCrews t l.bytes
      finishLaunch l.lid (passRecord l (updLaunch t l.lid (fun (x : Launch) => { x with
        started := true, grants := gs, pages := ps, stkPages := st, next := run.1, total := run.2, ring := false })))
  | _, _ => dropLaunch l 0x0A s

/-- A checked launch that has passed its WAIT test starts: its grants and its stack are translated and held, its granted
handles promoted; it waits while a tier has no room, and is dropped where a page or a handle fails (R387). The walks read the
tables at their homes, and wait for copies that own a line of them (R292, R293, R383). -/
def startLaunch (l : Launch) (s : State) : State :=
  let n := bfield (word64 l.bytes 9) 4 0
  match (if n = 0 then some [] else ctxRead s l.ctx (word64 l.bytes 8).toNat (32 * n)).bind (fun b => readGrants b n) with
  | none => dropLaunch l 0x0A s
  | some list =>
    let lines := grantLines s l.ctx list ++ stackTables s l.ctx l.bytes
    if unowned s lines then startWith l list (bring l.ctx lines s) else s

/-- LAUNCH_START (R357, R361): the launch at the head of a slot's queue is read and checked, and starts once its WAIT mask
has been met and every crew of the launches before it has been admitted. -/
def execLaunchStart (slot : Nat) (s : State) : Host.Outcome State Fault Refusal :=
  let x := getSlot s slot
  .next (if !x.mapped || slot == 0 || !ctxRuns s x.ctx || s.pkg.halted then s
    else match headOf s x.ctx x.queue, getCtx s x.ctx with
      | some l, some c =>
        let got := if l.bytes = [] then ctxRead s l.ctx l.addr.toNat 256 else some l.bytes
        if l.addr.toNat % 256 ≠ 0 then dropLaunch l 0x01 s
        else match got with
          | none => dropLaunch l 0x0A s
          | some b =>
            if recordOk c b = false then dropLaunch l 0x01 s
            else
              let t := testHeads x.ctx (updLaunch s l.lid (fun (y : Launch) => { y with bytes := b }))
              match headOf t x.ctx x.queue with
              | some m => if m.passed ∧ queueFree t x.ctx x.queue = true then startLaunch m t else t
              | none => t
      | _, _ => s)

/-! ### Cores (R12, R14, R170) -/

/-- The crews on a core. -/
def crewsOn (s : State) (core : Nat) : List Crew := (allCrews s).filter (fun c => c.cond == .resident && c.core == core)

/-- What a wave takes of its sequencer: sequencer, first position, positions, registers per lane, scalar sets. -/
structure Spot where
  seqn  : Nat
  pos   : Nat
  quads : Nat
  regs  : Nat
  parts : Nat
  deriving DecidableEq, Repr

/-- What the waves on a core take; a wave that has retired takes nothing. The scalar sets of a fuse are taken until the cycle
after it (R44). -/
def spotsOn (s : State) (core : Nat) : List Spot :=
  (crewsOn s core).flatMap (fun c => (c.waves.filter (fun w => w.parts != [])).map (fun w =>
    ({ seqn := w.seqn, pos := w.qpos, quads := widthOf w.code / 4, regs := w.vcur,
       parts := setsOf (cycleOf s (clusterOf core)) w } : Spot)))

/-- The registers per lane taken at the fullest position of a place. -/
def spotLoad (there : List Spot) (x : Spot) : Nat :=
  (List.range x.quads).foldl (fun m i => max m ((there.filter (fun y => y.seqn == x.seqn)).map (fun y =>
    if y.pos ≤ x.pos + i ∧ x.pos + i < y.pos + y.quads then y.regs else 0)).sum) 0

/-- Whether a further wave fits at a place beside those there. -/
def spotFits (there : List Spot) (x : Spot) : Bool :=
  let near := there.filter (fun y => y.seqn == x.seqn)
  decide (near.length < 32) && decide ((near.map (·.parts)).sum + x.parts ≤ 64) && decide (spotLoad there x + x.regs ≤ 1024)

/-- The places of a sequencer pair where a wave of `q` positions may stand. -/
def spotPlaces (q regs parts : Nat) : List Spot :=
  (List.range 2).flatMap (fun sq => (List.range (16 / q)).map (fun i =>
    ({ seqn := sq, pos := i * q, quads := q, regs := regs, parts := parts } : Spot)))

/-- The places where a wave fits beside those there. -/
def spotsFor (there : List Spot) (w : Wave) : List Spot :=
  (spotPlaces (widthOf w.code / 4) w.vcur w.parts.length).filter (spotFits there)

/-- One place of each kind: places of one sequencer that are as full as one another are alike. -/
def unlike (there : List Spot) (l : List Spot) : List Spot :=
  l.foldl (fun g x => if g.any (fun y => y.seqn == x.seqn && spotLoad there y == spotLoad there x) then g else g ++ [x]) []

/-- A wave put at a place. -/
def putAt (p : Spot) (w : Wave) : Wave := { w with seqn := p.seqn, qpos := p.pos }

/-- A crew's waves placed one after another, each at the first place that has room; none where one has none (R12). -/
def placeFirst (there : List Spot) : List Wave → Option (List Wave)
  | [] => some []
  | w :: t =>
    if w.parts = [] then (placeFirst there t).map (fun l => { w with seqn := 0, qpos := 0 } :: l)
    else match spotsFor there w with
      | [] => none
      | p :: _ => (placeFirst (p :: there) t).map (fun l => putAt p w :: l)

/-- A crew's waves placed in any way that gives each of them its place. -/
def placeAny (there : List Spot) : List Wave → Option (List Wave)
  | [] => some []
  | w :: t =>
    if w.parts = [] then (placeAny there t).map (fun l => { w with seqn := 0, qpos := 0 } :: l)
    else (unlike there (spotsFor there w)).findSome? (fun p => (placeAny (p :: there) t).map (fun l => putAt p w :: l))

/-- Where a crew's waves stand (R170): the core admits the crew wherever every wave can be given its place. Waves that take as
much as one another have a place each only if the first places found do (log 23). -/
def placeWaves (there : List Spot) (ws : List Wave) : Option (List Wave) :=
  let live := ws.filter (fun w => w.parts != [])
  let alike := live.all (fun w => live.all (fun x => w.vcur == x.vcur && w.parts.length == x.parts.length))
  match placeFirst there ws with
  | some l => some l
  | none => if alike then none else placeAny there ws

/-- The free stretches of a core's scratchpad that hold `n` bytes, as offset and length (R170). -/
def scrGaps (s : State) (core n : Nat) : List (Nat × Nat) :=
  let there := (crewsOn s core).filter (fun c => c.scr != 0)
  let room := fun (a : Nat) => there.foldl (fun m c =>
    if c.scrAt ≤ a ∧ a < c.scrAt + c.scr then 0 else if a < c.scrAt then min m (c.scrAt - a) else m) (256 * 6144 - a)
  ((0 :: there.map (fun c => c.scrAt + c.scr)).map (fun a => (a, room a))).filter (fun g => decide (n ≤ g.2))

/-- Where a crew's reservation stands: in one of the free stretches that hold it, at a multiple of 256 bytes, which are free
(log 23). -/
def scrPlace (s : State) (core : Nat) (c : Crew) : Nat :=
  let gaps := scrGaps s core c.scr
  match gaps[Config.freeNat 41 s.free % max 1 gaps.length]? with
  | some g => g.1 + 256 * (Config.freeNat 42 s.free % ((g.2 - c.scr) / 256 + 1))
  | none => 0

/-- The waves that a crew takes onto a core, placed there; none where the core cannot admit the crew now (R170). -/
def admits (s : State) (core : Nat) (c : Crew) : Option (List Wave) :=
  let there := crewsOn s core
  let bufs := (there.map (·.nbuf)).sum + c.nbuf
  if (c.scr != 0 && (scrGaps s core c.scr).isEmpty) ∨ 64 < bufs ∨ (c.matrix.owned && there.any (·.matrix.owned)) = true
      ∨ (c.slice.has && decide (4 ≤ (there.filter (·.slice.has)).length)) = true then none
  else placeWaves (spotsOn s core) c.waves

/-! ### Placement (R365, R367) -/

/-- MULT of a vault. -/
def multOf (s : State) (v : Nat) : Nat := bfield (talw s v) 33 32

/-- A vault's refresh charge for bytes moved (R365): floor(bytes F / 64). -/
def refreshOf (s : State) (v bytes : Nat) : Nat :=
  let f : Nat × Nat := match multOf s v with
    | 0 => (1, 24)
    | 1 => (2, 23)
    | _ => (4, 21)
  bytes * f.1 / (64 * f.2)

/-- DBYTES, DRATE and the valid XV entries of a crew: those of its launch record, and none for a continuation (R369). -/
def trafficOf (s : State) (c : Crew) : Nat × Nat × List (Nat × Nat) :=
  match c.kind, getLaunch s c.launch with
  | .launch, some l =>
    let w := fun (i : Nat) => word64 l.bytes i
    ((w 10).toNat, bfield (w 11) 15 0, (List.range 4).filterMap (fun i =>
      if (w (12 + i)).getLsbD 63 then some (bfield (w (12 + i)) 60 56, bfield (w (12 + i)) 47 0) else none))
  | _, _ => (0, 0, [])

/-- The Refresh of a crew on a core (R365): fixed at the first admission. -/
def crewRefresh (s : State) (core : Nat) (c : Crew) : Nat :=
  match c.refresh with
  | some n => n
  | none =>
    let t := trafficOf s c
    refreshOf s (clusterOf core) t.1 + (t.2.2.map (fun x => refreshOf s x.1 x.2)).sum

/-- Whether the vaults let a crew onto a core (R367). -/
def vaultsOk (s : State) (core : Nat) (c : Crew) : Bool :=
  let v := clusterOf core
  let t := trafficOf s c
  let placed := ((allCrews s).filter (fun x => x.cond == .resident && clusterOf x.core == v)).map (fun x => (trafficOf s x).2.1)
  let r := match multOf s v with
    | 0 => 1000
    | 1 => 958
    | _ => 875
  !(decide (0 < t.1) && closedVault s v) && (closedVault s v || decide (11 * (placed.sum + t.2.1) ≤ 10 * r))
    && t.2.2.all (fun x => !closedVault s x.1)

/-- The domain of a core at a level that binds one: the cluster, the die (R358). -/
def domainOf (level core : Nat) : Nat := if level = 4 then core / 12 else core / 96

/-- The groups of a crew that are bound to a domain of the device, by level. -/
def groupsOf (s : State) (c : Crew) : List (Nat × Nat) :=
  match c.kind, getLaunch s c.launch with
  | .launch, some l =>
    let lin := linOf (launchCounts l.bytes) (coordList c)
    (List.range (min 2 (bfield (word64 l.bytes 5) 45 43))).map (fun i => (4 + i, lin / groupSize l.bytes (4 + i)))
  | _, _ => []

/-- Whether a core lies in the domains of a crew's groups. -/
def domainOk (s : State) (core : Nat) (c : Crew) : Bool :=
  let doms := ((getLaunch s c.launch).map (·.doms)).getD []
  (groupsOf s c).all (fun g => match doms.find? (fun d => d.1 == g.1 && d.2.1 == g.2) with
    | some d => d.2.2 == domainOf g.1 core
    | none => true)

/-- The affinity handle of a crew's launch, when the launch names one: its number, and the handle when it is live. Continuation and
invocation crews are crews of the launch whose rays started them (R362). -/
def affinity (s : State) (c : Crew) : Option (Nat × Option Handle) :=
  match getLaunch s c.launch with
  | some l =>
    let w := word64 l.bytes 11
    if w.getLsbD 28 then some (bfield w 27 16, getHandle s l.ctx (bfield w 27 16)) else none
  | none => none

/-- The AFFH vault distance of a core (R367). -/
def affDistance (s : State) (core : Nat) (c : Crew) : Nat :=
  match (affinity s c).bind (·.2) with
  | none => 2
  | some h =>
    if 2 ≤ h.tier then 2 else if h.vault = clusterOf core then 0 else if h.vault / 8 = core / 96 then 1 else 2

/-! ### The save area (R378) -/

/-- The size of the region of a crew's image. -/
def imageRoom (c : Crew) : Nat := maxImage c.code c.nwave c.scr c.nbuf c.matrix.owned c.slice.has

/-- Where a crew's image may stand: its region already given, or one of the places in the context's save area with room
(which of them is free). -/
def imagePlace (s : State) (c : Crew) : Option Nat :=
  match getCtx s c.ctx with
  | none => none
  | some x => match x.space.find? (fun r => r.1 == c.cid) with
    | some r => some r.2.1
    | none =>
      let n := imageRoom c
      let lo := x.save.toNat
      let free := fun (a : Nat) => decide (a + n ≤ lo + x.saveLen.toNat) &&
        x.space.all (fun r => decide (a + n ≤ r.2.1 ∨ r.2.1 + r.2.2 ≤ a))
      let fits := ((256 * ceilDiv lo 256) :: x.space.map (fun r => r.2.1 + r.2.2)).filter free
      fits[Config.freeNat 40 s.free % max 1 fits.length]?

/-- The region of a crew's image taken. -/
def takeImage (c : Crew) (a : Nat) (s : State) : State :=
  updCtx { s with free := s.free + 1 } c.ctx (fun x =>
    if x.space.any (fun r => r.1 == c.cid) then x else { x with space := x.space ++ [(c.cid, a, imageRoom c)] })

/-- The cores that R367 does not exclude, with the crew's waves placed on each. -/
def openCores (s : State) (c : Crew) : List (Nat × List Wave) :=
  if (imagePlace s c).isNone then []
  else (List.range 384).filterMap (fun k =>
    if domainOk s k c && vaultsOk s k c then (admits s k c).map (fun ws => (k, ws)) else none)

/-- The HEAD field of a vault's TALW, signed. -/
def headOfVault (s : State) (v : Nat) : Int := signedOf 16 (bfield (talw s v) 15 0)

/-- Whether core `a` goes before core `b` (R367): least Refresh, most HEAD, least distance; the list is in core order. -/
def coreBefore (s : State) (c : Crew) (a b : Nat) : Bool :=
  let ra := crewRefresh s a c
  let rb := crewRefresh s b c
  let ha := headOfVault s (clusterOf a)
  let hb := headOfVault s (clusterOf b)
  decide (ra < rb) || (ra == rb && (decide (hb < ha) || (ha == hb && decide (affDistance s a c < affDistance s b c))))

/-- The core that a crew is placed on, with its waves there (R367). -/
def chooseCore (s : State) (c : Crew) : Option (Nat × List Wave) :=
  (openCores s c).foldl (fun best x => match best with
    | none => some x
    | some y => if coreBefore s c x.1 y.1 then some x else some y) none

/-! ### Admission (R170, R272, R278) -/

/-- A wave of a new crew (R15, R18, R22, R25, R155, R300): its lanes active, its registers 0; a lane of a continuation
that no ray fills has exited. -/
def newWave (c : Crew) (tvec : W64) (vbase n i : Nat) : Wave :=
  let lanes := widthOf c.code
  let gone := maskOf (fun l => decide (n ≤ l ∧ l < lanes))
  let out := (List.range (lanes / 4)).foldl (fun m q => if n ≤ 4 * q then m + 2 ^ q else m) 0
  let p : Part := { Part.none with
    quads := 2 ^ (lanes / 4) - 1 - out, exm := widthMask (min n lanes), pc := c.entry }
  { Wave.none with
    widx := i, code := c.code, vbase := vbase, vcur := vbase, tvec := tvec, exited := gone, exitedQ := out,
    parts := if p.quads = 0 then [] else [p] }

/-- A crew from its launch record, or from its continuation-table entry, with its waves (R27, R302, R356). -/
def freshCrew (s : State) (c : Crew) : Crew :=
  match c.kind, getLaunch s c.launch with
  | .launch, some l =>
    let x := launchShape l.bytes
    let d : Crew := { c with
      code := x.code, nwave := launchWaves l.bytes, entry := word64 l.bytes 0, stackb := word64 l.bytes 2, scr := x.scr,
      nbuf := x.nbuf, matrix := { Matrix.reset with owned := x.matx }, slice := { Slice.reset with has := x.sli } }
    { d with waves := (List.range d.nwave).map (newWave d (pcField (word64 l.bytes 1)) x.base (widthOf d.code)) }
  | _, _ =>
    let x := shapeOf (word64 c.centry 3)
    { c with waves := (List.range c.nwave).map (newWave c (pcField (word64 c.centry 1)) x.base c.gather.length) }

/-- The crew of a launch with a linear index, before its admission. -/
def launchCrew (s : State) (l : Launch) (lin : Nat) : Crew :=
  let n := launchCounts l.bytes
  let at_ := fun (k : Nat) => lin / ((n.take k).foldl (· * ·) 1) % (n[k]?.getD 1)
  freshCrew s { Crew.none with
    cid := s.ids, cond := .waiting, ctx := l.ctx, launch := l.lid, slot := l.slot,
    coords := (BitVec.ofNat 64 (at_ 0 + at_ 1 * 2 ^ 32), BitVec.ofNat 64 (at_ 2 + at_ 3 * 2 ^ 16 + at_ 4 * 2 ^ 32)) }

/-- Whether a dump holds a part halted until the XRET of the part that wrote it (R129): every other part of the crew. -/
def heldByDump (c : Crew) (w : Wave) (p : Part) : Bool :=
  match c.dump with
  | some d => !(w.widx == d.wave && p.quads.testBit d.part)
  | none => false

/-- The parts of a crew that comes back to a core go on; under a step, the named part alone (R278, R422). After DEBUG resume the
first unit of a part is not checked (R419), but for a part that would have matched in the cycle of the stop as well, which
matches again (R422). -/
def resumeCrew (s : State) : State :=
  let go := fun (w : Wave) (p : Part) =>
    if heldByDump s.crew w p then p
    else match s.crew.step with
      | some (wi, pi) => if w.widx = wi ∧ lowBit p.quads = pi then resumePart (now s) w p else p
      | none => resumePart (now s) w p
  let free := fun (w : Wave) (p : Part) => s.crew.stop.isSome && !s.crew.again.contains (w.widx, lowBit p.quads)
  let t := mapParts (fun w p => { go w p with fresh := p.fresh || free w p }) s
  { t with crew := { t.crew with stop := none, again := if s.crew.step.isSome then t.crew.again else [] } }

/-- A crew admitted onto a core with its waves placed (R170, R278, R365, R416): it takes its region of the save area and
the domains of its groups; copies that were squashed are replayed. -/
def admitCrew (core : Nat) (c : Crew) (again : Bool) (s : State) : State :=
  let cl := clusterOf core
  let place := (imagePlace s c).getD 0
  let refresh := crewRefresh s core c
  let ref := ((getCtx s c.ctx).map (·.crewRef)).getD 0
  let t := updCtx (takeImage c place s) c.ctx (fun x => { x with
    crewRef := (x.crewRef + 1) % 2 ^ 16, names := x.names.filter (· != ref) })
  let doms := (groupsOf s c).map (fun g => (g.1, g.2, domainOf g.1 core))
  let u := updLaunch t c.launch (fun l => { l with doms := l.doms ++ doms.filter (fun d => !l.doms.contains d) })
  let q : Crew := { c with
    cond := .resident, core := core, scrAt := scrPlace s core c, ref := ref, admitted := cycleOf s cl, refresh := some refresh,
    image := place, halt := false, recov := false, fetch := [] }
  let v := unfocus u
  let w := focusCrew { v with crews := insertCrew q (v.crews.filter (fun x => x.cid != c.cid)) } c.cid
  if again then replayCopies (fixCopies (restartEngine (resumeCrew w))) else w

/-- A crew whose image is refused ends (R375): a fault-ring record with cause 0x01 and subcode 0x20. -/
def refuseImage (c : Crew) (s : State) : State :=
  let t := faultRun c.ctx (crewRecs c (engineKill 0x01 0x20#64 0#64 0#64 []) false false) s
  let u := chargeCrew c { t with crews := t.crews.filter (fun x => x.cid != c.cid) }
  finishLaunch c.launch (cleanDoms c.launch (freeSpace c.ctx c.cid
    (updLaunch (endInvocations c.cid u) c.launch (fun l => { l with alive := l.alive - 1, lost := l.lost + 1 }))))

/-- The image of a swapped crew as it stands in the save area; none where it is refused or cannot be read. -/
def savedCrew (s : State) (c : Crew) : Option Crew :=
  match ctxRead s c.ctx (c.image + 8) 8 with
  | none => none
  | some b =>
    if imageRoom c < leNat b then none
    else (ctxRead s c.ctx c.image (leNat b)).bind (fun x => (readImage c x).bind (fun d =>
      let t := unfocus s
      let u := focusCrew { t with crews := insertCrew d (t.crews.filter (fun y => y.cid != c.cid)) } c.cid
      if bitmapsOk x u then some d else none))

/-! ### The visit of a slot (R366, R369) -/

/-- Whether a crew of a launch may be placed now: it waits, or is swapped out and 8 ns have passed (R375). -/
def placeable (s : State) (c : Crew) : Bool :=
  c.cond == .waiting || (c.cond == .swapped && decide (c.swapEnd + 8 ≤ timeOf s))

/-- The rank of a crew that has been on a core or that a gatherer launched (R369, R422): resumed, then swapped or
relaunched, then continuation. -/
def rankOf (c : Crew) : Nat :=
  if c.cond = .swapped ∧ c.stop.isSome = true then 0 else if c.cond = .swapped ∨ 0 < c.runs then 1 else 2

/-- The crew that a slot places next, if one is ready (R361, R366, R369): one that exists, or the next of a launch. -/
def nextCrew (s : State) (ctx queue : Nat) : Option (Crew ⊕ Launch) :=
  let mine := fun (lid : Nat) => s.launches.any (fun l => l.lid == lid && l.ctx == ctx && l.queue == queue)
  match sortBy (fun a b => decide (rankOf a ≤ rankOf b)) ((allCrews s).filter (fun c => mine c.launch && placeable s c)) with
  | c :: _ => some (.inl c)
  | [] => (s.launches.find? (fun l => l.ctx == ctx && l.queue == queue && l.started && decide (l.next < l.total))).map .inr

/-- A crew of a launch has been placed (R368, R379): the fourth in a row beside the affinity vault starts a migration to its own
vault, unless the handle is pinned or has moved within 1 ms. -/
def noteAffinity (core : Nat) (c : Crew) (s : State) : State :=
  match affinity s c with
  | none => s
  | some (n, hdl) =>
    let v := clusterOf core
    let there := (hdl.map (fun h => decide (h.tier < 2) && h.vault == v)).getD false
    let away := ((getLaunch s c.launch).map (·.away)).getD 0 + 1
    let set_ := fun (k : Nat) (t : State) => updLaunch t c.launch (fun l => { l with away := k })
    if there then set_ 0 s
    else if away < 4 then set_ away s
    else match hdl with
      | none => set_ 0 s
      | some h =>
        if h.pinned ∨ (h.lastMv ≠ 0 ∧ timeOf s < h.lastMv + 1000000) then set_ 0 s
        else
          let t := setHandle c.ctx n (some { h with lastMv := timeOf s }) (set_ 0 s)
          startMove c.ctx n (if h.tier < 2 then h.tier else 1) v none t

/-- One crew placed; none where placement fails (R367). A swapped crew whose image is refused ends instead. -/
def placeNext (ctx queue : Nat) (s : State) : Option State :=
  match nextCrew s ctx queue with
  | none => none
  | some (.inl c) =>
    if c.cond = .swapped then
      match savedCrew s c with
      | none => some (refuseImage c s)
      | some d => (chooseCore s d).map (fun x => noteAffinity x.1 c (admitCrew x.1 { d with waves := x.2 } true s))
    else
      let d := freshCrew s c
      (chooseCore s d).map (fun x => noteAffinity x.1 c (admitCrew x.1 { d with waves := x.2 } false s))
  | some (.inr l) =>
    let c := launchCrew s l l.next
    (chooseCore s c).map (fun x =>
      let t := admitCrew x.1 { c with waves := x.2 } false { s with ids := s.ids + 1 }
      noteAffinity x.1 c (updLaunch t l.lid (fun y => { y with next := y.next + 1, alive := y.alive + 1 })))

/-- Crews placed one after another while DEFICIT is above 0 and placement succeeds. -/
def placeAll (slot : Nat) : Nat → State → State
  | 0, s => s
  | n + 1, s =>
    if (getSlot s slot).deficit ≤ 0 then s
    else match placeNext (getSlot s slot).ctx (getSlot s slot).queue s with
      | some t => placeAll slot n t
      | none => s

/-- SLOT_VISIT (R366): a slot of a pre-empted context is skipped, and nothing is placed over the power budget (R408) or
after a thermal trip (R346). -/
def execSlotVisit (slot : Nat) (s : State) : Host.Outcome State Fault Refusal :=
  let x := getSlot s slot
  .next (if !x.mapped || slot == 0 || !ctxRuns s x.ctx || s.pkg.halted then s
    else if (nextCrew s x.ctx x.queue).isSome then
      let t := setSlot s slot { x with deficit := min (x.deficit + x.quantum) (2 * x.quantum) }
      if budget s < s.pkg.power then t
      else placeAll slot (s.crews.length + 1 + (s.launches.map (fun l => l.total - l.next)).sum) t
    else setSlot s slot { x with deficit := min x.deficit 0 })

/-! ### Retirement (R273) -/

/-- Whether the crew in focus has done what comes before it leaves: its copies complete, its matrix commands stand, its
stores are accepted, and its accesses are answered; its slice stops with its last wave. -/
def settledCrew (s : State) : Bool :=
  s.crew.copies.isEmpty && s.crew.matrix.cmds.isEmpty && s.crew.stores.isEmpty
    && !(s.net.any (fun a => a.crew == s.crew.cid && !a.back))

/-- The crew in focus leaves its core for good: it is charged, its region and its group domains are freed, and its launch
may end (R273, R365). -/
def leaveCore (s : State) : State :=
  let c := packCrew s
  let t := chargeCrew (endResidency s c) s
  let u := endWaiter c { t with
    part := Part.none, sibs := [], wave := Wave.none, waves := [], crew := Crew.none, agent := .wave,
    net := t.net.filter (fun a => a.crew != c.cid) }
  finishLaunch c.launch (cleanDoms c.launch (freeSpace c.ctx c.cid
    (updLaunch u c.launch (fun l => { l with alive := l.alive - 1 }))))

/-- CREW_RETIRE (R273): its DIRTY lines go down first; then it leaves its core. -/
def execCrewRetire (crew : Nat) (s : State) : Host.Outcome State Fault Refusal :=
  let t := focusCrew s crew
  .next (if t.crew.cid ≠ crew ∨ t.crew.cond ≠ .resident ∨ noParts t = false then s
    else match (dirtyLines t t.crew.core crew (fun _ => true)).filter (fun l =>
        outRoom t crew (getL1 t t.crew.core l).trk) with
      | [] => if settledCrew t && (dirtyLines t t.crew.core crew (fun _ => true)).isEmpty then leaveCore t else s
      | ls => writeDowns t.crew.core ls t)

end Sys2Proof.Machine
end

