-- ==== Sys2Proof/Machine/Swap.lean ====
section
/-! DEFINITION. The swap-out of a crew (R274, R421), the end of a pre-emption (R372), the kill of a context (R376, R377),
and the dump that DUMPC writes (R129, R424, R425, R427). -/

namespace Sys2Proof.Machine

/-! ### Halts -/

/-- The crew in focus halts for a swap-out (R51, R372): a dump in progress ends with PREEMPT set (R373). -/
def haltCrew (s : State) : State :=
  let t := haltAll s
  { t with crew := { t.crew with halt := true, dump := t.crew.dump.map (fun (d : Dump) =>
    if d.phase < 3 then { d with preempt := true } else d) } }

/-- The crews of a context that are on a core. -/
def residentOf (s : State) (ctx : Nat) : List Nat :=
  ((allCrews s).filter (fun c => c.ctx == ctx && c.cond == .resident)).map (·.cid)

/-- Every crew of a context on a core halts. -/
def haltCtx (ctx : Nat) (s : State) : State :=
  (residentOf s ctx).foldl (fun t cid => haltCrew (focusCrew t cid)) s

/-! ### The swap-out (R274) -/

/-- Whether every part of the crew in focus has halted, its loads have landed and its stores are accepted. -/
def quiet (s : State) : Bool :=
  (allWaves s).all (fun w => w.parts.all (fun p => p.state == .halted && p.loads.isEmpty)) && s.crew.stores.isEmpty

/-- Whether the crew in focus starts no access any more: its copies are squashed or complete and every access that counts in
OUT is answered (R274, R340). -/
def leftAlone (s : State) : Bool :=
  s.crew.copies.all (·.squash) && !(s.net.any (fun a => a.crew == s.crew.cid && !a.back && a.trk.isSome))

/-- An MZERO in progress is finished (R267); an ASTRM under way is given up at its word (R240). -/
def settleEngines (s : State) : State :=
  let t := match s.crew.matrix.cmds with
    | c :: rest =>
      if c.fn = 3 ∧ c.due.isSome = true then
        let u := mzeroAll c s
        { u with crew := { u.crew with matrix := { u.crew.matrix with cmds := rest } } }
      else s
    | [] => s
  { t with crew := { t.crew with slice := { t.crew.slice with push := none } } }

/-- A stop report (R421): TYPE 4, LEN 11. -/
def stopReport (c : Crew) (s : State) : State :=
  match c.stop with
  | none => s
  | some (reason, n, wi, pi, pc, addr) =>
    (sampleWrite c.ctx [(4, [BitVec.ofNat 64 (reason % 2 ^ 8 + n % 2 ^ 8 * 2 ^ 8 + wi % 2 ^ 5 * 2 ^ 16 + pi % 2 ^ 4 * 2 ^ 21),
      pcField pc, addr, BitVec.ofNat 64 c.image] ++ (List.range 6).map (word64 (nameBlock c)))] s).1

/-- A DEBUG stop that waits for the crew completes (R410). -/
def stopDone (c : Crew) (s : State) : State :=
  match c.waiter with
  | some k => endCommand k none 0 0#64 s
  | none => s

/-- What a swapped crew is: stopped by a debugger, held for a grant, or ready to be placed again. -/
def condOut (c : Crew) : Cond := if c.stop.isSome then .stopped else if c.recov then .held else .swapped

/-- The crew in focus, halted and drained, leaves its core: its image is written, its core-cycles are counted and its
taper ramp starts; the focus is left empty (R274, R365, R378). -/
def swapAway (s : State) : State :=
  let c := endResidency s (packCrew s)
  let q := ((getLaunch s c.launch).map (·.queue)).getD 256
  let t := startRamp (clusterOf c.core) c q (viaWrite (some c.ctx) c.image (swapImage s) s)
  let out : Crew := { c with
    cond := condOut c, halt := false, waiter := none, step := none, fetch := [], swapEnd := timeOf s }
  let u : State := { t with
    part := Part.none, sibs := [], wave := Wave.none, waves := [], crew := Crew.none, agent := .wave,
    net := (t.net.filter (fun a => !(a.crew == c.cid && a.back))).map (fun (a : Access) =>
      if a.crew = c.cid then { a with crew := 0 } else a),
    crews := insertCrew out t.crews }
  stopDone c (stopReport out (cleanDoms c.launch u))

/-- SWAP_OUT (R274, R372, R389, R421): the crew's DIRTY lines go down; with its parts halted, its copies squashed or
complete and every access answered, it is swapped out. -/
def execSwapOut (crew : Nat) (s : State) : Host.Outcome State Fault Refusal :=
  let t := focusCrew s crew
  .next (if t.crew.cid ≠ crew ∨ t.crew.cond ≠ .resident ∨ t.crew.halt = false ∨ noParts t = true then s
    else
      let lines := dirtyLines t t.crew.core crew (fun _ => true)
      match lines.filter (fun l => outRoom t crew (getL1 t t.crew.core l).trk) with
      | [] => if lines.isEmpty && quiet t && leftAlone t then swapAway (settleEngines t) else s
      | ls => writeDowns t.crew.core ls t)

/-! ### The end of a pre-emption (R372, R376, R377) -/

/-- A crew out of focus that has no core ends without a record (R376). -/
def endQuietly (s : State) (c : Crew) : State :=
  endWaiter c (chargeCrew c { s with crews := s.crews.filter (fun x => x.cid != c.cid) })

/-- Every crew of a context ends, on a core or not, without a record (R376). -/
def killCrews (ctx : Nat) (s : State) : State :=
  let t := (residentOf s ctx).foldl (fun u cid => killOther cid true (engineKill 0 0#64 0#64 0#64 []) u) s
  (t.crews.filter (fun c => c.ctx == ctx)).foldl endQuietly t

/-- A context freed (R376): its crews, its rays and Lantern entries, its launches, its slots, the space of its handles, and the
changes of its event vector that have not been applied; what its settings held goes with it. -/
def freeCtx (ctx : Nat) (s : State) : State :=
  let t := killCrews ctx (dropRays ctx { s with launches := s.launches.filter (fun l => l.ctx != ctx) })
  let u := (List.range 64).foldl (fun v i =>
    if i ≠ 0 ∧ ((getSlot v i).mapped = true ∨ (getSlot v i).known = true) ∧ (getSlot v i).ctx = ctx then setSlot v i Slot.none else v) t
  let w := (List.range 4096).foldl (fun v n => if (getHandle v ctx n).isSome then destroyHandle ctx n v else v) u
  setCtx { w with pkg := { w.pkg with changes := w.pkg.changes.filter (fun x => x.ctx != ctx) } } ctx none

/-- A pre-emption that the kill of its context ends (R377): the command completes, with STATUS 3 for a PREEMPT, which has not
switched the context out (log 57). -/
def endPreempt (c : Ctx) (s : State) : State :=
  match c.ptag with
  | some k => endCommand k none (if c.freeing then 0 else 3) 0#64 s
  | none => s

/-- PREEMPT_DONE (R372, R376): with no crew of the context left on a core, the context is switched out, or freed, and the
command completes. -/
def execPreemptDone (ctx : Nat) (s : State) : Host.Outcome State Fault Refusal :=
  .next (match getCtx s ctx with
    | none => s
    | some c =>
      if c.preempt ≠ 1 ∨ residentOf s ctx ≠ [] then s
      else
        let t := setCtx s ctx (some { c with preempt := 2, ptag := none })
        let u := if c.freeing then freeCtx ctx t else t
        match c.ptag with
        | some k => endCommand k none 0 0#64 u
        | none => u)

/-! ### DUMPC (R424, R425, R427) -/

/-- The fault sections of a dump (R424). -/
def faultSections (d : Dump) (s : State) : List (List Byte) :=
  let fate := fun (ord : Nat) => if s.crew.copies.any (fun c => c.ord == ord && c.squash) then 2 else 1
  let halt := fun (h : Nat × Nat × Nat × W64 × Nat) =>
    wordsBytes [pcField h.2.2.2.1, BitVec.ofNat 64 (h.2.2.2.2 % 2 ^ 32 * 2 ^ 32 + h.2.2.1 * 2 ^ 16 + h.2.1 * 2 ^ 8 + h.1)]
  let halts := sortBy (fun x y => decide (16 * x.1 + x.2.1 ≤ 16 * y.1 + y.2.1)) d.halts
  let copy := fun (c : Nat × Nat) => wordsBytes [BitVec.ofNat 64 (c.1 % 2 ^ 32), BitVec.ofNat 64 (c.2 * 2 ^ 8 + fate c.1)]
  [section_ 0x80 0 (wordsBytes (trapRegs s.part ++ [BitVec.ofNat 64 d.time])),
    section_ 0x81 0 (leBytes 8 halts.length ++ halts.flatMap halt),
    section_ 0x82 0 (leBytes 8 d.copies.length ++ d.copies.flatMap copy)]

/-- Where each section starts. -/
def sectionStarts : Nat → List (List Byte) → List Nat
  | _, [] => []
  | n, x :: t => n :: sectionStarts (n + x.length) t

/-- How many bytes of a dump stand before the first section that would pass the limit (R129): none where the header passes
it. -/
def fitting (limit : Nat) : Nat → List (List Byte) → Nat
  | n, [] => n
  | n, x :: t => if limit < n + x.length then n else fitting limit (n + x.length) t

/-- A block of a dump's address range: where it goes (R427). -/
def blockPlace (a : W64) (n : Nat) (s : State) : Option Ready :=
  match steer s none a n with
  | .glob va _ => match resolveG s va n false false true with
    | .ok p => some { lane := 0, tgt := .glob va false, place := p, trk := 15 }
    | .error _ => none
  | _ => none

/-- A block written at its home, line by line; none when a line has to wait for OUT (R187). -/
def sendBlock (q : Ready) (bs : List Byte) (s : State) : Option State :=
  let one := fun (k : Nat) (t : State) =>
    sendWrite { q with place := { q.place with pa := q.place.pa + 128 * k } } (sliceOf 0#8 bs (128 * k) (min 128 (bs.length - 128 * k))) t
  (List.range (ceilDiv bs.length 128)).foldl (fun t k => t.bind (one k)) (some s)

/-- The dump as it stands once the crew has halted and its copies have drained or been squashed (R424, R427): its bytes up to
the first section that would pass the limit, the header first, with LEN 0 and NSECT 0xFFFFFFFF (R425). -/
def renderDump (d : Dump) (s : State) : Dump :=
  let secs := faultSections d s ++ crewSections s ++ [section_ 0x00 0 []]
  let whole := imageHeader 1 0xFFFFFFFF 0 (packCrew s) ++ secs.flatten
  let fit := if d.limit.toNat < 64 then 0 else fitting d.limit.toNat 64 secs
  { d with phase := 1, left := whole.take fit, starts := sectionStarts 64 secs, lim := decide (fit < whole.length) }

/-- The crew in focus with its dump replaced. -/
def putDump (s : State) (d : Dump) : State := { s with crew := { s.crew with dump := some d } }

/-- The next block of a dump written (R427): where it faults, nothing of it or of a later block is. None when OUT has no room
for it. -/
def dumpBlock (d : Dump) (s : State) : Option State :=
  let b := d.left.take 256
  match blockPlace (d.addr + BitVec.ofNat 64 d.bytes) b.length s with
  | none => some (putDump s { d with fault := true })
  | some q => (sendBlock q b s).map (fun t => putDump t { d with left := d.left.drop 256, bytes := d.bytes + b.length })

/-- The header's first two words written again, with the sections begun and the bytes written (R425); with no byte of it
within the limit, or none written before a pre-emption, there is nothing to write again. None when OUT has no room for it. -/
def dumpHeader (d : Dump) (s : State) : Option State :=
  let n := (d.starts.filter (fun k => decide (k < d.bytes))).length
  let e : Dump := { d with phase := 2, nsect := n, lim := d.lim && d.left.isEmpty && !d.fault }
  let ws := bytes64 (BitVec.ofNat 64 (0x5357 * 2 ^ 48 + 2 ^ 40 + 2 ^ 32 + n)) ++ bytes64 (BitVec.ofNat 64 d.bytes)
  if d.bytes = 0 ∧ d.fault = false then some (putDump s e)
  else match blockPlace d.addr 16 s with
    | none => some (putDump s { e with fault := true })
    | some q => (sendBlock q ws s).map (fun t => putDump t e)

/-- DUMPC ends (R129): its result word is written, and its part goes on behind it, or halts when the crew is to be swapped
out. -/
def dumpEnd (d : Dump) (s : State) : State :=
  let x := BitVec.ofNat 64 (d.lim.toNat * 2 ^ 63 + d.fault.toNat * 2 ^ 62 + d.preempt.toNat * 2 ^ 61 + d.bytes % 2 ^ 48)
  let t := wrS 0 d.dreg x s
  let p : Part := { t.part with pc := d.next, wait := .none }
  stepStop s { t with part := if t.crew.halt then haltPart p else p, crew := { t.crew with dump := some { d with phase := 3 } } }

/-- Whether every other part has halted with its loads landed, and the copies have drained or been squashed (R129 steps 1
and 2). -/
def dumpReady (d : Dump) (s : State) : Bool :=
  s.crew.copies.all (·.squash) && (allWaves s).all (fun w => w.parts.all (fun p =>
    (w.widx == d.wave && p.quads.testBit d.part) || (p.state == .halted && p.loads.isEmpty)))

/-- Whether every write of the dumping part has been answered. -/
def dumpAnswered (s : State) : Bool :=
  !(s.net.any (fun a => a.crew == s.crew.cid && a.use == .store && a.wave == s.wave.widx && s.part.quads.testBit a.part && !a.back))

/-- Whether a peer still holds a block of the dump that it may refuse (R432). -/
def blockOut (s : State) : Bool :=
  s.net.any (fun a => a.crew == s.crew.cid && a.use == .store && a.wave == s.wave.widx && s.part.quads.testBit a.part && !a.back
    && remoteLine a.line)

/-- The next step of a dump (R129, R424 to R427), if it can be made now: its bytes once the crew has halted, block after block
until one faults or a pre-emption asks for the end (R373), the header again when every block has been answered, and the end
when that has been too. -/
def dumpStep (d : Dump) (s : State) : Option State :=
  match d.phase with
  | 0 => if d.preempt then some (putDump s { d with phase := 2 })
    else if dumpReady d s then some (putDump s (renderDump d s)) else none
  | 1 => if d.fault || d.preempt || d.left.isEmpty then (if dumpAnswered s then dumpHeader d s else none)
    else if blockOut s then none else dumpBlock d s
  | 2 => if dumpAnswered s then some (dumpEnd d s) else none
  | _ => none

/-- DUMPC_DONE: the dump goes on by one step, as soon as it can. -/
def execDumpcDone (crew : Nat) (s : State) : Host.Outcome State Fault Refusal :=
  let t := focusCrew s crew
  .next (match t.crew.dump with
    | none => s
    | some d =>
      let u := focusWave t d.wave (some d.part)
      if u.crew.cid ≠ crew ∨ u.crew.cond ≠ .resident ∨ u.part.wait ≠ .dump ∨ u.part.quads.testBit d.part = false then s
      else (dumpStep d u).getD s)

end Sys2Proof.Machine
end

