-- ==== Sys2Proof/Machine/Contexts.lean ====
section
/-! DEFINITION. The commands on queues, events, contexts, grants and pre-emption (R359 to R362, R372 to R377, R389, R401 to
R404). -/

namespace Sys2Proof.Machine

/-! ### LAUNCH (R361, R364, R402) -/

/-- A launch taken from its queue. While its record stands at HEAD, `ring` says so; it completes by itself (R402). -/
def takeLaunch (c : Cmd) (caught : Bool) (bytes : List Byte) (s : State) : State :=
  let x := getSlot s c.slot
  let l : Launch :=
    { lid := s.ids, ctx := x.ctx, queue := x.queue, slot := c.slot, addr := Cmd.word c 2, word0 := Cmd.word c 0,
      cpla := Cmd.word c 1, bytes := bytes, caught := caught, started := false, passed := false, next := 0, total := 0,
      alive := 0, lost := 0, grants := [], pages := [], stkPages := [], away := 0, ring := x.held == some c.words, doms := [] }
  freeSlot c.slot { s with launches := s.launches ++ [l], ids := s.ids + 1 }

/-- LAUNCH FORM 0: the record is read when the launch reaches the head. -/
def execLaunch (c : Cmd) (s : State) : Host.Outcome State Fault Refusal :=
  command c 0x01 0 .user [-1#64] (takeLaunch c false []) s

/-- LAUNCH FORM 1: the bytes that LNCH captured with the record at HEAD; a record that another producer wrote completes
with STATUS 1 (R364). -/
def execLaunchCaptured (c : Cmd) (s : State) : Host.Outcome State Fault Refusal :=
  command c 0x01 1 .user [-1#64]
    (fun t =>
      let x := getSlot t c.slot
      let head := (qheadAt t (some x.ctx) x.hdr.toNat).map (·.head)
      let mine := fun (e : W64 × Nat × List Byte) => e.1 == x.hdr && head == some e.2.1
      match (getCtx t x.ctx).bind (fun y => y.caught.find? mine) with
      | some e => takeLaunch c true e.2.2 (updCtx t x.ctx (fun y => { y with caught := y.caught.filter (fun z => !mine z) }))
      | none => reply c 1 0#64 t) s

/-! ### EVSIGNAL (R362) -/

/-- EVSIGNAL on word k of a context's event vector: the last of the changes of its cycle (R362). -/
def signal (form : Nat) (on : Bool) (c : Cmd) (s : State) : Host.Outcome State Fault Refusal :=
  command c 0x02 form .both [-1#64, -1#64, 0x3F#64]
    (fun t => if 4 ≤ (Cmd.word c 2).toNat then reply c 1 0#64 t
      else
        let ctx := actsOn t c (bfield (Cmd.word c 4) 5 0)
        onCtx c ctx (fun _ u => reply c 0 0#64
          (addChange (bitChange 2 0 ctx (Cmd.word c 2).toNat on (Cmd.word c 3)) u)) t) s

/-- EVSIGNAL FORM 0: set. -/
def execEvsignalSet (c : Cmd) (s : State) : Host.Outcome State Fault Refusal := signal 0 true c s

/-- EVSIGNAL FORM 1: clear. -/
def execEvsignalClear (c : Cmd) (s : State) : Host.Outcome State Fault Refusal := signal 1 false c s

/-! ### MAPQ, UNMAPQ (R359, R360) -/

/-- The default QUANTUM in core-cycles (R366, R371). -/
def defaultQuantum (s : State) : Nat := 1024 * max 1 (bfield s.pkg.schctl 31 16)

/-- A queue mapped onto a slot: PEND is cleared, DEFICIT is 0, its launches and the command that it waits for carry over, and it is
served (R360). -/
def mapQueue (slot ctx q : Nat) (hdr : W64) (quantum : Nat) (s : State) : State :=
  let x : Slot := { hdr := hdr, queue := q, ctx := ctx, mapped := true, known := true, broken := false,
                    serving := true, quantum := quantum, deficit := 0,
                    held := ((getCtx s ctx).map (fun c => cget none c.held q)).getD none }
  let t := updCtx s ctx (fun c => { c with
    queues := (q, hdr) :: c.queues.filter (fun p => p.1 != q), held := cset none c.held q none })
  let mine := fun (l : Launch) => l.ctx == ctx && l.queue == q
  setPend (some ctx) hdr.toNat false
    (setSlot { t with launches := updIf mine (fun (l : Launch) => { l with slot := slot }) t.launches } slot x)

/-- MAPQ: a mapped slot, slot 0, a queue mapped already, or a header that breaks R359 completes with STATUS 3. -/
def execMapq (c : Cmd) (s : State) : Host.Outcome State Fault Refusal :=
  command c 0x03 0 .admin [0x00000000003FFF3F#64, -1#64, -1#64]
    (fun t =>
      let slot := bfield (Cmd.word c 2) 5 0
      let q := bfield (Cmd.word c 2) 15 8
      let ctx := bfield (Cmd.word c 2) 21 16
      let hdr := Cmd.word c 3
      onCtx c ctx (fun _ u =>
        if slot = 0 ∨ (getSlot u slot).mapped = true ∨ (slotOf u ctx q).isSome = true then reply c 3 0#64 u
        else if viaOk u (some ctx) hdr.toNat 64 true true = false then reply c 6 0#64 u
        else if (qheadAt u (some ctx) hdr.toNat).isNone then reply c 3 0#64 u
        else reply c 0 0#64 (mapQueue slot ctx q hdr
          (if Cmd.word c 4 = 0#64 then defaultQuantum u else (Cmd.word c 4).toNat) u)) t) s

/-- A queue taken off its slot (R360): the slot keeps the header for notifies, and the queue keeps its launches and the command
that it waits for. -/
def unmapQueue (slot : Nat) (s : State) : State :=
  let x := getSlot s slot
  updCtx (setSlot s slot { x with mapped := false, serving := false, held := none }) x.ctx
    (fun c => { c with held := cset none c.held x.queue x.held })

/-- UNMAPQ. -/
def execUnmapq (c : Cmd) (s : State) : Host.Outcome State Fault Refusal :=
  command c 0x04 0 .admin [0x3F#64]
    (fun t =>
      let slot := (Cmd.word c 2).toNat
      if slot = 0 ∨ (getSlot t slot).mapped = false then reply c 3 0#64 t
      else reply c 0 0#64 (unmapQueue slot t)) s

/-! ### CTXNEW, CTXFREE (R376, R404) -/

/-- A new context: no event set, no handle, no queue. -/
def newCtx (c : Cmd) : Ctx :=
  { ptroot := Cmd.word c 2, ring := Cmd.word c 3, save := Cmd.word c 4, saveLen := Cmd.word c 5,
    rights := (Cmd.word c 6).toNat, allot := [], ways := 0, events := [], handles := [], queues := [], caught := [], held := [], seq := 0,
    preempt := 0, ptag := none, freeing := false, account := [], crewRef := 0, contCnt := 0, space := [], names := [], attached := false,
    buffer := 0#64, bseq := 0, bps := [], watches := [], emberOn := false, emberK := 0, grist := 0#64 }

/-- CTXNEW FORM 0: the lowest free context; PTROOT must be a multiple of 64 KiB in memory, and the fault ring header and the save
area, when it has a size, must have a translation in the new context (R381, R400; log 61). -/
def execCtxnew (c : Cmd) (s : State) : Host.Outcome State Fault Refusal :=
  command c 0x05 0 .admin [-1#64, -1#64, -1#64, -1#64, 0x7#64]
    (fun t => match (List.range 64).find? (fun i => (getCtx t i).isNone) with
      | none => reply c 3 0#64 t
      | some i =>
        if (Cmd.word c 2).toNat % 65536 ≠ 0 then reply c 1 0#64 t
        else if isMem t (Cmd.word c 2).toNat = false ∨ 2 ^ 52 ≤ (Cmd.word c 2).toNat then reply c 6 0#64 t
        else
          let u := setCtx t i (some (newCtx c))
          if ctxOk u i (Cmd.word c 3).toNat 64 false false = false
              ∨ (Cmd.word c 5 ≠ 0#64 ∧ ctxOk u i (Cmd.word c 4).toNat 1 false false = false) then reply c 6 0#64 t
          else reply c 0 (BitVec.ofNat 64 i) u) s

/-- CTXNEW FORM 1: the allotment mask of a vault (R289). -/
def execCtxnewAllotment (c : Cmd) (s : State) : Host.Outcome State Fault Refusal :=
  command c 0x05 1 .admin [0x0000000000003F1F#64, -1#64, 0x00000000FFFFFFFF#64]
    (fun t =>
      let ctx := bfield (Cmd.word c 2) 13 8
      let mask := (Cmd.word c 3).toNat + 2 ^ 64 * bfield (Cmd.word c 4) 31 0
      onCtx c ctx (fun _ u => reply c 0 (BitVec.ofNat 64 ctx)
        (updCtx u ctx (fun x => { x with allot := cset 0 x.allot (bfield (Cmd.word c 2) 4 0) mask }))) t) s

/-- CTXNEW FORM 2: the Lantern ways (R312). -/
def execCtxnewLanternWays (c : Cmd) (s : State) : Host.Outcome State Fault Refusal :=
  command c 0x05 2 .admin [0x0000000000003F00#64, 0xF#64]
    (fun t =>
      let ctx := bfield (Cmd.word c 2) 13 8
      onCtx c ctx (fun _ u => reply c 0 (BitVec.ofNat 64 ctx)
        (updCtx u ctx (fun x => { x with ways := bfield (Cmd.word c 3) 3 0 }))) t) s

/-- A pre-emption starts (R372): nothing of the context is placed, its open gatherer waves are dropped, its rays are
written back, and its crews halt; the command completes at PREEMPT_DONE, and the admin queue waits for it. -/
def startPreempt (c : Cmd) (ctx : Nat) (freeing : Bool) (s : State) : State :=
  holdSlot c.slot [] (haltCtx ctx (parkRays ctx
    (updCtx s ctx (fun x => { x with preempt := 1, ptag := some (cmdTag s c), freeing := freeing }))))

/-- CTXFREE (R376, R377): a running context is pre-empted first; one that is being pre-empted ends at once, and so does its
pre-emption; one that is switched out ends at once. -/
def execCtxfree (c : Cmd) (s : State) : Host.Outcome State Fault Refusal :=
  command c 0x06 0 .admin [0x3F#64]
    (fun t =>
      let ctx := (Cmd.word c 2).toNat
      onCtx c ctx (fun x u =>
        if x.preempt = 0 then startPreempt c ctx true u else reply c 0 0#64 (freeCtx ctx (endPreempt x u))) t) s

/-! ### PREEMPT (R372, R374) -/

/-- PREEMPT FORM 0: refused while the context does not run. -/
def execPreempt (c : Cmd) (s : State) : Host.Outcome State Fault Refusal :=
  command c 0x09 0 .admin [0x3F#64]
    (fun t =>
      let ctx := (Cmd.word c 2).toNat
      onCtx c ctx (fun x u => if x.preempt ≠ 0 then reply c 3 0#64 u else startPreempt c ctx false u) t) s

/-- The rays of a context go on, on any clusters (R315). -/
def resumeRays (ctx : Nat) (s : State) : State :=
  let go := fun (r : Ray) => if r.ctx = ctx then { r with cluster := Config.freeNat 7 (s.free + r.id) % 32 } else r
  { s with rays := s.rays.map go, free := s.free + s.ids }

/-- PREEMPT FORM 1: a switched-out context runs again (R374). -/
def execPreemptResume (c : Cmd) (s : State) : Host.Outcome State Fault Refusal :=
  command c 0x09 1 .admin [0x3F#64]
    (fun t =>
      let ctx := (Cmd.word c 2).toNat
      onCtx c ctx (fun x u => if x.preempt ≠ 2 then reply c 3 0#64 u
        else reply c 0 0#64 (resumeRays ctx (updCtx u ctx (fun y => { y with preempt := 0 })))) t) s

/-! ### GRANT (R389) -/

/-- The crews of a launch that wait for a grant; a debugger may have stopped one besides. -/
def heldCrews (s : State) (lid : Nat) : List Nat :=
  ((allCrews s).filter (fun c => c.launch == lid && c.recov)).map (·.cid)

/-- A new grant list in force: the crews held for it may be placed again. -/
def extendGrants (lid : Nat) (gs : List Grant) (ps : List Page) (s : State) : State :=
  let t := updLaunch s lid (fun (l : Launch) => { l with grants := gs, pages := ps })
  (heldCrews t lid).foldl (fun u cid => updCrew u cid (fun c =>
    { c with cond := if c.cond = .held then .swapped else c.cond, recov := false })) t

/-- Crews held for a grant that fails are killed with cause 0x0A. -/
def killHeld (lid : Nat) (s : State) : State :=
  (heldCrews s lid).foldl (fun t cid => killOther cid false (engineKill 0x0A 0#64 0#64 0#64 []) t) s

/-- GRANT (R389): the new list replaces that of the launch at the record address; it waits for space as a launch does
(R393), and for copies that own lines of the page tables (R292, R383). A record address without a translation has STATUS 6 (R400;
log 61). -/
def execGrant (c : Cmd) (s : State) : Host.Outcome State Fault Refusal :=
  command c 0x08 0 .both [-1#64, -1#64, -1#64, 0x3F#64]
    (fun t =>
      let ctx := actsOn t c (bfield (Cmd.word c 5) 5 0)
      let n := (Cmd.word c 4).toNat
      let at_ := (Cmd.word c 3).toNat
      onCtx c ctx (fun _ v =>
        let u := freeSlot c.slot v
        if 16 < n ∨ at_ % 32 ≠ 0 then reply c 1 0#64 u
        else match u.launches.find? (fun l => l.ctx == ctx && l.addr == Cmd.word c 2 && l.started) with
          | none => reply c 3 0#64 u
          | some l => match (if nameOk u ctx (Cmd.word c 2).toNat = false then none
              else if n = 0 then some [] else ctxRead u ctx at_ (32 * n)) with
            | none => reply c 6 0#64 u
            | some b => match readGrants b n with
              | none => reply c 1 0#64 u
              | some gs =>
                let lines := grantLines u ctx gs
                if unowned u lines = false then holdSlot c.slot c.words v
                else match allGrants u ctx gs with
                  | none => reply c 3 0#64 (killHeld l.lid (bring ctx lines u))
                  | some (hs, ps) => match promote ctx hs u with
                    | none => holdSlot c.slot c.words v
                    | some w => reply c 0 0#64 (extendGrants l.lid hs ps (bring ctx lines w))) t) s

end Sys2Proof.Machine
end

