-- ==== Sys2Proof/Machine/Debug.lean ====
section
/-! DEFINITION. The DEBUG command (R410, R419 to R423). -/

namespace Sys2Proof.Machine

/-- The context that a DEBUG form names. -/
def debugCtx (c : Cmd) : Nat := (Cmd.word c 2).toNat

/-- A DEBUG form on the context it names. -/
def debugCmd (c : Cmd) (form : Nat) (used : List W64) (f : Ctx → State → State) (s : State) :
    Host.Outcome State Fault Refusal :=
  command c 0x0A form .admin (0x3F#64 :: used) (onCtx c (debugCtx c) f) s

/-- A setting of the named context changed; the command is done. -/
def debugSet (c : Cmd) (f : Ctx → Ctx) (s : State) : State := reply c 0 0#64 (updCtx s (debugCtx c) f)

/-! ### Attach and detach -/

/-- DEBUG FORM 0: attach. -/
def execDebugAttach (c : Cmd) (s : State) : Host.Outcome State Fault Refusal :=
  debugCmd c 0 [-1#64] (fun x t =>
    let h := Cmd.word c 3
    if h.toNat % 64 ≠ 0 then reply c 1 0#64 t
    else if x.rights.testBit 2 = false ∨ x.attached = true then reply c 3 0#64 t
    else if viaOk t (some (debugCtx c)) h.toNat 64 true true = false then reply c 6 0#64 t
    else debugSet c (fun y => { y with attached := true, buffer := h }) t) s

/-- A stopped crew may be placed again; the one that a step names issues one unit (R422). -/
def resumeStopped (step : Option (Nat × Nat)) (c : Crew) : Crew :=
  if c.cond = .stopped then { c with cond := if c.recov then .held else .swapped, step := step }
  else if c.cond = .resident then { c with stop := none }
  else c

/-- DEBUG FORM 1: detach; every stopped crew of the context resumes, and one that was about to stop is not stopped. -/
def execDebugDetach (c : Cmd) (s : State) : Host.Outcome State Fault Refusal :=
  debugCmd c 1 [] (fun _ t =>
    let mine := (allCrews t).filter (fun x => x.ctx == debugCtx c && x.stop.isSome)
    let u := mine.foldl (fun v x => updCrew v x.cid (resumeStopped none)) t
    debugSet c (fun y => { y with attached := false, buffer := 0#64 }) u) s

/-! ### Breakpoints and watchpoints (R419) -/

/-- DEBUG FORM 2: PC breakpoint k; an address that is enabled must be translated (R400). -/
def execDebugPcBreakpoint (c : Cmd) (s : State) : Host.Outcome State Fault Refusal :=
  debugCmd c 2 [0x107#64, -1#64] (fun _ t =>
    let on := (Cmd.word c 3).getLsbD 8
    let a := Cmd.word c 4
    if a.toNat % 4 ≠ 0 then reply c 1 0#64 t
    else if on ∧ (walk t (debugCtx c) a.toNat).isNone = true then reply c 6 0#64 t
    else debugSet c (fun y => { y with
      bps := cset none y.bps (bfield (Cmd.word c 3) 2 0) (if on then some a else none) }) t) s

/-- DEBUG FORM 3: watchpoint k over [BASE, LIMIT); the first and the last address of one that is enabled must be translated, or
lie in the vault window (R400, R419; log 61). -/
def execDebugWatchpoint (c : Cmd) (s : State) : Host.Outcome State Fault Refusal :=
  debugCmd c 3 [0x703#64, -1#64, -1#64] (fun _ t =>
    let w := Cmd.word c 3
    let x : Watch := { on := w.getLsbD 8, kind := bfield w 10 9, base := (Cmd.word c 4).toNat, limit := (Cmd.word c 5).toNat }
    if x.kind = 0 then reply c 1 0#64 t
    else if x.on && !(nameOk t (debugCtx c) x.base && (decide (x.limit ≤ x.base) || nameOk t (debugCtx c) (x.limit - 1))) then
      reply c 6 0#64 t
    else debugSet c (fun y => { y with watches := cset Watch.none y.watches (bfield w 1 0) x }) t) s

/-! ### Stop and resume (R421, R422) -/

/-- The crews that words 0x18 and 0x20 name in a context (R27). -/
def namedCrews (c : Cmd) (s : State) : List Crew :=
  (allCrews s).filter (fun x => x.ctx == debugCtx c && x.coords == (Cmd.word c 3, Cmd.word c 4))

/-- A FORM 4 stop of a crew on a core: every part halts, and the command waits for the swap-out. -/
def stopResident (c : Cmd) (x : Crew) (s : State) : State :=
  let t := haltCrew (focusCrew s x.cid)
  let q := t.crew
  let u : State := { t with crew := { q with stop := q.stop.orElse (fun _ => some (6, 0, 0, 0, 0#64, 0#64)),
                                             waiter := q.waiter.orElse (fun _ => some (cmdTag s c)) } }
  holdSlot c.slot [] u

/-- A FORM 4 stop of a crew that is swapped out already: it stays out. -/
def stopSwapped (x : Crew) (s : State) : State :=
  let y : Crew := { x with cond := .stopped, stop := some (6, 0, 0, 0, 0#64, 0#64) }
  stopReport y (updCrew s x.cid (fun _ => y))

/-- DEBUG FORM 4: stop a crew that exists, with REASON 6. -/
def execDebugStopCrew (c : Cmd) (s : State) : Host.Outcome State Fault Refusal :=
  debugCmd c 4 [-1#64, 0x0000FFFFFFFFFFFF#64] (fun _ t =>
    match (namedCrews c t).find? (fun x => x.cond != .waiting) with
    | none => reply c 3 0#64 t
    | some x => match x.cond with
      | .resident => stopResident c x t
      | .stopped => reply c 0 0#64 t
      | _ => reply c 0 0#64 (stopSwapped x t)) s

/-- DEBUG FORM 5: resume a stopped crew, under a step when STEP is set. -/
def execDebugResumeCrew (c : Cmd) (s : State) : Host.Outcome State Fault Refusal :=
  debugCmd c 5 [-1#64, 0x0000FFFFFFFFFFFF#64, 0x1FF1#64] (fun _ t =>
    let w := Cmd.word c 5
    match (namedCrews c t).find? (fun x => x.cond == .stopped) with
    | none => reply c 3 0#64 t
    | some x => reply c 0 0#64 (updCrew t x.cid
        (resumeStopped (if w.getLsbD 0 then some (bfield w 8 4, bfield w 12 9) else none)))) s

/-! ### Ember, Grist, ICINV -/

/-- Every sequencer's LFSR loaded with a seed, and its first interval drawn (R414). -/
def seedEmber (k : Nat) (seed : W32) (s : State) : State :=
  let load := fun (t : State) (i : Nat) => setEmber (i / 2) (i % 2) (drawEmber k { getEmber t (i / 2) (i % 2) with lfsr := seed }) t
  (List.range 768).foldl load s

/-- DEBUG FORM 6: Ember on or off, with N = 2^k and a seed that is not 0. -/
def execDebugEmber (c : Cmd) (s : State) : Host.Outcome State Fault Refusal :=
  debugCmd c 6 [0x11F#64, 0x00000000FFFFFFFF#64] (fun _ t =>
    let k := bfield (Cmd.word c 3) 4 0
    let on := (Cmd.word c 3).getLsbD 8
    if k < 8 ∨ 24 < k ∨ Cmd.word c 4 = 0#64 then reply c 1 0#64 t
    else debugSet c (fun y => { y with emberOn := on, emberK := k })
      (if on then seedEmber k ((Cmd.word c 4).setWidth 32) t else t)) s

/-- DEBUG FORM 7: the Grist base, a multiple of 64 KiB over three sketches, or 0. -/
def execDebugGrist (c : Cmd) (s : State) : Host.Outcome State Fault Refusal :=
  debugCmd c 7 [-1#64] (fun _ t =>
    let b := Cmd.word c 3
    if b.toNat % 65536 ≠ 0 then reply c 1 0#64 t
    else if b ≠ 0#64 ∧ rangeOk t (some (debugCtx c)) b.toNat 196608 true true = false then reply c 6 0#64 t
    else debugSet c (fun y => { y with grist := b }) t) s

/-- DEBUG FORM 8 (R423): ICINV at package scope over a range of physical addresses, complete at ICINV_COMPLETE. -/
def execDebugIcinv (c : Cmd) (s : State) : Host.Outcome State Fault Refusal :=
  command c 0x0A 8 .admin [-1#64, -1#64]
    (fun t =>
      let a := (Cmd.word c 2).toNat
      let n := (Cmd.word c 3).toNat
      if n ≠ 0 ∧ rangeOk t none a n false false = false then reply c 6 0#64 t
      else
        let hit := fun (pa : Nat) (_ : CodeWord) => decide (pa < a + n ∧ a < pa + 4)
        let u := dropWords hit (fun _ => true) t
        holdSlot c.slot [] { u with icinvs := u.icinvs ++ [cmdTag t c] }) s

end Sys2Proof.Machine
end

