-- ==== Sys2Proof/Machine/SlhDsa.lean ====
section
/-! DEFINITION. SLH-DSA (FIPS 205) with the two parameter sets that the manual names: SHA2-192s for patch images (R399) and SHA2-128f
for quotes (R407). Messages are signed in the pure form with an empty context string (log 60). -/

namespace Sys2Proof.Machine

/-! ### Parameters and hashes -/

/-- A parameter set with SHA-2: the bytes of a hash, the layers of the hypertree, the height of each, the height of a FORS tree,
their number, the bytes of a message digest, and whether H, T and the message functions use SHA-512. -/
structure Slh where
  n    : Nat
  d    : Nat
  hp   : Nat
  a    : Nat
  k    : Nat
  m    : Nat
  wide : Bool
  deriving DecidableEq, Repr

/-- SLH-DSA-SHA2-128f. -/
def slh128f : Slh := { n := 16, d := 22, hp := 3, a := 6, k := 33, m := 34, wide := false }

/-- SLH-DSA-SHA2-192s. -/
def slh192s : Slh := { n := 24, d := 7, hp := 9, a := 14, k := 17, m := 39, wide := true }

/-- The hash chains of a WOTS+ key, with digits of four bits: two for each byte, and three for the checksum. -/
def Slh.chains (p : Slh) : Nat := 2 * p.n + 3

/-- The bytes of a WOTS+ signature with its authentication path. -/
def Slh.xmssBytes (p : Slh) : Nat := (p.chains + p.hp) * p.n

/-- The bytes of a FORS signature. -/
def Slh.forsBytes (p : Slh) : Nat := p.k * (p.a + 1) * p.n

/-- The bytes of a signature. -/
def Slh.sigBytes (p : Slh) : Nat := p.n + p.forsBytes + p.d * p.xmssBytes

/-- An address: the layer, the tree in it, the kind of use, and three words that depend on the kind. -/
structure Adrs where
  layer : Nat
  tree  : Nat
  kind  : Nat
  w1    : Nat
  w2    : Nat
  w3    : Nat
  deriving DecidableEq, Repr

/-- An address in its 22 bytes. -/
def Adrs.bytes (x : Adrs) : List Byte :=
  beBytes 1 x.layer ++ beBytes 8 x.tree ++ beBytes 1 x.kind ++ beBytes 4 x.w1 ++ beBytes 4 x.w2 ++ beBytes 4 x.w3

/-- F and PRF: SHA-256 in every set. -/
def slhF (p : Slh) (pkSeed : List Byte) (x : Adrs) (m : List Byte) : List Byte :=
  (sha256 (pkSeed ++ List.replicate (64 - p.n) 0#8 ++ x.bytes ++ m)).take p.n

/-- H and T. -/
def slhT (p : Slh) (pkSeed : List Byte) (x : Adrs) (m : List Byte) : List Byte :=
  if p.wide then (sha512 (pkSeed ++ List.replicate (128 - p.n) 0#8 ++ x.bytes ++ m)).take p.n else slhF p pkSeed x m

/-- The digest of a message under its randomizer. -/
def slhDigest (p : Slh) (r pkSeed pkRoot m : List Byte) : List Byte :=
  if p.wide then mgf1 sha512 64 (r ++ pkSeed ++ sha512 (r ++ pkSeed ++ pkRoot ++ m)) p.m
  else mgf1 sha256 32 (r ++ pkSeed ++ sha256 (r ++ pkSeed ++ pkRoot ++ m)) p.m

/-- The randomizer of a message. -/
def slhRandomizer (p : Slh) (skPrf opt m : List Byte) : List Byte :=
  (if p.wide then hmac sha512 128 skPrf (opt ++ m) else hmac sha256 64 skPrf (opt ++ m)).take p.n

/-- `n` digits of `b` bits of a byte string, most significant first. -/
def digits (b n : Nat) (x : List Byte) : List Nat :=
  let v := beNat x
  (List.range n).map (fun i => v / 2 ^ (8 * x.length - b * (i + 1)) % 2 ^ b)

/-- Part `i` of a string of parts of `n` bytes. -/
def partOf (n : Nat) (x : List Byte) (i : Nat) : List Byte := (x.drop (n * i)).take n

/-- The node over two nodes, the one named by `bit` first among the two when it is 0. -/
def joined (bit : Nat) (a b : List Byte) : List Byte := if bit % 2 = 0 then a ++ b else b ++ a

/-! ### WOTS+ -/

/-- A chain walked on from place `i` by `n` places. -/
def wotsChain (p : Slh) (pkSeed : List Byte) (x : Adrs) : Nat → Nat → List Byte → List Byte
  | 0, _, v => v
  | n + 1, i, v => wotsChain p pkSeed x n (i + 1) (slhF p pkSeed { x with w3 := i } v)

/-- The secret start of chain `i` of the key pair of an address. -/
def wotsSecret (p : Slh) (skSeed pkSeed : List Byte) (x : Adrs) (i : Nat) : List Byte :=
  slhF p pkSeed { x with kind := 5, w2 := i, w3 := 0 } skSeed

/-- The digits that a WOTS+ signature signs: those of the message, and of its checksum. -/
def wotsDigits (p : Slh) (m : List Byte) : List Nat :=
  let l := digits 4 (2 * p.n) m
  l ++ digits 4 3 (beBytes 2 (16 * (l.map (15 - ·)).sum))

/-- The public key of the key pair of an address, from the ends of its chains. -/
def wotsPublic (p : Slh) (pkSeed : List Byte) (x : Adrs) (ends : List (List Byte)) : List Byte :=
  slhT p pkSeed { x with kind := 1, w2 := 0, w3 := 0 } ends.flatten

/-- The public key of a key pair, from the secret seed. -/
def wotsKey (p : Slh) (skSeed pkSeed : List Byte) (x : Adrs) : List Byte :=
  wotsPublic p pkSeed x ((List.range p.chains).map (fun i =>
    wotsChain p pkSeed { x with w2 := i } 15 0 (wotsSecret p skSeed pkSeed x i)))

/-- A WOTS+ signature. -/
def wotsSign (p : Slh) (skSeed pkSeed : List Byte) (x : Adrs) (m : List Byte) : List Byte :=
  ((wotsDigits p m).zipIdx).flatMap (fun (g, i) => wotsChain p pkSeed { x with w2 := i } g 0 (wotsSecret p skSeed pkSeed x i))

/-- The public key that a WOTS+ signature of a message leads to. -/
def wotsFrom (p : Slh) (pkSeed : List Byte) (x : Adrs) (sig m : List Byte) : List Byte :=
  wotsPublic p pkSeed x (((wotsDigits p m).zipIdx).map (fun (g, i) =>
    wotsChain p pkSeed { x with w2 := i } (15 - g) g (partOf p.n sig i)))

/-! ### XMSS and the hypertree -/

/-- The node at height `z` and index `i` of the tree of an address. -/
def xmssNode (p : Slh) (skSeed pkSeed : List Byte) (x : Adrs) : Nat → Nat → List Byte
  | 0, i => wotsKey p skSeed pkSeed { x with kind := 0, w1 := i, w2 := 0, w3 := 0 }
  | z + 1, i => slhT p pkSeed { x with kind := 2, w1 := 0, w2 := z + 1, w3 := i }
      (xmssNode p skSeed pkSeed x z (2 * i) ++ xmssNode p skSeed pkSeed x z (2 * i + 1))

/-- The root that leaf `idx` leads to over an authentication path, from height `z` on. -/
def xmssClimb (p : Slh) (pkSeed : List Byte) (x : Adrs) (idx : Nat) : Nat → List (List Byte) → List Byte → List Byte
  | _, [], v => v
  | z, a :: rest, v =>
    xmssClimb p pkSeed x idx (z + 1) rest
      (slhT p pkSeed { x with kind := 2, w1 := 0, w2 := z + 1, w3 := idx / 2 ^ (z + 1) } (joined (idx / 2 ^ z) v a))

/-- An XMSS signature: the WOTS+ signature of a leaf, and its authentication path. -/
def xmssSign (p : Slh) (skSeed pkSeed : List Byte) (x : Adrs) (idx : Nat) (m : List Byte) : List Byte :=
  wotsSign p skSeed pkSeed { x with kind := 0, w1 := idx, w2 := 0, w3 := 0 } m ++
    (List.range p.hp).flatMap (fun z => xmssNode p skSeed pkSeed x z (idx / 2 ^ z ^^^ 1))

/-- The root that an XMSS signature of a message leads to. -/
def xmssFrom (p : Slh) (pkSeed : List Byte) (x : Adrs) (idx : Nat) (sig m : List Byte) : List Byte :=
  xmssClimb p pkSeed x idx 0 ((List.range p.hp).map (fun z => partOf p.n sig (p.chains + z)))
    (wotsFrom p pkSeed { x with kind := 0, w1 := idx, w2 := 0, w3 := 0 } sig m)

/-- The address of a tree of the hypertree. -/
def treeAdrs (layer tree : Nat) : Adrs := { layer := layer, tree := tree, kind := 0, w1 := 0, w2 := 0, w3 := 0 }

/-- The signatures of the hypertree from a layer up, over `d` layers: the first signs the message, each other the root below it. -/
def hyperSign (p : Slh) (skSeed pkSeed : List Byte) : Nat → Nat → Nat → Nat → List Byte → List Byte
  | 0, _, _, _, _ => []
  | d + 1, layer, tree, leaf, m =>
    let sig := xmssSign p skSeed pkSeed (treeAdrs layer tree) leaf m
    sig ++ hyperSign p skSeed pkSeed d (layer + 1) (tree / 2 ^ p.hp) (tree % 2 ^ p.hp)
      (xmssFrom p pkSeed (treeAdrs layer tree) leaf sig m)

/-- The root of the hypertree that a signature of a message leads to. -/
def hyperFrom (p : Slh) (pkSeed : List Byte) : Nat → Nat → Nat → Nat → List Byte → List Byte → List Byte
  | 0, _, _, _, _, m => m
  | d + 1, layer, tree, leaf, sig, m =>
    hyperFrom p pkSeed d (layer + 1) (tree / 2 ^ p.hp) (tree % 2 ^ p.hp) (sig.drop p.xmssBytes)
      (xmssFrom p pkSeed (treeAdrs layer tree) leaf (sig.take p.xmssBytes) m)

/-! ### FORS -/

/-- The secret leaf `i` of the FORS trees of an address. -/
def forsSecret (p : Slh) (skSeed pkSeed : List Byte) (x : Adrs) (i : Nat) : List Byte :=
  slhF p pkSeed { x with kind := 6, w2 := 0, w3 := i } skSeed

/-- A node of the FORS trees of an address. -/
def forsNode (p : Slh) (skSeed pkSeed : List Byte) (x : Adrs) : Nat → Nat → List Byte
  | 0, i => slhF p pkSeed { x with w2 := 0, w3 := i } (forsSecret p skSeed pkSeed x i)
  | z + 1, i => slhT p pkSeed { x with w2 := z + 1, w3 := i }
      (forsNode p skSeed pkSeed x z (2 * i) ++ forsNode p skSeed pkSeed x z (2 * i + 1))

/-- A FORS signature of the digits of a digest: a secret leaf of each tree, and its authentication path. -/
def forsSign (p : Slh) (skSeed pkSeed : List Byte) (x : Adrs) (md : List Byte) : List Byte :=
  ((digits p.a p.k md).zipIdx).flatMap (fun (g, i) =>
    forsSecret p skSeed pkSeed x (i * 2 ^ p.a + g) ++
      (List.range p.a).flatMap (fun z => forsNode p skSeed pkSeed x z (i * 2 ^ (p.a - z) + (g / 2 ^ z ^^^ 1))))

/-- The root that leaf `i` of the FORS trees leads to over an authentication path, from height `z` on. -/
def forsClimb (p : Slh) (pkSeed : List Byte) (x : Adrs) (i : Nat) : Nat → List (List Byte) → List Byte → List Byte
  | _, [], v => v
  | z, a :: rest, v =>
    forsClimb p pkSeed x i (z + 1) rest (slhT p pkSeed { x with w2 := z + 1, w3 := i / 2 ^ (z + 1) } (joined (i / 2 ^ z) v a))

/-- The public key that a FORS signature of a digest leads to. -/
def forsFrom (p : Slh) (pkSeed : List Byte) (x : Adrs) (sig md : List Byte) : List Byte :=
  let root := fun (g i : Nat) =>
    let at_ := fun (z : Nat) => partOf p.n sig (i * (p.a + 1) + z)
    forsClimb p pkSeed x (i * 2 ^ p.a + g) 0 ((List.range p.a).map (fun z => at_ (z + 1)))
      (slhF p pkSeed { x with w2 := 0, w3 := i * 2 ^ p.a + g } (at_ 0))
  slhT p pkSeed { x with kind := 4, w2 := 0, w3 := 0 } (((digits p.a p.k md).zipIdx).flatMap (fun (g, i) => root g i))

/-! ### Signatures -/

/-- What a digest says: the digest of FORS, the tree of the lowest layer, and its leaf. -/
def slhSplit (p : Slh) (digest : List Byte) : List Byte × Nat × Nat :=
  let a := ceilDiv (p.k * p.a) 8
  let b := ceilDiv (p.d * p.hp - p.hp) 8
  (digest.take a, beNat ((digest.drop a).take b) % 2 ^ (p.d * p.hp - p.hp),
    beNat ((digest.drop (a + b)).take (ceilDiv p.hp 8)) % 2 ^ p.hp)

/-- A message in the pure form, with an empty context string. -/
def slhPure (m : List Byte) : List Byte := [0#8, 0#8] ++ m

/-- The root of a key pair. -/
def slhRoot (p : Slh) (skSeed pkSeed : List Byte) : List Byte := xmssNode p skSeed pkSeed (treeAdrs (p.d - 1) 0) p.hp 0

/-- The address of the FORS trees that a digest names. -/
def forsAdrs (tree leaf : Nat) : Adrs := { layer := 0, tree := tree, kind := 3, w1 := leaf, w2 := 0, w3 := 0 }

/-- A signature of a message with the randomness `opt`. -/
def slhSign (p : Slh) (skSeed skPrf pkSeed opt m : List Byte) : List Byte :=
  let x := slhPure m
  let r := slhRandomizer p skPrf opt x
  let (md, tree, leaf) := slhSplit p (slhDigest p r pkSeed (slhRoot p skSeed pkSeed) x)
  let fors := forsSign p skSeed pkSeed (forsAdrs tree leaf) md
  r ++ fors ++ hyperSign p skSeed pkSeed p.d 0 tree leaf (forsFrom p pkSeed (forsAdrs tree leaf) fors md)

/-- Whether a signature of a message verifies under a public key: its seed, then its root. -/
def slhVerify (p : Slh) (key m sig : List Byte) : Bool :=
  let pkSeed := key.take p.n
  let root := key.drop p.n
  let (md, tree, leaf) := slhSplit p (slhDigest p (sig.take p.n) pkSeed root (slhPure m))
  let fors := (sig.drop p.n).take p.forsBytes
  sig.length == p.sigBytes &&
    hyperFrom p pkSeed p.d 0 tree leaf (sig.drop (p.n + p.forsBytes)) (forsFrom p pkSeed (forsAdrs tree leaf) fors md) == root

end Sys2Proof.Machine
end

