-- ==== Sys2Proof/Machine/Hub.lean ====
section
/-! DEFINITION. The host port (R396, R397), boot (R398, R399, R429), measurements and quotes (R406, R407), power caps
(R408), counters (R403, R409) and keys (R395). -/

namespace Sys2Proof.Machine

/-! ### BAR 0 (R396) -/

/-- NOTIFY (R360, R398): ignored before READY; slot 0 is the admin queue's. -/
def execNotify (slot : Nat) (s : State) : Host.Outcome State Fault Refusal :=
  .next (if s.pkg.booted = false ∨ 64 ≤ slot then s
    else if slot = 0 then setSlot s 0 { getSlot s 0 with serving := !(getSlot s 0).broken }
    else notifySlot slot s)

/-- ADMQ_WRITE (R359, R396): a multiple of 64; the admin queue may be served again. -/
def execAdmqWrite (value : BitVec 64) (s : State) : Host.Outcome State Fault Refusal :=
  .next (if s.pkg.powered = false ∨ bfield value 5 0 ≠ 0 then s
    else setSlot { s with pkg := { s.pkg with admq := value } } 0 { getSlot s 0 with hdr := value, broken := false, serving := false })

/-- RESET_WRITE (R396): 0x5253 resets the module. Module flash and host memory stay; so do the events to come. -/
def execResetWrite (value : BitVec 64) (s : State) : Host.Outcome State Fault Refusal :=
  let host := s.memsys.bytes.filter (fun x => decide (x.1 < 2 ^ 52) && paKind x.1 == 3)
  .next (if value ≠ 0x5253#64 then s
    else { State.reset with
      memsys := { MemSys.reset with bytes := host }, pkg := { Package.reset with flash := s.pkg.flash },
      agenda := s.agenda, sched := s.sched, rails := s.rails, free := s.free, ids := s.ids })

/-- REGISTER_WRITE (R5, R396): a write to a BAR 0 register with no behaviour of its own. WINB takes a multiple of 512 GiB;
STATUS is read-only, and no other offset holds such a register. -/
def execRegisterWrite (offset : Nat) (value : BitVec 64) (s : State) : Host.Outcome State Fault Refusal :=
  .next (if s.pkg.powered = true ∧ offset = 0x1008 ∧ bfield value 38 0 = 0 then { s with pkg := { s.pkg with winb := value } }
    else s)

/-- What a host's read of BAR 0 returns (R5, R396): ADMQ, WINB and STATUS; a write-only register and an offset that holds none
read as 0. The read has no effect. -/
def barRead (s : State) (offset : Nat) : W64 :=
  match offset with
  | 0x1000 => s.pkg.admq
  | 0x1008 => s.pkg.winb
  | 0x1010 => s.pkg.status
  | _ => 0#64

/-! ### BAR 2 (R397) -/

/-- Whether an access through the BAR 2 window stays in it and reaches memory. -/
def inWindow (s : State) (offset n : Nat) : Bool :=
  s.pkg.powered && decide (offset + n ≤ 2 ^ 39) && (List.range n).all (fun i => isMem s (s.pkg.winb.toNat + offset + i))

/-- HOST_MEMORY_WRITE (R397): performed at its home in arrival order, with a completion time; R292 delays the accesses of
threads alone. -/
def execHostMemoryWrite (offset : Nat) (bytes : List Byte) (s : State) : Host.Outcome State Fault Refusal :=
  .next (if inWindow s offset bytes.length = false then s
    else
      let r := homeWrites noCtx 0 (s.pkg.winb.toNat + offset) bytes s
      { r.1 with pkg := { r.1.pkg with hostCt := max r.1.pkg.hostCt r.2 } })

/-- HOST_MEMORY_READ (R397): the host reads the coherence-latest bytes at the home. -/
def execHostMemoryRead (offset length : Nat) (s : State) : Host.Outcome State Fault Refusal :=
  .next (if inWindow s offset length = false then s
    else { s with pkg := { s.pkg with read := memRead s 0 (s.pkg.winb.toNat + offset) length }, free := s.free + 1 })

/-! ### Boot (R398, R399) -/

/-- 32 zero bytes. -/
def zeros32 : List Byte := List.replicate 32 0#8

/-- The body length of a patch image. -/
def patchLen (image : List Byte) : Nat := Config.patchHead 1 image

/-- Whether a patch image is valid (R399), and its PVER: header and body, then their signature, under the image's public key of 48
bytes. -/
def patchOk (f : Flash) (image : List Byte) : Option Nat :=
  let len := patchLen image
  let key := sliceOf 0#8 (Config.patchKey image) 0 48
  let pver := Config.patchHead 2 image % 2 ^ 32
  let ok := Config.patchHead 0 image % 2 ^ 16 == 0x5048 && decide (len ≤ 65536 - 64) && image.length == 64 + len + slh192s.sigBytes
    && sha256 key == f.keyHash && slhVerify slh192s key (image.take (64 + len)) (image.drop (64 + len)) && decide (f.minVer ≤ pver)
  if ok then some pver else none

/-- The measurements, the patch and its STATUS bits (R398 steps 1 to 3). -/
def measure (s : State) : State :=
  let f := s.pkg.flash
  let m := fun (i : Nat) (d : List Byte) (m : Cells (List Byte)) => cset [] m i d
  let base := (List.range 5).foldl (fun (x : Cells (List Byte)) i => m (i + 3) zeros32 x)
    (m 1 (sha256 (f.fuses ++ f.config ++ f.fabric.getD [])) (m 0 (sha256 f.rom) []))
  let set_ := fun (meas : Cells (List Byte)) (bits : W64) (body : List Byte) (pver : Nat) =>
    { s with pkg := { s.pkg with meas := meas, status := s.pkg.status ||| bits, patch := body, pver := pver } }
  match f.patch with
  | none => set_ (m 2 zeros32 base) 0#64 [] 0
  | some image => match patchOk f image with
    | some v => set_ (m 2 (sha256 image) base) 2#64 (image.take (64 + patchLen image)) v
    | none => set_ (m 2 zeros32 base) 4#64 [] 0

/-- Vault SRAM, stacked DRAM and GDDR 7 cleared, with no poison and no key (R398 step 4). -/
def clearMemories (s : State) : State :=
  let host := fun (a : Nat) => decide (a < 2 ^ 52) && paKind a == 3
  { s with memsys := { s.memsys with
    bytes := s.memsys.bytes.filter (fun x => host x.1), poison := s.memsys.poison.filter (fun x => host (32 * x.1)), keyed := [] } }

/-- The bits of the fabric section that must be 0 (R429), word by word: 116 words. -/
def fabricZeros (i : Nat) : W64 :=
  if i = 0 then 0xFFFFFFFFFFFF0000#64
  else if i = 1 then 0xFFFFFFFF00000000#64
  else if i < 4 then -1#64
  else if i < 68 then (if i % 2 = 0 then 0x7FFF0000FFFF0000#64 else 0x000000FFFFFFFFFF#64)
  else if i % 3 = 1 then 0x1C000000FFFFFFC0#64
  else 0x000000003FFFFFFF#64

/-- Inbound window `i` of a fabric section: BASE, SIZE and its last word. -/
def inboundOf (b : List Byte) (i : Nat) : W64 × W64 × W64 := (word64 b (68 + 3 * i), word64 b (69 + 3 * i), word64 b (70 + 3 * i))

/-- Whether a fabric section keeps its layout, and no inbound window in use reaches fabric memory (R429). -/
def fabricOk (b : List Byte) : Bool :=
  b.length == 928 && (List.range 116).all (fun i => word64 b i &&& fabricZeros i == 0#64) &&
    (List.range 16).all (fun i =>
      let w := inboundOf b i
      !w.2.2.getLsbD 63 || decide (w.1.toNat + w.2.1.toNat ≤ 4 * 2 ^ 45 ∨ 5 * 2 ^ 45 ≤ w.1.toNat))

/-- The fabric that a section describes. A port in use is up from boot on. -/
def fabricOf (now : Nat) (b : List Byte) : Fabric :=
  let porten := bfield (word64 b 1) 15 0
  { fidx := bfield (word64 b 0) 15 0, capsrc := bfield (word64 b 1) 31 16, porten := porten,
    outbound := (List.range 32).foldl (fun m w => cset (0#64, 0#64) m w (word64 b (4 + 2 * w), word64 b (5 + 2 * w))) [],
    inbound := (List.range 16).foldl (fun m i => cset (0#64, 0#64, 0#64) m i (inboundOf b i)) [],
    ports := (List.range 16).foldl (fun m p =>
      if porten.testBit p then cset Port.none m p { Port.none with up := true, lastSync := now } else m) [],
    sofs := 0, slewed := now, aim := 0, rate := 0, nextSync := now + 1000000 }

/-- The fabric section read at boot: one that breaks the layout sets FABBAD. -/
def readFabric (s : State) : State :=
  match s.pkg.flash.fabric with
  | none => { s with fabric := Fabric.none }
  | some b =>
    if fabricOk b then { s with fabric := fabricOf (timeOf s) b }
    else { s with fabric := Fabric.none, pkg := { s.pkg with status := s.pkg.status ||| 16#64 } }

/-- The boot re-plan of a cluster; what its replicas measure is free (R349, R350). -/
def bootPlan (s : State) (c : Nat) : State :=
  let x := getCluster s c
  replan c (freeSlack s) (setCluster { s with free := s.free + 81 } c { x with planDue := false, nextPlan := timeOf s + dayNs })

/-- The boot up to its re-plans, which it starts (R398 steps 1 to 5). -/
def bootStart (s : State) : State :=
  let t := readFabric (clearMemories (measure s))
  let u : State := { t with pkg := { t.pkg with booting := true } }
  (List.range 32).foldl bootPlan u

/-- The first samples of the vaults that have taken none in these 10 µs, the lifetime counters of module flash, to which what has been
counted since the reset is added, and READY (R341, R345, R398 steps 5 and 6). -/
def bootEnd (s : State) : State :=
  let first := fun (u : State) (v : Nat) =>
    let x := cget Vault.reset u.vaults v
    if x.sampled && decide (timeOf u < x.next) then u else freeSample v u
  let t := (List.range 32).foldl first s
  { t with pkg := { t.pkg with
    booting := false, booted := true, status := t.pkg.status ||| 1#64, life := Lifetime.add t.pkg.flash.life t.pkg.life } }

/-- Whether the boot re-plan of every cluster has ended (R349). -/
def plansEnded (s : State) : Bool := (List.range 32).all (fun c => !(getCluster s c).planEnd)

/-- MODULE_BOOT (R398): it starts, and once the boot re-plans have ended it sets READY. -/
def execModuleBoot (s : State) : Host.Outcome State Fault Refusal :=
  .next (if s.pkg.powered = false ∨ s.pkg.booted = true then s
    else if s.pkg.booting = false then bootStart s
    else if plansEnded s then bootEnd s else s)

/-! ### Measurements and quotes (R406, R407) -/

/-- MEASi. -/
def measOf (s : State) (i : Nat) : List Byte := sliceOf 0#8 (cget [] s.pkg.meas i) 0 32

/-- The quote's key pair (R407), from the fused seed alone: the two secret values and the public seed, of 16 bytes each
(log 60). -/
def quoteKey (f : Flash) (i : Nat) : List Byte := sliceOf 0#8 (Config.quoteKeys f.seed) (16 * i) 16

/-- The public key of the quote's key pair: the public seed and the root. -/
def quotePublic (f : Flash) : List Byte := quoteKey f 2 ++ slhRoot slh128f (quoteKey f 0) (quoteKey f 2)

/-- Bytes 0x000 to 0x15F of a quote, which its signature is over. -/
def quoteBody (nonce : List Byte) (s : State) : List Byte :=
  bytes64 0x5154000000000001#64 ++ bytes64 s.pkg.flash.serial ++ sliceOf 0#8 nonce 0 32
    ++ (List.range 8).flatMap (measOf s) ++ leBytes 8 (timeOf s) ++ leBytes 8 s.pkg.pver ++ sliceOf 0#8 (quotePublic s.pkg.flash) 0 32

/-- The 17,440 bytes of a quote (R407): its body, and the SLH-DSA-SHA2-128f signature of the body, whose randomness is open. -/
def quoteBytes (nonce : List Byte) (s : State) : List Byte :=
  let f := s.pkg.flash
  let body := quoteBody nonce s
  body ++ sliceOf 0#8 (slhSign slh128f (quoteKey f 0) (quoteKey f 1) (quoteKey f 2)
    (sliceOf 0#8 (Config.quoteRandom s.free) 0 16) body) 0 17088

/-- QUOTE FORM 0. -/
def execQuote (c : Cmd) (s : State) : Host.Outcome State Fault Refusal :=
  command c 0x0B 0 .both [-1#64, -1#64, -1#64, -1#64, -1#64]
    (fun t =>
      let out := (Cmd.word c 6).toNat
      if out % 64 ≠ 0 then reply c 1 0#64 t
      else if rangeOk t (cmdVia t c) out 17440 false true = false then reply c 6 0#64 t
      else reply c 0 17440#64
        (putOut (cmdVia t c) out (quoteBytes (wordsBytes ((List.range 4).map (fun i => Cmd.word c (i + 2)))) t)
          { t with free := t.free + 1 })) s

/-- QUOTE FORM 1: MEASi extended, for i from 3 to 7. -/
def execQuoteExtend (c : Cmd) (s : State) : Host.Outcome State Fault Refusal :=
  command c 0x0B 1 .admin [-1#64, -1#64, -1#64, -1#64, -1#64]
    (fun t =>
      let i := (Cmd.word c 2).toNat
      let d := wordsBytes ((List.range 4).map (fun k => Cmd.word c (k + 3)))
      if i < 3 ∨ 7 < i then reply c 1 0#64 t
      else reply c 0 0#64 { t with pkg := { t.pkg with meas := cset [] t.pkg.meas i (sha256 (measOf t i ++ d)) } }) s

/-! ### POWERCAP, KEYSET -/

/-- POWERCAP (R408). -/
def execPowercap (c : Cmd) (s : State) : Host.Outcome State Fault Refusal :=
  command c 0x0C 0 .admin [-1#64, -1#64, -1#64]
    (fun t => reply c 0 0#64 (acceptCap { seq := Cmd.word c 2, watts := Cmd.word c 3, expiry := Cmd.word c 4 } t)) s

/-- KEYSET (R395): the two keys of an id from 1 to 1,023. -/
def execKeyset (c : Cmd) (s : State) : Host.Outcome State Fault Refusal :=
  command c 0x0E 0 .admin [-1#64, -1#64]
    (fun t =>
      let id := (Cmd.word c 2).toNat
      if id = 0 ∨ 1024 ≤ id then reply c 1 0#64 t
      else match viaRead t none (Cmd.word c 3).toNat 64 with
        | none => reply c 6 0#64 t
        | some b => reply c 0 0#64 { t with pkg := { t.pkg with keys := cset [] t.pkg.keys id b } }) s

/-! ### COUNTERS (R403) -/

/-- Bytes of which a COUNTERS command writes as many as its length asks for. -/
def putCounters (c : Cmd) (v : Via) (bs : List Byte) (s : State) : State :=
  let out := bs.take (Cmd.word c 4).toNat
  if out ≠ [] ∧ rangeOk s v (Cmd.word c 2).toNat out.length false true = false then reply c 6 0#64 s
  else reply c 0 (BitVec.ofNat 64 out.length) (putOut v (Cmd.word c 2).toNat out s)

/-- COUNTERS FORM 0: the account of a context, five words. -/
def execCountersAccount (c : Cmd) (s : State) : Host.Outcome State Fault Refusal :=
  command c 0x0D 0 .both [-1#64, 0#64, -1#64, 0x3F#64]
    (fun t =>
      let ctx := actsOn t c (bfield (Cmd.word c 5) 5 0)
      onCtx c ctx (fun x u =>
        putCounters c (some ctx) ((List.range 5).flatMap (fun i => leBytes 8 (x.account[i]?.getD 0))) u) t) s

/-- A register that only Lamplighter reaches (R345, R348, R351, R353, R371, R408). -/
def lampReg (s : State) (n : Nat) : Option W64 :=
  if 0x40 ≤ n ∧ n < 0x60 then some (talw s (n - 0x40))
  else if 0x60 ≤ n ∧ n < 0x80 then some (getCluster s (n - 0x60)).gctl
  else if 0x80 ≤ n ∧ n < 0xA0 then some (getCluster s (n - 0x80)).bbias
  else if 0xA0 ≤ n ∧ n < 0xC0 then some (getCluster s (n - 0xA0)).tapctl
  else if n = 0xC0 then some s.pkg.schctl
  else if n = 0xC1 then some s.pkg.powerctl
  else none

/-- A write to such a register: its RW fields change (R5, R6). -/
def writeLampReg (n : Nat) (x : W64) (s : State) : State :=
  if 0x60 ≤ n ∧ n < 0x80 then writeGctl (n - 0x60) x s
  else if 0x80 ≤ n ∧ n < 0xA0 then writeBbias (n - 0x80) x s
  else if 0xA0 ≤ n ∧ n < 0xC0 then writeTapctl (n - 0xA0) x s
  else if n = 0xC0 then { s with pkg := { s.pkg with schctl := x &&& 0x00000000FFFF003F#64 } }
  else if n = 0xC1 then { s with pkg := { s.pkg with powerctl := x &&& 0x000000000000FFFF#64 } }
  else s

/-- COUNTERS FORM 1: read a register. -/
def execCountersReadRegister (c : Cmd) (s : State) : Host.Outcome State Fault Refusal :=
  command c 0x0D 1 .admin [-1#64, 0#64, 0#64, 0x3F#64]
    (fun t => match lampReg t (Cmd.word c 2).toNat with
      | none => reply c 1 0#64 t
      | some x => reply c 0 x t) s

/-- COUNTERS FORM 2: write a register. -/
def execCountersWriteRegister (c : Cmd) (s : State) : Host.Outcome State Fault Refusal :=
  command c 0x0D 2 .admin [-1#64, -1#64, 0#64, 0x3F#64]
    (fun t => match lampReg t (Cmd.word c 2).toNat with
      | none => reply c 1 0#64 t
      | some _ => reply c 0 (Cmd.word c 3) (writeLampReg (Cmd.word c 2).toNat (Cmd.word c 3) t)) s

/-- What the lifetime records hold but for the powered hours, as numbers. -/
def lifeNumbers (l : Lifetime) : List Nat :=
  let cells := fun (m : Cells Nat) => m.length :: m.flatMap (fun x => [x.1, x.2])
  cells l.temps ++ cells l.droop ++ cells l.bias ++ cells l.ecc ++
    (l.ageing.length :: l.ageing.flatMap (fun x => x.1 :: x.2.length :: x.2)) ++ l.trips.flatMap (fun x => [x.1, x.2])

/-- The lifetime records as bytes: the count of powered hours, and the others in a size and layout that the manual leaves open (log 28). -/
def lifeBytes (s : State) : List Byte := leBytes 8 s.pkg.life.hours ++ Config.lifeRest (lifeNumbers s.pkg.life)

/-- COUNTERS FORM 3: the lifetime records. -/
def execCountersLifetime (c : Cmd) (s : State) : Host.Outcome State Fault Refusal :=
  command c 0x0D 3 .both [-1#64, 0#64, -1#64, 0x3F#64]
    (fun t => putCounters c (cmdVia t c) (lifeBytes t) t) s

end Sys2Proof.Machine
end

