-- ==== Sys2Proof/Machine/Sync.lean ====
section
/-! DEFINITION. Fences, trackers, WAITA and crew barriers: SYNC (R207 to R219). -/

namespace Sys2Proof.Machine

/-- A SYNC word with its register fields and other limits. -/
def opSync (fn : Nat) (r : Run) (d a b : BitVec 7) (lims : Bool) (uses : List Use) : Op :=
  { Op.plain (wRRR 19 r d a b fn) r 0 uses with lims := lims }

/-! ### FENCE and DRAINST (R210 to R213) -/

/-- A store fault of the part is taken before the unit executes (R162, R199); a store that a peer may still refuse is waited
for, unless the part is in its handler (R164). -/
def faultsFirst (r : Run) (f : State → State) (s : State) : State :=
  let t := reportAll s
  if t.part.fault.isSome ∧ t.part.state ≠ .trapped then storeTrap r t
  else if t.part.state ≠ .trapped ∧ unanswered (fun _ => true) t = true then hold t
  else f t

/-- The checks of FENCE (R210): one IMM24 hint at most, with A = 0; a MOD hint needs ACQ or REL. -/
def opFence (r : Run) (a : BitVec 7) : Op :=
  { opSync 0 r 0#7 a 0#7 (immCount r = 0 || a == 0#7) (if immCount r = 0 then [srcS a] else []) with
    immMax := 1, immOk := decide ((payload r 0).getD 0 < 2 ^ 16), mods := some (modACQ + modREL + modSCOPE),
    modOk := !hasMod r || modField r 18 18 == 1 || modField r 19 19 == 1 }

/-- FENCE (R210 to R212): the release first, then the acquire; acqrel at scope 4 without a MOD hint. -/
def execFence (r : Run) (a : BitVec 7) (s : State) : Host.Outcome State Fault Refusal :=
  let acq := !hasMod r || modField r 18 18 == 1
  let rel := !hasMod r || modField r 19 19 == 1
  let scope := if hasMod r then scopeOf r else 4
  unit (opFence r a)
    (faultsFirst r (fun t =>
      let mask := (payload r 0).getD (bfield (sreg t a) 15 0)
      let fin := fun (u : State) => if acq then acquireThen (done r) u else done r u
      if rel then releaseThen r mask scope fin t else fin t)) s

/-- DRAINST (R213). -/
def execDrainst (r : Run) (s : State) : Host.Outcome State Fault Refusal :=
  unit (opSync 3 r 0#7 0#7 0#7 true []) (drained r (done r)) s

/-! ### Trackers (R207 to R209) -/

/-- The checks of TRKSET (R207): N from 0 to 14, a lease length from 0 to 65,535. -/
def opTrkset (base : Nat) (r : Run) (t a b : BitVec 7) (uses : List Use) : Op :=
  { opSync 1 r t a b (decide (base ≤ t.toNat ∧ t.toNat ≤ base + 14)) uses with
    immMax := 1, immOk := decide ((payload r 0).getD 0 < 2 ^ 16), mods := some modSCOPE }

/-- A tracker bound: KIND, BASE and LIMIT, with SCOPE and LEASELEN from the hints (R207, R208). -/
def bindTrk (r : Run) (t kind : Nat) (base limit : W64) (s : State) : State :=
  { s with crew := setTrk s.crew t { getTrk s.crew t with
      kind := kind, base := base, limit := limit, scope := if hasMod r then scopeOf r else 4,
      lease := (payload r 0).getD 400 } }

/-- TRKSET of a range (R208). -/
def execTrkset (r : Run) (t a b : BitVec 7) (s : State) : Host.Outcome State Fault Refusal :=
  unit (opTrkset 0 r t a b [srcS a, srcS b])
    (fun u =>
      let base := bfield (sreg u a) 55 0
      let limit := min (base + (sreg u b).toNat) (2 ^ 56)
      let go := fun (kind : Nat) => done r (bindTrk r t.toNat kind (BitVec.ofNat 64 base) (BitVec.ofNat 64 limit) u)
      match bfield (sreg u a) 63 56 with
      | 0x00 => go 1
      | 0xFC => go 3
      | _ => aperture (sreg u a) u) s

/-- The range of a live handle of the crew's context; an empty one where the number names none (R208). -/
def handleRange (s : State) (n : W64) : Nat × Nat :=
  if 4095 < n.toNat then (0, 0)
  else match (getCtx s s.crew.ctx).bind (fun c => cget none c.handles n.toNat) with
    | some h => (h.base, h.base + h.extent)
    | none => (0, 0)

/-- TRKSET of a handle (R208): D is 16 + N. -/
def execTrksetH (r : Run) (t a : BitVec 7) (s : State) : Host.Outcome State Fault Refusal :=
  unit (opTrkset 16 r t a 0#7 [srcS a])
    (fun u =>
      let g := handleRange u (sreg u a)
      done r (bindTrk r (t.toNat - 16) 2 (BitVec.ofNat 64 g.1) (BitVec.ofNat 64 g.2) u)) s

/-- TRKCLR (R209). -/
def execTrkclr (r : Run) (t : BitVec 7) (s : State) : Host.Outcome State Fault Refusal :=
  unit (opSync 2 r t 0#7 0#7 (decide (t.toNat ≤ 14)) [])
    (fun u => done r { u with crew := setTrk u.crew t.toNat { getTrk u.crew t.toNat with
      kind := 0, scope := 0, lease := 400 } }) s

/-! ### WAITA (R214) -/

/-- A scratchpad word at s[A]: a multiple of 8 inside the reservation (R214, R215). -/
def wordAt (r : Run) (a : W64) (f : Nat → State → State) (s : State) : State :=
  if scratchPending s then hold s
  else if a &&& 7#64 ≠ 0#64 then misaligned 8 a r s
  else if s.crew.scr < a.toNat + 8 then aperture a s
  else f a.toNat s

/-- The condition of WAITA: eq, ne, ge as natural. -/
def waitHolds (cond : Nat) (x y : W64) : Bool :=
  match cond with
  | 0 => x == y
  | 1 => x != y
  | _ => decide (y.toNat ≤ x.toNat)

/-- The scratchpad word at an offset. -/
def scrWord (s : State) (o : Nat) : W64 := BitVec.ofNat 64 (scrNat s.crew o 8)

/-- A test of WAITA: a condition that holds writes 1 and acquires; after the last test the part goes on with 0 (R214). A
condition that has held stays met while the acquire waits. -/
def waitTest (r : Run) (d : BitVec 7) (ok : Bool) (till : Nat) (s : State) : State :=
  if ok then
    if s.part.loads = [] then done r (wrS 0 d.toNat 1#64 s)
    else { s with part := { s.part with wait := .retry, relDone := true } }
  else if till ≤ now s then done r (wrS 0 d.toNat 0#64 s)
  else { s with part := { s.part with wait := .waita till } }

/-- The checks of WAITA. -/
def opWaita (r : Run) (d a b : BitVec 7) : Op :=
  { opSync 4 r d a b true [srcS a, srcS b, dstS d] with opc := some (true, srcS (opcField r)), width := some (0, 2) }

/-- WAITA (R214). -/
def execWaita (r : Run) (d a b : BitVec 7) (s : State) : Host.Outcome State Fault Refusal :=
  unit (opWaita r d a b)
    (fun t => wordAt r (sreg t a) (fun o u =>
      let till := match u.part.wait with
        | .waita n => n
        | _ => now u + bfield (rdS u (opcOf r)) 31 0
      waitTest r d (u.part.relDone || waitHolds ((widthHint r).getD 0) (scrWord u o) (sreg u b)) till u) t) s

/-! ### Crew barriers (R215 to R219) -/

/-- The crew quads of the part in focus (R270). -/
def ownQuads (s : State) : List Nat :=
  ((List.range 16).filter (fun q => s.part.quads.testBit q)).map (fun q => s.wave.widx * (widthOf s.crew.code / 4) + q)

/-- Whether a word is a barrier word. -/
def isBar (s : State) (o : Nat) : Bool := s.crew.bars.any (fun b => b.off == o)

/-- BARDEF (R216). -/
def execBardef (r : Run) (a b : BitVec 7) (s : State) : Host.Outcome State Fault Refusal :=
  unit (opSync 5 r 0#7 a b true [srcS a, srcS b])
    (fun t => wordAt r (sreg t a) (fun o u =>
      let n := (sreg u b).toNat
      if isBar u o || decide (n = 0 ∨ 512 < n) || decide (16 ≤ u.crew.bars.length) then barrierKill u
      else
        let ex := crewExited u
        let c : Crew := { u.crew with bars := u.crew.bars ++ [{ off := o, bitmap := ex }] }
        done r { u with crew := phaseCheck o ex (scrWrite o (bytes64 (barWord 0 n (crewQuads ex).length)) c) }) t) s

/-- The arrival of the part in focus at a barrier word, once its older stores are accepted; `f` receives the phase in
which it arrived (R217). -/
def arriveThen (r : Run) (o : Nat) (f : Nat → State → State) (s : State) : State :=
  drainBy hold r (fun t =>
    let ph := barPhase t.crew o
    f ph { t with crew := barArrive o (ownQuads t) (crewExited t) t.crew }) s

/-- BARARR (R217). -/
def execBararr (r : Run) (d a : BitVec 7) (s : State) : Host.Outcome State Fault Refusal :=
  unit (opSync 6 r d a 0#7 true [srcS a, dstS d])
    (fun t => wordAt r (sreg t a) (fun o u =>
      if isBar u o then arriveThen r o (fun ph v => done r (wrS 0 d.toNat (BitVec.ofNat 64 ph) v)) u
      else barrierKill u) t) s

/-- Whether a barrier word stands in the phase `ph` (R218). -/
def inPhase (c : Crew) (o ph : Nat) : Bool := c.bars.any (fun b => b.off == o) && barPhase c o == ph

/-- The wait for a phase to pass, and then the acquire (R218); `w` is what the part waits in. A phase that has passed stays
passed while the acquire waits. -/
def phaseWait (r : Run) (w : Wait) (o ph : Nat) (s : State) : State :=
  let passed := s.part.relDone || !inPhase s.crew o ph
  if passed && s.part.loads.isEmpty then done r s else { s with part := { s.part with wait := w, relDone := passed } }

/-- BARWAIT (R218). -/
def execBarwait (r : Run) (a b : BitVec 7) (s : State) : Host.Outcome State Fault Refusal :=
  unit (opSync 7 r 0#7 a b true [srcS a, srcS b])
    (fun t =>
      match t.part.wait with
      | .barw o ph => phaseWait r (.barw o ph) o ph t
      | _ => wordAt r (sreg t a) (fun o u =>
        let ph := bfield (sreg u b) 15 0
        if isBar u o then phaseWait r (.barw o ph) o ph u else barrierKill u) t) s

/-- BARC (R218): an arrival, and then the wait for the phase it returned; a part that is inside the wait only waits. -/
def execBarc (r : Run) (d a : BitVec 7) (s : State) : Host.Outcome State Fault Refusal :=
  unit (opSync 8 r d a 0#7 true [srcS a, dstS d])
    (fun t =>
      match t.part.wait with
      | .barc o ph _ => phaseWait r (.barc o ph true) o ph t
      | _ => wordAt r (sreg t a) (fun o u =>
        if isBar u o then
          arriveThen r o (fun ph v => phaseWait r (.barc o ph true) o ph (wrS 0 d.toNat (BitVec.ofNat 64 ph) v)) u
        else barrierKill u) t) s

/-- Whether a part waits on a barrier word: for its phase to pass, not for the acquire that follows (R219). -/
def waitsOn (c : Crew) (o : Nat) (p : Part) : Bool :=
  !p.relDone && match p.wait with
  | .barw n ph => n == o && inPhase c n ph
  | .barc n ph _ => n == o && inPhase c n ph
  | _ => false

/-- BARINV (R219). -/
def execBarinv (r : Run) (a : BitVec 7) (s : State) : Host.Outcome State Fault Refusal :=
  unit (opSync 9 r 0#7 a 0#7 true [srcS a])
    (fun t => wordAt r (sreg t a) (fun o u =>
      if isBar u o && (u.sibs ++ u.waves.flatMap (·.parts)).any (waitsOn u.crew o) then barrierKill u
      else done r { u with crew := { u.crew with bars := u.crew.bars.filter (fun b => b.off != o) } }) t) s

end Sys2Proof.Machine
end

