-- ==== Sys2Proof/Machine/Net.lean ====
section
/-! DEFINITION. What happens to accesses after they have left their core: at the home (R287 to R293, R336, R338), on
their way back (R182, R187, R206), and in the registers and the store queue of the crew (R184, R195, R162, R211). -/

namespace Sys2Proof.Machine

/-! ### Who waits for an access -/

/-- The crew with a number, with its waves. -/
def wholeCrew (s : State) (cid : Nat) : Option Crew :=
  if s.crew.cid = cid ∧ s.crew.cond ≠ .absent then some (packCrew s) else s.crews.find? (fun c => c.cid == cid)

/-- The loads and atomics in flight of a crew. -/
def crewLoads (c : Crew) : List Load := c.waves.flatMap (fun w => w.parts.flatMap (·.loads))

/-- The bytes that a load reads. -/
def LoadKind.size : LoadKind → Nat
  | .vec n _ => n
  | .scalar n => n

/-- The offsets of an access's line that its waiting loads read, without those fixed at issue. -/
def readOffsets (s : State) (a : Access) : List Nat :=
  match wholeCrew s a.crew with
  | none => []
  | some c =>
    let lanes := (crewLoads c).flatMap (fun l => l.lanes.filterMap (fun x => if x.acc = a.id then some (l.kind.size, x) else none))
    let push := match c.slice.push with
      | some (_, bs) => bs.filterMap (fun b => if b.1 = a.id then some b.2.1 else none)
      | none => []
    match a.use with
    | .atom _ n off _ _ => (List.range n).map (off + ·)
    | _ => push ++ lanes.flatMap (fun nx => (List.range nx.1).filterMap (fun i =>
        if (nx.2.fixed.lookup i).isSome then none else some (nx.2.off + i)))

/-- Whether a load, a unit, a copy or an ASTRM still needs an answer that has come back. -/
def neededBy (s : State) (a : Access) : Bool :=
  match a.use with
  | .copy ord => match wholeCrew s a.crew with
    | some c => c.copies.any (fun x => x.ord == ord && !x.squash)
    | none => false
  | .unit _ => a.crew != 0
  | _ => match wholeCrew s a.crew with
    | none => false
    | some c => (crewLoads c).any (fun l => l.lanes.any (fun x => x.acc == a.id)) ||
        (match c.slice.push with
          | some (_, bs) => bs.any (fun b => b.1 == a.id)
          | none => false)

/-- Answers that nobody needs any more dropped. -/
def tidy (s : State) : State := { s with net := s.net.filter (fun a => !a.back || neededBy s a) }

/-! ### At the home (R288) -/

/-- Whether two accesses travel from one core to one home for one line. -/
def samePath (a b : Access) : Bool := a.core == b.core && a.line == b.line

/-- The accesses that left before this one and are not yet performed. -/
def olderOf (s : State) (a : Access) : List Access :=
  (s.net.takeWhile (fun b => b.id != a.id)).filter (fun b => b.ans.isNone)

/-- The copy that waits for a write-down (R233). -/
def Access.aheadOf (a : Access) : Option (Nat × Nat) :=
  match a.use with
  | .ahead ord => some (a.crew, ord)
  | _ => none

/-- The copies that wait for an access, or for a write-down behind it on its path. -/
def waiters (s : State) (a : Access) : List (Nat × Nat) :=
  ((s.net.dropWhile (fun b => b.id != a.id)).filter (fun b => samePath a b && b.ans.isNone)).filterMap Access.aheadOf

/-- Whether an owner of a line lets an access pass (R292): the access stands before what the owner itself waits for; or
before what an older owner waits for, while the owner waits for a write-down too (log 26). -/
def passesOwner (s : State) (a : Access) (o : Nat × Nat) : Bool :=
  let ws := waiters s a
  let own := (homeLine s a.line).owners
  let waits := s.net.any (fun b => b.line == a.line && b.ans.isNone && b.aheadOf == some o)
  ws.contains o || (waits && ws.any (fun w => decide (own.idxOf w < own.idxOf o)))

/-- The owners of its line that keep an access waiting (R292): none keeps an access of a copy. -/
def holders (s : State) (a : Access) : List (Nat × Nat) :=
  match a.use with
  | .copy _ => []
  | _ => (homeLine s a.line).owners.filter (fun o => !passesOwner s a o)

/-- Whether an access of a copy need not wait for an older one of its core to the line: a thread's, which an owner of the line
keeps waiting (R292). -/
def copyPasses (s : State) (a b : Access) : Bool :=
  match a.use, b.use with
  | .copy _, .copy _ => false
  | .copy _, _ => !(holders s b).isEmpty
  | _, _ => false

/-- Whether an older access of the part to a TSO page keeps this one waiting (R338): a load may pass a store to other
bytes. -/
def tsoWaits (s : State) (a b : Access) : Bool :=
  a.tso && b.tso && a.crew == b.crew && a.wave == b.wave && a.quads &&& b.quads != 0 &&
    match a.op, b.op with
    | .read _, .write bs => a.line == b.line && (readOffsets s a).any (fun o => (bs.lookup o).isSome)
    | _, _ => true

/-- Whether an access is a lane of an atomic. -/
def Access.isAtomic (a : Access) : Bool :=
  match a.op, a.use with
  | .atomic .., _ => true
  | _, .atom .. => true
  | _, .here .. => true
  | _, _ => false

/-- Whether two accesses are lanes of one instruction. -/
def sameUnit (s : State) (a b : Access) : Bool :=
  match wholeCrew s a.crew with
  | some c => c.stores.any (fun x => x.accs.contains a.id && x.accs.contains b.id)
  | none => false

/-- Whether a lower lane of its atomic is still to be performed (R204). -/
def laneWaits (s : State) (a : Access) : Bool :=
  a.isAtomic && s.net.any (fun b => decide (b.id < a.id) && (b.ans.isNone || b.local) && sameUnit s a b)

/-- Whether an access keeps the order of its part and of its unit, wherever it is performed (R204, R338). -/
def inOrder (s : State) (a : Access) : Bool := !laneWaits s a && (olderOf s a).all (fun b => !tsoWaits s a b)

/-- Whether a home may perform an access now (R288, R290, R292). -/
def homeReady (s : State) (a : Access) : Bool :=
  !remoteLine a.line && (holders s a).isEmpty && inOrder s a && !(a.isAtomic && leasedNow s a.line) &&
    (olderOf s a).all (fun b => !samePath a b || copyPasses s a b)

/-- The line's bytes as a home sends them. -/
def lineBytes (s : State) (key line : Nat) : Cells W64 :=
  (List.range 128).map (fun o => (o, (memByte s key (128 * line + o)).setWidth 64))

/-- The poison marks of a line: its words that still have to be written whole, and its blocks poisoned as a whole (R355). -/
def linePoison (s : State) (line : Nat) : Nat :=
  let block := fun (b : Nat) => cget 0 s.memsys.poison (4 * line + b)
  (List.range 4).foldl (fun m b => m + block b % 16 * 2 ^ (4 * b) + (block b / 16 % 2) * 2 ^ (16 + b)) 0

/-- The new value of an atomic at its home: R204's, or the element step of a reduce-copy (R231). -/
def homeNew (fn n old v c : Nat) : Nat := if fn < 16 then atomNew fn n old v c else reduceOp (fn - 16) old v

/-- An access performed at its home, with its answer (R288, R290). -/
def perform (a : Access) (s : State) : State × Answer :=
  match a.op with
  | .read q =>
    let r := homeFill a.ctx a.line (if a.tso then 0 else q) s
    (r.1, { bytes := lineBytes s a.key a.line, lease := r.2, ct := none, poison := linePoison s a.line, failed := false })
  | .write bs =>
    let r := homeCells a.ctx a.key a.line (bs.map (fun x => (x.1, x.2.setWidth 8))) s
    (r.1, { bytes := [], lease := none, ct := some r.2, poison := 0, failed := false })
  | .atomic fn n off v c =>
    let pa := 128 * a.line + off
    let old := leNat (memRead s a.key pa n)
    let r := if atomWrites fn then homeWrite a.ctx a.key pa (leBytes n (homeNew fn n old v.toNat c.toNat)) s
      else let t := present a.ctx a.line s
        (t, max (timeOf s) ((homeLine t a.line).h + 8))
    (notedAtom a.line r.1, { bytes := byteCells off (leBytes n old), lease := none, ct := some r.2, poison := 0, failed := false })

/-- An access in the network changed. -/
def updAccess (id : Nat) (f : Access → Access) (s : State) : State :=
  { s with net := updIf (fun (a : Access) => a.id == id) f s.net }

/-- The crew of an access is killed by what the home finds, with the part that made the access. -/
def killFor (cause : Nat) (info addr : W64) (a : Access) (s : State) : State :=
  let t := focusCrew s a.crew
  let part := ((allWaves t).find? (fun w => w.widx == a.wave)).bind (fun w => w.parts.find? (fun p => p.quads.testBit a.part))
  if t.crew.cid ≠ a.crew ∨ t.crew.cond = .absent then s
  else match a.use, part with
    | .writedown, _ => killCrew false (engineKill cause info addr 0#64 []) t
    | .ahead _, _ => killCrew false (engineKill cause info addr 0#64 []) t
    | .copy _, _ => killCrew false (engineKill cause info addr 0#64 []) t
    | _, some p => killCrew false { cause := cause, info := info, addr := addr, pc := pcField a.pc, widx := a.wave,
                                    pidx := lowBit p.quads, access := [], regs := none } t
    | _, none => killCrew false (engineKill cause info addr 0#64 []) t

/-- The vault-window address of an access (R175). -/
def vaultAddr (a : Access) : W64 :=
  BitVec.ofNat 64 (0xFC * 2 ^ 56 + paVault (128 * a.line) * 2 ^ 43 + 128 * a.line % 2 ^ 28 + a.off)

/-- Whether the vault allotment of the access's context lets it in (R289). -/
def allotOk (s : State) (a : Access) : Bool :=
  !a.vault || allotted s a.ctx (paVault (128 * a.line)) (128 * a.line % 2 ^ 40) 1

/-- Whether an access is a read whose loads, or an atomic whose operand, touch a poisoned word (R355). -/
def readsPoison (s : State) (a : Access) : Bool :=
  match a.op with
  | .read _ => (readOffsets s a).any (fun o => poisoned s (128 * a.line + o) 1)
  | .write _ => false
  | .atomic _ n off _ _ => poisoned s (128 * a.line + off) n

/-- The answer of an access that fails. -/
def failedAnswer : Answer := { bytes := [], lease := none, ct := none, poison := 0, failed := true }

/-- A copy that has written its bytes of a line at the line's home releases it (R292). -/
def releaseAt (a : Access) (s : State) : State :=
  match a.use with
  | .copy ord =>
    if a.op.isRead || s.net.any (fun b => b.crew == a.crew && b.use == .copy ord && b.line == a.line && b.ans.isNone && !b.op.isRead)
    then s else disownLine a.crew ord a.line s
  | _ => s

/-- A home performs an access that has arrived (R288 to R293): an access that its allotment shuts out kills its crew, or is a
copy's error (R289), or is dropped when it is a prefetch (R198); a read of a poisoned word kills the crew (R355). -/
def homeStep (a : Access) (s : State) : State :=
  if allotOk s a = false then
    let t := { s with net := s.net.filter (fun b => b.id != a.id) }
    match a.use with
    | .copy _ => updAccess a.id (fun x => { x with ans := some failedAnswer }) s
    | _ => if a.trk = none then t else killFor 0x0D 0#64 (vaultAddr a) a t
  else if readsPoison s a then
    match a.op with
    | .read _ =>
      let r := perform a s
      killFor 0x11 5#64 0#64 a (updAccess a.id (fun x => { x with ans := some r.2 }) r.1)
    | _ => killFor 0x11 5#64 0#64 a { s with net := s.net.filter (fun b => b.id != a.id) }
  else
    let r := perform a s
    releaseAt a (updAccess a.id (fun x => { x with ans := some r.2 }) (mayEvict a.line r.1))

/-! ### On the way back (R187, R182, R206) -/

/-- A tracker takes an answer: OUT falls and LCT takes the completion time (R187). -/
def answerTrk (a : Access) (r : Answer) (s : State) : State :=
  match a.trk with
  | none => s
  | some t => updCrew s a.crew (fun c => setTrk c t { getTrk c t with
      out := (getTrk c t).out - 1, lct := max (getTrk c t).lct (r.ct.getD 0) })

/-- The bytes of a line after a fill: DIRTY bytes stay (R182). -/
def filledData (x : L1Line) (r : Answer) : Cells Byte :=
  (List.range 128).foldl (fun m o =>
    if x.dirty.getLsbD o then m else cset 0#8 m o (((r.bytes.lookup o).getD 0#64).setWidth 8)) x.data

/-- The poison marks of a line after a fill: a word that stands DIRTY as a whole has none (R355). -/
def filledPoison (x : L1Line) (r : Answer) : Nat :=
  (List.range 16).foldl (fun m w =>
    if (List.range 8).all (fun i => x.dirty.getLsbD (8 * w + i)) && m.testBit w then m - 2 ^ w else m) r.poison

/-- A fill taken by L1 under its lease (R182, R187); reads of the line that were performed before it fill no more (R332). None when
it waits for the line's place. -/
def fillL1 (first : Bool) (a : Access) (r : Answer) (s : State) : Option State :=
  match r.lease with
  | none => some s
  | some e => (makeRoom a.core a.line s).map (fun t =>
    let x := getL1 t a.core a.line
    let y : L1Line := { x with
      filled := true, lease := e, data := filledData x r, first := x.first || first, poison := filledPoison x r,
      key := if x.dirty = 0#128 then a.key else x.key, vault := if x.dirty = 0#128 then a.vault else x.vault }
    let olds := (t.net.takeWhile (fun b => b.id != a.id)).filter (samePath a)
    setL1 { t with net := updIf (fun (b : Access) => olds.any (fun o => o.id == b.id)) outdated t.net } a.core a.line y)

/-- Whether an earlier atomic of the core that is performed in L1 waits for the same line (R206), or a lower lane of the same
atomic is still to be performed (R204). -/
def atomBefore (s : State) (a : Access) : Bool :=
  laneWaits s a ||
    (s.net.takeWhile (fun b => b.id != a.id)).any (fun b => samePath a b && b.local && !sameUnit s a b)

/-- An atomic performed in L1 when its line has come (R206): the old value answers the load. None when the fill or the store
waits (R187). -/
def atomL1 (fn n off : Nat) (v c : W64) (a : Access) (r : Answer) (s : State) : Option State :=
  (fillL1 false a r s).bind (fun t =>
    let x := getL1 t a.core a.line
    let now := if r.lease.isSome then x.data else filledData x r
    let old := leNat (cgetList 0#8 now off n)
    (if atomWrites fn then
        putDirty a.core a.crew (a.trk.getD 15) a.key a.vault false (128 * a.line + off)
          (leBytes n (atomNew fn n old v.toNat c.toNat)) t
      else some t).map
      (updAccess a.id (fun y => { y with back := true, ans := some { r with bytes := byteCells 0 (leBytes n old) } })))

/-- A lane of an atomic has been performed in its core, with its old value. -/
def performedHere (a : Access) (n old : Nat) (s : State) : State :=
  updAccess a.id (fun y => { y with
    back := true, ans := some { bytes := byteCells 0 (leBytes n old), lease := none, ct := none, poison := 0, failed := false } }) s

/-- A lane of an atomic performed at the scratchpad (R201, R206), unless it would write a barrier word by now (R180). -/
def scratchStep (fn n off : Nat) (v c : W64) (a : Access) (s : State) : State :=
  match findCrew s a.crew with
  | none => s
  | some cr =>
    let old := scrNat cr off n
    if atomWrites fn && touchesBar cr off n then killFor 0x0C 0#64 0#64 a s
    else performedHere a n old (if atomWrites fn then
      updCrew s a.crew (scrWrite off (leBytes n (atomNew fn n old v.toNat c.toNat))) else s)

/-- Whether L1 holds `n` bytes of a line live (R182). -/
def liveL1 (s : State) (core line off n : Nat) : Bool :=
  let x := getL1 s core line
  (List.range n).all (fun i => x.dirty.getLsbD (off + i)) || (x.filled && decide (timeOf s < x.lease))

/-- A lane of an atomic whose line stood in L1 at issue: performed there, or where the line has gone by now, after it has come
again (R206). None when it has to wait (R187). -/
def lineStep (fn n off : Nat) (v c : W64) (a : Access) (s : State) : Option State :=
  let trk := a.trk.getD 15
  if liveL1 s a.core a.line off n then
    let old := leNat (cgetList 0#8 (getL1 s a.core a.line).data off n)
    if lineMarked (getL1 s a.core a.line).poison off n then some (killFor 0x11 5#64 0#64 a s)
    else (if atomWrites fn then
        putDirty a.core a.crew trk a.key a.vault false (128 * a.line + off) (leBytes n (atomNew fn n old v.toNat c.toNat)) s
      else some s).map (performedHere a n old)
  else if outRoom s a.crew trk then
    let own := ((findCrew s a.crew).map (fun x => (x.stores.filter (fun y => y.accs.contains a.id)).flatMap (·.accs))).getD []
    let t := bumpOut a.crew trk (· + 1) (overtake own a.core a.line s)
    let lease := ((findCrew s a.crew).map (fun x => (getTrk x trk).lease)).getD 0
    some { t with net := t.net.filter (fun b => b.id != a.id) ++
      [{ a with op := .read lease, use := .atom fn n off v c, sent := timeOf s }] }
  else none

/-- The place that an access of a core reaches at its home, as Ember numbers it (R415). -/
def placeLevel (s : State) (core line : Nat) : Nat :=
  let pa := 128 * line
  let own := clusterOf core
  let tier := match paHandle s pa with
    | some h => (h.tier, h.vault)
    | none => (match paKind pa with
      | 0 => 1
      | 1 => 0
      | k => k, paVault pa)
  if remoteLine line then 11
  else if tier.1 = 0 then (if tier.2 = own then 3 else if tier.2 / 8 = own / 8 then 4 else 5)
  else if (homeLine s line).present then 6
  else match tier.1 with
    | 1 => if tier.2 = own then 7 else 8
    | 2 => 9
    | _ => 10

/-- Whether an access is one of a lane of a tagged unit (R415). -/
def ofTag (a : Access) (g : EmberTag) : Bool :=
  let lane := match a.use with
    | .writedown => false
    | .copy _ => false
    | _ => true
  lane && g.crew == a.crew && decide (g.lo ≤ a.id) && (g.hi.map (fun n => decide (a.id < n))).getD true
    && g.part / 2 ^ 43 % 32 == a.wave && g.part / 2 ^ 39 % 16 == a.part

/-- A tagged unit's access reaches a place (R415). -/
def noteReach (level : Nat) (a : Access) (s : State) : State :=
  let c := getCore s a.core
  let hit := fun (e : Ember) => (e.tag.map (ofTag a)).getD false
  if c.ember.any (fun x => hit x.2) then
    setCore s a.core { c with ember := c.ember.map (fun x =>
      if hit x.2 then (x.1, { x.2 with tag := x.2.tag.map (fun g => { g with level := max g.level level }) }) else x) }
  else s

/-- HOME_ACCESS (R288): an access that has arrived is performed; a lane of an atomic that is performed in its core, once its turn
has come (R204). -/
def execHomeAccess (id : Nat) (s : State) : Host.Outcome State Fault Refusal :=
  .next (match s.net.find? (fun a => a.id == id && a.ans.isNone) with
    | none => s
    | some a => match a.use with
      | .here scr fn n off v c =>
        if atomBefore s a then s
        else if scr then scratchStep fn n off v c a s
        else (lineStep fn n off v c a s).getD s
      | _ => if homeReady s a then homeStep a (noteReach (placeLevel s a.core a.line) a s) else s)

/-- A peer's answer dates a write of the hub: what waits for the write, a host's notify (R397) or the hand-over of a ray (R300),
waits until TIME has reached its completion time. -/
def dated (a : Access) (ct : Nat) (s : State) : State :=
  let late := fun (r : Ray) => if r.pa / 128 = a.line ∧ r.bytes ≠ [] then { r with ready := max r.ready ct } else r
  { s with rays := s.rays.map late, pkg := if a.ctx = noCtx then { s.pkg with hostCt := max s.pkg.hostCt ct } else s.pkg }

/-- An answer arrives at its core (R187); a fill that waits for its place in L1 waits with it. -/
def takeAnswer (a : Access) (r : Answer) (s : State) : State :=
  let home := updAccess a.id (fun x => { x with back := true })
  match a.use with
  | .atom fn n off v c =>
    if atomBefore s a then s
    else if a.stale then
      { s with net := s.net.filter (fun b => b.id != a.id) ++ [{ a with ans := none, stale := false, sent := timeOf s }] }
    else ((atomL1 fn n off v c a r (answerTrk a r s)).map tidy).getD s
  | .fill first =>
    if r.failed then tidy (home (answerTrk a r s))
    else ((fillL1 first a r (answerTrk a r s)).map (fun t => tidy (home t))).getD s
  | _ => tidy (home (answerTrk a r (if a.core = hubCore then dated a (r.ct.getD 0) s else s)))

/-- ACCESS_ANSWER (R187). -/
def execAccessAnswer (id : Nat) (s : State) : Host.Outcome State Fault Refusal :=
  .next (match s.net.find? (fun a => a.id == id && !a.back) with
    | none => s
    | some a => match a.ans with
      | none => s
      | some r => takeAnswer a r s)

/-! ### Loads (R195) -/

/-- The bytes of a load's lane, once they are at hand. -/
def LaneLoad.bytes (s : State) (n : Nat) (x : LaneLoad) : Option (List Byte) :=
  if x.acc = 0 then some ((List.range n).map (fun i => ((x.fixed.lookup i).getD 0#64).setWidth 8))
  else ((s.net.find? (fun a => a.id == x.acc && a.back)).bind (·.ans)).map (fun r => (List.range n).map (fun i =>
    match x.fixed.lookup i with
    | some b => b.setWidth 8
    | none => ((r.bytes.lookup (x.off + i)).getD 0#64).setWidth 8))

/-- The value of word `i` of a lane's bytes in its register (R194). -/
def loadWord (n : Nat) (sext : Bool) (bs : List Byte) (i : Nat) : W32 :=
  if n < 4 then (if sext then w32 (signedOf (8 * n) (leNat bs)) else BitVec.ofNat 32 (leNat bs)) else word32 bs i

/-- A lane's bytes written to the load's destination (R194, R111). -/
def writeLoad (l : Load) (lane : Nat) (bs : List Byte) (s : State) : State :=
  match l.kind with
  | .scalar _ => wrS 0 l.reg (BitVec.ofNat 64 (leNat bs)) s
  | .vec n sext => (List.range (max 1 (n / 4))).foldl (fun t i =>
      wrV 0 (l.reg + i) [lane] (fun _ => loadWord n sext bs i) t) s

/-- The lanes of a load whose data is at hand are written; a load with none left is over. An acquire goes on until the loads
before it are over too (R212). -/
def returnLoad (l : Load) (s : State) : State :=
  let n := l.kind.size
  let t := l.lanes.foldl (fun u x => match x.bytes s n with
    | some bs => writeLoad l x.lane bs u
    | none => u) s
  let left := l.lanes.filter (fun x => (x.bytes s n).isNone)
  let open_ := fun (y : Load) => if l.acq ∧ y.id < l.id then { y with acq := true } else y
  let loads := if left = [] then (t.part.loads.filter (fun (y : Load) => y.id != l.id)).map open_
    else updIf (fun (y : Load) => y.id == l.id) (fun (y : Load) => { y with lanes := left }) t.part.loads
  { t with part := { t.part with loads := loads } }

/-- The part that `p` names, when it is in a crew on a core, with the fuses of earlier cycles evaluated (R52). -/
def livePart (p : PartRef) (s : State) : Option State :=
  let u := focusCrew s p.crew
  let t := focus (settleCrew (now u) u) p
  if t.crew.cid = p.crew ∧ t.crew.cond = .resident ∧ t.wave.widx = p.wave ∧ t.part.quads ≠ 0 ∧ lowBit t.part.quads = p.part then
    some t
  else none

/-- LOAD_DATA_RETURN (R195, R32). -/
def execLoadDataReturn (p : PartRef) (load : Nat) (s : State) : Host.Outcome State Fault Refusal :=
  .next (match livePart p s with
    | none => s
    | some t => match t.part.loads.find? (fun l => l.id == load) with
      | none => s
      | some l => if l.lanes.any (fun x => (x.bytes t l.kind.size).isSome) then tidy (returnLoad l t) else s)

/-! ### Stores and releases (R184, R162, R211) -/

/-- Whether an access of a store or an atomic is still on its way to where it is performed. -/
def onWay (s : State) (id : Nat) : Bool :=
  s.net.any (fun a => a.id == id && (a.ans.isNone || (!a.back && (match a.use with
    | .atom .. => true
    | _ => false))))

/-- STORE_ACCEPTED (R184): the store's bytes stand in L1 or at their homes. -/
def execStoreAccepted (crew id : Nat) (s : State) : Host.Outcome State Fault Refusal :=
  let t := focusCrew s crew
  .next (match t.crew.stores.find? (fun x => x.id == id) with
    | none => s
    | some x =>
      if t.crew.cid = crew ∧ t.crew.cond = .resident ∧ x.fault = none ∧ x.accs.any (onWay t) = false then
        { t with crew := { t.crew with stores := t.crew.stores.filter (fun y => y.id != id) } }
      else s)

/-- STORE_FAULT_REPORT (R162): a part's faults are reported in the order of its stores (R161), and of the parts of a crew in
one cycle in the order of R201 (R280). -/
def execStoreFaultReport (crew id : Nat) (s : State) : Host.Outcome State Fault Refusal :=
  let t := focusCrew s crew
  .next (match t.crew.stores.find? (fun x => x.id == id) with
    | none => s
    | some x => match x.fault with
      | none => s
      | some re =>
        let older := t.crew.stores.any (fun y => y.wave == x.wave && y.part == x.part && y.fault.isSome && decide (y.id < x.id))
        if t.crew.cid = crew ∧ t.crew.cond = .resident ∧ older = false ∧ turnFree (16 * x.wave + x.part) t = true then
          takeTurn (16 * x.wave + x.part + 1) (reportStore x re t)
        else s)

/-- FENCE_RELEASE_COMPLETE (R211 step 4). -/
def execFenceReleaseComplete (p : PartRef) (s : State) : Host.Outcome State Fault Refusal :=
  .next (match livePart p s with
    | none => s
    | some t => match t.part.wait with
      | .release accs ords mask =>
        if released accs ords (maskTrks mask) t then { t with part := { t.part with wait := .none, relDone := true } }
        else s
      | _ => s)

end Sys2Proof.Machine
end

