-- ==== Sys2Proof/Machine/Fabric.lean ====
section
/-! DEFINITION. The fabric: ports and flits (R428, R431, R437), answers and failures of remote accesses (R430, R432, R434),
accesses of peers (R432), the timebase (R433), quotes and caps from peers (R436). -/

namespace Sys2Proof.Machine

/-- Whether a port is used and up, in a module that runs. -/
def portUp (s : State) (p : Nat) : Bool := s.pkg.powered && s.pkg.booted && (getPort s p).up

/-- FLIT_CRC_REPLAY (R428): the link replays the flit, and the receiver takes it once: nothing else changes. -/
def execFlitCrcReplay (_port : Nat) (s : State) : Host.Outcome State Fault Refusal := .next s

/-! ### Failures (R432) -/

/-- The lower of two faulting lanes with its address. -/
def lowerLane (a b : Option (Nat × Nat)) : Option (Nat × Nat) :=
  match a, b with
  | some x, some y => if x.1 ≤ y.1 then a else b
  | some _, none => a
  | none, _ => b

/-- A store whose remote write has failed: it will be reported with REASON 2 and the address of its lowest faulting lane
(R279), when its other lines are answered; what the peers of those lines accept stands (log 51). A dump's block sets FAULT, and
no byte of it counts as written (R427). -/
def failStore (a : Access) (s : State) : State :=
  let mark := fun (x : PStore) =>
    if x.accs.contains a.id then
      let who := if x.sst then [] else a.who
      let old := if x.fault.isSome then (lowLane x.lanes).map (fun l => (l, x.addr.toNat)) else none
      let low := a.who.foldl (fun m y => lowerLane m (some y)) old
      { x with fault := some 2, accs := x.accs.filter (· != a.id), addr := BitVec.ofNat 64 ((low.map (·.2)).getD 0),
               lanes := x.lanes ||| (if x.sst then maskOf (fun l => l == a.part * 4) else maskOf (fun l => who.any (fun y => y.1 == l))) }
    else x
  updCrew s a.crew (fun c => { c with
    stores := c.stores.map mark,
    dump := if c.stores.any (fun x => x.accs.contains a.id) then c.dump
      else c.dump.map (fun (d : Dump) =>
        if d.phase = 1 then { d with fault := true, bytes := (d.bytes - 1) / 256 * 256 }
        else if d.phase = 2 then { d with fault := true } else d) })

/-- The crew of a failed access killed with cause 0x0A and an access record with REASON 2 (R391). -/
def failKill (akind : Nat) (a : Access) (s : State) : State :=
  let t := focusCrew s a.crew
  if t.crew.cid ≠ a.crew ∨ t.crew.cond = .absent then s
  else
    let engine := akind = 1
    let first := match a.op with
      | .write bs => bs.foldl (fun (m : Nat) x => min m x.1) 127
      | _ => 0
    let low := a.who.foldl (fun (m : Nat) y => min m y.2) ((a.who.head?.map (·.2)).getD (128 * a.line + first))
    let lanes := maskOf (fun l => a.who.any (fun y => y.1 == l))
    killCrew false { cause := 0x0A, info := 0#64, addr := BitVec.ofNat 64 low, pc := if engine then 0#64 else pcField a.pc,
                     widx := if engine then 0 else a.wave, pidx := if engine then 0 else a.part,
                     access := [{ addr := BitVec.ofNat 64 low, lanes := lanes, akind := akind, reason := 2 }], regs := none } t

/-- An access that a peer refuses, or does not answer in time, fails (R432): a load or an atomic and a write-down kill, a
store reports, and a copy or a unit finds the failure in its answer; a prefetch is dropped (R198). -/
def failAccess (a : Access) (s : State) : State :=
  let r : Answer := { bytes := [], lease := none, ct := none, poison := 0, failed := true }
  let drop := fun (t : State) => { answerTrk a r t with net := t.net.filter (fun b => b.id != a.id) }
  let waits := neededBy s { a with ans := some r, back := true }
  let push := match wholeCrew s a.crew with
    | some c => match c.slice.push with
      | some (_, bs) => bs.any (fun b => b.1 == a.id)
      | none => false
    | none => false
  match a.use with
  | .copy _ => updAccess a.id (fun x => { x with ans := some r, back := true }) (answerTrk a r s)
  | .unit _ => updAccess a.id (fun x => { x with ans := some r, back := true }) (answerTrk a r s)
  | .writedown => failKill 1 a (drop s)
  | .ahead _ => failKill 1 a (drop s)
  | .store => failStore a (drop s)
  | .load =>
    if push then updAccess a.id (fun x => { x with ans := some r, back := true }) (answerTrk a r s)
    else if waits || a.isAtomic then failKill (if a.op.isRead then 0 else 2) a (drop s)
    else drop s
  | .fill _ => if waits then failKill 0 a (drop s) else drop s
  | .atom .. => failKill 2 a (drop s)
  | .here .. => s

/-- REMOTE_ACCESS_TIMEOUT (R432): 200 µs without an answer. -/
def execRemoteAccessTimeout (id : Nat) (s : State) : Host.Outcome State Fault Refusal :=
  .next (match s.net.find? (fun a => a.id == id && a.ans.isNone) with
    | none => s
    | some a => if remoteLine a.line ∧ a.sent + 200000 ≤ timeOf s then failAccess a s else s)

/-! ### SOFS (R433) -/

/-- How far the change of SOFS that is under way has come: its rate times the time since it began, up to the whole of it. -/
def slewedBy (s : State) : Nat := min s.fabric.aim.natAbs ((timeOf s - s.fabric.slewed) * s.fabric.rate / 1000000)

/-- SOFS as it stands now: it changes by slewing alone. -/
def sofsOf (s : State) : Int :=
  s.fabric.sofs + (if s.fabric.aim < 0 then -((slewedBy s : Nat) : Int) else ((slewedBy s : Nat) : Int))

/-! ### Answers (R434) -/

/-- A time of the home's TIME in local TIME, moved by 250 ns as the rule says. -/
def localTime (t : Nat) (home own move : Int) : Nat := ((t : Int) + home - own + move).toNat

/-- A peer's answer as the requester's port hands it on. -/
def convert (a : Access) (x : PeerAnswer) (s : State) : Answer :=
  let own := sofsOf s
  let read := a.op.isRead
  let off := if read then 0 else a.off
  { bytes := if x.bytes = [] then [] else byteCells off (if read then sliceOf 0#8 x.bytes 0 128 else x.bytes),
    lease := if read then x.lease.map (fun e => localTime e x.sofs own (-250)) else none,
    ct := if read then none else x.time.map (fun t => localTime t x.sofs own 250), poison := 0, failed := false }

/-- REMOTE_ANSWER (R434): the answer goes on to the core (ACCESS_ANSWER); a refusal fails the access. The peer's home has performed
it, which an access that its part or its unit performs before it has to be first (R204, R338). -/
def execRemoteAnswer (id : Nat) (answer : PeerAnswer) (s : State) : Host.Outcome State Fault Refusal :=
  .next (match s.net.find? (fun a => a.id == id && a.ans.isNone) with
    | none => s
    | some a =>
      if remoteLine a.line = false ∨ a.port = 16 ∨ inOrder s a = false then s
      else if answer.refused then failAccess a s
      else updAccess id (fun x => { x with ans := some (convert a answer s) }) s)

/-! ### Accesses of peers (R430, R432) -/

/-- The bytes that a peer's access touches. -/
def peerSize : PeerOp → Nat
  | .read n _ => n
  | .write bs => bs.length
  | .atomic _ wide _ _ => if wide then 8 else 4

/-- The inbound window that lets an access in: its key id and the context charged. -/
def inboundFor (x : PeerAccess) (s : State) : Option (Nat × Nat) :=
  let n := peerSize x.op
  (List.range 16).findSome? (fun i =>
    let w := cget (0#64, 0#64, 0#64) s.fabric.inbound i
    let peer := bfield w.2.2 47 32
    let rights := match x.op with
      | .read .. => w.2.2.getLsbD 61
      | .write _ => w.2.2.getLsbD 62
      | .atomic .. => w.2.2.getLsbD 61 && w.2.2.getLsbD 62
    if w.2.2.getLsbD 63 && (peer == 0xFFFF || peer == x.peer) && rights && decide (w.1.toNat ≤ x.pa ∧ x.pa + n ≤ w.1.toNat + w.2.1.toNat)
        && (List.range n).all (fun j => isMem s (x.pa + j)) then some (bfield w.2.2 57 48, bfield w.2.2 5 0)
    else none)

/-- An answer to a peer, as the model packs it: 1 for a refusal, the data, the lease expiry, the completion time, SOFS
(log 30). -/
def answerFlit (refused : Bool) (data : List Byte) (lease ct : Nat) (s : State) : List Byte :=
  leBytes 1 refused.toNat ++ data ++ leBytes 8 lease ++ leBytes 8 ct ++ bytes64 (w64 (sofsOf s))

/-- An inbound access performed at its home. -/
def peerPerform (port key ctx : Nat) (x : PeerAccess) (s : State) : State :=
  match x.op with
  | .read n q =>
    let r := homeFill ctx (x.pa / 128) q s
    sendFlit port (answerFlit false (memRead s key x.pa n) (r.2.getD 0) 0 s) { r.1 with free := s.free + 1 }
  | .write bs =>
    let r := homeWrites ctx key x.pa bs s
    sendFlit port (answerFlit false [] 0 r.2 s) r.1
  | .atomic fn wide v c =>
    let n := if wide then 8 else 4
    let old := leNat (memRead s key x.pa n)
    let r := if atomWrites fn then homeWrite ctx key x.pa (leBytes n (homeNew fn n old v.toNat c.toNat)) s
      else
        let t := present ctx (x.pa / 128) s
        (t, max (timeOf s) ((homeLine t (x.pa / 128)).h + 8))
    sendFlit port (answerFlit false (leBytes n old) 0 r.2 s) (notedAtom (x.pa / 128) r.1)

/-- INBOUND_ACCESS (R432): an access that no inbound window lets in is refused; one to a line that a copy owns waits
(R292). -/
def execInboundAccess (port : Nat) (access : PeerAccess) (s : State) : Host.Outcome State Fault Refusal :=
  let n := peerSize access.op
  let lines := (List.range ((access.pa + n - 1) / 128 - access.pa / 128 + 1)).map (fun i => access.pa / 128 + i)
  .next (if portUp s port = false then s
    else match inboundFor access s with
      | none => sendFlit port (answerFlit true [] 0 0 s) s
      | some (key, ctx) =>
        let atomic := match access.op with
          | .atomic .. => true
          | _ => false
        if unowned s lines && !(atomic && leasedNow s (access.pa / 128)) then peerPerform port key ctx access s else s)

/-! ### The timebase (R433, R437) -/

/-- STIME. -/
def stimeOf (s : State) : Int := (timeOf s : Int) + sofsOf s

/-- SYNC_FLIT_SEND (R433): every 1 ms, a sync flit on each up port. -/
def execSyncFlitSend (s : State) : Host.Outcome State Fault Refusal :=
  .next (if timeOf s < s.fabric.nextSync then s
    else (List.range 16).foldl (fun t p => if portUp t p then sendFlit p (bytes64 (w64 (stimeOf s))) t else t)
      { s with fabric := { s.fabric with nextSync := timeOf s + 1000000 } })

/-- SYNC_FLIT_RECEIVE (R433): from now on SOFS is slewed toward the sender's STIME, at a rate of at most 50 ppm; the rate, and how
much of the gap it closes, are free (log 38). -/
def execSyncFlitReceive (port : Nat) (stime : BitVec 64) (s : State) : Host.Outcome State Fault Refusal :=
  .next (if portUp s port = false then s
    else
      let gap : Int := stime.toInt - stimeOf s
      let step : Int := ((Config.freeNat 16 s.free % (gap.natAbs + 1) : Nat) : Int)
      let t := setPort port { getPort s port with lastSync := timeOf s } { s with free := s.free + 1 }
      { t with fabric := { t.fabric with
        sofs := sofsOf s, slewed := timeOf s, aim := if gap < 0 then -step else step, rate := Config.freeNat 52 s.free % 51 } })

/-- PORT_SYNC_TIMEOUT (R433, R437): a port without a sync flit for 10 ms fails its accesses and is taken down. -/
def execPortSyncTimeout (port : Nat) (s : State) : Host.Outcome State Fault Refusal :=
  .next (if portUp s port = false ∨ timeOf s < (getPort s port).lastSync + 10000000 then s
    else
      let fail := fun (t : State) (id : Nat) => match t.net.find? (fun b => b.id == id && b.ans.isNone) with
        | some a => failAccess a t
        | none => t
      let t := ((s.net.filter (fun a => a.ans.isNone && a.port == port && remoteLine a.line)).map (·.id)).foldl fail s
      setPort port { getPort t port with up := false } t)

/-! ### Quotes and caps (R436) -/

/-- The oldest quote request of a port answered: 69 flits of at most 256 bytes. -/
def answerQuote (port : Nat) (s : State) : State :=
  let x := getPort s port
  match x.quotes with
  | [] => s
  | nonce :: rest =>
    let q := quoteBytes nonce s
    let flits := (List.range 69).map (fun i => sliceOf 0#8 q (256 * i) 256)
    setPort port { x with quotes := rest, sent := x.sent ++ flits } { s with free := s.free + 1 }

/-- QUOTE_REQUEST_FLIT (R436): up to 4 requests are held, and a fifth is answered busy. When those held are answered is
free. -/
def execQuoteRequestFlit (port : Nat) (nonce : List Byte) (s : State) : Host.Outcome State Fault Refusal :=
  .next (if portUp s port = false ∨ s.pkg.halted = true then s
    else
      let t := (List.range (Config.freeNat 17 s.free % 5)).foldl (fun u _ => answerQuote port u) { s with free := s.free + 1 }
      let x := getPort t port
      if 4 ≤ x.quotes.length then sendFlit port [1#8] t
      else setPort port { x with quotes := x.quotes ++ [sliceOf 0#8 nonce 0 32] } t)

/-- POWER_CAP_FLIT (R408, R436): accepted from a port set in CAPSRC. -/
def execPowerCapFlit (port : Nat) (cap : CapMessage) (s : State) : Host.Outcome State Fault Refusal :=
  .next (if portUp s port ∧ s.fabric.capsrc.testBit port = true ∧ s.pkg.halted = false then acceptCap cap s else s)

end Sys2Proof.Machine
end

