-- ==== Sys2Proof/Machine/Fetch.lean ====
section
/-! DEFINITION. Instruction fetch: translation at use (R384), the instruction caches (R125), the hint run and the word it
falls through to (R63, R69). -/

namespace Sys2Proof.Machine

/-- Why a fetch fails: outside the global window (R113), translation or X (R384), a poisoned word (R355); or that it waits, for a
line that a copy owns (R292, R383). -/
inductive FetchFail where
  | outside
  | refused (reason : Nat)
  | poison
  | owned
  deriving DecidableEq, Repr

/-- A fetch that brings no word: why, and the address of the word. -/
structure FetchStop where
  why : FetchFail
  pc  : W64
  deriving DecidableEq, Repr

/-- The page that a fetch of the crew in focus uses: the translation it holds, or the one the tables give now; where they
differ the choice is free (R384). -/
def fetchPage (va : Nat) (s : State) : Option Page :=
  match pageOf s.crew.fetch va, walk s s.crew.ctx va with
  | some h, new => if new.any h.same then some h else if Config.freeBool 20 s.free then some h else new
  | none, new => new

/-- The word at a physical address: the one that the core's instruction cache holds, or the one in memory; where they
differ the choice is free until an ICINV (R125). -/
def fetchAt (core key pa : Nat) (s : State) : W32 :=
  let new := BitVec.ofNat 32 (leNat (memRead s key pa 4))
  match cget none (getCore s core).icache pa with
  | some old => if old.word = new then new else if Config.freeBool 21 s.free then old.word else new
  | none => new

/-- A page held by the crew in focus for its fetches. -/
def holdPage (p : Page) (s : State) : State :=
  let old := s.crew.fetch
  { s with crew := { s.crew with fetch := if old.any p.same then old else p :: old.filter (fun q => q.va != p.va) } }

/-- A word that an instruction cache takes, fetched at a virtual address of a context. -/
def cacheWord (core pa ctx va : Nat) (w : W32) (s : State) : State :=
  let seen := match cget none (getCore s core).icache pa with
    | some x => if x.word = w then x.at_.filter (fun y => y != (ctx, va)) else []
    | none => []
  setCore s core { getCore s core with
    icache := cset none (getCore s core).icache pa (some { word := w, at_ := (ctx, va) :: seen }) }

/-- The lines that a fetch reads at their homes for its translation: the table entries, when the crew in focus does not hold the
page (R383, R384). -/
def fetchTables (va : Nat) (s : State) : List Nat :=
  if (pageOf s.crew.fetch va).isSome then [] else tableLines s s.crew.ctx va

/-- The line that a fetch reads at its home: the word's, when the instruction cache does not hold the word (R125, R293). -/
def fetchLine (pa : Nat) (s : State) : List Nat :=
  if (cget none (getCore s s.crew.core).icache pa).isSome then [] else [pa / 128]

/-- One word fetched by the crew in focus, with the caches as they stand afterwards. Each word is fetched for itself: which of an
old and a new word it is, is free (R423). -/
def fetchWord (pc : W64) (s : State) : Except FetchStop (W32 × State) :=
  let va := pc.toNat
  let stop := fun (e : FetchFail) => (.error { why := e, pc := pc } : Except FetchStop (W32 × State))
  if 2 ^ 56 ≤ va then stop .outside
  else if unowned s (fetchTables va s) = false then stop .owned
  else match fetchPage va s with
    | none => stop (.refused 1)
    | some p =>
      let pa := p.phys va
      if p.x = false then stop (.refused 2)
      else if unowned s (fetchLine pa s) = false then stop .owned
      else if poisoned s pa 4 then stop .poison
      else
        let w := fetchAt s.crew.core p.key pa s
        let t := bring s.crew.ctx (fetchTables va s ++ fetchLine pa s) { s with free := s.free + 1 }
        .ok (w, cacheWord t.crew.core pa t.crew.ctx va w (holdPage p t))

/-- A unit fetched from an address on: its hints, its word, and the state after the fetch. -/
def fetchUnit : Nat → List Hint → W64 → State → Except FetchStop (List Hint × W32 × State)
  | 0, hs, _, s => .ok (hs, 0#32, s)
  | n + 1, hs, pc, s =>
    match fetchWord pc s with
    | .error e => .error e
    | .ok (w, t) => if isHint w then fetchUnit n (hs ++ [decodeHint w]) (pc + 4#64) t else .ok (hs, w, t)

/-- How many words a fetch may follow a hint run: the run leaves the global window before (R113, R163). -/
def fetchLimit : Nat := 2 ^ 54 + 1

/-- Where the agent in focus fetches: the part's PC, or the slice's (R240). -/
def fetchPc (s : State) : W64 :=
  match s.agent with
  | .wave => s.part.pc
  | .sparge => s.crew.slice.pc

/-- The unit that the agent in focus issues next. -/
def nextUnit (s : State) : Except FetchStop (List Hint × W32 × State) := fetchUnit fetchLimit [] (fetchPc s) s

/-- A failing fetch (R113, R384, R355): the crew is killed, with cause 0x0D, 0x0A or 0x11, and the address of the word that failed
(R391). A fetch that waits changes nothing. -/
def fetchKill (e : FetchStop) (s : State) : State :=
  let pc := pcField (fetchPc s)
  let part : Nat × Nat := match s.agent with
    | .wave => (s.wave.widx, lowBit s.part.quads)
    | .sparge => (0, 0)
  let k : Kill := { cause := 0x0A, info := 0#64, addr := e.pc, pc := pc, widx := part.1, pidx := part.2,
                    access := [], regs := none }
  match e.why with
  | .owned => s
  | .outside => killCrew false { k with cause := 0x0D } s
  | .refused n =>
    killCrew false { k with access := [{ addr := e.pc, lanes := 0#64, akind := 3, reason := n }] } s
  | .poison => killCrew false { k with cause := 0x11, info := 5#64, addr := 0#64 } s

/-- FETCH_FAILURE (R384, R113): the fetch of the agent in focus fails in the way named. -/
def execFetchFailure (outside : Bool) (s : State) : Host.Outcome State Fault Refusal :=
  let may := match s.agent with
    | .wave => canIssue s
    | .sparge => s.crew.cond == .resident
  .next (match nextUnit s with
    | .ok _ => s
    | .error e => if may && (e.why == .outside) == outside then fetchKill e s else s)

/-- ILLEGAL_INSTRUCTION (R71, R72): a unit whose hints or word are refused before it is an instruction. -/
def execIllegalInstruction (r : Run) (e : Reject) (s : State) : Host.Outcome State Fault Refusal :=
  .next (boundary r (fun t => trap (rejectTrap e t) r t) s)

end Sys2Proof.Machine
end

