-- ==== Sys2Proof/Machine/Gfx.lean ====
section
/-! DEFINITION. Raster, reprojection and texture sampling: GFX (R321 to R323). -/

namespace Sys2Proof.Machine

/-- A GFX word. -/
def opGfx (fn : Nat) (r : Run) (d a b : BitVec 7) (uses : List Use) : Op := Op.plain (wRRR 24 r d a b fn) r 0 uses

/-! ### RAST (R321) -/

/-- A vertex: X and Y in 16.8 fixed point. -/
def vertex (x : W64) : Int × Int := (signedOf 32 (bfield x 31 0), signedOf 32 (bfield x 63 32))

/-- The edge function opposite vertex `k` at a point. -/
def edgeAt (v : List (Int × Int)) (k : Nat) (p : Int × Int) : Int :=
  let i := v[(k + 1) % 3]?.getD (0, 0)
  let j := v[(k + 2) % 3]?.getD (0, 0)
  (j.1 - i.1) * (p.2 - i.2) - (j.2 - i.2) * (p.1 - i.1)

/-- Twice the signed area, in the units of the edge functions. -/
def triArea (v : List (Int × Int)) : Int := edgeAt v 0 (0, 0) + edgeAt v 1 (0, 0) + edgeAt v 2 (0, 0)

/-- Whether the edge opposite vertex `k`, oriented so that the area is positive, is a top-left edge. -/
def topLeft (v : List (Int × Int)) (k : Nat) : Bool :=
  let i := v[(k + 1) % 3]?.getD (0, 0)
  let j := v[(k + 2) % 3]?.getD (0, 0)
  let f := if triArea v < 0 then j else i
  let t := if triArea v < 0 then i else j
  decide (t.2 < f.2) || (decide (t.2 = f.2) && decide (f.1 < t.1))

/-- The centre of a pixel. -/
def centre (x y : Nat) : Int × Int := (256 * (x : Int) + 128, 256 * (y : Int) + 128)

/-- Whether a triangle covers a pixel. -/
def covers (v : List (Int × Int)) (x y : Nat) : Bool :=
  (List.range 3).all (fun k =>
    let e := (if triArea v < 0 then -1 else 1) * edgeAt v k (centre x y)
    decide (0 < e) || (decide (e = 0) && topLeft v k))

/-- The pixels, from 0 to 16,383, whose centres lie between two coordinates: the first, and one past the last. -/
def pixelSpan (lo hi : Int) : Nat × Nat :=
  let a := (clampInt ((lo + 127) / 256) 0 16384).toNat
  let b := (clampInt ((hi - 128) / 256 + 1) 0 16384).toNat
  (a, b)

/-- The first covered pixel at position `n` of the box or after it, in `fuel` positions: y ascending, then x ascending. -/
def nextCovered (v : List (Int × Int)) (x0 w y0 : Nat) : Nat → Nat → Option (Nat × Nat)
  | 0, _ => none
  | fuel + 1, n => if covers v (x0 + n % w) (y0 + n / w) then some (x0 + n % w, y0 + n / w) else nextCovered v x0 w y0 fuel (n + 1)

/-- The box of a triangle: first x, width, first y, height. -/
def triBox (v : List (Int × Int)) : Nat × Nat × Nat × Nat :=
  let low := fun (l : List Int) => l.foldl min (l.head?.getD 0)
  let high := fun (l : List Int) => l.foldl max (l.head?.getD 0)
  let xs := pixelSpan (low (v.map (·.1))) (high (v.map (·.1)))
  let ys := pixelSpan (low (v.map (·.2))) (high (v.map (·.2)))
  (xs.1, xs.2 - xs.1, ys.1, ys.2 - ys.1)

/-- The first covered pixel whose index y 2^14 + x is at least `idx`. -/
def coveredFrom (v : List (Int × Int)) (idx : Nat) : Option (Nat × Nat) :=
  let (x0, w, y0, h) := triBox v
  let x := idx % 2 ^ 14
  let y := idx / 2 ^ 14
  let n := if y < y0 then 0 else if x < x0 then (y - y0) * w else if x0 + w ≤ x then (y - y0 + 1) * w else (y - y0) * w + (x - x0)
  if w = 0 ∨ triArea v = 0 then none else nextCovered v x0 w y0 (w * h - n) n

/-- The index of a pixel. -/
def pixelIndex (p : Nat × Nat) : Nat := p.2 * 2 ^ 14 + p.1

/-- The covered pixels that the lanes receive, one each, and the one after them. -/
def samples (v : List (Int × Int)) : List Nat → Option (Nat × Nat) → List (Nat × Nat × Nat) × Option (Nat × Nat)
  | [], p => ([], p)
  | _ :: _, none => ([], none)
  | l :: t, some p =>
    let r := samples v t (coveredFrom v (pixelIndex p + 1))
    ((l, p) :: r.1, r.2)

/-- An edge function over the area, rounded once. -/
def bary (v : List (Int × Int)) (k : Nat) (p : Nat × Nat) : W32 :=
  let e := edgeAt v k (centre p.1 p.2)
  let a := triArea v
  BitVec.ofNat 32 (fp32.round 0 (decide (e ≠ 0) && (decide (e < 0) != decide (a < 0))) e.natAbs a.natAbs 0)

/-- RAST (R321). A token t other than 0 resumes at index t - 1 (log 10). -/
def execRast (r : Run) (d a b : BitVec 7) (s : State) : Host.Outcome State Fault Refusal :=
  unit { opGfx 0 r d a b [dstVs d 3 4, srcS a, srcS (a + 1#7), srcS (a + 2#7), modS b] with lims := decide (a.toNat ≤ 59) }
    (fun t =>
      let v := [vertex (sreg t a), vertex (sreg t (a + 1#7)), vertex (sreg t (a + 2#7))]
      let ls := activeLanes t
      let got := samples v ls (coveredFrom v ((sreg t b).toNat - 1))
      let put := fun (k : Nat) (f : Nat × Nat → W32) (none_ : W32) (u : State) =>
        wrV 0 (d.toNat + k) ls (fun l => match got.1.lookup l with
          | some p => f p
          | none => none_) u
      let token := match got.2 with
        | some p => BitVec.ofNat 64 (1 + pixelIndex p)
        | none => 0#64
      done r (wrS 0 b.toNat token (put 2 (bary v 2) 0#32 (put 1 (bary v 1) 0#32
        (put 0 (fun p => BitVec.ofNat 32 (p.2 * 2 ^ 16 + p.1)) 0xFFFFFFFF#32 t))))) s

/-! ### Descriptors in the scratchpad -/

/-- A descriptor of `n` bytes at scratchpad offset s[A] (R322, R323). -/
def descAt (n : Nat) (r : Run) (a : W64) (f : List Byte → State → State) (s : State) : State :=
  if a.toNat % n ≠ 0 then misaligned n a r s
  else if s.crew.scr < a.toNat + n then aperture a s
  else f (scrRead s.crew a.toNat n) s

/-! ### RPRJ (R322) -/

/-- A lane's pixel of RPRJ: x, y, depth, id and motion. -/
structure Reproj where
  x     : Nat
  y     : Nat
  depth : W32
  id    : W32
  dx    : Int
  dy    : Int
  deriving DecidableEq, Repr

def reprojOf (s : State) (b l : Nat) : Reproj :=
  let p := (rdV s b l).toNat
  let m := (rdV s (b + 3) l).toNat
  { x := p % 2 ^ 16, y := p / 2 ^ 16, depth := rdV s (b + 1) l, id := rdV s (b + 2) l, dx := signedOf 16 m,
    dy := signedOf 16 (m / 2 ^ 16) }

def rpWidth (c : List Byte) : Nat := bfield (word64 c 3) 15 0
def rpHeight (c : List Byte) : Nat := bfield (word64 c 3) 31 16

/-- The pixel of the previous frame. -/
def Reproj.from (p : Reproj) : Int × Int := ((p.x : Int) + p.dx, (p.y : Int) + p.dy)

/-- Whether that pixel lies in the frame. -/
def Reproj.inside (c : List Byte) (p : Reproj) : Bool :=
  decide (0 ≤ p.from.1 ∧ p.from.1 < rpWidth c ∧ 0 ≤ p.from.2 ∧ p.from.2 < rpHeight c)

/-- Its index. -/
def Reproj.index (c : List Byte) (p : Reproj) : Nat := p.from.2.toNat * rpWidth c + p.from.1.toNat

/-- The hash of a pixel and a frame. -/
def Reproj.hash (c : List Byte) (p : Reproj) : W32 :=
  let n := fun (x : Nat) => BitVec.ofNat 32 x
  let h0 := word32 c 9 ^^^ (n p.x * 0x6C8E9CF5#32) ^^^ (n p.y * 0x4F1BBCDD#32) ^^^ (word32 c 7 * 0x7B3A91C5#32)
  let h1 := (h0 ^^^ (h0 >>> 16)) * 0x2E5BF271#32
  let h2 := (h1 ^^^ (h1 >>> 13)) * 0x3B9ACA07#32
  h2 ^^^ (h2 >>> 16)

/-- The depth test; false when either side is a NaN. -/
def depthOk (tol old depth : W32) : Bool :=
  fle (xsub old.toNat depth.toNat % 2 ^ 31) (xmul tol.toNat (depth.toNat % 2 ^ 31)) && !fp32.isNan (xsub old.toNat depth.toNat)

/-- The address of element `i` of a buffer. -/
def elemAddr (base : W64) (size i : Nat) : W64 := base + BitVec.ofNat 64 (size * i)

/-- The MASK register of MSEL, m0 without the hint (R322). -/
def mselOf (r : Run) : Nat := modField r 16 14

/-- RPRJ (R322): each lane loads only what its tests reach. -/
def execRprj (r : Run) (d a b : BitVec 7) (s : State) : Host.Outcome State Fault Refusal :=
  let msel := BitVec.ofNat 7 (mselOf r)
  unit { opGfx 1 r d a b [dstVs d 4 4, srcS a, srcVs b 4 4, dstM msel] with mods := some modMSEL }
    (fun t => descAt 64 r (sreg t a) (fun c u =>
      let px := fun (l : Nat) => reprojOf u b.toNat l
      let at_ := fun (base : W64) (size : Nat) (ls : List Nat) => ls.map (fun l => (l, elemAddr base size ((px l).index c)))
      let in_ := (activeLanes u).filter (fun l => (px l).inside c)
      phaseRead 4 r (at_ (word64 c 1) 4 in_) (fun ids v =>
        let same := in_.filter (fun l => word32 (ids l) 0 == (px l).id)
        phaseRead 4 r (at_ (word64 c 0) 4 same) (fun deps w =>
          let ok := same.filter (fun l => depthOk (word32 c 8) (word32 (deps l) 0) (px l).depth
            && decide ((word32 c 10).toNat ≤ ((px l).hash c).toNat))
          phaseRead 16 r (at_ (word64 c 2) 16 ok) (fun val x =>
            let put := fun (y : State) (k : Nat) => wrV 0 (d.toNat + k) ok (fun l => word32 (val l) k) y
            doneReads r (wrM 0 msel.toNat (activeLanes x) (fun l => !ok.contains l) ((List.range 4).foldl put x))) w) v) u) t) s

/-! ### TEX and TEXL (R323) -/

/-- A texture descriptor. -/
structure Tex where
  base   : W64
  width  : Nat
  height : Nat
  levels : Nat
  format : Nat
  wrapu  : Nat
  wrapv  : Nat
  linear : Bool
  mip    : Bool
  bias   : Nat
  deriving DecidableEq, Repr

def texOf (c : List Byte) : Tex :=
  let w := word64 c 1
  { base := word64 c 0, width := bfield w 13 0 + 1, height := bfield w 29 16 + 1, levels := bfield w 35 32 + 1,
    format := bfield w 39 36, wrapu := bfield w 41 40, wrapv := bfield w 43 42, linear := w.getLsbD 44,
    mip := w.getLsbD 45, bias := (word32 c 4).toNat }

/-- Whether a descriptor is one that R323 accepts. -/
def texOk (c : List Byte) : Bool :=
  let w := word64 c 1
  decide (bfield w 39 36 ≤ 3) && decide (bfield w 41 40 ≤ 2) && decide (bfield w 43 42 ≤ 2) && bfield w 15 14 == 0 &&
  bfield w 31 30 == 0 && bfield w 63 46 == 0 && word32 c 5 == 0#32 && word64 c 3 == 0#64

/-- Bytes of a texel. -/
def texelSize (f : Nat) : Nat :=
  match f with
  | 1 => 8
  | 2 => 16
  | _ => 4

/-- The size of level `k`. -/
def Tex.size (x : Tex) (k : Nat) : Nat × Nat := (max 1 (x.width / 2 ^ k), max 1 (x.height / 2 ^ k))

/-- The texels before level `k`. -/
def Tex.before (x : Tex) (k : Nat) : Nat := ((List.range k).map (fun i => (x.size i).1 * (x.size i).2)).sum

/-- A texel coordinate wrapped into a level: repeat, clamp or mirror. -/
def wrapCoord (mode : Nat) (i : Int) (n : Nat) : Nat :=
  match mode with
  | 0 => (i % (n : Int)).toNat
  | 1 => (clampInt i 0 ((n : Int) - 1)).toNat
  | _ =>
    let m := (i % ((2 * n : Nat) : Int)).toNat
    if m < n then m else 2 * n - 1 - m

/-- The address of a texel. -/
def Tex.texel (x : Tex) (k : Nat) (i j : Int) : W64 :=
  let wh := x.size k
  elemAddr x.base (texelSize x.format) (x.before k + wrapCoord x.wrapv j wh.2 * wh.1 + wrapCoord x.wrapu i wh.1)

/-- A texel coordinate along an axis: its integer part and its fraction in 1/256, rounded RNE. A coordinate that is not
finite has no stated texel: a free one. -/
def texCoord (u n : Nat) : Int × Nat :=
  match ratOf u with
  | some v =>
    match ratOf (rneRat (v * (n : Rat) - 1 / 2)) with
    | some s =>
      let f := (s - (ratFloor s : Rat)) * 256
      (ratFloor s, roundDiv 0 false f.num.natAbs f.den)
    | none => ((Config.texPick 0 u : Nat), Config.texPick 1 u % 257)
  | none => ((Config.texPick 0 u : Nat), Config.texPick 1 u % 257)

/-- The texel that a coordinate takes without LINEAR: which of its two neighbours is not stated. -/
def nearCoord (c : Int × Nat) : Int := if Config.texPick 2 (wrapTo 64 c.1 * 512 + c.2) % 2 = 0 then c.1 else c.1 + 1

/-- The texels of a level that a sample needs, with their weights in 1/65,536. -/
def taps (x : Tex) (u v k : Nat) : List (W64 × Nat) :=
  let a := texCoord u (x.size k).1
  let b := texCoord v (x.size k).2
  if x.linear then
    [(x.texel k a.1 b.1, (256 - a.2) * (256 - b.2)), (x.texel k (a.1 + 1) b.1, a.2 * (256 - b.2)),
     (x.texel k a.1 (b.1 + 1), (256 - a.2) * b.2), (x.texel k (a.1 + 1) (b.1 + 1), a.2 * b.2)]
  else [(x.texel k (nearCoord a) (nearCoord b), 65536)]

/-- An FP32 value of a blend: its exact value, or its encoding where it is not finite. -/
def finOr (x : Nat) : Except Nat Rat :=
  match ratOf x with
  | some v => .ok v
  | none => .error x

/-- Channel `c` of a texel: its exact value, or an FP32 encoding that is not finite (R89). -/
def channel (format c : Nat) (b : List Byte) : Except Nat Rat :=
  match format with
  | 0 => .ok (((leNat (sliceOf 0#8 b c 1) : Nat) : Rat) / 255)
  | 1 => finOr (fp32.from fp16 0 (leNat (sliceOf 0#8 b (2 * c) 2)))
  | 2 => finOr (leNat (sliceOf 0#8 b (4 * c) 4))
  | _ => if c = 0 then finOr (leNat (sliceOf 0#8 b 0 4)) else if c = 3 then .ok 1 else .ok 0

/-- A sum of weighted values, rounded once (R323). A NaN among them is returned quietened (R92), and which of several is not
stated; infinities of one sign with a weight give that infinity; for any other infinity the result is not stated. -/
def blend (l : List (Except Nat Rat × Rat)) : Nat :=
  let odd := l.filterMap (fun x => match x.1 with
    | .error e => some (e, x.2)
    | .ok _ => none)
  match (odd.filter (fun x => fp32.isNan x.1)).map (fun x => fp32.quieten x.1), odd with
  | n :: ns, _ => ((n :: ns)[Config.texPick 6 l.length % (ns.length + 1)]?).getD n
  | [], i :: is =>
    if (i :: is).all (fun x => x.1 == i.1 && decide (0 < x.2)) then i.1 else Config.texPick 3 l.length % 2 ^ 32
  | [], [] => rneRat (l.map (fun x => match x.1 with
    | .ok v => v * x.2
    | .error _ => 0)).sum

/-- The sampled levels and the blend's fraction: level of detail `l` clamped to [0, LEVELS - 1]. Without MIPLINEAR, and
for a NaN, the level is not stated between the neighbours. -/
def levelsOf (x : Tex) (lod : Nat) : Nat × Nat × Rat :=
  let top := x.levels - 1
  match ratOf lod with
  | some v =>
    let c := if v < 0 then 0 else if ((top : Nat) : Rat) < v then ((top : Nat) : Rat) else v
    let k := (ratFloor c).toNat
    let f := c - (k : Rat)
    if x.mip then (k, min (k + 1) top, f)
    else
      let n := if f = 0 then k else min top (k + Config.texPick 4 lod % 2)
      (n, n, 0)
  | none =>
    let n := if lod = 0x7F800000 then top else if lod = 0xFF800000 then 0 else Config.texPick 5 lod % x.levels
    (n, n, 0)

/-- The root of a value that is not negative, as FP32: the value itself where FP32 holds it, and otherwise one of the two
FP32 values next to it, which the manual does not choose between. -/
def nearRoot (x : Rat) (pick : Nat) : Nat :=
  let n := x.num.natAbs * x.den * 2 ^ 80
  let s := isqrt (Nat.log2 n / 2 + 1) n 0
  let at_ := fun (rnd : Nat) =>
    if s * s = n then fp32.round rnd false s x.den (-40) else fp32.round rnd false (2 * s + 1) x.den (-41)
  if pick % 2 = 0 then at_ 1 else at_ 2

/-- The square of a scaled derivative length (R323): how u and v change from lane 0 of the quad, times width and height. -/
def derivSq (w h : Nat) (u0 v0 u1 v1 : Rat) : Rat :=
  let du := (u1 - u0) * (w : Rat)
  let dv := (v1 - v0) * (h : Rat)
  du * du + dv * dv

/-- The larger scaled derivative length of a quad: from its lane 0 to its lanes 1 and 2 (R323). How it is rounded is not
stated, nor what it is for a coordinate that is not finite. -/
def texLen (w h : Nat) (v : Nat → Nat → Nat) : Nat :=
  let raw := [v 0 0, v 1 0, v 0 1, v 1 1, v 0 2, v 1 2, w, h]
  match ratOf (v 0 0), ratOf (v 1 0), ratOf (v 0 1), ratOf (v 1 1), ratOf (v 0 2), ratOf (v 1 2) with
  | some u0, some v0, some u1, some v1, some u2, some v2 =>
    let a := derivSq w h u0 v0 u1 v1
    let b := derivSq w h u0 v0 u2 v2
    nearRoot (if a < b then b else a) (Config.texLength raw).toNat
  | _, _, _, _, _, _ => (Config.texLength raw).toNat

/-- The level of detail of TEX: FLOG2 of the larger scaled derivative length of the lane's quad, plus LODBIAS. -/
def texLod (x : Tex) (s : State) (b l : Nat) : Nat :=
  let q := l / 4 * 4
  let v := fun (k n : Nat) => (rdV s (b + k) (q + n)).toNat
  xadd (flog2 0 0xF002 (texLen x.width x.height v)).bits x.bias

/-- The taps of a lane: those of the first level, then those of the second. -/
def laneTaps (x : Tex) (u v lod : Nat) : List (W64 × Nat) :=
  let k := levelsOf x lod
  taps x u v k.1 ++ (if k.2.2 = 0 then [] else taps x u v k.2.1)

/-- Channel `c` of a lane's sample from the texels of its taps. -/
def sampled (x : Tex) (u v lod c : Nat) (texels : List (List Byte)) : W32 :=
  let k := levelsOf x lod
  let n := (taps x u v k.1).length
  let sum := fun (off : Nat) (l : List (W64 × Nat)) =>
    blend ((List.range l.length).map (fun i => (channel x.format c (texels[off + i]?.getD []), (((l[i]?.map (·.2)).getD 0 : Nat) : Rat) / 65536)))
  let a := sum 0 (taps x u v k.1)
  let y := if k.2.2 = 0 then a else
    blend [(finOr a, 1 - k.2.2), (finOr (sum n (taps x u v k.2.1)), k.2.2)]
  BitVec.ofNat 32 y

/-- The texels of tap `i` up to `n` read one tap after another; `f` receives each lane's texels in order. -/
def readTaps (size : Nat) (r : Run) (tap : Nat → List (W64 × Nat)) (ls : List Nat) :
    Nat → (Nat → List (List Byte)) → ((Nat → List (List Byte)) → State → State) → State → State
  | 0, got, f, s => f got s
  | n + 1, got, f, s =>
    let i := 7 - n
    let here := ls.filterMap (fun l => ((tap l)[i]?).map (fun x => (l, x.1)))
    phaseRead size r here (fun b t => readTaps size r tap ls n (fun l => got l ++ [b l]) f t) s

/-- TEX and TEXL (R323). -/
def texUnit (fn : Nat) (explicit : Bool) (r : Run) (d a b : BitVec 7) (s : State) : Host.Outcome State Fault Refusal :=
  unit (opGfx fn r d a b [dstVs d 4 4, srcS a, srcVs b (if explicit then 3 else 2) 4])
    (fun t => descAt 32 r (sreg t a) (fun c u =>
      if !texOk c then trap (rejectTrap { cause := 0x0E, step := 5, word := wRRR 24 r d a b fn } u) r u
      else
        let x := texOf c
        let uv := fun (l : Nat) => ((rdV u b.toNat l).toNat, (rdV u (b.toNat + 1) l).toNat)
        let lod := fun (l : Nat) => if explicit then (rdV u (b.toNat + 2) l).toNat else texLod x u b.toNat l
        let ls := activeLanes u
        readTaps (texelSize x.format) r (fun l => laneTaps x (uv l).1 (uv l).2 (lod l)) ls 8 (fun _ => []) (fun got v =>
          let put := fun (y : State) (k : Nat) => wrV 0 (d.toNat + k) ls (fun l => sampled x (uv l).1 (uv l).2 (lod l) k (got l)) y
          doneReads r ((List.range 4).foldl put v)) u) t) s

/-- TEX (R323). -/
def execTex (r : Run) (d a b : BitVec 7) (s : State) : Host.Outcome State Fault Refusal := texUnit 2 false r d a b s

/-- TEXL (R323). -/
def execTexl (r : Run) (d a b : BitVec 7) (s : State) : Host.Outcome State Fault Refusal := texUnit 3 true r d a b s

end Sys2Proof.Machine
end

