-- ==== Sys2Proof/Machine/Launch.lean ====
section
/-! DEFINITION. Launch, events and profiling by a wave: LNCH, EVSET, EVCLR (R363, R364), EMBER and GRIST (R418). -/

namespace Sys2Proof.Machine

/-- A word of major 25. -/
def opLaunch (fn : Nat) (r : Run) (d a b : BitVec 7) (lims : Bool) (uses : List Use) : Op :=
  { Op.plain (wRRR 25 r d a b fn) r 0 uses with lims := lims }

/-- The 64-byte LAUNCH record of FORM 1 that LNCH writes: CMD 1, FORM 1, CPLA 0, and the record's address at 0x10. -/
def launchCmd (ra : W64) : List Byte := wordsBytes [0x100000001#64, 0#64, ra, 0#64, 0#64, 0#64, 0#64, 0#64]

/-- LNCH after its release and its read (R364): the record enters the ring, or the queue is full. -/
def enqueue (r : Run) (d : BitVec 7) (q : Nat) (hdr ra : W64) (h : QHead) (bytes : List Byte) (s : State) : State :=
  if (h.tail + 2 ^ 64 - h.head) % 2 ^ 64 = 2 ^ h.logsz then doneReads r (wrS 0 d.toNat 1#64 s)
  else
    let ctx := s.crew.ctx
    let t := viaWrite (some ctx) (hdr.toNat + 0x10) (leBytes 8 (h.tail + 1))
      (viaWrite (some ctx) (ringAddr h h.tail) (launchCmd ra) s)
    let u := updCtx t ctx (fun (c : Ctx) => { c with caught := c.caught ++ [(hdr, h.tail, bytes)] })
    doneReads r (wrS 0 d.toNat 0#64 (notifyQueue ctx q hdr u))

/-- LNCH (R364). -/
def execLnch (r : Run) (d a b : BitVec 7) (s : State) : Host.Outcome State Fault Refusal :=
  unit (opLaunch 0 r d a b true [dstS d, srcS a, srcS b])
    (drained r (fun t =>
      let ra := sreg t a
      let q := (sreg t b).toNat
      if ra.toNat % 256 ≠ 0 then misaligned 256 ra r t
      else releaseThen r 0xFFFF 4 (fun u =>
        let no := fun (v : State) => doneReads r (wrS 0 d.toNat 2#64 v)
        match (if q ≤ 255 then queueHdr u u.crew.ctx q else none) with
        | none => no u
        | some hdr =>
          if viaOk u (some u.crew.ctx) hdr.toNat 64 true true = false then no u
          else match qheadAt u (some u.crew.ctx) hdr.toNat with
            | none => no u
            | some h =>
              if h.dev = false then no u
              else
                let l := scalarLane u
                phaseReadBy (unitHow true) true 128 r [(l, ra)] (fun lo v =>
                  phaseReadBy (unitHow true) true 128 r [(l, ra + 128#64)] (fun hi w =>
                    enqueue r d q hdr ra h (lo l ++ hi l) w) v) u) t)) s

/-- The place of the part in focus among the changes of a cycle: by die, cluster, core, wave and part (R362). -/
def eventKey (s : State) : Nat := 512 * s.crew.core + 16 * s.wave.widx + lowBit s.part.quads

/-- The bits of word `k` of the event vector set or cleared by a unit (R364, R362). -/
def eventUnit (fn : Nat) (on : Bool) (r : Run) (a k : BitVec 7) (s : State) : Host.Outcome State Fault Refusal :=
  unit (opLaunch fn r 0#7 a k (decide (k.toNat < 4)) [srcS a])
    (drained r (releaseThen r 0xFFFF 4 (fun t =>
      done r (addChange (bitChange 1 (eventKey t) t.crew.ctx k.toNat on (sreg t a)) t)))) s

/-- EVSET (R364). -/
def execEvset (r : Run) (a k : BitVec 7) (s : State) : Host.Outcome State Fault Refusal := eventUnit 1 true r a k s

/-- EVCLR (R364). -/
def execEvclr (r : Run) (a k : BitVec 7) (s : State) : Host.Outcome State Fault Refusal := eventUnit 2 false r a k s

/-- EMBER (R418): a marker record, or a tag for the part's next unit. -/
def execEmber (r : Run) (a k : BitVec 7) (s : State) : Host.Outcome State Fault Refusal :=
  unit (opLaunch 3 r 0#7 a k (decide (k.toNat < 2)) [srcS a])
    (fun t =>
      if debugged t = false then done r t
      else if k = 0#7 then
        done r (crewSample t.crew.ctx t.crew.ref (nameWords (packCrew t)) 5
          [BitVec.ofNat 64 (partWord t.crew t.wave.widx (lowBit t.part.quads)), pcField (unitAddr r t), sreg t a] t)
      else
        let e := getEmber t t.crew.core t.wave.seqn
        let me := (t.crew.cid, t.wave.widx, lowBit t.part.quads)
        if e.tag.isSome then done r t
        else done r (setEmber t.crew.core t.wave.seqn { e with own := me :: e.own.filter (· != me) } t)) s

/-- GRIST (R418). -/
def execGrist (r : Run) (a b : BitVec 7) (s : State) : Host.Outcome State Fault Refusal :=
  unit (opLaunch 4 r 0#7 a b true [srcS a, srcS b])
    (fun t => done r (gristAdd t.crew.ctx 2 (sreg t a) (bfield (sreg t b) 31 0) t)) s

end Sys2Proof.Machine
end

