-- ==== Sys2Proof/Machine/Mask.lean ====
section
/-! DEFINITION. Compares and mask registers: MASK (R152, R153). -/

namespace Sys2Proof.Machine

/-- The checks of a compare. -/
def opCmp (fn : Nat) (r : Run) (d a b : BitVec 7) : Op :=
  { Op.plain (wRRR 15 r d a b fn) r 2 [srcV a, bUse r b, dstM d] with mods := some modBSC }

/-- A compare of bit patterns: each active lane writes its bit of m[D] (R152). -/
def cmp (fn : Nat) (p : W32 → W32 → Bool) (r : Run) (d a b : BitVec 7) (s : State) : Host.Outcome State Fault Refusal :=
  unit (opCmp fn r d a b)
    (fun t => done r (wrM 2 d.toNat (activeLanes t) (fun l => p (rdA a t l) (rdB r b t l)) t)) s

/-- CMPEQ (R152). -/
def execCmpeq (r : Run) (d a b : BitVec 7) (s : State) : Host.Outcome State Fault Refusal := cmp 0 (fun x y => x == y) r d a b s

/-- CMPNE (R152). -/
def execCmpne (r : Run) (d a b : BitVec 7) (s : State) : Host.Outcome State Fault Refusal := cmp 1 (fun x y => x != y) r d a b s

/-- CMPLT (R152). -/
def execCmplt (r : Run) (d a b : BitVec 7) (s : State) : Host.Outcome State Fault Refusal :=
  cmp 2 (fun x y => decide (x.toInt < y.toInt)) r d a b s

/-- CMPLE (R152). -/
def execCmple (r : Run) (d a b : BitVec 7) (s : State) : Host.Outcome State Fault Refusal :=
  cmp 3 (fun x y => decide (x.toInt ≤ y.toInt)) r d a b s

/-- CMPLTN (R152). -/
def execCmpltn (r : Run) (d a b : BitVec 7) (s : State) : Host.Outcome State Fault Refusal :=
  cmp 4 (fun x y => decide (x.toNat < y.toNat)) r d a b s

/-- CMPLEN (R152). -/
def execCmplen (r : Run) (d a b : BitVec 7) (s : State) : Host.Outcome State Fault Refusal :=
  cmp 5 (fun x y => decide (x.toNat ≤ y.toNat)) r d a b s

/-- An FP32 compare: a signalling NaN operand in an active lane is an FP32 invalid event (R152, R134). -/
def fcmp (fn : Nat) (p : Nat → Nat → Bool) (r : Run) (d a b : BitVec 7) (s : State) : Host.Outcome State Fault Refusal :=
  unit (opCmp fn r d a b)
    (fun t =>
      let ls := activeLanes t
      let ev := ls.filter (fun l => fp32.isSnan (fA a t l) || fp32.isSnan (fB r b t l))
      if (wctlOf t).getLsbD 2 = true ∧ t.part.state ≠ .trapped ∧ ev ≠ [] then
        trap { cause := 0x04, lanes := maskOf (fun l => ev.contains l), info := 0#64, addr := 0#64 } r t
      else done r (wrM 2 d.toNat ls (fun l => p (fA a t l) (fB r b t l)) t)) s

/-- Whether neither operand is a NaN. -/
def ordered (x y : Nat) : Bool := !fp32.isNan x && !fp32.isNan y

/-- FCMPEQ (R152). -/
def execFcmpeq (r : Run) (d a b : BitVec 7) (s : State) : Host.Outcome State Fault Refusal :=
  fcmp 6 (fun x y => ordered x y && fp32.order x == fp32.order y) r d a b s

/-- FCMPLT (R152). -/
def execFcmplt (r : Run) (d a b : BitVec 7) (s : State) : Host.Outcome State Fault Refusal :=
  fcmp 7 (fun x y => ordered x y && decide (fp32.order x < fp32.order y)) r d a b s

/-- FCMPLE (R152). -/
def execFcmple (r : Run) (d a b : BitVec 7) (s : State) : Host.Outcome State Fault Refusal :=
  fcmp 8 (fun x y => ordered x y && decide (fp32.order x ≤ fp32.order y)) r d a b s

/-- FCMPUN (R152). -/
def execFcmpun (r : Run) (d a b : BitVec 7) (s : State) : Host.Outcome State Fault Refusal :=
  fcmp 9 (fun x y => !ordered x y) r d a b s

/-- A mask operation: bit l of m[D] for each active lane (R153). -/
def mkop (fn : Nat) (p : Bool → Bool → Bool) (r : Run) (d a b : BitVec 7) (s : State) : Host.Outcome State Fault Refusal :=
  unit (Op.plain (wRRR 15 r d a b fn) r 2 [srcM a, srcM b, dstM d])
    (fun t => done r (wrM 2 d.toNat (activeLanes t)
      (fun l => p ((rdM t a.toNat).getLsbD l) ((rdM t b.toNat).getLsbD l)) t)) s

/-- MKAND (R153). -/
def execMkand (r : Run) (d a b : BitVec 7) (s : State) : Host.Outcome State Fault Refusal := mkop 10 (fun x y => x && y) r d a b s

/-- MKOR (R153). -/
def execMkor (r : Run) (d a b : BitVec 7) (s : State) : Host.Outcome State Fault Refusal := mkop 11 (fun x y => x || y) r d a b s

/-- MKXOR (R153). -/
def execMkxor (r : Run) (d a b : BitVec 7) (s : State) : Host.Outcome State Fault Refusal := mkop 12 (fun x y => x != y) r d a b s

/-- MKANDN (R153). -/
def execMkandn (r : Run) (d a b : BitVec 7) (s : State) : Host.Outcome State Fault Refusal := mkop 13 (fun x y => x && !y) r d a b s

/-- MKPOP (R153): the one bits of m[A] in exm. -/
def execMkpop (r : Run) (d a : BitVec 7) (s : State) : Host.Outcome State Fault Refusal :=
  unit (Op.plain (wRRR 15 r d a 0#7 14) r 2 [srcM a, dstS d])
    (fun t => done r (wrS 2 d.toNat (BitVec.ofNat 64 (popcount (rdM t a.toNat &&& t.part.exm))) t)) s

/-- MKMOV (R153). -/
def execMkmov (r : Run) (d a : BitVec 7) (s : State) : Host.Outcome State Fault Refusal :=
  unit (Op.plain (wRRR 15 r d a 0#7 15) r 2 [srcM a, dstM d])
    (fun t => done r (wrM 2 d.toNat (activeLanes t) (fun l => (rdM t a.toNat).getLsbD l) t)) s

end Sys2Proof.Machine
end

