-- ==== Sys2Proof/Machine/Sampler.lean ====
section
/-! DEFINITION. Ember's counting, tags and records (R414 to R416). -/

namespace Sys2Proof.Machine

/-- The Ember sampler of the sequencer that the part in focus issues on. -/
def ownEmber (s : State) : Ember := getEmber s s.crew.core s.wave.seqn

/-- Whether Ember samples the crew in focus. -/
def emberOn (s : State) : Bool :=
  match getCtx s s.crew.ctx with
  | some c => c.emberOn
  | none => false

/-- EMBER_TAG (R414): the count has reached the interval, no tag is in flight, and the next unit of an enabled context is
to be tagged. -/
def execEmberTag (core seq : Nat) (s : State) : Host.Outcome State Fault Refusal :=
  let e := getEmber s core seq
  .next (if e.interval ≠ 0 ∧ e.interval ≤ e.count ∧ e.tag.isNone = true then setEmber core seq { e with armed := true } s else s)

/-- The part in focus, as EMBER's requests name it. -/
def emberPart (s : State) : Nat × Nat × Nat := (s.crew.cid, s.wave.widx, lowBit s.part.quads)

/-- The tag of the unit that the part in focus issues at an address. -/
def newTag (pc : W64) (s : State) : EmberTag :=
  { crew := s.crew.cid, ctx := s.crew.ctx, ref := s.crew.ref, part := partWord s.crew s.wave.widx (lowBit s.part.quads),
    pc := pcField pc, time := timeOf s, lo := s.ids, hi := none, level := 0, ended := false, name := nameWords (packCrew s) }

/-- Before a unit of the part in focus issues: it is tagged when the sampler is armed, or EMBER has named the part
(R414, R418). -/
def tagUnit (pc : W64) (s : State) : State :=
  let e := ownEmber s
  let own := e.own.contains (emberPart s)
  let rest := e.own.filter (· != emberPart s)
  let k := ((getCtx s s.crew.ctx).map (·.emberK)).getD 8
  if e.tag.isSome then (if own then setEmber s.crew.core s.wave.seqn { e with own := rest } s else s)
  else if own then setEmber s.crew.core s.wave.seqn { e with own := rest, tag := some (newTag pc s) } s
  else if e.armed ∧ emberOn s = true then
    setEmber s.crew.core s.wave.seqn { drawEmber k e with armed := false, tag := some (newTag pc s) } s
  else s

/-- The place that an address reaches in its core: the scratchpad or L1. -/
def nearPlace (lane : Option Nat) (a : W64) (s : State) : Nat :=
  match steer s lane a 1 with
  | .scratch _ => 1
  | _ => 2

/-- The address scale of a VMEM access, by its FN (R194, R198). -/
def vmemScale (fn : Nat) : Nat :=
  match fn with
  | 2 | 3 | 9 => 1
  | 4 | 7 | 10 => 2
  | 5 | 11 | 14 => 3
  | 6 | 12 => 4
  | 13 => 7
  | _ => 0

/-- The deepest place in the core that the accesses of a unit's lanes reach (R415): none, the scratchpad, or L1; what leaves the core
reaches its home (log 62). -/
def unitReach (hs : List Hint) (w : W32) (s : State) : Nat :=
  let r : Run := { hints := hs, stl := fStl w }
  let fn := (fFn w).toNat
  let lanes := fun (scale : Nat) => (laneAddrs r (Sys2Proof.fA w) (Sys2Proof.fB w) scale s).foldl (fun m x => max m (nearPlace (some x.1) x.2 s)) 0
  match (fMaj w).toNat with
  | 5 => nearPlace none (addrS r (Sys2Proof.fA w) (Sys2Proof.fB w) (if fn % 2 = 0 then 3 else 2) s) s
  | 16 => lanes (vmemScale fn)
  | 17 => if s.part.exm = 0#64 then 0 else 1
  | 18 => lanes (Nat.log2 (atomSize fn r))
  | 19 => if 4 ≤ fn then 1 else 0
  | _ => 0

/-- After a unit of the part in focus of `t` has ended in `v`: the tag that it carries takes what the unit has reached in its
core, the numbers of its accesses, and whether it has trapped (R415). -/
def endTag (hs : List Hint) (w : W32) (t v : State) : State :=
  let e := getEmber v t.crew.core t.wave.seqn
  let trapped := v.part.state == .trapped && t.part.state != .trapped
  match e.tag with
  | some g =>
    if g.hi = none ∧ g.crew = t.crew.cid ∧ g.part = partWord t.crew t.wave.widx (lowBit t.part.quads) then
      setEmber t.crew.core t.wave.seqn { e with tag := some { g with
        hi := some v.ids, level := max g.level (if trapped then 0 else unitReach hs w t), ended := trapped } } v
    else v
  | none => v

/-- A unit of an enabled context counted by its sequencer; a tag in flight pauses the count. -/
def countUnit (core seq : Nat) (s : State) : State :=
  let e := getEmber s core seq
  if e.tag.isSome ∨ e.interval = 0 then s else setEmber core seq { e with count := e.count + 1 } s

/-- A crew that is still on its core under the admission that a tag names. -/
def tagCrew (s : State) (g : EmberTag) : Option Crew :=
  (findCrew s g.crew).filter (fun c => c.cond == .resident && c.ref == g.ref)

/-- The count of a stage, from FETCH on, as a record holds it: 4,095 where the unit has not reached the stage. -/
def stageOf (reached i n : Nat) : Nat := if i < reached then min n 4095 else 4095

/-- EMBER_RECORD (R415, R416): the tagged unit has ended; its record goes to the sample buffer, and its cycles to sketch
P. A unit that has trapped, or whose crew has left, has ended before WB. -/
def execEmberRecord (core seq : Nat) (stages : EmberStages) (s : State) : Host.Outcome State Fault Refusal :=
  let e := getEmber s core seq
  .next (match e.tag with
    | none => s
    | some g =>
      let t := setEmber core seq { e with tag := none } s
      let crew := tagCrew t g
      let reached := if g.ended || crew.isNone then min stages.reached 4 else stages.reached
      let n := [stages.fetch, stages.issue, stages.opnd, stages.exec, stages.wb].zipIdx.map (fun x => stageOf reached x.2 x.1)
      let body : List W64 := [g.pc,
        BitVec.ofNat 64 (g.part + g.level % 16 * 2 ^ 35 + (decide (reached < 5)).toNat * 2 ^ 34 + g.time % 2 ^ 32),
        BitVec.ofNat 64 (n.foldl (fun m x => 2 ^ 12 * m + x) 0)]
      if ((getCtx t g.ctx).map (·.attached)).getD false = false then t
      else gristAdd g.ctx 0 g.pc n.sum (crewSample g.ctx g.ref ((crew.map nameWords).getD g.name) 1 body t))

end Sys2Proof.Machine
end

