-- ==== Sys2Proof/Machine/Spad.lean ====
section
/-! DEFINITION. Scratchpad accesses: SPAD (R200 to R203). A load's value is fixed at issue, in the one order of R201. -/

namespace Sys2Proof.Machine

/-- The checks of a SPAD unit. -/
def opSpad (fn : Nat) (r : Run) (d a b : BitVec 7) (uses : List Use) : Op :=
  { Op.plain (wRRR 17 r d a b fn) r 0 uses with immMax := 2, width := some (0, 4) }

/-- Alignment in every lane, then the reservation (R200). A unit waits for the part's atomics at the scratchpad (R201). -/
def spadChecked (n : Nat) (scalar : Bool) (r : Run) (offs : List (Nat × W64)) (f : State → State) (s : State) : State :=
  if scratchPending s then hold s else
  let bad := offs.filter (fun x => x.2.toNat % n != 0)
  match bad with
  | b :: _ =>
    trap { cause := 0x03, lanes := if scalar then 0#64 else maskOf (fun l => bad.any (fun x => x.1 == l)),
           info := BitVec.ofNat 64 n, addr := b.2 } r s
  | [] =>
    match offs.find? (fun x => decide (s.crew.scr < x.2.toNat + n)) with
    | some x => aperture x.2 s
    | none => f s

/-- An LDS of `n` bytes (R200): the registers wait for the load's return. -/
def spadLoad (fn n : Nat) (r : Run) (d a b : BitVec 7) (s : State) : Host.Outcome State Fault Refusal :=
  unit (opSpad fn r d a b ([srcS a, dstVs d (grp n) (grp n)] ++ idxUse b))
    (fun t => if t.part.exm = 0#64 then done r t
      else if acquiring t then hold t
      else
        let offs := laneAddrs r a b (Nat.log2 n) t
        spadChecked n false r offs (fun u =>
          let lanes := offs.map (fun x =>
            ({ lane := x.1, acc := 0, off := 0, fixed := scratchCells u.crew x.2.toNat n } : LaneLoad))
          let ld : Load := { id := u.ids, kind := .vec n false, reg := d.toNat, lanes := lanes, acq := false, timer := none }
          done r { u with ids := u.ids + 1, part := { u.part with loads := u.part.loads ++ [ld] } }) t) s

/-- Bytes written to the scratchpad by lanes in ascending order (R201), unless a barrier word is touched (R180). -/
def spadPut (n : Nat) (offs : List (Nat × Nat)) (data : Nat → List Byte) (f : State → State) (s : State) : State :=
  if offs.any (fun x => touchesBar s.crew x.2 n) then barrierKill s
  else f { s with crew := offs.foldl (fun (c : Crew) x => scrWrite x.2 (data x.1) c) s.crew }

/-- An STS of `n` bytes (R200). -/
def spadStore (fn n : Nat) (r : Run) (d a b : BitVec 7) (s : State) : Host.Outcome State Fault Refusal :=
  unit (opSpad fn r d a b ([srcS a, srcVs d (grp n) (grp n)] ++ idxUse b))
    (fun t =>
      let offs := laneAddrs r a b (Nat.log2 n) t
      spadChecked n false r offs (fun u =>
        spadPut n (offs.map (fun x => (x.1, x.2.toNat))) (laneBytes u d.toNat n) (done r) u) t) s

/-- LDS.w (R200). -/
def execLdsW (r : Run) (d a b : BitVec 7) (s : State) : Host.Outcome State Fault Refusal := spadLoad 0 4 r d a b s

/-- LDS.d (R200). -/
def execLdsD (r : Run) (d a b : BitVec 7) (s : State) : Host.Outcome State Fault Refusal := spadLoad 1 8 r d a b s

/-- LDS.q (R200). -/
def execLdsQ (r : Run) (d a b : BitVec 7) (s : State) : Host.Outcome State Fault Refusal := spadLoad 2 16 r d a b s

/-- STS.w (R200). -/
def execStsW (r : Run) (d a b : BitVec 7) (s : State) : Host.Outcome State Fault Refusal := spadStore 3 4 r d a b s

/-- STS.d (R200). -/
def execStsD (r : Run) (d a b : BitVec 7) (s : State) : Host.Outcome State Fault Refusal := spadStore 4 8 r d a b s

/-- STS.q (R200). -/
def execStsQ (r : Run) (d a b : BitVec 7) (s : State) : Host.Outcome State Fault Refusal := spadStore 5 16 r d a b s

/-! ### VSPILL and VFILL (R202) -/

/-- The checks of VSPILL and VFILL: n - 1 in B, no WIDTH hint. -/
def opSpill (fn : Nat) (r : Run) (d a n : BitVec 7) (use : Use) : Op :=
  { Op.plain (wRRR 17 r d a n fn) r 0 [srcS a, use] with immMax := 2, lims := decide (n.toNat < 16) }

/-- The base of the slots is a multiple of 16, which is the access size that a trap reports (log 46), and the extent 4 n W lies
in the reservation (R202). -/
def spillChecked (n : Nat) (r : Run) (base : W64) (f : State → State) (s : State) : State :=
  if scratchPending s then hold s
  else if base &&& 15#64 ≠ 0#64 then misaligned 16 base r s
  else if s.crew.scr < base.toNat + 4 * n * widthOf s.wave.code then aperture base s
  else f s

/-- The slot of register `i` and lane `l` (R202). -/
def slot (s : State) (o i l : Nat) : Nat := o + 4 * (i * widthOf s.wave.code + l)

/-- The slots of the part's lanes, with their registers. -/
def slots (s : State) (o n : Nat) : List (Nat × Nat × Nat) :=
  (List.range n).flatMap (fun i => (lanesOf (partLanes s)).map (fun l => (i, l, slot s o i l)))

/-- VSPILL (R202). -/
def execVspill (r : Run) (d a n : BitVec 7) (s : State) : Host.Outcome State Fault Refusal :=
  let k := n.toNat + 1
  unit (opSpill 6 r d a n (srcVs d k 1))
    (fun t =>
      let base := sreg t a + dispOf r
      spillChecked k r base (fun u =>
        let ws := slots u base.toNat k
        if ws.any (fun x => touchesBar u.crew x.2.2 4) then barrierKill u
        else done r { u with crew := ws.foldl (fun (c : Crew) x =>
          scrWrite x.2.2 (bytes32 (rdV u (d.toNat + x.1) x.2.1)) c) u.crew }) t) s

/-- VFILL (R202): the registers wait for the data, which is fixed at issue. -/
def execVfill (r : Run) (d a n : BitVec 7) (s : State) : Host.Outcome State Fault Refusal :=
  let k := n.toNat + 1
  unit (opSpill 7 r d a n (dstVs d k 1))
    (fun t =>
      let base := sreg t a + dispOf r
      if acquiring t then hold t else
      spillChecked k r base (fun u =>
        let ls := (lanesOf (partLanes u)).map (fun l =>
          ({ lane := l, acc := 0, off := 0,
             fixed := byteCells 0 ((List.range k).flatMap (fun i => scrRead u.crew (slot u base.toNat i l) 4)) } : LaneLoad))
        let ld : Load := { id := u.ids, kind := .vec (4 * k) false, reg := d.toNat, lanes := ls, acq := false, timer := none }
        done r { u with ids := u.ids + 1, part := { u.part with loads := u.part.loads ++ [ld] } }) t) s

/-! ### LDSP and STSP (R203) -/

/-- LDSP (R203). -/
def execLdsp (r : Run) (d a b : BitVec 7) (s : State) : Host.Outcome State Fault Refusal :=
  unit (opSpad 8 r d a b [srcS a, srcS b, dstS d])
    (fun t =>
      let o := addrS r a b 3 t
      if acquiring t then hold t else
      spadChecked 8 true r [(0, o)] (fun u =>
        let ld : Load :=
          { id := u.ids, kind := .scalar 8, reg := d.toNat,
            lanes := [{ lane := scalarLane u, acc := 0, off := 0, fixed := scratchCells u.crew o.toNat 8 }],
            acq := false, timer := none }
        done r { u with ids := u.ids + 1, part := { u.part with loads := u.part.loads ++ [ld] } }) t) s

/-- STSP (R203). -/
def execStsp (r : Run) (d a b : BitVec 7) (s : State) : Host.Outcome State Fault Refusal :=
  unit (opSpad 9 r d a b [srcS a, srcS b, srcS d])
    (fun t =>
      let o := addrS r a b 3 t
      spadChecked 8 true r [(0, o)] (fun u => spadPut 8 [(0, o.toNat)] (fun _ => bytes64 (sreg u d)) (done r) u) t) s

end Sys2Proof.Machine
end

