-- ==== Sys2Proof/Machine/VXl.lean ====
section
/-! DEFINITION. Cross-lane instructions: VXL (R147 to R151). -/

namespace Sys2Proof.Machine

/-- The width of a width code. -/
def wOf (w : BitVec 3) : Nat := widthOf w.toNat

/-- The checks of a VXL unit: the width code is at most the wave's, and the operand field fits (R147). -/
def opVxl (fn f : Nat) (lims : Bool) (r : Run) (d a : BitVec 7) (w : BitVec 3) (s : State) : Op :=
  { Op.plain (wVXL r d a w f fn) r 8 [srcV a, dstV d] with
    lims := lims && decide (w.toNat ≤ 4) && decide (w.toNat ≤ s.wave.code) }

/-- The lowest lane of a lane's group. -/
def groupBase (w l : Nat) : Nat := l / w * w

/-- The active lanes of the part in a group. -/
def groupLanes (w g : Nat) (s : State) : List Nat := (activeLanes s).filter (fun l => groupBase w l == g)

/-- A VXL unit: wave-wide (R45), and then lane results. -/
def vxl (o : Op) (w : BitVec 3) (d : BitVec 7) (f : State → Nat → Res) (s : State) : Host.Outcome State Fault Refusal :=
  unit o (waveWide o.run w.toNat (fun t => putRes o.run 8 d (f t) t)) s

/-! ### Moves (R148) -/

/-- The checks of VSHFL. -/
def opVshfl (r : Run) (d a : BitVec 7) (w : BitVec 3) (s : State) : Op :=
  { opVxl 0 0 true r d a w s with opc := some (true, srcV (opcField r)) }

/-- VSHFL (R148). -/
def execVshfl (r : Run) (d a : BitVec 7) (w : BitVec 3) (s : State) : Host.Outcome State Fault Refusal :=
  vxl (opVshfl r d a w s) w d
    (fun t l => Res.ok (fA a t (groupBase (wOf w) l + (rdC r t l).toNat % wOf w))) s

/-- The index of a moving instruction: the IMM24 hint's value, else F. -/
def idxOf (r : Run) (k : BitVec 4) : Nat := (payload r 0).getD k.toNat

/-- The checks of a moving instruction with an index (R148). -/
def opIdx (fn : Nat) (r : Run) (d a : BitVec 7) (w : BitVec 3) (k : BitVec 4) (s : State) : Op :=
  { opVxl fn k.toNat (if immCount r = 0 then decide (k.toNat < wOf w) else k == 0#4) r d a w s with
    immMax := 1, immOk := decide ((payload r 0).getD 0 < wOf w) }

/-- VSHFX (R148). -/
def execVshfx (r : Run) (d a : BitVec 7) (w : BitVec 3) (k : BitVec 4) (s : State) : Host.Outcome State Fault Refusal :=
  vxl (opIdx 1 r d a w k s) w d
    (fun t l => Res.ok (fA a t (groupBase (wOf w) l + ((l - groupBase (wOf w) l) ^^^ idxOf r k)))) s

/-- VSHUP (R148). -/
def execVshup (r : Run) (d a : BitVec 7) (w : BitVec 3) (n : BitVec 4) (s : State) : Host.Outcome State Fault Refusal :=
  vxl (opIdx 2 r d a w n s) w d
    (fun t l => Res.ok (fA a t (if groupBase (wOf w) l + idxOf r n ≤ l then l - idxOf r n else l))) s

/-- VSHDN (R148). -/
def execVshdn (r : Run) (d a : BitVec 7) (w : BitVec 3) (n : BitVec 4) (s : State) : Host.Outcome State Fault Refusal :=
  vxl (opIdx 3 r d a w n s) w d
    (fun t l => Res.ok (fA a t (if l + idxOf r n < groupBase (wOf w) l + wOf w then l + idxOf r n else l))) s

/-- VFIRST (R148). -/
def execVfirst (r : Run) (d a : BitVec 7) (w : BitVec 3) (s : State) : Host.Outcome State Fault Refusal :=
  vxl (opVxl 11 0 true r d a w s) w d
    (fun t l => Res.ok (fA a t (((groupLanes (wOf w) (groupBase (wOf w) l) t).head?).getD l))) s

/-- VREADL (R148). -/
def execVreadl (r : Run) (d a : BitVec 7) (w : BitVec 3) (i : BitVec 4) (s : State) : Host.Outcome State Fault Refusal :=
  vxl (opIdx 12 r d a w i s) w d (fun t l => Res.ok (fA a t (groupBase (wOf w) l + idxOf r i))) s

/-- The groups that have an active lane of the part, with their lowest active lane. -/
def liveGroups (w : Nat) (s : State) : List (Nat × Nat) :=
  (List.range (64 / w)).filterMap (fun i => (groupLanes w (i * w) s).head?.map (fun l => (i * w, l)))

/-- What VWRITEL puts in a lane: A in the lowest active lane of its group. -/
def writelOf (a : BitVec 7) (w : BitVec 3) (t : State) (l : Nat) : W32 :=
  rdA a t ((((liveGroups (wOf w) t).find? (fun g => g.1 == groupBase (wOf w) l)).map (·.2)).getD l)

/-- VWRITEL (R148): only lane g + i of each group with an active lane is written. -/
def execVwritel (r : Run) (d a : BitVec 7) (w : BitVec 3) (i : BitVec 4) (s : State) : Host.Outcome State Fault Refusal :=
  unit (opIdx 13 r d a w i s)
    (waveWide r w.toNat (fun t =>
      done r (wrV 8 d.toNat ((liveGroups (wOf w) t).map (fun g => g.1 + idxOf r i)) (writelOf a w t) t))) s

/-! ### Trees (R149, R150) -/

/-- A node of a tree: empty, or a value; and whether an event took place below it. -/
structure Node where
  val : Option Nat
  inv : Bool
  deriving DecidableEq, Repr

/-- Combine (R149): the first is operand A. -/
def combine (op : Nat → Nat → Res) (x y : Node) : Node :=
  match x.val, y.val with
  | some a, some b => { val := some (op a b).bits, inv := x.inv || y.inv || (op a b).inv }
  | some a, none => { val := some a, inv := x.inv || y.inv }
  | none, b => { val := b, inv := x.inv || y.inv }

/-- One level of the tree. -/
def pairs (op : Nat → Nat → Res) : List Node → List Node
  | x :: y :: t => combine op x y :: pairs op t
  | l => l

/-- The tree over a list whose length is a power of two: `n` levels. -/
def tree (op : Nat → Nat → Res) : Nat → List Node → Node
  | 0, l => l.head?.getD { val := none, inv := false }
  | n + 1, l => tree op n (pairs op l)

/-- The tree over the lanes of a group that `inS` admits (R149). -/
def groupTree (op : Nat → Nat → Res) (w g : Nat) (inS : Nat → Bool) (val : Nat → Nat) : Node :=
  tree op (Nat.log2 w) ((List.range w).map (fun j =>
    { val := if inS (g + j) then some (val (g + j)) else none, inv := false }))

/-- A reduction: every active lane of a group receives its tree (R150). -/
def redRes (op : Nat → Nat → Res) (a : BitVec 7) (w : BitVec 3) (t : State) (l : Nat) : Res :=
  let g := groupBase (wOf w) l
  let n := groupTree op (wOf w) g (fun k => t.part.exm.getLsbD k) (fA a t)
  { bits := n.val.getD 0, inv := n.inv }

/-- A scan: each active lane receives the tree over the active lanes up to it, itself excluded when `ex` is set. -/
def scanRes (op : Nat → Nat → Res) (a : BitVec 7) (w : BitVec 3) (ex : Bool) (t : State) (l : Nat) : Res :=
  let g := groupBase (wOf w) l
  let n := groupTree op (wOf w) g (fun k => t.part.exm.getLsbD k && (decide (k < l) || (k == l && !ex))) (fA a t)
  { bits := n.val.getD 0, inv := n.inv }

/-- s32 addition at a node: wrapped, or clamped with SAT (R150). -/
def addNode (r : Run) (x y : Nat) : Res :=
  Res.ok (satOrWrap32 r ((BitVec.ofNat 32 x).toInt + (BitVec.ofNat 32 y).toInt)).toNat

/-- FP32 addition at a node (R150). -/
def faddNode (r : Run) (t : State) (x y : Nat) : Res := fp32.add (rndOf r) 0x01 (originOf r t) false x y

/-- The checks of an addition tree, with the MOD field that it takes. -/
def opAddTree (fn f mods : Nat) (r : Run) (d a : BitVec 7) (w : BitVec 3) (s : State) : Op :=
  { opVxl fn f true r d a w s with mods := some mods }

/-- VRED.add.s32 (R150). -/
def execVredAddS32 (r : Run) (d a : BitVec 7) (w : BitVec 3) (s : State) : Host.Outcome State Fault Refusal :=
  vxl (opAddTree 4 0 modSAT r d a w s) w d (redRes (addNode r) a w) s

/-- VRED.add.f32 (R150). -/
def execVredAddF32 (r : Run) (d a : BitVec 7) (w : BitVec 3) (s : State) : Host.Outcome State Fault Refusal :=
  vxl (opAddTree 5 0 modRND r d a w s) w d (fun t l => redRes (faddNode r t) a w t l) s

/-- The smaller or the larger of two values as s32, n32 or FP32 (R150). -/
def minmaxNode (larger : Bool) (t : Nat) (x y : Nat) : Res :=
  let a := BitVec.ofNat 32 x
  let b := BitVec.ofNat 32 y
  match t with
  | 0 => Res.ok (if larger then maxS a b else minS a b).toNat
  | 1 => Res.ok (if larger then maxN a b else minN a b).toNat
  | _ => fp32.minmax larger x y

/-- VRED.min (R150). -/
def execVredMin (r : Run) (d a : BitVec 7) (w : BitVec 3) (k : BitVec 4) (s : State) : Host.Outcome State Fault Refusal :=
  vxl (opVxl 6 k.toNat (decide (k.toNat < 3)) r d a w s) w d (redRes (minmaxNode false k.toNat) a w) s

/-- VRED.max (R150). -/
def execVredMax (r : Run) (d a : BitVec 7) (w : BitVec 3) (k : BitVec 4) (s : State) : Host.Outcome State Fault Refusal :=
  vxl (opVxl 7 k.toNat (decide (k.toNat < 3)) r d a w s) w d (redRes (minmaxNode true k.toNat) a w) s

/-- VSCAN.add.s32 (R150). -/
def execVscanAddS32 (r : Run) (d a : BitVec 7) (w : BitVec 3) (e : BitVec 1) (s : State) :
    Host.Outcome State Fault Refusal :=
  vxl (opAddTree 8 e.toNat modSAT r d a w s) w d (scanRes (addNode r) a w (e == 1#1)) s

/-- VSCAN.add.f32 (R150). -/
def execVscanAddF32 (r : Run) (d a : BitVec 7) (w : BitVec 3) (e : BitVec 1) (s : State) :
    Host.Outcome State Fault Refusal :=
  vxl (opAddTree 9 e.toNat modRND r d a w s) w d
    (fun t l => scanRes (faddNode r t) a w (e == 1#1) t l) s

/-! ### Predicates (R151) -/

/-- The result of VVOTE in a group. -/
def voteOf (mode : Nat) (w g : Nat) (a : BitVec 7) (t : State) : Nat :=
  let ls := groupLanes w g t
  let on := fun (l : Nat) => ls.contains l && rdA a t l != 0#32
  let bits := fun (base : Nat) => (List.range 32).foldl (fun m j => if base + j < g + w ∧ on (base + j) = true then m + 2 ^ j else m) 0
  match mode with
  | 0 => (ls.any on).toNat
  | 1 => (ls.all on).toNat
  | 2 => (ls.filter on).length
  | 3 => bits g
  | _ => bits (g + 32)

/-- VVOTE (R151): modes 0 to 4; mode 4 needs w = 64. -/
def execVvote (r : Run) (d a : BitVec 7) (w : BitVec 3) (m : BitVec 4) (s : State) : Host.Outcome State Fault Refusal :=
  vxl (opVxl 10 m.toNat (decide (m.toNat ≤ 4) && (m != 4#4 || wOf w == 64)) r d a w s) w d
    (fun t l => Res.ok (voteOf m.toNat (wOf w) (groupBase (wOf w) l) a t)) s

/-- The result of VMATCH in a lane: the active lanes of its group, in one half of 32, that hold the lane's value. -/
def matchOf (h w : Nat) (a : BitVec 7) (t : State) (l : Nat) : Nat :=
  let g := groupBase w l
  let ls := groupLanes w g t
  (List.range 32).foldl (fun m j =>
    if ls.contains (g + 32 * h + j) && rdA a t (g + 32 * h + j) == rdA a t l then m + 2 ^ j else m) 0

/-- VMATCH (R151): half 1 needs w = 64. -/
def execVmatch (r : Run) (d a : BitVec 7) (w : BitVec 3) (h : BitVec 4) (s : State) : Host.Outcome State Fault Refusal :=
  vxl (opVxl 14 h.toNat (decide (h.toNat < 2) && (h != 1#4 || wOf w == 64)) r d a w s) w d
    (fun t l => Res.ok (matchOf h.toNat (wOf w) a t l)) s

end Sys2Proof.Machine
end

