-- ==== Sys2Proof/Machine/WaveEvents.lean ====
section
/-! DEFINITION. The timers of a part: miss timers (R40), join timers (R43), watchdogs (R46), WAITA's limit (R214), WAITCY
(R124), and the end of an ICINV (R125). A timer's step does nothing before its cycle has come. -/

namespace Sys2Proof.Machine

/-! ### Split on a long miss (R40) -/

/-- The timers of the other loads of a part run on after a miss split. -/
def keepTimers (p : Part) (load : Nat) (q : Part) : Part :=
  { q with loads := q.loads.map (fun (l : Load) => { l with
      timer := if l.id = load then none else (p.loads.find? (fun x => x.id == l.id)).bind (·.timer) }) }

/-- The quads of the part in focus that still wait for a load's data: those of a lane that was active when the load issued
(log 52). -/
def waitingQuads (l : Load) (s : State) : Nat :=
  (List.range 16).foldl (fun m q =>
    if s.part.quads.testBit q && l.lanes.any (fun x => x.lane / 4 == q) then m + 2 ^ q else m) 0

/-- The decision of R40 when the timer of a load reaches its limit, in cycle `n`. A part that waits at a JOIN or at a
wave-wide instruction splits too, and both halves go on waiting there (log 43). -/
def missExpiry (l : Load) (n : Nat) (s : State) : State :=
  let p := s.part
  let quiet := fun (q : Part) => { q with loads := updIf (fun (x : Load) => x.id == l.id) (fun (x : Load) => { x with timer := none }) q.loads }
  let wq := waitingQuads l s
  let dq := p.quads - wq
  if p.nosplit || p.state == .trapped || !freeSetAt n s || wq == 0 || dq == 0 then { s with part := quiet p }
  else
    let keep := max p.ready (n + 1)
    let set_ := max p.ready (n + 3 + (lastScalar p - n))
    let mk := fun (q : Nat) (keeps : Bool) =>
      { keepTimers p l.id (subPart p q keeps) with ready := if keeps then keep else set_ }
    let wkeeps := decide (lowBit wq < lowBit dq)
    if wkeeps then splitInto (mk wq true) (mk dq false) s else splitInto (mk dq true) (mk wq false) s

/-- MISS_SPLIT (R40): a timer that reaches its limit in cycle n is decided after everything else of that cycle (R52). -/
def execMissSplit (p : PartRef) (load : Nat) (s : State) : Host.Outcome State Fault Refusal :=
  .next (match livePart p s with
    | none => s
    | some t => match t.part.loads.find? (fun l => l.id == load) with
      | none => s
      | some l => match l.timer with
        | none => s
        | some n => if n < now t ∧ t.part.state ≠ .halted then missExpiry l n t else s)

/-! ### Join timers and watchdogs -/

/-- JOIN_TIMEOUT (R43): the earliest timer among the parts present at one JOIN expires, after the units and the fuses of its
cycle (R52). -/
def execJoinTimeout (p : PartRef) (s : State) : Host.Outcome State Fault Refusal :=
  .next (match livePart p s with
    | none => s
    | some t => match t.part.timer with
      | none => s
      | some n =>
        let g := presentAt t.part.jwait t.part.waitAt t
        if t.part.state = .joinwait ∧ n < now t ∧ g.all (fun q => (q.timer.map (fun m => decide (n ≤ m))).getD true) = true then
          refocus (timeoutPass n (n + 1) t.part g (packWave t)) t
        else s)

/-- FUSE_WATCHDOG_EXPIRY (R46, R163): cause 0x07 with the width code, taken in the cycle of the expiry: at TVEC as it holds in
that cycle (R24, R155), and the handler's first unit issues no earlier than 4 cycles after it (R156). -/
def execFuseWatchdogExpiry (p : PartRef) (s : State) : Host.Outcome State Fault Refusal :=
  .next (match livePart p s with
    | none => s
    | some t => match t.part.timer with
      | none => s
      | some n =>
        if t.part.state = .fusewait ∧ n < now t then
          trapIn n { cause := 0x07, lanes := t.part.exm, info := BitVec.ofNat 64 t.part.wcode, addr := 0#64 }
            ((t.part.waitAt - t.part.pc).toNat / 4 + 1) t
        else s)

/-! ### WAITA, WAITCY, ICINV -/

/-- WAITA_TIMEOUT (R214): the limit has passed, and the WAITA at the part's PC makes its last test. -/
def execWaitaTimeout (p : PartRef) (s : State) : Host.Outcome State Fault Refusal :=
  match livePart p s with
  | none => .next s
  | some t => match t.part.wait with
    | .waita till =>
      if now t < till then .next s
      else
        let u := { t with agent := .wave }
        match nextUnit u with
        | .error _ => .next s
        | .ok (hs, w, v) =>
          if rejectRun hs ≠ none ∨ fMaj w ≠ 19#5 then .next s
          else match decodeSync { hints := hs, stl := fStl w } w with
            | some (.waita r d a b) => match execWaita r d a b v with
              | .next x => .next (stepStop v x)
              | stop => stop
            | _ => .next s
    | _ => .next s

/-- WAITCY_END (R124). -/
def execWaitcyEnd (p : PartRef) (s : State) : Host.Outcome State Fault Refusal :=
  .next (match livePart p s with
    | none => s
    | some t => match t.part.wait with
      | .cycles till => if till ≤ now t then { t with part := { t.part with wait := .none } } else s
      | _ => s)

/-- ICINV_COMPLETE (R125, R423): the caches have dropped the lines, and the waiting ICINV goes on; named by crew 0, the
oldest waiting DEBUG FORM 8 completes. -/
def execIcinvComplete (p : PartRef) (s : State) : Host.Outcome State Fault Refusal :=
  .next (if p.crew = 0 then
    match s.icinvs with
    | [] => s
    | k :: rest => endCommand k none 0 0#64 { s with icinvs := rest }
  else match livePart p s with
    | none => s
    | some t => if t.part.wait = .icinv then { t with part := { t.part with wait := .none } } else s)

end Sys2Proof.Machine
end

