-- ==== Sys2Proof/Machine/Dispatch.lean ====
section
/-! DEFINITION. The meaning of every row: one arm per constructor of `Instr`, each one call. -/

namespace Sys2Proof.Machine

def exec (i : Instr) (s : State) : Host.Outcome State Fault Refusal :=
  match i with
  | .nop r => Sys2Proof.Machine.execNop r s
  | .trap r n => Sys2Proof.Machine.execTrap r n s
  | .brk r n => Sys2Proof.Machine.execBrk r n s
  | .xret r => Sys2Proof.Machine.execXret r s
  | .mvfs r d n => Sys2Proof.Machine.execMvfs r d n s
  | .mvts r a n => Sys2Proof.Machine.execMvts r a n s
  | .ptab r d a k => Sys2Proof.Machine.execPtab r d a k s
  | .waitcy r a => Sys2Proof.Machine.execWaitcy r a s
  | .time r d => Sys2Proof.Machine.execTime r d s
  | .icinv r a b => Sys2Proof.Machine.execIcinv r a b s
  | .stop r => Sys2Proof.Machine.execStop r s
  | .vrget r d a b => Sys2Proof.Machine.execVrget r d a b s
  | .vrset r d a b => Sys2Proof.Machine.execVrset r d a b s
  | .sfq r d a => Sys2Proof.Machine.execSfq r d a s
  | .killc r a => Sys2Proof.Machine.execKillc r a s
  | .dumpc r d a b => Sys2Proof.Machine.execDumpc r d a b s
  | .b r o => Sys2Proof.Machine.execB r o s
  | .call r o => Sys2Proof.Machine.execCall r o s
  | .bz r reg o => Sys2Proof.Machine.execBz r reg o s
  | .bnz r reg o => Sys2Proof.Machine.execBnz r reg o s
  | .bneg r reg o => Sys2Proof.Machine.execBneg r reg o s
  | .bany r reg o => Sys2Proof.Machine.execBany r reg o s
  | .ball r reg o => Sys2Proof.Machine.execBall r reg o s
  | .bdiv r reg o => Sys2Proof.Machine.execBdiv r reg o s
  | .join r j => Sys2Proof.Machine.execJoin r j s
  | .fuse r w => Sys2Proof.Machine.execFuse r w s
  | .splitctl r f => Sys2Proof.Machine.execSplitctl r f s
  | .exit r => Sys2Proof.Machine.execExit r s
  | .ret r => Sys2Proof.Machine.execRet r s
  | .jr r a => Sys2Proof.Machine.execJr r a s
  | .vxopen r e => Sys2Proof.Machine.execVxopen r e s
  | .vxclose r => Sys2Proof.Machine.execVxclose r s
  | .exmget r d => Sys2Proof.Machine.execExmget r d s
  | .exmset r a => Sys2Proof.Machine.execExmset r a s
  | .mkff r d => Sys2Proof.Machine.execMkff r d s
  | .yield r => Sys2Proof.Machine.execYield r s
  | .sadd r d a b => Sys2Proof.Machine.execSadd r d a b s
  | .ssub r d a b => Sys2Proof.Machine.execSsub r d a b s
  | .smul r d a b => Sys2Proof.Machine.execSmul r d a b s
  | .smulh r d a b => Sys2Proof.Machine.execSmulh r d a b s
  | .sand r d a b => Sys2Proof.Machine.execSand r d a b s
  | .sor r d a b => Sys2Proof.Machine.execSor r d a b s
  | .sxor r d a b => Sys2Proof.Machine.execSxor r d a b s
  | .sshl r d a b => Sys2Proof.Machine.execSshl r d a b s
  | .sshr r d a b => Sys2Proof.Machine.execSshr r d a b s
  | .ssar r d a b => Sys2Proof.Machine.execSsar r d a b s
  | .smin r d a b => Sys2Proof.Machine.execSmin r d a b s
  | .smax r d a b => Sys2Proof.Machine.execSmax r d a b s
  | .sminn r d a b => Sys2Proof.Machine.execSminn r d a b s
  | .smaxn r d a b => Sys2Proof.Machine.execSmaxn r d a b s
  | .sslt r d a b => Sys2Proof.Machine.execSslt r d a b s
  | .ssltn r d a b => Sys2Proof.Machine.execSsltn r d a b s
  | .saddi r d a imm => Sys2Proof.Machine.execSaddi r d a imm s
  | .sandi r d a imm => Sys2Proof.Machine.execSandi r d a imm s
  | .sori r d a imm => Sys2Proof.Machine.execSori r d a imm s
  | .sxori r d a imm => Sys2Proof.Machine.execSxori r d a imm s
  | .sshli r d a imm => Sys2Proof.Machine.execSshli r d a imm s
  | .sshri r d a imm => Sys2Proof.Machine.execSshri r d a imm s
  | .ssari r d a imm => Sys2Proof.Machine.execSsari r d a imm s
  | .sslti r d a imm => Sys2Proof.Machine.execSslti r d a imm s
  | .sclz r d a => Sys2Proof.Machine.execSclz r d a s
  | .spopc r d a => Sys2Proof.Machine.execSpopc r d a s
  | .sbfx r d a => Sys2Proof.Machine.execSbfx r d a s
  | .smov r d a => Sys2Proof.Machine.execSmov r d a s
  | .sld64 r d a b => Sys2Proof.Machine.execSld64 r d a b s
  | .sld32 r d a b => Sys2Proof.Machine.execSld32 r d a b s
  | .sst64 r d a b => Sys2Proof.Machine.execSst64 r d a b s
  | .sst32 r d a b => Sys2Proof.Machine.execSst32 r d a b s
  | .sli r d l imm => Sys2Proof.Machine.execSli r d l imm s
  | .vadd r d a b => Sys2Proof.Machine.execVadd r d a b s
  | .vsub r d a b => Sys2Proof.Machine.execVsub r d a b s
  | .vmul r d a b => Sys2Proof.Machine.execVmul r d a b s
  | .vmulh r d a b => Sys2Proof.Machine.execVmulh r d a b s
  | .vmulhn r d a b => Sys2Proof.Machine.execVmulhn r d a b s
  | .vand r d a b => Sys2Proof.Machine.execVand r d a b s
  | .vor r d a b => Sys2Proof.Machine.execVor r d a b s
  | .vxor r d a b => Sys2Proof.Machine.execVxor r d a b s
  | .vshl r d a b => Sys2Proof.Machine.execVshl r d a b s
  | .vshr r d a b => Sys2Proof.Machine.execVshr r d a b s
  | .vsar r d a b => Sys2Proof.Machine.execVsar r d a b s
  | .vmin r d a b => Sys2Proof.Machine.execVmin r d a b s
  | .vmax r d a b => Sys2Proof.Machine.execVmax r d a b s
  | .vminn r d a b => Sys2Proof.Machine.execVminn r d a b s
  | .vmaxn r d a b => Sys2Proof.Machine.execVmaxn r d a b s
  | .vsel r d a b => Sys2Proof.Machine.execVsel r d a b s
  | .vmad r d a b => Sys2Proof.Machine.execVmad r d a b s
  | .vabs r d a => Sys2Proof.Machine.execVabs r d a s
  | .vneg r d a => Sys2Proof.Machine.execVneg r d a s
  | .vnot r d a => Sys2Proof.Machine.execVnot r d a s
  | .vclz r d a => Sys2Proof.Machine.execVclz r d a s
  | .vpopc r d a => Sys2Proof.Machine.execVpopc r d a s
  | .vbfx r d a => Sys2Proof.Machine.execVbfx r d a s
  | .vbfi r d a => Sys2Proof.Machine.execVbfi r d a s
  | .vbcst r d a => Sys2Proof.Machine.execVbcst r d a s
  | .vlane r d => Sys2Proof.Machine.execVlane r d s
  | .vmov r d a => Sys2Proof.Machine.execVmov r d a s
  | .vadds r d a b => Sys2Proof.Machine.execVadds r d a b s
  | .vsubs r d a b => Sys2Proof.Machine.execVsubs r d a b s
  | .vquad r d a => Sys2Proof.Machine.execVquad r d a s
  | .vbrev r d a => Sys2Proof.Machine.execVbrev r d a s
  | .vaddi r d a imm => Sys2Proof.Machine.execVaddi r d a imm s
  | .vandi r d a imm => Sys2Proof.Machine.execVandi r d a imm s
  | .vori r d a imm => Sys2Proof.Machine.execVori r d a imm s
  | .vxori r d a imm => Sys2Proof.Machine.execVxori r d a imm s
  | .vshli r d a imm => Sys2Proof.Machine.execVshli r d a imm s
  | .vshri r d a imm => Sys2Proof.Machine.execVshri r d a imm s
  | .vsari r d a imm => Sys2Proof.Machine.execVsari r d a imm s
  | .vmuli r d a imm => Sys2Proof.Machine.execVmuli r d a imm s
  | .fadd r d a b => Sys2Proof.Machine.execFadd r d a b s
  | .fsub r d a b => Sys2Proof.Machine.execFsub r d a b s
  | .fmul r d a b => Sys2Proof.Machine.execFmul r d a b s
  | .ffma r d a b => Sys2Proof.Machine.execFfma r d a b s
  | .ffms r d a b => Sys2Proof.Machine.execFfms r d a b s
  | .fnma r d a b => Sys2Proof.Machine.execFnma r d a b s
  | .fmin r d a b => Sys2Proof.Machine.execFmin r d a b s
  | .fmax r d a b => Sys2Proof.Machine.execFmax r d a b s
  | .fabs r d a => Sys2Proof.Machine.execFabs r d a s
  | .fneg r d a => Sys2Proof.Machine.execFneg r d a s
  | .fcps r d a b => Sys2Proof.Machine.execFcps r d a b s
  | .frnd r d a => Sys2Proof.Machine.execFrnd r d a s
  | .ffrc r d a => Sys2Proof.Machine.execFfrc r d a s
  | .fscl r d a b => Sys2Proof.Machine.execFscl r d a b s
  | .fexn r d a => Sys2Proof.Machine.execFexn r d a s
  | .frcp r d a => Sys2Proof.Machine.execFrcp r d a s
  | .frsq r d a => Sys2Proof.Machine.execFrsq r d a s
  | .fsqrt r d a => Sys2Proof.Machine.execFsqrt r d a s
  | .fdiv r d a b => Sys2Proof.Machine.execFdiv r d a b s
  | .fexp2 r d a => Sys2Proof.Machine.execFexp2 r d a s
  | .flog2 r d a => Sys2Proof.Machine.execFlog2 r d a s
  | .fsin r d a => Sys2Proof.Machine.execFsin r d a s
  | .fcos r d a => Sys2Proof.Machine.execFcos r d a s
  | .ftanh r d a => Sys2Proof.Machine.execFtanh r d a s
  | .fcls r d a => Sys2Proof.Machine.execFcls r d a s
  | .hadd r d a b => Sys2Proof.Machine.execHadd r d a b s
  | .hmul r d a b => Sys2Proof.Machine.execHmul r d a b s
  | .hfma r d a b => Sys2Proof.Machine.execHfma r d a b s
  | .badd r d a b => Sys2Proof.Machine.execBadd r d a b s
  | .bmul r d a b => Sys2Proof.Machine.execBmul r d a b s
  | .bfma r d a b => Sys2Proof.Machine.execBfma r d a b s
  | .hdot r d a b => Sys2Proof.Machine.execHdot r d a b s
  | .bdot r d a b => Sys2Proof.Machine.execBdot r d a b s
  | .cvtF32S32 r d a => Sys2Proof.Machine.execCvtF32S32 r d a s
  | .cvtF32N32 r d a => Sys2Proof.Machine.execCvtF32N32 r d a s
  | .cvtS32F32 r d a => Sys2Proof.Machine.execCvtS32F32 r d a s
  | .cvtN32F32 r d a => Sys2Proof.Machine.execCvtN32F32 r d a s
  | .cvtF16x2 r d a b => Sys2Proof.Machine.execCvtF16x2 r d a b s
  | .cvtBf16x2 r d a b => Sys2Proof.Machine.execCvtBf16x2 r d a b s
  | .cvtF32F16 r d a h => Sys2Proof.Machine.execCvtF32F16 r d a h s
  | .cvtF32Bf16 r d a h => Sys2Proof.Machine.execCvtF32Bf16 r d a h s
  | .cvtF8e4 r d a k => Sys2Proof.Machine.execCvtF8e4 r d a k s
  | .cvtF8e5 r d a k => Sys2Proof.Machine.execCvtF8e5 r d a k s
  | .cvtF32F8 r d a k => Sys2Proof.Machine.execCvtF32F8 r d a k s
  | .plane r d a => Sys2Proof.Machine.execPlane r d a s
  | .unplane r d a => Sys2Proof.Machine.execUnplane r d a s
  | .cvtS8 r d a k => Sys2Proof.Machine.execCvtS8 r d a k s
  | .cvtS32S8 r d a k => Sys2Proof.Machine.execCvtS32S8 r d a k s
  | .vshfl r d a w => Sys2Proof.Machine.execVshfl r d a w s
  | .vshfx r d a w k => Sys2Proof.Machine.execVshfx r d a w k s
  | .vshup r d a w n => Sys2Proof.Machine.execVshup r d a w n s
  | .vshdn r d a w n => Sys2Proof.Machine.execVshdn r d a w n s
  | .vredAddS32 r d a w => Sys2Proof.Machine.execVredAddS32 r d a w s
  | .vredAddF32 r d a w => Sys2Proof.Machine.execVredAddF32 r d a w s
  | .vredMin r d a w t => Sys2Proof.Machine.execVredMin r d a w t s
  | .vredMax r d a w t => Sys2Proof.Machine.execVredMax r d a w t s
  | .vscanAddS32 r d a w e => Sys2Proof.Machine.execVscanAddS32 r d a w e s
  | .vscanAddF32 r d a w e => Sys2Proof.Machine.execVscanAddF32 r d a w e s
  | .vvote r d a w m => Sys2Proof.Machine.execVvote r d a w m s
  | .vfirst r d a w => Sys2Proof.Machine.execVfirst r d a w s
  | .vreadl r d a w imm => Sys2Proof.Machine.execVreadl r d a w imm s
  | .vwritel r d a w imm => Sys2Proof.Machine.execVwritel r d a w imm s
  | .vmatch r d a w h => Sys2Proof.Machine.execVmatch r d a w h s
  | .cmpeq r d a b => Sys2Proof.Machine.execCmpeq r d a b s
  | .cmpne r d a b => Sys2Proof.Machine.execCmpne r d a b s
  | .cmplt r d a b => Sys2Proof.Machine.execCmplt r d a b s
  | .cmple r d a b => Sys2Proof.Machine.execCmple r d a b s
  | .cmpltn r d a b => Sys2Proof.Machine.execCmpltn r d a b s
  | .cmplen r d a b => Sys2Proof.Machine.execCmplen r d a b s
  | .fcmpeq r d a b => Sys2Proof.Machine.execFcmpeq r d a b s
  | .fcmplt r d a b => Sys2Proof.Machine.execFcmplt r d a b s
  | .fcmple r d a b => Sys2Proof.Machine.execFcmple r d a b s
  | .fcmpun r d a b => Sys2Proof.Machine.execFcmpun r d a b s
  | .mkand r d a b => Sys2Proof.Machine.execMkand r d a b s
  | .mkor r d a b => Sys2Proof.Machine.execMkor r d a b s
  | .mkxor r d a b => Sys2Proof.Machine.execMkxor r d a b s
  | .mkandn r d a b => Sys2Proof.Machine.execMkandn r d a b s
  | .mkpop r d a => Sys2Proof.Machine.execMkpop r d a s
  | .mkmov r d a => Sys2Proof.Machine.execMkmov r d a s
  | .ldB r d a b => Sys2Proof.Machine.execLdB r d a b s
  | .ldBs r d a b => Sys2Proof.Machine.execLdBs r d a b s
  | .ldH r d a b => Sys2Proof.Machine.execLdH r d a b s
  | .ldHs r d a b => Sys2Proof.Machine.execLdHs r d a b s
  | .ldW r d a b => Sys2Proof.Machine.execLdW r d a b s
  | .ldD r d a b => Sys2Proof.Machine.execLdD r d a b s
  | .ldQ r d a b => Sys2Proof.Machine.execLdQ r d a b s
  | .ldnW r d a b => Sys2Proof.Machine.execLdnW r d a b s
  | .stB r d a b => Sys2Proof.Machine.execStB r d a b s
  | .stH r d a b => Sys2Proof.Machine.execStH r d a b s
  | .stW r d a b => Sys2Proof.Machine.execStW r d a b s
  | .stD r d a b => Sys2Proof.Machine.execStD r d a b s
  | .stQ r d a b => Sys2Proof.Machine.execStQ r d a b s
  | .pref r a b => Sys2Proof.Machine.execPref r a b s
  | .ldnD r d a b => Sys2Proof.Machine.execLdnD r d a b s
  | .ldsW r d a b => Sys2Proof.Machine.execLdsW r d a b s
  | .ldsD r d a b => Sys2Proof.Machine.execLdsD r d a b s
  | .ldsQ r d a b => Sys2Proof.Machine.execLdsQ r d a b s
  | .stsW r d a b => Sys2Proof.Machine.execStsW r d a b s
  | .stsD r d a b => Sys2Proof.Machine.execStsD r d a b s
  | .stsQ r d a b => Sys2Proof.Machine.execStsQ r d a b s
  | .vspill r d a n => Sys2Proof.Machine.execVspill r d a n s
  | .vfill r d a n => Sys2Proof.Machine.execVfill r d a n s
  | .ldsp r d a b => Sys2Proof.Machine.execLdsp r d a b s
  | .stsp r d a b => Sys2Proof.Machine.execStsp r d a b s
  | .aadd r d a b => Sys2Proof.Machine.execAadd r d a b s
  | .aand r d a b => Sys2Proof.Machine.execAand r d a b s
  | .aor r d a b => Sys2Proof.Machine.execAor r d a b s
  | .axor r d a b => Sys2Proof.Machine.execAxor r d a b s
  | .amin r d a b => Sys2Proof.Machine.execAmin r d a b s
  | .amax r d a b => Sys2Proof.Machine.execAmax r d a b s
  | .aminn r d a b => Sys2Proof.Machine.execAminn r d a b s
  | .amaxn r d a b => Sys2Proof.Machine.execAmaxn r d a b s
  | .axch r d a b => Sys2Proof.Machine.execAxch r d a b s
  | .acas r d a b => Sys2Proof.Machine.execAcas r d a b s
  | .aaddf r d a b => Sys2Proof.Machine.execAaddf r d a b s
  | .aincw r d a b => Sys2Proof.Machine.execAincw r d a b s
  | .ald r d a b => Sys2Proof.Machine.execAld r d a b s
  | .ast r d a b => Sys2Proof.Machine.execAst r d a b s
  | .fence r a => Sys2Proof.Machine.execFence r a s
  | .trkset r t a b => Sys2Proof.Machine.execTrkset r t a b s
  | .trksetH r t a => Sys2Proof.Machine.execTrksetH r t a s
  | .trkclr r t => Sys2Proof.Machine.execTrkclr r t s
  | .drainst r => Sys2Proof.Machine.execDrainst r s
  | .waita r d a b => Sys2Proof.Machine.execWaita r d a b s
  | .bardef r a b => Sys2Proof.Machine.execBardef r a b s
  | .bararr r d a => Sys2Proof.Machine.execBararr r d a s
  | .barwait r a b => Sys2Proof.Machine.execBarwait r a b s
  | .barc r d a => Sys2Proof.Machine.execBarc r d a s
  | .barinv r a => Sys2Proof.Machine.execBarinv r a s
  | .cpyl r d a b => Sys2Proof.Machine.execCpyl r d a b s
  | .cpyt r a => Sys2Proof.Machine.execCpyt r a s
  | .cpyr r a => Sys2Proof.Machine.execCpyr r a s
  | .bufdef r n a b => Sys2Proof.Machine.execBufdef r n a b s
  | .bufwait r n m => Sys2Proof.Machine.execBufwait r n m s
  | .bufrel r n m => Sys2Proof.Machine.execBufrel r n m s
  | .bufstat r d n => Sys2Proof.Machine.execBufstat r d n s
  | .qpop r d q => Sys2Proof.Machine.execQpop r d q s
  | .qpeek r d q => Sys2Proof.Machine.execQpeek r d q s
  | .aloop r k a => Sys2Proof.Machine.execAloop r k a s
  | .aend r k => Sys2Proof.Machine.execAend r k s
  | .astrm r q a g => Sys2Proof.Machine.execAstrm r q a g s
  | .acpy r n a g => Sys2Proof.Machine.execAcpy r n a g s
  | .asig r a b => Sys2Proof.Machine.execAsig r a b s
  | .ahalt r => Sys2Proof.Machine.execAhalt r s
  | .astart r a => Sys2Proof.Machine.execAstart r a s
  | .astat r d => Sys2Proof.Machine.execAstat r d s
  | .mwld r a b => Sys2Proof.Machine.execMwld r a b s
  | .mstr r n a b => Sys2Proof.Machine.execMstr r n a b s
  | .mstrQueue r n b => Sys2Proof.Machine.execMstrQueue r n b s
  | .mrdo r n a b => Sys2Proof.Machine.execMrdo r n a b s
  | .mzero r n => Sys2Proof.Machine.execMzero r n s
  | .macsv r n a b => Sys2Proof.Machine.execMacsv r n a b s
  | .macld r n a b => Sys2Proof.Machine.execMacld r n a b s
  | .mstat r d w => Sys2Proof.Machine.execMstat r d w s
  | .trace r d a b => Sys2Proof.Machine.execTrace r d a b s
  | .hitget r d a b => Sys2Proof.Machine.execHitget r d a b s
  | .ahacc r => Sys2Proof.Machine.execAhacc r s
  | .ahrej r => Sys2Proof.Machine.execAhrej r s
  | .contend r d => Sys2Proof.Machine.execContend r d s
  | .contget r d k => Sys2Proof.Machine.execContget r d k s
  | .lntinv r a => Sys2Proof.Machine.execLntinv r a s
  | .ishit r a b => Sys2Proof.Machine.execIshit r a b s
  | .rast r d a b => Sys2Proof.Machine.execRast r d a b s
  | .rprj r d a b => Sys2Proof.Machine.execRprj r d a b s
  | .tex r d a b => Sys2Proof.Machine.execTex r d a b s
  | .texl r d a b => Sys2Proof.Machine.execTexl r d a b s
  | .lnch r d a b => Sys2Proof.Machine.execLnch r d a b s
  | .evset r a k => Sys2Proof.Machine.execEvset r a k s
  | .evclr r a k => Sys2Proof.Machine.execEvclr r a k s
  | .ember r a k => Sys2Proof.Machine.execEmber r a k s
  | .grist r a b => Sys2Proof.Machine.execGrist r a b s
  | .missSplit p load => Sys2Proof.Machine.execMissSplit p load s
  | .joinTimeout p => Sys2Proof.Machine.execJoinTimeout p s
  | .fuseWatchdogExpiry p => Sys2Proof.Machine.execFuseWatchdogExpiry p s
  | .loadDataReturn p load => Sys2Proof.Machine.execLoadDataReturn p load s
  | .storeAccepted crew id => Sys2Proof.Machine.execStoreAccepted crew id s
  | .storeFaultReport crew id => Sys2Proof.Machine.execStoreFaultReport crew id s
  | .accessAnswer id => Sys2Proof.Machine.execAccessAnswer id s
  | .homeAccess id => Sys2Proof.Machine.execHomeAccess id s
  | .fenceReleaseComplete p => Sys2Proof.Machine.execFenceReleaseComplete p s
  | .waitaTimeout p => Sys2Proof.Machine.execWaitaTimeout p s
  | .waitcyEnd p => Sys2Proof.Machine.execWaitcyEnd p s
  | .copyComplete crew ord => Sys2Proof.Machine.execCopyComplete crew ord s
  | .reduceTicketPoll crew ord => Sys2Proof.Machine.execReduceTicketPoll crew ord s
  | .reduceTicketRelease crew ord => Sys2Proof.Machine.execReduceTicketRelease crew ord s
  | .copySquash crew => Sys2Proof.Machine.execCopySquash crew s
  | .astrmPush crew => Sys2Proof.Machine.execAstrmPush crew s
  | .matrixCommandStands crew => Sys2Proof.Machine.execMatrixCommandStands crew s
  | .mwldLatch crew => Sys2Proof.Machine.execMwldLatch crew s
  | .rayEnd ray => Sys2Proof.Machine.execRayEnd ray s
  | .rayHandoff ray => Sys2Proof.Machine.execRayHandoff ray s
  | .gatherTimeout wave => Sys2Proof.Machine.execGatherTimeout wave s
  | .vaultSample vault readings => Sys2Proof.Machine.execVaultSample vault readings s
  | .thermalTrip sensor => Sys2Proof.Machine.execThermalTrip sensor s
  | .packagePowerOff => Sys2Proof.Machine.execPackagePowerOff s
  | .droopTrip cluster => Sys2Proof.Machine.execDroopTrip cluster s
  | .gutterRestore cluster => Sys2Proof.Machine.execGutterRestore cluster s
  | .biasReplan cluster slack => Sys2Proof.Machine.execBiasReplan cluster slack s
  | .biasCodeStep cluster => Sys2Proof.Machine.execBiasCodeStep cluster s
  | .bbiasCodeWrite cluster value => Sys2Proof.Machine.execBbiasCodeWrite cluster value s
  | .taperEstimate cluster amps filler => Sys2Proof.Machine.execTaperEstimate cluster amps filler s
  | .taperRampEnd cluster => Sys2Proof.Machine.execTaperRampEnd cluster s
  | .eccCorrected array cluster => Sys2Proof.Machine.execEccCorrected array cluster s
  | .eccUncorrectable site => Sys2Proof.Machine.execEccUncorrectable site s
  | .backgroundScrub => Sys2Proof.Machine.execBackgroundScrub s
  | .slotVisit slot => Sys2Proof.Machine.execSlotVisit slot s
  | .launchStart slot => Sys2Proof.Machine.execLaunchStart slot s
  | .crewRetire crew => Sys2Proof.Machine.execCrewRetire crew s
  | .swapOut crew => Sys2Proof.Machine.execSwapOut crew s
  | .preemptDone ctx => Sys2Proof.Machine.execPreemptDone ctx s
  | .dumpcDone crew => Sys2Proof.Machine.execDumpcDone crew s
  | .handleMigrationEnd ctx hdl => Sys2Proof.Machine.execHandleMigrationEnd ctx hdl s
  | .notify slot => Sys2Proof.Machine.execNotify slot s
  | .admqWrite value => Sys2Proof.Machine.execAdmqWrite value s
  | .resetWrite value => Sys2Proof.Machine.execResetWrite value s
  | .registerWrite offset value => Sys2Proof.Machine.execRegisterWrite offset value s
  | .moduleBoot => Sys2Proof.Machine.execModuleBoot s
  | .hostMemoryWrite offset bytes => Sys2Proof.Machine.execHostMemoryWrite offset bytes s
  | .hostMemoryRead offset length => Sys2Proof.Machine.execHostMemoryRead offset length s
  | .launch c => Sys2Proof.Machine.execLaunch c s
  | .launchCaptured c => Sys2Proof.Machine.execLaunchCaptured c s
  | .evsignalSet c => Sys2Proof.Machine.execEvsignalSet c s
  | .evsignalClear c => Sys2Proof.Machine.execEvsignalClear c s
  | .mapq c => Sys2Proof.Machine.execMapq c s
  | .unmapq c => Sys2Proof.Machine.execUnmapq c s
  | .ctxnew c => Sys2Proof.Machine.execCtxnew c s
  | .ctxnewAllotment c => Sys2Proof.Machine.execCtxnewAllotment c s
  | .ctxnewLanternWays c => Sys2Proof.Machine.execCtxnewLanternWays c s
  | .ctxfree c => Sys2Proof.Machine.execCtxfree c s
  | .handleCreate c => Sys2Proof.Machine.execHandleCreate c s
  | .handlePriority c => Sys2Proof.Machine.execHandlePriority c s
  | .handleMigrate c => Sys2Proof.Machine.execHandleMigrate c s
  | .handleEvict c => Sys2Proof.Machine.execHandleEvict c s
  | .grant c => Sys2Proof.Machine.execGrant c s
  | .preempt c => Sys2Proof.Machine.execPreempt c s
  | .preemptResume c => Sys2Proof.Machine.execPreemptResume c s
  | .debugAttach c => Sys2Proof.Machine.execDebugAttach c s
  | .debugDetach c => Sys2Proof.Machine.execDebugDetach c s
  | .debugPcBreakpoint c => Sys2Proof.Machine.execDebugPcBreakpoint c s
  | .debugWatchpoint c => Sys2Proof.Machine.execDebugWatchpoint c s
  | .debugStopCrew c => Sys2Proof.Machine.execDebugStopCrew c s
  | .debugResumeCrew c => Sys2Proof.Machine.execDebugResumeCrew c s
  | .debugEmber c => Sys2Proof.Machine.execDebugEmber c s
  | .debugGrist c => Sys2Proof.Machine.execDebugGrist c s
  | .debugIcinv c => Sys2Proof.Machine.execDebugIcinv c s
  | .quote c => Sys2Proof.Machine.execQuote c s
  | .quoteExtend c => Sys2Proof.Machine.execQuoteExtend c s
  | .powercap c => Sys2Proof.Machine.execPowercap c s
  | .countersAccount c => Sys2Proof.Machine.execCountersAccount c s
  | .countersReadRegister c => Sys2Proof.Machine.execCountersReadRegister c s
  | .countersWriteRegister c => Sys2Proof.Machine.execCountersWriteRegister c s
  | .countersLifetime c => Sys2Proof.Machine.execCountersLifetime c s
  | .keyset c => Sys2Proof.Machine.execKeyset c s
  | .powerEstimate watts => Sys2Proof.Machine.execPowerEstimate watts s
  | .capExpiry => Sys2Proof.Machine.execCapExpiry s
  | .lifetimeRecordWrite => Sys2Proof.Machine.execLifetimeRecordWrite s
  | .emberTag core seq => Sys2Proof.Machine.execEmberTag core seq s
  | .emberRecord core seq stages => Sys2Proof.Machine.execEmberRecord core seq stages s
  | .flitCrcReplay port => Sys2Proof.Machine.execFlitCrcReplay port s
  | .inboundAccess port access => Sys2Proof.Machine.execInboundAccess port access s
  | .remoteAnswer id answer => Sys2Proof.Machine.execRemoteAnswer id answer s
  | .remoteAccessTimeout id => Sys2Proof.Machine.execRemoteAccessTimeout id s
  | .syncFlitSend => Sys2Proof.Machine.execSyncFlitSend s
  | .syncFlitReceive port stime => Sys2Proof.Machine.execSyncFlitReceive port stime s
  | .portSyncTimeout port => Sys2Proof.Machine.execPortSyncTimeout port s
  | .quoteRequestFlit port nonce => Sys2Proof.Machine.execQuoteRequestFlit port nonce s
  | .powerCapFlit port cap => Sys2Proof.Machine.execPowerCapFlit port cap s
  | .illegalInstruction r reject => Sys2Proof.Machine.execIllegalInstruction r reject s
  | .fetchFailure outside => Sys2Proof.Machine.execFetchFailure outside s
  | .icinvComplete p => Sys2Proof.Machine.execIcinvComplete p s
  | .copyError crew ord why => Sys2Proof.Machine.execCopyError crew ord why s
  | .intersectionShaderInvoke ray => Sys2Proof.Machine.execIntersectionShaderInvoke ray s

end Sys2Proof.Machine
end

