-- ==== Sys2Proof/Machine/Turn.lean ====
section
/-! DEFINITION. Whose turn it is: the issue of a unit (R50, R58), the queues that Lamplighter serves (R359 to R361, R402), and
the steps that the device takes of itself. Which of several steps that may come now comes first is the model's choice
(log 3); `agenda` and `sched` make any other. -/

namespace Sys2Proof.Machine

/-! ### The issue of a unit -/

/-- Whether the unit of the part in focus of `t` has ended in `v`: one that is held, or that a breakpoint stops, has not. -/
def unitEnded (t v : State) : Bool :=
  v.crew.cid != t.crew.cid || v.part.issued != t.part.issued || v.part.pc != t.part.pc
    || (v.part.state != t.part.state && v.part.state != .halted)

/-! ### The limits of a cycle (R169, R50) -/

/-- The issue slots of a sequencer in this cycle. -/
def slotsOf (core seq n : Nat) (s : State) : Slots :=
  let x := cget Slots.none (getCore s core).slots seq
  if x.cycle = n then x else { Slots.none with cycle := n }

/-- The class of a unit by its major (R169): scalar, memory, engine command, or vector. -/
def unitClass (w : W32) : Nat :=
  let m := (fMaj w).toNat
  if m = 5 ∨ (16 ≤ m ∧ m ≤ 19) ∨ (23 ≤ m ∧ m ≤ 25) then 1 else if m ≤ 6 then 0 else if 20 ≤ m ∧ m ≤ 22 then 2 else 3

/-- The quad positions that a unit of the part in focus holds. -/
def unitQuads (s : State) : Nat := s.part.quads * 2 ^ s.wave.qpos

/-- Whether a sequencer has room in this cycle for one more unit of a class at quad positions (R169). -/
def slotFree (x : Slots) (cls quads : Nat) : Bool :=
  decide (x.units < 4) && (x.held &&& quads == 0) && match cls with
    | 0 => decide (x.scalar < 2)
    | 1 => decide (x.memory < 1)
    | 2 => decide (x.engine < 1)
    | _ => true

/-- A unit of a class issues at quad positions. -/
def slotTaken (cls quads : Nat) (x : Slots) : Slots :=
  { x with held := x.held ||| quads, units := x.units + 1, scalar := x.scalar + (decide (cls = 0)).toNat,
           memory := x.memory + (decide (cls = 1)).toNat, engine := x.engine + (decide (cls = 2)).toNat }

/-- Whether the unit that the part in focus fetches has a slot in this cycle; one whose fetch waits has none. -/
def unitFits (s : State) : Bool :=
  match nextUnit s with
  | .error e => e.why != .owned
  | .ok (_, w, _) => slotFree (slotsOf s.crew.core s.wave.seqn (now s) s) (unitClass w) (unitQuads s)

/-- A sequencer of a core has picked a part in the cycle `n`: the other parts that YIELD has ranked below it for one pick are
ranked as before (R118). A part that may not issue yet after its YIELD has not been ranked. -/
def picked (core seq n : Nat) (s : State) : State :=
  let f := fun (p : Part) => { p with yielded := p.yielded && decide (n < p.ready) }
  let g := fun (w : Wave) => if w.seqn = seq then { w with parts := w.parts.map f } else w
  let t := if s.crew.core = core then
      { s with
        sibs := if s.wave.seqn = seq then s.sibs.map f else s.sibs, waves := s.waves.map g }
    else s
  { t with crews := t.crews.map (fun c => if c.core = core ∧ c.cond = .resident then { c with waves := c.waves.map g } else c) }

/-- The part in focus, which its sequencer has picked, begins a unit: what its wave's parts see of one another in this cycle is
fixed by the first of them (R21, R24), and the crew comes to the part's place in the order of the cycle (R201). -/
def beginUnit (s : State) : State :=
  let snap := match snapNow s with
    | some x => x
    | none => { cycle := now s, m := s.wave.m, table := ptabOf s.wave (allParts s), wctl := s.wave.wctl, tvec := s.wave.tvec }
  takeTurn (partKey s + 1) { s with part := { s.part with yielded := false }, wave := { s.wave with snap := some snap } }

/-- Whether the unit of the part in focus of `t` has issued in `v`: it has ended, or it waits inside. -/
def unitBegun (t v : State) : Bool := unitEnded t v || v.part.inUnit

/-- After a unit of a part: when it has issued it takes its slots (R169), and Ember counts it; when not, Ember forgets a tag
(R414). A unit that was waiting inside has taken them before. A step ends with its unit (R422). -/
def afterUnit (hs : List Hint) (w : W32) (t v0 : State) : State :=
  let core := t.crew.core
  let seq := t.wave.seqn
  let v := if unitEnded t v0 then endTag hs w t v0 else v0
  let u := if unitEnded t v then stepStop t v else v
  if t.part.inUnit then u
  else if unitBegun t v then
    let x := slotTaken (unitClass w) (unitQuads t) (slotsOf core seq (now t) t)
    let z := setCore u core { getCore u core with slots := cset Slots.none (getCore u core).slots seq x }
    let y := picked core seq (now t) z
    if emberOn t then countUnit core seq y else y
  else setEmber core seq (getEmber t core seq) v

/-- The tag of a unit that issues now; one that waits inside has issued before (R414). -/
def tagBegin (pc : W64) (s : State) : State := if s.part.inUnit then s else tagUnit pc s

/-- The agent in focus issues the unit it fetches; the focus goes back to the waves. -/
noncomputable def issue (s : State) : Host.Outcome State Fault Refusal :=
  match s.agent with
  | .sparge => match nextUnit s with
    | .error e => .next (fetchKill e s)
    | .ok (hs, w, t) => match exec (decodeUnit hs w) (takeTurn (spargeKey + 1) t) with
      | .next v => .next { v with agent := .wave }
      | stop => stop
  | .wave => match nextUnit (beginUnit s) with
    | .error e => .next (fetchKill e (beginUnit s))
    | .ok (hs, w, t) => match exec (decodeUnit hs w) (tagBegin (s.part.pc + BitVec.ofNat 64 (4 * hs.length)) t) with
      | .next v => .next (afterUnit hs w t v)
      | stop => stop

/-- Whether the part in focus may issue in this cycle (R30, R35), and no part after it in the order of the cycle has (R201). -/
def due (s : State) : Bool :=
  canIssue s && s.part.wait == .none && decide (s.part.ready ≤ now s) && turnFree (partKey s) s

/-- Whether the unit that holds the part in focus tests again in this cycle what it waits for. -/
def polls (s : State) : Bool :=
  canIssue s && decide (s.part.ready ≤ now s) && turnFree (partKey s) s && match s.part.wait with
    | .retry => true
    | .inside => true
    | .barw .. => true
    | .barc .. => true
    | .waita _ => true
    | _ => false

/-- Every part of a crew on a core, by core, wave and part (R201, R362). -/
def partRefs (s : State) : List PartRef :=
  let all := ((allCrews s).filter (fun c => c.cond == .resident)).flatMap (fun c => c.waves.flatMap (fun w => w.parts.map (fun p =>
    (512 * c.core + 16 * w.widx + lowBit p.quads, ({ crew := c.cid, wave := w.widx, part := lowBit p.quads } : PartRef)))))
  (sortBy (fun a b => decide (a.1 ≤ b.1)) all).map (·.2)

/-- The focus on a part, for its unit. -/
def focusUnit (s : State) (p : PartRef) : State := { focus s p with agent := .wave }

/-- The focus on a crew's slice, for Sparge's unit. -/
def focusSlice (s : State) (crew : Nat) : State := { focusCrew s crew with agent := .sparge }

/-- Whether Sparge issues for the slice in focus: after every part of the crew in a cycle (R222). -/
def dueSlice (s : State) : Bool :=
  s.agent == .sparge && spargeReady s && s.pkg.powered && !s.pkg.halted && turnFree spargeKey s && match nextUnit s with
    | .error e => e.why != .owned
    | .ok _ => true

/-- Whether another part of the sequencer of the part in focus is ready and not itself ranked below it (R118). -/
def outranked (s : State) : Bool :=
  s.part.yielded && (partRefs s).any (fun p =>
    let u := focusUnit s p
    u.crew.core == s.crew.core && u.wave.seqn == s.wave.seqn && !u.part.yielded && due u && unitFits u)

/-- Whether the part in focus is one that its sequencer may pick now (R50, R118, R169). A unit that waits inside has been picked:
it tests in every cycle (R214). -/
def mayPick (s : State) : Bool := (due s || polls s) && (s.part.inUnit || (unitFits s && !outranked s))

/-! ### Commands (R359 to R361, R402) -/

/-- A record whose code and form name no command: STATUS 1, or the vector alone (R400). -/
def unknownCommand (c : Cmd) (s : State) : State :=
  if takes s c = false then s else if bfield (Cmd.word c 1) 3 0 ≠ 0 then msix c.slot s else reply c 1 0#64 s

/-- The command that a record holds (R403). -/
def runCommand (c : Cmd) (s : State) : Host.Outcome State Fault Refusal :=
  match Cmd.code c, Cmd.form c with
  | 0x01, 0 => execLaunch c s
  | 0x01, 1 => execLaunchCaptured c s
  | 0x02, 0 => execEvsignalSet c s
  | 0x02, 1 => execEvsignalClear c s
  | 0x03, 0 => execMapq c s
  | 0x04, 0 => execUnmapq c s
  | 0x05, 0 => execCtxnew c s
  | 0x05, 1 => execCtxnewAllotment c s
  | 0x05, 2 => execCtxnewLanternWays c s
  | 0x06, 0 => execCtxfree c s
  | 0x07, 0 => execHandleCreate c s
  | 0x07, 1 => execHandlePriority c s
  | 0x07, 2 => execHandleMigrate c s
  | 0x07, 3 => execHandleEvict c s
  | 0x08, 0 => execGrant c s
  | 0x09, 0 => execPreempt c s
  | 0x09, 1 => execPreemptResume c s
  | 0x0A, 0 => execDebugAttach c s
  | 0x0A, 1 => execDebugDetach c s
  | 0x0A, 2 => execDebugPcBreakpoint c s
  | 0x0A, 3 => execDebugWatchpoint c s
  | 0x0A, 4 => execDebugStopCrew c s
  | 0x0A, 5 => execDebugResumeCrew c s
  | 0x0A, 6 => execDebugEmber c s
  | 0x0A, 7 => execDebugGrist c s
  | 0x0A, 8 => execDebugIcinv c s
  | 0x0B, 0 => execQuote c s
  | 0x0B, 1 => execQuoteExtend c s
  | 0x0C, 0 => execPowercap c s
  | 0x0D, 0 => execCountersAccount c s
  | 0x0D, 1 => execCountersReadRegister c s
  | 0x0D, 2 => execCountersWriteRegister c s
  | 0x0D, 3 => execCountersLifetime c s
  | 0x0E, 0 => execKeyset c s
  | _, _ => .next (unknownCommand c s)

/-- Whether Lamplighter may take a record of a slot now: the queue is served, its context runs, the host's writes before
the notify have settled (R397), no completion of it waits to be written, and no launch stands at its head. -/
def serves (s : State) (i : Nat) : Bool :=
  let x := getSlot s i
  x.serving && takes s { slot := i, words := [] } && decide (s.pkg.hostCt ≤ timeOf s)
    && !(s.net.any (fun a => a.core == hubCore && a.ctx == noCtx && !a.back))
    && !(s.pkg.posts.any (fun x => x.slot == some i))
    && !(s.launches.any (fun l => i != 0 && l.ctx == x.ctx && l.queue == x.queue && l.ring && !l.started))

/-- A queue whose header or record cannot be read is not served any more, and one whose header breaks R359 not until it is
mapped again, or for the admin queue until ADMQ is written. -/
def stopServing (i cause : Nat) (s : State) : State :=
  let x := getSlot s i
  let h : RecHead :=
    { type := 3, nslot := 1, widx := 0, pidx := 0, trapreg := false, restart := false, recov := false, akind := 0,
      reason := 0, cause := cause }
  let t := setSlot s i { x with serving := false, broken := decide (cause = 0x01) }
  if i = 0 then t else faultRun x.ctx [{ head := h, body := [x.hdr] }] t

/-- A record taken from HEAD: a LAUNCH stays there until it starts or is dropped (R361); any other record is passed. -/
def takeRecord (i : Nat) (v : Via) (hdr : Nat) (words : List W64) (s : State) : Host.Outcome State Fault Refusal :=
  let c : Cmd := { slot := i, words := words }
  if Cmd.code c = 0x01 ∧ i ≠ 0 then
    match runCommand c (holdSlot i words s) with
    | .next t =>
      let u := freeSlot i t
      .next (if s.launches.length < t.launches.length then u else advanceHead v hdr u)
    | stop => stop
  else runCommand c (advanceHead v hdr s)

/-- The record at HEAD of a queue, when there is one. -/
def headRecord (s : State) (v : Via) (hdr : Nat) : Option (List W64) :=
  (qheadAt s v hdr).bind (fun q => if q.head = q.tail then none
    else (viaRead s v (ringAddr q q.head) 64).map (fun r => (List.range 8).map (word64 r)))

/-- Whether a record of the admin queue is a CTXFREE of a context whose PREEMPT is under way: Lamplighter takes it, and it ends that
pre-emption (R377; log 57). -/
def killsPreempt (s : State) (ws : List W64) : Bool :=
  let c : Cmd := { slot := 0, words := ws }
  Cmd.code c == 0x06 && Cmd.form c == 0 && bfield (Cmd.word c 1) 3 0 == 0 && bfield (Cmd.word c 0) 47 40 == 0
    && bfield (Cmd.word c 0) 31 8 == 0 && payloadOk c [0x3F#64] &&
    match getCtx s (Cmd.word c 2).toNat with
    | some x => x.preempt == 1 && !x.freeing && x.ptag.isSome
    | none => false

/-- Lamplighter serves a slot: the command that waits is tried again, or the record at HEAD is taken. -/
def serveSlot (i : Nat) (s : State) : Host.Outcome State Fault Refusal :=
  let x := getSlot s i
  let v : Via := if i = 0 then none else some x.ctx
  let hdr := if i = 0 then s.pkg.admq.toNat else x.hdr.toNat
  if serves s i = false then .next s
  else match x.held with
    | some [] => if i ≠ 0 then .next s else match headRecord s v hdr with
      | some ws => if killsPreempt s ws then takeRecord i v hdr ws s else .next s
      | none => .next s
    | some ws => runCommand { slot := i, words := ws } (freeSlot i s)
    | none => match viaRead s v hdr 64 with
      | none => .next (stopServing i 0x0A s)
      | some b => match qheadOf b with
        | none => .next (stopServing i 0x01 s)
        | some q =>
          if q.head = q.tail then .next (setSlot s i { x with serving := false })
          else match viaRead s v (ringAddr q q.head) 64 with
            | none => .next (stopServing i 0x0A s)
            | some r => takeRecord i v hdr ((List.range 8).map (word64 r)) s

/-! ### The steps that the device takes of itself -/

/-- A step as a function of the state. -/
abbrev Event := State → Host.Outcome State Fault Refusal

/-- The state without its focus and without the model's counters. -/
def plain (s : State) : State := { unfocus s with agent := .wave, free := 0, ids := 0, visit := 0 }

/-- The first step of a list that changes the state. -/
def firstOf (s : State) : List Event → Option (Host.Outcome State Fault Refusal)
  | [] => none
  | e :: rest => match e s with
    | .next t => if plain t = plain s then firstOf s rest else some (.next t)
    | stop => some stop

/-- The rank of what an access may kill its crew for (R281): by wave and part, and the accesses of engines after every part. -/
def killRank (a : Access) : Nat :=
  match a.use with
  | .writedown => 512
  | .ahead _ => 512
  | .copy _ => 512
  | _ => if a.quads = 0 then 512 else 16 * a.wave + a.part

/-- The accesses on their way, those of the lowest wave and part first. -/
def netEvents (s : State) : List Event :=
  (sortBy (fun a b => decide (killRank a ≤ killRank b)) s.net).flatMap (fun a =>
    [execHomeAccess a.id, execAccessAnswer a.id, execRemoteAccessTimeout a.id])

/-- What comes to a part from outside. -/
def partEvents (p : PartRef) (q : Part) : List Event :=
  q.loads.map (fun l => execLoadDataReturn p l.id) ++ [execFenceReleaseComplete p, execIcinvComplete p]

/-- The engines of a crew on its core. -/
noncomputable def engineEvents (c : Crew) : List Event :=
  c.stores.flatMap (fun x => [execStoreAccepted c.cid x.id, execStoreFaultReport c.cid x.id]) ++
    c.copies.flatMap (fun x =>
      [CopyFault.descriptor, .translation, .outsideGrants, .slice].map (fun e => execCopyError c.cid x.ord e) ++
        [execReduceTicketPoll c.cid x.ord, execCopyComplete c.cid x.ord, execReduceTicketRelease c.cid x.ord]) ++
    [execAstrmPush c.cid, execMatrixCommandStands c.cid, execMwldLatch c.cid, execDumpcDone c.cid, execSwapOut c.cid]

/-- The crews that may retire, in ascending slot, the order in which launches complete in a cycle (R273, R362). -/
def retireEvents (s : State) : List Event :=
  (sortBy (fun a b => decide (a.slot ≤ b.slot)) ((allCrews s).filter (fun c => c.cond == .resident))).map
    (fun c => execCrewRetire c.cid)

/-- Every step of the crews on cores. -/
noncomputable def crewEvents (s : State) : List Event :=
  ((allCrews s).filter (fun c => c.cond == .resident)).flatMap (fun c =>
    c.waves.flatMap (fun w => w.parts.flatMap (fun q =>
      partEvents { crew := c.cid, wave := w.widx, part := lowBit q.quads } q)) ++ engineEvents c)

/-- The traversal units and the gatherers. -/
def rayEvents (s : State) : List Event :=
  s.rays.flatMap (fun r => [execRayHandoff r.id, execIntersectionShaderInvoke r.id, execRayEnd r.id]) ++
    s.gwaves.map (fun g => execGatherTimeout g.id)

/-- A visit of a slot, remembered. -/
def visitSlot (i : Nat) (s : State) : Host.Outcome State Fault Refusal :=
  match execSlotVisit i s with
  | .next t => .next { t with visit := i }
  | stop => stop

/-- Lamplighter's own work: the queues, the launches, the slots from the one after the last visited on (R366). -/
def lampEvents (s : State) : List Event :=
  let mapped := (s.slots.filter (fun x => x.2.mapped)).map (·.1)
  let order := mapped.filter (fun i => decide (s.visit < i)) ++ mapped.filter (fun i => decide (i ≤ s.visit))
  execPost :: s.slots.map (fun x => serveSlot x.1) ++ mapped.map execLaunchStart ++
    s.ctxs.map (fun x => execPreemptDone x.1) ++
    (allHandles s).flatMap (fun x => if x.2.2.moving.isEmpty then [] else [execHandleMigrationEnd x.1 x.2.1]) ++
    [execIcinvComplete { crew := 0, wave := 0, part := 0 }, execCapExpiry] ++ order.map visitSlot

/-- Clocks, power and the fabric. -/
def packageEvents (s : State) : List Event :=
  s.clusters.map (fun x => execTaperRampEnd x.1) ++
    s.fabric.ports.flatMap (fun x => [execPortSyncTimeout x.1, fun t => .next (answerQuote x.1 t)]) ++
    [fun t => if (t.pkg.tripDue.map (fun n => decide (n ≤ timeOf t))).getD false then execPackagePowerOff t else .next t]

/-- A cycle ends: the changes of event vectors that have come in it are applied (R362), and the clock is moved on by the shortest cycle of a cluster (R350), so that no cycle of any cluster is passed over, and no
further than the next boundary at which a clock changes (R347). -/
def tick (s : State) : State :=
  let n := s.clusters.foldl (fun m x => match x.2.shift with
    | some k => min m k
    | none => m) (s.clock + 60)
  let t := applyChanges s
  t.clusters.foldl (fun u x => settleClock x.1 u) { unfocus t with clock := max t.clock n }

/-- What a part waits for that belongs to a cycle before `n`, or that `n` ends: timers that have expired (R52), and WAITCY. -/
def latePart (n : Nat) (p : PartRef) (q : Part) : List Event :=
  (q.loads.filter (fun l => (l.timer.map (fun m => decide (m < n))).getD false)).map (fun l => execMissSplit p l.id) ++
    (if (q.timer.map (fun m => decide (m < n))).getD false then [execJoinTimeout p, execFuseWatchdogExpiry p] else []) ++
    match q.wait with
    | .cycles till => if till ≤ n then [execWaitcyEnd p] else []
    | _ => []

/-- What a crew on a core has from before cycle `n`: fuse conditions to evaluate (R52), what its parts wait for, the broadcast of
a dump (R129), a matrix command that stands by now (R259), and its copies once the drain limit has passed (R372). -/
def lateCrew (s : State) (n : Nat) (c : Crew) : List Event :=
  (if c.waves.any (fun w => (w.unsettled.map (fun m => decide (m < n))).getD false) then
      [fun t => .next (settleCrew n (focusCrew t c.cid))] else []) ++
    c.waves.flatMap (fun w => w.parts.flatMap (fun q =>
      latePart n { crew := c.cid, wave := w.widx, part := lowBit q.quads } q)) ++
    (match c.dump with
    | some d => if d.phase = 0 ∧ d.start < n ∧ c.waves.any (fun w => w.parts.any (haltsNow d w)) = true then
        [fun t => .next (haltOthers d (focusCrew t c.cid))] else []
    | none => []) ++
    (if c.copies != [] && drainEnded (focusCrew s c.cid) then [execCopySquash c.cid] else []) ++
    match c.matrix.cmds with
    | [] => []
    | x :: _ => if x.stands c.matrix ≤ n then [execMatrixCommandStands c.cid, execMwldLatch c.cid] else []

/-- A re-plan that the device starts of itself; what its replicas measure is free (R349). -/
def freeReplan (c : Nat) (s : State) : Host.Outcome State Fault Refusal :=
  execBiasReplan c (freeSlack s) { s with free := s.free + 81 }

/-- What a cluster has at a TIME: the end of a droop hold, a move of the bias generator, a re-plan, an estimate (R347 to
R352). -/
def lateCluster (s : State) (c : Nat) (x : Cluster) : List Event :=
  (if x.tripped && decide (x.holdEnd ≤ cycleOf s c) then [execGutterRestore c] else []) ++
    (if x.target.isSome && decide (x.stepAt ≤ timeOf s) then [execBiasCodeStep c] else []) ++
    (if s.pkg.booted && !x.planEnd && (x.planDue || decide (x.nextPlan ≤ timeOf s)) then [freeReplan c] else []) ++
    if x.ramp.isSome && decide (x.nextEst ≤ timeOf s) then
      [fun t => execTaperEstimate c (Config.freeNat 10 t.free) (Config.freeNat 11 t.free) { t with free := t.free + 1 }]
    else []

/-- What the package has at a TIME: samples, records, the scrub and the estimate of power (R341, R354, R408, R409). -/
def lateClock (s : State) : List Event :=
  (s.vaults.filter (fun x => decide (x.2.next ≤ timeOf s))).map (fun x => fun t => .next (freeSample x.1 t)) ++
    (if s.pkg.nextHour ≤ timeOf s then [execLifetimeRecordWrite] else []) ++
    (if s.pkg.nextScrub ≤ timeOf s then [execBackgroundScrub] else []) ++
    (if s.pkg.nextPower ≤ timeOf s then
      [fun t => execPowerEstimate (Config.freeNat 12 t.free) { t with free := t.free + 1 }] else []) ++
    (if s.fabric.porten ≠ 0 ∧ s.fabric.nextSync ≤ timeOf s then [execSyncFlitSend] else []) ++
    s.clusters.flatMap (fun x => lateCluster s x.1 x.2)

/-- What comes before the first unit of a cycle. -/
def lateEvents (s : State) : List Event :=
  lateClock s ++
    ((allCrews s).filter (fun c => c.cond == .resident)).flatMap (fun c => lateCrew s (cycleOf s (clusterOf c.core)) c)

/-- The words that Sparge issues in this cycle, after the units of the parts (R222). -/
noncomputable def sliceEvents (s : State) : List Event :=
  ((allCrews s).filter (fun c => c.cond == .resident && c.slice.has)).map (fun c => fun s =>
    let t := focusSlice s c.cid
    if dueSlice t then issue t else .next s)

/-- Whether Ember's count has reached its interval on the sequencer in focus (R414). -/
def tagDue (s : State) : Bool :=
  let e := ownEmber s
  emberOn s && !s.part.inUnit && e.interval != 0 && decide (e.interval ≤ e.count) && e.tag.isNone && !e.armed

/-- The first part, by crew, wave and part, that may issue or tests what it waits for in this cycle (R201, R214). -/
noncomputable def nextPick (s : State) : Option (Host.Outcome State Fault Refusal) :=
  ((partRefs s).find? (fun p => mayPick (focusUnit s p))).map (fun p =>
    let u := focusUnit s p
    if tagDue u then execEmberTag u.crew.core u.wave.seqn u else issue u)

/-- The step that the device takes of itself: the end of a crew; else a unit that may issue in this cycle, in the order of R201; else a word of
Sparge; else a step that something waits for; else a cycle passes. -/
noncomputable def ownTurn (s : State) : Host.Outcome State Fault Refusal :=
  if dueSlice s then issue s
  else match firstOf s (retireEvents s) with
  | some o => o
  | none => match nextPick s with
    | some o => o
    | none => match firstOf s (netEvents s ++ sliceEvents s ++ crewEvents s ++ rayEvents s ++ lampEvents s ++ packageEvents s) with
      | some o => o
      | none => .next (tick s)

/-- A pick of `sched`, which goes on with `rest`: the unit of the agent it names when that may issue, and nothing otherwise. A
unit that is to be tagged issues in the step after (R414). -/
noncomputable def takePick (t : Turn) (rest : List Turn) (s0 : State) : Host.Outcome State Fault Refusal :=
  let s := { s0 with sched := rest }
  match t with
  | .part p => let u := focusUnit s p
    if u.crew.cid = p.crew ∧ mayPick u = true then
      if tagDue u then execEmberTag u.crew.core u.wave.seqn s0 else issue u
    else .next s
  | .slice c => let u := focusSlice s c
    if u.crew.cid = c ∧ dueSlice u = true then issue u else .next s

/-- Whether the boot may go on: it has not started, or its re-plans have ended (R398). -/
def bootDue (s : State) : Bool := !s.pkg.booting || plansEnded s

/-- One step of the device: an event of the agenda, the boot after a reset, what a cycle begins with, a pick, or a step of its
own. Without power only a reset is left (R346). -/
noncomputable def turn (s : State) : Host.Outcome State Fault Refusal :=
  match s.agenda with
  | .resetWrite v :: rest => exec (.resetWrite v) { s with agenda := rest }
  | i :: rest => if s.pkg.powered then exec i { s with agenda := rest } else .fault .unpowered
  | [] =>
    if s.pkg.powered = false then .fault .unpowered
    else if s.pkg.booted = false ∧ s.pkg.halted = false ∧ bootDue s = true then execModuleBoot s
    else match firstOf s (lateEvents s) with
      | some o => o
      | none => match s.sched with
        | t :: rest => takePick t rest s
        | [] => ownTurn s

end Sys2Proof.Machine
end

