-- ==== Sys2Proof/Machine/Step.lean ====
section
/-! DEFINITION. The step of the machine, and the state with an instruction placed where the next step fetches it. -/

namespace Sys2Proof.Machine

/-- One step: `turn`. -/
noncomputable def step (s : State) : Host.Outcome State Fault Refusal := turn s

/-- Whether a word is one that Sparge runs: ALOOP to AHALT (R241). -/
def forSparge (w : Nat) : Bool := w / 2 ^ 27 % 32 == 21 && decide (w % 16 < 6)

/-- A context whose page tables stand at 0x10000 and that may use everything. -/
def placedCtx : Ctx :=
  { ptroot := 0x10000#64, ring := 0#64, save := 0x100000#64, saveLen := 0x1000000#64, rights := 7, allot := [], ways := 0,
    events := [], handles := [], queues := [], caught := [], seq := 0, preempt := 0, ptag := none, freeing := false, account := [],
    crewRef := 0, contCnt := 0, space := [], attached := false, buffer := 0#64, bseq := 0, bps := [], watches := [],
    emberOn := false, emberK := 0, grist := 0#64, held := [], names := [] }

/-- A launch of one crew, started. -/
def placedLaunch (lid : Nat) : Launch :=
  { lid := lid, ctx := 0, queue := 0, slot := 1, addr := 0#64, word0 := 0#64, cpla := 0#64, bytes := [], caught := false,
    started := true, passed := true, next := 1, total := 1, alive := 1, lost := 0, grants := [], pages := [], stkPages := [],
    away := 0, ring := false, doms := [] }

/-- A resident crew of one wave of 64 lanes, with a matrix engine, a slice, scratchpad and handles. -/
def placedCrew (cid lid cycle : Nat) (sparge : Bool) : Crew :=
  { Crew.none with
    cid := cid, cond := .resident, launch := lid, slot := 1, code := 4, nwave := 1, entry := 0x40000#64, scr := 65536,
    nbuf := 64, matrix := { Matrix.reset with owned := true }, admitted := cycle,
    slice := { Slice.reset with has := true, pc := if sparge then 0x40000#64 else 0#64, state := if sparge then 1 else 0 } }

/-- The part: all 64 lanes active, at 0x40000. -/
def placedPart (cycle : Nat) : Part :=
  { Part.none with quads := 0xFFFF, exm := 0xFFFFFFFFFFFFFFFF#64, pc := 0x40000#64, ready := cycle }

/-- The bytes from an address on, with their places. -/
def placeBytes : Nat → List Byte → Memory → Memory
  | _, [], m => m
  | a, b :: t, m => placeBytes (a + 1) t (cset 0#8 m a b)

/-- Page tables that map the first gigabyte onto itself, with every right, and the word at 0x40000. -/
def placedMemory (w : Nat) (m : Memory) : Memory :=
  placeBytes 0x10000 [0x01#8, 0#8, 0#8, 0x04#8, 0#8, 0#8, 0#8, 0#8]
    (placeBytes 0x20000 [0x1F#8, 0#8, 0#8, 0#8, 0#8, 0#8, 0#8, 0#8]
      (placeBytes 0x40000 (bytesOfWord (BitVec.ofNat 32 w)) m))

/-- Memory with those bytes, plain, sound and owned by no copy. -/
def placedMemSys (w : Nat) (m : MemSys) : MemSys :=
  { m with
    bytes := placedMemory w m.bytes, lines := m.lines.filter (fun x => !([512, 1024, 2048].contains x.1)),
    keyed := m.keyed.filter (fun x => !([2048, 4096, 8192].contains x.1)),
    poison := m.poison.filter (fun x => !([2048, 4096, 8192].contains x.1)) }

/-- The state with a row's word placed where `step` fetches next: a booted device, a context with page tables, and a crew in
focus whose part, or whose slice, stands at the word (log 1). -/
def State.withFetchWord (s : State) (nbits w : Nat) : State :=
  let word := w % 2 ^ nbits
  let t := unfocus s
  let cycle := cycleOf s 0
  { t with
    agent := if forSparge word then .sparge else .wave, part := placedPart cycle,
    wave := { Wave.none with code := 4, vbase := 128, vcur := 128 },
    crew := placedCrew s.ids (s.ids + 1) cycle (forSparge word),
    launches := t.launches ++ [placedLaunch (s.ids + 1)], ctxs := cset none t.ctxs 0 (some placedCtx),
    cores := cset Core.none t.cores 0 { getCore t 0 with icache := [] },
    memsys := placedMemSys word t.memsys,
    pkg := { t.pkg with powered := true, booted := true, halted := false, status := t.pkg.status ||| 1#64 },
    agenda := [], sched := [], ids := s.ids + 2 }

end Sys2Proof.Machine
end

