-- ==== Sys2Proof/Safety.lean ====
section
/-! DEFINITION. What counts as a safe step and as a unit that issues, in the terms that the statements use: the canonical
form of memory, the conditions under which a unit takes its own effect (R72, R162, R419, R32, R33), and the parts of the
state that a unit leaves alone. -/

namespace Sys2Proof.Machine

/-! ### Safe outcomes -/

/-- An outcome that is a next state. -/
def isNext (o : Host.Outcome State Fault Refusal) : Bool :=
  match o with
  | .next _ => true
  | _ => false

/-- Memory is in its canonical form. -/
def MemOk (s : State) : Prop := Memory.wf s.memsys.bytes = true

/-! ### A unit that issues -/

/-- Whether no faulting store of the part in focus must be reported before its next unit (R162). -/
def noStoreDue (s : State) : Bool :=
  (ownStores s).all (fun x => x.fault.isNone || decide (s.part.issued < x.at_ + 17))

/-- Whether nothing comes before the unit at the PC of the part in focus: the part may issue, no store fault is to be taken
and none may still come for a store that the unit would be the 17th after, and no breakpoint matches (R35, R162, R419). -/
def clear (r : Run) (s : State) : Bool :=
  canIssue s && s.agent == .wave && noStoreDue s && (s.part.fault.isNone || s.part.state == .trapped)
    && !answerDue s && (breakAt r s).isNone

/-- Whether a unit takes its own effect now: nothing comes before it, every check of R72 passes, no interlock holds it and
the checking scoreboard does not stop it (R32, R33). -/
def ready (o : Op) (s : State) : Bool :=
  clear o.run s && (rejectOp o s).isNone && o.priv.isNone && !interlocked o s && (underrun o s).isNone

/-! ### The turn of a part -/

/-- Whether the part in focus is the next to issue: `sched` names it first and goes on with `rest`, or `sched` is empty, no
crew retires and no part before it in the order of the cycle may issue (R50, R201). -/
def picksHere (s : State) (rest : List Turn) : Prop :=
  mayPick { s with sched := rest } = true ∧ (s.sched = .part (hereRef s) :: rest ∨
    (s.sched = [] ∧ rest = [] ∧ firstOf s (retireEvents s) = none ∧
      (partRefs s).find? (fun p => mayPick (focusUnit s p)) = some (hereRef s)))

/-! ### What a unit leaves alone -/

/-- The part in focus has moved on to `pc`, to issue again no earlier than `n` cycles later, or after its stall count. -/
def Moved (r : Run) (n : Nat) (pc : W64) (s t : State) : Prop :=
  t.part.pc = pc ∧ t.part.ready = now s + max n (stallOf r + 1) ∧ t.part.wait = .none ∧ t.part.issued = s.part.issued + 1

/-- The state without the registers of the part and of its wave, without the part's flow (PC, ready cycle, wait, issue count,
pending writes), and without the free counter. -/
def hide (s : State) : State :=
  { s with
    free := 0,
    part := { s.part with
      pc := 0#64, ready := 0, wait := .none, relDone := false, fresh := false, issued := 0, pend := [], s := [] },
    wave := { s.wave with v := [], m := [] } }

/-- Everything but registers and the part's flow is as before: every other register of the part (exm and the trap registers
among them), the wave's control registers, every other part, wave and crew, every special register, accumulator and cache,
and every byte of memory. -/
def SameRest (s t : State) : Prop := hide t = hide s ∧ ∀ a, rawByte t a = rawByte s a

/-- Every scalar register is as before, but for `d`, which holds `x`; a write of `sz` changes nothing (R18). -/
def ScalarSet (d : Nat) (x : W64) (s t : State) : Prop :=
  ∀ n, cget 0#64 t.part.s n = if n = d ∧ d ≠ 63 then x else cget 0#64 s.part.s n

def ScalarSame (s t : State) : Prop := t.part.s = s.part.s

/-- Every lane of every vector register is as before, but for the lanes `ls` of register `d`, which hold `f`. -/
def VectorSet (d : Nat) (ls : List Nat) (f : Nat → W32) (s t : State) : Prop :=
  ∀ n l, l < 64 → vraw t.wave n l = if n = d ∧ ls.contains l = true then f l else vraw s.wave n l

def VectorSame (s t : State) : Prop := t.wave.v = s.wave.v

/-- Every mask register is as before, but for the bits of the lanes `ls` of register `d`, which are those of `f`. -/
def MaskSet (d : Nat) (ls : List Nat) (f : Nat → Bool) (s t : State) : Prop :=
  ∀ n l, l < 64 →
    (cget 0#64 t.wave.m n).getLsbD l = if n = d ∧ ls.contains l = true then f l else (cget 0#64 s.wave.m n).getLsbD l

def MaskSame (s t : State) : Prop := t.wave.m = s.wave.m

/-- A unit's result in a scalar register, and nothing else but the step to the next unit. -/
def ScalarResult (r : Run) (lat d : Nat) (x : W64) (s t : State) : Prop :=
  Moved r 1 (unitNext r s) s t ∧ SameRest s t ∧ VectorSame s t ∧ MaskSame s t ∧ ScalarSet d (settled lat s (.s d) 0 x) s t

/-- A unit's result in lanes of a vector register, and nothing else but the step to the next unit. -/
def VectorResult (r : Run) (lat d : Nat) (ls : List Nat) (f : Nat → W32) (s t : State) : Prop :=
  Moved r 1 (unitNext r s) s t ∧ SameRest s t ∧ ScalarSame s t ∧ MaskSame s t ∧
    VectorSet d ls (fun l => (settled lat s (.v d) l ((f l).setWidth 64)).setWidth 32) s t

/-- A unit's result in bits of a mask register, and nothing else but the step to the next unit. -/
def MaskResult (r : Run) (lat d : Nat) (ls : List Nat) (f : Nat → Bool) (s t : State) : Prop :=
  Moved r 1 (unitNext r s) s t ∧ SameRest s t ∧ ScalarSame s t ∧ VectorSame s t ∧
    MaskSet d ls (fun l => (settled lat s (.m d) 0 (maskOf f)).getLsbD l) s t

/-- A unit that goes on at `pc` and changes no register. -/
def NoResult (r : Run) (n : Nat) (pc : W64) (s t : State) : Prop :=
  Moved r n pc s t ∧ SameRest s t ∧ ScalarSame s t ∧ VectorSame s t ∧ MaskSame s t

/-! ### Units whose result is a register -/

/-- Instruction `i` writes `x` to scalar register `d` whenever it is ready, and nothing else. -/
def ScalarUnit (i : Instr) (o : Op) (d : BitVec 7) (x : State → W64) : Prop :=
  ∀ s, ready o s = true → ∃ t, exec i s = .next t ∧ ScalarResult o.run o.lat d.toNat (x s) s t

/-- Instruction `i` writes `f` to the active lanes of vector register `d` whenever it is ready, and nothing else (R22). -/
def LaneUnit (i : Instr) (o : Op) (d : BitVec 7) (f : State → Nat → W32) : Prop :=
  ∀ s, ready o s = true → ∃ t, exec i s = .next t ∧ VectorResult o.run o.lat d.toNat (activeLanes s) (f s) s t

/-- Whether no active lane has an FP32 invalid event that traps (R134, R164). -/
def noEvent (f : State → Nat → Res) (s : State) : Prop :=
  (wctlOf s).getLsbD 2 = false ∨ s.part.state = .trapped ∨ ∀ l ∈ activeLanes s, (f s l).inv = false

/-- Instruction `i` writes the encodings `f` to the active lanes of vector register `d` whenever it is ready and no event
traps, and nothing else. -/
def FloatUnit (i : Instr) (o : Op) (d : BitVec 7) (f : State → Nat → Res) : Prop :=
  ∀ s, ready o s = true → noEvent f s →
    ∃ t, exec i s = .next t ∧
      VectorResult o.run o.lat d.toNat (activeLanes s) (fun l => BitVec.ofNat 32 (f s l).bits) s t

/-- The same for a wave-wide instruction with width code `w` whose groups are all the part's own or exited (R45). -/
def CrossUnit (i : Instr) (o : State → Op) (w : BitVec 3) (d : BitVec 7) (f : State → Nat → Res) : Prop :=
  ∀ s, ready (o s) s = true → covered s (wOf w) s.part.quads s.part.quads = true → noEvent f s →
    ∃ t, exec i s = .next t ∧
      VectorResult (o s).run 8 d.toNat (activeLanes s) (fun l => BitVec.ofNat 32 (f s l).bits) s t

/-- Instruction `i` writes `f` to the lanes `ls` of mask register `d` whenever it is ready and `pre` holds, and nothing
else. -/
def MaskUnit (i : Instr) (o : Op) (d : BitVec 7) (pre : State → Prop) (ls : State → List Nat) (f : State → Nat → Bool) : Prop :=
  ∀ s, ready o s = true → pre s → ∃ t, exec i s = .next t ∧ MaskResult o.run o.lat d.toNat (ls s) (f s) s t

/-- Instruction `i` goes on at `pc`, no earlier than `n` cycles later, and changes no register and no memory. -/
def FlowUnit (i : Instr) (o : Op) (n : Nat) (pc : State → W64) : Prop :=
  ∀ s, ready o s = true → ∃ t, exec i s = .next t ∧ NoResult o.run n (pc s) s t

/-- Instruction `i`, whenever it is ready and `pre` holds, changes the state as `u` says and falls through (R30). -/
def StateUnit (i : Instr) (o : Op) (pre : State → Prop) (u : State → State) : Prop :=
  ∀ s, ready o s = true → pre s → exec i s = .next (done o.run (u s))

/-- Whether a handled cause enters the handler: the part is in none, and its wave has one (R154, R155). -/
def handles (s : State) : Prop := s.part.state ≠ .trapped ∧ pcField (tvecOf s) ≠ 0#64

/-- The trap registers and the flow of a part that has entered its handler for a cause of cycle `c` (R156, R159 to R161). -/
def EnteredAt (c : Nat) (t : Trap) (ulen : Nat) (s u : State) : Prop :=
  u.part.xpc = pcField s.part.pc ∧ u.part.xcause = xcauseOf t.cause ulen ∧ u.part.xlanes = t.lanes ∧
    u.part.xpart = xpartOf s ∧ u.part.xinfo = t.info ∧ u.part.xaddr = t.addr ∧ u.part.sexm = s.part.exm ∧
    u.part.exm = s.part.exm ∧ u.part.state = .trapped ∧ u.part.pc = pcField (tvecAt c s.wave) ∧
    c + 4 ≤ u.part.ready ∧ u.part.s = s.part.s ∧ u.wave = s.wave ∧ ∀ a, rawByte u a = rawByte s a

/-- The same for a cause of this cycle. -/
def Entered (t : Trap) (ulen : Nat) (s u : State) : Prop := EnteredAt (now s) t ulen s u

/-! ### Accesses to memory -/

/-- Whether an access passes the checks before translation: every address is a multiple of the size (R193), names a window
(R173) and matches no watchpoint (R419), and no atomic of the part waits for its line. -/
def accessClear (m : Form) (addrs : List (Nat × W64)) (s : State) : Bool :=
  !atomPending s && addrs.all (fun x => x.2.toNat % m.size == 0) && (accsOf m addrs s).all (fun a => a.tgt != .bad) &&
    (watchHit (((accsOf m addrs s).filter LaneAcc.watched).map (fun a => (a.lane, a.va))) m.size m.rd m.wr s).isNone

/-- Whether every lane is translated, granted and allowed (R388, R199). -/
def accessGranted (m : Form) (addrs : List (Nat × W64)) (s : State) : Bool := (failing m (accsOf m addrs s) s).isEmpty

/-- Whether a load's fills have room under their trackers and no lane hits a poisoned word (R187, R355). -/
def loadRoom (r : Run) (h : How) (n : Nat) (m : Form) (addrs : List (Nat × W64)) (s : State) : Bool :=
  let qs := readyOf m r (accsOf m addrs s) s
  !(qs.any (fun q => isHit h q n s && poisonedL1 s (q.place.pa / 128) (q.place.pa % 128) n)) &&
    roomFor s ((missGroups h qs n s).map (·.trk))

/-- What a unit that leaves its results to the memory system does not change: the part's registers and masks, its wave, the
caches of the instructions, and every byte of memory. -/
def MemoryQuiet (r : Run) (s t : State) : Prop :=
  Moved r 1 (unitNext r s) s t ∧ t.part.s = s.part.s ∧ t.part.exm = s.part.exm ∧ t.wave = s.wave ∧ t.memsys = s.memsys ∧
    t.clusters = s.clusters ∧ t.ctxs = s.ctxs ∧ t.launches = s.launches ∧ t.pkg = s.pkg ∧ (∀ a, rawByte t a = rawByte s a)

/-- What fills that leave do to the cores (R332): DIRTY bytes stay, and a line that none of them asks for stays as it was, but
that one of `hits` goes first when its set next loses a line (R182). -/
def CoresKept (lines hits : List Nat) (s t : State) : Prop :=
  (∀ k, { getCore t k with l1 := [] } = { getCore s k with l1 := [] }) ∧
    (∀ k l, k ≠ s.crew.core ∨ lines.contains l = false →
      getL1 t k l = if k = s.crew.core ∧ hits.contains l = true ∧ inL1 s k l = true then { getL1 s k l with first := true }
        else getL1 s k l) ∧
    ∀ k l, (getL1 t k l).dirty = (getL1 s k l).dirty ∧
      ∀ o, (getL1 s k l).dirty.getLsbD o = true → cget 0#8 (getL1 t k l).data o = cget 0#8 (getL1 s k l).data o

/-- A load has left: it waits for its bytes, with those fixed that L1 or the scratchpad holds, and writes no register yet
(R195, R32). -/
def LoadIssued (r : Run) (h : How) (kind : LoadKind) (reg n : Nat) (m : Form) (addrs : List (Nat × W64)) (s t : State) : Prop :=
  let accs := accsOf m addrs s
  MemoryQuiet r s t ∧ t.crew.stores = s.crew.stores ∧ t.crew.scratch = s.crew.scratch ∧
    CoresKept ((missGroups h (readyOf m r accs s) n s).map (fun q => q.place.pa / 128))
      (hitLines h (readyOf m r accs s) n s) s t ∧
    ∃ ld : Load, t.part.loads = s.part.loads ++ [ld] ∧ ld.kind = kind ∧ ld.reg = reg ∧ ld.acq = h.acq ∧
      ld.lanes.map (fun x => (x.lane, x.fixed)) =
        (readyOf m r accs s).map (fun q => (q.lane, fixedBytes h q n s)) ++
          (scratchOf accs).map (fun x => (x.1, scratchCells s.crew x.2 n))

/-- A store has been performed: its bytes stand in the scratchpad, in L1, or on their way to their homes; memory itself is
as before, and the store is pending until it is accepted (R182, R184, R195). -/
def StoreIssued (r : Run) (direct first : Bool) (data : Nat → List Byte) (dreg : Nat) (m : Form) (addrs : List (Nat × W64))
    (s t : State) : Prop :=
  let accs := accsOf m addrs s
  MemoryQuiet r s t ∧ t.part.loads = s.part.loads ∧
    (∃ u, storeLanes direct first data accs (readyOf m r accs s) s = some u ∧ t.cores = u.cores ∧ t.net = u.net ∧
      ∃ st : PStore, t.crew.stores = s.crew.stores ++ [st] ∧ st.fault = none ∧ st.dreg = dreg ∧ st.pc = s.part.pc ∧
        st.accs = sentStores s.ids u) ∧
    t.crew.scratch = ((scratchOf accs).foldl (fun (c : Crew) x => scrWrite x.2 (data x.1) c) s.crew).scratch

/-- Whether a store meets no barrier word (R180). -/
def storeClear (m : Form) (addrs : List (Nat × W64)) (s : State) : Bool :=
  !((scratchOf (accsOf m addrs s)).any (fun x => touchesBar s.crew x.2 m.size))

/-- Whether a store finds a place in L1 and room under its trackers for what it sends (R183, R187). -/
def storeRoom (r : Run) (direct first : Bool) (data : Nat → List Byte) (m : Form) (addrs : List (Nat × W64)) (s : State) : Bool :=
  let accs := accsOf m addrs s
  (storeLanes direct first data accs (readyOf m r accs s) s).isSome

/-- Whether every offset is a multiple of the size and lies in the reservation (R200), and no atomic of the part has still to
be performed at the scratchpad (R201). -/
def spadClear (n : Nat) (offs : List (Nat × W64)) (s : State) : Bool :=
  !scratchPending s && offs.all (fun x => x.2.toNat % n == 0 && decide (x.2.toNat + n ≤ s.crew.scr))

/-- Whether a release finds nothing to do: no DIRTY line under its far trackers, and no write or copy of theirs under way
or ahead of TIME (R211). -/
def releaseClear (mask scope : Nat) (s : State) : Bool :=
  let ts := farTrks s.crew mask scope
  (dirtyLines s s.crew.core s.crew.cid (fun k => ts.contains k)).isEmpty &&
    released (writesUnder s ts) (copiesUnder s ts) ts s

/-- Whether a copy passes the checks of R225 after its alignment: its handle accepts it, its completion word and its region
lie where they must, its addresses name the global or a vault window, and its core has room. -/
def copyClear (c : Copy) (s : State) : Bool :=
  bufAccepts c.hmode (getBuf s.crew (c.hnd.getD 0)) &&
    (!c.hasCw || (c.cwOff % 8 == 0 && decide (c.cwOff + 8 ≤ s.crew.scr))) && regionOk s c && (c.astray s).isNone &&
    !fullEngine s

/-! ### Reads that a unit makes itself (R317, R321) -/

/-- The form of such reads. -/
def readForm (scalar : Bool) (n : Nat) : Form := { size := n, scalar := scalar, rd := true, wr := false }

/-- Whether every lane's bytes are at hand: its address passes the checks, the grants and the translation, and its bytes
stand in the scratchpad, in L1 or in an answer that has come, unpoisoned. -/
def readsReady (h : How) (scalar : Bool) (n : Nat) (r : Run) (addrs : List (Nat × W64)) (s : State) : Bool :=
  let m := readForm scalar n
  let t := dropReads s
  let accs := accsOf m addrs t
  !acquiring s && accessClear m addrs t && accessGranted m addrs t && !unitFailed s &&
    accs.all (fun c => (unitBytes h m r n c s).isSome) && !(accs.any (fun c => unitPoison m r n c s))

/-- The bytes that a lane has read. -/
def readVals (h : How) (scalar : Bool) (n : Nat) (r : Run) (addrs : List (Nat × W64)) (s : State) (l : Nat) : List Byte :=
  let m := readForm scalar n
  ((((accsOf m addrs (dropReads s)).map (fun c => (c.lane, unitBytes h m r n c s))).lookup l).bind id).getD []

/-- The vector registers of `ds`, one function each, written in the lanes `ls`; every other lane is as before. -/
def VectorsSet (ds : List (Nat × (Nat → W32))) (ls : List Nat) (s t : State) : Prop :=
  ∀ n l, l < 64 → vraw t.wave n l = match ds.lookup n with
    | some f => if ls.contains l then f l else vraw s.wave n l
    | none => vraw s.wave n l

/-! ### Placement and commands -/

/-- The place that a wave takes on a core. -/
def waveSpot (w : Wave) : Spot :=
  { seqn := w.seqn, pos := w.qpos, quads := widthOf w.code / 4, regs := w.vcur, parts := w.parts.length }

/-- Whether the waves on a core keep the capacity of its sequencers and banks (R12). -/
def spotsOk (l : List Spot) : Prop :=
  ∀ sq i, let near := l.filter (fun y => y.seqn == sq)
    near.length ≤ 32 ∧ (near.map (·.parts)).sum ≤ 64 ∧
      (near.map (fun y => if y.pos ≤ i ∧ i < y.pos + y.quads then y.regs else 0)).sum ≤ 1024

/-- Whether a command passes the checks that all commands share, and is then performed (R400, R401). -/
def accepts (c : Cmd) (code form : Nat) (o : Origin) (used : List W64) (s : State) : Bool :=
  takes s c && Cmd.code c == code && Cmd.form c == form && bfield (Cmd.word c 1) 3 0 == 0 &&
    bfield (Cmd.word c 0) 47 40 == 0 && bfield (Cmd.word c 0) 31 8 == 0 && o.allows (cmdVia s c) && payloadOk c used

/-- What R400 and R401 check of a command from a slot that Lamplighter serves, for the form that `i` performs: a CPLA that is no
multiple of 16, a reserved bit, the queue, the payload, and the context that the command names, when it names one. -/
def ChecksForm (c : Cmd) (s : State) (i : Instr) (code form : Nat) (o : Origin) (used : List W64) (ctx : Option Nat) : Prop :=
  takes s c = true → Cmd.code c = code → Cmd.form c = form →
    let aligned := bfield (Cmd.word c 1) 3 0 = 0
    let clean := bfield (Cmd.word c 0) 47 40 = 0 ∧ bfield (Cmd.word c 0) 31 8 = 0
    (¬ aligned → exec i s = .next (msix c.slot s)) ∧
    (aligned → ¬ clean → exec i s = .next (reply c 1 0#64 s)) ∧
    (aligned → clean → o.allows (cmdVia s c) = false → exec i s = .next (reply c 2 0#64 s)) ∧
    (aligned → clean → o.allows (cmdVia s c) = true →
      (payloadOk c used = false → exec i s = .next (reply c 1 0#64 s)) ∧
      (payloadOk c used = true → ∀ n, ctx = some n → getCtx s n = none → exec i s = .next (reply c 3 0#64 s)))

end Sys2Proof.Machine
end

