-- ==== Sys2Proof/WellFormed.lean ====
section
/-! DEFINITION. Well-formed instructions. A word's hint run must be one that steps 1 and 2 of R72 let pass; every field has
the width of its place in the word, so nothing else of a word can be ill-formed here (the ranges that step 3 checks depend
on the wave: `rejectOp`). A step that no word encodes must name parts, cores, vaults, ports, slots, contexts and handles
that the device has, and a command must be the command that its record says. -/

namespace Sys2Proof

/-- A hint run that fails neither step 1 nor step 2 of R72. -/
def runOk (r : Run) : Bool := (rejectRun r.hints).isNone

/-- A part of a wave that can exist: 32 waves, 16 parts (R11, R36). -/
def PartRef.ok (p : PartRef) : Bool := decide (p.wave < 32) && decide (p.part < 16)

/-- A command record (R400): eight words, from a slot that exists, with the command's code and form. -/
def Cmd.ok (c : Cmd) (code form : Nat) : Bool :=
  decide (c.slot < 64) && decide (c.words.length = 8) &&
    (match c.words with
      | w :: _ => bitsEq w 0 8 code && bitsEq w 32 8 form
      | [] => false)
where
  /-- A field of a word compared with a number. -/
  bitsEq (w : W64) (lo n k : Nat) : Bool := w.toNat / 2 ^ lo % 2 ^ n == k

/-- A refusal of a unit that steps 1 to 3 of R72 can make. -/
def Reject.ok (e : Reject) (r : Run) : Bool :=
  match rejectRun r.hints with
  | some x => x == e
  | none => e.cause == 0x01 && e.step == 3 && !isHint e.word && fStl e.word == r.stl

/-- An array that the device has (R354). -/
def EccSite.ok : EccSite → Bool
  | .registers _ => true
  | .scratchpad .. => true
  | .matrix _ => true
  | .l1Dirty .. => true
  | .l1Clean core _ => decide (core < 384)
  | .icache core _ => decide (core < 384)
  | .memoryWord _ => true
  | .memoryBlock _ => true
  | .queue .. => true
  | .lantern cluster _ => decide (cluster < 32)
  | .ray _ => true

/-- The bytes that a peer's access reaches. -/
def PeerOp.size : PeerOp → Nat
  | .read length _ => length
  | .write bytes => bytes.length
  | .atomic _ wide _ _ => if wide then 8 else 4

/-- A peer's access: a 16-bit module index, and one line (R429 to R431). -/
def PeerAccess.ok (x : PeerAccess) : Bool :=
  decide (x.peer < 65535) && decide (1 ≤ x.op.size) && decide (x.pa % 128 + x.op.size ≤ 128)

/-- Whether an instruction, or a step, is well formed. -/
def Instr.wf : Instr → Bool
  | .nop r => runOk r
  | .trap r _ => runOk r
  | .brk r _ => runOk r
  | .xret r => runOk r
  | .mvfs r _ _ => runOk r
  | .mvts r _ _ => runOk r
  | .ptab r _ _ _ => runOk r
  | .waitcy r _ => runOk r
  | .time r _ => runOk r
  | .icinv r _ _ => runOk r
  | .stop r => runOk r
  | .vrget r _ _ _ => runOk r
  | .vrset r _ _ _ => runOk r
  | .sfq r _ _ => runOk r
  | .killc r _ => runOk r
  | .dumpc r _ _ _ => runOk r
  | .b r _ => runOk r
  | .call r _ => runOk r
  | .bz r _ _ => runOk r
  | .bnz r _ _ => runOk r
  | .bneg r _ _ => runOk r
  | .bany r _ _ => runOk r
  | .ball r _ _ => runOk r
  | .bdiv r _ _ => runOk r
  | .join r _ => runOk r
  | .fuse r _ => runOk r
  | .splitctl r _ => runOk r
  | .exit r => runOk r
  | .ret r => runOk r
  | .jr r _ => runOk r
  | .vxopen r _ => runOk r
  | .vxclose r => runOk r
  | .exmget r _ => runOk r
  | .exmset r _ => runOk r
  | .mkff r _ => runOk r
  | .yield r => runOk r
  | .sadd r _ _ _ => runOk r
  | .ssub r _ _ _ => runOk r
  | .smul r _ _ _ => runOk r
  | .smulh r _ _ _ => runOk r
  | .sand r _ _ _ => runOk r
  | .sor r _ _ _ => runOk r
  | .sxor r _ _ _ => runOk r
  | .sshl r _ _ _ => runOk r
  | .sshr r _ _ _ => runOk r
  | .ssar r _ _ _ => runOk r
  | .smin r _ _ _ => runOk r
  | .smax r _ _ _ => runOk r
  | .sminn r _ _ _ => runOk r
  | .smaxn r _ _ _ => runOk r
  | .sslt r _ _ _ => runOk r
  | .ssltn r _ _ _ => runOk r
  | .saddi r _ _ _ => runOk r
  | .sandi r _ _ _ => runOk r
  | .sori r _ _ _ => runOk r
  | .sxori r _ _ _ => runOk r
  | .sshli r _ _ _ => runOk r
  | .sshri r _ _ _ => runOk r
  | .ssari r _ _ _ => runOk r
  | .sslti r _ _ _ => runOk r
  | .sclz r _ _ => runOk r
  | .spopc r _ _ => runOk r
  | .sbfx r _ _ => runOk r
  | .smov r _ _ => runOk r
  | .sld64 r _ _ _ => runOk r
  | .sld32 r _ _ _ => runOk r
  | .sst64 r _ _ _ => runOk r
  | .sst32 r _ _ _ => runOk r
  | .sli r _ _ _ => runOk r
  | .vadd r _ _ _ => runOk r
  | .vsub r _ _ _ => runOk r
  | .vmul r _ _ _ => runOk r
  | .vmulh r _ _ _ => runOk r
  | .vmulhn r _ _ _ => runOk r
  | .vand r _ _ _ => runOk r
  | .vor r _ _ _ => runOk r
  | .vxor r _ _ _ => runOk r
  | .vshl r _ _ _ => runOk r
  | .vshr r _ _ _ => runOk r
  | .vsar r _ _ _ => runOk r
  | .vmin r _ _ _ => runOk r
  | .vmax r _ _ _ => runOk r
  | .vminn r _ _ _ => runOk r
  | .vmaxn r _ _ _ => runOk r
  | .vsel r _ _ _ => runOk r
  | .vmad r _ _ _ => runOk r
  | .vabs r _ _ => runOk r
  | .vneg r _ _ => runOk r
  | .vnot r _ _ => runOk r
  | .vclz r _ _ => runOk r
  | .vpopc r _ _ => runOk r
  | .vbfx r _ _ => runOk r
  | .vbfi r _ _ => runOk r
  | .vbcst r _ _ => runOk r
  | .vlane r _ => runOk r
  | .vmov r _ _ => runOk r
  | .vadds r _ _ _ => runOk r
  | .vsubs r _ _ _ => runOk r
  | .vquad r _ _ => runOk r
  | .vbrev r _ _ => runOk r
  | .vaddi r _ _ _ => runOk r
  | .vandi r _ _ _ => runOk r
  | .vori r _ _ _ => runOk r
  | .vxori r _ _ _ => runOk r
  | .vshli r _ _ _ => runOk r
  | .vshri r _ _ _ => runOk r
  | .vsari r _ _ _ => runOk r
  | .vmuli r _ _ _ => runOk r
  | .fadd r _ _ _ => runOk r
  | .fsub r _ _ _ => runOk r
  | .fmul r _ _ _ => runOk r
  | .ffma r _ _ _ => runOk r
  | .ffms r _ _ _ => runOk r
  | .fnma r _ _ _ => runOk r
  | .fmin r _ _ _ => runOk r
  | .fmax r _ _ _ => runOk r
  | .fabs r _ _ => runOk r
  | .fneg r _ _ => runOk r
  | .fcps r _ _ _ => runOk r
  | .frnd r _ _ => runOk r
  | .ffrc r _ _ => runOk r
  | .fscl r _ _ _ => runOk r
  | .fexn r _ _ => runOk r
  | .frcp r _ _ => runOk r
  | .frsq r _ _ => runOk r
  | .fsqrt r _ _ => runOk r
  | .fdiv r _ _ _ => runOk r
  | .fexp2 r _ _ => runOk r
  | .flog2 r _ _ => runOk r
  | .fsin r _ _ => runOk r
  | .fcos r _ _ => runOk r
  | .ftanh r _ _ => runOk r
  | .fcls r _ _ => runOk r
  | .hadd r _ _ _ => runOk r
  | .hmul r _ _ _ => runOk r
  | .hfma r _ _ _ => runOk r
  | .badd r _ _ _ => runOk r
  | .bmul r _ _ _ => runOk r
  | .bfma r _ _ _ => runOk r
  | .hdot r _ _ _ => runOk r
  | .bdot r _ _ _ => runOk r
  | .cvtF32S32 r _ _ => runOk r
  | .cvtF32N32 r _ _ => runOk r
  | .cvtS32F32 r _ _ => runOk r
  | .cvtN32F32 r _ _ => runOk r
  | .cvtF16x2 r _ _ _ => runOk r
  | .cvtBf16x2 r _ _ _ => runOk r
  | .cvtF32F16 r _ _ _ => runOk r
  | .cvtF32Bf16 r _ _ _ => runOk r
  | .cvtF8e4 r _ _ _ => runOk r
  | .cvtF8e5 r _ _ _ => runOk r
  | .cvtF32F8 r _ _ _ => runOk r
  | .plane r _ _ => runOk r
  | .unplane r _ _ => runOk r
  | .cvtS8 r _ _ _ => runOk r
  | .cvtS32S8 r _ _ _ => runOk r
  | .vshfl r _ _ _ => runOk r
  | .vshfx r _ _ _ _ => runOk r
  | .vshup r _ _ _ _ => runOk r
  | .vshdn r _ _ _ _ => runOk r
  | .vredAddS32 r _ _ _ => runOk r
  | .vredAddF32 r _ _ _ => runOk r
  | .vredMin r _ _ _ _ => runOk r
  | .vredMax r _ _ _ _ => runOk r
  | .vscanAddS32 r _ _ _ _ => runOk r
  | .vscanAddF32 r _ _ _ _ => runOk r
  | .vvote r _ _ _ _ => runOk r
  | .vfirst r _ _ _ => runOk r
  | .vreadl r _ _ _ _ => runOk r
  | .vwritel r _ _ _ _ => runOk r
  | .vmatch r _ _ _ _ => runOk r
  | .cmpeq r _ _ _ => runOk r
  | .cmpne r _ _ _ => runOk r
  | .cmplt r _ _ _ => runOk r
  | .cmple r _ _ _ => runOk r
  | .cmpltn r _ _ _ => runOk r
  | .cmplen r _ _ _ => runOk r
  | .fcmpeq r _ _ _ => runOk r
  | .fcmplt r _ _ _ => runOk r
  | .fcmple r _ _ _ => runOk r
  | .fcmpun r _ _ _ => runOk r
  | .mkand r _ _ _ => runOk r
  | .mkor r _ _ _ => runOk r
  | .mkxor r _ _ _ => runOk r
  | .mkandn r _ _ _ => runOk r
  | .mkpop r _ _ => runOk r
  | .mkmov r _ _ => runOk r
  | .ldB r _ _ _ => runOk r
  | .ldBs r _ _ _ => runOk r
  | .ldH r _ _ _ => runOk r
  | .ldHs r _ _ _ => runOk r
  | .ldW r _ _ _ => runOk r
  | .ldD r _ _ _ => runOk r
  | .ldQ r _ _ _ => runOk r
  | .ldnW r _ _ _ => runOk r
  | .stB r _ _ _ => runOk r
  | .stH r _ _ _ => runOk r
  | .stW r _ _ _ => runOk r
  | .stD r _ _ _ => runOk r
  | .stQ r _ _ _ => runOk r
  | .pref r _ _ => runOk r
  | .ldnD r _ _ _ => runOk r
  | .ldsW r _ _ _ => runOk r
  | .ldsD r _ _ _ => runOk r
  | .ldsQ r _ _ _ => runOk r
  | .stsW r _ _ _ => runOk r
  | .stsD r _ _ _ => runOk r
  | .stsQ r _ _ _ => runOk r
  | .vspill r _ _ _ => runOk r
  | .vfill r _ _ _ => runOk r
  | .ldsp r _ _ _ => runOk r
  | .stsp r _ _ _ => runOk r
  | .aadd r _ _ _ => runOk r
  | .aand r _ _ _ => runOk r
  | .aor r _ _ _ => runOk r
  | .axor r _ _ _ => runOk r
  | .amin r _ _ _ => runOk r
  | .amax r _ _ _ => runOk r
  | .aminn r _ _ _ => runOk r
  | .amaxn r _ _ _ => runOk r
  | .axch r _ _ _ => runOk r
  | .acas r _ _ _ => runOk r
  | .aaddf r _ _ _ => runOk r
  | .aincw r _ _ _ => runOk r
  | .ald r _ _ _ => runOk r
  | .ast r _ _ _ => runOk r
  | .fence r _ => runOk r
  | .trkset r t _ _ => runOk r && decide (t.toNat < 16)
  | .trksetH r t _ => runOk r && decide (16 ≤ t.toNat)
  | .trkclr r _ => runOk r
  | .drainst r => runOk r
  | .waita r _ _ _ => runOk r
  | .bardef r _ _ => runOk r
  | .bararr r _ _ => runOk r
  | .barwait r _ _ => runOk r
  | .barc r _ _ => runOk r
  | .barinv r _ => runOk r
  | .cpyl r _ _ _ => runOk r
  | .cpyt r _ => runOk r
  | .cpyr r _ => runOk r
  | .bufdef r _ _ _ => runOk r
  | .bufwait r _ _ => runOk r
  | .bufrel r _ _ => runOk r
  | .bufstat r _ _ => runOk r
  | .qpop r _ _ => runOk r
  | .qpeek r _ _ => runOk r
  | .aloop r _ _ => runOk r
  | .aend r _ => runOk r
  | .astrm r _ _ _ => runOk r
  | .acpy r _ _ _ => runOk r
  | .asig r _ _ => runOk r
  | .ahalt r => runOk r
  | .astart r _ => runOk r
  | .astat r _ => runOk r
  | .mwld r _ _ => runOk r
  | .mstr r _ a _ => runOk r && !(a == 0#7 && r.srcq)
  | .mstrQueue r _ _ => runOk r && r.srcq
  | .mrdo r _ _ _ => runOk r
  | .mzero r _ => runOk r
  | .macsv r _ _ _ => runOk r
  | .macld r _ _ _ => runOk r
  | .mstat r _ _ => runOk r
  | .trace r _ _ _ => runOk r
  | .hitget r _ _ _ => runOk r
  | .ahacc r => runOk r
  | .ahrej r => runOk r
  | .contend r _ => runOk r
  | .contget r _ _ => runOk r
  | .lntinv r _ => runOk r
  | .ishit r _ _ => runOk r
  | .rast r _ _ _ => runOk r
  | .rprj r _ _ _ => runOk r
  | .tex r _ _ _ => runOk r
  | .texl r _ _ _ => runOk r
  | .lnch r _ _ _ => runOk r
  | .evset r _ _ => runOk r
  | .evclr r _ _ => runOk r
  | .ember r _ _ => runOk r
  | .grist r _ _ => runOk r
  | .missSplit p _ => p.ok
  | .joinTimeout p => p.ok
  | .fuseWatchdogExpiry p => p.ok
  | .loadDataReturn p _ => p.ok
  | .storeAccepted _ _ => true
  | .storeFaultReport _ _ => true
  | .accessAnswer _ => true
  | .homeAccess _ => true
  | .fenceReleaseComplete p => p.ok
  | .waitaTimeout p => p.ok
  | .waitcyEnd p => p.ok
  | .copyComplete _ _ => true
  | .reduceTicketPoll _ _ => true
  | .reduceTicketRelease _ _ => true
  | .copySquash _ => true
  | .astrmPush _ => true
  | .matrixCommandStands _ => true
  | .mwldLatch _ => true
  | .rayEnd _ => true
  | .rayHandoff _ => true
  | .gatherTimeout _ => true
  | .vaultSample vault readings => decide (vault < 32) && decide (readings.length = 16)
  | .thermalTrip _ => true
  | .packagePowerOff => true
  | .droopTrip cluster => decide (cluster < 32)
  | .gutterRestore cluster => decide (cluster < 32)
  | .biasReplan cluster _ => decide (cluster < 32)
  | .biasCodeStep cluster => decide (cluster < 32)
  | .bbiasCodeWrite cluster _ => decide (cluster < 32)
  | .taperEstimate cluster _ _ => decide (cluster < 32)
  | .taperRampEnd cluster => decide (cluster < 32)
  | .eccCorrected array cluster => decide (array < 9) && decide (cluster < 32)
  | .eccUncorrectable site => site.ok
  | .backgroundScrub => true
  | .slotVisit slot => decide (slot < 64)
  | .launchStart slot => decide (slot < 64)
  | .crewRetire _ => true
  | .swapOut _ => true
  | .preemptDone ctx => decide (ctx < 64)
  | .dumpcDone _ => true
  | .handleMigrationEnd ctx hdl => decide (ctx < 64) && decide (hdl < 4096)
  | .notify slot => decide (slot < 64)
  | .admqWrite _ => true
  | .resetWrite _ => true
  | .registerWrite _ _ => true
  | .moduleBoot => true
  | .hostMemoryWrite _ _ => true
  | .hostMemoryRead _ _ => true
  | .launch c => c.ok 0x01 0
  | .launchCaptured c => c.ok 0x01 1
  | .evsignalSet c => c.ok 0x02 0
  | .evsignalClear c => c.ok 0x02 1
  | .mapq c => c.ok 0x03 0
  | .unmapq c => c.ok 0x04 0
  | .ctxnew c => c.ok 0x05 0
  | .ctxnewAllotment c => c.ok 0x05 1
  | .ctxnewLanternWays c => c.ok 0x05 2
  | .ctxfree c => c.ok 0x06 0
  | .handleCreate c => c.ok 0x07 0
  | .handlePriority c => c.ok 0x07 1
  | .handleMigrate c => c.ok 0x07 2
  | .handleEvict c => c.ok 0x07 3
  | .grant c => c.ok 0x08 0
  | .preempt c => c.ok 0x09 0
  | .preemptResume c => c.ok 0x09 1
  | .debugAttach c => c.ok 0x0A 0
  | .debugDetach c => c.ok 0x0A 1
  | .debugPcBreakpoint c => c.ok 0x0A 2
  | .debugWatchpoint c => c.ok 0x0A 3
  | .debugStopCrew c => c.ok 0x0A 4
  | .debugResumeCrew c => c.ok 0x0A 5
  | .debugEmber c => c.ok 0x0A 6
  | .debugGrist c => c.ok 0x0A 7
  | .debugIcinv c => c.ok 0x0A 8
  | .quote c => c.ok 0x0B 0
  | .quoteExtend c => c.ok 0x0B 1
  | .powercap c => c.ok 0x0C 0
  | .countersAccount c => c.ok 0x0D 0
  | .countersReadRegister c => c.ok 0x0D 1
  | .countersWriteRegister c => c.ok 0x0D 2
  | .countersLifetime c => c.ok 0x0D 3
  | .keyset c => c.ok 0x0E 0
  | .powerEstimate _ => true
  | .capExpiry => true
  | .lifetimeRecordWrite => true
  | .emberTag core seq => decide (core < 384) && decide (seq < 2)
  | .emberRecord core seq _ => decide (core < 384) && decide (seq < 2)
  | .flitCrcReplay port => decide (port < 16)
  | .inboundAccess port access => decide (port < 16) && access.ok
  | .remoteAnswer _ answer => decide (answer.bytes.length ≤ 128)
  | .remoteAccessTimeout _ => true
  | .syncFlitSend => true
  | .syncFlitReceive port _ => decide (port < 16)
  | .portSyncTimeout port => decide (port < 16)
  | .quoteRequestFlit port nonce => decide (port < 16) && decide (nonce.length = 32)
  | .powerCapFlit port _ => decide (port < 16)
  | .illegalInstruction r reject => reject.ok r
  | .fetchFailure _ => true
  | .icinvComplete p => p.ok
  | .copyError _ _ _ => true
  | .intersectionShaderInvoke _ => true

end Sys2Proof
end

