-- ==== Sys2Proof/Certificates/Slice0/Obligations.lean ====
section
/-! DEFINITION. The statements for the provers. A unit's own effect is stated for every state and operands that meet `ready`
(Safety.lean): nothing comes before the unit, every check of R72 passes, no interlock holds it. -/

open Sys2Proof Sys2Proof.Machine

/-- The bytes of every well-formed unit, its hint words and its instruction word in memory order, decode to that instruction,
with every operand and every hint as it was, whatever bytes follow. -/
def Obligations.DecodeInvertsEncode : Prop :=
  ∀ (i : Instr) (ws : List W32) (rest : List Byte), i.wf = true → encode i = some ws →
    decodeBytes [] (ws.flatMap bytesOfWord ++ rest) = some (i, rest)

/-- Every step keeps memory in its canonical form: addresses rise, and no listed byte is what an unlisted one reads as. What
an unlisted byte reads as, 0, is the model's choice (log 5). -/
def Obligations.StepsKeepMemoryCanonical : Prop :=
  ∀ s t : State, MemOk s → step s = .next t → MemOk t

/-- A module with power always steps; without power only a reset does. That the agenda says what comes next is the model's
choice (log 3). -/
def Obligations.PoweredModulesStep : Prop :=
  ∀ (s : State),
    (s.pkg.powered = true → ∃ t, step s = .next t) ∧
    (s.pkg.powered = false → (∀ v rest, s.agenda ≠ .resetWrite v :: rest) → step s = .fault .unpowered) ∧
    (∀ v rest, s.agenda = .resetWrite v :: rest → ∃ t, step s = .next t)

/-- With nothing before it on the agenda or from an earlier cycle, a step of a part that is picked, by the picks or in the
order of its own turn, fetches the unit at its PC and runs the instruction that its words decode to; a fetch that fails kills
the crew. Where no copy owns the lines of the fetch, its page may be executed and neither poison nor a cached word stands
there, the word is the four bytes of memory at the PC; those lines come to their slices, the caches of instructions take the
word, and the fetch changes nothing else. That the agenda and the picks say what comes next is the model's choice (log 3),
and so is the free choice where caches differ from memory (log 24). That the agenda and the picks say what comes next is the
model's choice (log 3), and so is the free choice where caches differ from memory (log 24). -/
def Obligations.StepRunsTheUnit : Prop :=
  ∀ (s : State) (rest : List Turn), s.agenda = [] → s.pkg.powered = true → s.pkg.booted = true → s.agent = .wave →
    firstOf s (lateEvents s) = none → picksHere s rest → tagDue s = false →
    let b := beginUnit { s with sched := rest }
    (∀ hs w t i, nextUnit b = .ok (hs, w, t) → decodeUnit hs w = i →
      step s = match exec i (tagBegin (s.part.pc + BitVec.ofNat 64 (4 * hs.length)) t) with
        | .next v => .next (afterUnit hs w t v)
        | stop => stop) ∧
    (∀ e, nextUnit b = .error e → step s = .next (fetchKill e b)) ∧
    (∀ p i bs, s.part.pc.toNat < 2 ^ 56 → fetchPage s.part.pc.toNat b = some p → p.x = true →
      let pa := p.phys s.part.pc.toNat
      let lines := fetchTables s.part.pc.toNat b ++ [pa / 128]
      unowned s lines = true → poisoned s pa 4 = false → cget none (getCore s s.crew.core).icache pa = none →
      decodeBytes [] (memRead s p.key pa 4) = some (i, bs) →
      ∃ t w, t.part = b.part ∧ t.sibs = s.sibs ∧ t.wave = b.wave ∧ t.net = s.net ∧ t.memsys.bytes = s.memsys.bytes ∧
        t.memsys = (bring s.crew.ctx lines b).memsys ∧
        t.crew = { b.crew with fetch := t.crew.fetch } ∧ decodeUnit [] w = i ∧
        step s = match exec i (tagBegin s.part.pc t) with
          | .next v => .next (afterUnit [] w t v)
          | stop => stop)

/-- Words that the manual writes out, bit by bit, decode to the instructions that it gives for them. -/
def Obligations.WrittenWordsDecode : Prop :=
  let is := fun (w : W32) (i : Run → Instr) => decodeWord [] w = some (i { hints := [], stl := fStl w })
  is 0x480C0810#32 (fun r => .vaddi r 3#7 1#7 1#7) ∧ is 0xC80C2050#32 (fun r => .lnch r 3#7 4#7 5#7) ∧
  is 0xC8003021#32 (fun r => .evset r 6#7 2#7) ∧ is 0xC8003002#32 (fun r => .evclr r 6#7 0#7) ∧
  is 0xC8002013#32 (fun r => .ember r 4#7 1#7) ∧ is 0xC8002054#32 (fun r => .grist r 4#7 5#7) ∧
  is 0xA0000004#32 (fun r => .bufwait r 0#7 0#7) ∧ is 0x00040000#32 (fun r => .nop r) ∧
  decodeHint 0xF9000005#32 = { kind := 1#3, payload := 5#24 } ∧ isHint 0xF9000005#32 = true

/-- After reset nothing is resident, mapped or under way, memory lists nothing and is in its canonical form, and the
registers that Lamplighter reads hold the reset values of their maps. That an unlisted byte reads 0 (log 5), and that TIME
and STATUS start at 0 (log 4), are the model's choices. -/
def Obligations.ResetState : Prop :=
  MemOk State.reset ∧ State.reset.memsys.bytes = [] ∧ State.reset.crews = [] ∧ State.reset.crew.cond ≠ .resident ∧
    State.reset.ctxs = [] ∧ State.reset.launches = [] ∧ State.reset.net = [] ∧ State.reset.clock = 0 ∧
    State.reset.pkg.status = 0#64 ∧
    (∀ n, n < 64 → (getSlot State.reset n).mapped = false) ∧
    (∀ c, c < 32 →
      (∃ x, lampReg State.reset (0x40 + c) = some x ∧ bfield x 63 48 = 0 ∧ bfield x 33 32 = 0 ∧ bfield x 31 31 = 0) ∧
      (∃ x, lampReg State.reset (0x60 + c) = some x ∧ bfield x 31 16 = 1024 ∧ bfield x 15 8 = 10 ∧ bfield x 2 0 = 0) ∧
      lampReg State.reset (0x80 + c) = some 0#64 ∧ lampReg State.reset (0xA0 + c) = some 10#64) ∧
    (∃ x, lampReg State.reset 0xC0 = some x ∧ bfield x 31 16 = 64 ∧ bfield x 5 0 = 20) ∧
    (∃ x, lampReg State.reset 0xC1 = some x ∧ bfield x 15 0 = 1440)

/-- R71: every word that R70 does not list as an instruction raises cause 0x01: majors 26 to 30, every FN that a major's row
does not list, 0, and a NOP whose D, A and B are not 1, 0 and 0; so does a run with a hint of kind 6 or 7, as 0xFFFFFFFF is.
A NOP with D 1 and A and B 0 is one whatever its STL. -/
def Obligations.ReservedWordsAreIllegal : Prop :=
  ∀ (hs : List Hint) (w : W32) (s : State),
    let r : Run := { hints := hs, stl := fStl w }
    let illegal := fun (at_ : W32) (step : Nat) => clear r s = true → handles s → ∃ t, exec (decodeUnit hs w) s = .next t ∧
      Entered { cause := 0x01, lanes := s.part.exm, info := BitVec.ofNat 64 (at_.toNat + step * 2 ^ 32), addr := 0#64 }
        (unitWords r) s t
    (rejectRun hs = none →
      (decodeWord hs w = none → illegal w 3) ∧
      (26 ≤ (fMaj w).toNat → (fMaj w).toNat ≤ 30 → illegal w 3) ∧
      (∀ n, [16, 16, 12, 16, 12, 4, 16, 16, 15, 8, 15, 10, 8, 15, 15, 16, 15, 10, 14, 10, 9, 8, 7, 8, 4, 5][(fMaj w).toNat]? =
        some n → n ≤ (fFn w).toNat → illegal w 3) ∧
      (w = 0#32 → illegal w 3) ∧
      (fMaj w = 0#5 → fFn w = 0#4 → ¬ (fD w = 1#7 ∧ fA w = 0#7 ∧ fB w = 0#7) → illegal w 3) ∧
      (∀ stl : BitVec 2, decodeWord hs (wRRR 0 { hints := hs, stl := stl } 1#7 0#7 0#7 0) =
        some (.nop { hints := hs, stl := stl }))) ∧
    (∀ h, hs.find? (fun x => 6 ≤ x.kind.toNat) = some h → illegal (encodeHint h) 1) ∧
    isHint 0xFFFFFFFF#32 = true ∧ (decodeHint 0xFFFFFFFF#32).kind = 7#3

/-- R107 with R83 and R18: every SALU instruction writes the function of its two operands to s[D], with latency 2, and
changes nothing else; a write of sz is discarded. R108 and R109 with R64 and R18: every SALI instruction writes its function
of s[A] and the immediate to s[D], with latency 2, and changes nothing else. -/
def Obligations.ScalarResults : Prop :=
  (∀ (r : Run) (d a b : BitVec 7),
    ScalarUnit (.sadd r d a b) (opSalu 0 true r d a b) d (fun s => satOrWrap r ((sreg s a).toInt + (sreg s b).toInt)) ∧
    ScalarUnit (.ssub r d a b) (opSalu 1 true r d a b) d (fun s => satOrWrap r ((sreg s a).toInt - (sreg s b).toInt)) ∧
    ScalarUnit (.smul r d a b) (opSalu 2 true r d a b) d (fun s => satOrWrap r ((sreg s a).toInt * (sreg s b).toInt)) ∧
    ScalarUnit (.smulh r d a b) (opSalu 3 false r d a b) d (fun s => w64 ((sreg s a).toInt * (sreg s b).toInt / 2 ^ 64)) ∧
    ScalarUnit (.sand r d a b) (opSalu 4 false r d a b) d (fun s => sreg s a &&& sreg s b) ∧
    ScalarUnit (.sor r d a b) (opSalu 5 false r d a b) d (fun s => sreg s a ||| sreg s b) ∧
    ScalarUnit (.sxor r d a b) (opSalu 6 false r d a b) d (fun s => sreg s a ^^^ sreg s b) ∧
    ScalarUnit (.sshl r d a b) (opSalu 7 false r d a b) d (fun s => sreg s a <<< ((sreg s b).toNat % 64)) ∧
    ScalarUnit (.sshr r d a b) (opSalu 8 false r d a b) d (fun s => sreg s a >>> ((sreg s b).toNat % 64)) ∧
    ScalarUnit (.ssar r d a b) (opSalu 9 false r d a b) d (fun s => (sreg s a).sshiftRight ((sreg s b).toNat % 64)) ∧
    ScalarUnit (.smin r d a b) (opSalu 10 false r d a b) d
      (fun s => w64 (min (sreg s a).toInt (sreg s b).toInt)) ∧
    ScalarUnit (.smax r d a b) (opSalu 11 false r d a b) d
      (fun s => w64 (max (sreg s a).toInt (sreg s b).toInt)) ∧
    ScalarUnit (.sminn r d a b) (opSalu 12 false r d a b) d
      (fun s => BitVec.ofNat 64 (min (sreg s a).toNat (sreg s b).toNat)) ∧
    ScalarUnit (.smaxn r d a b) (opSalu 13 false r d a b) d
      (fun s => BitVec.ofNat 64 (max (sreg s a).toNat (sreg s b).toNat)) ∧
    ScalarUnit (.sslt r d a b) (opSalu 14 false r d a b) d
      (fun s => if (sreg s a).toInt < (sreg s b).toInt then 1#64 else 0#64) ∧
    ScalarUnit (.ssltn r d a b) (opSalu 15 false r d a b) d
      (fun s => if (sreg s a).toNat < (sreg s b).toNat then 1#64 else 0#64)) ∧
  (∀ (r : Run) (d a i : BitVec 7),
    ScalarUnit (.saddi r d a i) (opSali 0 r d a i) d (fun s => sreg s a + immRRI r i) ∧
    ScalarUnit (.sandi r d a i) (opSali 1 r d a i) d (fun s => sreg s a &&& immRRI r i) ∧
    ScalarUnit (.sori r d a i) (opSali 2 r d a i) d (fun s => sreg s a ||| immRRI r i) ∧
    ScalarUnit (.sxori r d a i) (opSali 3 r d a i) d (fun s => sreg s a ^^^ immRRI r i) ∧
    ScalarUnit (.sshli r d a i) (opShiftI 4 4 2 63 [srcS a, dstS d] r d a i) d (fun s => sreg s a <<< (immRRI r i).toNat) ∧
    ScalarUnit (.sshri r d a i) (opShiftI 4 5 2 63 [srcS a, dstS d] r d a i) d (fun s => sreg s a >>> (immRRI r i).toNat) ∧
    ScalarUnit (.ssari r d a i) (opShiftI 4 6 2 63 [srcS a, dstS d] r d a i) d
      (fun s => (sreg s a).sshiftRight (immRRI r i).toNat) ∧
    ScalarUnit (.sslti r d a i) (opSali 7 r d a i) d (fun s => if (sreg s a).toInt < (immRRI r i).toInt then 1#64 else 0#64) ∧
    ScalarUnit (.sclz r d a) (Op.plain (wRRR 4 r d a 0#7 8) r 2 [srcS a, dstS d]) d
      (fun s => BitVec.ofNat 64 (clz 64 (sreg s a).toNat)) ∧
    ScalarUnit (.spopc r d a) (Op.plain (wRRR 4 r d a 0#7 9) r 2 [srcS a, dstS d]) d
      (fun s => BitVec.ofNat 64 (ones 64 (sreg s a).toNat)) ∧
    ScalarUnit (.smov r d a) (Op.plain (wRRR 4 r d a 0#7 11) r 2 [srcS a, dstS d]) d (fun s => sreg s a) ∧
    ScalarUnit (.sbfx r d a) (opSbfx r d a) d (fun s => sbfxOf ((payload r 0).getD 0) (sreg s a)))

/-- R110: SLI's word, and its effect: SLOT 0 writes the sign-extended immediate, SLOT 1 to 3 writes 16 bits and keeps the
others; s[D] is read, so that stalls apply to it, with SLOT 1 to 3 alone; a D of 64 to 127 raises cause 0x01. -/
def Obligations.SliWritesItsSlot : Prop :=
  ∀ (r : Run) (d : BitVec 7) (l : BitVec 2) (h : BitVec 16),
    encodeWord (.sli r d l h) = some (0x30000000#32 ||| (r.stl.setWidth 32 <<< 25) ||| (d.setWidth 32 <<< 18) |||
      (l.setWidth 32 <<< 16) ||| h.setWidth 32) ∧
    ScalarUnit (.sli r d 0#2 h) (Op.plain (wLI r d 0#2 h) r 2 [dstS d]) d (fun _ => h.signExtend 64) ∧
    (l ≠ 0#2 → ScalarUnit (.sli r d l h) (Op.plain (wLI r d l h) r 2 [modS d]) d
      (fun s => bset (sreg s d) (16 * l.toNat + 15) (16 * l.toNat) h.toNat)) ∧
    (64 ≤ d.toNat → ∀ s, clear r s = true → handles s → ∃ t, exec (.sli r d l h) s = .next t ∧
      Entered { cause := 0x01, lanes := s.part.exm, info := BitVec.ofNat 64 ((wLI r d l h).toNat + 3 * 2 ^ 32), addr := 0#64 }
        (unitWords r) s t)

/-- R135 with R22, R83 and R131: every VINT instruction writes the function of its operands to each active lane of v[D] and
keeps the other lanes, with latency 4. R136 to R138: every VINT2 and VINI instruction writes its function to each active lane
of v[D] and keeps the other lanes, with latency 4. -/
def Obligations.VectorIntegerResults : Prop :=
  (∀ (r : Run) (d a b : BitVec 7),
    LaneUnit (.vadd r d a b) (opVint 0 modSAT r d a b) d (fun s l => satOrWrap32 r ((rdA a s l).toInt + (rdB r b s l).toInt)) ∧
    LaneUnit (.vsub r d a b) (opVint 1 modSAT r d a b) d (fun s l => satOrWrap32 r ((rdA a s l).toInt - (rdB r b s l).toInt)) ∧
    LaneUnit (.vmul r d a b) (opVint 2 modSAT r d a b) d (fun s l => satOrWrap32 r ((rdA a s l).toInt * (rdB r b s l).toInt)) ∧
    LaneUnit (.vmulh r d a b) (opVint 3 0 r d a b) d (fun s l => w32 ((rdA a s l).toInt * (rdB r b s l).toInt / 2 ^ 32)) ∧
    LaneUnit (.vmulhn r d a b) (opVint 4 0 r d a b) d
      (fun s l => BitVec.ofNat 32 ((rdA a s l).toNat * (rdB r b s l).toNat / 2 ^ 32)) ∧
    LaneUnit (.vand r d a b) (opVint 5 0 r d a b) d (fun s l => rdA a s l &&& rdB r b s l) ∧
    LaneUnit (.vor r d a b) (opVint 6 0 r d a b) d (fun s l => rdA a s l ||| rdB r b s l) ∧
    LaneUnit (.vxor r d a b) (opVint 7 0 r d a b) d (fun s l => rdA a s l ^^^ rdB r b s l) ∧
    LaneUnit (.vshl r d a b) (opVint 8 0 r d a b) d (fun s l => rdA a s l <<< ((rdB r b s l).toNat % 32)) ∧
    LaneUnit (.vshr r d a b) (opVint 9 0 r d a b) d (fun s l => rdA a s l >>> ((rdB r b s l).toNat % 32)) ∧
    LaneUnit (.vsar r d a b) (opVint 10 0 r d a b) d (fun s l => (rdA a s l).sshiftRight ((rdB r b s l).toNat % 32)) ∧
    LaneUnit (.vmin r d a b) (opVint 11 0 r d a b) d (fun s l => w32 (min (rdA a s l).toInt (rdB r b s l).toInt)) ∧
    LaneUnit (.vmax r d a b) (opVint 12 0 r d a b) d (fun s l => w32 (max (rdA a s l).toInt (rdB r b s l).toInt)) ∧
    LaneUnit (.vminn r d a b) (opVint 13 0 r d a b) d
      (fun s l => BitVec.ofNat 32 (min (rdA a s l).toNat (rdB r b s l).toNat)) ∧
    LaneUnit (.vmaxn r d a b) (opVint 14 0 r d a b) d
      (fun s l => BitVec.ofNat 32 (max (rdA a s l).toNat (rdB r b s l).toNat)) ∧
    LaneUnit (.vsel r d a b) (opVsel r d a b) d
      (fun s l => if (rdM s (modField r 16 14)).getLsbD l then rdA a s l else rdB r b s l)) ∧
  (∀ (r : Run) (d a b : BitVec 7),
    LaneUnit (.vmad r d a b) (opVmad r d a b) d (fun s l => rdA a s l * rdB r b s l + rdC r s l) ∧
    LaneUnit (.vabs r d a) (opSat 1 r d a) d (fun s l => satOrWrap32 r ((rdA a s l).toInt.natAbs : Int)) ∧
    LaneUnit (.vneg r d a) (opSat 2 r d a) d (fun s l => satOrWrap32 r (-(rdA a s l).toInt)) ∧
    LaneUnit (.vnot r d a) (opVint2 3 r d a 0#7 [srcV a, dstV d]) d (fun s l => ~~~ rdA a s l) ∧
    LaneUnit (.vclz r d a) (opVint2 4 r d a 0#7 [srcV a, dstV d]) d (fun s l => BitVec.ofNat 32 (clz 32 (rdA a s l).toNat)) ∧
    LaneUnit (.vpopc r d a) (opVint2 5 r d a 0#7 [srcV a, dstV d]) d (fun s l => BitVec.ofNat 32 (ones 32 (rdA a s l).toNat)) ∧
    LaneUnit (.vbfx r d a) (opField 6 (2 ^ 11) r d a (dstV d)) d (fun s l => fieldOf (pay r) (rdA a s l)) ∧
    LaneUnit (.vbfi r d a) (opField 7 (2 ^ 10) r d a (modV d)) d (fun s l => fieldIn (pay r) (rdV s d.toNat l) (rdA a s l)) ∧
    LaneUnit (.vbcst r d a) (opVint2 8 r d a 0#7 [srcS a, dstV d]) d (fun s _ => (sreg s a).setWidth 32) ∧
    LaneUnit (.vlane r d) (opVint2 9 r d 0#7 0#7 [dstV d]) d (fun _ l => BitVec.ofNat 32 l) ∧
    LaneUnit (.vmov r d a) (opVint2 10 r d a 0#7 [srcV a, dstV d]) d (fun s l => rdA a s l) ∧
    LaneUnit (.vadds r d a b) (opSatN 11 r d a b) d
      (fun s l => BitVec.ofNat 32 (min ((rdA a s l).toNat + (rdB r b s l).toNat) (2 ^ 32 - 1))) ∧
    LaneUnit (.vsubs r d a b) (opSatN 12 r d a b) d
      (fun s l => BitVec.ofNat 32 ((rdA a s l).toNat - (rdB r b s l).toNat)) ∧
    LaneUnit (.vquad r d a) (opVquad r d a) d (fun s l => rdA a s (l / 4 * 4 + pay r / 4 ^ (l % 4) % 4)) ∧
    LaneUnit (.vbrev r d a) (opVint2 14 r d a 0#7 [srcV a, dstV d]) d (fun s l => brev (rdA a s l)) ∧
    LaneUnit (.vaddi r d a b) (opVini 0 r d a b) d (fun s l => rdA a s l + (immRRI r b).setWidth 32) ∧
    LaneUnit (.vandi r d a b) (opVini 1 r d a b) d (fun s l => rdA a s l &&& (immRRI r b).setWidth 32) ∧
    LaneUnit (.vori r d a b) (opVini 2 r d a b) d (fun s l => rdA a s l ||| (immRRI r b).setWidth 32) ∧
    LaneUnit (.vxori r d a b) (opVini 3 r d a b) d (fun s l => rdA a s l ^^^ (immRRI r b).setWidth 32) ∧
    LaneUnit (.vshli r d a b) (opViniShift 4 r d a b) d (fun s l => rdA a s l <<< (immRRI r b).toNat) ∧
    LaneUnit (.vshri r d a b) (opViniShift 5 r d a b) d (fun s l => rdA a s l >>> (immRRI r b).toNat) ∧
    LaneUnit (.vsari r d a b) (opViniShift 6 r d a b) d (fun s l => (rdA a s l).sshiftRight (immRRI r b).toNat) ∧
    LaneUnit (.vmuli r d a b) (opVini 7 r d a b) d (fun s l => rdA a s l * (immRRI r b).setWidth 32))

/-- R139 and R140: every VF32 instruction writes its function to each active lane of v[D], with latency 6, when no invalid
event traps. R141 to R143: every VF32X instruction writes its function to each active lane of v[D], with latency 12, when no
invalid event traps; FCLS writes the class of R143. The sign of a product that is exactly zero is the XOR of the signs (log
54). -/
def Obligations.FloatResults : Prop :=
  (∀ (r : Run) (d a b : BitVec 7),
    FloatUnit (.fadd r d a b) (opVf 10 0 6 (modRND + modBSC) r d a b) d
      (fun s l => fp32.add (rndOf r) 0x01 (originOf r s) false (fA a s l) (fB r b s l)) ∧
    FloatUnit (.fsub r d a b) (opVf 10 1 6 (modRND + modBSC) r d a b) d
      (fun s l => fp32.add (rndOf r) 0x01 (originOf r s) true (fA a s l) (fB r b s l)) ∧
    FloatUnit (.fmul r d a b) (opVf 10 2 6 (modRND + modBSC) r d a b) d
      (fun s l => fp32.mul (rndOf r) 0x02 (originOf r s) (fA a s l) (fB r b s l)) ∧
    FloatUnit (.ffma r d a b) (opVf3 10 3 6 (modRND + modBSC) r d a b) d
      (fun s l => fp32.fma (rndOf r) (originOf r s) false false (fA a s l) (fB r b s l) (fC r s l)) ∧
    FloatUnit (.ffms r d a b) (opVf3 10 4 6 (modRND + modBSC) r d a b) d
      (fun s l => fp32.fma (rndOf r) (originOf r s) false true (fA a s l) (fB r b s l) (fC r s l)) ∧
    FloatUnit (.fnma r d a b) (opVf3 10 5 6 (modRND + modBSC) r d a b) d
      (fun s l => fp32.fma (rndOf r) (originOf r s) true false (fA a s l) (fB r b s l) (fC r s l)) ∧
    FloatUnit (.fmin r d a b) (opVf 10 6 6 modBSC r d a b) d (fun s l => fp32.minmax false (fA a s l) (fB r b s l)) ∧
    FloatUnit (.fmax r d a b) (opVf 10 7 6 modBSC r d a b) d (fun s l => fp32.minmax true (fA a s l) (fB r b s l)) ∧
    LaneUnit (.fabs r d a) (opVf1 10 8 6 none r d a) d (fun s l => rdA a s l &&& 0x7FFFFFFF#32) ∧
    LaneUnit (.fneg r d a) (opVf1 10 9 6 none r d a) d (fun s l => rdA a s l ^^^ 0x80000000#32) ∧
    LaneUnit (.fcps r d a b) (opVf 10 10 6 modBSC r d a b) d
      (fun s l => (rdA a s l &&& 0x7FFFFFFF#32) ||| (rdB r b s l &&& 0x80000000#32)) ∧
    FloatUnit (.frnd r d a) (opVf1 10 11 6 (some modRND) r d a) d (fun s l => frnd (rndOf r) (fA a s l)) ∧
    FloatUnit (.ffrc r d a) (opVf1 10 12 6 none r d a) d (fun s l => ffrc (originOf r s) (fA a s l)) ∧
    FloatUnit (.fscl r d a b) (opVf 10 13 6 (modRND + modBSC) r d a b) d
      (fun s l => fscl (rndOf r) (fA a s l) (rdB r b s l).toInt) ∧
    LaneUnit (.fexn r d a) (opVf1 10 14 6 none r d a) d (fun s l => fexn (fA a s l))) ∧
  (∀ (r : Run) (d a b : BitVec 7),
    let one := fun (i : Instr) (fn : Nat) (f : Nat → Nat → Nat → Res) =>
      FloatUnit i (opVf1 11 fn 12 (some modRND) r d a) d (fun s l => fx1 f (rndOf r) (originOf r s) (fA a s l))
    one (.frcp r d a) 0 frcp ∧ one (.frsq r d a) 1 frsq ∧ one (.fsqrt r d a) 2 fsqrt ∧ one (.fexp2 r d a) 4 fexp2 ∧
    one (.flog2 r d a) 5 flog2 ∧ one (.fsin r d a) 6 fsin ∧ one (.fcos r d a) 7 fcos ∧ one (.ftanh r d a) 8 ftanh ∧
    FloatUnit (.fdiv r d a b) (opVf 11 3 12 (modRND + modBSC) r d a b) d
      (fun s l => fdiv (rndOf r) (originOf r s) (fA a s l) (fB r b s l)) ∧
    LaneUnit (.fcls r d a) (opVf1 11 9 12 none r d a) d (fun s l => BitVec.ofNat 32 (fcls (fA a s l))))

/-- R144: every VF16 instruction writes its halves, or its FP32 dot product, to each active lane of v[D], with latency 6.
R145 and R146 with R88: every conversion writes its function to each active lane of v[D], with latency 6; PLANE and UNPLANE
do when every 32-lane group that the part holds a quad of is whole. The sign of a product that is exactly zero is the XOR of
the signs (log 54). -/
def Obligations.HalfAndConversionResults : Prop :=
  (∀ (r : Run) (d a b : BitVec 7),
    let two := fun (i : Instr) (fn : Nat) (f : Nat → Nat → Res) =>
      FloatUnit i (opVf 12 fn 6 (modRND + modBSC) r d a b) d (fun s l => half2 f (fA a s l) (fB r b s l))
    let three := fun (i : Instr) (fn : Nat) (f : State → Nat → Nat → Nat → Res) =>
      FloatUnit i (opVf3 12 fn 6 (modRND + modBSC) r d a b) d (fun s l => f s (fA a s l) (fB r b s l) (fC r s l))
    two (.hadd r d a b) 0 (fp16.add (rndOf r) 0x01 0 false) ∧ two (.hmul r d a b) 1 (fp16.mul (rndOf r) 0x02 0) ∧
    three (.hfma r d a b) 2 (fun _ => half3 (fp16.fma (rndOf r) 0 false false)) ∧
    two (.badd r d a b) 3 (bf16.add (rndOf r) 0x01 0 false) ∧ two (.bmul r d a b) 4 (bf16.mul (rndOf r) 0x02 0) ∧
    three (.bfma r d a b) 5 (fun _ => half3 (bf16.fma (rndOf r) 0 false false)) ∧
    three (.hdot r d a b) 6 (fun s => dot2 fp16 (rndOf r) (originOf r s)) ∧
    three (.bdot r d a b) 7 (fun s => dot2 bf16 (rndOf r) (originOf r s))) ∧
  (∀ (r : Run) (d a b : BitVec 7),
    FloatUnit (.cvtF32S32 r d a) (opVf1 13 0 6 (some modRND) r d a) d
      (fun s l => Res.ok (intToF32 (rndOf r) (rdA a s l).toInt)) ∧
    FloatUnit (.cvtF32N32 r d a) (opVf1 13 1 6 (some modRND) r d a) d
      (fun s l => Res.ok (intToF32 (rndOf r) (rdA a s l).toNat)) ∧
    FloatUnit (.cvtS32F32 r d a) (opVf1 13 2 6 (some modRND) r d a) d
      (fun s l => f32ToInt (rndOf r) (-2 ^ 31) (2 ^ 31 - 1) (fA a s l)) ∧
    FloatUnit (.cvtN32F32 r d a) (opVf1 13 3 6 (some modRND) r d a) d
      (fun s l => f32ToInt (rndOf r) 0 (2 ^ 32 - 1) (fA a s l)) ∧
    FloatUnit (.cvtF16x2 r d a b) (opCvt2 4 r d a b) d (fun s l => cvt2 fp16 (rndOf r) (fA a s l) (rdV s b.toNat l).toNat) ∧
    FloatUnit (.cvtBf16x2 r d a b) (opCvt2 5 r d a b) d (fun s l => cvt2 bf16 (rndOf r) (fA a s l) (rdV s b.toNat l).toNat) ∧
    FloatUnit (.cvtF32F16 r d a b) (opCvtK 6 2 none r d a b (dstV d)) d
      (fun s l => Res.ok (fp32.from fp16 0 (fA a s l / 2 ^ (16 * b.toNat) % 2 ^ 16))) ∧
    FloatUnit (.cvtF32Bf16 r d a b) (opCvtK 7 2 none r d a b (dstV d)) d
      (fun s l => Res.ok (fp32.from bf16 0 (fA a s l / 2 ^ (16 * b.toNat) % 2 ^ 16))) ∧
    FloatUnit (.cvtF8e4 r d a b) (opCvtK 8 4 (some modRND) r d a b (modV d)) d
      (fun s l => cvt8 f8e4 (rndOf r) b.toNat (rdV s d.toNat l).toNat (fA a s l)) ∧
    FloatUnit (.cvtF8e5 r d a b) (opCvtK 9 4 (some modRND) r d a b (modV d)) d
      (fun s l => cvt8 f8e5 (rndOf r) b.toNat (rdV s d.toNat l).toNat (fA a s l)) ∧
    FloatUnit (.cvtF32F8 r d a b) (opCvtK 10 8 none r d a b (dstV d)) d
      (fun s l => Res.ok (fp32.from (if b.toNat < 4 then f8e4 else f8e5) 0 (fA a s l / 2 ^ (8 * (b.toNat % 4)) % 256))) ∧
    LaneUnit (.cvtS8 r d a b) (opCvtK 13 4 none r d a b (modV d)) d
      (fun s l => BitVec.ofNat 32
        (putByte (rdV s d.toNat l).toNat b.toNat (wrapTo 8 (clampInt (rdA a s l).toInt (-128) 127)))) ∧
    LaneUnit (.cvtS32S8 r d a b) (opCvtK 14 4 none r d a b (dstV d)) d
      (fun s l => w32 (signedOf 8 (fA a s l / 2 ^ (8 * b.toNat)))) ∧
    (∀ s, ready (opPlane 11 r d a s) s = true → wholeGroups s = true →
      ∃ t, exec (.plane r d a) s = .next t ∧
        VectorResult r 6 d.toNat (activeLanes s) (planeOf a s ((widthHint r).getD 8)) s t) ∧
    (∀ s, ready (opPlane 12 r d a s) s = true → wholeGroups s = true →
      ∃ t, exec (.unplane r d a) s = .next t ∧
        VectorResult r 6 d.toNat (activeLanes s) (unplaneOf a s ((widthHint r).getD 8)) s t))

/-- R147 to R151 with R45: every VXL instruction writes its function to each active lane of v[D], with latency 8, when its
groups are all the part's own or exited; VWRITEL writes one lane of each group with an active lane. -/
def Obligations.CrossLaneResults : Prop :=
  ∀ (r : Run) (d a : BitVec 7) (w : BitVec 3) (k : BitVec 4) (e : BitVec 1),
    CrossUnit (.vshfl r d a w) (opVshfl r d a w) w d
      (fun s l => Res.ok (fA a s (groupBase (wOf w) l + (rdC r s l).toNat % wOf w))) ∧
    CrossUnit (.vshfx r d a w k) (opIdx 1 r d a w k) w d
      (fun s l => Res.ok (fA a s (groupBase (wOf w) l + ((l - groupBase (wOf w) l) ^^^ idxOf r k)))) ∧
    CrossUnit (.vshup r d a w k) (opIdx 2 r d a w k) w d
      (fun s l => Res.ok (fA a s (if groupBase (wOf w) l + idxOf r k ≤ l then l - idxOf r k else l))) ∧
    CrossUnit (.vshdn r d a w k) (opIdx 3 r d a w k) w d
      (fun s l => Res.ok (fA a s (if l + idxOf r k < groupBase (wOf w) l + wOf w then l + idxOf r k else l))) ∧
    CrossUnit (.vredAddS32 r d a w) (opAddTree 4 0 modSAT r d a w) w d (redRes (addNode r) a w) ∧
    CrossUnit (.vredAddF32 r d a w) (opAddTree 5 0 modRND r d a w) w d (fun s l => redRes (faddNode r s) a w s l) ∧
    CrossUnit (.vredMin r d a w k) (opVxl 6 k.toNat (decide (k.toNat < 3)) r d a w) w d (redRes (minmaxNode false k.toNat) a w) ∧
    CrossUnit (.vredMax r d a w k) (opVxl 7 k.toNat (decide (k.toNat < 3)) r d a w) w d (redRes (minmaxNode true k.toNat) a w) ∧
    CrossUnit (.vscanAddS32 r d a w e) (opAddTree 8 e.toNat modSAT r d a w) w d (scanRes (addNode r) a w (e == 1#1)) ∧
    CrossUnit (.vscanAddF32 r d a w e) (opAddTree 9 e.toNat modRND r d a w) w d
      (fun s l => scanRes (faddNode r s) a w (e == 1#1) s l) ∧
    CrossUnit (.vvote r d a w k) (opVxl 10 k.toNat (decide (k.toNat ≤ 4) && (k != 4#4 || wOf w == 64)) r d a w) w d
      (fun s l => Res.ok (voteOf k.toNat (wOf w) (groupBase (wOf w) l) a s)) ∧
    CrossUnit (.vfirst r d a w) (opVxl 11 0 true r d a w) w d
      (fun s l => Res.ok (fA a s (((groupLanes (wOf w) (groupBase (wOf w) l) s).head?).getD l))) ∧
    CrossUnit (.vreadl r d a w k) (opIdx 12 r d a w k) w d
      (fun s l => Res.ok (fA a s (groupBase (wOf w) l + idxOf r k))) ∧
    CrossUnit (.vmatch r d a w k) (opVxl 14 k.toNat (decide (k.toNat < 2) && (k != 1#4 || wOf w == 64)) r d a w) w d
      (fun s l => Res.ok (matchOf k.toNat (wOf w) a s l)) ∧
    (∀ s, ready (opIdx 13 r d a w k s) s = true → covered s (wOf w) s.part.quads s.part.quads = true →
      ∃ t, exec (.vwritel r d a w k) s = .next t ∧
        VectorResult r 8 d.toNat ((liveGroups (wOf w) s).map (fun g => g.1 + idxOf r k)) (writelOf a w s) s t)

/-- R152 with R20: every compare writes the bits of the active lanes of m[D], with latency 2, and keeps every other bit; a
float compare does when no invalid event traps. -/
def Obligations.CompareResults : Prop :=
  ∀ (r : Run) (d a b : BitVec 7),
    let int := fun (i : Instr) (fn : Nat) (p : W32 → W32 → Prop) [∀ x y, Decidable (p x y)] =>
      MaskUnit i (opCmp fn r d a b) d (fun _ => True) activeLanes (fun s l => decide (p (rdA a s l) (rdB r b s l)))
    let flt := fun (i : Instr) (fn : Nat) (p : Nat → Nat → Bool) =>
      MaskUnit i (opCmp fn r d a b) d
        (noEvent (fun s l => { bits := 0, inv := fp32.isSnan (fA a s l) || fp32.isSnan (fB r b s l) })) activeLanes
        (fun s l => p (fA a s l) (fB r b s l))
    int (.cmpeq r d a b) 0 (fun x y => x = y) ∧ int (.cmpne r d a b) 1 (fun x y => x ≠ y) ∧
    int (.cmplt r d a b) 2 (fun x y => x.toInt < y.toInt) ∧ int (.cmple r d a b) 3 (fun x y => x.toInt ≤ y.toInt) ∧
    int (.cmpltn r d a b) 4 (fun x y => x.toNat < y.toNat) ∧ int (.cmplen r d a b) 5 (fun x y => x.toNat ≤ y.toNat) ∧
    flt (.fcmpeq r d a b) 6 (fun x y => ordered x y && fp32.order x == fp32.order y) ∧
    flt (.fcmplt r d a b) 7 (fun x y => ordered x y && decide (fp32.order x < fp32.order y)) ∧
    flt (.fcmple r d a b) 8 (fun x y => ordered x y && decide (fp32.order x ≤ fp32.order y)) ∧
    flt (.fcmpun r d a b) 9 (fun x y => !ordered x y)

/-- R153: MKAND, MKOR, MKXOR, MKANDN and MKMOV write the bits of the active lanes of m[D] and keep every other bit, and MKPOP
counts the set bits of m[A] in exm into s[D], all with latency 2; a mask field of 8 or more, and a D of 64 or more for MKPOP,
raises cause 0x01. -/
def Obligations.MaskMoves : Prop :=
  ∀ (r : Run) (d a b : BitVec 7),
    let illegal := fun (i : Instr) (o : Op) => r.hints = [] → ∀ s, clear r s = true → handles s → ∃ t, exec i s = .next t ∧
      Entered { cause := 0x01, lanes := s.part.exm, info := BitVec.ofNat 64 (o.word.toNat + 3 * 2 ^ 32), addr := 0#64 } 1 s t
    let msk := fun (i : Instr) (fn : Nat) (p : Bool → Bool → Bool) =>
      let o := Op.plain (wRRR 15 r d a b fn) r 2 [srcM a, srcM b, dstM d]
      MaskUnit i o d (fun _ => True) activeLanes
        (fun s l => p ((rdM s a.toNat).getLsbD l) ((rdM s b.toNat).getLsbD l)) ∧
      (8 ≤ d.toNat ∨ 8 ≤ a.toNat ∨ 8 ≤ b.toNat → illegal i o)
    let pop := Op.plain (wRRR 15 r d a 0#7 14) r 2 [srcM a, dstS d]
    let mov := Op.plain (wRRR 15 r d a 0#7 15) r 2 [srcM a, dstM d]
    msk (.mkand r d a b) 10 (fun x y => x && y) ∧ msk (.mkor r d a b) 11 (fun x y => x || y) ∧
    msk (.mkxor r d a b) 12 (fun x y => x != y) ∧ msk (.mkandn r d a b) 13 (fun x y => x && !y) ∧
    ScalarUnit (.mkpop r d a) pop d (fun s => BitVec.ofNat 64 (popcount (rdM s a.toNat &&& s.part.exm))) ∧
    (64 ≤ d.toNat ∨ 8 ≤ a.toNat → illegal (.mkpop r d a) pop) ∧
    MaskUnit (.mkmov r d a) mov d (fun _ => True) activeLanes (fun s l => (rdM s a.toNat).getLsbD l) ∧
    (8 ≤ d.toNat ∨ 8 ≤ a.toNat → illegal (.mkmov r d a) mov)

/-- R117: MKFF writes every bit of m[D] that the issuing part owns, whatever exm holds: the bit of the lowest lane set in exm
becomes 1 and every other bit of the part 0; with exm 0 all are 0; bits of other parts are unchanged, and nothing else is
written. -/
def Obligations.MkffMarksTheLowestLane : Prop :=
  ∀ (r : Run) (d : BitVec 7),
    MaskUnit (.mkff r d) (opCtl 10 r d 0#7 true [dstM d]) d (fun _ => True) (fun s => lanesOf (partLanes s))
      (fun s l => lowLane s.part.exm == some l) ∧
    (∀ m l, lowLane m = some l → l < 64 ∧ m.getLsbD l = true ∧ ∀ k, k < l → m.getLsbD k = false) ∧ lowLane 0#64 = none

/-- R113 and R105: every branch goes to its target when its condition holds and to the next unit otherwise, no earlier than
max(2, S + 1) cycles later, and changes nothing else but lk by CALL. R39 and R53: a BDIV pushes one level with the next unit
as RPC and exm as OUTER. A uniform one goes to one side with exm unchanged; one that cannot split goes to the target with the
taken lanes, and leaves the others in LANES; one that splits leaves two parts whose quads are the part's, at the target and
at the next unit. A BDIV at sixteen levels traps. That both halves of a split keep JIDX and JTOUT is the model's choice (log
50). -/
def Obligations.BranchResults : Prop :=
  (∀ (r : Run) (n : BitVec 4) (o : BitVec 18),
    let goes := fun (i : Instr) (cond : Nat) (uses : List Use) (taken : State → Bool) =>
      FlowUnit i (Op.plain (wBR r cond n o) r 0 uses) 2 (fun s => if taken s then branchTarget r o s else unitNext r s)
    FlowUnit (.b r o) (Op.plain (wBR r 0 0#4 o) r 0 []) 2 (branchTarget r o) ∧
    goes (.bz r n o) 2 [srcS4 n] (fun s => rdS s n.toNat == 0#64) ∧
    goes (.bnz r n o) 3 [srcS4 n] (fun s => rdS s n.toNat != 0#64) ∧
    goes (.bneg r n o) 4 [srcS4 n] (fun s => decide ((rdS s n.toNat).toInt < 0)) ∧
    goes (.bany r n o) 5 [srcM4 n] (fun s => rdM s n.toNat &&& s.part.exm != 0#64) ∧
    goes (.ball r n o) 6 [srcM4 n] (fun s => s.part.exm &&& ~~~ rdM s n.toNat == 0#64) ∧
    (∀ s, ready (Op.plain (wBR r 1 0#4 o) r 0 [dstS 62#7]) s = true →
      ∃ t, exec (.call r o) s = .next t ∧ Moved r 2 (branchTarget r o s) s t ∧ SameRest s t ∧ VectorSame s t ∧
        MaskSame s t ∧ ScalarSet 62 (unitAddr r s + 4#64) s t)) ∧
  (∀ (r : Run) (n : BitVec 4) (o : BitVec 18) (s : State), ready (Op.plain (wBR r 7 n o) r 0 [srcM4 n]) s = true →
    let taken := s.part.exm &&& rdM s n.toNat
    let fall := s.part.exm &&& ~~~ taken
    let pushed := fun (m : W64) => { s with part := pushEntry (unitNext r s) m s.part }
    (s.part.stack.length = 16 → exec (.bdiv r n o) s = .next (trapExm 0x06 1 r s)) ∧
    (s.part.stack.length ≠ 16 → fall = 0#64 → taken ≠ 0#64 →
      ∃ t, exec (.bdiv r n o) s = .next t ∧ NoResult r 2 (branchTarget r o s) (pushed 0#64) t) ∧
    (s.part.stack.length ≠ 16 → taken = 0#64 →
      ∃ t, exec (.bdiv r n o) s = .next t ∧ NoResult r 2 (unitNext r s) (pushed 0#64) t) ∧
    (s.part.stack.length ≠ 16 → taken ≠ 0#64 → fall ≠ 0#64 →
      (quadUniform s.part taken && !s.part.nosplit && s.part.state != .trapped && freeSet s) = false →
      ∃ t, exec (.bdiv r n o) s = .next t ∧ t.part.exm = taken ∧
        NoResult r 2 (branchTarget r o s) { pushed fall with part := { (pushed fall).part with exm := taken } } t) ∧
    (s.part.stack.length ≠ 16 → taken ≠ 0#64 → fall ≠ 0#64 →
      (quadUniform s.part taken && !s.part.nosplit && s.part.state != .trapped && freeSet s) = true →
      ∃ t p q, exec (.bdiv r n o) s = .next t ∧ t.part = p ∧ t.sibs = insertPart q s.sibs ∧
        p.quads + q.quads = s.part.quads ∧ p.s = s.part.s ∧ q.s = s.part.s ∧ t.wave = s.wave ∧
        ((p.pc = branchTarget r o s ∧ q.pc = unitNext r s) ∨ (p.pc = unitNext r s ∧ q.pc = branchTarget r o s)) ∧
        p.stack.length = s.part.stack.length + 1 ∧ q.stack.length = s.part.stack.length + 1 ∧
        ∀ a, rawByte t a = rawByte s a))

/-- R41 and R42: a JOIN on an empty stack in a part that is alone in its wave passes: the part goes on after it, with JIDX
the index, JTOUT clear, and its OPEN mark cleared; one at a level with D clear and lanes left goes to RPC with those lanes;
one at a level with D set and the same index leaves the level with OUTER and passes, alone in its wave; one whose index
differs from the level's traps with cause 0x06, subcode 2. R42 and R43: a JOIN that a part reaches while another part of its
wave is not present puts the part in JOINWAIT at the JOIN, under the limit of its JOINTO hint or of WCTL; in a handler it
passes at once. R45: a wave-wide instruction whose groups are not all the part's own or exited traps in a handler and puts
the part in FUSEWAIT otherwise, under the watchdog of WCTL. FUSE on its own groups has no effect. R42 to R45 and R52: what
the end of a cycle makes of two parts of a wave that wait. At one JOIN, compatible, they fuse and go on after it together; at
one wave-wide instruction whose groups they cover together, they fuse into one part that issues it two cycles later; and a
part that has arrived at a JOIN under its OPEN marks, with its sibling elsewhere, passes alone. That a lone part passes a
JOIN no earlier than max(2, S + 1) cycles later (log 25), the order in which the JOINs and fuses of a cycle are settled (log
43), and which JIDX and JTOUT a fused part keeps (log 50) are the model's readings. -/
def Obligations.JoinsAndFuses : Prop :=
  (∀ (r : Run) (j : BitVec 7) (s : State), ready (opJoin r j) s = true →
    (s.part.stack = [] → s.sibs = [] → s.part.state = .run →
      ∃ t, exec (.join r j) s = .next t ∧ t.part.pc = unitNext r s ∧ t.part.jidx = j.toNat ∧ t.part.jtout = false ∧
        t.part.state = .run ∧ t.part.exm = s.part.exm ∧ t.part.s = s.part.s ∧
        t.part.ready = now s + max 2 (stallOf r + 1) ∧
        t.wave = keepSets (now s) 0 (markOpen s.part.quads j.toNat false s.wave) ∧ t.memsys = s.memsys) ∧
    (∀ e rest, s.part.stack = e :: rest → e.d = false → e.lanes ≠ 0#64 →
      ∃ t, exec (.join r j) s = .next t ∧ t.part.pc = e.rpc ∧ t.part.exm = e.lanes ∧
        t.part.stack = { e with d := true, jj := some (j.toNat, unitAddr r s), jto := jointo r, hints := r.hints.length } :: rest ∧
        t.part.s = s.part.s ∧ t.wave = s.wave ∧ t.memsys = s.memsys) ∧
    (∀ e rest a, s.part.stack = e :: rest → e.d = true → e.jj = some (j.toNat, a) → s.sibs = [] → s.part.state = .run →
      ∃ t, exec (.join r j) s = .next t ∧ t.part.pc = unitNext r s ∧ t.part.exm = e.outer ∧ t.part.stack = rest ∧
        t.part.jidx = j.toNat ∧ t.part.jtout = false ∧ t.part.state = .run ∧ t.part.s = s.part.s ∧
        t.wave = keepSets (now s) 0 (markOpen s.part.quads j.toNat false s.wave) ∧ t.memsys = s.memsys) ∧
    (∀ e rest k a, s.part.stack = e :: rest → e.d = true → e.jj = some (k, a) → k ≠ j.toNat →
      exec (.join r j) s = .next (trapExm 0x06 2 r s))) ∧
  (∀ (r : Run) (j : BitVec 7) (s : State), ready (opJoin r j) s = true → s.part.stack = [] →
    (s.part.state = .run → (presentAt j.toNat (unitAddr r s) s).length ≠ s.sibs.length →
      ∃ t, exec (.join r j) s = .next t ∧ t.part.state = .joinwait ∧ t.part.jwait = j.toNat ∧ t.part.jidx = s.part.jidx ∧ t.part.pc = s.part.pc ∧
        t.part.waitAt = unitAddr r s ∧ t.part.exm = s.part.exm ∧ t.part.s = s.part.s ∧ t.sibs = s.sibs ∧
        t.part.timer = some (now s + (match payload r 5 with | some n => n | none => bfield (wctlOf s) 31 20)) ∧
        t.wave = { s.wave with unsettled := some (now s) } ∧ t.memsys = s.memsys) ∧
    (s.part.state = .trapped →
      ∃ t, exec (.join r j) s = .next t ∧ t.part.state = .trapped ∧ t.part.pc = unitNext r s ∧ t.part.exm = s.part.exm ∧
        t.part.ready = now s + (stallOf r + 1) ∧ t.part.s = s.part.s ∧ t.sibs = s.sibs ∧ t.wave = s.wave ∧ t.memsys = s.memsys)) ∧
  (∀ (r : Run) (w : BitVec 7) (s : State),
    ready (opCtl 1 r w 0#7 (decide (w.toNat ≤ 4) && decide (w.toNat ≤ s.wave.code)) []) s = true →
    (covered s (widthOf w.toNat) s.part.quads s.part.quads = true →
      ∃ t, exec (.fuse r w) s = .next t ∧ NoResult r 1 (unitNext r s) s t) ∧
    (covered s (widthOf w.toNat) s.part.quads s.part.quads = false → s.part.state = .trapped →
      exec (.fuse r w) s = .next (trapExm 0x06 4 r s)) ∧
    (covered s (widthOf w.toNat) s.part.quads s.part.quads = false → s.part.state = .run →
      ∃ t, exec (.fuse r w) s = .next t ∧ t.part.state = .fusewait ∧ t.part.waitAt = unitAddr r s ∧
        t.part.timer = some (now s + 1024 * (if bfield (wctlOf s) 39 32 = 0 then 256 else bfield (wctlOf s) 39 32)) ∧
        t.part.pc = s.part.pc ∧ t.part.exm = s.part.exm ∧ t.part.s = s.part.s ∧ t.sibs = s.sibs ∧
        t.wave = { s.wave with unsettled := some (now s) } ∧ t.memsys = s.memsys)) ∧
  (∀ (c : Nat) (w : Wave) (p q : Part), w.parts = [p, q] → lowBit p.quads < lowBit q.quads →
    (p.state = .joinwait → p.exiting = false → q.exiting = false → presentWith p p.jwait p.waitAt q = true →
      ∃ m, (settleWave c w).parts = [m] ∧ m.quads = p.quads ||| q.quads ∧ m.exm = p.exm ||| q.exm ∧ m.s = p.s ∧
        m.state = .run ∧ m.pc = p.waitAt + 4#64 ∧ m.jidx = p.jwait ∧ m.jtout = false ∧ c + 2 ≤ m.ready ∧
        (settleWave c w).v = w.v ∧ (settleWave c w).m = w.m) ∧
    (p.state = .fusewait → q.state = .fusewait → q.waitAt = p.waitAt → compatible p q = true →
      coveredIn w (widthOf p.wcode) p.quads (p.quads ||| q.quads) = true →
      coveredIn w (widthOf p.wcode) q.quads (p.quads ||| q.quads) = true →
      ∃ m, (settleWave c w).parts = [m] ∧ m.quads = p.quads ||| q.quads ∧ m.exm = p.exm ||| q.exm ∧ m.s = p.s ∧
        m.state = .run ∧ m.pc = p.pc ∧ c + 2 ≤ m.ready ∧ (settleWave c w).v = w.v ∧ (settleWave c w).m = w.m) ∧
    (∀ once, p.state = .joinwait → p.arr = some once → p.exiting = false → q.state = .run →
      allOpen w p.quads p.jwait = true →
      ∃ m, (settleWave c w).parts = [m, q] ∧ m.quads = p.quads ∧ m.exm = p.exm ∧ m.s = p.s ∧ m.state = .run ∧
        m.pc = p.waitAt + 4#64 ∧ m.jidx = p.jwait ∧ m.jtout = false ∧ m.ready = once ∧
        ∀ i < 16, p.quads.testBit i = true → (cget 0#64 (settleWave c w).opens i).getLsbD p.jwait = false))

/-- R114, R116 and R118: NOSPLIT is written by SPLITCTL, exm is read by EXMGET and written by EXMSET within the lanes that
the part may activate, YIELD issues no earlier than 2 cycles later, and RET and JR jump to a register; a target that is no
multiple of 4 is misaligned (R59). R16: VXOPEN with room in every bank raises the accessible registers to E and clears the
new ones; without room it waits with nothing changed; VXCLOSE gives them up again. R36, R48 and R115: an EXIT of a part with
no pending store marks its active lanes as exited. When they are all its lanes, the part ceases to exist; when lanes are left
and its stack is empty, it waits with no lane active; when the top entry of its stack has D clear and lanes left, it goes on
at RPC with them. -/
def Obligations.ControlResults : Prop :=
  (∀ (r : Run) (d a : BitVec 7),
    (∀ s, ready (opCtl 2 r d 0#7 (decide (d.toNat < 2)) []) s = true →
      ∃ t, exec (.splitctl r d) s = .next t ∧
        NoResult r 1 (unitNext r s) { s with part := { s.part with nosplit := d == 1#7 } } t) ∧
    ScalarUnit (.exmget r d) (opCtl 8 r d 0#7 true [dstS d]) d (fun s => s.part.exm) ∧
    (∀ s, ready (opCtl 9 r 0#7 a true [srcS a]) s = true →
      ∃ t, exec (.exmset r a) s = .next t ∧
        NoResult r 1 (unitNext r s)
          { s with part := { s.part with exm := sreg s a &&& allowed s &&& partLanes s } } t) ∧
    (∀ s, ready (opCtl 4 r 0#7 0#7 true [srcS 62#7]) s = true →
      (rdS s 62 &&& 3#64 = 0#64 → ∃ t, exec (.ret r) s = .next t ∧ NoResult r 2 (rdS s 62) s t) ∧
      (rdS s 62 &&& 3#64 ≠ 0#64 → exec (.ret r) s = .next (misaligned 4 (rdS s 62) r s))) ∧
    (∀ s, ready (opCtl 5 r 0#7 a true [srcS a]) s = true →
      (sreg s a &&& 3#64 = 0#64 → ∃ t, exec (.jr r a) s = .next t ∧ NoResult r 2 (sreg s a) s t) ∧
      (sreg s a &&& 3#64 ≠ 0#64 → exec (.jr r a) s = .next (misaligned 4 (sreg s a) r s))) ∧
    (∀ s, ready (opCtl 11 r 0#7 0#7 true []) s = true →
      ∃ t, exec (.yield r) s = .next t ∧ t.part.yielded = true ∧
        NoResult r 2 (unitNext r s) { s with part := { s.part with yielded := true } } t)) ∧
  (∀ (r : Run) (e : BitVec 7) (s : State), covered s (widthOf s.wave.code) s.part.quads s.part.quads = true →
    (ready (opCtl 6 r e 0#7 (vxopenOk e s) []) s = true →
      (bankRoom s (8 * e.toNat - s.wave.vbase) = true →
        ∃ t, exec (.vxopen r e) s = .next t ∧ t.wave.vcur = 8 * e.toNat ∧ t.wave.vbase = s.wave.vbase ∧
          (∀ n l, l < 64 → vraw t.wave n l =
            if s.wave.vbase ≤ n ∧ n < 8 * e.toNat then 0#32 else vraw s.wave n l) ∧
          Moved r 1 (unitNext r s) s t ∧ t.part.s = s.part.s ∧ t.wave.m = s.wave.m ∧ t.memsys = s.memsys) ∧
      (bankRoom s (8 * e.toNat - s.wave.vbase) = false → exec (.vxopen r e) s = .next (hold s))) ∧
    (ready (opCtl 7 r 0#7 0#7 true []) s = true →
      ∃ t, exec (.vxclose r) s = .next t ∧ t.wave.vcur = s.wave.vbase ∧
        (∀ n l, l < 64 → n < s.wave.vbase → vraw t.wave n l = vraw s.wave n l) ∧
        Moved r 1 (unitNext r s) s t ∧ t.part.s = s.part.s ∧ t.wave.m = s.wave.m ∧ t.memsys = s.memsys)) ∧
  (∀ (r : Run) (s : State), ready (opCtl 3 r 0#7 0#7 true []) s = true → ownStores s = [] → s.rays = [] →
    (s.part.exm = 0#64 → ∃ t, exec (.exit r) s = .next t ∧ NoResult r 1 (unitNext r s) s t) ∧
    (s.part.exm ≠ 0#64 → ∃ t, exec (.exit r) s = .next t ∧ t.wave.exited = s.wave.exited ||| s.part.exm ∧
      t.memsys = s.memsys) ∧
    (s.part.exm ≠ 0#64 → quadLanes s.part.quads &&& ~~~ (s.wave.exited ||| s.part.exm) = 0#64 → s.part.quads < 2 ^ 16 →
      ∃ t, exec (.exit r) s = .next t ∧ t.part.quads = 0 ∧ t.sibs = s.sibs) ∧
    (s.part.exm ≠ 0#64 → quadLanes s.part.quads &&& ~~~ (s.wave.exited ||| s.part.exm) ≠ 0#64 → s.part.stack = [] →
      ∃ t, exec (.exit r) s = .next t ∧ t.part.wait = .idle ∧ t.part.exm = 0#64 ∧ t.sibs = s.sibs) ∧
    (∀ e rest, s.part.exm ≠ 0#64 → s.part.stack = e :: rest → e.d = false → e.lanes &&& ~~~ s.part.exm ≠ 0#64 →
      quadLanes s.part.quads &&& ~~~ (s.wave.exited ||| s.part.exm) ≠ 0#64 →
      ∃ t, exec (.exit r) s = .next t ∧ t.part.pc = e.rpc ∧ t.part.exm = e.lanes &&& ~~~ s.part.exm ∧ t.sibs = s.sibs))

/-- R119, R122, R123, R126 and R326: NOP changes nothing; MVFS, PTAB, TIME and VRGET write one scalar register; MVTS writes a
system register as R23 has it; VRSET writes the named lanes of the part. R23 and R122: a system register number of 0x20 or
above is privileged: MVFS and MVTS of one trap with cause 0x02 and the number as XINFO, and write nothing. That a result of
variable latency stands over an older one that has not landed is the model's choice (log 40, log 49). -/
def Obligations.SystemResults : Prop :=
  (∀ (r : Run) (d a b : BitVec 7),
    FlowUnit (.nop r) (opSys 0 r 1#7 0#7 0#7 true []) 1 (unitNext r) ∧
    (∀ s, ready (opMv 4 r d 0#7 b [dstS d]) s = true →
      ∃ t, exec (.mvfs r d b) s = .next t ∧ ScalarResult r 0 d.toNat (sysRead s (sysNum r b)) s t) ∧
    (∀ s, ready (opMv 5 r 0#7 a b [srcS a]) s = true →
      ∃ t, exec (.mvts r a b) s = .next t ∧
        NoResult r 1 (unitNext r s) (sysWrite (sysNum r b) (sreg s a) s) t) ∧
    ScalarUnit (.ptab r d a b) (opSys 6 r d a b (decide (b.toNat < 2)) [srcS a, dstS d]) d
      (fun s => ptabWord (sreg s a).toNat b.toNat (unitNext r s) s) ∧
    ScalarUnit (.time r d) (opSys 8 r d 0#7 0#7 true [dstS d]) d (fun s => BitVec.ofNat 64 (s.clock / 78)) ∧
    (∀ s, ready (opSys 11 r d a b true [laneV a, srcS b, dstS d]) s = true → (sreg s b).toNat < 64 →
      (partLanes s).getLsbD (sreg s b).toNat = true → landOf s a.toNat [(sreg s b).toNat] ≤ now s →
      ∃ t, exec (.vrget r d a b) s = .next t ∧
        ScalarResult r 0 d.toNat ((vraw s.wave a.toNat (sreg s b).toNat).setWidth 64) s t) ∧
    (∀ s, ready (opSys 11 r d a b true [laneV a, srcS b, dstS d]) s = true →
      64 ≤ (sreg s b).toNat → exec (.vrget r d a b) s = .next (trapExm 0x06 5 r s)) ∧
    (∀ s, ready (opSys 12 r d a b true [laneV d, srcS a, srcS b]) s = true →
      landOf s d.toNat (lanesOf (sreg s b &&& partLanes s)) ≤ now s →
      ∃ t, exec (.vrset r d a b) s = .next t ∧
        VectorResult r 0 d.toNat (lanesOf (sreg s b &&& partLanes s)) (fun _ => (sreg s a).setWidth 32) s t)) ∧
  (∀ (r : Run) (d n : BitVec 7) (s : State), handles s → 0x20 ≤ sysNum r n →
    (clear r s = true → rejectOp (opMv 4 r d 0#7 n [dstS d]) s = none →
      ∃ t, exec (.mvfs r d n) s = .next t ∧
        Entered { cause := 0x02, lanes := s.part.exm, info := BitVec.ofNat 64 (sysNum r n), addr := 0#64 } (unitWords r) s t) ∧
    (clear r s = true → rejectOp (opMv 5 r 0#7 d n [srcS d]) s = none →
      ∃ t, exec (.mvts r d n) s = .next t ∧
        Entered { cause := 0x02, lanes := s.part.exm, info := BitVec.ofNat 64 (sysNum r n), addr := 0#64 } (unitWords r) s t))

/-- R124, R125: WAITCY of a count above 0 makes the part wait that many cycles more; ICINV of bytes makes it wait until the
caches have dropped them; with a count of 0 both only fall through. R127 and R279: SFQ with an aligned address inside the
reservation writes 0 when no record is held; otherwise it moves the oldest record, of 32 bytes, to the scratchpad and writes
how many records it found. -/
def Obligations.SystemWaits : Prop :=
  (∀ (r : Run) (a b : BitVec 7) (s : State),
    (ready (opSys 7 r 0#7 a 0#7 true [srcS a]) s = true → (sreg s a).toNat % 2 ^ 32 = 0 →
      ∃ t, exec (.waitcy r a) s = .next t ∧ NoResult r 1 (unitNext r s) s t) ∧
    (ready (opSys 7 r 0#7 a 0#7 true [srcS a]) s = true → (sreg s a).toNat % 2 ^ 32 ≠ 0 →
      ∃ t, exec (.waitcy r a) s = .next t ∧ t.part.wait = .cycles (now s + (sreg s a).toNat % 2 ^ 32 + 1) ∧
        t.part.pc = unitNext r s ∧ t.part.s = s.part.s ∧ t.part.exm = s.part.exm ∧ t.wave = s.wave ∧ t.memsys = s.memsys) ∧
    (ready (opIcinv r a b) s = true → sreg s b = 0#64 →
      ∃ t, exec (.icinv r a b) s = .next t ∧ NoResult r 1 (unitNext r s) s t) ∧
    (ready (opIcinv r a b) s = true → sreg s b ≠ 0#64 →
      ∃ t, exec (.icinv r a b) s = .next t ∧ t.part.wait = .icinv ∧ t.part.pc = unitNext r s ∧
        t.cores = (dropWords (inCode s (sreg s a) (sreg s b))
          (inScope (if hasMod r then scopeOf r else 4) s.crew.core) s).cores ∧
        t.part.s = s.part.s ∧ t.wave = s.wave ∧ t.memsys = s.memsys)) ∧
  (∀ (r : Run) (d a : BitVec 7) (s : State), ready (opSys 13 r d a 0#7 true [srcS a, dstS d]) s = true →
    (sreg s a).toNat % 32 = 0 → (sreg s a).toNat + 32 ≤ s.crew.scr →
    (s.crew.sfq = [] → ∃ t, exec (.sfq r d a) s = .next t ∧ ScalarResult r 0 d.toNat 0#64 s t) ∧
    (∀ x rest, s.crew.sfq = x :: rest → touchesBar s.crew (sreg s a).toNat 32 = false →
      ∃ t, exec (.sfq r d a) s = .next t ∧
        ScalarResult r 0 d.toNat (BitVec.ofNat 64 s.crew.sfq.length)
          { s with crew := scrWrite (sreg s a).toNat x.bytes { s.crew with sfq := rest } } t))

/-- R120, R154 to R161 and R421: TRAP enters the handler with cause 0x09 and n; BRK and STOP enter it with cause 0x08, with n
and 0x80; with a debugger attached BRK and STOP stop the crew with reasons 1 and 2, past the unit. R154 and R281: a handled
cause kills the crew when its wave has no handler, and when the part is in its handler already, then with the part's trap
registers; the kill carries the cause, XINFO, XADDR and the part's PC. -/
def Obligations.TrapsEnterTheHandler : Prop :=
  (∀ (r : Run) (n : BitVec 7) (s : State),
    let goes := fun (cause info : Nat) (t : State) =>
      Entered { cause := cause, lanes := s.part.exm, info := BitVec.ofNat 64 info, addr := 0#64 } (unitWords r) s t
    (ready (opSys 1 r 0#7 n 0#7 true []) s = true → handles s → ∃ t, exec (.trap r n) s = .next t ∧ goes 0x09 n.toNat t) ∧
    (ready (opSys 2 r 0#7 n 0#7 true []) s = true → handles s → debugged s = false →
      ∃ t, exec (.brk r n) s = .next t ∧ goes 0x08 n.toNat t) ∧
    (ready (opSys 10 r 0#7 0#7 0#7 true []) s = true → handles s → debugged s = false →
      ∃ t, exec (.stop r) s = .next t ∧ goes 0x08 0x80 t) ∧
    (ready (opSys 2 r 0#7 n 0#7 true []) s = true → debugged s = true →
      exec (.brk r n) s = .next (stopCrew 1 n.toNat 0#64 (some (unitNext r s)) s)) ∧
    (ready (opSys 10 r 0#7 0#7 0#7 true []) s = true → debugged s = true →
      exec (.stop r) s = .next (stopCrew 2 0 0#64 (some (unitNext r s)) s))) ∧
  (∀ (t : Trap) (ulen : Nat) (s : State),
    (s.part.state ≠ .trapped → pcField (tvecOf s) = 0#64 → trapAt t ulen s = killHere t.cause t.info t.addr [] none s) ∧
    (s.part.state = .trapped →
      trapAt t ulen s = killHere t.cause t.info t.addr [] (some [s.part.xpc, s.part.xcause, s.part.xlanes, s.part.xpart,
        s.part.xinfo, s.part.xaddr]) s))

/-- R121 and R165: XRET in a handler goes back to XPC in RUN, with exm from SEXM within the lanes that the part may activate,
and changes no other register; after a DUMPC of the part, the parts that it halted go back to their saved states (R129,
R424). Outside a handler XRET is an illegal instruction at step 3. R128 and R281: KILLC kills the crew with cause 0x09 and
s[A][15:0]; R129 and R424: DUMPC in a handler, with an address that is a multiple of 256, begins a dump; outside a handler it
is illegal at step 3. In a later cycle the broadcast halts every other part of the crew that is not inside a unit, and
records its wave, index, state and PC from before the halt. That DUMPC and XRET outside a handler fail at step 3 is the
model's choice (log 44). -/
def Obligations.HandlerUnits : Prop :=
  (∀ (r : Run) (s : State),
    (ready (opSys 3 r 0#7 0#7 0#7 true []) s = true → s.part.state = .trapped →
      ∃ t, exec (.xret r) s = .next t ∧ t.part.state = .run ∧ t.part.pc = s.part.xpc ∧
        t.part.exm = s.part.sexm &&& allowed s ∧ t.part.ready = now s + max 3 (stallOf r + 1) ∧ t.part.s = s.part.s ∧
        t.wave = s.wave ∧ t.part.xpc = s.part.xpc ∧ t.part.xcause = s.part.xcause ∧ t.memsys.bytes = s.memsys.bytes ∧
        (s.crew.dump = none → t.sibs = s.sibs ∧ t.waves = s.waves ∧ t.memsys = s.memsys) ∧
        (∀ x, s.crew.dump = some x → x.wave = s.wave.widx → s.part.quads.testBit x.part = true →
          t.crew.dump = none ∧ t.sibs = s.sibs.map (resumePart (now s) s.wave))) ∧
    (clear r s = true → s.part.state = .run →
      exec (.xret r) s = .next (trap (rejectTrap { cause := 0x01, step := 3, word := wRRR 0 r 0#7 0#7 0#7 3 } s) r s))) ∧
  (∀ (r : Run) (d a b : BitVec 7) (s : State),
    (ready (opSys 14 r 0#7 a 0#7 true [srcS a]) s = true →
      exec (.killc r a) s = .next (killHere 0x09 (BitVec.ofNat 64 ((sreg s a).toNat % 2 ^ 16)) 0#64 [] none s)) ∧
    (ready (opSys 15 r d a b true [srcS a, srcS b, dstS d]) s = true → s.part.state = .trapped →
      (sreg s a).toNat % 256 = 0 → dumping s = false →
      ∃ t x, exec (.dumpc r d a b) s = .next t ∧ t.part.wait = .dump ∧ t.part.pc = s.part.pc ∧ t.part.s = s.part.s ∧
        t.sibs = s.sibs ∧ t.waves = s.waves ∧ t.memsys = s.memsys ∧ t.crew.dump = some x ∧ x.addr = sreg s a ∧
        x.limit = sreg s b ∧ x.dreg = d.toNat ∧ x.start = now s ∧ x.phase = 0 ∧ x.wave = s.wave.widx ∧
        x.part = lowBit s.part.quads) ∧
    (clear r s = true → s.part.state = .run →
      exec (.dumpc r d a b) s = .next (trap (rejectTrap { cause := 0x01, step := 3, word := wRRR 0 r d a b 15 } s) r s)) ∧
    (∀ (x : Dump) (c : Crew) (n : Nat), c.dump = some x → x.phase = 0 → x.start < n →
      c.waves.any (fun w => w.parts.any (haltsNow x w)) = true →
      ∃ e ∈ lateCrew s n c, ∀ t, e t = .next (haltOthers x (focusCrew t c.cid))) ∧
    (∀ (x : Dump) (w : Wave) (p : Part),
      haltsNow x w p = true ↔ p.quads ≠ 0 ∧ p.state ≠ .halted ∧ p.wait ≠ .icinv ∧ p.wait ≠ .inside ∧
        ¬ (w.widx = x.wave ∧ p.quads.testBit x.part = true)) ∧
    (∀ (x : Dump),
      (∀ p ∈ s.sibs, haltsNow x s.wave p = true → p.wait ≠ .dump →
        ∃ q ∈ (haltOthers x s).sibs, q.state = .halted ∧ q.before = p.state ∧ q.pc = p.pc ∧ q.quads = p.quads) ∧
      (∀ w ∈ s.waves, ∀ p ∈ w.parts, haltsNow x w p = true → p.wait ≠ .dump →
        (∃ v ∈ (haltOthers x s).waves, v.widx = w.widx ∧
          ∃ q ∈ v.parts, q.state = .halted ∧ q.before = p.state ∧ q.pc = p.pc ∧ q.quads = p.quads) ∧
        ∃ y, (haltOthers x s).crew.dump = some y ∧ (w.widx, lowBit p.quads, p.state.code, p.pc, now s - x.start) ∈ y.halts)))

/-- R71, R72 and R161: a unit that fails a check takes no effect: it enters the handler with the check's cause, with the word
that fails in XINFO[31:0], the step in XINFO[34:32] and exm in XLANES; so does a word that is no instruction. R134 and R164:
with TRAPEN set, outside a handler, a floating instruction with an invalid event in an active lane writes nothing and takes
cause 0x04, with the lanes of the events in XLANES. R384, R113, R355 and R391: where a word of the next unit of a part that
may issue cannot be fetched, the fetch failure kills the crew, with the address of that word: cause 0x0D outside the global
window, 0x0A with an access record that says why where translation or rights fail, and 0x11 for a poisoned word. Which word a
missing hint is named by is the model's reading (log 7). -/
def Obligations.ChecksTrap : Prop :=
  (∀ (o : Op) (f : State → State) (e : Reject) (s : State), clear o.run s = true → handles s →
    let goes := fun (t : State) =>
      Entered { cause := e.cause, lanes := s.part.exm, info := BitVec.ofNat 64 (e.word.toNat + e.step * 2 ^ 32), addr := 0#64 }
        (unitWords o.run) s t
    (rejectOp o s = some e → ∃ t, unit o f s = .next t ∧ goes t) ∧
    (∃ t, exec (.illegalInstruction o.run e) s = .next t ∧ goes t)) ∧
  (∀ (o : Op) (d : BitVec 7) (f : State → Nat → Res) (s : State),
    ready o s = true → (wctlOf s).getLsbD 2 = true → s.part.state = .run →
    (∃ l ∈ activeLanes s, (f s l).inv = true) → pcField (tvecOf s) ≠ 0#64 →
    ∃ t, fpUnit o d f s = .next t ∧ t.part.xcause = xcauseOf 0x04 (unitWords o.run) ∧ t.part.xinfo = 0#64 ∧
      t.part.pc = pcField (tvecOf s) ∧ t.part.state = .trapped ∧ t.wave.v = s.wave.v ∧
      (∀ l, l < 64 → t.part.xlanes.getLsbD l = ((activeLanes s).contains l && (f s l).inv))) ∧
  (∀ (s : State) (e : FetchStop), s.agent = .wave → canIssue s = true → nextUnit s = .error e → e.why ≠ .owned →
    ∃ k, exec (.fetchFailure (e.why == .outside)) s = .next (killCrew false k s) ∧
      k.pc = pcField s.part.pc ∧ k.widx = s.wave.widx ∧ k.pidx = lowBit s.part.quads ∧
      (e.why = .outside → k.cause = 0x0D ∧ k.addr = e.pc ∧ 2 ^ 56 ≤ e.pc.toNat) ∧
      (∀ n, e.why = .refused n → k.cause = 0x0A ∧ k.access = [{ addr := e.pc, lanes := 0#64, akind := 3, reason := n }]) ∧
      (e.why = .poison → k.cause = 0x11 ∧ k.addr = 0#64 ∧ k.info = 5#64))

/-- R111, R194 to R196: a load whose checks pass, whose lanes are granted and whose fills have room issues: it waits for its
bytes under its destination, and changes no register and no byte of memory; a vector load without active lanes does nothing.
R198: PREF changes no register, no DIRTY byte and no byte of memory, whatever its addresses; with CACHE 2 nothing that it
sends fills L1. That DIRTY bytes and hits are fixed at issue, and that a scalar access is the lowest lane's, are the model's
readings (log 14); so is the lease that a prefetch asks for when lanes of one line match different trackers (log 55). -/
def Obligations.LoadsIssue : Prop :=
  (∀ (r : Run) (d a b : BitVec 7) (s : State), acquiring s = false →
    let scalar := fun (i : Instr) (fn n scale : Nat) =>
      let m : Form := { size := n, scalar := true, rd := true, wr := false }
      let h : How := { ldn := false, acq := modField r 18 18 == 1, cache := modField r 11 10 }
      let addrs := [(scalarLane s, addrS r a b scale s)]
      ready (opSmem fn false r d a b) s = true → accessClear m addrs s = true → accessGranted m addrs s = true →
        loadRoom r h n m addrs s = true → ∃ t, exec i s = .next t ∧ LoadIssued r h (.scalar n) d.toNat n m addrs s t
    let vector := fun (i : Instr) (fn n : Nat) (sext ldn : Bool) =>
      let m : Form := { size := n, scalar := false, rd := true, wr := false }
      let h : How := { ldn := ldn, acq := modField r 18 18 == 1, cache := modField r 11 10 }
      let addrs := laneAddrs r a b (Nat.log2 n) s
      ready (opVld fn n ldn r d a b) s = true →
        (s.part.exm = 0#64 → ∃ t, exec i s = .next t ∧ NoResult r 1 (unitNext r s) s t) ∧
        (s.part.exm ≠ 0#64 → accessClear m addrs s = true → accessGranted m addrs s = true →
          loadRoom r h n m addrs s = true → ∃ t, exec i s = .next t ∧ LoadIssued r h (.vec n sext) d.toNat n m addrs s t)
    scalar (.sld64 r d a b) 0 8 3 ∧ scalar (.sld32 r d a b) 1 4 2 ∧
    vector (.ldB r d a b) 0 1 false false ∧ vector (.ldBs r d a b) 1 1 true false ∧
    vector (.ldH r d a b) 2 2 false false ∧ vector (.ldHs r d a b) 3 2 true false ∧
    vector (.ldW r d a b) 4 4 false false ∧ vector (.ldD r d a b) 5 8 false false ∧
    vector (.ldQ r d a b) 6 16 false false ∧ vector (.ldnW r d a b) 7 4 false true ∧
    vector (.ldnD r d a b) 14 8 false true) ∧
  (∀ (r : Run) (a b : BitVec 7) (s : State),
    ready (opPref r a b) s = true →
    ∃ t, exec (.pref r a b) s = .next t ∧ MemoryQuiet r s t ∧ t.crew = s.crew ∧
      CoresKept ((prefLanes r a b s).map (fun q => q.place.pa / 128)) [] s t ∧
      (modField r 11 10 = 2 → ∀ x ∈ t.net, x ∈ s.net ∨ x.use = .load))

/-- R111, R182, R184 and R195: a store without REL whose checks pass, whose lanes are granted and whose writes have room is
performed, in ascending lane order, at the addresses that its lanes form: its bytes stand in the scratchpad, in L1 or on
their way home, no register and no byte of memory has changed, and the store is pending; without room it waits; a vector
store without active lanes does nothing. -/
def Obligations.StoresIssue : Prop :=
  ∀ (r : Run) (d a b : BitVec 7) (s : State), modField r 19 19 = 0 →
    let scalar := fun (i : Instr) (fn n scale : Nat) =>
      let m : Form := { size := n, scalar := true, rd := false, wr := true }
      let addrs := [(scalarLane s, addrS r a b scale s)]
      let data := fun (_ : Nat) => leBytes n (sreg s d).toNat
      ready (opSmem fn true r d a b) s = true → accessClear m addrs s = true → accessGranted m addrs s = true →
        storeClear m addrs s = true →
        (storeRoom r (modField r 11 10 == 2) (modField r 11 10 == 1) data m addrs s = true →
          ∃ t, exec i s = .next t ∧
            StoreIssued r (modField r 11 10 == 2) (modField r 11 10 == 1) data d.toNat m addrs s t) ∧
        (storeRoom r (modField r 11 10 == 2) (modField r 11 10 == 1) data m addrs s = false → exec i s = .next (hold s))
    let vector := fun (i : Instr) (fn n : Nat) =>
      let m : Form := { size := n, scalar := false, rd := false, wr := true }
      let addrs := laneAddrs r a b (Nat.log2 n) s
      ready (opVst fn n r d a b) s = true →
        (s.part.exm = 0#64 → ∃ t, exec i s = .next t ∧ NoResult r 1 (unitNext r s) s t) ∧
        (s.part.exm ≠ 0#64 → accessClear m addrs s = true → accessGranted m addrs s = true →
          storeClear m addrs s = true →
          (storeRoom r (modField r 11 10 == 2) (modField r 11 10 == 1) (laneBytes s d.toNat n) m addrs s = true →
            ∃ t, exec i s = .next t ∧ StoreIssued r (modField r 11 10 == 2) (modField r 11 10 == 1)
              (laneBytes s d.toNat n) d.toNat m addrs s t) ∧
          (storeRoom r (modField r 11 10 == 2) (modField r 11 10 == 1) (laneBytes s d.toNat n) m addrs s = false →
            exec i s = .next (hold s)))
    scalar (.sst64 r d a b) 2 8 3 ∧ scalar (.sst32 r d a b) 3 4 2 ∧
    vector (.stB r d a b) 8 1 ∧ vector (.stH r d a b) 9 2 ∧ vector (.stW r d a b) 10 4 ∧
    vector (.stD r d a b) 11 8 ∧ vector (.stQ r d a b) 12 16

/-- R182 and R195: what a store puts in L1 stands there DIRTY under its tracker and crew: every stored byte holds its value
and its DIRTY bit, and a byte of the line that is not stored keeps its value where nothing had to leave; a clean line that L1
holds always takes them. That another line may leave L1 first is the model's free choice (log 13). -/
def Obligations.StoredBytesAreDirty : Prop :=
  ∀ (core cid trk key : Nat) (vault first : Bool) (pa : Nat) (bs : List Byte) (s : State),
    pa % 128 + bs.length ≤ 128 →
    (inL1 s core (pa / 128) = true → (getL1 s core (pa / 128)).dirty = 0#128 →
      (putDirty core cid trk key vault first pa bs s).isSome = true) ∧
    ∀ t, putDirty core cid trk key vault first pa bs s = some t →
    let x := getL1 t core (pa / 128)
    x.trk = trk ∧ x.owner = cid ∧
    (∀ i, i < bs.length → cget 0#8 x.data (pa % 128 + i) = (bs[i]?).getD 0#8 ∧ x.dirty.getLsbD (pa % 128 + i) = true) ∧
    (inL1 s core (pa / 128) = true → ∀ o, ¬ (pa % 128 ≤ o ∧ o < pa % 128 + bs.length) →
      cget 0#8 x.data o = cget 0#8 (getL1 s core (pa / 128)).data o) ∧
    t.memsys = s.memsys

/-- R193, R173, R200, R202, R199 and R162, for every scalar, vector and atomic access to memory and to the scratchpad: an
address that is no multiple of the size traps with cause 0x03, the lanes (none of a scalar access) and the size; else an
address that names no window, or an offset beyond the reservation, is an aperture fault at the lowest such lane's address. A
store whose lanes are not granted writes nothing and becomes a pending store with its fault; a load or an atomic whose lanes
are not granted ends in the fault of R199. The size that XINFO gives for VSPILL and VFILL is the model's reading (log 46),
and so is which part a refused store is reported to, with which lanes (log 51). -/
def Obligations.AccessFaults : Prop :=
  ∀ (r : Run) (d a b : BitVec 7) (s : State), atomPending s = false → scratchPending s = false →
    let early := fun (i : Instr) (go scalar : Bool) (n : Nat) (addrs : List (Nat × W64)) (outside : Option W64) =>
      let bad := addrs.filter (fun x => x.2.toNat % n != 0)
      go = true →
        (handles s → ∀ l x rest, bad = (l, x) :: rest → ∃ t, exec i s = .next t ∧
          Entered { cause := 0x03, lanes := if scalar then 0#64 else maskOf (fun l => bad.any (fun x => x.1 == l)),
                    info := BitVec.ofNat 64 n, addr := x } (unitWords r) s t) ∧
        (bad = [] → ∀ x, outside = some x → exec i s = .next (aperture x s))
    let windows := fun (i : Instr) (o : Op) (m : Form) (addrs : List (Nat × W64)) =>
      early i (ready o s && (m.scalar || s.part.exm != 0#64) && !(m.rd && acquiring s)) m.scalar m.size addrs
        (((accsOf m addrs s).find? (fun c => c.tgt == .bad)).map (·.addr))
    let load := fun (i : Instr) (o : Op) (akind : Nat) (m : Form) (addrs : List (Nat × W64)) =>
      windows i o m addrs ∧ (ready o s = true → (m.scalar = true ∨ s.part.exm ≠ 0#64) → acquiring s = false →
        accessClear m addrs s = true → ∀ x l, failing m (accsOf m addrs s) s = x :: l → exec i s = .next (loadFault akind (x :: l) s))
    let store := fun (i : Instr) (o : Op) (m : Form) (addrs : List (Nat × W64)) =>
      windows i o m addrs ∧ (ready o s = true → (m.scalar = true ∨ s.part.exm ≠ 0#64) → modField r 19 19 = 0 →
        accessClear m addrs s = true → storeClear m addrs s = true → ∀ x l, failing m (accsOf m addrs s) s = x :: l →
        ∃ t, exec i s = .next t ∧ MemoryQuiet r s t ∧ t.net = s.net ∧ t.cores = s.cores ∧
          t.crew.scratch = s.crew.scratch ∧
          ∃ p : PStore, t.crew.stores = s.crew.stores ++ [p] ∧ p.fault = some x.2 ∧ p.addr = BitVec.ofNat 64 x.1.va)
    let vld := fun (i : Instr) (fn n : Nat) (ldn : Bool) =>
      load i (opVld fn n ldn r d a b) 0 { size := n, scalar := false, rd := true, wr := false } (laneAddrs r a b (Nat.log2 n) s)
    let vst := fun (i : Instr) (fn n : Nat) =>
      store i (opVst fn n r d a b) { size := n, scalar := false, rd := false, wr := true } (laneAddrs r a b (Nat.log2 n) s)
    let sld := fun (i : Instr) (fn n scale : Nat) =>
      load i (opSmem fn false r d a b) 0 { size := n, scalar := true, rd := true, wr := false }
        [(scalarLane s, addrS r a b scale s)]
    let sst := fun (i : Instr) (fn n scale : Nat) =>
      store i (opSmem fn true r d a b) { size := n, scalar := true, rd := false, wr := true }
        [(scalarLane s, addrS r a b scale s)]
    let atm := fun (i : Instr) (fn mods : Nat) (cas : Bool) =>
      load i (opAtom fn mods cas r d a b) 2 { size := atomSize fn r, scalar := false, rd := true, wr := true }
        (laneAddrs r a b (Nat.log2 (atomSize fn r)) s)
    let spill := fun (i : Instr) (fn : Nat) (use : Use) (go : Bool) =>
      let base := sreg s a + dispOf r
      early i (ready (opSpill fn r d a b use) s && go) true 16 [(0, base)]
        (if s.crew.scr < base.toNat + 4 * (b.toNat + 1) * widthOf s.wave.code then some base else none)
    let beyond := fun (n : Nat) (offs : List (Nat × W64)) =>
      (offs.find? (fun x => decide (s.crew.scr < x.2.toNat + n))).map (·.2)
    let lds := fun (i : Instr) (fn n : Nat) =>
      early i (ready (opSpad fn r d a b ([srcS a, dstVs d (grp n) (grp n)] ++ idxUse b)) s && s.part.exm != 0#64 &&
        !acquiring s) false n (laneAddrs r a b (Nat.log2 n) s) (beyond n (laneAddrs r a b (Nat.log2 n) s))
    let sts := fun (i : Instr) (fn n : Nat) =>
      early i (ready (opSpad fn r d a b ([srcS a, srcVs d (grp n) (grp n)] ++ idxUse b)) s) false n
        (laneAddrs r a b (Nat.log2 n) s) (beyond n (laneAddrs r a b (Nat.log2 n) s))
    (vld (.ldB r d a b) 0 1 false ∧ vld (.ldBs r d a b) 1 1 false ∧ vld (.ldH r d a b) 2 2 false ∧
      vld (.ldHs r d a b) 3 2 false ∧ vld (.ldW r d a b) 4 4 false ∧ vld (.ldD r d a b) 5 8 false ∧
      vld (.ldQ r d a b) 6 16 false ∧ vld (.ldnW r d a b) 7 4 true ∧ vld (.ldnD r d a b) 14 8 true) ∧
    (vst (.stB r d a b) 8 1 ∧ vst (.stH r d a b) 9 2 ∧ vst (.stW r d a b) 10 4 ∧ vst (.stD r d a b) 11 8 ∧
      vst (.stQ r d a b) 12 16) ∧
    (sld (.sld64 r d a b) 0 8 3 ∧ sld (.sld32 r d a b) 1 4 2 ∧ sst (.sst64 r d a b) 2 8 3 ∧ sst (.sst32 r d a b) 3 4 2) ∧
    (lds (.ldsW r d a b) 0 4 ∧ lds (.ldsD r d a b) 1 8 ∧ lds (.ldsQ r d a b) 2 16 ∧
      sts (.stsW r d a b) 3 4 ∧ sts (.stsD r d a b) 4 8 ∧ sts (.stsQ r d a b) 5 16) ∧
    (spill (.vspill r d a b) 6 (srcVs d (b.toNat + 1) 1) true ∧ spill (.vfill r d a b) 7 (dstVs d (b.toNat + 1) 1) (!acquiring s)) ∧
    (atm (.aadd r d a b) 0 atomMods false ∧ atm (.aand r d a b) 1 atomMods false ∧ atm (.aor r d a b) 2 atomMods false ∧
      atm (.axor r d a b) 3 atomMods false ∧ atm (.amin r d a b) 4 atomMods false ∧ atm (.amax r d a b) 5 atomMods false ∧
      atm (.aminn r d a b) 6 atomMods false ∧ atm (.amaxn r d a b) 7 atomMods false ∧ atm (.axch r d a b) 8 atomMods false ∧
      atm (.acas r d a b) 9 atomMods true ∧ atm (.aaddf r d a b) 10 (modACQ + modREL) false ∧
      atm (.aincw r d a b) 11 atomMods false ∧ atm (.ald r d a b) 12 (2 ^ 13 + modACQ) false ∧
      atm (.ast r d a b) 13 (2 ^ 13 + modREL) false) ∧
    early (.ldsp r d a b) (ready (opSpad 8 r d a b [srcS a, srcS b, dstS d]) s && !acquiring s) true 8
      [(0, addrS r a b 3 s)] (beyond 8 [(0, addrS r a b 3 s)]) ∧
    early (.stsp r d a b) (ready (opSpad 9 r d a b [srcS a, srcS b, srcS d]) s) true 8
      [(0, addrS r a b 3 s)] (beyond 8 [(0, addrS r a b 3 s)])

/-- R200 to R203: a scratchpad load, behind no acquire, takes its bytes at issue, as the scratchpad holds them, and a
scratchpad store writes them at once, lane by lane in ascending order; neither changes a register or memory. R202: VSPILL
writes n registers of every lane of the part, active or not, to the slots at base + 4 (i W + l); VFILL takes them back from
there. -/
def Obligations.ScratchpadAccesses : Prop :=
  (∀ (r : Run) (d a b : BitVec 7) (s : State),
    let lanes := fun (n : Nat) => laneAddrs r a b (Nat.log2 n) s
    let uses := fun (dst : Use) => [srcS a, dst] ++ idxUse b
    let held := fun (t : State) (kind : LoadKind) (l : List (Nat × Cells W64)) =>
      MemoryQuiet r s t ∧ t.crew = s.crew ∧ ∃ ld : Load, t.part.loads = s.part.loads ++ [ld] ∧ ld.kind = kind ∧
        ld.reg = d.toNat ∧ ld.lanes.map (fun x => (x.lane, x.fixed)) = l
    let load := fun (i : Instr) (fn n : Nat) =>
      ready (opSpad fn r d a b (uses (dstVs d (grp n) (grp n)))) s = true → s.part.exm ≠ 0#64 →
        spadClear n (lanes n) s = true → acquiring s = false → ∃ t, exec i s = .next t ∧
          held t (.vec n false) ((lanes n).map (fun x => (x.1, scratchCells s.crew x.2.toNat n)))
    let put := fun (t : State) (offs : List (Nat × Nat)) (data : Nat → List Byte) =>
      MemoryQuiet r s t ∧ t.part.loads = s.part.loads ∧
        t.crew = offs.foldl (fun (c : Crew) x => scrWrite x.2 (data x.1) c) s.crew
    let store := fun (i : Instr) (fn n : Nat) =>
      let offs := (lanes n).map (fun x => (x.1, x.2.toNat))
      ready (opSpad fn r d a b (uses (srcVs d (grp n) (grp n)))) s = true → spadClear n (lanes n) s = true →
        offs.any (fun x => touchesBar s.crew x.2 n) = false →
        ∃ t, exec i s = .next t ∧ put t offs (laneBytes s d.toNat n)
    load (.ldsW r d a b) 0 4 ∧ load (.ldsD r d a b) 1 8 ∧ load (.ldsQ r d a b) 2 16 ∧
    store (.stsW r d a b) 3 4 ∧ store (.stsD r d a b) 4 8 ∧ store (.stsQ r d a b) 5 16 ∧
    (ready (opSpad 8 r d a b [srcS a, srcS b, dstS d]) s = true → spadClear 8 [(0, addrS r a b 3 s)] s = true → acquiring s = false →
      ∃ t, exec (.ldsp r d a b) s = .next t ∧
        held t (.scalar 8) [(scalarLane s, scratchCells s.crew (addrS r a b 3 s).toNat 8)]) ∧
    (ready (opSpad 9 r d a b [srcS a, srcS b, srcS d]) s = true → spadClear 8 [(0, addrS r a b 3 s)] s = true →
      touchesBar s.crew (addrS r a b 3 s).toNat 8 = false →
      ∃ t, exec (.stsp r d a b) s = .next t ∧ put t [(0, (addrS r a b 3 s).toNat)] (fun _ => bytes64 (sreg s d)))) ∧
  (∀ (r : Run) (d a n : BitVec 7) (s : State),
    let base := sreg s a + dispOf r
    let k := n.toNat + 1
    scratchPending s = false → base &&& 15#64 = 0#64 → base.toNat + 4 * k * widthOf s.wave.code ≤ s.crew.scr →
    (ready (opSpill 6 r d a n (srcVs d k 1)) s = true →
      (slots s base.toNat k).any (fun x => touchesBar s.crew x.2.2 4) = false →
      ∃ t, exec (.vspill r d a n) s = .next t ∧ MemoryQuiet r s t ∧
        t.crew = (slots s base.toNat k).foldl (fun (c : Crew) x =>
          scrWrite x.2.2 (bytes32 (rdV s (d.toNat + x.1) x.2.1)) c) s.crew) ∧
    (ready (opSpill 7 r d a n (dstVs d k 1)) s = true → acquiring s = false →
      ∃ t, exec (.vfill r d a n) s = .next t ∧ MemoryQuiet r s t ∧ t.crew = s.crew ∧
        ∃ ld : Load, t.part.loads = s.part.loads ++ [ld] ∧ ld.kind = .vec (4 * k) false ∧ ld.reg = d.toNat ∧
          ld.lanes.map (fun x => (x.lane, x.fixed)) = (lanesOf (partLanes s)).map (fun l =>
            (l, byteCells 0 ((List.range k).flatMap (fun i => scrRead s.crew (slot s base.toNat i l) 4))))))

/-- R204 and R205: the new value of every atomic of 4 or 8 bytes. R231: the element step of a reduce-copy, for its sums, its
minimum and its maximum of integers and its sum of floats. -/
def Obligations.AtomicAndReduceValues : Prop :=
  (∀ (n old v c : Nat), (n = 4 ∨ n = 8) → old < 2 ^ (8 * n) → v < 2 ^ (8 * n) →
    let s := signedOf (8 * n)
    atomNew 0 n old v c = (old + v) % 2 ^ (8 * n) ∧ atomNew 1 n old v c = old &&& v ∧ atomNew 2 n old v c = old ||| v ∧
    atomNew 3 n old v c = old ^^^ v ∧ s (atomNew 4 n old v c) = min (s old) (s v) ∧
    s (atomNew 5 n old v c) = max (s old) (s v) ∧ atomNew 6 n old v c = min old v ∧ atomNew 7 n old v c = max old v ∧
    atomNew 8 n old v c = v ∧ (old = c → atomNew 9 n old v c = v) ∧ (old ≠ c → atomNew 9 n old v c = old) ∧
    atomNew 10 n old v c = (fp32.add 0 0x25 0xF003 false old v).bits ∧
    (old < v → atomNew 11 n old v c = old + 1) ∧ (v ≤ old → atomNew 11 n old v c = 0) ∧
    atomNew 12 n old v c = old ∧ atomNew 13 n old v c = v) ∧
  (∀ (d x : Nat), d < 2 ^ 32 → x < 2 ^ 32 →
    let g := signedOf 32
    reduceOp 0 d x = (d + x) % 2 ^ 32 ∧
    g (reduceOp 1 d x) = max (-(2 ^ 31)) (min (2 ^ 31 - 1) (g d + g x)) ∧
    reduceOp 2 d x = (fp32.add 0 0x24 0xF001 false d x).bits ∧
    g (reduceOp 3 d x) = min (g d) (g x) ∧ g (reduceOp 4 d x) = max (g d) (g x))

/-- R204 and R206: every atomic without REL whose checks pass, whose lanes are granted and that finds room is performed lane
by lane in ascending order: its result comes back as a load into v[D] (AST has none), it is pending as a store, and registers
and memory are as before; without room it waits. With one active lane: at SCOPE 2 to 5, and on a TSO or fabric line, the
access that leaves carries the operation and the lane's operands to the home; at SCOPE 0 and 1 the atomic is performed at
once on a line that L1 holds, the new value DIRTY there and the old one its result, and otherwise on the arrival of the fill
that leaves; and a lane in the scratchpad window is performed there. That a home atomic writes down the DIRTY bytes of its
line first is the model's reading (log 8). -/
def Obligations.AtomicsIssue : Prop :=
  ∀ (r : Run) (d a b : BitVec 7) (s : State), modField r 19 19 = 0 → acquiring s = false → s.part.exm ≠ 0#64 →
    let at_ := fun (i : Instr) (fn mods : Nat) (cas : Bool) =>
      let n := atomSize fn r
      let m : Form := { size := n, scalar := false, rd := true, wr := true }
      let addrs := laneAddrs r a b (Nat.log2 n) s
      let accs := accsOf m addrs s
      let qs := readyOf m r accs s
      let v := laneNat s d.toNat n
      let c := laneNat s (opcOf r) n
      let hit := fun (q : Ready) => isHit { ldn := false, acq := false, cache := 0 } q n s
      let new := fun (old l : Nat) => leBytes n (atomNew fn n old (v l) (c l))
      accessClear m addrs s = true → accessGranted m addrs s = true →
      (scratchOf accs).any (fun x => touchesBar s.crew x.2 n) = false →
      (∀ q ∈ qs, atomFar r = false → q.place.tso = false → hit q = true → poisonedL1 s (q.place.pa / 128) (q.place.pa % 128) n = false) →
      ready (opAtom fn mods cas r d a b) s = true →
      let run := atomLanes (atomFar r) fn n v c qs accs { st := s, lanes := [], accs := [] }
      (run = none → exec i s = .next (hold s)) ∧
      (run.isSome = true → ∃ t, exec i s = .next t ∧ Moved r 1 (unitNext r s) s t ∧
        t.part.s = s.part.s ∧ t.part.exm = s.part.exm ∧ t.wave = s.wave ∧ t.memsys = s.memsys ∧
        t.crew.stores.length = s.crew.stores.length + 1 ∧
        ∃ ld : Load, t.part.loads = (if fn = 13 then s.part.loads else s.part.loads ++ [ld]) ∧ ld.kind = .vec n false ∧
          ld.reg = d.toNat ∧ ld.acq = (modField r 18 18 == 1) ∧
          ∀ x, accs = [x] →
            (∀ o, x.tgt = .scratch o →
              let old := scrNat s.crew o n
              ld.lanes.map (fun y => (y.lane, y.fixed)) = [(x.lane, byteCells 0 (leBytes n old))] ∧
              t.crew.scratch = (if fn = 12 then s.crew else scrWrite o (new old x.lane) s.crew).scratch) ∧
            (∀ q, qs = [q] →
              let line := q.place.pa / 128
              let off := q.place.pa % 128
              let near := !atomFar r && !q.place.tso && !remoteLine line
              (near = false → ∃ y ∈ t.net, y.line = line ∧
                y.op = .atomic fn n off (BitVec.ofNat 64 (v q.lane)) (BitVec.ofNat 64 (c q.lane))) ∧
              (near = true → hit q = true →
                let old := leNat (cgetList 0#8 (getL1 s s.crew.core line).data off n)
                ld.lanes.map (fun y => (y.lane, y.fixed)) = [(q.lane, byteCells 0 (leBytes n old))] ∧
                if fn = 12 then t.cores = s.cores ∧ t.net = s.net
                else ∃ u, putDirty s.crew.core s.crew.cid q.trk q.place.key q.place.vault false q.place.pa (new old q.lane) s =
                  some u ∧ t.cores = u.cores ∧ t.net = u.net) ∧
              (near = true → hit q = false → ∃ y ∈ t.net, y.line = line ∧ y.back = false ∧
                (∃ e, y.op = .read e) ∧
                y.use = .atom fn n off (BitVec.ofNat 64 (v q.lane)) (BitVec.ofNat 64 (c q.lane)))))
    at_ (.aadd r d a b) 0 atomMods false ∧ at_ (.aand r d a b) 1 atomMods false ∧ at_ (.aor r d a b) 2 atomMods false ∧
    at_ (.axor r d a b) 3 atomMods false ∧ at_ (.amin r d a b) 4 atomMods false ∧ at_ (.amax r d a b) 5 atomMods false ∧
    at_ (.aminn r d a b) 6 atomMods false ∧ at_ (.amaxn r d a b) 7 atomMods false ∧ at_ (.axch r d a b) 8 atomMods false ∧
    at_ (.acas r d a b) 9 atomMods true ∧ at_ (.aaddf r d a b) 10 (modACQ + modREL) false ∧
    at_ (.aincw r d a b) 11 atomMods false ∧ at_ (.ald r d a b) 12 (2 ^ 13 + modACQ) false ∧
    at_ (.ast r d a b) 13 (2 ^ 13 + modREL) false

/-- R207 to R209: TRKSET binds a tracker to the range from s[A] on, of s[B] bytes, at most up to 2^56, with KIND 1 in the
global window and 3 in the vault window; any other window kills the crew with cause 0x0D. TRKSET of a handle binds the
handle's range with KIND 2, and TRKCLR leaves KIND 0, SCOPE 0 and LEASELEN 400. OUT and LCT stay, and nothing else changes
but the part's flow. R210 to R213: with every store of the part accepted, a DRAINST completes; a FENCE completes when its
release has nothing left to wait for and, as an acquire, the part has no load in flight; each changes the part's flow alone.
An acquire with a load in flight, and a release of a part whose stores are not accepted, hold the part at the unit. -/
def Obligations.TrackersAndFences : Prop :=
  (∀ (r : Run) (t a b : BitVec 7),
    let bound := fun (n kind base limit : Nat) (s : State) =>
      { s with crew := setTrk s.crew n { getTrk s.crew n with
          kind := kind, base := BitVec.ofNat 64 base, limit := BitVec.ofNat 64 limit,
          scope := if hasMod r then scopeOf r else 4, lease := (payload r 0).getD 400 } }
    let range := fun (n kind : Nat) (s : State) =>
      bound n kind (bfield (sreg s a) 55 0) (min (bfield (sreg s a) 55 0 + (sreg s b).toNat) (2 ^ 56)) s
    let o := opTrkset 0 r t a b [srcS a, srcS b]
    StateUnit (.trkset r t a b) o (fun s => bfield (sreg s a) 63 56 = 0x00) (range t.toNat 1) ∧
    StateUnit (.trkset r t a b) o (fun s => bfield (sreg s a) 63 56 = 0xFC) (range t.toNat 3) ∧
    (∀ s, ready o s = true → bfield (sreg s a) 63 56 ≠ 0x00 → bfield (sreg s a) 63 56 ≠ 0xFC →
      exec (.trkset r t a b) s = .next (killHere 0x0D 0#64 (sreg s a) [] none s)) ∧
    StateUnit (.trksetH r t a) (opTrkset 16 r t a 0#7 [srcS a]) (fun _ => True)
      (fun s => bound (t.toNat - 16) 2 (handleRange s (sreg s a)).1 (handleRange s (sreg s a)).2 s) ∧
    StateUnit (.trkclr r t) (opSync 2 r t 0#7 0#7 (decide (t.toNat ≤ 14)) []) (fun _ => True)
      (fun s => { s with crew := setTrk s.crew t.toNat { getTrk s.crew t.toNat with kind := 0, scope := 0, lease := 400 } })) ∧
  (∀ (r : Run) (a : BitVec 7),
    let acq := !hasMod r || modField r 18 18 == 1
    let rel := !hasMod r || modField r 19 19 == 1
    let scope := if hasMod r then scopeOf r else 4
    let mask := fun (s : State) => (payload r 0).getD (bfield (sreg s a) 15 0)
    let calm := fun (s : State) => ownStores s = [] ∧ s.part.relDone = false
    StateUnit (.drainst r) (opSync 3 r 0#7 0#7 0#7 true []) (fun s => ownStores s = []) id ∧
    StateUnit (.fence r a) (opFence r a) (fun s => calm s ∧ (rel = true → releaseClear (mask s) scope s = true) ∧
      (acq = true → s.part.loads = [])) id ∧
    (∀ s, ready (opFence r a) s = true → calm s → (rel = true → releaseClear (mask s) scope s = true) → acq = true →
      s.part.loads ≠ [] → exec (.fence r a) s = .next { s with part := { s.part with wait := .retry } }) ∧
    (∀ s, ready (opFence r a) s = true → rel = true → s.part.relDone = false → ownStores s ≠ [] →
      (∀ x ∈ ownStores s, x.fault = none) →
      exec (.fence r a) s = .next { s with part := { s.part with wait := .retry } }))

/-- R214: a WAITA whose condition holds acquires and writes 1, and one whose limit has passed writes 0; one of which neither
holds waits until its limit. An offset that is no multiple of 8 traps, and one outside the reservation kills the crew. R215
to R219: at an aligned word of the reservation, BARDEF makes a barrier word of n quads in phase 0; BARARR and BARC record the
part's quads as arrived, with every store accepted, and return the phase they arrived in; BARWAIT and BARC go on once the
phase has passed, and wait before. An operation on a word that is no barrier word, and a BARDEF of one that is, kill the crew
with cause 0x0C; an offset that is no multiple of 8 traps, and one outside the reservation is an aperture fault. R217: an
arrival counts every crew quad at most once in a phase, and a phase completes when ARRIVED reaches EXPECT: PHASE rises by 1,
and ARRIVED starts again from the exited quads. -/
def Obligations.WaitsAndBarriers : Prop :=
  (∀ (r : Run) (d a b : BitVec 7) (s : State), ready (opWaita r d a b) s = true →
    let o := (sreg s a).toNat
    let holds := waitHolds ((widthHint r).getD 0) (scrWord s o) (sreg s b)
    let inside := sreg s a &&& 7#64 = 0#64 ∧ o + 8 ≤ s.crew.scr
    s.part.relDone = false → s.part.wait = .none → scratchPending s = false →
    (inside → holds = true → s.part.loads = [] →
      ∃ t, exec (.waita r d a b) s = .next t ∧ ScalarResult r 0 d.toNat 1#64 s t) ∧
    (inside → holds = true → s.part.loads ≠ [] →
      exec (.waita r d a b) s = .next { s with part := { s.part with wait := .retry, relDone := true } }) ∧
    (inside → holds = false → bfield (rdS s (opcOf r)) 31 0 = 0 →
      ∃ t, exec (.waita r d a b) s = .next t ∧ ScalarResult r 0 d.toNat 0#64 s t) ∧
    (inside → holds = false → bfield (rdS s (opcOf r)) 31 0 ≠ 0 →
      exec (.waita r d a b) s = .next { s with part := { s.part with
        wait := .waita (now s + bfield (rdS s (opcOf r)) 31 0) } }) ∧
    (sreg s a &&& 7#64 ≠ 0#64 → exec (.waita r d a b) s = .next (misaligned 8 (sreg s a) r s)) ∧
    (sreg s a &&& 7#64 = 0#64 → s.crew.scr < o + 8 →
      exec (.waita r d a b) s = .next (killHere 0x0D 0#64 (sreg s a) [] none s))) ∧
  (∀ (r : Run) (d a b : BitVec 7),
    let o := fun (s : State) => (sreg s a).toNat
    let at_ := fun (bar : Bool) (s : State) =>
      scratchPending s = false ∧ sreg s a &&& 7#64 = 0#64 ∧ o s + 8 ≤ s.crew.scr ∧ isBar s (o s) = bar
    let new := fun (s : State) => ∀ n k g, s.part.wait ≠ .barw n k ∧ s.part.wait ≠ .barc n k g
    let ph := fun (s : State) => barPhase s.crew (o s)
    let arrived := fun (s : State) =>
      wrS 0 d.toNat (BitVec.ofNat 64 (ph s)) { s with crew := barArrive (o s) (ownQuads s) (crewExited s) s.crew }
    let def_ := opSync 5 r 0#7 a b true [srcS a, srcS b]
    let arr := opSync 6 r d a 0#7 true [srcS a, dstS d]
    let wait := opSync 7 r 0#7 a b true [srcS a, srcS b]
    let barc := opSync 8 r d a 0#7 true [srcS a, dstS d]
    let inv := opSync 9 r 0#7 a 0#7 true [srcS a]
    let killed := fun (s : State) => killHere 0x0C 0#64 0#64 [] none s
    StateUnit (.bardef r a b) def_
      (fun s => at_ false s ∧ 1 ≤ (sreg s b).toNat ∧ (sreg s b).toNat ≤ 512 ∧ s.crew.bars.length < 16)
      (fun s => { s with crew := phaseCheck (o s) (crewExited s) (scrWrite (o s)
        (bytes64 (barWord 0 (sreg s b).toNat (crewQuads (crewExited s)).length))
        { s.crew with bars := s.crew.bars ++ [{ off := o s, bitmap := crewExited s }] }) }) ∧
    StateUnit (.bararr r d a) arr (fun s => at_ true s ∧ ownStores s = []) arrived ∧
    StateUnit (.barwait r a b) wait
      (fun s => at_ true s ∧ new s ∧ ph s ≠ bfield (sreg s b) 15 0 ∧ s.part.loads = []) id ∧
    (∀ s, ready wait s = true → at_ true s → new s → s.part.relDone = false → ph s = bfield (sreg s b) 15 0 →
      exec (.barwait r a b) s = .next { s with part := { s.part with wait := .barw (o s) (ph s) } }) ∧
    (∀ s n k, ready wait s = true → s.part.wait = .barw n k → s.part.relDone = false →
      (inPhase s.crew n k = true → exec (.barwait r a b) s = .next s) ∧
      (inPhase s.crew n k = false → s.part.loads = [] → exec (.barwait r a b) s = .next (done r s))) ∧
    StateUnit (.barc r d a) barc
      (fun s => at_ true s ∧ new s ∧ ownStores s = [] ∧ s.part.loads = [] ∧
        inPhase (arrived s).crew (o s) (ph s) = false) arrived ∧
    (∀ s, ready barc s = true → at_ true s → new s → ownStores s = [] → s.part.relDone = false →
      inPhase (arrived s).crew (o s) (ph s) = true →
      exec (.barc r d a) s = .next { arrived s with part := { (arrived s).part with wait := .barc (o s) (ph s) true } }) ∧
    (∀ s n k, ready barc s = true → s.part.wait = .barc n k true → s.part.relDone = false →
      (inPhase s.crew n k = true → exec (.barc r d a) s = .next s) ∧
      (inPhase s.crew n k = false → s.part.loads = [] → exec (.barc r d a) s = .next (done r s))) ∧
    (∀ s, at_ false s → new s →
      (ready arr s = true → exec (.bararr r d a) s = .next (killed s)) ∧
      (ready wait s = true → exec (.barwait r a b) s = .next (killed s)) ∧
      (ready barc s = true → exec (.barc r d a) s = .next (killed s))) ∧
    (∀ s, at_ true s → ready def_ s = true → exec (.bardef r a b) s = .next (killed s)) ∧
    (∀ s i op, (i, op) ∈ [(Instr.bardef r a b, def_), (.bararr r d a, arr), (.barwait r a b, wait), (.barc r d a, barc),
        (.barinv r a, inv)] → ready op s = true → new s → scratchPending s = false →
      (sreg s a &&& 7#64 ≠ 0#64 → exec i s = .next (misaligned 8 (sreg s a) r s)) ∧
      (sreg s a &&& 7#64 = 0#64 → s.crew.scr < o s + 8 → exec i s = .next (aperture (sreg s a) s)))) ∧
  (∀ (off exited : Nat) (quads : List Nat) (c : Crew),
    let bm := ((c.bars.find? (fun b => b.off == off)).map (·.bitmap)).getD 0
    let fresh := quads.filter (fun q => !bm.testBit q)
    let n := barArrived c off + fresh.length
    n < 1024 →
    (n < barExpect c off → barPhase (barArrive off quads exited c) off = barPhase c off ∧
      barArrived (barArrive off quads exited c) off = n) ∧
    (barExpect c off ≤ n → barPhase (barArrive off quads exited c) off = (barPhase c off + 1) % 2 ^ 16 ∧
      barArrived (barArrive off quads exited c) off = (crewQuads exited).length % 1024) ∧
    barExpect (barArrive off quads exited c) off = barExpect c off)

/-- R219: BARINV, once the part's earlier accesses to the scratchpad have been performed, ends a barrier word: its tag goes
and its place is free, and the word reads as it stood; on an untagged word it has no effect; while another part waits on that
word it kills the crew with cause 0x0C. -/
def Obligations.BarinvClearsTheTag : Prop :=
  ∀ (r : Run) (a : BitVec 7),
    let o := fun (s : State) => (sreg s a).toNat
    let word := fun (s : State) => scratchPending s = false ∧ sreg s a &&& 7#64 = 0#64 ∧ o s + 8 ≤ s.crew.scr
    let waited := fun (s : State) => (s.sibs ++ s.waves.flatMap (·.parts)).any (waitsOn s.crew (o s))
    let op := opSync 9 r 0#7 a 0#7 true [srcS a]
    StateUnit (.barinv r a) op (fun s => word s ∧ isBar s (o s) = true ∧ waited s = false)
      (fun s => { s with crew := { s.crew with bars := s.crew.bars.filter (fun x => x.off != o s) } }) ∧
    StateUnit (.barinv r a) op (fun s => word s ∧ isBar s (o s) = false) id ∧
    (∀ s, ready op s = true → word s → isBar s (o s) = true → waited s = true →
      exec (.barinv r a) s = .next (killHere 0x0C 0#64 0#64 [] none s))

/-- R221, R225, R226, R228 and R230: a copy whose operands pass the checks of R225 starts: CPYL with the addresses of its
active lanes, CPYT and CPYR with the 64 bytes of their descriptor. It takes the crew's next ordinal and joins the copies in
flight, its handle counts it and is FILLING or DRAINING, and no register and no byte of memory has changed. R221 and R188: a
CPYL, CPYT or CPYR whose handle is in a state that it does not accept, and one that finds 64 copies on its core, waits at its
word and changes nothing else. The order of the checks of a copy is the model's reading where R225 leaves it open (log 45).
-/
def Obligations.CopiesStart : Prop :=
  (∀ (r : Run) (d a b : BitVec 7) (s : State),
    let w := ctlOf r
    let starts := fun (i : Instr) (c : Copy) =>
      ∃ t x, exec i s = .next (done r t) ∧ t.part = s.part ∧ t.wave = s.wave ∧ (∀ a, rawByte t a = rawByte s a) ∧
        t.crew.copyOrd = (s.crew.copyOrd + 1) % 2 ^ 32 ∧ t.crew.copies = s.crew.copies ++ [x] ∧
        x = { c with trks := x.trks } ∧ t.crew.scratch = s.crew.scratch ∧
        ∀ n, getBuf t.crew n = if ctlHmode w ≠ 0 ∧ n = ctlHnd w then
            { getBuf s.crew n with count := (getBuf s.crew n).count + 1, state := if ctlHmode w = 1 then 1 else 3 }
          else getBuf s.crew n
    let lanes := cpylLanes r d a b s
    let size := 4 * 2 ^ ctlOpx w
    let desc := fun (i : Instr) (fn : Nat) (o : Op) (pre : Bool) =>
      ready o s = true → (sreg s a).toNat % 64 = 0 → (sreg s a).toNat + 64 ≤ s.crew.scr → pre = true →
        copyClear (captured fn r (descOf s a) [] 0 s) s = true → starts i (captured fn r (descOf s a) [] 0 s)
    (ready (opCopy 0 r d a b (decide (ctlOpx w ≤ 2)) ([srcS a] ++ idxUse d ++ idxUse b) s) s = true →
      s.part.exm ≠ 0#64 → lanes.all (fun x => x.2.1.toNat % size == 0 && x.2.2.toNat % size == 0) = true →
      copyClear (captured 0 r [] lanes size s) s = true → starts (.cpyl r d a b) (captured 0 r [] lanes size s)) ∧
    desc (.cpyt r a) 1
      (opCopy 1 r 0#7 a 0#7 (ctlOpx w == 0 || (decide (2 ≤ ctlOpx w ∧ ctlOpx w ≤ 8) && ctlHmode w == 1)) [srcS a] s)
      (ctlOpx w == 0 || !(captured 1 r (descOf s a) [] 0 s).box.dir) ∧
    desc (.cpyr r a) 2 (opCopy 2 r 0#7 a 0#7 (ctlOpx w % 8 != 7 && ctlHmode w != 1) [srcS a] s) true) ∧
  (∀ (r : Run) (d a b : BitVec 7) (s : State),
    let w := ctlOf r
    let h := (getBuf s.crew (ctlHnd w)).state
    let wait := fun (i : Instr) => exec i s = .next { s with part := { s.part with wait := .retry } }
    let waits := fun (i : Instr) (o : Op) (c : Copy) (aligned bounds : Prop) =>
      ready o s = true → (c.hasCw = true → c.cwOff % 8 = 0) → aligned →
        ((ctlHmode w = 1 ∧ h ≠ 0 ∧ h ≠ 1) ∨ (ctlHmode w = 2 ∧ h ≠ 2 ∧ h ≠ 3) → wait i) ∧
        ((c.hasCw = true → c.cwOff + 8 ≤ s.crew.scr) → bounds → regionOk s c = true → c.astray s = none →
          fullEngine s = true → wait i)
    let size := 4 * 2 ^ ctlOpx w
    let lanes := cpylLanes r d a b s
    let desc := fun (i : Instr) (fn : Nat) (o : Op) (pre : Prop) =>
      waits i o (captured fn r (descOf s a) [] 0 s) ((sreg s a).toNat % 64 = 0 ∧ pre) ((sreg s a).toNat + 64 ≤ s.crew.scr)
    waits (.cpyl r d a b) (opCopy 0 r d a b (decide (ctlOpx w ≤ 2)) ([srcS a] ++ idxUse d ++ idxUse b) s)
      (captured 0 r [] lanes size s)
      (lanes.all (fun x => x.2.1.toNat % size == 0 && x.2.2.toNat % size == 0) = true) True ∧
    desc (.cpyt r a) 1
      (opCopy 1 r 0#7 a 0#7 (ctlOpx w == 0 || (decide (2 ≤ ctlOpx w ∧ ctlOpx w ≤ 8) && ctlHmode w == 1)) [srcS a] s)
      (ctlOpx w = 0 ∨ (captured 1 r (descOf s a) [] 0 s).box.dir = false) ∧
    desc (.cpyr r a) 2 (opCopy 2 r 0#7 a 0#7 (ctlOpx w % 8 != 7 && ctlHmode w != 1) [srcS a] s) True)

/-- R233 to R237 and R372: a copy with every line written and its completion times reached completes: its completion word is
written, then its handle counts one less, and at 0 a fill leaves FULL and a drain FREE; a copy with a line to write works on
one, and a line whose writes have all been answered stands written; an ordered reduce-copy asks the home for its ticket word,
starts its elements when the answer is TKT, asks again no later than 1 µs after another answer, and writes TKT + 1 after its
elements; at the drain limit the copies are squashed, and a squashed copy is replayed when its core has a place for it; a
failing copy kills its crew with cause 0x10, or swaps it out where the launch is recoverable and the fault is a grant's. That
a copy moves line by line, in a free order, is the model's choice (log 16). -/
def Obligations.CopyEngineSteps : Prop :=
  ∀ (ord : Nat) (c : Copy) (s : State), s.crew.cond = .resident → findCopy s ord = some c →
    (drainEnded s = true → exec (.copySquash s.crew.cid) s = .next (squashAll s)) ∧
    (drainEnded s = false → exec (.copySquash s.crew.cid) s = .next s) ∧
    (c.squash = true → exec (.copyComplete s.crew.cid ord) s = .next (if mayReplay s then replayCopy c s else s)) ∧
    (c.squash = false → c.moved s = true → c.ct ≤ timeOf s → (c.hasCw = true → touchesBar s.crew c.cwOff 8 = false) →
      ∃ t, exec (.copyComplete s.crew.cid ord) s = .next t ∧ t.part = s.part ∧ t.wave = s.wave ∧ t.memsys = s.memsys ∧
        t.crew.copies = s.crew.copies.filter (fun x => x.ord != c.ord) ∧
        (c.hasCw = true → scrRead t.crew c.cwOff 8 = bytes64 c.cwVal) ∧
        (c.hmode ≠ 0 → (getBuf t.crew (c.hnd.getD 0)).count = (getBuf s.crew (c.hnd.getD 0)).count - 1) ∧
        (c.hmode = 1 → (getBuf s.crew (c.hnd.getD 0)).count ≤ 1 → (getBuf t.crew (c.hnd.getD 0)).state = 2) ∧
        (c.hmode = 2 → (getBuf s.crew (c.hnd.getD 0)).count ≤ 1 → (getBuf t.crew (c.hnd.getD 0)).state = 0)) ∧
    (c.squash = false → c.moved s = false → copyRuns s = true → c.open_ s ≠ [] → ∃ l ∈ c.open_ s,
      exec (.copyComplete s.crew.cid ord) s = .next (movePiece c l { s with free := s.free + 1 })) ∧
    (∀ l, sentWrites s c l ≠ [] → (∀ a ∈ sentWrites s c l, a.back = true ∧ (a.ans.map (·.failed)).getD true = false) →
      (movePiece c l s).crew.copies = updIf (fun x => x.ord == c.ord) (fun x => { x with
        lines := x.lines ++ [l],
        ct := max x.ct ((sentWrites s c l).foldl (fun m a => max m ((a.ans.bind (·.ct)).getD 0)) 0) }) s.crew.copies) ∧
    (∀ phase p op, (phase = 0 ∧ op = .read 0 ∨ phase = 1 ∧ c.todo s = [] ∧ c.ct ≤ timeOf s ∧
        op = .write (byteCells (p.pa % 128) (bytes64 (c.word 4 + 1#64)))) → ticketCopy s.crew.cid ord phase s = some (c, p) →
      let step := exec (if phase = 0 then .reduceTicketPoll s.crew.cid ord else .reduceTicketRelease s.crew.cid ord) s
      (copyAccess s c.ord (p.pa / 128) (fun o => o.isRead == op.isRead) = none → copyRuns s = true →
        (phase = 0 → c.poll ≤ timeOf s) → ownDirty s (p.pa / 128) = false → aheadOn s c (p.pa / 128) = false →
        step = .next ((sendCopy c (p.pa / 128) (p.pa % 128) (p, (c.word 3).toNat) op s).getD s)) ∧
      (∀ a x, copyAccess s c.ord (p.pa / 128) (fun o => o.isRead == op.isRead) = some a → a.back = true → a.ans = some x →
        x.failed = false →
        let u := { s with net := s.net.filter (fun y => y.id != a.id) }
        (phase = 0 → lineMarked x.poison (p.pa % 128) 8 = false →
          (cellsNat x.bytes (p.pa % 128) 8 = (c.word 4).toNat → step = .next (updCopy ord (fun y => { y with phase := 1 }) u)) ∧
          (cellsNat x.bytes (p.pa % 128) 8 ≠ (c.word 4).toNat → ∃ n, timeOf s < n ∧ n ≤ timeOf s + 1000 ∧
            step = .next (updCopy ord (fun y => { y with poll := n }) { u with free := s.free + 1 }))) ∧
        (phase = 0 → lineMarked x.poison (p.pa % 128) 8 = true →
          step = .next (killCrew false (engineKill 0x11 5#64 0#64 0#64 []) u)) ∧
        (phase = 1 → step = .next (updCopy ord (fun y => { y with phase := 2, ct := max y.ct (x.ct.getD 0) }) u)))) ∧
    (∀ why x, c.squash = false → (c.errors s).find? (fun y => y.why == why) = some x →
      let recs : List AccRec := if why = .descriptor then []
        else [{ addr := BitVec.ofNat 64 x.addr, lanes := 0#64, akind := x.akind, reason := x.reason }]
      exec (.copyError s.crew.cid ord why) s = .next
        (if why = .outsideGrants ∧ recoverable s = true then
          if s.crew.recov then s
          else recoverBy (engineKill 0x0A 0#64 (BitVec.ofNat 64 x.addr) 0#64 recs)
            (squashCopies (fun y => y.ord == ord && squashable s y) s)
        else killCrew false (engineKill 0x10 (BitVec.ofNat 64 (copySubcode why)) (BitVec.ofNat 64 x.addr) 0#64 recs) s))

/-- R221, R238, R239 and R248: BUFDEF of a free handle takes offset and size; BUFWAIT goes on in the state that it waits for,
with no load in flight; BUFREL leaves the handle free or full; BUFSTAT reads the status word; QPOP removes the head entry and
gives its words to the active lanes, by lane number mod 32; QPEEK reads the number of entries. -/
def Obligations.BufferResults : Prop :=
  ∀ (r : Run) (d n m a b : BitVec 7),
    let h := fun (s : State) => getBuf s.crew n.toNat
    let put := fun (s : State) (x : Buf) => { s with crew := setBuf s.crew n.toNat x }
    (∀ s, ready (opBuf 3 r n a b n true [srcS a, srcS b] s) s = true → (sreg s a).toNat % 128 = 0 →
      (sreg s b).toNat % 128 = 0 → (h s).state = 0 → (sreg s a).toNat + (sreg s b).toNat ≤ s.crew.scr →
      exec (.bufdef r n a b) s = .next (done r
        (put s { h s with off := (sreg s a).toNat, size := (sreg s b).toNat }))) ∧
    (∀ s, ready (opBuf 4 r n 0#7 m n (decide (m.toNat ≤ 2)) [] s) s = true → bufReady m.toNat (h s) = true →
      s.part.loads = [] → exec (.bufwait r n m) s = .next (done r s)) ∧
    (∀ s, ready (opBuf 4 r n 0#7 m n (decide (m.toNat ≤ 2)) [] s) s = true → bufReady m.toNat (h s) = false →
      s.part.relDone = false → exec (.bufwait r n m) s = .next { s with part := { s.part with wait := .retry } }) ∧
    (∀ s, ready (opBuf 5 r n 0#7 m n (decide (m.toNat ≤ 1)) [] s) s = true → (h s).state = 0 ∨ (h s).state = 2 →
      exec (.bufrel r n m) s = .next (done r
        (put s { h s with state := if m = 0#7 then 0 else 2 }))) ∧
    (∀ s, ready (opBuf 6 r d n 0#7 n true [dstS d] s) s = true → ∃ t, exec (.bufstat r d n) s = .next t ∧
      ScalarResult r 0 d.toNat (bufStatus (h s)) s t) ∧
    (∀ s e rest, ready { Op.plain (wRRR 20 r d n 0#7 7) r 0 [dstV d] with lims := s.crew.slice.has && decide (n.toNat < 8) } s = true →
      queueOf s.crew n.toNat = e :: rest → ∃ t, exec (.qpop r d n) s = .next t ∧
        VectorResult r 0 d.toNat (activeLanes s) (fun l => word32 e (l % 32))
          { s with crew := setQueue s.crew n.toNat rest } t) ∧
    (∀ s, ready { Op.plain (wRRR 20 r d n 0#7 8) r 0 [dstS d] with lims := s.crew.slice.has && decide (n.toNat < 8) } s = true →
      ∃ t, exec (.qpeek r d n) s = .next t ∧
        ScalarResult r 0 d.toNat (BitVec.ofNat 64 (queueOf s.crew n.toNat).length) s t)

/-- R242 to R247: the words that Sparge runs for a slice. ALOOP opens the loop of its depth, AEND takes the next round or
closes it, ASTRM sends its reads, ACPY starts a fill copy into the next handle of its ring, ASIG writes its word when every
earlier ACPY is done, AHALT stops the slice; each changes the crew alone, but for the accesses that it sends. ACPY waits for
its handle, and ASIG for the earlier fill copies. A hint that the word does not take, a field out of range, a wrong depth or
count, an address out of place, a handle of n or more and a length larger than the region are errors of the slice (R246).
R243 and R247: ASTRM_PUSH appends the entry whose bytes have all come back to a queue with room, and the slice goes on;
ASTART starts an idle or halted slice with s0 to s15 as its registers; ASTAT reads its status. Every word of Sparge is
illegal in a wave, and one with a stall field is an error of the slice. Where AHALT stands, at the word after it, and where a
slice stands while its ASTRM is under way (log 17), that ASTART drops bits 1 and 0 of its PC (log 53), and the order of the
errors of ACPY and ASIG and their waits (log 56) are the model's choices. -/
def Obligations.SliceUnits : Prop :=
  (∀ (r : Run) (k a b q g n : BitVec 7) (s : State),
    s.agent = .sparge → spargeReady s = true → r.stl = 0#2 →
    let x := s.crew.slice
    let err := fun (i : Instr) => exec i s = .next (sliceError s)
    let is := fun (i : Instr) (y : Slice) => exec i s = .next { s with crew := { s.crew with slice := y } }
    let addr := affine s a g
    let parts := astrmParts addr.toNat
    let qs := parts.filterMap (fun p => match astrmPlace s p with
      | .ok y => some (y, p.2)
      | .error _ => none)
    let imm := (payload r 0).getD 0
    let w := sliceWord r s
    let h := n.toNat + cget 0 x.execs w % (imm / 2 ^ 20 + 1)
    let c : Copy :=
      { ord := s.crew.copyOrd, fn := 3, ctl := 2 ^ 16 + h * 2 ^ 10, trk := none, trks := [], bound := s.crew.trk,
        hnd := some h, cwOff := 0, cwVal := 0#64, desc := [], lanes := [(0, addr, 0#64)], size := 16 * (imm % 2 ^ 20),
        lines := [], phase := 0, poll := 0, ct := 0, squash := false, slice := true }
    (r.hints = [] → k.toNat < 4 → a.toNat < 16 →
      (x.depth = k.toNat → 1 ≤ (areg s a).toNat → (areg s a).toNat ≤ 2 ^ 32 → is (.aloop r k a) { x with
        ctr := cset 0 x.ctr k.toNat 0, cnt := cset 0 x.cnt k.toNat (areg s a).toNat,
        loop := cset 0#64 x.loop k.toNat (x.pc + 4#64), depth := k.toNat + 1, pc := x.pc + 4#64, state := 1 }) ∧
      (x.depth ≠ k.toNat ∨ (areg s a).toNat = 0 ∨ 2 ^ 32 < (areg s a).toNat → err (.aloop r k a))) ∧
    (r.hints = [] → x.depth ≠ k.toNat + 1 → err (.aend r k)) ∧
    (r.hints = [] → k.toNat < 4 → x.depth = k.toNat + 1 →
      (cget 0 x.ctr k.toNat + 1 < cget 0 x.cnt k.toNat → is (.aend r k) { x with
        ctr := cset 0 x.ctr k.toNat (cget 0 x.ctr k.toNat + 1), pc := cget 0#64 x.loop k.toNat, state := 1 }) ∧
      (cget 0 x.cnt k.toNat ≤ cget 0 x.ctr k.toNat + 1 → is (.aend r k) { x with
        ctr := cset 0 x.ctr k.toNat 0, depth := k.toNat, pc := x.pc + 4#64, state := 1 })) ∧
    (r.hints = [] → q.toNat < 8 → a.toNat < 16 → groupOk g = true → addr.toNat % 16 = 0 → addr.toNat < 2 ^ 56 - 128 →
      (∀ p ∈ parts, (astrmPlace s p).isOk = true) →
      qs.any (fun y => decide ((astrmFixed y.1 y.2 s).length = y.2) &&
        poisonedL1 s (y.1.place.pa / 128) (y.1.place.pa % 128) y.2) = false →
      roomFor s (qs.map (·.1.trk)) = true → ∃ t, exec (.astrm r q a g) s = .next t ∧
        (∃ bs, t.crew.slice = { x with push := some (q.toNat, bs) } ∧ bs.length = 128) ∧ t.part = s.part ∧
        t.crew.scratch = s.crew.scratch ∧ t.memsys = s.memsys) ∧
    (r.hints.length = 1 → immCount r = 1 → a.toNat < 16 → groupOk g = true → h < s.crew.nbuf →
      imm % 2 ^ 20 ≠ 0 → bufAccepts 1 (getBuf s.crew h) = true → 16 * (imm % 2 ^ 20) ≤ (getBuf s.crew h).size →
      c.astray s = none → fullEngine s = false → ∃ t, exec (.acpy r n a g) s = .next t ∧ t.part = s.part ∧
        t.memsys.bytes = s.memsys.bytes ∧ t.crew.copies.length = s.crew.copies.length + 1 ∧
        t.crew.slice = { x with execs := cset 0 x.execs w (cget 0 x.execs w + 1), pc := x.pc + 8#64, state := 1 }) ∧
    (r.hints = [] → a.toNat < 16 → b.toNat < 16 → (areg s a).toNat % 8 = 0 → (areg s a).toNat + 8 ≤ s.crew.scr →
      s.crew.copies.any (·.slice) = false → touchesBar s.crew (areg s a).toNat 8 = false →
      exec (.asig r a b) s = .next { s with crew := { scrWrite (areg s a).toNat
          (bytes64 (areg s b + BitVec.ofNat 64 (cget 0 x.execs w + 1))) s.crew with
        slice := { x with execs := cset 0 x.execs w (cget 0 x.execs w + 1), pc := x.pc + 4#64, state := 1 } } }) ∧
    (r.hints.length = 1 → immCount r = 1 → a.toNat < 16 → groupOk g = true → imm % 2 ^ 20 ≠ 0 → h < s.crew.nbuf →
      (bufAccepts 1 (getBuf s.crew h) = false → is (.acpy r n a g) { x with state := 3 }) ∧
      (bufAccepts 1 (getBuf s.crew h) = true → (getBuf s.crew h).size < 16 * (imm % 2 ^ 20) → err (.acpy r n a g))) ∧
    (s.crew.nbuf ≤ h ∨ imm % 2 ^ 20 = 0 → err (.acpy r n a g)) ∧
    (r.hints = [] → a.toNat < 16 → b.toNat < 16 → (areg s a).toNat % 8 = 0 → (areg s a).toNat + 8 ≤ s.crew.scr →
      s.crew.copies.any (·.slice) = true → exec (.asig r a b) s = .next s) ∧
    ((areg s a).toNat % 8 ≠ 0 ∨ s.crew.scr < (areg s a).toNat + 8 → err (.asig r a b)) ∧
    (addr.toNat % 16 ≠ 0 ∨ steer s none addr 128 = .bad ∨ (∃ o, steer s none addr 128 = .scratch o) → err (.astrm r q a g)) ∧
    (r.hints = [] → is (.ahalt r) { x with pc := x.pc + 4#64, state := 4 }) ∧
    (4 ≤ k.toNat → err (.aloop r k a) ∧ err (.aend r k)) ∧
    (16 ≤ a.toNat → err (.aloop r k a) ∧ err (.astrm r q a g) ∧ err (.acpy r n a g) ∧ err (.asig r a b)) ∧
    (16 ≤ b.toNat → err (.asig r a b)) ∧ (8 ≤ q.toNat → err (.astrm r q a g)) ∧
    (groupOk g = false → err (.astrm r q a g) ∧ err (.acpy r n a g)) ∧
    (r.hints ≠ [] → err (.aloop r k a) ∧ err (.aend r k) ∧ err (.astrm r q a g) ∧ err (.asig r a b) ∧ err (.ahalt r)) ∧
    (immCount r ≠ 1 ∨ r.hints.length ≠ 1 → err (.acpy r n a g))) ∧
  (∀ (r : Run) (d a k b : BitVec 7),
    let words := [(Instr.aloop r k a, wRRR 21 r k a 0#7 0), (.aend r k, wRRR 21 r k 0#7 0#7 1), (.astrm r k a b, wRRR 21 r k a b 2),
      (.acpy r k a b, wRRR 21 r k a b 3), (.asig r a b, wRRR 21 r 0#7 a b 4), (.ahalt r, wRRR 21 r 0#7 0#7 0#7 5)]
    (∀ (s : State) (q : Nat) (bs : List (Nat × Nat × Byte)), s.crew.cond = .resident → noParts s = false →
      s.crew.slice.push = some (q, bs) →
      (∀ x ∈ s.net, bs.any (fun y => y.1 == x.id && y.1 != 0) = true →
        x.back = true ∧ (∀ z, x.ans = some z → z.failed = false ∧ z.poison = 0)) →
      (queueOf s.crew q).length < 16 → ∃ t, exec (.astrmPush s.crew.cid) s = .next t ∧ t.part = s.part ∧ t.memsys = s.memsys ∧
        t.crew.slice = { s.crew.slice with
          queues := cset [] s.crew.slice.queues q (queueOf s.crew q ++ [entryBytes s bs]), push := none,
          pc := s.crew.slice.pc + 4#64, state := 1 }) ∧
    (∀ s, ready (opAccs 6 r 0#7 a (srcS a :: (List.range 16).map (fun i => srcS (BitVec.ofNat 7 i))) s) s = true →
      (s.crew.slice.state = 0 ∨ s.crew.slice.state = 4 →
        exec (.astart r a) s = .next (done r { s with crew := { s.crew with slice :=
          { Slice.reset with has := true, a := sliceRegs s, pc := wordPc (sreg s a), state := 1 } } })) ∧
      (s.crew.slice.state ≠ 0 → s.crew.slice.state ≠ 4 →
        exec (.astart r a) s = .next { s with part := { s.part with wait := .retry } })) ∧
    (∀ s, ready (opAccs 7 r d 0#7 [dstS d] s) s = true → ∃ t, exec (.astat r d) s = .next t ∧
      ScalarResult r 0 d.toNat (sliceStatus s.crew) s t) ∧
    (∀ s i w, (i, w) ∈ words → clear r s = true → handles s → ∃ t, exec i s = .next t ∧
      Entered { cause := 0x01, lanes := s.part.exm, info := BitVec.ofNat 64 (w.toNat + 3 * 2 ^ 32), addr := 0#64 }
        (unitWords r) s t) ∧
    (∀ s i w, (i, w) ∈ words → s.agent = .sparge → spargeReady s = true → r.stl ≠ 0#2 → exec i s = .next (sliceError s)))

/-- R258, R261 to R265: a command whose part has its aligned group of 16 lanes active, whose crew owns the engine, whose
operands are aligned, lie in the reservation and keep the engine's conditions, and that finds fewer than eight commands, is
accepted: it joins the queue with the operands its word captures, the weight fields and tags that the accepted commands leave
change as R258 says, and nothing else does but the part's flow. R47, R258 and R266: every MATX unit traps with cause 0x06,
subcode 3, without its group of 16 lanes, and with subcode 7 in a crew that does not own the engine. A command then traps for
an operand that is not aligned, is an aperture fault for bytes beyond the reservation, traps with subcode 7 where a condition
of the engine does not hold, and waits behind eight commands, in this order. MSTAT reads the status word, clears LDERR, and
with B = 1 waits until every accepted command stands. What the crew record of a bounds kill holds is the model's reading (log
45). -/
def Obligations.MatrixUnits : Prop :=
  (∀ (r : Run) (n a b : BitVec 7) (s : State),
    let m := s.crew.matrix
    let w := ctlOf r
    let A := sreg s a
    let sh := sreg s b
    let stride := shapeStride sh
    let rows := shapeM sh
    let size := vecSize (mfmt w) (mplanes w)
    let cls := mclass (mfmt w)
    let tag := tagLast s n.toNat
    let took := fun (i : Instr) (c : MCmd) (y : Matrix) =>
      exec i s = .next (done r { s with crew := { s.crew with matrix := { y with cmds := m.cmds ++ [c] } } })
    groupActive s = true → m.owned = true → m.cmds.length < 8 →
    (ready { opMatx 0 r 0#7 a b false [srcS a, srcS b] with
        immMin := 1, immMax := 1, immOk := w / 2 ^ 12 == 0 && mfmtOk (mfmt w) (mplanes w) (mread w) } s = true →
      A.toNat % 16 = 0 → stride % 16 = 0 → A.toNat + (shapeNc sh - 1) * stride + size ≤ s.crew.scr → size ≤ stride →
      took (.mwld r a b) (mcmd 0 0 r A sh s) { m with wlast := some (mfmt w, mplanes w, mread w, rows, shapeNc sh) }) ∧
    (∀ queue, let o := { opMatx 1 r n (if queue then 0#7 else a) b true
          (if w.testBit 13 then [srcS b] else [srcS (if queue then 0#7 else a), srcS b]) with
        lims := decide (n.toNat < 4) && (!w.testBit 13 || (if queue then 0#7 else a) == 0#7 || queue),
        immMin := 1, immMax := 1,
        immOk := w / 2 ^ 17 == 0 && mfmtOk (mfmt w) (mplanes w) (mread w) && (!w.testBit 12 || mfmt w == 0)
          && (w.testBit 13 || w / 2 ^ 14 % 8 == 0) }
      ready o s = true → weightClass s = some cls → (tag = 0 ∨ tag = cls) → shapeM0 sh + rows ≤ 128 →
      (queue = true → w.testBit 13 = true → s.crew.slice.has = true →
        took (.mstrQueue r n b) (mcmd 1 n.toNat r 0#64 sh s) { m with tlast := cset 0 m.tlast n.toNat cls }) ∧
      (queue = false → w.testBit 13 = false → A.toNat % 16 = 0 → stride % 16 = 0 →
        A.toNat + (rows - 1) * stride + size ≤ s.crew.scr → size ≤ stride →
        took (.mstr r n a b) (mcmd 1 n.toNat r A sh s) { m with tlast := cset 0 m.tlast n.toNat cls })) ∧
    (let row := 256 * outSize (w % 8)
      let sc := rdS s (opcOf r)
      ready { opMatx 2 r n a b true [srcS a, srcS b] with
          immMin := 1, immMax := 1,
          immOk := w / 2 ^ 5 == 0 && w % 8 != 7 && !(w % 8 == 5 && (w.testBit 3 || w.testBit 4)),
          mods := some modRND, modOk := w % 8 != 5 || rndOf r == 0,
          opc := some (w.testBit 3 || w.testBit 4, srcS (opcField r)) } s = true →
      A.toNat % 16 = 0 → stride % 16 = 0 → A.toNat + (rows - 1) * stride + row ≤ s.crew.scr → row ≤ stride →
      shapeM0 sh + rows ≤ 128 → (w.testBit 3 = true → bfield sc 23 0 % 4 = 0 ∧ bfield sc 23 0 + 1024 ≤ s.crew.scr) →
      (w.testBit 4 = true → bfield sc 47 24 % 4 = 0 ∧ bfield sc 47 24 + 4 * (shapeM0 sh + rows) ≤ s.crew.scr) →
      took (.mrdo r n a b) (mcmd 2 n.toNat r A sh s) m) ∧
    (ready (opMatx 3 r n 0#7 0#7 true []) s = true →
      took (.mzero r n) (mcmd 3 n.toNat r 0#64 0#64 s) { m with tlast := cset 0 m.tlast n.toNat 0 }) ∧
    (A.toNat % 64 = 0 → A.toNat + 64 + 1024 * rows ≤ s.crew.scr → shapeM0 sh + rows ≤ 128 →
      (ready (opMatx 4 r n a b true [srcS a, srcS b]) s = true →
        took (.macsv r n a b) (mcmd 4 n.toNat r A sh s) m) ∧
      (ready (opMatx 5 r n a b true [srcS a, srcS b]) s = true → bfield sh 17 16 ≠ 3 →
        (rows = 128 ∨ bfield sh 17 16 = 0 ∨ tag = 0 ∨ bfield sh 17 16 = tag) →
        took (.macld r n a b) (mcmd 5 n.toNat r A sh s)
          (if rows = 128 ∨ tag = 0 then { m with tlast := cset 0 m.tlast n.toNat (bfield sh 17 16) } else m)))) ∧
  (∀ (r : Run) (d n a b w : BitVec 7) (s : State),
    let m := s.crew.matrix
    let c := ctlOf r
    let A := sreg s a
    let sh := sreg s b
    let stride := shapeStride sh
    let rows := shapeM sh
    let size := vecSize (mfmt c) (mplanes c)
    let cls := mclass (mfmt c)
    let tag := tagLast s n.toNat
    let checks := fun (i : Instr) (o : Op) (align : List (W64 × Nat)) (extent : Nat) (cond : Bool) => ready o s = true →
      (groupActive s = false → exec i s = .next (trapExm 0x06 3 r s)) ∧
      (groupActive s = true → m.owned = false → exec i s = .next (trapExm 0x06 7 r s)) ∧
      (groupActive s = true → m.owned = true →
        (∀ x, align.find? (fun x => x.1.toNat % x.2 != 0) = some x → exec i s = .next (misaligned x.2 x.1 r s)) ∧
        (align.all (fun x => x.1.toNat % x.2 == 0) = true →
          (s.crew.scr < extent → exec i s = .next (aperture 0#64 s)) ∧
          (extent ≤ s.crew.scr → cond = false → exec i s = .next (trapExm 0x06 7 r s)) ∧
          (extent ≤ s.crew.scr → cond = true → 8 ≤ m.cmds.length →
            exec i s = .next { s with part := { s.part with wait := .retry } })))
    checks (.mwld r a b)
      { opMatx 0 r 0#7 a b false [srcS a, srcS b] with
        immMin := 1, immMax := 1, immOk := c / 2 ^ 12 == 0 && mfmtOk (mfmt c) (mplanes c) (mread c) }
      [(A, 16), (BitVec.ofNat 64 stride, 16)] (A.toNat + (shapeNc sh - 1) * stride + size) (decide (size ≤ stride)) ∧
    (∀ queue, let q := c.testBit 13
      let a' := if queue then 0#7 else a
      let A' := sreg s a'
      checks (if queue then .mstrQueue r n b else .mstr r n a b)
        { opMatx 1 r n a' b true (if q then [srcS b] else [srcS a', srcS b]) with
          lims := decide (n.toNat < 4) && (!q || a' == 0#7 || queue), immMin := 1, immMax := 1,
          immOk := c / 2 ^ 17 == 0 && mfmtOk (mfmt c) (mplanes c) (mread c) && (!c.testBit 12 || mfmt c == 0)
            && (q || c / 2 ^ 14 % 8 == 0) }
        (if q then [] else [(A', 16), (BitVec.ofNat 64 stride, 16)])
        (if q then 0 else A'.toNat + (rows - 1) * stride + size)
        (weightClass s == some cls && (tag == 0 || tag == cls) && decide (shapeM0 sh + rows ≤ 128) &&
          (q || decide (size ≤ stride)) && (!q || s.crew.slice.has))) ∧
    (let row := 256 * outSize (c % 8)
      let sc := rdS s (opcOf r)
      let ends := [A.toNat + (rows - 1) * stride + row, if c.testBit 3 then bfield sc 23 0 + 1024 else 0,
        if c.testBit 4 then bfield sc 47 24 + 4 * (shapeM0 sh + rows) else 0]
      checks (.mrdo r n a b)
        { opMatx 2 r n a b true [srcS a, srcS b] with
          immMin := 1, immMax := 1,
          immOk := c / 2 ^ 5 == 0 && c % 8 != 7 && !(c % 8 == 5 && (c.testBit 3 || c.testBit 4)),
          mods := some modRND, modOk := c % 8 != 5 || rndOf r == 0,
          opc := some (c.testBit 3 || c.testBit 4, srcS (opcField r)) }
        ([(A, 16), (BitVec.ofNat 64 stride, 16)] ++ (if c.testBit 3 then [(BitVec.ofNat 64 (bfield sc 23 0), 4)] else []) ++
          if c.testBit 4 then [(BitVec.ofNat 64 (bfield sc 47 24), 4)] else [])
        (ends.foldl max 0) (decide (row ≤ stride) && decide (shapeM0 sh + rows ≤ 128))) ∧
    checks (.mzero r n) (opMatx 3 r n 0#7 0#7 true []) [] 0 true ∧
    checks (.macsv r n a b) (opMatx 4 r n a b true [srcS a, srcS b]) [(A, 64)] (A.toNat + (64 + 1024 * rows))
      (decide (shapeM0 sh + rows ≤ 128)) ∧
    checks (.macld r n a b) (opMatx 5 r n a b true [srcS a, srcS b]) [(A, 64)] (A.toNat + (64 + 1024 * rows))
      (decide (shapeM0 sh + rows ≤ 128) && bfield sh 17 16 != 3 &&
        (decide (rows = 128) || bfield sh 17 16 == 0 || tag == 0 || bfield sh 17 16 == tag)) ∧
    (ready { opMatx 6 r d 0#7 w false [dstS d] with lims := decide (w.toNat < 2) } s = true →
      (groupActive s = false → exec (.mstat r d w) s = .next (trapExm 0x06 3 r s)) ∧
      (groupActive s = true → m.owned = false → exec (.mstat r d w) s = .next (trapExm 0x06 7 r s)) ∧
      (groupActive s = true → m.owned = true →
        (w = 0#7 ∨ (m.cmds = [] ∧ s.part.loads = []) → ∃ t, exec (.mstat r d w) s = .next t ∧
          ScalarResult r 0 d.toNat (mstatWord s) { s with crew := { s.crew with matrix := { m with lderr := false } } } t) ∧
        (w ≠ 0#7 → m.cmds ≠ [] → s.part.relDone = false →
          exec (.mstat r d w) s = .next { s with part := { s.part with wait := .retry } }))))

/-- R254, R259, R262 and R265: the engine works through its commands in order. An MZERO that stands clears its accumulator
and its tag; an MWLD latches the column vectors of the scratchpad when its fill is done; a command that finds its queue empty
stands later; any other works through its next row, and in the cycle before the one in which it stands through all that are
left. How far a command that waits for its queue is put off, and that rows are performed one by one, are the model's choices
(log 18); so is the sign of a zero that MRDO scales (log 54). -/
def Obligations.MatrixEngineSteps : Prop :=
  ∀ (c : MCmd) (rest : List MCmd) (s : State), engineOn s.crew.cid s = true → s.pkg.halted = false →
    s.crew.matrix.cmds = c :: rest →
    let m := s.crew.matrix
    let step := exec (.matrixCommandStands s.crew.cid) s
    (c.fn = 3 → c.rows = 0 → c.start m ≤ now s → c.stands m ≤ now s → ∃ t, step = .next t ∧ t.crew.matrix.cmds = rest ∧
      (∀ k, cget 0#32 t.crew.matrix.acc k = if 32768 * c.acc ≤ k ∧ k < 32768 * (c.acc + 1) then 0#32 else cget 0#32 m.acc k) ∧
      cget 0 t.crew.matrix.tags c.acc = 0 ∧ t.crew.matrix.weights = m.weights ∧ t.part = s.part ∧ t.memsys = s.memsys ∧
      t.crew.scratch = s.crew.scratch) ∧
    (c.fn = 0 → c.stands m ≤ now s → exec (.mwldLatch s.crew.cid) s = .next { s with crew := { s.crew with matrix :=
        { m with weights := some (readWeights c s), latched := c.stands m, stoodAt := c.stands m, cmds := rest } } }) ∧
    (c.fn ≠ 0 → c.start m ≤ now s → c.starved s = true → ∃ t, step = .next t ∧
      t.crew.matrix.acc = m.acc ∧ t.part = s.part ∧ t.memsys = s.memsys ∧
      t.crew.matrix.cmds = { c with due := some (max (c.stands m) (now s + 1 + c.busy m - 24)) } :: rest) ∧
    (∀ n, c.fn ≠ 0 → c.start m ≤ now s → c.starved s = false → now s < c.stands m → c.rows < c.total →
      n = (if c.stands m = now s + 1 then c.total else 1) →
      let u := runRows n (setHead (fun x => { x with due := some (c.stands m) }) s)
      step = .next (if c.fn = 1 ∧ c.ctl.testBit 13 = true then afterUnits u else u))

/-- R299, R319 and R320: with its stores accepted and its release done, a TRACE hands the record of every active lane, at its
place, to a traversal unit under entry K, and a CONTEND hands its active lanes to the gatherer; AHACC, AHREJ and ISHIT commit
the active lanes of an invocation. Each then exits its lanes. -/
def Obligations.RayUnits : Prop :=
  ∀ (r : Run) (d a b : BitVec 7) (s : State), ownStores s = [] → s.part.relDone = false →
    let k := (widthHint r).getD 0
    let m : Form := { size := 128, scalar := false, rd := true, wr := true }
    let addrs := rayAddrs a b s
    let accs := addrs.map (fun x => ({ lane := x.1, addr := x.2, tgt := .glob x.2.toNat false } : LaneAcc))
    let commit := fun (f : Nat → Ray → State → State) =>
      if s.part.exm = 0#64 then done r s else exitLanes s.part.exm (done r (commitLanes f s.part.exm s))
    (∀ e t, entryOpen s s.crew.launch k = true → contEntry s s.crew.launch k = .ok e → nameEntry s.crew.launch e s = .ok t →
      releaseClear 0xFFFF 4 t = true →
      (ready { opRay 0 r d a b (s.part.state != .trapped && (s.crew.kind != .anyhit && s.crew.kind != .intersect))
          [srcV d, srcS a, srcV b] with width := some (0, 15) } s = true →
        (∀ x ∈ addrs, x.2.toNat % 128 = 0 ∧ x.2.toNat < 2 ^ 56) → failing m accs t = [] →
        raysHeld t (clusterOf s.crew.core) + (activeLanes s).length ≤ 1024 →
        (∀ c ∈ accs, ∀ p, placeOf m c t = .ok (some p) → unowned t [p.pa / 128] = true) →
        let ls := accs.filterMap (fun c => match placeOf m c t with
          | .ok (some p) => some (c.lane, c.addr, p)
          | _ => none)
        ls.map (fun x => (x.1, x.2.1)) = addrs ∧ exec (.trace r d a b) s = .next (leave r
          (ls.foldl (fun w x => takeRay k e (rdV t d.toNat x.1) x.2.1 x.2.2 w) t))) ∧
      (ready { opRay 4 r d 0#7 0#7 (s.part.state != .trapped) [srcV d] with width := some (0, 15) } s = true →
        exec (.contend r d) s = .next (leave r
          ((activeLanes t).foldl (fun w l => handLane k e (rdV t d.toNat l) w) t)))) ∧
    (ready (opRay 2 r 0#7 0#7 0#7 (s.part.state != .trapped && s.crew.kind == .anyhit) []) s = true →
      exec (.ahacc r) s = .next (commit (fun _ => commitAny true))) ∧
    (ready (opRay 3 r 0#7 0#7 0#7 (s.part.state != .trapped && s.crew.kind == .anyhit) []) s = true →
      exec (.ahrej r) s = .next (commit (fun _ => commitAny false))) ∧
    (ready (opRay 7 r 0#7 a b (s.part.state != .trapped && s.crew.kind == .intersect) [srcV a, srcV b]) s = true →
      exec (.ishit r a b) s = .next (commit (fun l q =>
        let x := rdV s a.toNat l
        commitHit (if fle (recTmin q.bytes).toNat x.toNat && fle x.toNat (recTmax q.bytes).toNat then some (x, rdV s b.toNat l)
          else none) q)))

/-- R314, R318 and R320: CONTGET reads what the gatherer gave each lane; HITGET, with the bytes of its records and references
at hand, writes the field N of each lane's record; LNTINV, with the answer of its atomic come, completes, and drops the
Lantern entries of its BVH when GEN has wrapped. -/
def Obligations.RayQueries : Prop :=
  ∀ (r : Run) (d a b k : BitVec 7) (s : State),
    let n := (widthHint r).getD 0
    let h := unitHow false
    let addrs := rayAddrs a b s
    let rec_ := readVals h false 128 r addrs s
    let ls := (activeLanes s).filter (fun l => recHit (rec_ l))
    let base := word64 (launchBytes s s.crew.launch) 3
    let descs := ls.map (fun l => (l, base + BitVec.ofNat 64 (64 * recBvh (rec_ l))))
    let desc := readVals h false 64 r descs s
    let refs := ls.map (fun l => (l, word64 (desc l) 1 + BitVec.ofNat 64 (32 * bfield (word64 (rec_ l) 6) 63 32)))
    let wrote := fun (f : Nat → W32) => ∃ t, exec (.hitget r d a b) s = .next t ∧
      VectorResult r 0 d.toNat (activeLanes s) f (dropReads s) t
    let value := fun (l : Nat) => match s.crew.gather[l]? with
      | none => 0#32
      | some g => match k.toNat with
        | 0 => g.value
        | 1 => g.ra.setWidth 32
        | 2 => (g.ra >>> 32).setWidth 32
        | _ => if s.crew.kind = .cont then 0#32 else g.ref
    (ready (opRay 5 r d 0#7 k (decide (k.toNat < 4)) [dstV d]) s = true →
      ∃ t, exec (.contget r d k) s = .next t ∧ VectorResult r 0 d.toNat (activeLanes s) value s t) ∧
    (ready { opRay 1 r d a b true [dstV d, srcS a, srcV b] with width := some (0, 7) } s = true →
      readsReady h false 128 r addrs s = true →
      (n ≠ 1 → n ≠ 2 → n ≠ 7 → wrote (fun l => hitValue n (rec_ l) [])) ∧
      (n = 1 ∨ n = 2 ∨ n = 7 → readsReady h false 64 r descs s = true → readsReady h false 32 r refs s = true →
        wrote (fun l => hitValue n (rec_ l) (readVals h false 32 r refs s l)))) ∧
    (let bvh := bfield (sreg s a) 11 0
      let addr := base + BitVec.ofNat 64 (64 * bvh + 0x1C)
      let m : Form := { size := 1, scalar := true, rd := true, wr := true }
      let accs := accsOf m [(scalarLane s, addr)] s
      ready (opRay 6 r 0#7 a 0#7 true [srcS a]) s = true → accessClear m [(scalarLane s, addr)] s = true →
      failing m accs s = [] → ∀ q x z, readyOf m r accs s = [q] → (ownReads s).head? = some x → x.back = true →
      x.ans = some z → z.failed = false → z.poison = 0 →
      exec (.lntinv r a) s = .next (doneReads r
        (if (cget 0#64 z.bytes (q.place.pa % 128)).setWidth 8 = 255#8 then
          lanternDrop (fun e => e.key.take 2 == [s.crew.ctx, bvh]) s else s)))

/-- R300, R308, R309, R313 and R292: a handed-on ray whose time has come goes to the gatherer of its cluster; a gathered wave
is launched 4,096 cycles after its first ray; a ray in a traversal unit ends its traversal, or ends at once with the STATE of
a malformed, NaN or empty ray; a ray that meets a custom reference goes to the intersection entry under it. Each waits while
a copy owns a line that it reads. Which place a lane gets and which custom reference comes first are free choices (log 2, log
15). -/
def Obligations.RaySteps : Prop :=
  ∀ (s : State) (r : Ray),
    (s.rays.find? (fun x => x.id == r.id) = some r → r.stage = 1 → r.ready ≤ timeOf s → ctxRuns s r.ctx = true →
      s.pkg.halted = false → recordOut s r = false → r.kind = .cont →
      exec (.rayHandoff r.id) s = .next (if handReady s r.k r then handTo r.k r s else s)) ∧
    (∀ g, s.gwaves.find? (fun x => x.id == g.id) = some g → g.lanes ≠ [] → g.due ≤ cycleOf s g.cluster →
      s.pkg.halted = false → ∃ t, exec (.gatherTimeout g.id) s = .next t ∧ t.gwaves = s.gwaves.filter (fun x => x.id != g.id) ∧
        gatheredCrew s g ∈ t.crews ∧ t.memsys = s.memsys) ∧
    (traversing r.id s = some r →
      (∀ st b, earlyEnd r = some (st, b) → exec (.rayEnd r.id) s = .next (endRay st { r with bytes := b } s)) ∧
      (earlyEnd r = none →
        let reads := descRead s r
        let w := leaseReads r reads s
        (readsOpen s r.launch reads = false → exec (.rayEnd r.id) s = .next s) ∧
        (readsOpen s r.launch reads = true →
          (∀ e, rayDesc s r = .error e → exec (.rayEnd r.id) s = .next (endWith e r w)) ∧
          (∀ d, rayDesc s r = .ok d → lookUp d r w = none → exec (.rayEnd r.id) s = .next s) ∧
          (∀ d q t, rayDesc s r = .ok d → lookUp d r w = some (q, t) →
            exec (.rayEnd r.id) s = .next (finishTraversal d q s (updRay r.id (fun _ => q) t)) ∧
            (recOvf r.bytes ≠ 0 →
              let v := traverse t q d
              readsOpen s r.launch (reads ++ v.reads) = true → v.pend ≠ [] → ∃ n ∈ v.pend,
                exec (.intersectionShaderInvoke r.id) s = .next
                  (handOn .intersect n { q with bytes := withState 4 q.bytes }
                    (writeOvf q 0 (leBytes 4 n) (leaseReads q v.reads { t with free := s.free + 1 }))))))))

/-- R321: RAST gives its active lanes, in order, the covered pixels from its token on, with two edge functions over the area;
a lane without a sample has pixel 0xFFFFFFFF and zeros; the token names the next pixel, and is 0 after the last. R322 and
R323: RPRJ, with the bytes of its reads at hand, gives the lanes that pass its tests the 16 bytes of the previous frame, and
the other active lanes a bit of the mask register; TEX and TEXL, with their texels at hand, give each active lane the four
channels of its sample. That a token t other than 0 names index t - 1 is the model's choice (log 10); so is what TEX and TEXL
take where R323 states no rounding, no nearest texel and level, and no coordinate that is not finite (log 42). -/
def Obligations.GraphicsResults : Prop :=
  (∀ (r : Run) (d a b : BitVec 7) (s : State),
    let v := [vertex (sreg s a), vertex (sreg s (a + 1#7)), vertex (sreg s (a + 2#7))]
    let got := samples v (activeLanes s) (coveredFrom v ((sreg s b).toNat - 1))
    let lane := fun (f : Nat × Nat → W32) (z : W32) (l : Nat) => (got.1.lookup l).elim z f
    ready { opGfx 0 r d a b [dstVs d 3 4, srcS a, srcS (a + 1#7), srcS (a + 2#7), modS b] with
        lims := decide (a.toNat ≤ 59) } s = true →
    ∃ t, exec (.rast r d a b) s = .next t ∧ Moved r 1 (unitNext r s) s t ∧ SameRest s t ∧ MaskSame s t ∧
      ScalarSet b.toNat (got.2.elim 0#64 (fun p => BitVec.ofNat 64 (1 + pixelIndex p))) s t ∧
      VectorsSet [(d.toNat, lane (fun p => BitVec.ofNat 32 (p.2 * 2 ^ 16 + p.1)) 0xFFFFFFFF#32),
        (d.toNat + 1, lane (bary v 1) 0#32), (d.toNat + 2, lane (bary v 2) 0#32)] (activeLanes s) s t) ∧
  (∀ (r : Run) (d a b : BitVec 7) (s : State),
    let h := unitHow false
    let act := activeLanes s
    (let msel := BitVec.ofNat 7 (mselOf r)
      let c := scrRead s.crew (sreg s a).toNat 64
      let px := fun (l : Nat) => reprojOf s b.toNat l
      let at_ := fun (base : W64) (size : Nat) (ls : List Nat) => ls.map (fun l => (l, elemAddr base size ((px l).index c)))
      let in_ := act.filter (fun l => (px l).inside c)
      let ids := readVals h false 4 r (at_ (word64 c 1) 4 in_) s
      let same := in_.filter (fun l => word32 (ids l) 0 == (px l).id)
      let deps := readVals h false 4 r (at_ (word64 c 0) 4 same) s
      let ok := same.filter (fun l => depthOk (word32 c 8) (word32 (deps l) 0) (px l).depth
        && decide ((word32 c 10).toNat ≤ ((px l).hash c).toNat))
      let val := readVals h false 16 r (at_ (word64 c 2) 16 ok) s
      ready { opGfx 1 r d a b [dstVs d 4 4, srcS a, srcVs b 4 4, dstM msel] with mods := some modMSEL } s = true →
      (sreg s a).toNat % 64 = 0 → (sreg s a).toNat + 64 ≤ s.crew.scr →
      readsReady h false 4 r (at_ (word64 c 1) 4 in_) s = true → readsReady h false 4 r (at_ (word64 c 0) 4 same) s = true →
      readsReady h false 16 r (at_ (word64 c 2) 16 ok) s = true →
      ∃ t, exec (.rprj r d a b) s = .next t ∧ Moved r 1 (unitNext r s) s t ∧ SameRest (dropReads s) t ∧ ScalarSame s t ∧
        VectorsSet ((List.range 4).map (fun k => (d.toNat + k, fun l => word32 (val l) k))) ok s t ∧
        MaskSet msel.toNat act (fun l => !ok.contains l) s t) ∧
    (let c := scrRead s.crew (sreg s a).toNat 32
      let x := texOf c
      let size := texelSize x.format
      let uv := fun (l : Nat) => ((rdV s b.toNat l).toNat, (rdV s (b.toNat + 1) l).toNat)
      let tex := fun (i : Instr) (fn n : Nat) (lod : Nat → Nat) =>
        let here := fun (k : Nat) => act.filterMap (fun l => ((laneTaps x (uv l).1 (uv l).2 (lod l))[k]?).map (fun y => (l, y.1)))
        let got := fun (l : Nat) => (List.range 8).map (fun k => readVals h false size r (here k) s l)
        ready (opGfx fn r d a b [dstVs d 4 4, srcS a, srcVs b n 4]) s = true →
        (sreg s a).toNat % 32 = 0 → (sreg s a).toNat + 32 ≤ s.crew.scr → texOk c = true →
        (∀ k, k < 8 → readsReady h false size r (here k) s = true) →
        ∃ t, exec i s = .next t ∧ Moved r 1 (unitNext r s) s t ∧ SameRest (dropReads s) t ∧ ScalarSame s t ∧ MaskSame s t ∧
          VectorsSet ((List.range 4).map (fun k =>
            (d.toNat + k, fun l => sampled x (uv l).1 (uv l).2 (lod l) k (got l)))) act s t
      tex (.tex r d a b) 2 2 (fun l => texLod x s b.toNat l) ∧
      tex (.texl r d a b) 3 3 (fun l => (rdV s (b.toNat + 2) l).toNat)))

/-- R321: a pixel that RAST gives a lane is covered: its centre lies on no wrong side of an edge of the triangle, and on an
edge only where that edge is a top-left one; and its index is at least the token's. That a token t other than 0 names index t
- 1 is the model's choice (log 10). -/
def Obligations.RasterSamplesAreCovered : Prop :=
  ∀ (v : List (Int × Int)) (ls : List Nat) (idx : Nat),
    ∀ x ∈ (samples v ls (coveredFrom v idx)).1, covers v x.2.1 x.2.2 = true ∧ idx ≤ pixelIndex x.2 ∧ x.1 ∈ ls

/-- R364: with the part's stores accepted and its release done, LNCH of a queue that is not there or not readable returns 2,
of a full ring 1, and otherwise puts its record into the ring and returns 0; EVSET and EVCLR give Lamplighter the change of
the bits of one word of the event vector, after which the head launches of the context are tested again. EMBER and GRIST add
to the context's samples and sketches, and leave everything else alone where no debugger is attached. -/
def Obligations.LaunchUnits : Prop :=
  ∀ (r : Run) (d a b k : BitVec 7) (s : State),
    let h := unitHow true
    let l := scalarLane s
    let ra := sreg s a
    let q := (sreg s b).toNat
    let bytes := readVals h true 128 r [(l, ra)] s l ++ readVals h true 128 r [(l, ra + 128#64)] s l
    let calm := ownStores s = [] ∧ s.part.relDone = false ∧ releaseClear 0xFFFF 4 s = true
    let returns := fun (x : W64) => ∃ t, exec (.lnch r d a b) s = .next t ∧ ScalarResult r 0 d.toNat x (dropReads s) t
    let evt := fun (fn : Nat) (i : Instr) (on : Bool) (f : W64 → W64 → W64) =>
      let x := bitChange 1 (eventKey s) s.crew.ctx k.toNat on (sreg s a)
      (ready (opLaunch fn r 0#7 a k (decide (k.toNat < 4)) [srcS a]) s = true → calm →
        exec i s = .next (done r (addChange x s))) ∧
      ∀ u, applyChange x u = testHeads s.crew.ctx (updCtx u s.crew.ctx (fun c => { c with
        events := (List.range 4).foldl (fun e j =>
          cset 0#64 e j (if j = k.toNat then f (cget 0#64 e j) (sreg s a) else cget 0#64 e j)) c.events }))
    (ready (opLaunch 0 r d a b true [dstS d, srcS a, srcS b]) s = true → ra.toNat % 256 = 0 → calm →
      (255 < q → returns 2#64) ∧ (q ≤ 255 → queueHdr s s.crew.ctx q = none → returns 2#64) ∧
      (∀ hdr x, q ≤ 255 → queueHdr s s.crew.ctx q = some hdr → viaOk s (some s.crew.ctx) hdr.toNat 64 true true = true →
        qheadAt s (some s.crew.ctx) hdr.toNat = some x →
        (x.dev = false → returns 2#64) ∧
        (x.dev = true → readsReady h true 128 r [(l, ra)] s = true → readsReady h true 128 r [(l, ra + 128#64)] s = true →
          ((x.tail + 2 ^ 64 - x.head) % 2 ^ 64 = 2 ^ x.logsz → returns 1#64) ∧
          exec (.lnch r d a b) s = .next (enqueue r d q hdr ra x bytes s)))) ∧
    evt 1 (.evset r a k) true (fun x m => x ||| m) ∧ evt 2 (.evclr r a k) false (fun x m => x &&& ~~~ m) ∧
    (ready (opLaunch 3 r 0#7 a k (decide (k.toNat < 2)) [srcS a]) s = true →
      (debugged s = false → ∃ t, exec (.ember r a k) s = .next t ∧ NoResult r 1 (unitNext r s) s t) ∧
      (debugged s = true → k = 0#7 → exec (.ember r a k) s = .next (done r (crewSample s.crew.ctx s.crew.ref
        (nameWords (packCrew s)) 5 [BitVec.ofNat 64 (partWord s.crew s.wave.widx (lowBit s.part.quads)), pcField (unitAddr r s), sreg s a] s))) ∧
      (debugged s = true → k = 1#7 → (getEmber s s.crew.core s.wave.seqn).tag = none →
        exec (.ember r a k) s = .next (done r (setEmber s.crew.core s.wave.seqn
          { getEmber s s.crew.core s.wave.seqn with own := (s.crew.cid, s.wave.widx, lowBit s.part.quads) ::
              (getEmber s s.crew.core s.wave.seqn).own.filter (· != (s.crew.cid, s.wave.widx, lowBit s.part.quads)) } s)))) ∧
    (ready (opLaunch 4 r 0#7 a b true [srcS a, srcS b]) s = true →
      exec (.grist r a b) s = .next (done r (gristAdd s.crew.ctx 2 (sreg s a) (bfield (sreg s b) 31 0) s)))

/-- R40: after the cycle in which a load's timer reaches its limit a part whose quads wait only in part splits into the quads
that wait and those that do not; one with NOSPLIT set, in its handler, without a free scalar set or with every quad waiting
does not, and the load has no timer any more. R43, R46, R124, R125 and R214: after the cycle of the earliest join timer the
parts present at the JOIN pass it as one, with JTOUT set, and the other parts' quads carry the OPEN mark; the watchdog enters
the handler with cause 0x07 and the width code, WAITCY and ICINV end, and a WAITA whose limit has passed makes its last test.
That a timer's step does nothing before its cycle, and that the earliest join timer of those present decides, are the model's
readings (log 25); so are the split of a part in JOINWAIT or FUSEWAIT (log 43) and which lanes a miss waits for (log 52). -/
def Obligations.TimerSteps : Prop :=
  (∀ (p : PartRef) (s t : State) (l : Load) (n : Nat), livePart p s = some t →
    t.part.loads.find? (fun x => x.id == l.id) = some l → l.timer = some n → n < now t → t.part.state ≠ .halted →
    let wq := waitingQuads l t
    let dq := t.part.quads - wq
    let stays := t.part.nosplit || t.part.state == .trapped || !freeSetAt n t || wq == 0 || dq == 0
    (stays = true → exec (.missSplit p l.id) s = .next { t with part := { t.part with
      loads := updIf (fun x => x.id == l.id) (fun x => { x with timer := none }) t.part.loads } }) ∧
    (stays = false → ∃ u x y, exec (.missSplit p l.id) s = .next u ∧ u.part = x ∧ u.sibs = insertPart y t.sibs ∧
      ((x.quads = wq ∧ y.quads = dq) ∨ (x.quads = dq ∧ y.quads = wq)) ∧ x.pc = t.part.pc ∧ y.pc = t.part.pc ∧
      x.s = t.part.s ∧ y.s = t.part.s ∧ u.wave = t.wave ∧ u.crew = t.crew ∧ u.memsys = t.memsys)) ∧
  (∀ (p : PartRef) (s t : State), livePart p s = some t →
    (∀ n, t.part.timer = some n → n < now t → t.part.state = .joinwait → t.part.jwait < 16 →
      let g := presentAt t.part.jwait t.part.waitAt t
      (∀ q ∈ g, ∀ m, q.timer = some m → n ≤ m) →
      let m := g.foldl fuse2 t.part
      let w := timeoutPass n (n + 1) t.part g (packWave t)
      exec (.joinTimeout p) s = .next (refocus w t) ∧
      (t.part.exiting = false → (∀ q ∈ g, q.exiting = false) → ∃ q ∈ w.parts, q.quads = m.quads ∧ q.exm = m.exm ∧ q.s = m.s ∧
        q.state = .run ∧ q.pc = t.part.waitAt + 4#64 ∧ q.jidx = t.part.jwait ∧ q.jtout = true ∧ q.timer = none ∧ q.ready = n + 1) ∧
      (∀ x ∈ dropParts (t.part :: g) (allParts t), x ∈ w.parts ∧ ∀ i < 16, x.quads.testBit i = true →
        (cget 0#64 w.opens i).getLsbD t.part.jwait = true) ∧ w.v = t.wave.v ∧ w.m = t.wave.m) ∧
    (∀ n, t.part.timer = some n → n < now t → t.part.state = .fusewait → pcField (tvecAt n t.wave) ≠ 0#64 →
      ∃ u, exec (.fuseWatchdogExpiry p) s = .next u ∧
        EnteredAt n { cause := 0x07, lanes := t.part.exm, info := BitVec.ofNat 64 t.part.wcode, addr := 0#64 }
          ((t.part.waitAt - t.part.pc).toNat / 4 + 1) t u) ∧
    (∀ n, t.part.wait = .cycles n → n ≤ now t →
      exec (.waitcyEnd p) s = .next { t with part := { t.part with wait := .none } }) ∧
    (p.crew ≠ 0 → t.part.wait = .icinv →
      exec (.icinvComplete p) s = .next { t with part := { t.part with wait := .none } }) ∧
    (p.crew = 0 → ∀ k rest, s.icinvs = k :: rest →
      exec (.icinvComplete p) s = .next (endCommand k none 0 0#64 { s with icinvs := rest })) ∧
    (∀ n hs w v r d a b, t.part.wait = .waita n → n ≤ now t →
      nextUnit { t with agent := .wave } = .ok (hs, w, v) → rejectRun hs = none → fMaj w = 19#5 →
      decodeSync { hints := hs, stl := fStl w } w = some (.waita r d a b) →
      (∀ x, exec (.waita r d a b) v = .next x → exec (.waitaTimeout p) s = .next (stepStop v x)) ∧
      (ready (opWaita r d a b) v = true → v.part.wait = .waita n → n ≤ now v → v.part.relDone = false → scratchPending v = false →
        sreg v a &&& 7#64 = 0#64 → (sreg v a).toNat + 8 ≤ v.crew.scr →
        waitHolds ((widthHint r).getD 0) (scrWord v (sreg v a).toNat) (sreg v b) = false →
        ∃ u, exec (.waitaTimeout p) s = .next (stepStop v u) ∧ ScalarResult r 0 d.toNat 0#64 v u)))

/-- R288 to R290: a home that may perform an access from a core does, and the access then holds the answer: a read's is the
bytes of its line, with a lease of the length asked for unless the home performs an atomic on the line in that cycle, and no
byte changes; an atomic's is the old value. Bytes of other lines stay as they are. A copy's access that the vault allotment
shuts out fails. -/
def Obligations.HomeAccesses : Prop :=
  ∀ (a : Access) (s : State), s.net.find? (fun x => x.id == a.id && x.ans.isNone) = some a → homeReady s a = true →
    (∀ scr fn n off v c, a.use ≠ .here scr fn n off v c) →
    let answered := fun (z : Answer) (t : State) => exec (.homeAccess a.id) s = .next t ∧ t.part = s.part ∧ t.wave = s.wave ∧
      t.crew = s.crew ∧ t.net = updIf (fun x => x.id == a.id) (fun x => { x with ans := some z }) s.net
    let lent := fun (q : Nat) => if a.tso = true ∨ q = 0 ∨ (homeLine s a.line).atom = homeCycle s a.line + 1 then none
      else some (timeOf s + q)
    (allotOk s a = true → readsPoison s a = false → ∃ t z, answered z t ∧ z.failed = false ∧
      (∀ q, a.op = .read q → z.bytes = lineBytes s a.key a.line ∧ z.lease = lent q ∧ t.memsys.bytes = s.memsys.bytes) ∧
      (∀ bs, a.op = .write bs → (∀ x ∈ bs, x.1 < 128) → ∀ x, x / 128 ≠ a.line → rawByte t x = rawByte s x) ∧
      (∀ fn n off v c, a.op = .atomic fn n off v c →
        z.bytes = byteCells off (leBytes n (leNat (memRead s a.key (128 * a.line + off) n))) ∧
        (fn = 12 → t.memsys.bytes = s.memsys.bytes) ∧
        (off + n ≤ 128 → n ≠ 0 → ∀ x, x / 128 ≠ a.line → rawByte t x = rawByte s x))) ∧
    (∀ ord, allotOk s a = false → a.use = .copy ord → ∃ t, answered failedAnswer t ∧ t.memsys = s.memsys)

/-- R290: at its home a fill with a lease raises the horizon of its line to the end of the lease, and one without a lease, or
in the cycle of an atomic on the line, keeps it; a write of bytes of the line and an atomic keep it, and are dated max(T, H +
8). An atomic is not performed in a cycle in which the home has granted a lease on its line. No home here keeps a fabric
line. -/
def Obligations.HorizonsRise : Prop :=
  ∀ (a : Access) (s : State),
    let h := (homeLine s a.line).h
    let after := (homeLine (perform a s).1 a.line).h
    let dated := (perform a s).2.ct = some (max (timeOf s) (h + 8)) ∧ after = h
    let bare := fun (q : Nat) => remoteLine a.line = true ∨ a.tso = true ∨ q = 0 ∨ (homeLine s a.line).atom = homeCycle s a.line + 1
    (∀ q, a.op = .read q → (perform a s).2.ct = none ∧
      (bare q → (perform a s).2.lease = none ∧ after = h) ∧
      (¬ bare q → (perform a s).2.lease = some (timeOf s + q) ∧ after = max h (timeOf s + q) ∧
        leasedNow (perform a s).1 a.line = true)) ∧
    (a.isAtomic = true → leasedNow s a.line = true → homeReady s a = false) ∧
    (∀ bs, a.op = .write bs → remoteLine a.line = false → bs ≠ [] → (∀ x ∈ bs, x.1 < 128) → dated) ∧
    (∀ fn n off v c, a.op = .atomic fn n off v c → remoteLine a.line = false → off < 128 → dated)

/-- R184, R187, R195 and R211: an answer to a store lowers OUT of its tracker by 1 and raises LCT to its completion time; a
load whose lanes all have their bytes writes them, to a scalar register or to the vector registers of its lanes, whatever its
size, and ends; a store whose accesses are performed is accepted, and a faulting one reported after the older ones of its
part; a release that has nothing left to wait for lets its unit go on. That a loaded value stands over an older fixed-latency
write that has not landed (log 49), and what a home performs in which order (log 26), are the model's choices. -/
def Obligations.AnswersArrive : Prop :=
  ∀ (s : State),
    (∀ a z k, s.net.find? (fun x => x.id == a.id && !x.back) = some a → a.ans = some z → a.use = .store → a.trk = some k →
      s.crew.cid = a.crew → s.crew.cond = .resident →
      ∃ t, exec (.accessAnswer a.id) s = .next t ∧ t.part = s.part ∧ t.wave = s.wave ∧ t.memsys = s.memsys ∧
        (getTrk t.crew k).out = (getTrk s.crew k).out - 1 ∧
        (getTrk t.crew k).lct = max (getTrk s.crew k).lct (z.ct.getD 0)) ∧
    (∀ p t l, livePart p s = some t → t.part.loads.find? (fun x => x.id == l.id) = some l →
      let n := l.kind.size
      l.lanes ≠ [] → (∀ x ∈ l.lanes, (x.bytes t n).isSome = true ∧ x.lane < 64) → (l.lanes.map (·.lane)).Nodup →
      ∃ u, exec (.loadDataReturn p l.id) s = .next u ∧
        u.part.loads = (t.part.loads.filter (fun y => y.id != l.id)).map (fun y =>
          if l.acq = true ∧ y.id < l.id then { y with acq := true } else y) ∧
        u.part.pc = t.part.pc ∧ u.memsys = t.memsys ∧ u.wave.m = t.wave.m ∧
        (∀ d, l.kind = .vec n d → ScalarSame t u ∧
          (∀ x ∈ l.lanes, ∀ i < max 1 (n / 4), vraw u.wave (l.reg + i) x.lane = loadWord n d ((x.bytes t n).getD []) i) ∧
          (∀ m i, i < 64 → (m < l.reg ∨ l.reg + max 1 (n / 4) ≤ m ∨ ∀ x ∈ l.lanes, x.lane ≠ i) →
            vraw u.wave m i = vraw t.wave m i)) ∧
        (∀ x, l.kind = .scalar n → l.lanes = [x] → VectorSame t u ∧
          ScalarSet l.reg (BitVec.ofNat 64 (leNat ((x.bytes t n).getD []))) t u)) ∧
    (s.crew.cond = .resident →
      (∀ x, s.crew.stores.find? (fun y => y.id == x.id) = some x →
        (x.fault = none → x.accs.any (onWay s) = false → exec (.storeAccepted s.crew.cid x.id) s = .next
          { s with crew := { s.crew with stores := s.crew.stores.filter (fun y => y.id != x.id) } }) ∧
        (∀ n, x.fault = some n → s.crew.sfq.length < 8 → turnFree (16 * x.wave + x.part) s = true →
          s.crew.stores.any (fun y => y.wave == x.wave && y.part == x.part && y.fault.isSome && decide (y.id < x.id)) = false → ∃ t, exec (.storeFaultReport s.crew.cid x.id) s = .next t ∧
          t.crew.sfseq = (s.crew.sfseq + 1) % 2 ^ 16 ∧ t.crew.sfq.length = s.crew.sfq.length + 1 ∧
          t.crew.stores = s.crew.stores.filter (fun y => y.id != x.id) ∧ t.memsys = s.memsys))) ∧
    (∀ p t accs ords mask, livePart p s = some t → t.part.wait = .release accs ords mask →
      released accs ords (maskTrks mask) t = true →
      exec (.fenceReleaseComplete p) s = .next { t with part := { t.part with wait := .none, relDone := true } })

/-- R345: at every sample, of 16 readings of which none passes 120 °C, all fields of a vault's TALW change together: SEQ
counts the samples that change MULT or CLOSED, modulo 2^16, MULT is the new code and never 3, CLOSED the new state, TEMP the
reading in 12 bits, HEAD 420 − TEMP in 16, and the reserved bits are 0. Lamplighter reads it as register 0x40 + v. -/
def Obligations.TalwFollowsItsSample : Prop :=
  ∀ (v : Nat) (x : Int) (l : List Int) (s : State), v < 32 → s.pkg.powered = true →
    let t := l.foldl max x
    let old := cget Vault.reset s.vaults v
    l.length = 15 → old.next ≤ timeOf s → (∀ r ∈ x :: l, r ≤ 480) →
    let mult := bfield old.talw 33 32
    let closed := old.talw.getLsbD 31
    let n := nextMult mult closed (old.sampled && decide (old.changed + 1000000 ≤ timeOf s)) t
    (-2048 : Int) ≤ t → t < 2048 → mult ≤ 2 →
    ∃ u w, exec (.vaultSample v (x :: l)) s = .next u ∧ lampReg u (0x40 + v) = some w ∧
      bfield w 63 48 = (bfield old.talw 63 48 + (if n = (mult, closed) then 0 else 1)) % 2 ^ 16 ∧ bfield w 47 34 = 0 ∧
      bfield w 33 32 = n.1 ∧ n.1 ≤ 2 ∧ w.getLsbD 31 = n.2 ∧ bfield w 30 28 = 0 ∧
      signedOf 12 (bfield w 27 16) = t ∧ signedOf 16 (bfield w 15 0) = 420 - t ∧
      (∀ k, k ≠ v → cget Vault.reset u.vaults k = cget Vault.reset s.vaults k) ∧
      (getCluster u v).gctl.getLsbD 1 = n.2 ∧ u.part = s.part ∧ u.memsys = s.memsys

/-- R342 to R344: above 105 °C a vault closes at MULT 2; it opens below 100 °C; MULT rises to 1 above 85 °C and to 2 above 95
°C; it falls by one step at most, 2 °C below and after 1 ms. Temperatures are in quarters of a degree. -/
def Obligations.RefreshThresholds : Prop :=
  ∀ (mult : Nat) (closed dwelt : Bool) (t : Int), mult ≤ 2 →
    (420 < t → nextMult mult closed dwelt t = (2, true)) ∧
    (t ≤ 420 → closed = true → nextMult mult closed dwelt t = (2, decide (400 ≤ t))) ∧
    (380 < t → t ≤ 420 → closed = false → nextMult mult closed dwelt t = (2, false)) ∧
    (340 < t → t ≤ 380 → closed = false → mult = 0 → nextMult mult closed dwelt t = (1, false)) ∧
    (closed = false → t ≤ 420 → (nextMult mult closed dwelt t).2 = false) ∧
    (closed = false → (nextMult mult closed dwelt t).1 < mult → dwelt = true ∧
      (nextMult mult closed dwelt t).1 + 1 = mult ∧ (mult = 1 → t ≤ 332) ∧ (mult = 2 → t ≤ 372)) ∧
    (nextMult mult closed dwelt t).1 ≤ 2

/-- R346 to R353, R408, R409 and R414: a thermal trip stops issue, sets STATUS bit 3 and cuts the power 1 ms later; a fall of
the rail by more than TRIP times 5 mV, of which values below 4 act as 4, trips: the clock of the cluster is halved from the
first or the second boundary on, until max(64, HOLD) clear cycles have passed, and restored at the next boundary with the
vault open; the body bias moves one code in each 1 µs; a taper ramp falls by SLOPE A/µs and ends when it has come down to the
estimate; corrected errors are counted; the estimate above the budget stops placement, and a cap ends at its expiry. The
units and moments that the manual leaves open are the model's choices (log 27, log 28, log 39, log 62). -/
def Obligations.PowerSteps : Prop :=
  ∀ (s : State) (c : Nat), c < 32 →
    (∀ k, s.pkg.halted = false → ∃ t, exec (.thermalTrip k) s = .next t ∧ t.pkg.halted = true ∧
      t.pkg.tripDue = some (timeOf s + 1000000) ∧ t.pkg.status = s.pkg.status ||| 8#64 ∧ t.part = s.part) ∧
    (∀ n, s.pkg.tripDue = some n →
      exec .packagePowerOff s = .next { s with pkg := { s.pkg with powered := false, tripDue := none } }) ∧
    (∀ drop k rest, cget [] s.rails c = (drop, k) :: rest → 5 * max 4 (bfield (getCluster s c).gctl 15 8) < drop →
      ∃ t, exec (.droopTrip c) s = .next t ∧ t.rails = cset [] s.rails c rest ∧ (getCluster t c).tripped = true ∧
      cycleOf s c + k + max 64 (bfield (getCluster s c).gctl 31 16) ≤ (getCluster t c).holdEnd ∧
      (16 ≤ (recentTrips s c).length → (getCluster t c).gctl.getLsbD 2 = true ∧ (getCluster t c).planDue = true) ∧
      ((getCluster s c).shift = none → (getCluster s c).halve = false → (getCluster s c).gctl.getLsbD 0 = false →
        (getCluster s c).len = cycleLen (getCluster s c) →
        (getCluster t c).shift = some (boundaryOf s c 1) ∨ (getCluster t c).shift = some (boundaryOf s c 2)) ∧
      cycleOf t c = cycleOf s c ∧ t.part = s.part ∧ t.memsys = s.memsys) ∧
    (∀ drop k rest, cget [] s.rails c = (drop, k) :: rest → drop ≤ 5 * max 4 (bfield (getCluster s c).gctl 15 8) →
      exec (.droopTrip c) s = .next { s with rails := cset [] s.rails c rest }) ∧
    ((getCluster s c).tripped = true → (getCluster s c).holdEnd ≤ cycleOf s c →
      ∃ t, exec (.gutterRestore c) s = .next t ∧ (getCluster t c).tripped = false ∧
        ((getCluster s c).shift = none → (getCluster s c).gctl.getLsbD 1 = false →
          (getCluster s c).len = 2 * (if (getCluster s c).bbias.getLsbD 16 then 65 else 60) →
          (getCluster t c).shift = some (boundaryOf s c 1)) ∧
        cycleOf t c = cycleOf s c ∧ t.part = s.part ∧ t.memsys = s.memsys) ∧
    (∀ n, (getCluster s c).shift = some n → n ≤ s.clock → let t := settleClock c s
      (getCluster t c).len = cycleLen (getCluster s c) ∧ (getCluster t c).gctl.getLsbD 0 = (getCluster s c).halve ∧
        (getCluster t c).clk = n ∧ (getCluster t c).cyc = cycleOf s c ∧ (getCluster t c).shift = none ∧ t.memsys = s.memsys) ∧
    (∀ slack, ((getCluster s c).planDue = true ∨ (getCluster s c).nextPlan ≤ timeOf s) →
      let y : Cluster := { getCluster s c with
        nextPlan := if (getCluster s c).nextPlan ≤ timeOf s then timeOf s + dayNs else (getCluster s c).nextPlan }
      exec (.biasReplan c slack) s = .next (if y.planEnd then setCluster s c { y with planDue := true }
        else replan c slack (setCluster s c { y with planDue := false }))) ∧
    (∀ g, (getCluster s c).target = some g → (getCluster s c).stepAt ≤ timeOf s → -40 ≤ g → g ≤ 40 → -40 ≤ biasCode (getCluster s c) →
      biasCode (getCluster s c) ≤ 40 → ∃ t, exec (.biasCodeStep c) s = .next t ∧
        biasCode (getCluster t c) = (if biasCode (getCluster s c) < g then biasCode (getCluster s c) + 1
          else if g < biasCode (getCluster s c) then biasCode (getCluster s c) - 1 else g) ∧ t.memsys = s.memsys) ∧
    (∀ v, (getCluster s c).planEnd = false → exec (.bbiasCodeWrite c v) s = .next (biasArrived c (setCluster s c
      { getCluster s c with
        target := some (clampInt (signedOf 8 (bfield v 15 8)) (-40) 40),
        stepAt := if (getCluster s c).target.isSome then (getCluster s c).stepAt else timeOf s + 1000 }))) ∧
    (∀ amps filler, (getCluster s c).nextEst ≤ timeOf s → ∃ t, exec (.taperEstimate c amps filler) s = .next t ∧
      (getCluster t c).estimate = amps ∧ (getCluster t c).nextEst = 100 * (timeOf s / 100) + 100 ∧
      (∀ m, (getCluster s c).ramp = some m → (getCluster t c).ramp = some { m with
        cycles := m.cycles + (if amps < m.amps then filler else 0), seen := true, time := timeOf s,
        amps := m.amps - slopeOf (getCluster s c) * (timeOf s - m.time) }) ∧ t.memsys = s.memsys) ∧
    (∀ m, (getCluster s c).ramp = some m → m.seen = true →
      m.amps - slopeOf (getCluster s c) * (timeOf s - m.time) ≤ (getCluster s c).estimate →
      exec (.taperRampEnd c) s = .next (endRamp c s)) ∧
    (∀ k, k < 9 → ∃ t, exec (.eccCorrected k c) s = .next t ∧
      cget 0 (getCluster t c).eccs k = cget 0 (getCluster s c).eccs k + 1 ∧
      cget 0 t.pkg.life.ecc (2 * k) = cget 0 s.pkg.life.ecc (2 * k) + 1 ∧ t.memsys = s.memsys) ∧
    (∀ w, ∃ t, exec (.eccUncorrectable (.memoryWord w)) s = .next t ∧ wordPoisoned t w = true ∧
      t.memsys.bytes = s.memsys.bytes) ∧
    (s.pkg.powered = true → s.pkg.nextScrub ≤ timeOf s → exec .backgroundScrub s = .next { s with pkg := { s.pkg with
      scrubs := s.pkg.scrubs + 1, nextScrub := s.pkg.nextScrub + 43200000000000 } }) ∧
    (∀ w, s.pkg.nextPower ≤ timeOf s → exec (.powerEstimate w) s = .next { s with pkg := { s.pkg with
      power := w, nextPower := s.pkg.nextPower + 100000 } }) ∧
    (∀ x, s.pkg.cap = some x → x.expiry ≤ timeOf s →
      exec .capExpiry s = .next { s with pkg := { s.pkg with cap := none } }) ∧
    (s.pkg.powered = true → s.pkg.nextHour ≤ timeOf s → ∃ t, exec .lifetimeRecordWrite s = .next t ∧
      t.pkg.flash.life.hours = (if s.pkg.booted then 0 else s.pkg.flash.life.hours) + s.pkg.life.hours + 1 ∧
      t.pkg.life = (if s.pkg.booted then t.pkg.flash.life else Lifetime.reset) ∧ t.memsys = s.memsys) ∧
    (∀ core seq, (getEmber s core seq).interval ≠ 0 → (getEmber s core seq).interval ≤ (getEmber s core seq).count →
      (getEmber s core seq).tag = none →
      exec (.emberTag core seq) s = .next (setEmber core seq { getEmber s core seq with armed := true } s)) ∧
    (∀ core seq x g, (getEmber s core seq).tag = some g → ∃ t, exec (.emberRecord core seq x) s = .next t ∧
      (getEmber t core seq).tag = none ∧ t.part = s.part)

/-- R273, R274, R366 and R372: a visit of a slot with a crew to place adds its QUANTUM, capped at twice that, and places
while DEFICIT is above 0; without one, DEFICIT falls to 0 at most; while the estimated power exceeds the budget in force
nothing is placed. A crew whose waves have all retired, and that has nothing under way and no DIRTY line, leaves its core; a
halted crew in the same state is swapped out; DIRTY lines go down first in both. A pre-emption ends when no crew of its
context is on a core. A migration of a granted handle to host memory waits, and so does a promotion into a closed vault. The
order of Lamplighter's own steps, and how a dump is cut into steps, are the model's choices (log 3, log 31, log 34). -/
def Obligations.SchedulerSteps : Prop :=
  ∀ (s : State),
    (∀ n, let x := getSlot s n
      x.mapped = true → n ≠ 0 → ctxRuns s x.ctx = true → s.pkg.halted = false →
      (nextCrew s x.ctx x.queue = none →
        exec (.slotVisit n) s = .next (setSlot s n { x with deficit := min x.deficit 0 })) ∧
      ((nextCrew s x.ctx x.queue).isSome = true →
        let t := setSlot s n { x with deficit := min (x.deficit + x.quantum) (2 * x.quantum) }
        (budget s < s.pkg.power → exec (.slotVisit n) s = .next t) ∧
        (s.pkg.power ≤ budget s → exec (.slotVisit n) s = .next
          (placeAll n (s.crews.length + 1 + (s.launches.map (fun l => l.total - l.next)).sum) t)))) ∧
    (∀ n l c, let x := getSlot s n
      x.mapped = true → n ≠ 0 → ctxRuns s x.ctx = true → s.pkg.halted = false → headOf s x.ctx x.queue = some l →
      getCtx s x.ctx = some c → l.bytes ≠ [] → l.addr.toNat % 256 = 0 →
      let t := testHeads x.ctx (updLaunch s l.lid (fun y => { y with bytes := l.bytes }))
      (recordOk c l.bytes = false → exec (.launchStart n) s = .next (dropLaunch l 0x01 s)) ∧
      (recordOk c l.bytes = true → ∀ m, headOf t x.ctx x.queue = some m → m.passed = true →
        queueFree t x.ctx x.queue = true → exec (.launchStart n) s = .next (startLaunch m t))) ∧
    (s.crew.cond = .resident →
      let ls := dirtyLines s s.crew.core s.crew.cid (fun _ => true)
      (noParts s = true → ls = [] → settledCrew s = true → exec (.crewRetire s.crew.cid) s = .next (leaveCore s)) ∧
      (noParts s = true → ls ≠ [] → ls.filter (fun l => outRoom s s.crew.cid (getL1 s s.crew.core l).trk) = ls →
        exec (.crewRetire s.crew.cid) s = .next (writeDowns s.crew.core ls s)) ∧
      (noParts s = false → s.crew.halt = true → ls = [] → quiet s = true → leftAlone s = true →
        exec (.swapOut s.crew.cid) s = .next (swapAway (settleEngines s)))) ∧
    (∀ n c, getCtx s n = some c → c.preempt = 1 → residentOf s n = [] → c.freeing = false →
      (∀ k, c.ptag = some k → exec (.preemptDone n) s =
        .next (endCommand k none 0 0#64 (setCtx s n (some { c with preempt := 2, ptag := none }))))) ∧
    (∀ d, s.crew.cond = .resident → s.crew.dump = some d → let u := focusWave s d.wave (some d.part)
      u.crew.cid = s.crew.cid → u.crew.cond = .resident → u.part.wait = .dump → u.part.quads.testBit d.part = true →
      (d.phase = 0 → d.preempt = false → dumpReady d u = true →
        exec (.dumpcDone s.crew.cid) s = .next (putDump u (renderDump d u))) ∧
      (d.phase = 0 → d.preempt = true → exec (.dumpcDone s.crew.cid) s = .next (putDump u { d with phase := 2 })) ∧
      (d.phase = 1 → d.fault = false → d.preempt = false → d.left ≠ [] → blockOut u = false →
        ∀ v, dumpBlock d u = some v → exec (.dumpcDone s.crew.cid) s = .next v) ∧
      (d.phase = 1 → d.fault = true ∨ d.preempt = true ∨ d.left = [] → dumpAnswered u = true →
        ∀ v, dumpHeader d u = some v → exec (.dumpcDone s.crew.cid) s = .next v) ∧
      (d.phase = 2 → dumpAnswered u = true → exec (.dumpcDone s.crew.cid) s = .next (dumpEnd d u))) ∧
    (∀ n k h v rest, getHandle s n k = some h → ∀ tier, h.moving = (tier, v, none) :: rest → tier ≠ 3 →
      inTier tier v h = true → ∃ t, exec (.handleMigrationEnd n k) s = .next t ∧
        (∃ x, getHandle t n k = some x ∧ x.moving = rest ∧ x.tier = tier ∧ x.base = h.base ∧ x.extent = h.extent) ∧
        t.part = s.part) ∧
    (∀ n k h tier v tag rest, getHandle s n k = some h → h.moving = (tier, v, tag) :: rest →
      (tier = 3 ∧ isGranted s n k = true) ∨ shutOut s tier v h = true → exec (.handleMigrationEnd n k) s = .next s)

/-- R12 and R170: waves placed onto a core leave each sequencer with at most 32 waves and 64 parts and each of its 16
positions with at most 1,024 registers per lane, as they found it; a wave that has retired takes no place. -/
def Obligations.PlacementKeepsCapacity : Prop :=
  ∀ (there : List Spot) (ws out : List Wave), spotsOk there → placeWaves there ws = some out →
    spotsOk ((out.filter (fun w => w.parts != [])).map waveSpot ++ there) ∧
      out.map (fun w => { w with seqn := 0, qpos := 0 }) = ws.map (fun w => { w with seqn := 0, qpos := 0 })

/-- R5, R359, R360 and R396 to R398: a notify of a mapped slot, and one of the admin queue, serves it unless its header was
found broken; ADMQ takes a multiple of 64 and WINB a multiple of 512 GiB; a host's read of BAR 0 gives ADMQ, WINB or STATUS,
and 0 anywhere else; 0x5253 resets the module and nothing else does; a boot sets READY when the re-plans that it starts have
ended; the host's reads and writes through BAR 2 reach the memory at WINB. That a write of ADMQ or WINB that is not aligned
changes nothing is the model's choice (log 40); what a boot measures and samples is free (log 37); that a RESET keeps module
flash and host memory is log 38, and that an unlisted byte reads 0 is log 5. -/
def Obligations.HostSteps : Prop :=
  ∀ (s : State),
    (∀ n, s.pkg.booted = true → n < 64 → n ≠ 0 → (getSlot s n).mapped = true →
      exec (.notify n) s = .next (setSlot s n { getSlot s n with serving := !(getSlot s n).broken })) ∧
    (s.pkg.booted = true →
      exec (.notify 0) s = .next (setSlot s 0 { getSlot s 0 with serving := !(getSlot s 0).broken })) ∧
    (∀ n, s.pkg.booted = false → exec (.notify n) s = .next s) ∧
    (∀ v, s.pkg.powered = true → bfield v 5 0 = 0 → ∃ t, exec (.admqWrite v) s = .next t ∧ t.pkg.admq = v ∧
      (getSlot t 0).serving = false ∧ (getSlot t 0).broken = false ∧ t.memsys = s.memsys) ∧
    (barRead s 0x1000 = s.pkg.admq ∧ barRead s 0x1008 = s.pkg.winb ∧ barRead s 0x1010 = s.pkg.status ∧
      ∀ n, n ≠ 0x1000 → n ≠ 0x1008 → n ≠ 0x1010 → barRead s n = 0#64) ∧
    (∀ v, s.pkg.powered = true → bfield v 38 0 = 0 →
      exec (.registerWrite 0x1008 v) s = .next { s with pkg := { s.pkg with winb := v } }) ∧
    (∀ n v, n ≠ 0x1008 → exec (.registerWrite n v) s = .next s) ∧
    (∃ t, exec (.resetWrite 0x5253#64) s = .next t ∧ t.pkg = { Package.reset with flash := s.pkg.flash } ∧
      t.crew = Crew.none ∧ t.crews = [] ∧ t.ctxs = [] ∧ t.slots = [] ∧ t.launches = [] ∧ t.clusters = [] ∧ t.vaults = [] ∧
      (∀ a, rawByte t a = if a < 2 ^ 52 ∧ paKind a = 3 then rawByte s a else 0#8)) ∧
    (∀ v, v ≠ 0x5253#64 → exec (.resetWrite v) s = .next s) ∧
    (s.pkg.powered = true → s.pkg.booted = false →
      (s.pkg.booting = false → ∃ t, exec .moduleBoot s = .next t ∧ t.pkg.booting = true ∧ t.pkg.booted = false ∧ t.part = s.part) ∧
      (s.pkg.booting = true → plansEnded s = true → ∃ t, exec .moduleBoot s = .next t ∧ t.pkg.booting = false ∧
        t.pkg.booted = true ∧ t.pkg.status.getLsbD 0 = true ∧ t.part = s.part) ∧
      (s.pkg.booting = true → plansEnded s = false → exec .moduleBoot s = .next s)) ∧
    (∀ o n, inWindow s o n = true → ∃ t, exec (.hostMemoryRead o n) s = .next t ∧
      t.pkg.read = memRead s 0 (s.pkg.winb.toNat + o) n ∧ t.memsys = s.memsys) ∧
    (∀ o bs, inWindow s o bs.length = true → let r := homeWrites noCtx 0 (s.pkg.winb.toNat + o) bs s
      ∃ t, exec (.hostMemoryWrite o bs) s = .next t ∧
        t.memsys = r.1.memsys ∧ s.pkg.hostCt ≤ t.pkg.hostCt ∧ r.2 ≤ t.pkg.hostCt ∧ t.part = s.part)

/-- R428 and R430 to R437: a replayed flit changes nothing; an answer of a peer is converted for its access, a refusal and
200 µs without an answer fail it; a peer's access that no inbound window lets in is refused, and one that is let in is
performed when no copy owns its lines and no lease of its line keeps an atomic out; each 1 ms sync flits go out on every up
port; a sync flit taken leaves SOFS as it is, and slews it toward the sender's STIME by at most 50 ppm; a port without one
for 10 ms goes down; a quote request is held, and one that finds four held is answered busy; a cap is taken from a port of
CAPSRC. How flits are packed is the model's choice (log 30), and so is what the manual leaves open of the timebase and of
quotes (log 38). -/
def Obligations.FabricSteps : Prop :=
  ∀ (s : State) (p : Nat),
    exec (.flitCrcReplay p) s = .next s ∧
    (∀ a, s.net.find? (fun x => x.id == a.id && x.ans.isNone) = some a → remoteLine a.line = true →
      (∀ z : PeerAnswer, a.port ≠ 16 → inOrder s a = true → z.refused = false → exec (.remoteAnswer a.id z) s = .next { s with
        net := updIf (fun x => x.id == a.id) (fun x => { x with ans := some (convert a z s) }) s.net }) ∧
      (∀ z : PeerAnswer, a.port ≠ 16 → inOrder s a = true → z.refused = true →
        exec (.remoteAnswer a.id z) s = .next (failAccess a s)) ∧
      (a.sent + 200000 ≤ timeOf s → exec (.remoteAccessTimeout a.id) s = .next (failAccess a s))) ∧
    (portUp s p = true →
      (∀ x, inboundFor x s = none →
        exec (.inboundAccess p x) s = .next (sendFlit p (answerFlit true [] 0 0 s) s)) ∧
      (∀ x k c, inboundFor x s = some (k, c) → (∀ l, (homeLine s l).owners = []) →
        ((∀ fn wide v e, x.op = .atomic fn wide v e → leasedNow s (x.pa / 128) = false) →
          exec (.inboundAccess p x) s = .next (peerPerform p k c x s)) ∧
        (∀ fn wide v e, x.op = .atomic fn wide v e → leasedNow s (x.pa / 128) = true →
          exec (.inboundAccess p x) s = .next s)) ∧
      (∀ v, ∃ t, exec (.syncFlitReceive p v) s = .next t ∧ (getPort t p).lastSync = timeOf s ∧ sofsOf t = sofsOf s ∧
        (v.toInt - (stimeOf t + t.fabric.aim)).natAbs ≤ (v.toInt - stimeOf s).natAbs ∧ t.memsys = s.memsys ∧
        ∀ u : State, u.fabric = t.fabric →
          (sofsOf u - sofsOf s).natAbs ≤ (timeOf u - timeOf s) * 50 / 1000000 ∧ (sofsOf u - sofsOf s).natAbs ≤ t.fabric.aim.natAbs) ∧
      ((getPort s p).lastSync + 10000000 ≤ timeOf s → ∃ t, exec (.portSyncTimeout p) s = .next t ∧ (getPort t p).up = false) ∧
      (∀ nonce, s.pkg.halted = false → (getPort s p).quotes.length ≤ 4 →
        ∃ n, n < 5 ∧ let t := (List.range n).foldl (fun u _ => answerQuote p u) { s with free := s.free + 1 }
          let x := getPort t p
          (4 ≤ x.quotes.length → exec (.quoteRequestFlit p nonce) s = .next (sendFlit p [1#8] t)) ∧
          (x.quotes.length < 4 → exec (.quoteRequestFlit p nonce) s = .next
            (setPort p { x with quotes := x.quotes ++ [sliceOf 0#8 nonce 0 32] } t))) ∧
      (∀ nonce rest, (getPort s p).quotes = nonce :: rest →
        (getPort (answerQuote p s) p).quotes = rest ∧ (getPort (answerQuote p s) p).sent = (getPort s p).sent ++
          (List.range 69).map (fun i => sliceOf 0#8 (quoteBytes nonce s) (256 * i) 256)) ∧
      (∀ m, s.fabric.capsrc.testBit p = true → s.pkg.halted = false →
        exec (.powerCapFlit p m) s = .next (acceptCap m s))) ∧
    (s.fabric.nextSync ≤ timeOf s → ∃ t, exec .syncFlitSend s = .next t ∧ t.fabric.nextSync = timeOf s + 1000000 ∧
      (∀ q, q < 16 → portUp s q = true →
        (getPort t q).sent = (getPort s q).sent ++ [sliceOf 0#8 (bytes64 (w64 (stimeOf s))) 0 256]) ∧
      (∀ q, portUp s q = false → getPort t q = getPort s q) ∧ t.memsys = s.memsys)

/-- R400 to R402: of every command from a slot that Lamplighter serves: a CPLA that is no multiple of 16 raises the vector
alone; a reserved bit set leaves STATUS 1, the wrong queue STATUS 2, and a bit outside the payload STATUS 1; a context that
the command names and that does not exist leaves STATUS 3. Nothing else of the command happens. R334, R396 and R400: a
completion with CPLA 0 raises the slot's vector and writes nothing; any other is a release: it is performed at once when
Lamplighter's earlier writes are settled, and otherwise waits behind those that wait. One that is performed raises its vector
by one, and leaves the registers of every part, crew and core as they were. The order of the checks is the model's reading
(log 29). -/
def Obligations.CommandCompletion : Prop :=
  (∀ (c : Cmd) (s : State),
    let w := Cmd.word c
    let k := some (w 2).toNat
    let at_ := fun (n : Nat) => some (actsOn s c n)
    let f := ChecksForm c s
    f (.launch c) 0x01 0 .user [-1#64] none ∧
    f (.launchCaptured c) 0x01 1 .user [-1#64] none ∧
    f (.evsignalSet c) 0x02 0 .both [-1#64, -1#64, 0x3F#64] (if (w 2).toNat < 4 then at_ (bfield (w 4) 5 0) else none) ∧
    f (.evsignalClear c) 0x02 1 .both [-1#64, -1#64, 0x3F#64] (if (w 2).toNat < 4 then at_ (bfield (w 4) 5 0) else none) ∧
    f (.mapq c) 0x03 0 .admin [0x00000000003FFF3F#64, -1#64, -1#64] (some (bfield (w 2) 21 16)) ∧
    f (.unmapq c) 0x04 0 .admin [0x3F#64] none ∧
    f (.ctxnew c) 0x05 0 .admin [-1#64, -1#64, -1#64, -1#64, 0x7#64] none ∧
    f (.ctxnewAllotment c) 0x05 1 .admin [0x0000000000003F1F#64, -1#64, 0x00000000FFFFFFFF#64] (some (bfield (w 2) 13 8)) ∧
    f (.ctxnewLanternWays c) 0x05 2 .admin [0x0000000000003F00#64, 0xF#64] (some (bfield (w 2) 13 8)) ∧
    f (.ctxfree c) 0x06 0 .admin [0x3F#64] (some (w 2).toNat) ∧
    f (.handleCreate c) 0x07 0 .user [0x0003FF037FFF3FFF#64, -1#64, -1#64, -1#64, -1#64] none ∧
    f (.handlePriority c) 0x07 1 .user [0x0000000000700FFF#64] none ∧
    f (.handleMigrate c) 0x07 2 .user [0x000000007F000FFF#64] none ∧
    f (.handleEvict c) 0x07 3 .user [0x0000000000000FFF#64] none ∧
    f (.grant c) 0x08 0 .both [-1#64, -1#64, -1#64, 0x3F#64] (at_ (bfield (w 5) 5 0)) ∧
    f (.preempt c) 0x09 0 .admin [0x3F#64] (some (w 2).toNat) ∧
    f (.preemptResume c) 0x09 1 .admin [0x3F#64] (some (w 2).toNat) ∧
    f (.debugAttach c) 0x0A 0 .admin [0x3F#64, -1#64] k ∧
    f (.debugDetach c) 0x0A 1 .admin [0x3F#64] k ∧
    f (.debugPcBreakpoint c) 0x0A 2 .admin [0x3F#64, 0x107#64, -1#64] k ∧
    f (.debugWatchpoint c) 0x0A 3 .admin [0x3F#64, 0x703#64, -1#64, -1#64] k ∧
    f (.debugStopCrew c) 0x0A 4 .admin [0x3F#64, -1#64, 0x0000FFFFFFFFFFFF#64] k ∧
    f (.debugResumeCrew c) 0x0A 5 .admin [0x3F#64, -1#64, 0x0000FFFFFFFFFFFF#64, 0x1FF1#64] k ∧
    f (.debugEmber c) 0x0A 6 .admin [0x3F#64, 0x11F#64, 0x00000000FFFFFFFF#64] k ∧
    f (.debugGrist c) 0x0A 7 .admin [0x3F#64, -1#64] k ∧
    f (.debugIcinv c) 0x0A 8 .admin [-1#64, -1#64] none ∧
    f (.quote c) 0x0B 0 .both [-1#64, -1#64, -1#64, -1#64, -1#64] none ∧
    f (.quoteExtend c) 0x0B 1 .admin [-1#64, -1#64, -1#64, -1#64, -1#64] none ∧
    f (.powercap c) 0x0C 0 .admin [-1#64, -1#64, -1#64] none ∧
    f (.countersAccount c) 0x0D 0 .both [-1#64, 0#64, -1#64, 0x3F#64] (some (actsOn s c (bfield (w 5) 5 0))) ∧
    f (.countersReadRegister c) 0x0D 1 .admin [-1#64, 0#64, 0#64, 0x3F#64] none ∧
    f (.countersWriteRegister c) 0x0D 2 .admin [-1#64, -1#64, 0#64, 0x3F#64] none ∧
    f (.countersLifetime c) 0x0D 3 .both [-1#64, 0#64, -1#64, 0x3F#64] none ∧
    f (.keyset c) 0x0E 0 .admin [-1#64, -1#64] none) ∧
  ((∀ (slot status : Nat) (ctx : Option Nat) (word0 cpla result : W64) (s : State),
    let t := complete slot ctx word0 cpla status result s
    let x : Post := { ctx := ctx, addr := cpla.toNat, vector := slot, slot := some slot,
                      bytes := bytes64 (BitVec.ofNat 64 (bfield word0 63 48 * 2 ^ 48 + status)) ++ bytes64 result }
    (cpla = 0#64 → t = msix slot s) ∧
    (cpla ≠ 0#64 → s.pkg.posts = [] → lampSettled s = true → t = putPost x s) ∧
    (cpla ≠ 0#64 → s.pkg.posts ≠ [] ∨ lampSettled s = false →
      t = { s with pkg := { s.pkg with posts := s.pkg.posts ++ [x] } })) ∧
  (∀ (x : Post) (s : State), let t := putPost x s
    cget 0 t.pkg.msix x.vector = cget 0 s.pkg.msix x.vector + 1 ∧
    (∀ v, v ≠ x.vector → cget 0 t.pkg.msix v = cget 0 s.pkg.msix v) ∧
    t.part = s.part ∧ t.sibs = s.sibs ∧ t.wave = s.wave ∧ t.crew = s.crew ∧ t.crews = s.crews ∧ t.cores = s.cores ∧
    t.launches = s.launches ∧ t.slots = s.slots) ∧
  (∀ (x : Post) (rest : List Post) (s : State), s.pkg.posts = x :: rest →
    (lampSettled s = true → execPost s = .next (putPost x { s with pkg := { s.pkg with posts := rest } })) ∧
    (lampSettled s = false → execPost s = .next s)))

/-- R359 to R362, R364, R372 to R377, R389 and R402 to R405: what each command of queues, events, contexts, handles, grants
and pre-emption does when it is accepted and its operands keep their limits; it completes with STATUS 0, or is under way
until the event that ends it. What the manual leaves open of these commands is the model's choice (log 22, log 29, log 31,
log 32, log 35, log 57, log 59). -/
def Obligations.QueueCommands : Prop :=
  ∀ (c : Cmd) (s : State),
    let w := Cmd.word c
    let ctx := (getSlot s c.slot).ctx
    let on := actsOn s c
    (accepts c 0x01 0 .user [-1#64] s = true → exec (.launch c) s = .next (takeLaunch c false [] s)) ∧
    (accepts c 0x01 1 .user [-1#64] s = true → ∀ x e, getCtx s ctx = some x →
      let mine := fun (e : W64 × Nat × List Byte) => e.1 == (getSlot s c.slot).hdr &&
        (qheadAt s (some ctx) (getSlot s c.slot).hdr.toNat).map (·.head) == some e.2.1
      x.caught.find? mine = some e → exec (.launchCaptured c) s = .next (takeLaunch c true e.2.2
        (updCtx s ctx (fun y => { y with caught := y.caught.filter (fun z => !mine z) })))) ∧
    ((w 2).toNat < 4 → (getCtx s (on (bfield (w 4) 5 0))).isSome = true →
      let change := fun (set : Bool) => .next (reply c 0 0#64
        (addChange (bitChange 2 0 (on (bfield (w 4) 5 0)) (w 2).toNat set (w 3)) s))
      (accepts c 0x02 0 .both [-1#64, -1#64, 0x3F#64] s = true → exec (.evsignalSet c) s = change true) ∧
      (accepts c 0x02 1 .both [-1#64, -1#64, 0x3F#64] s = true → exec (.evsignalClear c) s = change false)) ∧
    (accepts c 0x03 0 .admin [0x00000000003FFF3F#64, -1#64, -1#64] s = true →
      let slot := bfield (w 2) 5 0
      let q := bfield (w 2) 15 8
      let k := bfield (w 2) 21 16
      (getCtx s k).isSome = true → slot ≠ 0 → (getSlot s slot).mapped = false → slotOf s k q = none →
      viaOk s (some k) (w 3).toNat 64 true true = true → (qheadAt s (some k) (w 3).toNat).isSome = true →
      exec (.mapq c) s = .next (reply c 0 0#64 (mapQueue slot k q (w 3)
        (if w 4 = 0#64 then defaultQuantum s else (w 4).toNat) s))) ∧
    (accepts c 0x04 0 .admin [0x3F#64] s = true → (w 2).toNat ≠ 0 → (getSlot s (w 2).toNat).mapped = true →
      exec (.unmapq c) s = .next (reply c 0 0#64
        (unmapQueue (w 2).toNat s))) ∧
    (accepts c 0x05 0 .admin [-1#64, -1#64, -1#64, -1#64, 0x7#64] s = true → ∀ i, i < 64 → getCtx s i = none →
      (∀ j, j < i → getCtx s j ≠ none) → (w 2).toNat % 65536 = 0 → (w 2).toNat < 2 ^ 52 → isMem s (w 2).toNat = true →
      let u := setCtx s i (some (newCtx c))
      ctxOk u i (w 3).toNat 64 false false = true → (w 5 ≠ 0#64 → ctxOk u i (w 4).toNat 1 false false = true) →
      exec (.ctxnew c) s = .next (reply c 0 (BitVec.ofNat 64 i) u)) ∧
    ((getCtx s (bfield (w 2) 13 8)).isSome = true → let k := bfield (w 2) 13 8
      (accepts c 0x05 1 .admin [0x0000000000003F1F#64, -1#64, 0x00000000FFFFFFFF#64] s = true →
        exec (.ctxnewAllotment c) s = .next (reply c 0 (BitVec.ofNat 64 k) (updCtx s k (fun x => { x with
          allot := cset 0 x.allot (bfield (w 2) 4 0) ((w 3).toNat + 2 ^ 64 * bfield (w 4) 31 0) })))) ∧
      (accepts c 0x05 2 .admin [0x0000000000003F00#64, 0xF#64] s = true →
        exec (.ctxnewLanternWays c) s = .next (reply c 0 (BitVec.ofNat 64 k)
          (updCtx s k (fun x => { x with ways := bfield (w 3) 3 0 }))))) ∧
    (∀ x, getCtx s (w 2).toNat = some x →
      (accepts c 0x06 0 .admin [0x3F#64] s = true →
        (x.preempt = 0 → exec (.ctxfree c) s = .next (startPreempt c (w 2).toNat true s)) ∧
        (x.preempt ≠ 0 → exec (.ctxfree c) s = .next (reply c 0 0#64 (freeCtx (w 2).toNat (endPreempt x s))))) ∧
      (accepts c 0x09 0 .admin [0x3F#64] s = true →
        (x.preempt = 0 → exec (.preempt c) s = .next (startPreempt c (w 2).toNat false s)) ∧
        (x.preempt ≠ 0 → exec (.preempt c) s = .next (reply c 3 0#64 s))) ∧
      (accepts c 0x09 1 .admin [0x3F#64] s = true → x.preempt = 2 →
        exec (.preemptResume c) s = .next (reply c 0 0#64 (resumeRays (w 2).toNat
          (updCtx s (w 2).toNat (fun y => { y with preempt := 0 })))))) ∧
    (accepts c 0x07 0 .user [0x0003FF037FFF3FFF#64, -1#64, -1#64, -1#64, -1#64] s = true → w 4 ≠ 0#64 → createOk c = true →
      let hdl := bfield (w 2) 11 0
      let h := createdHandle s ctx c
      getHandle s ctx hdl = none → ((allHandles s).any (fun x => x.1 == ctx &&
        decide (x.2.2.base < h.base + h.extent ∧ h.base < x.2.2.base + x.2.2.extent))) = false →
      ∀ v, spaceFor [] h.tier h.vault h.extent (freeSlot c.slot s) = some v →
        exec (.handleCreate c) s = .next (reply c 0 0#64 (setHandle ctx hdl (some h) v))) ∧
    (∀ h, let hdl := bfield (w 2) 11 0
      getHandle s ctx hdl = some h →
      (accepts c 0x07 1 .user [0x0000000000700FFF#64] s = true → exec (.handlePriority c) s =
        .next (reply c 0 0#64 (setHandle ctx hdl (some { h with prio := bfield (w 2) 22 20 }) s))) ∧
      (accepts c 0x07 2 .user [0x000000007F000FFF#64] s = true → let tier := bfield (w 2) 25 24
        (tier ≠ 3 ∨ isGranted s ctx hdl = false → exec (.handleMigrate c) s = .next (holdSlot c.slot []
          (startMove ctx hdl tier (bfield (w 2) 30 26) (some (cmdTag s c)) s))) ∧
        (tier = 3 → isGranted s ctx hdl = true → exec (.handleMigrate c) s = .next (reply c 3 0#64 s))) ∧
      (accepts c 0x07 3 .user [0x0000000000000FFF#64] s = true →
        (isGranted s ctx hdl = false → h.pinned = false → exec (.handleEvict c) s = .next (holdSlot c.slot []
          (startMove ctx hdl 3 0 (some (cmdTag s c)) s))) ∧
        (isGranted s ctx hdl = true ∨ h.pinned = true → exec (.handleEvict c) s = .next (reply c 3 0#64 s)))) ∧
    (let k := on (bfield (w 5) 5 0)
      let u := freeSlot c.slot s
      accepts c 0x08 0 .both [-1#64, -1#64, -1#64, 0x3F#64] s = true → nameOk u k (w 2).toNat = true →
      (getCtx s k).isSome = true → (w 4).toNat ≤ 16 → (w 3).toNat % 32 = 0 → ∀ l b gs hs ps v,
      u.launches.find? (fun l => l.ctx == k && l.addr == w 2 && l.started) = some l →
      (if (w 4).toNat = 0 then some [] else ctxRead u k (w 3).toNat (32 * (w 4).toNat)) = some b →
      readGrants b (w 4).toNat = some gs → unowned u (grantLines u k gs) = true →
      allGrants u k gs = some (hs, ps) → promote k hs u = some v →
      exec (.grant c) s = .next (reply c 0 0#64 (extendGrants l.lid hs ps (bring k (grantLines u k gs) v))))

/-- R395, R403, R406 to R410 and R419 to R423: what each DEBUG, QUOTE, POWERCAP, COUNTERS and KEYSET command does when it is
accepted and its operands keep their limits. What the manual leaves open of these commands is the model's choice (log 29, log
33, log 36), and what it leaves open of quotes is log 60. -/
def Obligations.AdminCommands : Prop :=
  ∀ (c : Cmd) (s : State),
    let w := Cmd.word c
    let k := (w 2).toNat
    let debug := fun (form : Nat) (used : List W64) => accepts c 0x0A form .admin (0x3F#64 :: used) s = true
    let set := fun (i : Instr) (t : State) (f : Ctx → Ctx) => exec i s = .next (reply c 0 0#64 (updCtx t k f))
    (∀ x, getCtx s k = some x →
      (debug 0 [-1#64] → (w 3).toNat % 64 = 0 → x.rights.testBit 2 = true → x.attached = false →
        viaOk s (some k) (w 3).toNat 64 true true = true →
        set (.debugAttach c) s (fun y => { y with attached := true, buffer := w 3 })) ∧
      (debug 1 [] → (∀ y ∈ allCrews s, y.ctx = k → y.stop = none) →
        set (.debugDetach c) s (fun y => { y with attached := false, buffer := 0#64 })) ∧
      (debug 2 [0x107#64, -1#64] → (w 4).toNat % 4 = 0 → ((w 3).getLsbD 8 = true → (walk s k (w 4).toNat).isSome = true) →
        set (.debugPcBreakpoint c) s (fun y => { y with
          bps := cset none y.bps (bfield (w 3) 2 0) (if (w 3).getLsbD 8 then some (w 4) else none) })) ∧
      (debug 3 [0x703#64, -1#64, -1#64] → bfield (w 3) 10 9 ≠ 0 →
        ((w 3).getLsbD 8 = true → nameOk s k (w 4).toNat = true ∧
          ((w 5).toNat ≤ (w 4).toNat ∨ nameOk s k ((w 5).toNat - 1) = true)) →
        let wp : Watch := { on := (w 3).getLsbD 8, kind := bfield (w 3) 10 9, base := (w 4).toNat, limit := (w 5).toNat }
        set (.debugWatchpoint c) s (fun y => { y with watches := cset Watch.none y.watches (bfield (w 3) 1 0) wp })) ∧
      (debug 4 [-1#64, 0x0000FFFFFFFFFFFF#64] → ∀ y, (namedCrews c s).find? (fun x => x.cond != .waiting) = some y →
        y.cond = .resident → exec (.debugStopCrew c) s = .next (stopResident c y s)) ∧
      (debug 5 [-1#64, 0x0000FFFFFFFFFFFF#64, 0x1FF1#64] → ∀ y, (namedCrews c s).find? (fun x => x.cond == .stopped) = some y →
        exec (.debugResumeCrew c) s = .next (reply c 0 0#64 (updCrew s y.cid (resumeStopped
          (if (w 5).getLsbD 0 then some (bfield (w 5) 8 4, bfield (w 5) 12 9) else none))))) ∧
      (debug 6 [0x11F#64, 0x00000000FFFFFFFF#64] → 8 ≤ bfield (w 3) 4 0 → bfield (w 3) 4 0 ≤ 24 → w 4 ≠ 0#64 →
        set (.debugEmber c) (if (w 3).getLsbD 8 then seedEmber (bfield (w 3) 4 0) ((w 4).setWidth 32) s else s)
          (fun y => { y with emberOn := (w 3).getLsbD 8, emberK := bfield (w 3) 4 0 })) ∧
      (debug 7 [-1#64] → (w 3).toNat % 65536 = 0 →
        (w 3 ≠ 0#64 → rangeOk s (some k) (w 3).toNat 196608 true true = true) →
        set (.debugGrist c) s (fun y => { y with grist := w 3 }))) ∧
    (accepts c 0x0A 8 .admin [-1#64, -1#64] s = true → (w 3 ≠ 0#64 → rangeOk s none k (w 3).toNat false false = true) →
      ∃ t, exec (.debugIcinv c) s = .next t ∧ t.icinvs = s.icinvs ++ [cmdTag s c] ∧ (getSlot t c.slot).held = some [] ∧
        (∀ core pa x, cget none (getCore t core).icache pa = some x → pa < k + (w 3).toNat → pa + 4 ≤ k) ∧
        t.part = s.part ∧ t.memsys = s.memsys) ∧
    (accepts c 0x0B 0 .both [-1#64, -1#64, -1#64, -1#64, -1#64] s = true → (w 6).toNat % 64 = 0 →
      rangeOk s (cmdVia s c) (w 6).toNat 17440 false true = true →
      exec (.quote c) s = .next (reply c 0 17440#64 (putOut (cmdVia s c) (w 6).toNat
        (quoteBytes (wordsBytes [w 2, w 3, w 4, w 5]) s)
        { s with free := s.free + 1 }))) ∧
    (accepts c 0x0B 1 .admin [-1#64, -1#64, -1#64, -1#64, -1#64] s = true → 3 ≤ k → k ≤ 7 →
      exec (.quoteExtend c) s = .next (reply c 0 0#64 { s with pkg := { s.pkg with
        meas := cset [] s.pkg.meas k (sha256 (measOf s k ++ wordsBytes [w 3, w 4, w 5, w 6])) } })) ∧
    (accepts c 0x0C 0 .admin [-1#64, -1#64, -1#64] s = true →
      exec (.powercap c) s = .next (reply c 0 0#64 (acceptCap { seq := w 2, watts := w 3, expiry := w 4 } s))) ∧
    (let on := actsOn s c (bfield (w 5) 5 0)
      ∀ x, getCtx s on = some x →
        accepts c 0x0D 0 .both [-1#64, 0#64, -1#64, 0x3F#64] s = true →
        exec (.countersAccount c) s = .next
          (putCounters c (some on) ((List.range 5).flatMap (fun i => leBytes 8 (x.account[i]?.getD 0))) s)) ∧
    (∀ x, lampReg s k = some x →
      (accepts c 0x0D 1 .admin [-1#64, 0#64, 0#64, 0x3F#64] s = true → exec (.countersReadRegister c) s = .next (reply c 0 x s)) ∧
      (accepts c 0x0D 2 .admin [-1#64, -1#64, 0#64, 0x3F#64] s = true →
        exec (.countersWriteRegister c) s = .next (reply c 0 (w 3) (writeLampReg k (w 3) s)))) ∧
    (accepts c 0x0D 3 .both [-1#64, 0#64, -1#64, 0x3F#64] s = true →
      exec (.countersLifetime c) s = .next (putCounters c (cmdVia s c) (lifeBytes s) s)) ∧
    (accepts c 0x0E 0 .admin [-1#64, -1#64] s = true → 1 ≤ k → k < 1024 →
      ∀ b, viaRead s none (w 3).toNat 64 = some b →
        exec (.keyset c) s = .next (reply c 0 0#64 { s with pkg := { s.pkg with keys := cset [] s.pkg.keys k b } }))
end

