-- ==== Sys2Proof/Laws/Cells.lean ====
section
/-! SUPPORT. Canonical maps: what a read after a write gives, and that every change keeps the canonical form. -/

namespace Sys2Proof.Machine

variable {α : Type}

/-! ### Reads after writes -/

theorem cget_filter_ne (d : α) (m : Cells α) (n k : Nat) :
    cget d (m.filter (fun e => e.1 != n)) k = if k = n then d else cget d m k := by
  induction m with
  | nil => simp [cget]
  | cons e t ih =>
    obtain ⟨a, v⟩ := e
    by_cases h : a = n
    · subst h; simp [cget, ih]; split <;> simp_all
    · simp only [bne_iff_ne, ne_eq, h, not_false_eq_true, List.filter_cons_of_pos, cget, ih]
      split <;> split <;> simp_all

theorem cget_cput (d : α) (m : Cells α) (n k : Nat) (x : α) :
    cget d (cput n x m) k = if k = n then x else cget d m k := by
  induction m with
  | nil => simp [cput, cget]
  | cons e t ih =>
    obtain ⟨a, v⟩ := e
    simp only [cput]
    split
    · simp only [cget]
    · split
      · subst_vars; simp only [cget]; split <;> simp_all
      · simp only [cget, ih]; split <;> split <;> simp_all

/-- A read after a write. -/
theorem cget_cset [DecidableEq α] (d : α) (m : Cells α) (n k : Nat) (x : α) :
    cget d (cset d m n x) k = if k = n then x else cget d m k := by
  unfold cset
  split
  · subst_vars; exact cget_filter_ne _ m n k
  · exact cget_cput d m n k x

@[simp] theorem cget_cset_same [DecidableEq α] (d : α) (m : Cells α) (n : Nat) (x : α) :
    cget d (cset d m n x) n = x := by simp [cget_cset]

theorem cget_cset_ne [DecidableEq α] (d : α) (m : Cells α) {n k : Nat} (x : α) (h : k ≠ n) :
    cget d (cset d m n x) k = cget d m k := by simp [cget_cset, h]

/-- A read after a write of consecutive keys. -/
theorem cget_csetList [DecidableEq α] (d : α) (l : List α) :
    ∀ (m : Cells α) (k n : Nat),
      cget d (csetList d m k l) n = if k ≤ n ∧ n < k + l.length then (l[n - k]?).getD d else cget d m n := by
  induction l with
  | nil => intro m k n; rw [if_neg (by simp only [List.length_nil]; omega)]; rfl
  | cons x t ih =>
    intro m k n
    simp only [csetList, ih, cget_cset, List.length_cons]
    by_cases h1 : n = k
    · subst h1; rw [if_neg (by omega), if_pos rfl, if_pos (by omega)]; simp
    · by_cases h2 : k + 1 ≤ n ∧ n < k + 1 + t.length
      · have : n - k = n - (k + 1) + 1 := by omega
        rw [if_pos h2, if_pos (by omega), this]; simp
      · rw [if_neg h2, if_neg h1, if_neg (by omega)]

/-! ### The canonical form -/

theorem cwfFrom_mono [DecidableEq α] {d : α} {m : Cells α} {lo lo' : Nat} (h : lo' ≤ lo) :
    cwfFrom d lo m = true → cwfFrom d lo' m = true := by
  cases m with
  | nil => simp [cwfFrom]
  | cons e t =>
    obtain ⟨k, v⟩ := e
    simp only [cwfFrom, Bool.and_eq_true, decide_eq_true_eq]
    exact fun hw => ⟨⟨Nat.le_trans h hw.1.1, hw.1.2⟩, hw.2⟩

theorem cwfFrom_filter [DecidableEq α] {d : α} (p : Nat × α → Bool) :
    ∀ {m : Cells α} {lo : Nat}, cwfFrom d lo m = true → cwfFrom d lo (m.filter p) = true
  | [], _, h => by simpa using h
  | (k, v) :: t, lo, h => by
    simp only [cwfFrom, Bool.and_eq_true, decide_eq_true_eq] at h
    have ih := cwfFrom_filter p h.2
    simp only [List.filter_cons]
    split
    · simp [cwfFrom, h.1.1, h.1.2, ih]
    · exact cwfFrom_mono (by omega) ih

theorem cwfFrom_cput [DecidableEq α] {d x : α} (hx : x ≠ d) {n : Nat} :
    ∀ {m : Cells α} {lo : Nat}, lo ≤ n → cwfFrom d lo m = true → cwfFrom d lo (cput n x m) = true
  | [], lo, h, _ => by simp [cput, cwfFrom, h, hx]
  | (k, v) :: t, lo, hn, h => by
    simp only [cwfFrom, Bool.and_eq_true, decide_eq_true_eq] at h
    simp only [cput]
    split
    · simp only [cwfFrom, Bool.and_eq_true, decide_eq_true_eq]
      exact ⟨⟨hn, hx⟩, ⟨by omega, h.1.2⟩, h.2⟩
    · split
      · subst_vars; simp only [cwfFrom, Bool.and_eq_true, decide_eq_true_eq]; exact ⟨⟨hn, hx⟩, h.2⟩
      · simp only [cwfFrom, Bool.and_eq_true, decide_eq_true_eq]
        exact ⟨h.1, cwfFrom_cput hx (by omega) h.2⟩

/-- A write keeps the canonical form. -/
theorem cwf_cset [DecidableEq α] {d : α} {m : Cells α} (n : Nat) (x : α) (h : cwf d m = true) :
    cwf d (cset d m n x) = true := by
  unfold cset
  split
  · exact cwfFrom_filter _ h
  · exact cwfFrom_cput ‹_› (Nat.zero_le _) h

/-- Dropping entries keeps the canonical form. -/
theorem cwf_filter [DecidableEq α] {d : α} {m : Cells α} (p : Nat × α → Bool) (h : cwf d m = true) :
    cwf d (m.filter p) = true := cwfFrom_filter p h

/-- A write of consecutive keys keeps the canonical form. -/
theorem cwf_csetList [DecidableEq α] {d : α} :
    ∀ (l : List α) {m : Cells α} (k : Nat), cwf d m = true → cwf d (csetList d m k l) = true
  | [], _, _, h => h
  | _ :: t, _, k, h => cwf_csetList t (k + 1) (cwf_cset k _ h)

/-- Equal reads of canonical maps make equal maps. -/
theorem cwf_ext_from [DecidableEq α] {d : α} :
    ∀ {m n : Cells α} {lo : Nat}, cwfFrom d lo m = true → cwfFrom d lo n = true →
      (∀ k, lo ≤ k → cget d m k = cget d n k) → m = n
  | [], [], _, _, _, _ => rfl
  | [], (k, v) :: t, lo, _, hn, h => by
    simp only [cwfFrom, Bool.and_eq_true, decide_eq_true_eq] at hn
    have := h k hn.1.1
    simp [cget] at this
    exact absurd this.symm hn.1.2
  | (k, v) :: t, [], lo, hm, _, h => by
    simp only [cwfFrom, Bool.and_eq_true, decide_eq_true_eq] at hm
    have := h k hm.1.1
    simp [cget] at this
    exact absurd this hm.1.2
  | (k, v) :: t, (j, w) :: u, lo, hm, hn, h => by
    simp only [cwfFrom, Bool.and_eq_true, decide_eq_true_eq] at hm hn
    have low : ∀ {lo k : Nat} {m : Cells α}, cwfFrom d lo m = true → k < lo → cget d m k = d := by
      intro lo k m
      induction m generalizing lo with
      | nil => simp [cget]
      | cons e t ih =>
        obtain ⟨a, x⟩ := e
        intro hw hk
        simp only [cwfFrom, Bool.and_eq_true, decide_eq_true_eq] at hw
        simp only [cget, show k ≠ a from by omega, if_false]
        exact ih hw.2 (by omega)
    have hkj : k = j := by
      rcases Nat.lt_trichotomy k j with hlt | heq | hgt
      · have h1 := h k hm.1.1
        have h2 : cget d u k = d := low hn.2 (by omega)
        simp [cget, h2, show k ≠ j from by omega] at h1
        exact absurd h1 hm.1.2
      · exact heq
      · have h1 := h j hn.1.1
        have h2 : cget d t j = d := low hm.2 (by omega)
        simp [cget, h2, show j ≠ k from by omega] at h1
        exact absurd h1.symm hn.1.2
    subst hkj
    have hv := h k hm.1.1
    simp [cget] at hv
    subst hv
    congr 1
    refine cwf_ext_from hm.2 hn.2 (fun i hi => ?_)
    have := h i (by omega)
    simpa [cget, show i ≠ k from by omega] using this

end Sys2Proof.Machine
end

