-- ==== Sys2Proof/Laws/Encoding.lean ====
section
/-! SUPPORT. The fields of encoded words: each field that the decoder reads is the field that the encoder wrote. -/

namespace Sys2Proof

/-- A field read back from a sum whose parts stand at their places. -/
theorem bitsAt_ofNat {n x : Nat} (lo : Nat) (h : x < 2 ^ 32) :
    bitsAt (BitVec.ofNat 32 x) lo n = BitVec.ofNat n (x / 2 ^ lo) := by
  simp only [bitsAt, BitVec.toNat_ofNat, Nat.mod_eq_of_lt h]

section
variable (maj fn : Nat) (r : Run) (d a b : BitVec 7) (hm : maj < 32) (hf : fn < 16)

theorem wRRR_lt (hm : maj < 32) (hf : fn < 16) :
    maj * 2 ^ 27 + r.stl.toNat * 2 ^ 25 + d.toNat * 2 ^ 18 + a.toNat * 2 ^ 11 + b.toNat * 2 ^ 4 + fn < 2 ^ 32 := by
  have := r.stl.isLt; have := d.isLt; have := a.isLt; have := b.isLt; omega

include hm hf

theorem fMaj_wRRR : fMaj (wRRR maj r d a b fn) = BitVec.ofNat 5 maj := by
  have := wRRR_lt maj fn r d a b hm hf
  have := r.stl.isLt; have := d.isLt; have := a.isLt; have := b.isLt
  rw [fMaj, wRRR, bitsAt_ofNat _ ‹_›]; congr 1; omega

theorem fStl_wRRR : fStl (wRRR maj r d a b fn) = r.stl := by
  have := wRRR_lt maj fn r d a b hm hf
  have := r.stl.isLt; have := d.isLt; have := a.isLt; have := b.isLt
  rw [fStl, wRRR, bitsAt_ofNat _ ‹_›]; apply BitVec.eq_of_toNat_eq; simp only [BitVec.toNat_ofNat]; omega

theorem fD_wRRR : fD (wRRR maj r d a b fn) = d := by
  have := wRRR_lt maj fn r d a b hm hf
  have := r.stl.isLt; have := d.isLt; have := a.isLt; have := b.isLt
  rw [fD, wRRR, bitsAt_ofNat _ ‹_›]; apply BitVec.eq_of_toNat_eq; simp only [BitVec.toNat_ofNat]; omega

theorem fA_wRRR : fA (wRRR maj r d a b fn) = a := by
  have := wRRR_lt maj fn r d a b hm hf
  have := r.stl.isLt; have := d.isLt; have := a.isLt; have := b.isLt
  rw [fA, wRRR, bitsAt_ofNat _ ‹_›]; apply BitVec.eq_of_toNat_eq; simp only [BitVec.toNat_ofNat]; omega

theorem fB_wRRR : fB (wRRR maj r d a b fn) = b := by
  have := wRRR_lt maj fn r d a b hm hf
  have := r.stl.isLt; have := d.isLt; have := a.isLt; have := b.isLt
  rw [fB, wRRR, bitsAt_ofNat _ ‹_›]; apply BitVec.eq_of_toNat_eq; simp only [BitVec.toNat_ofNat]; omega

theorem fFn_wRRR : fFn (wRRR maj r d a b fn) = BitVec.ofNat 4 fn := by
  have := wRRR_lt maj fn r d a b hm hf
  have := r.stl.isLt; have := d.isLt; have := a.isLt; have := b.isLt
  rw [fFn, wRRR, bitsAt_ofNat _ ‹_›]; apply BitVec.eq_of_toNat_eq; simp only [BitVec.toNat_ofNat]; omega

end

section
variable (r : Run) (cond : Nat) (reg : BitVec 4) (o : BitVec 18) (hc : cond < 8)

theorem wBR_lt (hc : cond < 8) :
    1 * 2 ^ 27 + r.stl.toNat * 2 ^ 25 + cond * 2 ^ 22 + reg.toNat * 2 ^ 18 + o.toNat < 2 ^ 32 := by
  have := r.stl.isLt; have := reg.isLt; have := o.isLt; omega

include hc

theorem fMaj_wBR : fMaj (wBR r cond reg o) = 1#5 := by
  have := wBR_lt r cond reg o hc
  have := r.stl.isLt; have := reg.isLt; have := o.isLt
  rw [fMaj, wBR, bitsAt_ofNat _ ‹_›]; apply BitVec.eq_of_toNat_eq; simp only [BitVec.toNat_ofNat]; omega

theorem fStl_wBR : fStl (wBR r cond reg o) = r.stl := by
  have := wBR_lt r cond reg o hc
  have := r.stl.isLt; have := reg.isLt; have := o.isLt
  rw [fStl, wBR, bitsAt_ofNat _ ‹_›]; apply BitVec.eq_of_toNat_eq; simp only [BitVec.toNat_ofNat]; omega

theorem fCond_wBR : fCond (wBR r cond reg o) = BitVec.ofNat 3 cond := by
  have := wBR_lt r cond reg o hc
  have := r.stl.isLt; have := reg.isLt; have := o.isLt
  rw [fCond, wBR, bitsAt_ofNat _ ‹_›]; apply BitVec.eq_of_toNat_eq; simp only [BitVec.toNat_ofNat]; omega

theorem fReg_wBR : fReg (wBR r cond reg o) = reg := by
  have := wBR_lt r cond reg o hc
  have := r.stl.isLt; have := reg.isLt; have := o.isLt
  rw [fReg, wBR, bitsAt_ofNat _ ‹_›]; apply BitVec.eq_of_toNat_eq; simp only [BitVec.toNat_ofNat]; omega

theorem fOff_wBR : fOff (wBR r cond reg o) = o := by
  have := wBR_lt r cond reg o hc
  have := r.stl.isLt; have := reg.isLt; have := o.isLt
  rw [fOff, wBR, bitsAt_ofNat _ ‹_›]; apply BitVec.eq_of_toNat_eq; simp only [BitVec.toNat_ofNat]; omega

end

section
variable (r : Run) (d : BitVec 7) (l : BitVec 2) (i : BitVec 16)

theorem wLI_lt : 6 * 2 ^ 27 + r.stl.toNat * 2 ^ 25 + d.toNat * 2 ^ 18 + l.toNat * 2 ^ 16 + i.toNat < 2 ^ 32 := by
  have := r.stl.isLt; have := d.isLt; have := l.isLt; have := i.isLt; omega

theorem fMaj_wLI : fMaj (wLI r d l i) = 6#5 := by
  have := wLI_lt r d l i
  have := r.stl.isLt; have := d.isLt; have := l.isLt; have := i.isLt
  rw [fMaj, wLI, bitsAt_ofNat _ ‹_›]; apply BitVec.eq_of_toNat_eq; simp only [BitVec.toNat_ofNat]; omega

theorem fStl_wLI : fStl (wLI r d l i) = r.stl := by
  have := wLI_lt r d l i
  have := r.stl.isLt; have := d.isLt; have := l.isLt; have := i.isLt
  rw [fStl, wLI, bitsAt_ofNat _ ‹_›]; apply BitVec.eq_of_toNat_eq; simp only [BitVec.toNat_ofNat]; omega

theorem fD_wLI : fD (wLI r d l i) = d := by
  have := wLI_lt r d l i
  have := r.stl.isLt; have := d.isLt; have := l.isLt; have := i.isLt
  rw [fD, wLI, bitsAt_ofNat _ ‹_›]; apply BitVec.eq_of_toNat_eq; simp only [BitVec.toNat_ofNat]; omega

theorem fSlot_wLI : fSlot (wLI r d l i) = l := by
  have := wLI_lt r d l i
  have := r.stl.isLt; have := d.isLt; have := l.isLt; have := i.isLt
  rw [fSlot, wLI, bitsAt_ofNat _ ‹_›]; apply BitVec.eq_of_toNat_eq; simp only [BitVec.toNat_ofNat]; omega

theorem fImm16_wLI : fImm16 (wLI r d l i) = i := by
  have := wLI_lt r d l i
  have := r.stl.isLt; have := d.isLt; have := l.isLt; have := i.isLt
  rw [fImm16, wLI, bitsAt_ofNat _ ‹_›]; apply BitVec.eq_of_toNat_eq; simp only [BitVec.toNat_ofNat]; omega

end

section
variable (r : Run) (d a : BitVec 7) (wc : BitVec 3) (f fn : Nat) (hv : f < 16) (hf : fn < 16)

theorem wVXL_lt (hv : f < 16) (hf : fn < 16) :
    14 * 2 ^ 27 + r.stl.toNat * 2 ^ 25 + d.toNat * 2 ^ 18 + a.toNat * 2 ^ 11 + wc.toNat * 2 ^ 8 + f * 2 ^ 4 + fn < 2 ^ 32 := by
  have := r.stl.isLt; have := d.isLt; have := a.isLt; have := wc.isLt; omega

include hv hf

theorem fMaj_wVXL : fMaj (wVXL r d a wc f fn) = 14#5 := by
  have := wVXL_lt r d a wc f fn hv hf
  have := r.stl.isLt; have := d.isLt; have := a.isLt; have := wc.isLt
  rw [fMaj, wVXL, bitsAt_ofNat _ ‹_›]; apply BitVec.eq_of_toNat_eq; simp only [BitVec.toNat_ofNat]; omega

theorem fStl_wVXL : fStl (wVXL r d a wc f fn) = r.stl := by
  have := wVXL_lt r d a wc f fn hv hf
  have := r.stl.isLt; have := d.isLt; have := a.isLt; have := wc.isLt
  rw [fStl, wVXL, bitsAt_ofNat _ ‹_›]; apply BitVec.eq_of_toNat_eq; simp only [BitVec.toNat_ofNat]; omega

theorem fD_wVXL : fD (wVXL r d a wc f fn) = d := by
  have := wVXL_lt r d a wc f fn hv hf
  have := r.stl.isLt; have := d.isLt; have := a.isLt; have := wc.isLt
  rw [fD, wVXL, bitsAt_ofNat _ ‹_›]; apply BitVec.eq_of_toNat_eq; simp only [BitVec.toNat_ofNat]; omega

theorem fA_wVXL : fA (wVXL r d a wc f fn) = a := by
  have := wVXL_lt r d a wc f fn hv hf
  have := r.stl.isLt; have := d.isLt; have := a.isLt; have := wc.isLt
  rw [fA, wVXL, bitsAt_ofNat _ ‹_›]; apply BitVec.eq_of_toNat_eq; simp only [BitVec.toNat_ofNat]; omega

theorem fWc_wVXL : fWc (wVXL r d a wc f fn) = wc := by
  have := wVXL_lt r d a wc f fn hv hf
  have := r.stl.isLt; have := d.isLt; have := a.isLt; have := wc.isLt
  rw [fWc, wVXL, bitsAt_ofNat _ ‹_›]; apply BitVec.eq_of_toNat_eq; simp only [BitVec.toNat_ofNat]; omega

theorem fF_wVXL : fF (wVXL r d a wc f fn) = BitVec.ofNat 4 f := by
  have := wVXL_lt r d a wc f fn hv hf
  have := r.stl.isLt; have := d.isLt; have := a.isLt; have := wc.isLt
  rw [fF, wVXL, bitsAt_ofNat _ ‹_›]; apply BitVec.eq_of_toNat_eq; simp only [BitVec.toNat_ofNat]; omega

theorem fE_wVXL : fE (wVXL r d a wc f fn) = BitVec.ofNat 1 f := by
  have := wVXL_lt r d a wc f fn hv hf
  have := r.stl.isLt; have := d.isLt; have := a.isLt; have := wc.isLt
  rw [fE, wVXL, bitsAt_ofNat _ ‹_›]; apply BitVec.eq_of_toNat_eq; simp only [BitVec.toNat_ofNat]; omega

theorem fHigh_wVXL : (bitsAt (wVXL r d a wc f fn) 5 3 : BitVec 3) = BitVec.ofNat 3 (f / 2) := by
  have := wVXL_lt r d a wc f fn hv hf
  have := r.stl.isLt; have := d.isLt; have := a.isLt; have := wc.isLt
  rw [wVXL, bitsAt_ofNat _ ‹_›]; apply BitVec.eq_of_toNat_eq; simp only [BitVec.toNat_ofNat]; omega

theorem fFn_wVXL : fFn (wVXL r d a wc f fn) = BitVec.ofNat 4 fn := by
  have := wVXL_lt r d a wc f fn hv hf
  have := r.stl.isLt; have := d.isLt; have := a.isLt; have := wc.isLt
  rw [fFn, wVXL, bitsAt_ofNat _ ‹_›]; apply BitVec.eq_of_toNat_eq; simp only [BitVec.toNat_ofNat]; omega

end

/-- A hint word decodes to the hint it encodes, and is a hint word. -/
theorem decodeHint_encodeHint (h : Hint) : decodeHint (encodeHint h) = h ∧ isHint (encodeHint h) = true := by
  obtain ⟨k, p⟩ := h
  have hk := k.isLt
  have hp := p.isLt
  have hlt : 31 * 2 ^ 27 + k.toNat * 2 ^ 24 + p.toNat < 2 ^ 32 := by omega
  constructor
  · simp only [decodeHint, encodeHint, bitsAt_ofNat _ hlt, Hint.mk.injEq]
    constructor <;> apply BitVec.eq_of_toNat_eq <;> simp only [BitVec.toNat_ofNat] <;> omega
  · simp only [isHint, fMaj, encodeHint, bitsAt_ofNat _ hlt, beq_iff_eq]
    apply BitVec.eq_of_toNat_eq; simp only [BitVec.toNat_ofNat]; omega

/-- The bytes of a word give the word back. -/
theorem wordOfBytes_bytesOfWord (w : W32) :
    wordOfBytes (BitVec.ofNat 8 w.toNat) (BitVec.ofNat 8 (w.toNat / 2 ^ 8)) (BitVec.ofNat 8 (w.toNat / 2 ^ 16))
      (BitVec.ofNat 8 (w.toNat / 2 ^ 24)) = w := by
  apply BitVec.eq_of_toNat_eq
  have := w.isLt
  simp only [wordOfBytes, BitVec.toNat_ofNat]
  omega

end Sys2Proof
end

