-- ==== Sys2Proof/Laws/Exec.lean ====
section
/-! SUPPORT. What `exec` runs for each instruction. -/

set_option Elab.async false

namespace Sys2Proof.Machine

theorem exec_nop (r : Run) (s : State) : exec (.nop r) s = execNop r s := rfl
theorem exec_trap (r : Run) (n : BitVec 7) (s : State) : exec (.trap r n) s = execTrap r n s := rfl
theorem exec_brk (r : Run) (n : BitVec 7) (s : State) : exec (.brk r n) s = execBrk r n s := rfl
theorem exec_xret (r : Run) (s : State) : exec (.xret r) s = execXret r s := rfl
theorem exec_mvfs (r : Run) (d n : BitVec 7) (s : State) : exec (.mvfs r d n) s = execMvfs r d n s := rfl
theorem exec_mvts (r : Run) (a n : BitVec 7) (s : State) : exec (.mvts r a n) s = execMvts r a n s := rfl
theorem exec_ptab (r : Run) (d a k : BitVec 7) (s : State) : exec (.ptab r d a k) s = execPtab r d a k s := rfl
theorem exec_waitcy (r : Run) (a : BitVec 7) (s : State) : exec (.waitcy r a) s = execWaitcy r a s := rfl
theorem exec_time (r : Run) (d : BitVec 7) (s : State) : exec (.time r d) s = execTime r d s := rfl
theorem exec_icinv (r : Run) (a b : BitVec 7) (s : State) : exec (.icinv r a b) s = execIcinv r a b s := rfl
theorem exec_stop (r : Run) (s : State) : exec (.stop r) s = execStop r s := rfl
theorem exec_vrget (r : Run) (d a b : BitVec 7) (s : State) : exec (.vrget r d a b) s = execVrget r d a b s := rfl
theorem exec_vrset (r : Run) (d a b : BitVec 7) (s : State) : exec (.vrset r d a b) s = execVrset r d a b s := rfl
theorem exec_sfq (r : Run) (d a : BitVec 7) (s : State) : exec (.sfq r d a) s = execSfq r d a s := rfl
theorem exec_killc (r : Run) (a : BitVec 7) (s : State) : exec (.killc r a) s = execKillc r a s := rfl
theorem exec_dumpc (r : Run) (d a b : BitVec 7) (s : State) : exec (.dumpc r d a b) s = execDumpc r d a b s := rfl
theorem exec_b (r : Run) (o : BitVec 18) (s : State) : exec (.b r o) s = execB r o s := rfl
theorem exec_call (r : Run) (o : BitVec 18) (s : State) : exec (.call r o) s = execCall r o s := rfl
theorem exec_bz (r : Run) (reg : BitVec 4) (o : BitVec 18) (s : State) : exec (.bz r reg o) s = execBz r reg o s := rfl
theorem exec_bnz (r : Run) (reg : BitVec 4) (o : BitVec 18) (s : State) : exec (.bnz r reg o) s = execBnz r reg o s :=
  rfl
theorem exec_bneg (r : Run) (reg : BitVec 4) (o : BitVec 18) (s : State) : exec (.bneg r reg o) s = execBneg r reg o s :=
  rfl
theorem exec_bany (r : Run) (reg : BitVec 4) (o : BitVec 18) (s : State) : exec (.bany r reg o) s = execBany r reg o s :=
  rfl
theorem exec_ball (r : Run) (reg : BitVec 4) (o : BitVec 18) (s : State) : exec (.ball r reg o) s = execBall r reg o s :=
  rfl
theorem exec_bdiv (r : Run) (reg : BitVec 4) (o : BitVec 18) (s : State) : exec (.bdiv r reg o) s = execBdiv r reg o s :=
  rfl
theorem exec_join (r : Run) (j : BitVec 7) (s : State) : exec (.join r j) s = execJoin r j s := rfl
theorem exec_fuse (r : Run) (w : BitVec 7) (s : State) : exec (.fuse r w) s = execFuse r w s := rfl
theorem exec_splitctl (r : Run) (f : BitVec 7) (s : State) : exec (.splitctl r f) s = execSplitctl r f s := rfl
theorem exec_exit (r : Run) (s : State) : exec (.exit r) s = execExit r s := rfl
theorem exec_ret (r : Run) (s : State) : exec (.ret r) s = execRet r s := rfl
theorem exec_jr (r : Run) (a : BitVec 7) (s : State) : exec (.jr r a) s = execJr r a s := rfl
theorem exec_vxopen (r : Run) (e : BitVec 7) (s : State) : exec (.vxopen r e) s = execVxopen r e s := rfl
theorem exec_vxclose (r : Run) (s : State) : exec (.vxclose r) s = execVxclose r s := rfl
theorem exec_exmget (r : Run) (d : BitVec 7) (s : State) : exec (.exmget r d) s = execExmget r d s := rfl
theorem exec_exmset (r : Run) (a : BitVec 7) (s : State) : exec (.exmset r a) s = execExmset r a s := rfl
theorem exec_mkff (r : Run) (d : BitVec 7) (s : State) : exec (.mkff r d) s = execMkff r d s := rfl
theorem exec_yield (r : Run) (s : State) : exec (.yield r) s = execYield r s := rfl
theorem exec_sadd (r : Run) (d a b : BitVec 7) (s : State) : exec (.sadd r d a b) s = execSadd r d a b s := rfl
theorem exec_ssub (r : Run) (d a b : BitVec 7) (s : State) : exec (.ssub r d a b) s = execSsub r d a b s := rfl
theorem exec_smul (r : Run) (d a b : BitVec 7) (s : State) : exec (.smul r d a b) s = execSmul r d a b s := rfl
theorem exec_smulh (r : Run) (d a b : BitVec 7) (s : State) : exec (.smulh r d a b) s = execSmulh r d a b s := rfl
theorem exec_sand (r : Run) (d a b : BitVec 7) (s : State) : exec (.sand r d a b) s = execSand r d a b s := rfl
theorem exec_sor (r : Run) (d a b : BitVec 7) (s : State) : exec (.sor r d a b) s = execSor r d a b s := rfl
theorem exec_sxor (r : Run) (d a b : BitVec 7) (s : State) : exec (.sxor r d a b) s = execSxor r d a b s := rfl
theorem exec_sshl (r : Run) (d a b : BitVec 7) (s : State) : exec (.sshl r d a b) s = execSshl r d a b s := rfl
theorem exec_sshr (r : Run) (d a b : BitVec 7) (s : State) : exec (.sshr r d a b) s = execSshr r d a b s := rfl
theorem exec_ssar (r : Run) (d a b : BitVec 7) (s : State) : exec (.ssar r d a b) s = execSsar r d a b s := rfl
theorem exec_smin (r : Run) (d a b : BitVec 7) (s : State) : exec (.smin r d a b) s = execSmin r d a b s := rfl
theorem exec_smax (r : Run) (d a b : BitVec 7) (s : State) : exec (.smax r d a b) s = execSmax r d a b s := rfl
theorem exec_sminn (r : Run) (d a b : BitVec 7) (s : State) : exec (.sminn r d a b) s = execSminn r d a b s := rfl
theorem exec_smaxn (r : Run) (d a b : BitVec 7) (s : State) : exec (.smaxn r d a b) s = execSmaxn r d a b s := rfl
theorem exec_sslt (r : Run) (d a b : BitVec 7) (s : State) : exec (.sslt r d a b) s = execSslt r d a b s := rfl
theorem exec_ssltn (r : Run) (d a b : BitVec 7) (s : State) : exec (.ssltn r d a b) s = execSsltn r d a b s := rfl
theorem exec_saddi (r : Run) (d a i : BitVec 7) (s : State) : exec (.saddi r d a i) s = execSaddi r d a i s := rfl
theorem exec_sandi (r : Run) (d a i : BitVec 7) (s : State) : exec (.sandi r d a i) s = execSandi r d a i s := rfl
theorem exec_sori (r : Run) (d a i : BitVec 7) (s : State) : exec (.sori r d a i) s = execSori r d a i s := rfl
theorem exec_sxori (r : Run) (d a i : BitVec 7) (s : State) : exec (.sxori r d a i) s = execSxori r d a i s := rfl
theorem exec_sshli (r : Run) (d a i : BitVec 7) (s : State) : exec (.sshli r d a i) s = execSshli r d a i s := rfl
theorem exec_sshri (r : Run) (d a i : BitVec 7) (s : State) : exec (.sshri r d a i) s = execSshri r d a i s := rfl
theorem exec_ssari (r : Run) (d a i : BitVec 7) (s : State) : exec (.ssari r d a i) s = execSsari r d a i s := rfl
theorem exec_sslti (r : Run) (d a i : BitVec 7) (s : State) : exec (.sslti r d a i) s = execSslti r d a i s := rfl
theorem exec_sclz (r : Run) (d a : BitVec 7) (s : State) : exec (.sclz r d a) s = execSclz r d a s := rfl
theorem exec_spopc (r : Run) (d a : BitVec 7) (s : State) : exec (.spopc r d a) s = execSpopc r d a s := rfl
theorem exec_sbfx (r : Run) (d a : BitVec 7) (s : State) : exec (.sbfx r d a) s = execSbfx r d a s := rfl
theorem exec_smov (r : Run) (d a : BitVec 7) (s : State) : exec (.smov r d a) s = execSmov r d a s := rfl
theorem exec_sld64 (r : Run) (d a b : BitVec 7) (s : State) : exec (.sld64 r d a b) s = execSld64 r d a b s := rfl
theorem exec_sld32 (r : Run) (d a b : BitVec 7) (s : State) : exec (.sld32 r d a b) s = execSld32 r d a b s := rfl
theorem exec_sst64 (r : Run) (d a b : BitVec 7) (s : State) : exec (.sst64 r d a b) s = execSst64 r d a b s := rfl
theorem exec_sst32 (r : Run) (d a b : BitVec 7) (s : State) : exec (.sst32 r d a b) s = execSst32 r d a b s := rfl
theorem exec_sli (r : Run) (d : BitVec 7) (l : BitVec 2) (i : BitVec 16) (s : State) : exec (.sli r d l i) s = execSli r d l i s :=
  rfl
theorem exec_vadd (r : Run) (d a b : BitVec 7) (s : State) : exec (.vadd r d a b) s = execVadd r d a b s := rfl
theorem exec_vsub (r : Run) (d a b : BitVec 7) (s : State) : exec (.vsub r d a b) s = execVsub r d a b s := rfl
theorem exec_vmul (r : Run) (d a b : BitVec 7) (s : State) : exec (.vmul r d a b) s = execVmul r d a b s := rfl
theorem exec_vmulh (r : Run) (d a b : BitVec 7) (s : State) : exec (.vmulh r d a b) s = execVmulh r d a b s := rfl
theorem exec_vmulhn (r : Run) (d a b : BitVec 7) (s : State) : exec (.vmulhn r d a b) s = execVmulhn r d a b s := rfl
theorem exec_vand (r : Run) (d a b : BitVec 7) (s : State) : exec (.vand r d a b) s = execVand r d a b s := rfl
theorem exec_vor (r : Run) (d a b : BitVec 7) (s : State) : exec (.vor r d a b) s = execVor r d a b s := rfl
theorem exec_vxor (r : Run) (d a b : BitVec 7) (s : State) : exec (.vxor r d a b) s = execVxor r d a b s := rfl
theorem exec_vshl (r : Run) (d a b : BitVec 7) (s : State) : exec (.vshl r d a b) s = execVshl r d a b s := rfl
theorem exec_vshr (r : Run) (d a b : BitVec 7) (s : State) : exec (.vshr r d a b) s = execVshr r d a b s := rfl
theorem exec_vsar (r : Run) (d a b : BitVec 7) (s : State) : exec (.vsar r d a b) s = execVsar r d a b s := rfl
theorem exec_vmin (r : Run) (d a b : BitVec 7) (s : State) : exec (.vmin r d a b) s = execVmin r d a b s := rfl
theorem exec_vmax (r : Run) (d a b : BitVec 7) (s : State) : exec (.vmax r d a b) s = execVmax r d a b s := rfl
theorem exec_vminn (r : Run) (d a b : BitVec 7) (s : State) : exec (.vminn r d a b) s = execVminn r d a b s := rfl
theorem exec_vmaxn (r : Run) (d a b : BitVec 7) (s : State) : exec (.vmaxn r d a b) s = execVmaxn r d a b s := rfl
theorem exec_vsel (r : Run) (d a b : BitVec 7) (s : State) : exec (.vsel r d a b) s = execVsel r d a b s := rfl
theorem exec_vmad (r : Run) (d a b : BitVec 7) (s : State) : exec (.vmad r d a b) s = execVmad r d a b s := rfl
theorem exec_vabs (r : Run) (d a : BitVec 7) (s : State) : exec (.vabs r d a) s = execVabs r d a s := rfl
theorem exec_vneg (r : Run) (d a : BitVec 7) (s : State) : exec (.vneg r d a) s = execVneg r d a s := rfl
theorem exec_vnot (r : Run) (d a : BitVec 7) (s : State) : exec (.vnot r d a) s = execVnot r d a s := rfl
theorem exec_vclz (r : Run) (d a : BitVec 7) (s : State) : exec (.vclz r d a) s = execVclz r d a s := rfl
theorem exec_vpopc (r : Run) (d a : BitVec 7) (s : State) : exec (.vpopc r d a) s = execVpopc r d a s := rfl
theorem exec_vbfx (r : Run) (d a : BitVec 7) (s : State) : exec (.vbfx r d a) s = execVbfx r d a s := rfl
theorem exec_vbfi (r : Run) (d a : BitVec 7) (s : State) : exec (.vbfi r d a) s = execVbfi r d a s := rfl
theorem exec_vbcst (r : Run) (d a : BitVec 7) (s : State) : exec (.vbcst r d a) s = execVbcst r d a s := rfl
theorem exec_vlane (r : Run) (d : BitVec 7) (s : State) : exec (.vlane r d) s = execVlane r d s := rfl
theorem exec_vmov (r : Run) (d a : BitVec 7) (s : State) : exec (.vmov r d a) s = execVmov r d a s := rfl
theorem exec_vadds (r : Run) (d a b : BitVec 7) (s : State) : exec (.vadds r d a b) s = execVadds r d a b s := rfl
theorem exec_vsubs (r : Run) (d a b : BitVec 7) (s : State) : exec (.vsubs r d a b) s = execVsubs r d a b s := rfl
theorem exec_vquad (r : Run) (d a : BitVec 7) (s : State) : exec (.vquad r d a) s = execVquad r d a s := rfl
theorem exec_vbrev (r : Run) (d a : BitVec 7) (s : State) : exec (.vbrev r d a) s = execVbrev r d a s := rfl
theorem exec_vaddi (r : Run) (d a i : BitVec 7) (s : State) : exec (.vaddi r d a i) s = execVaddi r d a i s := rfl
theorem exec_vandi (r : Run) (d a i : BitVec 7) (s : State) : exec (.vandi r d a i) s = execVandi r d a i s := rfl
theorem exec_vori (r : Run) (d a i : BitVec 7) (s : State) : exec (.vori r d a i) s = execVori r d a i s := rfl
theorem exec_vxori (r : Run) (d a i : BitVec 7) (s : State) : exec (.vxori r d a i) s = execVxori r d a i s := rfl
theorem exec_vshli (r : Run) (d a i : BitVec 7) (s : State) : exec (.vshli r d a i) s = execVshli r d a i s := rfl
theorem exec_vshri (r : Run) (d a i : BitVec 7) (s : State) : exec (.vshri r d a i) s = execVshri r d a i s := rfl
theorem exec_vsari (r : Run) (d a i : BitVec 7) (s : State) : exec (.vsari r d a i) s = execVsari r d a i s := rfl
theorem exec_vmuli (r : Run) (d a i : BitVec 7) (s : State) : exec (.vmuli r d a i) s = execVmuli r d a i s := rfl
theorem exec_fadd (r : Run) (d a b : BitVec 7) (s : State) : exec (.fadd r d a b) s = execFadd r d a b s := rfl
theorem exec_fsub (r : Run) (d a b : BitVec 7) (s : State) : exec (.fsub r d a b) s = execFsub r d a b s := rfl
theorem exec_fmul (r : Run) (d a b : BitVec 7) (s : State) : exec (.fmul r d a b) s = execFmul r d a b s := rfl
theorem exec_ffma (r : Run) (d a b : BitVec 7) (s : State) : exec (.ffma r d a b) s = execFfma r d a b s := rfl
theorem exec_ffms (r : Run) (d a b : BitVec 7) (s : State) : exec (.ffms r d a b) s = execFfms r d a b s := rfl
theorem exec_fnma (r : Run) (d a b : BitVec 7) (s : State) : exec (.fnma r d a b) s = execFnma r d a b s := rfl
theorem exec_fmin (r : Run) (d a b : BitVec 7) (s : State) : exec (.fmin r d a b) s = execFmin r d a b s := rfl
theorem exec_fmax (r : Run) (d a b : BitVec 7) (s : State) : exec (.fmax r d a b) s = execFmax r d a b s := rfl
theorem exec_fabs (r : Run) (d a : BitVec 7) (s : State) : exec (.fabs r d a) s = execFabs r d a s := rfl
theorem exec_fneg (r : Run) (d a : BitVec 7) (s : State) : exec (.fneg r d a) s = execFneg r d a s := rfl
theorem exec_fcps (r : Run) (d a b : BitVec 7) (s : State) : exec (.fcps r d a b) s = execFcps r d a b s := rfl
theorem exec_frnd (r : Run) (d a : BitVec 7) (s : State) : exec (.frnd r d a) s = execFrnd r d a s := rfl
theorem exec_ffrc (r : Run) (d a : BitVec 7) (s : State) : exec (.ffrc r d a) s = execFfrc r d a s := rfl
theorem exec_fscl (r : Run) (d a b : BitVec 7) (s : State) : exec (.fscl r d a b) s = execFscl r d a b s := rfl
theorem exec_fexn (r : Run) (d a : BitVec 7) (s : State) : exec (.fexn r d a) s = execFexn r d a s := rfl
theorem exec_frcp (r : Run) (d a : BitVec 7) (s : State) : exec (.frcp r d a) s = execFrcp r d a s := rfl
theorem exec_frsq (r : Run) (d a : BitVec 7) (s : State) : exec (.frsq r d a) s = execFrsq r d a s := rfl
theorem exec_fsqrt (r : Run) (d a : BitVec 7) (s : State) : exec (.fsqrt r d a) s = execFsqrt r d a s := rfl
theorem exec_fdiv (r : Run) (d a b : BitVec 7) (s : State) : exec (.fdiv r d a b) s = execFdiv r d a b s := rfl
theorem exec_fexp2 (r : Run) (d a : BitVec 7) (s : State) : exec (.fexp2 r d a) s = execFexp2 r d a s := rfl
theorem exec_flog2 (r : Run) (d a : BitVec 7) (s : State) : exec (.flog2 r d a) s = execFlog2 r d a s := rfl
theorem exec_fsin (r : Run) (d a : BitVec 7) (s : State) : exec (.fsin r d a) s = execFsin r d a s := rfl
theorem exec_fcos (r : Run) (d a : BitVec 7) (s : State) : exec (.fcos r d a) s = execFcos r d a s := rfl
theorem exec_ftanh (r : Run) (d a : BitVec 7) (s : State) : exec (.ftanh r d a) s = execFtanh r d a s := rfl
theorem exec_fcls (r : Run) (d a : BitVec 7) (s : State) : exec (.fcls r d a) s = execFcls r d a s := rfl
theorem exec_hadd (r : Run) (d a b : BitVec 7) (s : State) : exec (.hadd r d a b) s = execHadd r d a b s := rfl
theorem exec_hmul (r : Run) (d a b : BitVec 7) (s : State) : exec (.hmul r d a b) s = execHmul r d a b s := rfl
theorem exec_hfma (r : Run) (d a b : BitVec 7) (s : State) : exec (.hfma r d a b) s = execHfma r d a b s := rfl
theorem exec_badd (r : Run) (d a b : BitVec 7) (s : State) : exec (.badd r d a b) s = execBadd r d a b s := rfl
theorem exec_bmul (r : Run) (d a b : BitVec 7) (s : State) : exec (.bmul r d a b) s = execBmul r d a b s := rfl
theorem exec_bfma (r : Run) (d a b : BitVec 7) (s : State) : exec (.bfma r d a b) s = execBfma r d a b s := rfl
theorem exec_hdot (r : Run) (d a b : BitVec 7) (s : State) : exec (.hdot r d a b) s = execHdot r d a b s := rfl
theorem exec_bdot (r : Run) (d a b : BitVec 7) (s : State) : exec (.bdot r d a b) s = execBdot r d a b s := rfl
theorem exec_cvtF32S32 (r : Run) (d a : BitVec 7) (s : State) : exec (.cvtF32S32 r d a) s = execCvtF32S32 r d a s := rfl
theorem exec_cvtF32N32 (r : Run) (d a : BitVec 7) (s : State) : exec (.cvtF32N32 r d a) s = execCvtF32N32 r d a s := rfl
theorem exec_cvtS32F32 (r : Run) (d a : BitVec 7) (s : State) : exec (.cvtS32F32 r d a) s = execCvtS32F32 r d a s := rfl
theorem exec_cvtN32F32 (r : Run) (d a : BitVec 7) (s : State) : exec (.cvtN32F32 r d a) s = execCvtN32F32 r d a s := rfl
theorem exec_cvtF16x2 (r : Run) (d a b : BitVec 7) (s : State) : exec (.cvtF16x2 r d a b) s = execCvtF16x2 r d a b s :=
  rfl
theorem exec_cvtBf16x2 (r : Run) (d a b : BitVec 7) (s : State) : exec (.cvtBf16x2 r d a b) s = execCvtBf16x2 r d a b s :=
  rfl
theorem exec_cvtF32F16 (r : Run) (d a h : BitVec 7) (s : State) : exec (.cvtF32F16 r d a h) s = execCvtF32F16 r d a h s :=
  rfl
theorem exec_cvtF32Bf16 (r : Run) (d a h : BitVec 7) (s : State) : exec (.cvtF32Bf16 r d a h) s = execCvtF32Bf16 r d a h s :=
  rfl
theorem exec_cvtF8e4 (r : Run) (d a k : BitVec 7) (s : State) : exec (.cvtF8e4 r d a k) s = execCvtF8e4 r d a k s := rfl
theorem exec_cvtF8e5 (r : Run) (d a k : BitVec 7) (s : State) : exec (.cvtF8e5 r d a k) s = execCvtF8e5 r d a k s := rfl
theorem exec_cvtF32F8 (r : Run) (d a k : BitVec 7) (s : State) : exec (.cvtF32F8 r d a k) s = execCvtF32F8 r d a k s :=
  rfl
theorem exec_plane (r : Run) (d a : BitVec 7) (s : State) : exec (.plane r d a) s = execPlane r d a s := rfl
theorem exec_unplane (r : Run) (d a : BitVec 7) (s : State) : exec (.unplane r d a) s = execUnplane r d a s := rfl
theorem exec_cvtS8 (r : Run) (d a k : BitVec 7) (s : State) : exec (.cvtS8 r d a k) s = execCvtS8 r d a k s := rfl
theorem exec_cvtS32S8 (r : Run) (d a k : BitVec 7) (s : State) : exec (.cvtS32S8 r d a k) s = execCvtS32S8 r d a k s :=
  rfl
theorem exec_vshfl (r : Run) (d a : BitVec 7) (w : BitVec 3) (s : State) : exec (.vshfl r d a w) s = execVshfl r d a w s :=
  rfl
theorem exec_vshfx (r : Run) (d a : BitVec 7) (w : BitVec 3) (k : BitVec 4) (s : State) : exec (.vshfx r d a w k) s = execVshfx r d a w k s :=
  rfl
theorem exec_vshup (r : Run) (d a : BitVec 7) (w : BitVec 3) (n : BitVec 4) (s : State) : exec (.vshup r d a w n) s = execVshup r d a w n s :=
  rfl
theorem exec_vshdn (r : Run) (d a : BitVec 7) (w : BitVec 3) (n : BitVec 4) (s : State) : exec (.vshdn r d a w n) s = execVshdn r d a w n s :=
  rfl
theorem exec_vredAddS32 (r : Run) (d a : BitVec 7) (w : BitVec 3) (s : State) : exec (.vredAddS32 r d a w) s = execVredAddS32 r d a w s :=
  rfl
theorem exec_vredAddF32 (r : Run) (d a : BitVec 7) (w : BitVec 3) (s : State) : exec (.vredAddF32 r d a w) s = execVredAddF32 r d a w s :=
  rfl
theorem exec_vredMin (r : Run) (d a : BitVec 7) (w : BitVec 3) (t : BitVec 4) (s : State) : exec (.vredMin r d a w t) s = execVredMin r d a w t s :=
  rfl
theorem exec_vredMax (r : Run) (d a : BitVec 7) (w : BitVec 3) (t : BitVec 4) (s : State) : exec (.vredMax r d a w t) s = execVredMax r d a w t s :=
  rfl
theorem exec_vscanAddS32 (r : Run) (d a : BitVec 7) (w : BitVec 3) (e : BitVec 1) (s : State) : exec (.vscanAddS32 r d a w e) s = execVscanAddS32 r d a w e s :=
  rfl
theorem exec_vscanAddF32 (r : Run) (d a : BitVec 7) (w : BitVec 3) (e : BitVec 1) (s : State) : exec (.vscanAddF32 r d a w e) s = execVscanAddF32 r d a w e s :=
  rfl
theorem exec_vvote (r : Run) (d a : BitVec 7) (w : BitVec 3) (m : BitVec 4) (s : State) : exec (.vvote r d a w m) s = execVvote r d a w m s :=
  rfl
theorem exec_vfirst (r : Run) (d a : BitVec 7) (w : BitVec 3) (s : State) : exec (.vfirst r d a w) s = execVfirst r d a w s :=
  rfl
theorem exec_vreadl (r : Run) (d a : BitVec 7) (w : BitVec 3) (i : BitVec 4) (s : State) : exec (.vreadl r d a w i) s = execVreadl r d a w i s :=
  rfl
theorem exec_vwritel (r : Run) (d a : BitVec 7) (w : BitVec 3) (i : BitVec 4) (s : State) : exec (.vwritel r d a w i) s = execVwritel r d a w i s :=
  rfl
theorem exec_vmatch (r : Run) (d a : BitVec 7) (w : BitVec 3) (h : BitVec 4) (s : State) : exec (.vmatch r d a w h) s = execVmatch r d a w h s :=
  rfl
theorem exec_cmpeq (r : Run) (d a b : BitVec 7) (s : State) : exec (.cmpeq r d a b) s = execCmpeq r d a b s := rfl
theorem exec_cmpne (r : Run) (d a b : BitVec 7) (s : State) : exec (.cmpne r d a b) s = execCmpne r d a b s := rfl
theorem exec_cmplt (r : Run) (d a b : BitVec 7) (s : State) : exec (.cmplt r d a b) s = execCmplt r d a b s := rfl
theorem exec_cmple (r : Run) (d a b : BitVec 7) (s : State) : exec (.cmple r d a b) s = execCmple r d a b s := rfl
theorem exec_cmpltn (r : Run) (d a b : BitVec 7) (s : State) : exec (.cmpltn r d a b) s = execCmpltn r d a b s := rfl
theorem exec_cmplen (r : Run) (d a b : BitVec 7) (s : State) : exec (.cmplen r d a b) s = execCmplen r d a b s := rfl
theorem exec_fcmpeq (r : Run) (d a b : BitVec 7) (s : State) : exec (.fcmpeq r d a b) s = execFcmpeq r d a b s := rfl
theorem exec_fcmplt (r : Run) (d a b : BitVec 7) (s : State) : exec (.fcmplt r d a b) s = execFcmplt r d a b s := rfl
theorem exec_fcmple (r : Run) (d a b : BitVec 7) (s : State) : exec (.fcmple r d a b) s = execFcmple r d a b s := rfl
theorem exec_fcmpun (r : Run) (d a b : BitVec 7) (s : State) : exec (.fcmpun r d a b) s = execFcmpun r d a b s := rfl
theorem exec_mkand (r : Run) (d a b : BitVec 7) (s : State) : exec (.mkand r d a b) s = execMkand r d a b s := rfl
theorem exec_mkor (r : Run) (d a b : BitVec 7) (s : State) : exec (.mkor r d a b) s = execMkor r d a b s := rfl
theorem exec_mkxor (r : Run) (d a b : BitVec 7) (s : State) : exec (.mkxor r d a b) s = execMkxor r d a b s := rfl
theorem exec_mkandn (r : Run) (d a b : BitVec 7) (s : State) : exec (.mkandn r d a b) s = execMkandn r d a b s := rfl
theorem exec_mkpop (r : Run) (d a : BitVec 7) (s : State) : exec (.mkpop r d a) s = execMkpop r d a s := rfl
theorem exec_mkmov (r : Run) (d a : BitVec 7) (s : State) : exec (.mkmov r d a) s = execMkmov r d a s := rfl
theorem exec_ldB (r : Run) (d a b : BitVec 7) (s : State) : exec (.ldB r d a b) s = execLdB r d a b s := rfl
theorem exec_ldBs (r : Run) (d a b : BitVec 7) (s : State) : exec (.ldBs r d a b) s = execLdBs r d a b s := rfl
theorem exec_ldH (r : Run) (d a b : BitVec 7) (s : State) : exec (.ldH r d a b) s = execLdH r d a b s := rfl
theorem exec_ldHs (r : Run) (d a b : BitVec 7) (s : State) : exec (.ldHs r d a b) s = execLdHs r d a b s := rfl
theorem exec_ldW (r : Run) (d a b : BitVec 7) (s : State) : exec (.ldW r d a b) s = execLdW r d a b s := rfl
theorem exec_ldD (r : Run) (d a b : BitVec 7) (s : State) : exec (.ldD r d a b) s = execLdD r d a b s := rfl
theorem exec_ldQ (r : Run) (d a b : BitVec 7) (s : State) : exec (.ldQ r d a b) s = execLdQ r d a b s := rfl
theorem exec_ldnW (r : Run) (d a b : BitVec 7) (s : State) : exec (.ldnW r d a b) s = execLdnW r d a b s := rfl
theorem exec_stB (r : Run) (d a b : BitVec 7) (s : State) : exec (.stB r d a b) s = execStB r d a b s := rfl
theorem exec_stH (r : Run) (d a b : BitVec 7) (s : State) : exec (.stH r d a b) s = execStH r d a b s := rfl
theorem exec_stW (r : Run) (d a b : BitVec 7) (s : State) : exec (.stW r d a b) s = execStW r d a b s := rfl
theorem exec_stD (r : Run) (d a b : BitVec 7) (s : State) : exec (.stD r d a b) s = execStD r d a b s := rfl
theorem exec_stQ (r : Run) (d a b : BitVec 7) (s : State) : exec (.stQ r d a b) s = execStQ r d a b s := rfl
theorem exec_pref (r : Run) (a b : BitVec 7) (s : State) : exec (.pref r a b) s = execPref r a b s := rfl
theorem exec_ldnD (r : Run) (d a b : BitVec 7) (s : State) : exec (.ldnD r d a b) s = execLdnD r d a b s := rfl
theorem exec_ldsW (r : Run) (d a b : BitVec 7) (s : State) : exec (.ldsW r d a b) s = execLdsW r d a b s := rfl
theorem exec_ldsD (r : Run) (d a b : BitVec 7) (s : State) : exec (.ldsD r d a b) s = execLdsD r d a b s := rfl
theorem exec_ldsQ (r : Run) (d a b : BitVec 7) (s : State) : exec (.ldsQ r d a b) s = execLdsQ r d a b s := rfl
theorem exec_stsW (r : Run) (d a b : BitVec 7) (s : State) : exec (.stsW r d a b) s = execStsW r d a b s := rfl
theorem exec_stsD (r : Run) (d a b : BitVec 7) (s : State) : exec (.stsD r d a b) s = execStsD r d a b s := rfl
theorem exec_stsQ (r : Run) (d a b : BitVec 7) (s : State) : exec (.stsQ r d a b) s = execStsQ r d a b s := rfl
theorem exec_vspill (r : Run) (d a n : BitVec 7) (s : State) : exec (.vspill r d a n) s = execVspill r d a n s := rfl
theorem exec_vfill (r : Run) (d a n : BitVec 7) (s : State) : exec (.vfill r d a n) s = execVfill r d a n s := rfl
theorem exec_ldsp (r : Run) (d a b : BitVec 7) (s : State) : exec (.ldsp r d a b) s = execLdsp r d a b s := rfl
theorem exec_stsp (r : Run) (d a b : BitVec 7) (s : State) : exec (.stsp r d a b) s = execStsp r d a b s := rfl
theorem exec_aadd (r : Run) (d a b : BitVec 7) (s : State) : exec (.aadd r d a b) s = execAadd r d a b s := rfl
theorem exec_aand (r : Run) (d a b : BitVec 7) (s : State) : exec (.aand r d a b) s = execAand r d a b s := rfl
theorem exec_aor (r : Run) (d a b : BitVec 7) (s : State) : exec (.aor r d a b) s = execAor r d a b s := rfl
theorem exec_axor (r : Run) (d a b : BitVec 7) (s : State) : exec (.axor r d a b) s = execAxor r d a b s := rfl
theorem exec_amin (r : Run) (d a b : BitVec 7) (s : State) : exec (.amin r d a b) s = execAmin r d a b s := rfl
theorem exec_amax (r : Run) (d a b : BitVec 7) (s : State) : exec (.amax r d a b) s = execAmax r d a b s := rfl
theorem exec_aminn (r : Run) (d a b : BitVec 7) (s : State) : exec (.aminn r d a b) s = execAminn r d a b s := rfl
theorem exec_amaxn (r : Run) (d a b : BitVec 7) (s : State) : exec (.amaxn r d a b) s = execAmaxn r d a b s := rfl
theorem exec_axch (r : Run) (d a b : BitVec 7) (s : State) : exec (.axch r d a b) s = execAxch r d a b s := rfl
theorem exec_acas (r : Run) (d a b : BitVec 7) (s : State) : exec (.acas r d a b) s = execAcas r d a b s := rfl
theorem exec_aaddf (r : Run) (d a b : BitVec 7) (s : State) : exec (.aaddf r d a b) s = execAaddf r d a b s := rfl
theorem exec_aincw (r : Run) (d a b : BitVec 7) (s : State) : exec (.aincw r d a b) s = execAincw r d a b s := rfl
theorem exec_ald (r : Run) (d a b : BitVec 7) (s : State) : exec (.ald r d a b) s = execAld r d a b s := rfl
theorem exec_ast (r : Run) (d a b : BitVec 7) (s : State) : exec (.ast r d a b) s = execAst r d a b s := rfl
theorem exec_fence (r : Run) (a : BitVec 7) (s : State) : exec (.fence r a) s = execFence r a s := rfl
theorem exec_trkset (r : Run) (t a b : BitVec 7) (s : State) : exec (.trkset r t a b) s = execTrkset r t a b s := rfl
theorem exec_trksetH (r : Run) (t a : BitVec 7) (s : State) : exec (.trksetH r t a) s = execTrksetH r t a s := rfl
theorem exec_trkclr (r : Run) (t : BitVec 7) (s : State) : exec (.trkclr r t) s = execTrkclr r t s := rfl
theorem exec_drainst (r : Run) (s : State) : exec (.drainst r) s = execDrainst r s := rfl
theorem exec_waita (r : Run) (d a b : BitVec 7) (s : State) : exec (.waita r d a b) s = execWaita r d a b s := rfl
theorem exec_bardef (r : Run) (a b : BitVec 7) (s : State) : exec (.bardef r a b) s = execBardef r a b s := rfl
theorem exec_bararr (r : Run) (d a : BitVec 7) (s : State) : exec (.bararr r d a) s = execBararr r d a s := rfl
theorem exec_barwait (r : Run) (a b : BitVec 7) (s : State) : exec (.barwait r a b) s = execBarwait r a b s := rfl
theorem exec_barc (r : Run) (d a : BitVec 7) (s : State) : exec (.barc r d a) s = execBarc r d a s := rfl
theorem exec_barinv (r : Run) (a : BitVec 7) (s : State) : exec (.barinv r a) s = execBarinv r a s := rfl
theorem exec_cpyl (r : Run) (d a b : BitVec 7) (s : State) : exec (.cpyl r d a b) s = execCpyl r d a b s := rfl
theorem exec_cpyt (r : Run) (a : BitVec 7) (s : State) : exec (.cpyt r a) s = execCpyt r a s := rfl
theorem exec_cpyr (r : Run) (a : BitVec 7) (s : State) : exec (.cpyr r a) s = execCpyr r a s := rfl
theorem exec_bufdef (r : Run) (n a b : BitVec 7) (s : State) : exec (.bufdef r n a b) s = execBufdef r n a b s := rfl
theorem exec_bufwait (r : Run) (n m : BitVec 7) (s : State) : exec (.bufwait r n m) s = execBufwait r n m s := rfl
theorem exec_bufrel (r : Run) (n m : BitVec 7) (s : State) : exec (.bufrel r n m) s = execBufrel r n m s := rfl
theorem exec_bufstat (r : Run) (d n : BitVec 7) (s : State) : exec (.bufstat r d n) s = execBufstat r d n s := rfl
theorem exec_qpop (r : Run) (d q : BitVec 7) (s : State) : exec (.qpop r d q) s = execQpop r d q s := rfl
theorem exec_qpeek (r : Run) (d q : BitVec 7) (s : State) : exec (.qpeek r d q) s = execQpeek r d q s := rfl
theorem exec_aloop (r : Run) (k a : BitVec 7) (s : State) : exec (.aloop r k a) s = execAloop r k a s := rfl
theorem exec_aend (r : Run) (k : BitVec 7) (s : State) : exec (.aend r k) s = execAend r k s := rfl
theorem exec_astrm (r : Run) (q a g : BitVec 7) (s : State) : exec (.astrm r q a g) s = execAstrm r q a g s := rfl
theorem exec_acpy (r : Run) (n a g : BitVec 7) (s : State) : exec (.acpy r n a g) s = execAcpy r n a g s := rfl
theorem exec_asig (r : Run) (a b : BitVec 7) (s : State) : exec (.asig r a b) s = execAsig r a b s := rfl
theorem exec_ahalt (r : Run) (s : State) : exec (.ahalt r) s = execAhalt r s := rfl
theorem exec_astart (r : Run) (a : BitVec 7) (s : State) : exec (.astart r a) s = execAstart r a s := rfl
theorem exec_astat (r : Run) (d : BitVec 7) (s : State) : exec (.astat r d) s = execAstat r d s := rfl
theorem exec_mwld (r : Run) (a b : BitVec 7) (s : State) : exec (.mwld r a b) s = execMwld r a b s := rfl
theorem exec_mstr (r : Run) (n a b : BitVec 7) (s : State) : exec (.mstr r n a b) s = execMstr r n a b s := rfl
theorem exec_mstrQueue (r : Run) (n b : BitVec 7) (s : State) : exec (.mstrQueue r n b) s = execMstrQueue r n b s := rfl
theorem exec_mrdo (r : Run) (n a b : BitVec 7) (s : State) : exec (.mrdo r n a b) s = execMrdo r n a b s := rfl
theorem exec_mzero (r : Run) (n : BitVec 7) (s : State) : exec (.mzero r n) s = execMzero r n s := rfl
theorem exec_macsv (r : Run) (n a b : BitVec 7) (s : State) : exec (.macsv r n a b) s = execMacsv r n a b s := rfl
theorem exec_macld (r : Run) (n a b : BitVec 7) (s : State) : exec (.macld r n a b) s = execMacld r n a b s := rfl
theorem exec_mstat (r : Run) (d w : BitVec 7) (s : State) : exec (.mstat r d w) s = execMstat r d w s := rfl
theorem exec_trace (r : Run) (d a b : BitVec 7) (s : State) : exec (.trace r d a b) s = execTrace r d a b s := rfl
theorem exec_hitget (r : Run) (d a b : BitVec 7) (s : State) : exec (.hitget r d a b) s = execHitget r d a b s := rfl
theorem exec_ahacc (r : Run) (s : State) : exec (.ahacc r) s = execAhacc r s := rfl
theorem exec_ahrej (r : Run) (s : State) : exec (.ahrej r) s = execAhrej r s := rfl
theorem exec_contend (r : Run) (d : BitVec 7) (s : State) : exec (.contend r d) s = execContend r d s := rfl
theorem exec_contget (r : Run) (d k : BitVec 7) (s : State) : exec (.contget r d k) s = execContget r d k s := rfl
theorem exec_lntinv (r : Run) (a : BitVec 7) (s : State) : exec (.lntinv r a) s = execLntinv r a s := rfl
theorem exec_ishit (r : Run) (a b : BitVec 7) (s : State) : exec (.ishit r a b) s = execIshit r a b s := rfl
theorem exec_rast (r : Run) (d a b : BitVec 7) (s : State) : exec (.rast r d a b) s = execRast r d a b s := rfl
theorem exec_rprj (r : Run) (d a b : BitVec 7) (s : State) : exec (.rprj r d a b) s = execRprj r d a b s := rfl
theorem exec_tex (r : Run) (d a b : BitVec 7) (s : State) : exec (.tex r d a b) s = execTex r d a b s := rfl
theorem exec_texl (r : Run) (d a b : BitVec 7) (s : State) : exec (.texl r d a b) s = execTexl r d a b s := rfl
theorem exec_lnch (r : Run) (d a b : BitVec 7) (s : State) : exec (.lnch r d a b) s = execLnch r d a b s := rfl
theorem exec_evset (r : Run) (a k : BitVec 7) (s : State) : exec (.evset r a k) s = execEvset r a k s := rfl
theorem exec_evclr (r : Run) (a k : BitVec 7) (s : State) : exec (.evclr r a k) s = execEvclr r a k s := rfl
theorem exec_ember (r : Run) (a k : BitVec 7) (s : State) : exec (.ember r a k) s = execEmber r a k s := rfl
theorem exec_grist (r : Run) (a b : BitVec 7) (s : State) : exec (.grist r a b) s = execGrist r a b s := rfl
theorem exec_missSplit (p : PartRef) (load : Nat) (s : State) : exec (.missSplit p load) s = execMissSplit p load s :=
  rfl
theorem exec_joinTimeout (p : PartRef) (s : State) : exec (.joinTimeout p) s = execJoinTimeout p s := rfl
theorem exec_fuseWatchdogExpiry (p : PartRef) (s : State) : exec (.fuseWatchdogExpiry p) s = execFuseWatchdogExpiry p s :=
  rfl
theorem exec_loadDataReturn (p : PartRef) (load : Nat) (s : State) : exec (.loadDataReturn p load) s = execLoadDataReturn p load s :=
  rfl
theorem exec_storeAccepted (crew id : Nat) (s : State) : exec (.storeAccepted crew id) s = execStoreAccepted crew id s :=
  rfl
theorem exec_storeFaultReport (crew id : Nat) (s : State) : exec (.storeFaultReport crew id) s = execStoreFaultReport crew id s :=
  rfl
theorem exec_accessAnswer (id : Nat) (s : State) : exec (.accessAnswer id) s = execAccessAnswer id s := rfl
theorem exec_homeAccess (id : Nat) (s : State) : exec (.homeAccess id) s = execHomeAccess id s := rfl
theorem exec_fenceReleaseComplete (p : PartRef) (s : State) : exec (.fenceReleaseComplete p) s = execFenceReleaseComplete p s :=
  rfl
theorem exec_waitaTimeout (p : PartRef) (s : State) : exec (.waitaTimeout p) s = execWaitaTimeout p s := rfl
theorem exec_waitcyEnd (p : PartRef) (s : State) : exec (.waitcyEnd p) s = execWaitcyEnd p s := rfl
theorem exec_copyComplete (crew ord : Nat) (s : State) : exec (.copyComplete crew ord) s = execCopyComplete crew ord s :=
  rfl
theorem exec_reduceTicketPoll (crew ord : Nat) (s : State) : exec (.reduceTicketPoll crew ord) s = execReduceTicketPoll crew ord s :=
  rfl
theorem exec_reduceTicketRelease (crew ord : Nat) (s : State) : exec (.reduceTicketRelease crew ord) s = execReduceTicketRelease crew ord s :=
  rfl
theorem exec_copySquash (crew : Nat) (s : State) : exec (.copySquash crew) s = execCopySquash crew s := rfl
theorem exec_astrmPush (crew : Nat) (s : State) : exec (.astrmPush crew) s = execAstrmPush crew s := rfl
theorem exec_matrixCommandStands (crew : Nat) (s : State) : exec (.matrixCommandStands crew) s = execMatrixCommandStands crew s :=
  rfl
theorem exec_mwldLatch (crew : Nat) (s : State) : exec (.mwldLatch crew) s = execMwldLatch crew s := rfl
theorem exec_rayEnd (ray : Nat) (s : State) : exec (.rayEnd ray) s = execRayEnd ray s := rfl
theorem exec_rayHandoff (ray : Nat) (s : State) : exec (.rayHandoff ray) s = execRayHandoff ray s := rfl
theorem exec_gatherTimeout (wave : Nat) (s : State) : exec (.gatherTimeout wave) s = execGatherTimeout wave s := rfl
theorem exec_vaultSample (vault : Nat) (readings : List Int) (s : State) : exec (.vaultSample vault readings) s = execVaultSample vault readings s :=
  rfl
theorem exec_thermalTrip (sensor : Nat) (s : State) : exec (.thermalTrip sensor) s = execThermalTrip sensor s := rfl
theorem exec_packagePowerOff (s : State) : exec .packagePowerOff s = execPackagePowerOff s := rfl
theorem exec_droopTrip (cluster : Nat) (s : State) : exec (.droopTrip cluster) s = execDroopTrip cluster s := rfl
theorem exec_gutterRestore (cluster : Nat) (s : State) : exec (.gutterRestore cluster) s = execGutterRestore cluster s :=
  rfl
theorem exec_biasReplan (cluster : Nat) (slack : List (Int × Nat)) (s : State) : exec (.biasReplan cluster slack) s = execBiasReplan cluster slack s :=
  rfl
theorem exec_biasCodeStep (cluster : Nat) (s : State) : exec (.biasCodeStep cluster) s = execBiasCodeStep cluster s :=
  rfl
theorem exec_bbiasCodeWrite (cluster : Nat) (value : BitVec 64) (s : State) : exec (.bbiasCodeWrite cluster value) s = execBbiasCodeWrite cluster value s :=
  rfl
theorem exec_taperEstimate (cluster amps filler : Nat) (s : State) : exec (.taperEstimate cluster amps filler) s = execTaperEstimate cluster amps filler s :=
  rfl
theorem exec_taperRampEnd (cluster : Nat) (s : State) : exec (.taperRampEnd cluster) s = execTaperRampEnd cluster s :=
  rfl
theorem exec_eccCorrected (array cluster : Nat) (s : State) : exec (.eccCorrected array cluster) s = execEccCorrected array cluster s :=
  rfl
theorem exec_eccUncorrectable (site : EccSite) (s : State) : exec (.eccUncorrectable site) s = execEccUncorrectable site s :=
  rfl
theorem exec_backgroundScrub (s : State) : exec .backgroundScrub s = execBackgroundScrub s := rfl
theorem exec_slotVisit (slot : Nat) (s : State) : exec (.slotVisit slot) s = execSlotVisit slot s := rfl
theorem exec_launchStart (slot : Nat) (s : State) : exec (.launchStart slot) s = execLaunchStart slot s := rfl
theorem exec_crewRetire (crew : Nat) (s : State) : exec (.crewRetire crew) s = execCrewRetire crew s := rfl
theorem exec_swapOut (crew : Nat) (s : State) : exec (.swapOut crew) s = execSwapOut crew s := rfl
theorem exec_preemptDone (ctx : Nat) (s : State) : exec (.preemptDone ctx) s = execPreemptDone ctx s := rfl
theorem exec_dumpcDone (crew : Nat) (s : State) : exec (.dumpcDone crew) s = execDumpcDone crew s := rfl
theorem exec_handleMigrationEnd (ctx hdl : Nat) (s : State) : exec (.handleMigrationEnd ctx hdl) s = execHandleMigrationEnd ctx hdl s :=
  rfl
theorem exec_notify (slot : Nat) (s : State) : exec (.notify slot) s = execNotify slot s := rfl
theorem exec_admqWrite (value : BitVec 64) (s : State) : exec (.admqWrite value) s = execAdmqWrite value s := rfl
theorem exec_resetWrite (value : BitVec 64) (s : State) : exec (.resetWrite value) s = execResetWrite value s := rfl
theorem exec_registerWrite (offset : Nat) (value : BitVec 64) (s : State) : exec (.registerWrite offset value) s = execRegisterWrite offset value s :=
  rfl
theorem exec_moduleBoot (s : State) : exec .moduleBoot s = execModuleBoot s := rfl
theorem exec_hostMemoryWrite (offset : Nat) (bytes : List Byte) (s : State) : exec (.hostMemoryWrite offset bytes) s = execHostMemoryWrite offset bytes s :=
  rfl
theorem exec_hostMemoryRead (offset length : Nat) (s : State) : exec (.hostMemoryRead offset length) s = execHostMemoryRead offset length s :=
  rfl
theorem exec_launch (c : Cmd) (s : State) : exec (.launch c) s = execLaunch c s := rfl
theorem exec_launchCaptured (c : Cmd) (s : State) : exec (.launchCaptured c) s = execLaunchCaptured c s := rfl
theorem exec_evsignalSet (c : Cmd) (s : State) : exec (.evsignalSet c) s = execEvsignalSet c s := rfl
theorem exec_evsignalClear (c : Cmd) (s : State) : exec (.evsignalClear c) s = execEvsignalClear c s := rfl
theorem exec_mapq (c : Cmd) (s : State) : exec (.mapq c) s = execMapq c s := rfl
theorem exec_unmapq (c : Cmd) (s : State) : exec (.unmapq c) s = execUnmapq c s := rfl
theorem exec_ctxnew (c : Cmd) (s : State) : exec (.ctxnew c) s = execCtxnew c s := rfl
theorem exec_ctxnewAllotment (c : Cmd) (s : State) : exec (.ctxnewAllotment c) s = execCtxnewAllotment c s := rfl
theorem exec_ctxnewLanternWays (c : Cmd) (s : State) : exec (.ctxnewLanternWays c) s = execCtxnewLanternWays c s := rfl
theorem exec_ctxfree (c : Cmd) (s : State) : exec (.ctxfree c) s = execCtxfree c s := rfl
theorem exec_handleCreate (c : Cmd) (s : State) : exec (.handleCreate c) s = execHandleCreate c s := rfl
theorem exec_handlePriority (c : Cmd) (s : State) : exec (.handlePriority c) s = execHandlePriority c s := rfl
theorem exec_handleMigrate (c : Cmd) (s : State) : exec (.handleMigrate c) s = execHandleMigrate c s := rfl
theorem exec_handleEvict (c : Cmd) (s : State) : exec (.handleEvict c) s = execHandleEvict c s := rfl
theorem exec_grant (c : Cmd) (s : State) : exec (.grant c) s = execGrant c s := rfl
theorem exec_preempt (c : Cmd) (s : State) : exec (.preempt c) s = execPreempt c s := rfl
theorem exec_preemptResume (c : Cmd) (s : State) : exec (.preemptResume c) s = execPreemptResume c s := rfl
theorem exec_debugAttach (c : Cmd) (s : State) : exec (.debugAttach c) s = execDebugAttach c s := rfl
theorem exec_debugDetach (c : Cmd) (s : State) : exec (.debugDetach c) s = execDebugDetach c s := rfl
theorem exec_debugPcBreakpoint (c : Cmd) (s : State) : exec (.debugPcBreakpoint c) s = execDebugPcBreakpoint c s := rfl
theorem exec_debugWatchpoint (c : Cmd) (s : State) : exec (.debugWatchpoint c) s = execDebugWatchpoint c s := rfl
theorem exec_debugStopCrew (c : Cmd) (s : State) : exec (.debugStopCrew c) s = execDebugStopCrew c s := rfl
theorem exec_debugResumeCrew (c : Cmd) (s : State) : exec (.debugResumeCrew c) s = execDebugResumeCrew c s := rfl
theorem exec_debugEmber (c : Cmd) (s : State) : exec (.debugEmber c) s = execDebugEmber c s := rfl
theorem exec_debugGrist (c : Cmd) (s : State) : exec (.debugGrist c) s = execDebugGrist c s := rfl
theorem exec_debugIcinv (c : Cmd) (s : State) : exec (.debugIcinv c) s = execDebugIcinv c s := rfl
theorem exec_quote (c : Cmd) (s : State) : exec (.quote c) s = execQuote c s := rfl
theorem exec_quoteExtend (c : Cmd) (s : State) : exec (.quoteExtend c) s = execQuoteExtend c s := rfl
theorem exec_powercap (c : Cmd) (s : State) : exec (.powercap c) s = execPowercap c s := rfl
theorem exec_countersAccount (c : Cmd) (s : State) : exec (.countersAccount c) s = execCountersAccount c s := rfl
theorem exec_countersReadRegister (c : Cmd) (s : State) : exec (.countersReadRegister c) s = execCountersReadRegister c s :=
  rfl
theorem exec_countersWriteRegister (c : Cmd) (s : State) : exec (.countersWriteRegister c) s = execCountersWriteRegister c s :=
  rfl
theorem exec_countersLifetime (c : Cmd) (s : State) : exec (.countersLifetime c) s = execCountersLifetime c s := rfl
theorem exec_keyset (c : Cmd) (s : State) : exec (.keyset c) s = execKeyset c s := rfl
theorem exec_powerEstimate (watts : Nat) (s : State) : exec (.powerEstimate watts) s = execPowerEstimate watts s := rfl
theorem exec_capExpiry (s : State) : exec .capExpiry s = execCapExpiry s := rfl
theorem exec_lifetimeRecordWrite (s : State) : exec .lifetimeRecordWrite s = execLifetimeRecordWrite s := rfl
theorem exec_emberTag (core seq : Nat) (s : State) : exec (.emberTag core seq) s = execEmberTag core seq s := rfl
theorem exec_emberRecord (core seq : Nat) (stages : EmberStages) (s : State) : exec (.emberRecord core seq stages) s = execEmberRecord core seq stages s :=
  rfl
theorem exec_flitCrcReplay (port : Nat) (s : State) : exec (.flitCrcReplay port) s = execFlitCrcReplay port s := rfl
theorem exec_inboundAccess (port : Nat) (access : PeerAccess) (s : State) : exec (.inboundAccess port access) s = execInboundAccess port access s :=
  rfl
theorem exec_remoteAnswer (id : Nat) (answer : PeerAnswer) (s : State) : exec (.remoteAnswer id answer) s = execRemoteAnswer id answer s :=
  rfl
theorem exec_remoteAccessTimeout (id : Nat) (s : State) : exec (.remoteAccessTimeout id) s = execRemoteAccessTimeout id s :=
  rfl
theorem exec_syncFlitSend (s : State) : exec .syncFlitSend s = execSyncFlitSend s := rfl
theorem exec_syncFlitReceive (port : Nat) (stime : BitVec 64) (s : State) : exec (.syncFlitReceive port stime) s = execSyncFlitReceive port stime s :=
  rfl
theorem exec_portSyncTimeout (port : Nat) (s : State) : exec (.portSyncTimeout port) s = execPortSyncTimeout port s :=
  rfl
theorem exec_quoteRequestFlit (port : Nat) (nonce : List Byte) (s : State) : exec (.quoteRequestFlit port nonce) s = execQuoteRequestFlit port nonce s :=
  rfl
theorem exec_powerCapFlit (port : Nat) (cap : CapMessage) (s : State) : exec (.powerCapFlit port cap) s = execPowerCapFlit port cap s :=
  rfl
theorem exec_illegalInstruction (r : Run) (reject : Reject) (s : State) : exec (.illegalInstruction r reject) s = execIllegalInstruction r reject s :=
  rfl
theorem exec_fetchFailure (outside : Bool) (s : State) : exec (.fetchFailure outside) s = execFetchFailure outside s :=
  rfl
theorem exec_icinvComplete (p : PartRef) (s : State) : exec (.icinvComplete p) s = execIcinvComplete p s := rfl
theorem exec_copyError (crew ord : Nat) (why : CopyFault) (s : State) : exec (.copyError crew ord why) s = execCopyError crew ord why s :=
  rfl
theorem exec_intersectionShaderInvoke (ray : Nat) (s : State) : exec (.intersectionShaderInvoke ray) s = execIntersectionShaderInvoke ray s :=
  rfl

end Sys2Proof.Machine
end

