-- ==== Sys2Proof/Laws/State.lean ====
section
/-! SUPPORT. What each elementary change of the state leaves and what it changes, field by field, so that no proof unfolds a
record update; and what is read back where something was put. -/

namespace Sys2Proof.Machine

/-! ### setCtx -/

@[simp] theorem setCtx_agent (s : State) (n : Nat) (x : Option Ctx) : (setCtx s n x).agent = s.agent := rfl
@[simp] theorem setCtx_part (s : State) (n : Nat) (x : Option Ctx) : (setCtx s n x).part = s.part := rfl
@[simp] theorem setCtx_sibs (s : State) (n : Nat) (x : Option Ctx) : (setCtx s n x).sibs = s.sibs := rfl
@[simp] theorem setCtx_wave (s : State) (n : Nat) (x : Option Ctx) : (setCtx s n x).wave = s.wave := rfl
@[simp] theorem setCtx_waves (s : State) (n : Nat) (x : Option Ctx) : (setCtx s n x).waves = s.waves := rfl
@[simp] theorem setCtx_crew (s : State) (n : Nat) (x : Option Ctx) : (setCtx s n x).crew = s.crew := rfl
@[simp] theorem setCtx_crews (s : State) (n : Nat) (x : Option Ctx) : (setCtx s n x).crews = s.crews := rfl
@[simp] theorem setCtx_cores (s : State) (n : Nat) (x : Option Ctx) : (setCtx s n x).cores = s.cores := rfl
@[simp] theorem setCtx_clusters (s : State) (n : Nat) (x : Option Ctx) : (setCtx s n x).clusters = s.clusters := rfl
@[simp] theorem setCtx_vaults (s : State) (n : Nat) (x : Option Ctx) : (setCtx s n x).vaults = s.vaults := rfl
@[simp] theorem setCtx_memsys (s : State) (n : Nat) (x : Option Ctx) : (setCtx s n x).memsys = s.memsys := rfl
@[simp] theorem setCtx_net (s : State) (n : Nat) (x : Option Ctx) : (setCtx s n x).net = s.net := rfl
@[simp] theorem setCtx_ctxs (s : State) (n : Nat) (x : Option Ctx) :
    (setCtx s n x).ctxs = cset none s.ctxs n x := rfl
@[simp] theorem setCtx_launches (s : State) (n : Nat) (x : Option Ctx) : (setCtx s n x).launches = s.launches := rfl
@[simp] theorem setCtx_slots (s : State) (n : Nat) (x : Option Ctx) : (setCtx s n x).slots = s.slots := rfl
@[simp] theorem setCtx_rays (s : State) (n : Nat) (x : Option Ctx) : (setCtx s n x).rays = s.rays := rfl
@[simp] theorem setCtx_gwaves (s : State) (n : Nat) (x : Option Ctx) : (setCtx s n x).gwaves = s.gwaves := rfl
@[simp] theorem setCtx_pkg (s : State) (n : Nat) (x : Option Ctx) : (setCtx s n x).pkg = s.pkg := rfl
@[simp] theorem setCtx_fabric (s : State) (n : Nat) (x : Option Ctx) : (setCtx s n x).fabric = s.fabric := rfl
@[simp] theorem setCtx_clock (s : State) (n : Nat) (x : Option Ctx) : (setCtx s n x).clock = s.clock := rfl
@[simp] theorem setCtx_visit (s : State) (n : Nat) (x : Option Ctx) : (setCtx s n x).visit = s.visit := rfl
@[simp] theorem setCtx_icinvs (s : State) (n : Nat) (x : Option Ctx) : (setCtx s n x).icinvs = s.icinvs := rfl
@[simp] theorem setCtx_free (s : State) (n : Nat) (x : Option Ctx) : (setCtx s n x).free = s.free := rfl
@[simp] theorem setCtx_ids (s : State) (n : Nat) (x : Option Ctx) : (setCtx s n x).ids = s.ids := rfl
@[simp] theorem setCtx_agenda (s : State) (n : Nat) (x : Option Ctx) : (setCtx s n x).agenda = s.agenda := rfl
@[simp] theorem setCtx_sched (s : State) (n : Nat) (x : Option Ctx) : (setCtx s n x).sched = s.sched := rfl
@[simp] theorem setCtx_rails (s : State) (n : Nat) (x : Option Ctx) : (setCtx s n x).rails = s.rails := rfl

/-! ### setCore -/

@[simp] theorem setCore_agent (s : State) (k : Nat) (x : Core) : (setCore s k x).agent = s.agent := rfl
@[simp] theorem setCore_part (s : State) (k : Nat) (x : Core) : (setCore s k x).part = s.part := rfl
@[simp] theorem setCore_sibs (s : State) (k : Nat) (x : Core) : (setCore s k x).sibs = s.sibs := rfl
@[simp] theorem setCore_wave (s : State) (k : Nat) (x : Core) : (setCore s k x).wave = s.wave := rfl
@[simp] theorem setCore_waves (s : State) (k : Nat) (x : Core) : (setCore s k x).waves = s.waves := rfl
@[simp] theorem setCore_crew (s : State) (k : Nat) (x : Core) : (setCore s k x).crew = s.crew := rfl
@[simp] theorem setCore_crews (s : State) (k : Nat) (x : Core) : (setCore s k x).crews = s.crews := rfl
@[simp] theorem setCore_cores (s : State) (k : Nat) (x : Core) :
    (setCore s k x).cores = cset Core.none s.cores k x := rfl
@[simp] theorem setCore_clusters (s : State) (k : Nat) (x : Core) : (setCore s k x).clusters = s.clusters := rfl
@[simp] theorem setCore_vaults (s : State) (k : Nat) (x : Core) : (setCore s k x).vaults = s.vaults := rfl
@[simp] theorem setCore_memsys (s : State) (k : Nat) (x : Core) : (setCore s k x).memsys = s.memsys := rfl
@[simp] theorem setCore_net (s : State) (k : Nat) (x : Core) : (setCore s k x).net = s.net := rfl
@[simp] theorem setCore_ctxs (s : State) (k : Nat) (x : Core) : (setCore s k x).ctxs = s.ctxs := rfl
@[simp] theorem setCore_launches (s : State) (k : Nat) (x : Core) : (setCore s k x).launches = s.launches := rfl
@[simp] theorem setCore_slots (s : State) (k : Nat) (x : Core) : (setCore s k x).slots = s.slots := rfl
@[simp] theorem setCore_rays (s : State) (k : Nat) (x : Core) : (setCore s k x).rays = s.rays := rfl
@[simp] theorem setCore_gwaves (s : State) (k : Nat) (x : Core) : (setCore s k x).gwaves = s.gwaves := rfl
@[simp] theorem setCore_pkg (s : State) (k : Nat) (x : Core) : (setCore s k x).pkg = s.pkg := rfl
@[simp] theorem setCore_fabric (s : State) (k : Nat) (x : Core) : (setCore s k x).fabric = s.fabric := rfl
@[simp] theorem setCore_clock (s : State) (k : Nat) (x : Core) : (setCore s k x).clock = s.clock := rfl
@[simp] theorem setCore_visit (s : State) (k : Nat) (x : Core) : (setCore s k x).visit = s.visit := rfl
@[simp] theorem setCore_icinvs (s : State) (k : Nat) (x : Core) : (setCore s k x).icinvs = s.icinvs := rfl
@[simp] theorem setCore_free (s : State) (k : Nat) (x : Core) : (setCore s k x).free = s.free := rfl
@[simp] theorem setCore_ids (s : State) (k : Nat) (x : Core) : (setCore s k x).ids = s.ids := rfl
@[simp] theorem setCore_agenda (s : State) (k : Nat) (x : Core) : (setCore s k x).agenda = s.agenda := rfl
@[simp] theorem setCore_sched (s : State) (k : Nat) (x : Core) : (setCore s k x).sched = s.sched := rfl
@[simp] theorem setCore_rails (s : State) (k : Nat) (x : Core) : (setCore s k x).rails = s.rails := rfl

/-! ### setL1 -/

@[simp] theorem setL1_agent (s : State) (k l : Nat) (x : L1Line) : (setL1 s k l x).agent = s.agent := rfl
@[simp] theorem setL1_part (s : State) (k l : Nat) (x : L1Line) : (setL1 s k l x).part = s.part := rfl
@[simp] theorem setL1_sibs (s : State) (k l : Nat) (x : L1Line) : (setL1 s k l x).sibs = s.sibs := rfl
@[simp] theorem setL1_wave (s : State) (k l : Nat) (x : L1Line) : (setL1 s k l x).wave = s.wave := rfl
@[simp] theorem setL1_waves (s : State) (k l : Nat) (x : L1Line) : (setL1 s k l x).waves = s.waves := rfl
@[simp] theorem setL1_crew (s : State) (k l : Nat) (x : L1Line) : (setL1 s k l x).crew = s.crew := rfl
@[simp] theorem setL1_crews (s : State) (k l : Nat) (x : L1Line) : (setL1 s k l x).crews = s.crews := rfl
@[simp] theorem setL1_clusters (s : State) (k l : Nat) (x : L1Line) : (setL1 s k l x).clusters = s.clusters := rfl
@[simp] theorem setL1_vaults (s : State) (k l : Nat) (x : L1Line) : (setL1 s k l x).vaults = s.vaults := rfl
@[simp] theorem setL1_memsys (s : State) (k l : Nat) (x : L1Line) : (setL1 s k l x).memsys = s.memsys := rfl
@[simp] theorem setL1_net (s : State) (k l : Nat) (x : L1Line) : (setL1 s k l x).net = s.net := rfl
@[simp] theorem setL1_ctxs (s : State) (k l : Nat) (x : L1Line) : (setL1 s k l x).ctxs = s.ctxs := rfl
@[simp] theorem setL1_launches (s : State) (k l : Nat) (x : L1Line) : (setL1 s k l x).launches = s.launches := rfl
@[simp] theorem setL1_slots (s : State) (k l : Nat) (x : L1Line) : (setL1 s k l x).slots = s.slots := rfl
@[simp] theorem setL1_rays (s : State) (k l : Nat) (x : L1Line) : (setL1 s k l x).rays = s.rays := rfl
@[simp] theorem setL1_gwaves (s : State) (k l : Nat) (x : L1Line) : (setL1 s k l x).gwaves = s.gwaves := rfl
@[simp] theorem setL1_pkg (s : State) (k l : Nat) (x : L1Line) : (setL1 s k l x).pkg = s.pkg := rfl
@[simp] theorem setL1_fabric (s : State) (k l : Nat) (x : L1Line) : (setL1 s k l x).fabric = s.fabric := rfl
@[simp] theorem setL1_clock (s : State) (k l : Nat) (x : L1Line) : (setL1 s k l x).clock = s.clock := rfl
@[simp] theorem setL1_visit (s : State) (k l : Nat) (x : L1Line) : (setL1 s k l x).visit = s.visit := rfl
@[simp] theorem setL1_icinvs (s : State) (k l : Nat) (x : L1Line) : (setL1 s k l x).icinvs = s.icinvs := rfl
@[simp] theorem setL1_free (s : State) (k l : Nat) (x : L1Line) : (setL1 s k l x).free = s.free := rfl
@[simp] theorem setL1_ids (s : State) (k l : Nat) (x : L1Line) : (setL1 s k l x).ids = s.ids := rfl
@[simp] theorem setL1_agenda (s : State) (k l : Nat) (x : L1Line) : (setL1 s k l x).agenda = s.agenda := rfl
@[simp] theorem setL1_sched (s : State) (k l : Nat) (x : L1Line) : (setL1 s k l x).sched = s.sched := rfl
@[simp] theorem setL1_rails (s : State) (k l : Nat) (x : L1Line) : (setL1 s k l x).rails = s.rails := rfl

/-! ### setCluster -/

@[simp] theorem setCluster_agent (s : State) (k : Nat) (x : Cluster) : (setCluster s k x).agent = s.agent := rfl
@[simp] theorem setCluster_part (s : State) (k : Nat) (x : Cluster) : (setCluster s k x).part = s.part := rfl
@[simp] theorem setCluster_sibs (s : State) (k : Nat) (x : Cluster) : (setCluster s k x).sibs = s.sibs := rfl
@[simp] theorem setCluster_wave (s : State) (k : Nat) (x : Cluster) : (setCluster s k x).wave = s.wave := rfl
@[simp] theorem setCluster_waves (s : State) (k : Nat) (x : Cluster) : (setCluster s k x).waves = s.waves := rfl
@[simp] theorem setCluster_crew (s : State) (k : Nat) (x : Cluster) : (setCluster s k x).crew = s.crew := rfl
@[simp] theorem setCluster_crews (s : State) (k : Nat) (x : Cluster) : (setCluster s k x).crews = s.crews := rfl
@[simp] theorem setCluster_cores (s : State) (k : Nat) (x : Cluster) : (setCluster s k x).cores = s.cores := rfl
@[simp] theorem setCluster_clusters (s : State) (k : Nat) (x : Cluster) :
    (setCluster s k x).clusters = cset Cluster.reset s.clusters k x := rfl
@[simp] theorem setCluster_vaults (s : State) (k : Nat) (x : Cluster) : (setCluster s k x).vaults = s.vaults := rfl
@[simp] theorem setCluster_memsys (s : State) (k : Nat) (x : Cluster) : (setCluster s k x).memsys = s.memsys := rfl
@[simp] theorem setCluster_net (s : State) (k : Nat) (x : Cluster) : (setCluster s k x).net = s.net := rfl
@[simp] theorem setCluster_ctxs (s : State) (k : Nat) (x : Cluster) : (setCluster s k x).ctxs = s.ctxs := rfl
@[simp] theorem setCluster_launches (s : State) (k : Nat) (x : Cluster) : (setCluster s k x).launches = s.launches := rfl
@[simp] theorem setCluster_slots (s : State) (k : Nat) (x : Cluster) : (setCluster s k x).slots = s.slots := rfl
@[simp] theorem setCluster_rays (s : State) (k : Nat) (x : Cluster) : (setCluster s k x).rays = s.rays := rfl
@[simp] theorem setCluster_gwaves (s : State) (k : Nat) (x : Cluster) : (setCluster s k x).gwaves = s.gwaves := rfl
@[simp] theorem setCluster_pkg (s : State) (k : Nat) (x : Cluster) : (setCluster s k x).pkg = s.pkg := rfl
@[simp] theorem setCluster_fabric (s : State) (k : Nat) (x : Cluster) : (setCluster s k x).fabric = s.fabric := rfl
@[simp] theorem setCluster_clock (s : State) (k : Nat) (x : Cluster) : (setCluster s k x).clock = s.clock := rfl
@[simp] theorem setCluster_visit (s : State) (k : Nat) (x : Cluster) : (setCluster s k x).visit = s.visit := rfl
@[simp] theorem setCluster_icinvs (s : State) (k : Nat) (x : Cluster) : (setCluster s k x).icinvs = s.icinvs := rfl
@[simp] theorem setCluster_free (s : State) (k : Nat) (x : Cluster) : (setCluster s k x).free = s.free := rfl
@[simp] theorem setCluster_ids (s : State) (k : Nat) (x : Cluster) : (setCluster s k x).ids = s.ids := rfl
@[simp] theorem setCluster_agenda (s : State) (k : Nat) (x : Cluster) : (setCluster s k x).agenda = s.agenda := rfl
@[simp] theorem setCluster_sched (s : State) (k : Nat) (x : Cluster) : (setCluster s k x).sched = s.sched := rfl
@[simp] theorem setCluster_rails (s : State) (k : Nat) (x : Cluster) : (setCluster s k x).rails = s.rails := rfl

/-! ### setSlot -/

@[simp] theorem setSlot_agent (s : State) (k : Nat) (x : Slot) : (setSlot s k x).agent = s.agent := rfl
@[simp] theorem setSlot_part (s : State) (k : Nat) (x : Slot) : (setSlot s k x).part = s.part := rfl
@[simp] theorem setSlot_sibs (s : State) (k : Nat) (x : Slot) : (setSlot s k x).sibs = s.sibs := rfl
@[simp] theorem setSlot_wave (s : State) (k : Nat) (x : Slot) : (setSlot s k x).wave = s.wave := rfl
@[simp] theorem setSlot_waves (s : State) (k : Nat) (x : Slot) : (setSlot s k x).waves = s.waves := rfl
@[simp] theorem setSlot_crew (s : State) (k : Nat) (x : Slot) : (setSlot s k x).crew = s.crew := rfl
@[simp] theorem setSlot_crews (s : State) (k : Nat) (x : Slot) : (setSlot s k x).crews = s.crews := rfl
@[simp] theorem setSlot_cores (s : State) (k : Nat) (x : Slot) : (setSlot s k x).cores = s.cores := rfl
@[simp] theorem setSlot_clusters (s : State) (k : Nat) (x : Slot) : (setSlot s k x).clusters = s.clusters := rfl
@[simp] theorem setSlot_vaults (s : State) (k : Nat) (x : Slot) : (setSlot s k x).vaults = s.vaults := rfl
@[simp] theorem setSlot_memsys (s : State) (k : Nat) (x : Slot) : (setSlot s k x).memsys = s.memsys := rfl
@[simp] theorem setSlot_net (s : State) (k : Nat) (x : Slot) : (setSlot s k x).net = s.net := rfl
@[simp] theorem setSlot_ctxs (s : State) (k : Nat) (x : Slot) : (setSlot s k x).ctxs = s.ctxs := rfl
@[simp] theorem setSlot_launches (s : State) (k : Nat) (x : Slot) : (setSlot s k x).launches = s.launches := rfl
@[simp] theorem setSlot_slots (s : State) (k : Nat) (x : Slot) :
    (setSlot s k x).slots = cset Slot.none s.slots k x := rfl
@[simp] theorem setSlot_rays (s : State) (k : Nat) (x : Slot) : (setSlot s k x).rays = s.rays := rfl
@[simp] theorem setSlot_gwaves (s : State) (k : Nat) (x : Slot) : (setSlot s k x).gwaves = s.gwaves := rfl
@[simp] theorem setSlot_pkg (s : State) (k : Nat) (x : Slot) : (setSlot s k x).pkg = s.pkg := rfl
@[simp] theorem setSlot_fabric (s : State) (k : Nat) (x : Slot) : (setSlot s k x).fabric = s.fabric := rfl
@[simp] theorem setSlot_clock (s : State) (k : Nat) (x : Slot) : (setSlot s k x).clock = s.clock := rfl
@[simp] theorem setSlot_visit (s : State) (k : Nat) (x : Slot) : (setSlot s k x).visit = s.visit := rfl
@[simp] theorem setSlot_icinvs (s : State) (k : Nat) (x : Slot) : (setSlot s k x).icinvs = s.icinvs := rfl
@[simp] theorem setSlot_free (s : State) (k : Nat) (x : Slot) : (setSlot s k x).free = s.free := rfl
@[simp] theorem setSlot_ids (s : State) (k : Nat) (x : Slot) : (setSlot s k x).ids = s.ids := rfl
@[simp] theorem setSlot_agenda (s : State) (k : Nat) (x : Slot) : (setSlot s k x).agenda = s.agenda := rfl
@[simp] theorem setSlot_sched (s : State) (k : Nat) (x : Slot) : (setSlot s k x).sched = s.sched := rfl
@[simp] theorem setSlot_rails (s : State) (k : Nat) (x : Slot) : (setSlot s k x).rails = s.rails := rfl

/-! ### updLaunch -/

@[simp] theorem updLaunch_agent (s : State) (l : Nat) (f : Launch → Launch) : (updLaunch s l f).agent = s.agent := rfl
@[simp] theorem updLaunch_part (s : State) (l : Nat) (f : Launch → Launch) : (updLaunch s l f).part = s.part := rfl
@[simp] theorem updLaunch_sibs (s : State) (l : Nat) (f : Launch → Launch) : (updLaunch s l f).sibs = s.sibs := rfl
@[simp] theorem updLaunch_wave (s : State) (l : Nat) (f : Launch → Launch) : (updLaunch s l f).wave = s.wave := rfl
@[simp] theorem updLaunch_waves (s : State) (l : Nat) (f : Launch → Launch) : (updLaunch s l f).waves = s.waves := rfl
@[simp] theorem updLaunch_crew (s : State) (l : Nat) (f : Launch → Launch) : (updLaunch s l f).crew = s.crew := rfl
@[simp] theorem updLaunch_crews (s : State) (l : Nat) (f : Launch → Launch) : (updLaunch s l f).crews = s.crews := rfl
@[simp] theorem updLaunch_cores (s : State) (l : Nat) (f : Launch → Launch) : (updLaunch s l f).cores = s.cores := rfl
@[simp] theorem updLaunch_clusters (s : State) (l : Nat) (f : Launch → Launch) :
    (updLaunch s l f).clusters = s.clusters := rfl
@[simp] theorem updLaunch_vaults (s : State) (l : Nat) (f : Launch → Launch) : (updLaunch s l f).vaults = s.vaults := rfl
@[simp] theorem updLaunch_memsys (s : State) (l : Nat) (f : Launch → Launch) : (updLaunch s l f).memsys = s.memsys := rfl
@[simp] theorem updLaunch_net (s : State) (l : Nat) (f : Launch → Launch) : (updLaunch s l f).net = s.net := rfl
@[simp] theorem updLaunch_ctxs (s : State) (l : Nat) (f : Launch → Launch) : (updLaunch s l f).ctxs = s.ctxs := rfl
@[simp] theorem updLaunch_launches (s : State) (l : Nat) (f : Launch → Launch) :
    (updLaunch s l f).launches = updIf (fun x => x.lid == l) f s.launches := rfl
@[simp] theorem updLaunch_slots (s : State) (l : Nat) (f : Launch → Launch) : (updLaunch s l f).slots = s.slots := rfl
@[simp] theorem updLaunch_rays (s : State) (l : Nat) (f : Launch → Launch) : (updLaunch s l f).rays = s.rays := rfl
@[simp] theorem updLaunch_gwaves (s : State) (l : Nat) (f : Launch → Launch) : (updLaunch s l f).gwaves = s.gwaves := rfl
@[simp] theorem updLaunch_pkg (s : State) (l : Nat) (f : Launch → Launch) : (updLaunch s l f).pkg = s.pkg := rfl
@[simp] theorem updLaunch_fabric (s : State) (l : Nat) (f : Launch → Launch) : (updLaunch s l f).fabric = s.fabric := rfl
@[simp] theorem updLaunch_clock (s : State) (l : Nat) (f : Launch → Launch) : (updLaunch s l f).clock = s.clock := rfl
@[simp] theorem updLaunch_visit (s : State) (l : Nat) (f : Launch → Launch) : (updLaunch s l f).visit = s.visit := rfl
@[simp] theorem updLaunch_icinvs (s : State) (l : Nat) (f : Launch → Launch) : (updLaunch s l f).icinvs = s.icinvs := rfl
@[simp] theorem updLaunch_free (s : State) (l : Nat) (f : Launch → Launch) : (updLaunch s l f).free = s.free := rfl
@[simp] theorem updLaunch_ids (s : State) (l : Nat) (f : Launch → Launch) : (updLaunch s l f).ids = s.ids := rfl
@[simp] theorem updLaunch_agenda (s : State) (l : Nat) (f : Launch → Launch) : (updLaunch s l f).agenda = s.agenda := rfl
@[simp] theorem updLaunch_sched (s : State) (l : Nat) (f : Launch → Launch) : (updLaunch s l f).sched = s.sched := rfl
@[simp] theorem updLaunch_rails (s : State) (l : Nat) (f : Launch → Launch) : (updLaunch s l f).rails = s.rails := rfl

/-! ### updAccess -/

@[simp] theorem updAccess_agent (i : Nat) (f : Access → Access) (s : State) : (updAccess i f s).agent = s.agent := rfl
@[simp] theorem updAccess_part (i : Nat) (f : Access → Access) (s : State) : (updAccess i f s).part = s.part := rfl
@[simp] theorem updAccess_sibs (i : Nat) (f : Access → Access) (s : State) : (updAccess i f s).sibs = s.sibs := rfl
@[simp] theorem updAccess_wave (i : Nat) (f : Access → Access) (s : State) : (updAccess i f s).wave = s.wave := rfl
@[simp] theorem updAccess_waves (i : Nat) (f : Access → Access) (s : State) : (updAccess i f s).waves = s.waves := rfl
@[simp] theorem updAccess_crew (i : Nat) (f : Access → Access) (s : State) : (updAccess i f s).crew = s.crew := rfl
@[simp] theorem updAccess_crews (i : Nat) (f : Access → Access) (s : State) : (updAccess i f s).crews = s.crews := rfl
@[simp] theorem updAccess_cores (i : Nat) (f : Access → Access) (s : State) : (updAccess i f s).cores = s.cores := rfl
@[simp] theorem updAccess_clusters (i : Nat) (f : Access → Access) (s : State) :
    (updAccess i f s).clusters = s.clusters := rfl
@[simp] theorem updAccess_vaults (i : Nat) (f : Access → Access) (s : State) : (updAccess i f s).vaults = s.vaults := rfl
@[simp] theorem updAccess_memsys (i : Nat) (f : Access → Access) (s : State) : (updAccess i f s).memsys = s.memsys := rfl
@[simp] theorem updAccess_net (i : Nat) (f : Access → Access) (s : State) :
    (updAccess i f s).net = updIf (fun a => a.id == i) f s.net := rfl
@[simp] theorem updAccess_ctxs (i : Nat) (f : Access → Access) (s : State) : (updAccess i f s).ctxs = s.ctxs := rfl
@[simp] theorem updAccess_launches (i : Nat) (f : Access → Access) (s : State) :
    (updAccess i f s).launches = s.launches := rfl
@[simp] theorem updAccess_slots (i : Nat) (f : Access → Access) (s : State) : (updAccess i f s).slots = s.slots := rfl
@[simp] theorem updAccess_rays (i : Nat) (f : Access → Access) (s : State) : (updAccess i f s).rays = s.rays := rfl
@[simp] theorem updAccess_gwaves (i : Nat) (f : Access → Access) (s : State) : (updAccess i f s).gwaves = s.gwaves := rfl
@[simp] theorem updAccess_pkg (i : Nat) (f : Access → Access) (s : State) : (updAccess i f s).pkg = s.pkg := rfl
@[simp] theorem updAccess_fabric (i : Nat) (f : Access → Access) (s : State) : (updAccess i f s).fabric = s.fabric := rfl
@[simp] theorem updAccess_clock (i : Nat) (f : Access → Access) (s : State) : (updAccess i f s).clock = s.clock := rfl
@[simp] theorem updAccess_visit (i : Nat) (f : Access → Access) (s : State) : (updAccess i f s).visit = s.visit := rfl
@[simp] theorem updAccess_icinvs (i : Nat) (f : Access → Access) (s : State) : (updAccess i f s).icinvs = s.icinvs := rfl
@[simp] theorem updAccess_free (i : Nat) (f : Access → Access) (s : State) : (updAccess i f s).free = s.free := rfl
@[simp] theorem updAccess_ids (i : Nat) (f : Access → Access) (s : State) : (updAccess i f s).ids = s.ids := rfl
@[simp] theorem updAccess_agenda (i : Nat) (f : Access → Access) (s : State) : (updAccess i f s).agenda = s.agenda := rfl
@[simp] theorem updAccess_sched (i : Nat) (f : Access → Access) (s : State) : (updAccess i f s).sched = s.sched := rfl
@[simp] theorem updAccess_rails (i : Nat) (f : Access → Access) (s : State) : (updAccess i f s).rails = s.rails := rfl

/-! ### updRay -/

@[simp] theorem updRay_agent (i : Nat) (f : Ray → Ray) (s : State) : (updRay i f s).agent = s.agent := rfl
@[simp] theorem updRay_part (i : Nat) (f : Ray → Ray) (s : State) : (updRay i f s).part = s.part := rfl
@[simp] theorem updRay_sibs (i : Nat) (f : Ray → Ray) (s : State) : (updRay i f s).sibs = s.sibs := rfl
@[simp] theorem updRay_wave (i : Nat) (f : Ray → Ray) (s : State) : (updRay i f s).wave = s.wave := rfl
@[simp] theorem updRay_waves (i : Nat) (f : Ray → Ray) (s : State) : (updRay i f s).waves = s.waves := rfl
@[simp] theorem updRay_crew (i : Nat) (f : Ray → Ray) (s : State) : (updRay i f s).crew = s.crew := rfl
@[simp] theorem updRay_crews (i : Nat) (f : Ray → Ray) (s : State) : (updRay i f s).crews = s.crews := rfl
@[simp] theorem updRay_cores (i : Nat) (f : Ray → Ray) (s : State) : (updRay i f s).cores = s.cores := rfl
@[simp] theorem updRay_clusters (i : Nat) (f : Ray → Ray) (s : State) : (updRay i f s).clusters = s.clusters := rfl
@[simp] theorem updRay_vaults (i : Nat) (f : Ray → Ray) (s : State) : (updRay i f s).vaults = s.vaults := rfl
@[simp] theorem updRay_memsys (i : Nat) (f : Ray → Ray) (s : State) : (updRay i f s).memsys = s.memsys := rfl
@[simp] theorem updRay_net (i : Nat) (f : Ray → Ray) (s : State) : (updRay i f s).net = s.net := rfl
@[simp] theorem updRay_ctxs (i : Nat) (f : Ray → Ray) (s : State) : (updRay i f s).ctxs = s.ctxs := rfl
@[simp] theorem updRay_launches (i : Nat) (f : Ray → Ray) (s : State) : (updRay i f s).launches = s.launches := rfl
@[simp] theorem updRay_slots (i : Nat) (f : Ray → Ray) (s : State) : (updRay i f s).slots = s.slots := rfl
@[simp] theorem updRay_rays (i : Nat) (f : Ray → Ray) (s : State) :
    (updRay i f s).rays = updIf (fun r => r.id == i) f s.rays := rfl
@[simp] theorem updRay_gwaves (i : Nat) (f : Ray → Ray) (s : State) : (updRay i f s).gwaves = s.gwaves := rfl
@[simp] theorem updRay_pkg (i : Nat) (f : Ray → Ray) (s : State) : (updRay i f s).pkg = s.pkg := rfl
@[simp] theorem updRay_fabric (i : Nat) (f : Ray → Ray) (s : State) : (updRay i f s).fabric = s.fabric := rfl
@[simp] theorem updRay_clock (i : Nat) (f : Ray → Ray) (s : State) : (updRay i f s).clock = s.clock := rfl
@[simp] theorem updRay_visit (i : Nat) (f : Ray → Ray) (s : State) : (updRay i f s).visit = s.visit := rfl
@[simp] theorem updRay_icinvs (i : Nat) (f : Ray → Ray) (s : State) : (updRay i f s).icinvs = s.icinvs := rfl
@[simp] theorem updRay_free (i : Nat) (f : Ray → Ray) (s : State) : (updRay i f s).free = s.free := rfl
@[simp] theorem updRay_ids (i : Nat) (f : Ray → Ray) (s : State) : (updRay i f s).ids = s.ids := rfl
@[simp] theorem updRay_agenda (i : Nat) (f : Ray → Ray) (s : State) : (updRay i f s).agenda = s.agenda := rfl
@[simp] theorem updRay_sched (i : Nat) (f : Ray → Ray) (s : State) : (updRay i f s).sched = s.sched := rfl
@[simp] theorem updRay_rails (i : Nat) (f : Ray → Ray) (s : State) : (updRay i f s).rails = s.rails := rfl

/-! ### setHomeLine -/

@[simp] theorem setHomeLine_agent (s : State) (l : Nat) (x : HomeLine) : (setHomeLine s l x).agent = s.agent := rfl
@[simp] theorem setHomeLine_part (s : State) (l : Nat) (x : HomeLine) : (setHomeLine s l x).part = s.part := rfl
@[simp] theorem setHomeLine_sibs (s : State) (l : Nat) (x : HomeLine) : (setHomeLine s l x).sibs = s.sibs := rfl
@[simp] theorem setHomeLine_wave (s : State) (l : Nat) (x : HomeLine) : (setHomeLine s l x).wave = s.wave := rfl
@[simp] theorem setHomeLine_waves (s : State) (l : Nat) (x : HomeLine) : (setHomeLine s l x).waves = s.waves := rfl
@[simp] theorem setHomeLine_crew (s : State) (l : Nat) (x : HomeLine) : (setHomeLine s l x).crew = s.crew := rfl
@[simp] theorem setHomeLine_crews (s : State) (l : Nat) (x : HomeLine) : (setHomeLine s l x).crews = s.crews := rfl
@[simp] theorem setHomeLine_cores (s : State) (l : Nat) (x : HomeLine) : (setHomeLine s l x).cores = s.cores := rfl
@[simp] theorem setHomeLine_clusters (s : State) (l : Nat) (x : HomeLine) : (setHomeLine s l x).clusters = s.clusters := rfl
@[simp] theorem setHomeLine_vaults (s : State) (l : Nat) (x : HomeLine) : (setHomeLine s l x).vaults = s.vaults := rfl
@[simp] theorem setHomeLine_memsys (s : State) (l : Nat) (x : HomeLine) :
    (setHomeLine s l x).memsys = { s.memsys with lines := cset HomeLine.none s.memsys.lines l x } := rfl
@[simp] theorem setHomeLine_net (s : State) (l : Nat) (x : HomeLine) : (setHomeLine s l x).net = s.net := rfl
@[simp] theorem setHomeLine_ctxs (s : State) (l : Nat) (x : HomeLine) : (setHomeLine s l x).ctxs = s.ctxs := rfl
@[simp] theorem setHomeLine_launches (s : State) (l : Nat) (x : HomeLine) : (setHomeLine s l x).launches = s.launches := rfl
@[simp] theorem setHomeLine_slots (s : State) (l : Nat) (x : HomeLine) : (setHomeLine s l x).slots = s.slots := rfl
@[simp] theorem setHomeLine_rays (s : State) (l : Nat) (x : HomeLine) : (setHomeLine s l x).rays = s.rays := rfl
@[simp] theorem setHomeLine_gwaves (s : State) (l : Nat) (x : HomeLine) : (setHomeLine s l x).gwaves = s.gwaves := rfl
@[simp] theorem setHomeLine_pkg (s : State) (l : Nat) (x : HomeLine) : (setHomeLine s l x).pkg = s.pkg := rfl
@[simp] theorem setHomeLine_fabric (s : State) (l : Nat) (x : HomeLine) : (setHomeLine s l x).fabric = s.fabric := rfl
@[simp] theorem setHomeLine_clock (s : State) (l : Nat) (x : HomeLine) : (setHomeLine s l x).clock = s.clock := rfl
@[simp] theorem setHomeLine_visit (s : State) (l : Nat) (x : HomeLine) : (setHomeLine s l x).visit = s.visit := rfl
@[simp] theorem setHomeLine_icinvs (s : State) (l : Nat) (x : HomeLine) : (setHomeLine s l x).icinvs = s.icinvs := rfl
@[simp] theorem setHomeLine_free (s : State) (l : Nat) (x : HomeLine) : (setHomeLine s l x).free = s.free := rfl
@[simp] theorem setHomeLine_ids (s : State) (l : Nat) (x : HomeLine) : (setHomeLine s l x).ids = s.ids := rfl
@[simp] theorem setHomeLine_agenda (s : State) (l : Nat) (x : HomeLine) : (setHomeLine s l x).agenda = s.agenda := rfl
@[simp] theorem setHomeLine_sched (s : State) (l : Nat) (x : HomeLine) : (setHomeLine s l x).sched = s.sched := rfl
@[simp] theorem setHomeLine_rails (s : State) (l : Nat) (x : HomeLine) : (setHomeLine s l x).rails = s.rails := rfl

/-! ### setPort -/

@[simp] theorem setPort_agent (p : Nat) (x : Port) (s : State) : (setPort p x s).agent = s.agent := rfl
@[simp] theorem setPort_part (p : Nat) (x : Port) (s : State) : (setPort p x s).part = s.part := rfl
@[simp] theorem setPort_sibs (p : Nat) (x : Port) (s : State) : (setPort p x s).sibs = s.sibs := rfl
@[simp] theorem setPort_wave (p : Nat) (x : Port) (s : State) : (setPort p x s).wave = s.wave := rfl
@[simp] theorem setPort_waves (p : Nat) (x : Port) (s : State) : (setPort p x s).waves = s.waves := rfl
@[simp] theorem setPort_crew (p : Nat) (x : Port) (s : State) : (setPort p x s).crew = s.crew := rfl
@[simp] theorem setPort_crews (p : Nat) (x : Port) (s : State) : (setPort p x s).crews = s.crews := rfl
@[simp] theorem setPort_cores (p : Nat) (x : Port) (s : State) : (setPort p x s).cores = s.cores := rfl
@[simp] theorem setPort_clusters (p : Nat) (x : Port) (s : State) : (setPort p x s).clusters = s.clusters := rfl
@[simp] theorem setPort_vaults (p : Nat) (x : Port) (s : State) : (setPort p x s).vaults = s.vaults := rfl
@[simp] theorem setPort_memsys (p : Nat) (x : Port) (s : State) : (setPort p x s).memsys = s.memsys := rfl
@[simp] theorem setPort_net (p : Nat) (x : Port) (s : State) : (setPort p x s).net = s.net := rfl
@[simp] theorem setPort_ctxs (p : Nat) (x : Port) (s : State) : (setPort p x s).ctxs = s.ctxs := rfl
@[simp] theorem setPort_launches (p : Nat) (x : Port) (s : State) : (setPort p x s).launches = s.launches := rfl
@[simp] theorem setPort_slots (p : Nat) (x : Port) (s : State) : (setPort p x s).slots = s.slots := rfl
@[simp] theorem setPort_rays (p : Nat) (x : Port) (s : State) : (setPort p x s).rays = s.rays := rfl
@[simp] theorem setPort_gwaves (p : Nat) (x : Port) (s : State) : (setPort p x s).gwaves = s.gwaves := rfl
@[simp] theorem setPort_pkg (p : Nat) (x : Port) (s : State) : (setPort p x s).pkg = s.pkg := rfl
@[simp] theorem setPort_fabric (p : Nat) (x : Port) (s : State) :
    (setPort p x s).fabric = { s.fabric with ports := cset Port.none s.fabric.ports p x } := rfl
@[simp] theorem setPort_clock (p : Nat) (x : Port) (s : State) : (setPort p x s).clock = s.clock := rfl
@[simp] theorem setPort_visit (p : Nat) (x : Port) (s : State) : (setPort p x s).visit = s.visit := rfl
@[simp] theorem setPort_icinvs (p : Nat) (x : Port) (s : State) : (setPort p x s).icinvs = s.icinvs := rfl
@[simp] theorem setPort_free (p : Nat) (x : Port) (s : State) : (setPort p x s).free = s.free := rfl
@[simp] theorem setPort_ids (p : Nat) (x : Port) (s : State) : (setPort p x s).ids = s.ids := rfl
@[simp] theorem setPort_agenda (p : Nat) (x : Port) (s : State) : (setPort p x s).agenda = s.agenda := rfl
@[simp] theorem setPort_sched (p : Nat) (x : Port) (s : State) : (setPort p x s).sched = s.sched := rfl
@[simp] theorem setPort_rails (p : Nat) (x : Port) (s : State) : (setPort p x s).rails = s.rails := rfl

/-! ### setEmber -/

@[simp] theorem setEmber_agent (c q : Nat) (e : Ember) (s : State) : (setEmber c q e s).agent = s.agent := rfl
@[simp] theorem setEmber_part (c q : Nat) (e : Ember) (s : State) : (setEmber c q e s).part = s.part := rfl
@[simp] theorem setEmber_sibs (c q : Nat) (e : Ember) (s : State) : (setEmber c q e s).sibs = s.sibs := rfl
@[simp] theorem setEmber_wave (c q : Nat) (e : Ember) (s : State) : (setEmber c q e s).wave = s.wave := rfl
@[simp] theorem setEmber_waves (c q : Nat) (e : Ember) (s : State) : (setEmber c q e s).waves = s.waves := rfl
@[simp] theorem setEmber_crew (c q : Nat) (e : Ember) (s : State) : (setEmber c q e s).crew = s.crew := rfl
@[simp] theorem setEmber_crews (c q : Nat) (e : Ember) (s : State) : (setEmber c q e s).crews = s.crews := rfl
@[simp] theorem setEmber_clusters (c q : Nat) (e : Ember) (s : State) : (setEmber c q e s).clusters = s.clusters := rfl
@[simp] theorem setEmber_vaults (c q : Nat) (e : Ember) (s : State) : (setEmber c q e s).vaults = s.vaults := rfl
@[simp] theorem setEmber_memsys (c q : Nat) (e : Ember) (s : State) : (setEmber c q e s).memsys = s.memsys := rfl
@[simp] theorem setEmber_net (c q : Nat) (e : Ember) (s : State) : (setEmber c q e s).net = s.net := rfl
@[simp] theorem setEmber_ctxs (c q : Nat) (e : Ember) (s : State) : (setEmber c q e s).ctxs = s.ctxs := rfl
@[simp] theorem setEmber_launches (c q : Nat) (e : Ember) (s : State) : (setEmber c q e s).launches = s.launches := rfl
@[simp] theorem setEmber_slots (c q : Nat) (e : Ember) (s : State) : (setEmber c q e s).slots = s.slots := rfl
@[simp] theorem setEmber_rays (c q : Nat) (e : Ember) (s : State) : (setEmber c q e s).rays = s.rays := rfl
@[simp] theorem setEmber_gwaves (c q : Nat) (e : Ember) (s : State) : (setEmber c q e s).gwaves = s.gwaves := rfl
@[simp] theorem setEmber_pkg (c q : Nat) (e : Ember) (s : State) : (setEmber c q e s).pkg = s.pkg := rfl
@[simp] theorem setEmber_fabric (c q : Nat) (e : Ember) (s : State) : (setEmber c q e s).fabric = s.fabric := rfl
@[simp] theorem setEmber_clock (c q : Nat) (e : Ember) (s : State) : (setEmber c q e s).clock = s.clock := rfl
@[simp] theorem setEmber_visit (c q : Nat) (e : Ember) (s : State) : (setEmber c q e s).visit = s.visit := rfl
@[simp] theorem setEmber_icinvs (c q : Nat) (e : Ember) (s : State) : (setEmber c q e s).icinvs = s.icinvs := rfl
@[simp] theorem setEmber_free (c q : Nat) (e : Ember) (s : State) : (setEmber c q e s).free = s.free := rfl
@[simp] theorem setEmber_ids (c q : Nat) (e : Ember) (s : State) : (setEmber c q e s).ids = s.ids := rfl
@[simp] theorem setEmber_agenda (c q : Nat) (e : Ember) (s : State) : (setEmber c q e s).agenda = s.agenda := rfl
@[simp] theorem setEmber_sched (c q : Nat) (e : Ember) (s : State) : (setEmber c q e s).sched = s.sched := rfl
@[simp] theorem setEmber_rails (c q : Nat) (e : Ember) (s : State) : (setEmber c q e s).rails = s.rails := rfl

/-! ### updLife -/

@[simp] theorem updLife_agent (f : Lifetime → Lifetime) (s : State) : (updLife f s).agent = s.agent := rfl
@[simp] theorem updLife_part (f : Lifetime → Lifetime) (s : State) : (updLife f s).part = s.part := rfl
@[simp] theorem updLife_sibs (f : Lifetime → Lifetime) (s : State) : (updLife f s).sibs = s.sibs := rfl
@[simp] theorem updLife_wave (f : Lifetime → Lifetime) (s : State) : (updLife f s).wave = s.wave := rfl
@[simp] theorem updLife_waves (f : Lifetime → Lifetime) (s : State) : (updLife f s).waves = s.waves := rfl
@[simp] theorem updLife_crew (f : Lifetime → Lifetime) (s : State) : (updLife f s).crew = s.crew := rfl
@[simp] theorem updLife_crews (f : Lifetime → Lifetime) (s : State) : (updLife f s).crews = s.crews := rfl
@[simp] theorem updLife_cores (f : Lifetime → Lifetime) (s : State) : (updLife f s).cores = s.cores := rfl
@[simp] theorem updLife_clusters (f : Lifetime → Lifetime) (s : State) : (updLife f s).clusters = s.clusters := rfl
@[simp] theorem updLife_vaults (f : Lifetime → Lifetime) (s : State) : (updLife f s).vaults = s.vaults := rfl
@[simp] theorem updLife_memsys (f : Lifetime → Lifetime) (s : State) : (updLife f s).memsys = s.memsys := rfl
@[simp] theorem updLife_net (f : Lifetime → Lifetime) (s : State) : (updLife f s).net = s.net := rfl
@[simp] theorem updLife_ctxs (f : Lifetime → Lifetime) (s : State) : (updLife f s).ctxs = s.ctxs := rfl
@[simp] theorem updLife_launches (f : Lifetime → Lifetime) (s : State) : (updLife f s).launches = s.launches := rfl
@[simp] theorem updLife_slots (f : Lifetime → Lifetime) (s : State) : (updLife f s).slots = s.slots := rfl
@[simp] theorem updLife_rays (f : Lifetime → Lifetime) (s : State) : (updLife f s).rays = s.rays := rfl
@[simp] theorem updLife_gwaves (f : Lifetime → Lifetime) (s : State) : (updLife f s).gwaves = s.gwaves := rfl
@[simp] theorem updLife_pkg (f : Lifetime → Lifetime) (s : State) :
    (updLife f s).pkg = { s.pkg with life := f s.pkg.life } := rfl
@[simp] theorem updLife_fabric (f : Lifetime → Lifetime) (s : State) : (updLife f s).fabric = s.fabric := rfl
@[simp] theorem updLife_clock (f : Lifetime → Lifetime) (s : State) : (updLife f s).clock = s.clock := rfl
@[simp] theorem updLife_visit (f : Lifetime → Lifetime) (s : State) : (updLife f s).visit = s.visit := rfl
@[simp] theorem updLife_icinvs (f : Lifetime → Lifetime) (s : State) : (updLife f s).icinvs = s.icinvs := rfl
@[simp] theorem updLife_free (f : Lifetime → Lifetime) (s : State) : (updLife f s).free = s.free := rfl
@[simp] theorem updLife_ids (f : Lifetime → Lifetime) (s : State) : (updLife f s).ids = s.ids := rfl
@[simp] theorem updLife_agenda (f : Lifetime → Lifetime) (s : State) : (updLife f s).agenda = s.agenda := rfl
@[simp] theorem updLife_sched (f : Lifetime → Lifetime) (s : State) : (updLife f s).sched = s.sched := rfl
@[simp] theorem updLife_rails (f : Lifetime → Lifetime) (s : State) : (updLife f s).rails = s.rails := rfl

/-! ### updCopy -/

@[simp] theorem updCopy_agent (o : Nat) (f : Copy → Copy) (s : State) : (updCopy o f s).agent = s.agent := rfl
@[simp] theorem updCopy_part (o : Nat) (f : Copy → Copy) (s : State) : (updCopy o f s).part = s.part := rfl
@[simp] theorem updCopy_sibs (o : Nat) (f : Copy → Copy) (s : State) : (updCopy o f s).sibs = s.sibs := rfl
@[simp] theorem updCopy_wave (o : Nat) (f : Copy → Copy) (s : State) : (updCopy o f s).wave = s.wave := rfl
@[simp] theorem updCopy_waves (o : Nat) (f : Copy → Copy) (s : State) : (updCopy o f s).waves = s.waves := rfl
@[simp] theorem updCopy_crew (o : Nat) (f : Copy → Copy) (s : State) :
    (updCopy o f s).crew = { s.crew with copies := updIf (fun c => c.ord == o) f s.crew.copies } := rfl
@[simp] theorem updCopy_crews (o : Nat) (f : Copy → Copy) (s : State) : (updCopy o f s).crews = s.crews := rfl
@[simp] theorem updCopy_cores (o : Nat) (f : Copy → Copy) (s : State) : (updCopy o f s).cores = s.cores := rfl
@[simp] theorem updCopy_clusters (o : Nat) (f : Copy → Copy) (s : State) : (updCopy o f s).clusters = s.clusters := rfl
@[simp] theorem updCopy_vaults (o : Nat) (f : Copy → Copy) (s : State) : (updCopy o f s).vaults = s.vaults := rfl
@[simp] theorem updCopy_memsys (o : Nat) (f : Copy → Copy) (s : State) : (updCopy o f s).memsys = s.memsys := rfl
@[simp] theorem updCopy_net (o : Nat) (f : Copy → Copy) (s : State) : (updCopy o f s).net = s.net := rfl
@[simp] theorem updCopy_ctxs (o : Nat) (f : Copy → Copy) (s : State) : (updCopy o f s).ctxs = s.ctxs := rfl
@[simp] theorem updCopy_launches (o : Nat) (f : Copy → Copy) (s : State) : (updCopy o f s).launches = s.launches := rfl
@[simp] theorem updCopy_slots (o : Nat) (f : Copy → Copy) (s : State) : (updCopy o f s).slots = s.slots := rfl
@[simp] theorem updCopy_rays (o : Nat) (f : Copy → Copy) (s : State) : (updCopy o f s).rays = s.rays := rfl
@[simp] theorem updCopy_gwaves (o : Nat) (f : Copy → Copy) (s : State) : (updCopy o f s).gwaves = s.gwaves := rfl
@[simp] theorem updCopy_pkg (o : Nat) (f : Copy → Copy) (s : State) : (updCopy o f s).pkg = s.pkg := rfl
@[simp] theorem updCopy_fabric (o : Nat) (f : Copy → Copy) (s : State) : (updCopy o f s).fabric = s.fabric := rfl
@[simp] theorem updCopy_clock (o : Nat) (f : Copy → Copy) (s : State) : (updCopy o f s).clock = s.clock := rfl
@[simp] theorem updCopy_visit (o : Nat) (f : Copy → Copy) (s : State) : (updCopy o f s).visit = s.visit := rfl
@[simp] theorem updCopy_icinvs (o : Nat) (f : Copy → Copy) (s : State) : (updCopy o f s).icinvs = s.icinvs := rfl
@[simp] theorem updCopy_free (o : Nat) (f : Copy → Copy) (s : State) : (updCopy o f s).free = s.free := rfl
@[simp] theorem updCopy_ids (o : Nat) (f : Copy → Copy) (s : State) : (updCopy o f s).ids = s.ids := rfl
@[simp] theorem updCopy_agenda (o : Nat) (f : Copy → Copy) (s : State) : (updCopy o f s).agenda = s.agenda := rfl
@[simp] theorem updCopy_sched (o : Nat) (f : Copy → Copy) (s : State) : (updCopy o f s).sched = s.sched := rfl
@[simp] theorem updCopy_rails (o : Nat) (f : Copy → Copy) (s : State) : (updCopy o f s).rails = s.rails := rfl

/-! ### updMatrix -/

@[simp] theorem updMatrix_agent (f : Matrix → Matrix) (s : State) : (updMatrix f s).agent = s.agent := rfl
@[simp] theorem updMatrix_part (f : Matrix → Matrix) (s : State) : (updMatrix f s).part = s.part := rfl
@[simp] theorem updMatrix_sibs (f : Matrix → Matrix) (s : State) : (updMatrix f s).sibs = s.sibs := rfl
@[simp] theorem updMatrix_wave (f : Matrix → Matrix) (s : State) : (updMatrix f s).wave = s.wave := rfl
@[simp] theorem updMatrix_waves (f : Matrix → Matrix) (s : State) : (updMatrix f s).waves = s.waves := rfl
@[simp] theorem updMatrix_crew (f : Matrix → Matrix) (s : State) :
    (updMatrix f s).crew = { s.crew with matrix := f s.crew.matrix } := rfl
@[simp] theorem updMatrix_crews (f : Matrix → Matrix) (s : State) : (updMatrix f s).crews = s.crews := rfl
@[simp] theorem updMatrix_cores (f : Matrix → Matrix) (s : State) : (updMatrix f s).cores = s.cores := rfl
@[simp] theorem updMatrix_clusters (f : Matrix → Matrix) (s : State) : (updMatrix f s).clusters = s.clusters := rfl
@[simp] theorem updMatrix_vaults (f : Matrix → Matrix) (s : State) : (updMatrix f s).vaults = s.vaults := rfl
@[simp] theorem updMatrix_memsys (f : Matrix → Matrix) (s : State) : (updMatrix f s).memsys = s.memsys := rfl
@[simp] theorem updMatrix_net (f : Matrix → Matrix) (s : State) : (updMatrix f s).net = s.net := rfl
@[simp] theorem updMatrix_ctxs (f : Matrix → Matrix) (s : State) : (updMatrix f s).ctxs = s.ctxs := rfl
@[simp] theorem updMatrix_launches (f : Matrix → Matrix) (s : State) : (updMatrix f s).launches = s.launches := rfl
@[simp] theorem updMatrix_slots (f : Matrix → Matrix) (s : State) : (updMatrix f s).slots = s.slots := rfl
@[simp] theorem updMatrix_rays (f : Matrix → Matrix) (s : State) : (updMatrix f s).rays = s.rays := rfl
@[simp] theorem updMatrix_gwaves (f : Matrix → Matrix) (s : State) : (updMatrix f s).gwaves = s.gwaves := rfl
@[simp] theorem updMatrix_pkg (f : Matrix → Matrix) (s : State) : (updMatrix f s).pkg = s.pkg := rfl
@[simp] theorem updMatrix_fabric (f : Matrix → Matrix) (s : State) : (updMatrix f s).fabric = s.fabric := rfl
@[simp] theorem updMatrix_clock (f : Matrix → Matrix) (s : State) : (updMatrix f s).clock = s.clock := rfl
@[simp] theorem updMatrix_visit (f : Matrix → Matrix) (s : State) : (updMatrix f s).visit = s.visit := rfl
@[simp] theorem updMatrix_icinvs (f : Matrix → Matrix) (s : State) : (updMatrix f s).icinvs = s.icinvs := rfl
@[simp] theorem updMatrix_free (f : Matrix → Matrix) (s : State) : (updMatrix f s).free = s.free := rfl
@[simp] theorem updMatrix_ids (f : Matrix → Matrix) (s : State) : (updMatrix f s).ids = s.ids := rfl
@[simp] theorem updMatrix_agenda (f : Matrix → Matrix) (s : State) : (updMatrix f s).agenda = s.agenda := rfl
@[simp] theorem updMatrix_sched (f : Matrix → Matrix) (s : State) : (updMatrix f s).sched = s.sched := rfl
@[simp] theorem updMatrix_rails (f : Matrix → Matrix) (s : State) : (updMatrix f s).rails = s.rails := rfl

/-! ### updSlice -/

@[simp] theorem updSlice_agent (f : Slice → Slice) (s : State) : (updSlice f s).agent = s.agent := rfl
@[simp] theorem updSlice_part (f : Slice → Slice) (s : State) : (updSlice f s).part = s.part := rfl
@[simp] theorem updSlice_sibs (f : Slice → Slice) (s : State) : (updSlice f s).sibs = s.sibs := rfl
@[simp] theorem updSlice_wave (f : Slice → Slice) (s : State) : (updSlice f s).wave = s.wave := rfl
@[simp] theorem updSlice_waves (f : Slice → Slice) (s : State) : (updSlice f s).waves = s.waves := rfl
@[simp] theorem updSlice_crew (f : Slice → Slice) (s : State) :
    (updSlice f s).crew = { s.crew with slice := f s.crew.slice } := rfl
@[simp] theorem updSlice_crews (f : Slice → Slice) (s : State) : (updSlice f s).crews = s.crews := rfl
@[simp] theorem updSlice_cores (f : Slice → Slice) (s : State) : (updSlice f s).cores = s.cores := rfl
@[simp] theorem updSlice_clusters (f : Slice → Slice) (s : State) : (updSlice f s).clusters = s.clusters := rfl
@[simp] theorem updSlice_vaults (f : Slice → Slice) (s : State) : (updSlice f s).vaults = s.vaults := rfl
@[simp] theorem updSlice_memsys (f : Slice → Slice) (s : State) : (updSlice f s).memsys = s.memsys := rfl
@[simp] theorem updSlice_net (f : Slice → Slice) (s : State) : (updSlice f s).net = s.net := rfl
@[simp] theorem updSlice_ctxs (f : Slice → Slice) (s : State) : (updSlice f s).ctxs = s.ctxs := rfl
@[simp] theorem updSlice_launches (f : Slice → Slice) (s : State) : (updSlice f s).launches = s.launches := rfl
@[simp] theorem updSlice_slots (f : Slice → Slice) (s : State) : (updSlice f s).slots = s.slots := rfl
@[simp] theorem updSlice_rays (f : Slice → Slice) (s : State) : (updSlice f s).rays = s.rays := rfl
@[simp] theorem updSlice_gwaves (f : Slice → Slice) (s : State) : (updSlice f s).gwaves = s.gwaves := rfl
@[simp] theorem updSlice_pkg (f : Slice → Slice) (s : State) : (updSlice f s).pkg = s.pkg := rfl
@[simp] theorem updSlice_fabric (f : Slice → Slice) (s : State) : (updSlice f s).fabric = s.fabric := rfl
@[simp] theorem updSlice_clock (f : Slice → Slice) (s : State) : (updSlice f s).clock = s.clock := rfl
@[simp] theorem updSlice_visit (f : Slice → Slice) (s : State) : (updSlice f s).visit = s.visit := rfl
@[simp] theorem updSlice_icinvs (f : Slice → Slice) (s : State) : (updSlice f s).icinvs = s.icinvs := rfl
@[simp] theorem updSlice_free (f : Slice → Slice) (s : State) : (updSlice f s).free = s.free := rfl
@[simp] theorem updSlice_ids (f : Slice → Slice) (s : State) : (updSlice f s).ids = s.ids := rfl
@[simp] theorem updSlice_agenda (f : Slice → Slice) (s : State) : (updSlice f s).agenda = s.agenda := rfl
@[simp] theorem updSlice_sched (f : Slice → Slice) (s : State) : (updSlice f s).sched = s.sched := rfl
@[simp] theorem updSlice_rails (f : Slice → Slice) (s : State) : (updSlice f s).rails = s.rails := rfl

/-! ### setExm -/

@[simp] theorem setExm_agent (x : W64) (s : State) : (setExm x s).agent = s.agent := rfl
@[simp] theorem setExm_part (x : W64) (s : State) :
    (setExm x s).part = { s.part with exm := x &&& partLanes s } := rfl
@[simp] theorem setExm_sibs (x : W64) (s : State) : (setExm x s).sibs = s.sibs := rfl
@[simp] theorem setExm_wave (x : W64) (s : State) : (setExm x s).wave = s.wave := rfl
@[simp] theorem setExm_waves (x : W64) (s : State) : (setExm x s).waves = s.waves := rfl
@[simp] theorem setExm_crew (x : W64) (s : State) : (setExm x s).crew = s.crew := rfl
@[simp] theorem setExm_crews (x : W64) (s : State) : (setExm x s).crews = s.crews := rfl
@[simp] theorem setExm_cores (x : W64) (s : State) : (setExm x s).cores = s.cores := rfl
@[simp] theorem setExm_clusters (x : W64) (s : State) : (setExm x s).clusters = s.clusters := rfl
@[simp] theorem setExm_vaults (x : W64) (s : State) : (setExm x s).vaults = s.vaults := rfl
@[simp] theorem setExm_memsys (x : W64) (s : State) : (setExm x s).memsys = s.memsys := rfl
@[simp] theorem setExm_net (x : W64) (s : State) : (setExm x s).net = s.net := rfl
@[simp] theorem setExm_ctxs (x : W64) (s : State) : (setExm x s).ctxs = s.ctxs := rfl
@[simp] theorem setExm_launches (x : W64) (s : State) : (setExm x s).launches = s.launches := rfl
@[simp] theorem setExm_slots (x : W64) (s : State) : (setExm x s).slots = s.slots := rfl
@[simp] theorem setExm_rays (x : W64) (s : State) : (setExm x s).rays = s.rays := rfl
@[simp] theorem setExm_gwaves (x : W64) (s : State) : (setExm x s).gwaves = s.gwaves := rfl
@[simp] theorem setExm_pkg (x : W64) (s : State) : (setExm x s).pkg = s.pkg := rfl
@[simp] theorem setExm_fabric (x : W64) (s : State) : (setExm x s).fabric = s.fabric := rfl
@[simp] theorem setExm_clock (x : W64) (s : State) : (setExm x s).clock = s.clock := rfl
@[simp] theorem setExm_visit (x : W64) (s : State) : (setExm x s).visit = s.visit := rfl
@[simp] theorem setExm_icinvs (x : W64) (s : State) : (setExm x s).icinvs = s.icinvs := rfl
@[simp] theorem setExm_free (x : W64) (s : State) : (setExm x s).free = s.free := rfl
@[simp] theorem setExm_ids (x : W64) (s : State) : (setExm x s).ids = s.ids := rfl
@[simp] theorem setExm_agenda (x : W64) (s : State) : (setExm x s).agenda = s.agenda := rfl
@[simp] theorem setExm_sched (x : W64) (s : State) : (setExm x s).sched = s.sched := rfl
@[simp] theorem setExm_rails (x : W64) (s : State) : (setExm x s).rails = s.rails := rfl

/-! ### landAll -/

@[simp] theorem landAll_agent (s : State) : (landAll s).agent = s.agent := rfl
@[simp] theorem landAll_part (s : State) :
    (landAll s).part = { s.part with pend := [] } := rfl
@[simp] theorem landAll_sibs (s : State) : (landAll s).sibs = s.sibs := rfl
@[simp] theorem landAll_wave (s : State) : (landAll s).wave = s.wave := rfl
@[simp] theorem landAll_waves (s : State) : (landAll s).waves = s.waves := rfl
@[simp] theorem landAll_crew (s : State) : (landAll s).crew = s.crew := rfl
@[simp] theorem landAll_crews (s : State) : (landAll s).crews = s.crews := rfl
@[simp] theorem landAll_cores (s : State) : (landAll s).cores = s.cores := rfl
@[simp] theorem landAll_clusters (s : State) : (landAll s).clusters = s.clusters := rfl
@[simp] theorem landAll_vaults (s : State) : (landAll s).vaults = s.vaults := rfl
@[simp] theorem landAll_memsys (s : State) : (landAll s).memsys = s.memsys := rfl
@[simp] theorem landAll_net (s : State) : (landAll s).net = s.net := rfl
@[simp] theorem landAll_ctxs (s : State) : (landAll s).ctxs = s.ctxs := rfl
@[simp] theorem landAll_launches (s : State) : (landAll s).launches = s.launches := rfl
@[simp] theorem landAll_slots (s : State) : (landAll s).slots = s.slots := rfl
@[simp] theorem landAll_rays (s : State) : (landAll s).rays = s.rays := rfl
@[simp] theorem landAll_gwaves (s : State) : (landAll s).gwaves = s.gwaves := rfl
@[simp] theorem landAll_pkg (s : State) : (landAll s).pkg = s.pkg := rfl
@[simp] theorem landAll_fabric (s : State) : (landAll s).fabric = s.fabric := rfl
@[simp] theorem landAll_clock (s : State) : (landAll s).clock = s.clock := rfl
@[simp] theorem landAll_visit (s : State) : (landAll s).visit = s.visit := rfl
@[simp] theorem landAll_icinvs (s : State) : (landAll s).icinvs = s.icinvs := rfl
@[simp] theorem landAll_free (s : State) : (landAll s).free = s.free := rfl
@[simp] theorem landAll_ids (s : State) : (landAll s).ids = s.ids := rfl
@[simp] theorem landAll_agenda (s : State) : (landAll s).agenda = s.agenda := rfl
@[simp] theorem landAll_sched (s : State) : (landAll s).sched = s.sched := rfl
@[simp] theorem landAll_rails (s : State) : (landAll s).rails = s.rails := rfl

/-! ### hold -/

@[simp] theorem hold_agent (s : State) : (hold s).agent = s.agent := rfl
@[simp] theorem hold_part (s : State) :
    (hold s).part = { s.part with wait := .retry } := rfl
@[simp] theorem hold_sibs (s : State) : (hold s).sibs = s.sibs := rfl
@[simp] theorem hold_wave (s : State) : (hold s).wave = s.wave := rfl
@[simp] theorem hold_waves (s : State) : (hold s).waves = s.waves := rfl
@[simp] theorem hold_crew (s : State) : (hold s).crew = s.crew := rfl
@[simp] theorem hold_crews (s : State) : (hold s).crews = s.crews := rfl
@[simp] theorem hold_cores (s : State) : (hold s).cores = s.cores := rfl
@[simp] theorem hold_clusters (s : State) : (hold s).clusters = s.clusters := rfl
@[simp] theorem hold_vaults (s : State) : (hold s).vaults = s.vaults := rfl
@[simp] theorem hold_memsys (s : State) : (hold s).memsys = s.memsys := rfl
@[simp] theorem hold_net (s : State) : (hold s).net = s.net := rfl
@[simp] theorem hold_ctxs (s : State) : (hold s).ctxs = s.ctxs := rfl
@[simp] theorem hold_launches (s : State) : (hold s).launches = s.launches := rfl
@[simp] theorem hold_slots (s : State) : (hold s).slots = s.slots := rfl
@[simp] theorem hold_rays (s : State) : (hold s).rays = s.rays := rfl
@[simp] theorem hold_gwaves (s : State) : (hold s).gwaves = s.gwaves := rfl
@[simp] theorem hold_pkg (s : State) : (hold s).pkg = s.pkg := rfl
@[simp] theorem hold_fabric (s : State) : (hold s).fabric = s.fabric := rfl
@[simp] theorem hold_clock (s : State) : (hold s).clock = s.clock := rfl
@[simp] theorem hold_visit (s : State) : (hold s).visit = s.visit := rfl
@[simp] theorem hold_icinvs (s : State) : (hold s).icinvs = s.icinvs := rfl
@[simp] theorem hold_free (s : State) : (hold s).free = s.free := rfl
@[simp] theorem hold_ids (s : State) : (hold s).ids = s.ids := rfl
@[simp] theorem hold_agenda (s : State) : (hold s).agenda = s.agenda := rfl
@[simp] theorem hold_sched (s : State) : (hold s).sched = s.sched := rfl
@[simp] theorem hold_rails (s : State) : (hold s).rails = s.rails := rfl

/-! ### Read back -/

@[simp] theorem getCtx_setCtx (s : State) (n k : Nat) (x : Option Ctx) :
    getCtx (setCtx s n x) k = if k = n then x else getCtx s k := cget_cset _ _ _ _ _

@[simp] theorem getCore_setCore (s : State) (n k : Nat) (x : Core) :
    getCore (setCore s n x) k = if k = n then x else getCore s k := cget_cset _ _ _ _ _

@[simp] theorem getCluster_setCluster (s : State) (n k : Nat) (x : Cluster) :
    getCluster (setCluster s n x) k = if k = n then x else getCluster s k := cget_cset _ _ _ _ _

@[simp] theorem getSlot_setSlot (s : State) (n k : Nat) (x : Slot) :
    getSlot (setSlot s n x) k = if k = n then x else getSlot s k := cget_cset _ _ _ _ _

@[simp] theorem getPort_setPort (p k : Nat) (x : Port) (s : State) :
    getPort (setPort p x s) k = if k = p then x else getPort s k := cget_cset _ _ _ _ _

@[simp] theorem getTrk_setTrk (c : Crew) (n k : Nat) (x : Tracker) :
    getTrk (setTrk c n x) k = if k = n then x else getTrk c k := cget_cset _ _ _ _ _

@[simp] theorem getBuf_setBuf (c : Crew) (n k : Nat) (x : Buf) :
    getBuf (setBuf c n x) k = if k = n then x else getBuf c k := cget_cset _ _ _ _ _

@[simp] theorem getL1_setL1 (s : State) (c d l m : Nat) (x : L1Line) :
    getL1 (setL1 s c l x) d m = if d = c ∧ m = l then x else getL1 s d m := by
  simp only [getL1, setL1, getCore_setCore]
  by_cases h : d = c
  · subst h; simp [cget_cset]
  · simp [h]

@[simp] theorem getEmber_setEmber (c q d r : Nat) (e : Ember) (s : State) :
    getEmber (setEmber c q e s) d r = if d = c ∧ r = q then e else getEmber s d r := by
  simp only [getEmber, setEmber, getCore_setCore]
  by_cases h : d = c
  · subst h; simp [cget_cset]
  · simp [h]

/-- Reading a context that `updCtx` changed. -/
theorem getCtx_updCtx (s : State) (n k : Nat) (f : Ctx → Ctx) :
    getCtx (updCtx s n f) k = if k = n then (getCtx s n).map f else getCtx s k := by
  unfold updCtx
  cases h : getCtx s n with
  | none => by_cases hk : k = n <;> simp [hk, h]
  | some x => by_cases hk : k = n <;> simp [hk]

/-! ### updCtx -/

@[simp] theorem updCtx_agent (s : State) (n : Nat) (f : Ctx → Ctx) : (updCtx s n f).agent = s.agent := by
  unfold updCtx; split <;> rfl
@[simp] theorem updCtx_part (s : State) (n : Nat) (f : Ctx → Ctx) : (updCtx s n f).part = s.part := by
  unfold updCtx; split <;> rfl
@[simp] theorem updCtx_sibs (s : State) (n : Nat) (f : Ctx → Ctx) : (updCtx s n f).sibs = s.sibs := by
  unfold updCtx; split <;> rfl
@[simp] theorem updCtx_wave (s : State) (n : Nat) (f : Ctx → Ctx) : (updCtx s n f).wave = s.wave := by
  unfold updCtx; split <;> rfl
@[simp] theorem updCtx_waves (s : State) (n : Nat) (f : Ctx → Ctx) : (updCtx s n f).waves = s.waves := by
  unfold updCtx; split <;> rfl
@[simp] theorem updCtx_crew (s : State) (n : Nat) (f : Ctx → Ctx) : (updCtx s n f).crew = s.crew := by
  unfold updCtx; split <;> rfl
@[simp] theorem updCtx_crews (s : State) (n : Nat) (f : Ctx → Ctx) : (updCtx s n f).crews = s.crews := by
  unfold updCtx; split <;> rfl
@[simp] theorem updCtx_cores (s : State) (n : Nat) (f : Ctx → Ctx) : (updCtx s n f).cores = s.cores := by
  unfold updCtx; split <;> rfl
@[simp] theorem updCtx_clusters (s : State) (n : Nat) (f : Ctx → Ctx) : (updCtx s n f).clusters = s.clusters := by
  unfold updCtx; split <;> rfl
@[simp] theorem updCtx_vaults (s : State) (n : Nat) (f : Ctx → Ctx) : (updCtx s n f).vaults = s.vaults := by
  unfold updCtx; split <;> rfl
@[simp] theorem updCtx_memsys (s : State) (n : Nat) (f : Ctx → Ctx) : (updCtx s n f).memsys = s.memsys := by
  unfold updCtx; split <;> rfl
@[simp] theorem updCtx_net (s : State) (n : Nat) (f : Ctx → Ctx) : (updCtx s n f).net = s.net := by
  unfold updCtx; split <;> rfl
@[simp] theorem updCtx_launches (s : State) (n : Nat) (f : Ctx → Ctx) : (updCtx s n f).launches = s.launches := by
  unfold updCtx; split <;> rfl
@[simp] theorem updCtx_slots (s : State) (n : Nat) (f : Ctx → Ctx) : (updCtx s n f).slots = s.slots := by
  unfold updCtx; split <;> rfl
@[simp] theorem updCtx_rays (s : State) (n : Nat) (f : Ctx → Ctx) : (updCtx s n f).rays = s.rays := by
  unfold updCtx; split <;> rfl
@[simp] theorem updCtx_gwaves (s : State) (n : Nat) (f : Ctx → Ctx) : (updCtx s n f).gwaves = s.gwaves := by
  unfold updCtx; split <;> rfl
@[simp] theorem updCtx_pkg (s : State) (n : Nat) (f : Ctx → Ctx) : (updCtx s n f).pkg = s.pkg := by
  unfold updCtx; split <;> rfl
@[simp] theorem updCtx_fabric (s : State) (n : Nat) (f : Ctx → Ctx) : (updCtx s n f).fabric = s.fabric := by
  unfold updCtx; split <;> rfl
@[simp] theorem updCtx_clock (s : State) (n : Nat) (f : Ctx → Ctx) : (updCtx s n f).clock = s.clock := by
  unfold updCtx; split <;> rfl
@[simp] theorem updCtx_visit (s : State) (n : Nat) (f : Ctx → Ctx) : (updCtx s n f).visit = s.visit := by
  unfold updCtx; split <;> rfl
@[simp] theorem updCtx_icinvs (s : State) (n : Nat) (f : Ctx → Ctx) : (updCtx s n f).icinvs = s.icinvs := by
  unfold updCtx; split <;> rfl
@[simp] theorem updCtx_free (s : State) (n : Nat) (f : Ctx → Ctx) : (updCtx s n f).free = s.free := by
  unfold updCtx; split <;> rfl
@[simp] theorem updCtx_ids (s : State) (n : Nat) (f : Ctx → Ctx) : (updCtx s n f).ids = s.ids := by
  unfold updCtx; split <;> rfl
@[simp] theorem updCtx_agenda (s : State) (n : Nat) (f : Ctx → Ctx) : (updCtx s n f).agenda = s.agenda := by
  unfold updCtx; split <;> rfl
@[simp] theorem updCtx_sched (s : State) (n : Nat) (f : Ctx → Ctx) : (updCtx s n f).sched = s.sched := by
  unfold updCtx; split <;> rfl
@[simp] theorem updCtx_rails (s : State) (n : Nat) (f : Ctx → Ctx) : (updCtx s n f).rails = s.rails := by
  unfold updCtx; split <;> rfl

end Sys2Proof.Machine
end

