-- ==== Sys2Proof/Laws/Memory.lean ====
section
/-! SUPPORT. Memory: what a read gives after a write, and that every operation keeps the canonical form. -/

namespace Sys2Proof.Machine

/-! ### Canonical form -/

/-- The canonical form depends on the bytes alone. -/
theorem MemOk.of_bytes {s t : State} (h : t.memsys.bytes = s.memsys.bytes) (hs : MemOk s) : MemOk t := by
  unfold MemOk; rw [h]; exact hs

theorem MemOk.of_memsys {s t : State} (h : t.memsys = s.memsys) (hs : MemOk s) : MemOk t :=
  hs.of_bytes (congrArg _ h)

theorem memOk_reset : MemOk State.reset := rfl

theorem rekey_memOk (k a : Nat) {s : State} (h : MemOk s) : MemOk (rekey k a s) := by
  unfold rekey
  dsimp only
  split
  · exact h
  · exact cwf_csetList _ _ h

theorem setByte_memOk (k a : Nat) (b : Byte) {s : State} (h : MemOk s) : MemOk (setByte k a b s) :=
  cwf_cset _ _ (rekey_memOk k a h)

theorem setBytes_memOk (k : Nat) : ∀ (bs : List Byte) (a : Nat) {s : State}, MemOk s → MemOk (setBytes k a bs s)
  | [], _, _, h => h
  | b :: t, a, _, h => setBytes_memOk k t (a + 1) (setByte_memOk k a b h)

@[simp] theorem unpoison_bytes (a n : Nat) (s : State) : (unpoison a n s).memsys.bytes = s.memsys.bytes := rfl

@[simp] theorem charge_memsys (s : State) (c i n : Nat) : (charge s c i n).memsys = s.memsys := updCtx_memsys ..

@[simp] theorem present_bytes (c l : Nat) (s : State) : (present c l s).memsys.bytes = s.memsys.bytes := rfl

@[simp] theorem homeFill_bytes (c l q : Nat) (s : State) : (homeFill c l q s).1.memsys.bytes = s.memsys.bytes := by
  unfold homeFill
  dsimp only
  split
  · rfl
  · split <;> simp

@[simp] theorem sendFlit_memsys (p : Nat) (bs : List Byte) (s : State) : (sendFlit p bs s).memsys = s.memsys := by
  unfold sendFlit; split <;> rfl

@[simp] theorem depart_memsys (a : Access) (s : State) : (depart a s).memsys = s.memsys := by simp [depart]

@[simp] theorem mayEvict_bytes (l : Nat) (s : State) : (mayEvict l s).memsys.bytes = s.memsys.bytes := by
  unfold mayEvict
  dsimp only
  split
  · split <;> simp
  · rfl

theorem homeWrite_memOk (c k a : Nat) (bs : List Byte) {s : State} (h : MemOk s) : MemOk (homeWrite c k a bs s).1 := by
  unfold homeWrite
  dsimp only
  split
  · exact h.of_memsys (by simp)
  · exact setBytes_memOk k bs a (h.of_bytes (by simp))

/-- A fold of steps that keep a property keeps it. -/
theorem foldl_keeps {α β : Type} {P : β → Prop} {f : β → α → β} (hf : ∀ b a, P b → P (f b a)) :
    ∀ (l : List α) (b : β), P b → P (l.foldl f b)
  | [], _, h => h
  | a :: t, b, h => foldl_keeps hf t (f b a) (hf b a h)

theorem homeWrites_memOk (c k a : Nat) (bs : List Byte) {s : State} (h : MemOk s) : MemOk (homeWrites c k a bs s).1 := by
  unfold homeWrites
  dsimp only
  split
  · exact h
  · refine foldl_keeps (P := fun st : State × Nat => MemOk st.1) ?_ _ (s, 0) h
    exact fun st i hst => homeWrite_memOk _ _ _ _ hst

theorem ctxWrites_memOk (c : Nat) : ∀ (n va : Nat) (bs : List Byte) (st : State × Nat), MemOk st.1 →
    MemOk (ctxWrites c n va bs st).1
  | 0, _, _, _, h => h
  | n + 1, va, bs, st, h => by
    unfold ctxWrites
    split
    · exact h
    · split
      · exact ctxWrites_memOk c n _ _ _ (homeWrites_memOk _ _ _ _ h)
      · exact ctxWrites_memOk c n _ _ _ h

theorem ctxWrite_memOk (c : Nat) (bs : List Byte) (va : Nat) {s : State} (h : MemOk s) : MemOk (ctxWrite c va bs s) :=
  ctxWrites_memOk c _ _ _ _ h

theorem viaWrite_memOk (v : Option Nat) (a : Nat) (bs : List Byte) {s : State} (h : MemOk s) : MemOk (viaWrite v a bs s) := by
  unfold viaWrite
  split
  · exact ctxWrites_memOk _ _ _ _ _ h
  · exact homeWrites_memOk _ _ _ _ h

theorem putBytes_memOk (v : Option Nat) (a : Nat) (bs : List Byte) {s : State} (h : MemOk s) : MemOk (putBytes v a bs s) := by
  unfold putBytes
  split <;> split
  · exact viaWrite_memOk _ _ _ h
  · exact h
  · exact viaWrite_memOk _ _ _ h
  · exact h

theorem settleSpace_memOk (c n : Nat) (x : Handle) {s : State} (h : MemOk s) : MemOk (settleSpace c n x s) :=
  foldl_keeps (P := fun m : Memory => Memory.wf m = true) (fun _ _ hm => cwf_csetList _ _ hm) _ _ h

@[simp] theorem carryFloors_bytes (o n : Nat → Bool) (s : State) : (carryFloors o n s).memsys.bytes = s.memsys.bytes := rfl

theorem destroyHandle_memOk (c n : Nat) {s : State} (h : MemOk s) : MemOk (destroyHandle c n s) := by
  unfold destroyHandle MemOk
  simp only [setHandle, updCtx_memsys]
  exact cwf_filter _ h

theorem clearMemories_memOk {s : State} (h : MemOk s) : MemOk (clearMemories s) := cwf_filter _ h

/-! ### What a write leaves alone -/

/-- Only memory, the accounts of contexts, what has left for a peer, and what Lamplighter knows of its writes differ. -/
def MemOnly (s t : State) : Prop :=
  t = { s with memsys := t.memsys, ctxs := t.ctxs, net := t.net, ids := t.ids, fabric := t.fabric, pkg := t.pkg }

theorem MemOnly.refl (s : State) : MemOnly s s := rfl

theorem MemOnly.trans {s t u : State} (h : MemOnly s t) (k : MemOnly t u) : MemOnly s u := by
  unfold MemOnly at *; rw [k, h]

theorem setHomeLine_memOnly (s : State) (l : Nat) (x : HomeLine) : MemOnly s (setHomeLine s l x) := rfl

theorem updCtx_memOnly (s : State) (n : Nat) (f : Ctx → Ctx) : MemOnly s (updCtx s n f) := by
  unfold updCtx; split <;> rfl

theorem rekey_memOnly (k a : Nat) (s : State) : MemOnly s (rekey k a s) := by
  unfold rekey; dsimp only; split <;> rfl

theorem setByte_memOnly (k a : Nat) (b : Byte) (s : State) : MemOnly s (setByte k a b s) :=
  (rekey_memOnly k a s).trans rfl

theorem setBytes_memOnly (k : Nat) : ∀ (bs : List Byte) (a : Nat) (s : State), MemOnly s (setBytes k a bs s)
  | [], _, s => .refl s
  | b :: t, a, s => (setByte_memOnly k a b s).trans (setBytes_memOnly k t (a + 1) _)

theorem present_memOnly (c l : Nat) (s : State) : MemOnly s (present c l s) := rfl

theorem sendFlit_memOnly (p : Nat) (bs : List Byte) (s : State) : MemOnly s (sendFlit p bs s) := by
  unfold sendFlit; split <;> rfl

theorem depart_memOnly (a : Access) (s : State) : MemOnly s (depart a s) :=
  MemOnly.trans (t := { s with net := s.net ++ [_], ids := s.ids + 1 }) rfl (sendFlit_memOnly _ _ _)

theorem homeWrite_memOnly (c k a : Nat) (bs : List Byte) (s : State) : MemOnly s (homeWrite c k a bs s).1 := by
  unfold homeWrite; dsimp only
  split
  · exact depart_memOnly _ _
  · exact (((present_memOnly c (a / 128) s).trans (setHomeLine_memOnly ..)).trans (setBytes_memOnly k bs a _)).trans rfl

theorem homeWrites_memOnly (c k a : Nat) (bs : List Byte) (s : State) : MemOnly s (homeWrites c k a bs s).1 := by
  unfold homeWrites; dsimp only
  split
  · exact .refl s
  · refine foldl_keeps (P := fun st : State × Nat => MemOnly s st.1) ?_ _ (s, 0) (.refl s)
    exact fun st i hst => hst.trans (homeWrite_memOnly ..)

theorem ctxWrites_memOnly (c : Nat) : ∀ (n va : Nat) (bs : List Byte) (st : State × Nat), MemOnly st.1 (ctxWrites c n va bs st).1
  | 0, _, _, st => .refl st.1
  | n + 1, va, bs, st => by
    unfold ctxWrites
    split
    · exact .refl st.1
    · split
      · exact (homeWrites_memOnly ..).trans (ctxWrites_memOnly c n _ _ (_, _))
      · exact ctxWrites_memOnly c n _ _ st

theorem ctxWrite_memOnly (c : Nat) (bs : List Byte) (va : Nat) (s : State) : MemOnly s (ctxWrite c va bs s) :=
  ctxWrites_memOnly c _ _ _ (s, 0)

theorem viaWrite_memOnly (v : Option Nat) (a : Nat) (bs : List Byte) (s : State) : MemOnly s (viaWrite v a bs s) := by
  unfold viaWrite
  split
  · exact (ctxWrites_memOnly _ _ _ _ (s, 0)).trans rfl
  · exact (homeWrites_memOnly ..).trans rfl

theorem putBytes_memOnly (v : Option Nat) (a : Nat) (bs : List Byte) (s : State) : MemOnly s (putBytes v a bs s) := by
  unfold putBytes
  split <;> split
  · exact viaWrite_memOnly ..
  · exact .refl s
  · exact viaWrite_memOnly ..
  · exact .refl s

theorem homeFill_memOnly (c l q : Nat) (s : State) : MemOnly s (homeFill c l q s).1 := by
  unfold homeFill; dsimp only
  split
  · exact .refl s
  · split <;> exact (present_memOnly c l s).trans (setHomeLine_memOnly ..)

/-- What Ember notes of an access stays in the core. -/
theorem noteReach_cores (level : Nat) (a : Access) (s : State) :
    noteReach level a s = { s with cores := (noteReach level a s).cores } := by
  unfold noteReach; dsimp only; split <;> rfl

/-! ### Reads after writes -/

/-- Where no block has to be made the writer's own first, a byte written is the only one that changes. -/
theorem rawByte_setByte (k a : Nat) (b : Byte) (s : State) (x : Nat)
    (h : (!encrypted s a || (blockTag s (a / 32)).2 == keyVal s k) = true) :
    rawByte (setByte k a b s) x = if x = a then b else rawByte s x := by
  have : rekey k a s = s := by unfold rekey; simp only [h, if_true]
  simp only [setByte, this]
  exact cget_cset _ _ _ _ _

/-- A byte written reads back where nothing is encrypted. -/
theorem memByte_setByte (k j a : Nat) (b : Byte) (s : State) (h : encrypted s a = false)
    (hr : ¬ (a < 2 ^ 52 ∧ paKind a = 4)) : memByte (setByte k a b s) j a = b := by
  have hk : rekey k a s = s := by unfold rekey; simp [h]
  have he : encrypted (setByte k a b s) a = encrypted s a := by
    unfold setByte; rw [hk]; rfl
  unfold memByte
  rw [if_neg hr, he, h]
  simp only [Bool.not_false, Bool.true_or, if_true]
  rw [rawByte_setByte k a b s a (by simp [h])]
  simp

/-- The bytes of the scratchpad after a write: those written, and the others as before. -/
theorem scratch_scrWrite (o : Nat) (bs : List Byte) (c : Crew) (i : Nat) :
    cget 0#8 (scrWrite o bs c).scratch i = if o ≤ i ∧ i < o + bs.length then (bs[i - o]?).getD 0#8 else cget 0#8 c.scratch i :=
  cget_csetList _ _ _ _ _

theorem cgetList_length {α : Type} (d : α) (m : Cells α) (k n : Nat) : (cgetList d m k n).length = n := by
  simp [cgetList]

/-- Bytes written to the scratchpad read back. -/
theorem scrRead_scrWrite (o : Nat) (bs : List Byte) (c : Crew) : scrRead (scrWrite o bs c) o bs.length = bs := by
  apply List.ext_getElem
  · exact cgetList_length ..
  · intro i h1 h2
    simp only [scrRead, cgetList, List.getElem_map, List.getElem_range]
    rw [scratch_scrWrite, if_pos ⟨by omega, by omega⟩]
    simp [h2]

/-- Bytes of the scratchpad outside a write are as before. -/
theorem scrRead_scrWrite_of_disjoint (o p n : Nat) (bs : List Byte) (c : Crew) (h : p + n ≤ o ∨ o + bs.length ≤ p) :
    scrRead (scrWrite o bs c) p n = scrRead c p n := by
  simp only [scrRead, cgetList]
  refine List.map_congr_left (fun i hi => ?_)
  have := List.mem_range.1 hi
  rw [scratch_scrWrite, if_neg (by omega)]

end Sys2Proof.Machine
end

