-- ==== Sys2Proof/Laws/Unit.lean ====
section
/-! SUPPORT. What a unit that is ready does: its own effect, with its result in a scalar, vector or mask register and
nothing else changed. -/

namespace Sys2Proof.Machine

/-! ### The boundary -/

theorem foldl_same {α β : Type} (f : β → α → β) (b : β) :
    ∀ l : List α, (∀ x ∈ l, f b x = b) → l.foldl f b = b
  | [], _ => rfl
  | x :: t, h => by
    simp only [List.foldl_cons, h x (by simp)]
    exact foldl_same f b t (fun y hy => h y (by simp [hy]))

/-- With no faulting store due, nothing is reported (R162). -/
theorem reportDue_of_noStoreDue {s : State} (h : noStoreDue s = true) : reportDue s = s := by
  refine foldl_same _ _ _ (fun x hx => ?_)
  have := (List.all_eq_true.1 h) x hx
  cases hf : x.fault with
  | none => rfl
  | some re =>
    simp only [hf, Option.isNone_some, Bool.false_or, decide_eq_true_eq] at this
    exact if_neg (by omega)

/-- Where nothing comes before the unit, the boundary passes to it. -/
theorem boundary_of_clear {r : Run} {s : State} (h : clear r s = true) (f : State → State) : boundary r f s = f s := by
  simp only [clear, Bool.and_eq_true, beq_iff_eq, Option.isNone_iff_eq_none, Bool.or_eq_true] at h
  obtain ⟨⟨⟨⟨⟨hc, ha⟩, hn⟩, hf⟩, hd⟩, hb⟩ := h
  rw [Bool.not_eq_true'] at hd
  have hst : ¬(s.part.fault.isSome = true ∧ s.part.state ≠ .trapped) := by
    rintro ⟨h1, h2⟩
    rcases hf with hf | hf
    · simp [hf] at h1
    · exact h2 hf
  simp only [boundary, hc, ha, reportDue_of_noStoreDue hn, hst, hd, hb, Bool.true_eq_false,
    Bool.false_eq_true, if_false, ite_self]

/-- A unit that is ready takes its own effect. -/
theorem unit_of_ready {o : Op} {s : State} (h : ready o s = true) (f : State → State) : unit o f s = .next (f s) := by
  simp only [ready, Bool.and_eq_true, Option.isNone_iff_eq_none, Bool.not_eq_true'] at h
  obtain ⟨⟨⟨⟨hc, hr⟩, hp⟩, hi⟩, hu⟩ := h
  simp [unit, unitStep, boundary_of_clear hc, unitBody, hr, hp, hi, hu]

/-- A unit that fails a check of R72 traps with that check's cause (R72, R161). -/
theorem unit_of_reject {o : Op} {e : Reject} {s : State} (hc : clear o.run s = true) (h : rejectOp o s = some e)
    (f : State → State) : unit o f s = .next (trap (rejectTrap e s) o.run s) := by
  simp [unit, unitStep, boundary_of_clear hc, unitBody, h]

/-- A unit that waits for a result of variable latency leaves everything but the part's wait (R32). -/
theorem unit_of_interlocked {o : Op} {s : State} (hc : clear o.run s = true) (h : rejectOp o s = none)
    (hp : o.priv = none) (hi : interlocked o s = true) (f : State → State) : unit o f s = .next (hold s) := by
  simp [unit, unitStep, boundary_of_clear hc, unitBody, h, hp, hi]

/-! ### Flow -/

@[simp] theorem goto_part (r : Run) (n : Nat) (pc : W64) (s : State) :
    (goto r n pc s).part = { s.part with
      pc := pc, ready := now s + max n (stallOf r + 1), wait := .none, relDone := false, fresh := false,
      issued := s.part.issued + 1 } := rfl

@[simp] theorem goto_wave (r : Run) (n : Nat) (pc : W64) (s : State) : (goto r n pc s).wave = s.wave := rfl

@[simp] theorem goto_memsys (r : Run) (n : Nat) (pc : W64) (s : State) : (goto r n pc s).memsys = s.memsys := rfl

theorem goto_moved (r : Run) (n : Nat) (pc : W64) (s : State) : Moved r n pc s (goto r n pc s) := ⟨rfl, rfl, rfl, rfl⟩

theorem goto_sameRest (r : Run) (n : Nat) (pc : W64) (s : State) : SameRest s (goto r n pc s) := ⟨rfl, fun _ => rfl⟩

theorem goto_noResult (r : Run) (n : Nat) (pc : W64) (s : State) : NoResult r n pc s (goto r n pc s) :=
  ⟨goto_moved r n pc s, goto_sameRest r n pc s, rfl, rfl, rfl⟩

/-! ### Register writes -/

/-- Recording a pending write changes nothing but the part's pending writes. -/
theorem addPend_eq (lat : Nat) (x : RegId) (olds : List (Nat × W64)) (s : State) :
    ∃ p, addPend lat x olds s = { s with part := { s.part with pend := p } } := by
  unfold addPend
  split
  · exact ⟨s.part.pend, rfl⟩
  · exact ⟨_, rfl⟩

/-- A scalar write changes nothing but the part's scalar registers and pending writes (R18). -/
theorem wrS_eq (lat n : Nat) (x : W64) (s : State) :
    ∃ p, wrS lat n x s = { s with part := { s.part with
      pend := p, s := if n = 63 then s.part.s else cset 0#64 s.part.s n (settled lat s (.s n) 0 x) } } := by
  unfold wrS
  split
  · exact ⟨s.part.pend, rfl⟩
  · obtain ⟨p, hp⟩ := addPend_eq lat (.s n) [(0, cget 0#64 s.part.s n)] s
    exact ⟨p, by simp only [hp]⟩

/-- A vector write changes nothing but the wave's vector registers and the part's pending writes. -/
theorem wrV_eq (lat n : Nat) (ls : List Nat) (f : Nat → W32) (s : State) :
    ∃ p, wrV lat n ls f s = { s with
      part := { s.part with pend := p },
      wave := { s.wave with
        v := vput n (fun l => (settled lat s (.v n) l ((f l).setWidth 64)).setWidth 32) ls s.wave.v } } := by
  obtain ⟨p, hp⟩ := addPend_eq lat (.v n) (ls.map (fun l => (l, (vraw s.wave n l).setWidth 64))) s
  exact ⟨p, by simp only [wrV, hp]⟩

/-- A mask write changes nothing but the wave's mask registers and the part's pending writes (R20). -/
theorem wrM_eq (lat n : Nat) (ls : List Nat) (f : Nat → Bool) (s : State) :
    ∃ p, wrM lat n ls f s = { s with
      part := { s.part with pend := p },
      wave := { s.wave with m := cset 0#64 s.wave.m n (maskOf (fun l =>
        if ls.contains l then (settled lat s (.m n) 0 (maskOf f)).getLsbD l else (cget 0#64 s.wave.m n).getLsbD l)) } } := by
  obtain ⟨p, hp⟩ := addPend_eq lat (.m n) [(0, cget 0#64 s.wave.m n)] s
  exact ⟨p, by simp only [wrM, hp]⟩

theorem getLsbD_maskFold (f : Nat → Bool) (i : Nat) (hi : i < 64) :
    ∀ ls : List Nat, (ls.foldr (fun l m => if f l then m ||| (1#64 <<< l) else m) 0#64).getLsbD i
      = (ls.contains i && f i)
  | [] => by simp
  | l :: t => by
    have ih := getLsbD_maskFold f i hi t
    simp only [List.foldr_cons, List.contains_cons]
    by_cases hl : i = l
    · subst hl
      cases hf : f i
      · simp [ih, hf]
      · simp [hi]
    · have hbit : (1#64 <<< l).getLsbD i = false := by
        simp only [BitVec.getLsbD_shiftLeft, hi, decide_true, Bool.true_and]
        by_cases h : i < l
        · simp [h]
        · have : i - l ≠ 0 := by omega
          simp [h, this]
      have hil : (i == l) = false := by simp [hl]
      split <;> simp [ih, hbit, hil]

/-- A bit of a mask that a predicate gives. -/
theorem maskOf_getLsbD (f : Nat → Bool) (l : Nat) (h : l < 64) : (maskOf f).getLsbD l = f l := by
  rw [maskOf, getLsbD_maskFold f l h]
  have : lanes64.contains l = true := by
    revert l; decide
  simp only [this, Bool.true_and]

/-- A lane after lanes of a vector register were written. -/
theorem cget_vput (n : Nat) (f : Nat → W32) (k l : Nat) (hl : l < 64) :
    ∀ (ls : List Nat) (v : Cells W32), (∀ x ∈ ls, x < 64) →
      cget 0#32 (vput n f ls v) (64 * k + l) = if k = n ∧ ls.contains l = true then f l else cget 0#32 v (64 * k + l)
  | [], v, _ => by simp [vput]
  | x :: t, v, h => by
    have hx := h x (by simp)
    rw [vput, cget_vput n f k l hl t _ (fun y hy => h y (by simp [hy])), cget_cset]
    by_cases hk : k = n
    · subst hk
      by_cases hxl : l = x
      · subst hxl; simp
      · simp [hxl]
    · have h1 : ¬(64 * k + l = 64 * n + x) := by omega
      simp [hk, h1]

/-! ### Results -/

/-- A unit that writes a scalar register and falls through (R18, R30). -/
theorem wrS_done (r : Run) (lat d : Nat) (x : W64) (s : State) : ScalarResult r lat d x s (done r (wrS lat d x s)) := by
  obtain ⟨p, hp⟩ := wrS_eq lat d x s
  rw [hp]
  refine ⟨⟨rfl, rfl, rfl, rfl⟩, ⟨rfl, fun _ => rfl⟩, rfl, rfl, fun n => ?_⟩
  simp only [done, goto_part]
  by_cases hd : d = 63
  · subst hd; simp
  · simp [hd, cget_cset]

/-- A unit that writes lanes of a vector register and falls through (R22, R30). -/
theorem wrV_done (r : Run) (lat d : Nat) (ls : List Nat) (f : Nat → W32) (s : State) (h : ∀ x ∈ ls, x < 64) :
    VectorResult r lat d ls f s (done r (wrV lat d ls f s)) := by
  obtain ⟨p, hp⟩ := wrV_eq lat d ls f s
  rw [hp]
  exact ⟨⟨rfl, rfl, rfl, rfl⟩, ⟨rfl, fun _ => rfl⟩, rfl, rfl, fun n l hl => cget_vput d _ n l hl ls _ h⟩

/-- A unit that writes bits of a mask register and falls through (R20, R30). -/
theorem wrM_done (r : Run) (lat d : Nat) (ls : List Nat) (f : Nat → Bool) (s : State) :
    MaskResult r lat d ls f s (done r (wrM lat d ls f s)) := by
  obtain ⟨p, hp⟩ := wrM_eq lat d ls f s
  rw [hp]
  refine ⟨⟨rfl, rfl, rfl, rfl⟩, ⟨rfl, fun _ => rfl⟩, rfl, rfl, fun n l hl => ?_⟩
  simp only [done, goto_wave, cget_cset]
  by_cases hn : n = d
  · subst hn; simp [maskOf_getLsbD _ l hl]
  · simp [hn]

/-! ### Units by the form of their meaning -/

theorem activeLanes_lt {s : State} {l : Nat} (h : l ∈ activeLanes s) : l < 64 := by
  simp only [activeLanes, lanesOf, lanes64, List.mem_filter, List.mem_range] at h
  exact h.1

theorem scalarUnit_of_eq {i : Instr} {o : Op} {d : BitVec 7} {x : State → W64}
    (h : ∀ s, exec i s = unit o (fun t => done o.run (wrS o.lat d.toNat (x t) t)) s) : ScalarUnit i o d x :=
  fun s hs => ⟨_, (h s).trans (unit_of_ready hs _), wrS_done ..⟩

theorem laneUnit_of_eq {i : Instr} {o : Op} {d : BitVec 7} {f : State → Nat → W32}
    (h : ∀ s, exec i s = laneUnit o d f s) : LaneUnit i o d f :=
  fun s hs => ⟨_, (h s).trans (unit_of_ready hs _), wrV_done _ _ _ _ _ _ fun _ => activeLanes_lt⟩

/-- Without an event that traps, lane results are written (R134). -/
theorem putRes_of_noEvent {f : State → Nat → Res} {s : State} (h : noEvent f s) (r : Run) (lat : Nat) (d : BitVec 7) :
    putRes r lat d (f s) s = done r (wrV lat d.toNat (activeLanes s) (fun l => BitVec.ofNat 32 (f s l).bits) s) := by
  refine if_neg ?_
  rintro ⟨h1, h2, h3⟩
  rcases h with h | h | h
  · rw [h] at h1; cases h1
  · exact h2 h
  · exact h3 (List.filter_eq_nil_iff.2 (fun l hl => by simp [h l hl]))

theorem floatUnit_of_eq {i : Instr} {o : Op} {d : BitVec 7} {f : State → Nat → Res}
    (h : ∀ s, exec i s = fpUnit o d f s) : FloatUnit i o d f :=
  fun s hs hq => ⟨_, (h s).trans ((unit_of_ready hs _).trans (congrArg _ (putRes_of_noEvent hq _ _ _))),
    wrV_done _ _ _ _ _ _ fun _ => activeLanes_lt⟩

theorem crossUnit_of_eq {i : Instr} {o : State → Op} {w : BitVec 3} {d : BitVec 7} {f : State → Nat → Res}
    (h : ∀ s, exec i s = vxl (o s) w d f s) : CrossUnit i o w d f :=
  fun s hs hc hq => ⟨_, (h s).trans ((unit_of_ready hs _).trans
      (congrArg _ ((if_pos hc).trans (putRes_of_noEvent hq _ _ _)))),
    wrV_done _ _ _ _ _ _ fun _ => activeLanes_lt⟩

theorem maskUnit_of_eq {i : Instr} {o : Op} {d : BitVec 7} {pre : State → Prop} {ls : State → List Nat}
    {f : State → Nat → Bool}
    (h : ∀ s, pre s → exec i s = unit o (fun t => done o.run (wrM o.lat d.toNat (ls t) (f t) t)) s) :
    MaskUnit i o d pre ls f :=
  fun s hs hp => ⟨_, (h s hp).trans (unit_of_ready hs _), wrM_done ..⟩

theorem flowUnit_of_eq {i : Instr} {o : Op} {n : Nat} {pc : State → W64}
    (h : ∀ s, exec i s = unit o (fun t => goto o.run n (pc t) t) s) : FlowUnit i o n pc :=
  fun s hs => ⟨_, (h s).trans (unit_of_ready hs _), goto_noResult ..⟩

end Sys2Proof.Machine
end

