-- ==== Sys2Proof/Laws/Moves.lean ====
section
/-! SUPPORT. What the shared operations do where nothing stops them: entering a handler, units that change the state alone,
the checks of an access, reads that a unit makes itself, and commands. -/

namespace Sys2Proof.Machine

/-! ### Traps (R154 to R161) -/

theorem trapAt_of_handles {t : Trap} {ulen : Nat} {s : State} (h : handles s) : trapAt t ulen s = enterHandler t ulen s := by
  have h2 : pcField (tvecAt (now s) s.wave) ≠ 0#64 := h.2
  simp [trapAt, trapIn, enterHandler, h.1, h2]

theorem enterHandler_entered (t : Trap) (ulen : Nat) (s : State) : Entered t ulen s (enterHandler t ulen s) :=
  ⟨rfl, rfl, rfl, rfl, rfl, rfl, rfl, rfl, rfl, rfl, Nat.le_max_left _ _, rfl, rfl, fun _ => rfl⟩

/-- A cause that the part may handle enters its handler (R156, R159 to R161). -/
theorem trap_entered {t : Trap} {r : Run} {s : State} (h : handles s) : Entered t (unitWords r) s (trap t r s) := by
  rw [trap, trapAt_of_handles h]; exact enterHandler_entered ..

/-- A cause that no handler takes kills the crew (R154, R281). -/
theorem trapAt_of_no_handler {t : Trap} {ulen : Nat} {s : State} (h1 : s.part.state ≠ .trapped)
    (h2 : pcField (tvecOf s) = 0#64) : trapAt t ulen s = killHere t.cause t.info t.addr [] none s := by
  have h3 : pcField (tvecAt (now s) s.wave) = 0#64 := h2
  simp [trapAt, trapIn, h1, h3]

/-! ### Units -/

theorem stateUnit_of_eq {i : Instr} {o : Op} {pre : State → Prop} {u : State → State} {f : State → State}
    (h : ∀ s, exec i s = unit o f s) (hf : ∀ s, pre s → f s = done o.run (u s)) : StateUnit i o pre u :=
  fun s hs hp => (h s).trans ((unit_of_ready hs _).trans (congrArg _ (hf s hp)))

/-- A unit that is ready and whose meaning gives `t`. -/
theorem exec_of_ready {i : Instr} {o : Op} {f : State → State} {s t : State} (h : ∀ s, exec i s = unit o f s)
    (hs : ready o s = true) (hf : f s = t) : exec i s = .next t :=
  (h s).trans ((unit_of_ready hs _).trans (congrArg _ hf))

/-! ### Accesses (R193, R173, R419) -/

/-- An access whose addresses are aligned, name windows and match no watchpoint goes on to its accesses. -/
theorem checked_of_clear {m : Form} {r : Run} {addrs : List (Nat × W64)} {s : State} (h : accessClear m addrs s = true)
    (f : List LaneAcc → State → State) : checked m r addrs f s = f (accsOf m addrs s) s := by
  simp only [accessClear, Bool.and_eq_true, Bool.not_eq_true', Option.isNone_iff_eq_none] at h
  obtain ⟨⟨⟨h1, h2⟩, h3⟩, h4⟩ := h
  have hb : addrs.filter (fun x => x.2.toNat % m.size != 0) = [] := by
    refine List.filter_eq_nil_iff.2 (fun x hx => ?_)
    have := (List.all_eq_true.1 h2) x hx
    simp only [beq_iff_eq] at this
    simp [this]
  have hf : (accsOf m addrs s).find? (fun a => a.tgt == .bad) = none := by
    refine List.find?_eq_none.2 (fun x hx => ?_)
    have := (List.all_eq_true.1 h3) x hx
    simpa [bne_iff_ne] using this
  simp only [checked, h1, Bool.false_eq_true, if_false, hb, hf, h4]

/-! ### Reads that a unit makes itself (R317, R321) -/

/-- Reads whose bytes are all at hand are handed to what uses them. -/
theorem phaseReadBy_of_ready {h : How} {scalar : Bool} {n : Nat} {r : Run} {addrs : List (Nat × W64)} {s : State}
    (hr : readsReady h scalar n r addrs s = true) (f : (Nat → List Byte) → State → State) :
    phaseReadBy h scalar n r addrs f s = f (readVals h scalar n r addrs s) s := by
  simp only [readsReady, Bool.and_eq_true, Bool.not_eq_true', accessGranted, List.isEmpty_iff] at hr
  obtain ⟨⟨⟨⟨⟨h1, h2⟩, h3⟩, h4⟩, h5⟩, h6⟩ := hr
  have h7 : (((accsOf (readForm scalar n) addrs (dropReads s)).map
      (fun c => (c.lane, unitBytes h (readForm scalar n) r n c s))).all (fun x => x.2.isSome)) = true := by
    rw [List.all_map]; exact h5
  simp only [phaseReadBy, h1, Bool.false_eq_true, if_false]
  refine (checked_of_clear h2 _).trans ?_
  have h3' : failing (readForm scalar n) (accsOf (readForm scalar n) addrs (dropReads s)) (dropReads s) = [] := h3
  show (match failing (readForm scalar n) (accsOf (readForm scalar n) addrs (dropReads s)) (dropReads s) with
    | x :: l => _
    | [] => _) = _
  rw [h3']
  refine (if_neg (by simp [h4])).trans ?_
  refine (if_pos h7).trans ((if_neg ?_).trans rfl)
  simpa [readForm] using h6

/-! ### Commands (R400, R401) -/

/-- A command that its checks accept is performed. -/
theorem command_of_accepts {c : Cmd} {code form : Nat} {o : Origin} {used : List W64} {s : State}
    (h : accepts c code form o used s = true) (f : State → State) : command c code form o used f s = .next (f s) := by
  simp only [accepts, Bool.and_eq_true, beq_iff_eq] at h
  obtain ⟨⟨⟨⟨⟨⟨⟨h1, h2⟩, h3⟩, h4⟩, h5⟩, h6⟩, h7⟩, h8⟩ := h
  simp [command, h1, h2, h3, h4, h5, h6, h7, h8]

/-! ### Completions (R400) -/

/-- Where Lamplighter's writes are settled and no release waits, a release is performed at once (R334). -/
theorem post_of_settled {x : Post} {s : State} (h : s.pkg.posts = []) (hs : lampSettled s = true) : post x s = putPost x s := by
  simp [post, h, hs]

/-- Where they are not, the release waits behind those before it. -/
theorem post_of_unsettled {x : Post} {s : State} (hs : lampSettled s = false) :
    post x s = { s with pkg := { s.pkg with posts := s.pkg.posts ++ [x] } } := by simp [post, hs]

end Sys2Proof.Machine
end

