-- ==== Sys2Proof/Laws/PerInstr.lean ====
section
/-! SUPPORT. Per instruction: its word is no hint word, and decodes to the instruction. -/

set_option Elab.async false
set_option linter.unusedSimpArgs false
set_option maxRecDepth 4000

namespace Sys2Proof.Laws.RoundTrip

/-- A well-formed instruction's word is no hint word, and behind the instruction's hints it decodes to the instruction. A
step that no word encodes has no word. -/
def Statement (i : Instr) : Prop :=
  i.wf = true → ∀ w, encodeWord i = some w → isHint w = false ∧ decodeWord i.run.hints w = some i

theorem nop (r : Run) : Statement (.nop r) := by
  intro _ w h
  have hw : w = wRRR 0 r 1#7 0#7 0#7 0 := (Option.some.inj h).symm
  subst hw
  simp [isHint, decodeWord, Instr.run, decodeSys, ifZero, fMaj_wRRR, fStl_wRRR, fD_wRRR, fA_wRRR, fB_wRRR, fFn_wRRR]

theorem trap (r : Run) (n : BitVec 7) : Statement (.trap r n) := by
  intro _ w h; cases h
  simp [isHint, decodeWord, Instr.run, decodeSys, ifZero, fMaj_wRRR, fStl_wRRR, fD_wRRR, fA_wRRR, fB_wRRR, fFn_wRRR]

theorem brk (r : Run) (n : BitVec 7) : Statement (.brk r n) := by
  intro _ w h; cases h
  simp [isHint, decodeWord, Instr.run, decodeSys, ifZero, fMaj_wRRR, fStl_wRRR, fD_wRRR, fA_wRRR, fB_wRRR, fFn_wRRR]

theorem xret (r : Run) : Statement (.xret r) := by
  intro _ w h; cases h
  simp [isHint, decodeWord, Instr.run, decodeSys, ifZero, fMaj_wRRR, fStl_wRRR, fD_wRRR, fA_wRRR, fB_wRRR, fFn_wRRR]

theorem mvfs (r : Run) (d n : BitVec 7) : Statement (.mvfs r d n) := by
  intro _ w h; cases h
  simp [isHint, decodeWord, Instr.run, decodeSys, ifZero, fMaj_wRRR, fStl_wRRR, fD_wRRR, fA_wRRR, fB_wRRR, fFn_wRRR]

theorem mvts (r : Run) (a n : BitVec 7) : Statement (.mvts r a n) := by
  intro _ w h; cases h
  simp [isHint, decodeWord, Instr.run, decodeSys, ifZero, fMaj_wRRR, fStl_wRRR, fD_wRRR, fA_wRRR, fB_wRRR, fFn_wRRR]

theorem ptab (r : Run) (d a k : BitVec 7) : Statement (.ptab r d a k) := by
  intro _ w h; cases h
  simp [isHint, decodeWord, Instr.run, decodeSys, ifZero, fMaj_wRRR, fStl_wRRR, fD_wRRR, fA_wRRR, fB_wRRR, fFn_wRRR]

theorem waitcy (r : Run) (a : BitVec 7) : Statement (.waitcy r a) := by
  intro _ w h; cases h
  simp [isHint, decodeWord, Instr.run, decodeSys, ifZero, fMaj_wRRR, fStl_wRRR, fD_wRRR, fA_wRRR, fB_wRRR, fFn_wRRR]

theorem time (r : Run) (d : BitVec 7) : Statement (.time r d) := by
  intro _ w h; cases h
  simp [isHint, decodeWord, Instr.run, decodeSys, ifZero, fMaj_wRRR, fStl_wRRR, fD_wRRR, fA_wRRR, fB_wRRR, fFn_wRRR]

theorem icinv (r : Run) (a b : BitVec 7) : Statement (.icinv r a b) := by
  intro _ w h; cases h
  simp [isHint, decodeWord, Instr.run, decodeSys, ifZero, fMaj_wRRR, fStl_wRRR, fD_wRRR, fA_wRRR, fB_wRRR, fFn_wRRR]

theorem stop (r : Run) : Statement (.stop r) := by
  intro _ w h; cases h
  simp [isHint, decodeWord, Instr.run, decodeSys, ifZero, fMaj_wRRR, fStl_wRRR, fD_wRRR, fA_wRRR, fB_wRRR, fFn_wRRR]

theorem vrget (r : Run) (d a b : BitVec 7) : Statement (.vrget r d a b) := by
  intro _ w h; cases h
  simp [isHint, decodeWord, Instr.run, decodeSys, ifZero, fMaj_wRRR, fStl_wRRR, fD_wRRR, fA_wRRR, fB_wRRR, fFn_wRRR]

theorem vrset (r : Run) (d a b : BitVec 7) : Statement (.vrset r d a b) := by
  intro _ w h; cases h
  simp [isHint, decodeWord, Instr.run, decodeSys, ifZero, fMaj_wRRR, fStl_wRRR, fD_wRRR, fA_wRRR, fB_wRRR, fFn_wRRR]

theorem sfq (r : Run) (d a : BitVec 7) : Statement (.sfq r d a) := by
  intro _ w h; cases h
  simp [isHint, decodeWord, Instr.run, decodeSys, ifZero, fMaj_wRRR, fStl_wRRR, fD_wRRR, fA_wRRR, fB_wRRR, fFn_wRRR]

theorem killc (r : Run) (a : BitVec 7) : Statement (.killc r a) := by
  intro _ w h; cases h
  simp [isHint, decodeWord, Instr.run, decodeSys, ifZero, fMaj_wRRR, fStl_wRRR, fD_wRRR, fA_wRRR, fB_wRRR, fFn_wRRR]

theorem dumpc (r : Run) (d a b : BitVec 7) : Statement (.dumpc r d a b) := by
  intro _ w h; cases h
  simp [isHint, decodeWord, Instr.run, decodeSys, ifZero, fMaj_wRRR, fStl_wRRR, fD_wRRR, fA_wRRR, fB_wRRR, fFn_wRRR]

theorem b (r : Run) (o : BitVec 18) : Statement (.b r o) := by
  intro _ w h; cases h
  simp [isHint, decodeWord, Instr.run, decodeBra, ifZero, fMaj_wBR, fStl_wBR, fCond_wBR, fReg_wBR, fOff_wBR]

theorem call (r : Run) (o : BitVec 18) : Statement (.call r o) := by
  intro _ w h; cases h
  simp [isHint, decodeWord, Instr.run, decodeBra, ifZero, fMaj_wBR, fStl_wBR, fCond_wBR, fReg_wBR, fOff_wBR]

theorem bz (r : Run) (reg : BitVec 4) (o : BitVec 18) : Statement (.bz r reg o) := by
  intro _ w h; cases h
  simp [isHint, decodeWord, Instr.run, decodeBra, ifZero, fMaj_wBR, fStl_wBR, fCond_wBR, fReg_wBR, fOff_wBR]

theorem bnz (r : Run) (reg : BitVec 4) (o : BitVec 18) : Statement (.bnz r reg o) := by
  intro _ w h; cases h
  simp [isHint, decodeWord, Instr.run, decodeBra, ifZero, fMaj_wBR, fStl_wBR, fCond_wBR, fReg_wBR, fOff_wBR]

theorem bneg (r : Run) (reg : BitVec 4) (o : BitVec 18) : Statement (.bneg r reg o) := by
  intro _ w h; cases h
  simp [isHint, decodeWord, Instr.run, decodeBra, ifZero, fMaj_wBR, fStl_wBR, fCond_wBR, fReg_wBR, fOff_wBR]

theorem bany (r : Run) (reg : BitVec 4) (o : BitVec 18) : Statement (.bany r reg o) := by
  intro _ w h; cases h
  simp [isHint, decodeWord, Instr.run, decodeBra, ifZero, fMaj_wBR, fStl_wBR, fCond_wBR, fReg_wBR, fOff_wBR]

theorem ball (r : Run) (reg : BitVec 4) (o : BitVec 18) : Statement (.ball r reg o) := by
  intro _ w h; cases h
  simp [isHint, decodeWord, Instr.run, decodeBra, ifZero, fMaj_wBR, fStl_wBR, fCond_wBR, fReg_wBR, fOff_wBR]

theorem bdiv (r : Run) (reg : BitVec 4) (o : BitVec 18) : Statement (.bdiv r reg o) := by
  intro _ w h; cases h
  simp [isHint, decodeWord, Instr.run, decodeBra, ifZero, fMaj_wBR, fStl_wBR, fCond_wBR, fReg_wBR, fOff_wBR]

theorem join (r : Run) (j : BitVec 7) : Statement (.join r j) := by
  intro _ w h; cases h
  simp [isHint, decodeWord, Instr.run, decodeCtl, ifZero, fMaj_wRRR, fStl_wRRR, fD_wRRR, fA_wRRR, fB_wRRR, fFn_wRRR]

theorem fuse (r : Run) (w : BitVec 7) : Statement (.fuse r w) := by
  intro _ w h; cases h
  simp [isHint, decodeWord, Instr.run, decodeCtl, ifZero, fMaj_wRRR, fStl_wRRR, fD_wRRR, fA_wRRR, fB_wRRR, fFn_wRRR]

theorem splitctl (r : Run) (f : BitVec 7) : Statement (.splitctl r f) := by
  intro _ w h; cases h
  simp [isHint, decodeWord, Instr.run, decodeCtl, ifZero, fMaj_wRRR, fStl_wRRR, fD_wRRR, fA_wRRR, fB_wRRR, fFn_wRRR]

theorem exit (r : Run) : Statement (.exit r) := by
  intro _ w h; cases h
  simp [isHint, decodeWord, Instr.run, decodeCtl, ifZero, fMaj_wRRR, fStl_wRRR, fD_wRRR, fA_wRRR, fB_wRRR, fFn_wRRR]

theorem ret (r : Run) : Statement (.ret r) := by
  intro _ w h; cases h
  simp [isHint, decodeWord, Instr.run, decodeCtl, ifZero, fMaj_wRRR, fStl_wRRR, fD_wRRR, fA_wRRR, fB_wRRR, fFn_wRRR]

theorem jr (r : Run) (a : BitVec 7) : Statement (.jr r a) := by
  intro _ w h; cases h
  simp [isHint, decodeWord, Instr.run, decodeCtl, ifZero, fMaj_wRRR, fStl_wRRR, fD_wRRR, fA_wRRR, fB_wRRR, fFn_wRRR]

theorem vxopen (r : Run) (e : BitVec 7) : Statement (.vxopen r e) := by
  intro _ w h; cases h
  simp [isHint, decodeWord, Instr.run, decodeCtl, ifZero, fMaj_wRRR, fStl_wRRR, fD_wRRR, fA_wRRR, fB_wRRR, fFn_wRRR]

theorem vxclose (r : Run) : Statement (.vxclose r) := by
  intro _ w h; cases h
  simp [isHint, decodeWord, Instr.run, decodeCtl, ifZero, fMaj_wRRR, fStl_wRRR, fD_wRRR, fA_wRRR, fB_wRRR, fFn_wRRR]

theorem exmget (r : Run) (d : BitVec 7) : Statement (.exmget r d) := by
  intro _ w h; cases h
  simp [isHint, decodeWord, Instr.run, decodeCtl, ifZero, fMaj_wRRR, fStl_wRRR, fD_wRRR, fA_wRRR, fB_wRRR, fFn_wRRR]

theorem exmset (r : Run) (a : BitVec 7) : Statement (.exmset r a) := by
  intro _ w h; cases h
  simp [isHint, decodeWord, Instr.run, decodeCtl, ifZero, fMaj_wRRR, fStl_wRRR, fD_wRRR, fA_wRRR, fB_wRRR, fFn_wRRR]

theorem mkff (r : Run) (d : BitVec 7) : Statement (.mkff r d) := by
  intro _ w h; cases h
  simp [isHint, decodeWord, Instr.run, decodeCtl, ifZero, fMaj_wRRR, fStl_wRRR, fD_wRRR, fA_wRRR, fB_wRRR, fFn_wRRR]

theorem yield (r : Run) : Statement (.yield r) := by
  intro _ w h; cases h
  simp [isHint, decodeWord, Instr.run, decodeCtl, ifZero, fMaj_wRRR, fStl_wRRR, fD_wRRR, fA_wRRR, fB_wRRR, fFn_wRRR]

theorem sadd (r : Run) (d a b : BitVec 7) : Statement (.sadd r d a b) := by
  intro _ w h; cases h
  simp [isHint, decodeWord, Instr.run, decodeSalu, ifZero, fMaj_wRRR, fStl_wRRR, fD_wRRR, fA_wRRR, fB_wRRR, fFn_wRRR]

theorem ssub (r : Run) (d a b : BitVec 7) : Statement (.ssub r d a b) := by
  intro _ w h; cases h
  simp [isHint, decodeWord, Instr.run, decodeSalu, ifZero, fMaj_wRRR, fStl_wRRR, fD_wRRR, fA_wRRR, fB_wRRR, fFn_wRRR]

theorem smul (r : Run) (d a b : BitVec 7) : Statement (.smul r d a b) := by
  intro _ w h; cases h
  simp [isHint, decodeWord, Instr.run, decodeSalu, ifZero, fMaj_wRRR, fStl_wRRR, fD_wRRR, fA_wRRR, fB_wRRR, fFn_wRRR]

theorem smulh (r : Run) (d a b : BitVec 7) : Statement (.smulh r d a b) := by
  intro _ w h; cases h
  simp [isHint, decodeWord, Instr.run, decodeSalu, ifZero, fMaj_wRRR, fStl_wRRR, fD_wRRR, fA_wRRR, fB_wRRR, fFn_wRRR]

theorem sand (r : Run) (d a b : BitVec 7) : Statement (.sand r d a b) := by
  intro _ w h; cases h
  simp [isHint, decodeWord, Instr.run, decodeSalu, ifZero, fMaj_wRRR, fStl_wRRR, fD_wRRR, fA_wRRR, fB_wRRR, fFn_wRRR]

theorem sor (r : Run) (d a b : BitVec 7) : Statement (.sor r d a b) := by
  intro _ w h; cases h
  simp [isHint, decodeWord, Instr.run, decodeSalu, ifZero, fMaj_wRRR, fStl_wRRR, fD_wRRR, fA_wRRR, fB_wRRR, fFn_wRRR]

theorem sxor (r : Run) (d a b : BitVec 7) : Statement (.sxor r d a b) := by
  intro _ w h; cases h
  simp [isHint, decodeWord, Instr.run, decodeSalu, ifZero, fMaj_wRRR, fStl_wRRR, fD_wRRR, fA_wRRR, fB_wRRR, fFn_wRRR]

theorem sshl (r : Run) (d a b : BitVec 7) : Statement (.sshl r d a b) := by
  intro _ w h; cases h
  simp [isHint, decodeWord, Instr.run, decodeSalu, ifZero, fMaj_wRRR, fStl_wRRR, fD_wRRR, fA_wRRR, fB_wRRR, fFn_wRRR]

theorem sshr (r : Run) (d a b : BitVec 7) : Statement (.sshr r d a b) := by
  intro _ w h; cases h
  simp [isHint, decodeWord, Instr.run, decodeSalu, ifZero, fMaj_wRRR, fStl_wRRR, fD_wRRR, fA_wRRR, fB_wRRR, fFn_wRRR]

theorem ssar (r : Run) (d a b : BitVec 7) : Statement (.ssar r d a b) := by
  intro _ w h; cases h
  simp [isHint, decodeWord, Instr.run, decodeSalu, ifZero, fMaj_wRRR, fStl_wRRR, fD_wRRR, fA_wRRR, fB_wRRR, fFn_wRRR]

theorem smin (r : Run) (d a b : BitVec 7) : Statement (.smin r d a b) := by
  intro _ w h; cases h
  simp [isHint, decodeWord, Instr.run, decodeSalu, ifZero, fMaj_wRRR, fStl_wRRR, fD_wRRR, fA_wRRR, fB_wRRR, fFn_wRRR]

theorem smax (r : Run) (d a b : BitVec 7) : Statement (.smax r d a b) := by
  intro _ w h; cases h
  simp [isHint, decodeWord, Instr.run, decodeSalu, ifZero, fMaj_wRRR, fStl_wRRR, fD_wRRR, fA_wRRR, fB_wRRR, fFn_wRRR]

theorem sminn (r : Run) (d a b : BitVec 7) : Statement (.sminn r d a b) := by
  intro _ w h; cases h
  simp [isHint, decodeWord, Instr.run, decodeSalu, ifZero, fMaj_wRRR, fStl_wRRR, fD_wRRR, fA_wRRR, fB_wRRR, fFn_wRRR]

theorem smaxn (r : Run) (d a b : BitVec 7) : Statement (.smaxn r d a b) := by
  intro _ w h; cases h
  simp [isHint, decodeWord, Instr.run, decodeSalu, ifZero, fMaj_wRRR, fStl_wRRR, fD_wRRR, fA_wRRR, fB_wRRR, fFn_wRRR]

theorem sslt (r : Run) (d a b : BitVec 7) : Statement (.sslt r d a b) := by
  intro _ w h; cases h
  simp [isHint, decodeWord, Instr.run, decodeSalu, ifZero, fMaj_wRRR, fStl_wRRR, fD_wRRR, fA_wRRR, fB_wRRR, fFn_wRRR]

theorem ssltn (r : Run) (d a b : BitVec 7) : Statement (.ssltn r d a b) := by
  intro _ w h; cases h
  simp [isHint, decodeWord, Instr.run, decodeSalu, ifZero, fMaj_wRRR, fStl_wRRR, fD_wRRR, fA_wRRR, fB_wRRR, fFn_wRRR]

theorem saddi (r : Run) (d a i : BitVec 7) : Statement (.saddi r d a i) := by
  intro _ w h; cases h
  simp [isHint, decodeWord, Instr.run, decodeSali, ifZero, fMaj_wRRR, fStl_wRRR, fD_wRRR, fA_wRRR, fB_wRRR, fFn_wRRR]

theorem sandi (r : Run) (d a i : BitVec 7) : Statement (.sandi r d a i) := by
  intro _ w h; cases h
  simp [isHint, decodeWord, Instr.run, decodeSali, ifZero, fMaj_wRRR, fStl_wRRR, fD_wRRR, fA_wRRR, fB_wRRR, fFn_wRRR]

theorem sori (r : Run) (d a i : BitVec 7) : Statement (.sori r d a i) := by
  intro _ w h; cases h
  simp [isHint, decodeWord, Instr.run, decodeSali, ifZero, fMaj_wRRR, fStl_wRRR, fD_wRRR, fA_wRRR, fB_wRRR, fFn_wRRR]

theorem sxori (r : Run) (d a i : BitVec 7) : Statement (.sxori r d a i) := by
  intro _ w h; cases h
  simp [isHint, decodeWord, Instr.run, decodeSali, ifZero, fMaj_wRRR, fStl_wRRR, fD_wRRR, fA_wRRR, fB_wRRR, fFn_wRRR]

theorem sshli (r : Run) (d a i : BitVec 7) : Statement (.sshli r d a i) := by
  intro _ w h; cases h
  simp [isHint, decodeWord, Instr.run, decodeSali, ifZero, fMaj_wRRR, fStl_wRRR, fD_wRRR, fA_wRRR, fB_wRRR, fFn_wRRR]

theorem sshri (r : Run) (d a i : BitVec 7) : Statement (.sshri r d a i) := by
  intro _ w h; cases h
  simp [isHint, decodeWord, Instr.run, decodeSali, ifZero, fMaj_wRRR, fStl_wRRR, fD_wRRR, fA_wRRR, fB_wRRR, fFn_wRRR]

theorem ssari (r : Run) (d a i : BitVec 7) : Statement (.ssari r d a i) := by
  intro _ w h; cases h
  simp [isHint, decodeWord, Instr.run, decodeSali, ifZero, fMaj_wRRR, fStl_wRRR, fD_wRRR, fA_wRRR, fB_wRRR, fFn_wRRR]

theorem sslti (r : Run) (d a i : BitVec 7) : Statement (.sslti r d a i) := by
  intro _ w h; cases h
  simp [isHint, decodeWord, Instr.run, decodeSali, ifZero, fMaj_wRRR, fStl_wRRR, fD_wRRR, fA_wRRR, fB_wRRR, fFn_wRRR]

theorem sclz (r : Run) (d a : BitVec 7) : Statement (.sclz r d a) := by
  intro _ w h; cases h
  simp [isHint, decodeWord, Instr.run, decodeSali, ifZero, fMaj_wRRR, fStl_wRRR, fD_wRRR, fA_wRRR, fB_wRRR, fFn_wRRR]

theorem spopc (r : Run) (d a : BitVec 7) : Statement (.spopc r d a) := by
  intro _ w h; cases h
  simp [isHint, decodeWord, Instr.run, decodeSali, ifZero, fMaj_wRRR, fStl_wRRR, fD_wRRR, fA_wRRR, fB_wRRR, fFn_wRRR]

theorem sbfx (r : Run) (d a : BitVec 7) : Statement (.sbfx r d a) := by
  intro _ w h; cases h
  simp [isHint, decodeWord, Instr.run, decodeSali, ifZero, fMaj_wRRR, fStl_wRRR, fD_wRRR, fA_wRRR, fB_wRRR, fFn_wRRR]

theorem smov (r : Run) (d a : BitVec 7) : Statement (.smov r d a) := by
  intro _ w h; cases h
  simp [isHint, decodeWord, Instr.run, decodeSali, ifZero, fMaj_wRRR, fStl_wRRR, fD_wRRR, fA_wRRR, fB_wRRR, fFn_wRRR]

theorem sld64 (r : Run) (d a b : BitVec 7) : Statement (.sld64 r d a b) := by
  intro _ w h; cases h
  simp [isHint, decodeWord, Instr.run, decodeSmem, ifZero, fMaj_wRRR, fStl_wRRR, fD_wRRR, fA_wRRR, fB_wRRR, fFn_wRRR]

theorem sld32 (r : Run) (d a b : BitVec 7) : Statement (.sld32 r d a b) := by
  intro _ w h; cases h
  simp [isHint, decodeWord, Instr.run, decodeSmem, ifZero, fMaj_wRRR, fStl_wRRR, fD_wRRR, fA_wRRR, fB_wRRR, fFn_wRRR]

theorem sst64 (r : Run) (d a b : BitVec 7) : Statement (.sst64 r d a b) := by
  intro _ w h; cases h
  simp [isHint, decodeWord, Instr.run, decodeSmem, ifZero, fMaj_wRRR, fStl_wRRR, fD_wRRR, fA_wRRR, fB_wRRR, fFn_wRRR]

theorem sst32 (r : Run) (d a b : BitVec 7) : Statement (.sst32 r d a b) := by
  intro _ w h; cases h
  simp [isHint, decodeWord, Instr.run, decodeSmem, ifZero, fMaj_wRRR, fStl_wRRR, fD_wRRR, fA_wRRR, fB_wRRR, fFn_wRRR]

theorem sli (r : Run) (d : BitVec 7) (l : BitVec 2) (i : BitVec 16) : Statement (.sli r d l i) := by
  intro _ w h; cases h
  simp [isHint, decodeWord, Instr.run, decodeSli, ifZero, fMaj_wLI, fStl_wLI, fD_wLI, fSlot_wLI, fImm16_wLI]

theorem vadd (r : Run) (d a b : BitVec 7) : Statement (.vadd r d a b) := by
  intro _ w h; cases h
  simp [isHint, decodeWord, Instr.run, decodeVint, ifZero, fMaj_wRRR, fStl_wRRR, fD_wRRR, fA_wRRR, fB_wRRR, fFn_wRRR]

theorem vsub (r : Run) (d a b : BitVec 7) : Statement (.vsub r d a b) := by
  intro _ w h; cases h
  simp [isHint, decodeWord, Instr.run, decodeVint, ifZero, fMaj_wRRR, fStl_wRRR, fD_wRRR, fA_wRRR, fB_wRRR, fFn_wRRR]

theorem vmul (r : Run) (d a b : BitVec 7) : Statement (.vmul r d a b) := by
  intro _ w h; cases h
  simp [isHint, decodeWord, Instr.run, decodeVint, ifZero, fMaj_wRRR, fStl_wRRR, fD_wRRR, fA_wRRR, fB_wRRR, fFn_wRRR]

theorem vmulh (r : Run) (d a b : BitVec 7) : Statement (.vmulh r d a b) := by
  intro _ w h; cases h
  simp [isHint, decodeWord, Instr.run, decodeVint, ifZero, fMaj_wRRR, fStl_wRRR, fD_wRRR, fA_wRRR, fB_wRRR, fFn_wRRR]

theorem vmulhn (r : Run) (d a b : BitVec 7) : Statement (.vmulhn r d a b) := by
  intro _ w h; cases h
  simp [isHint, decodeWord, Instr.run, decodeVint, ifZero, fMaj_wRRR, fStl_wRRR, fD_wRRR, fA_wRRR, fB_wRRR, fFn_wRRR]

theorem vand (r : Run) (d a b : BitVec 7) : Statement (.vand r d a b) := by
  intro _ w h; cases h
  simp [isHint, decodeWord, Instr.run, decodeVint, ifZero, fMaj_wRRR, fStl_wRRR, fD_wRRR, fA_wRRR, fB_wRRR, fFn_wRRR]

theorem vor (r : Run) (d a b : BitVec 7) : Statement (.vor r d a b) := by
  intro _ w h; cases h
  simp [isHint, decodeWord, Instr.run, decodeVint, ifZero, fMaj_wRRR, fStl_wRRR, fD_wRRR, fA_wRRR, fB_wRRR, fFn_wRRR]

theorem vxor (r : Run) (d a b : BitVec 7) : Statement (.vxor r d a b) := by
  intro _ w h; cases h
  simp [isHint, decodeWord, Instr.run, decodeVint, ifZero, fMaj_wRRR, fStl_wRRR, fD_wRRR, fA_wRRR, fB_wRRR, fFn_wRRR]

theorem vshl (r : Run) (d a b : BitVec 7) : Statement (.vshl r d a b) := by
  intro _ w h; cases h
  simp [isHint, decodeWord, Instr.run, decodeVint, ifZero, fMaj_wRRR, fStl_wRRR, fD_wRRR, fA_wRRR, fB_wRRR, fFn_wRRR]

theorem vshr (r : Run) (d a b : BitVec 7) : Statement (.vshr r d a b) := by
  intro _ w h; cases h
  simp [isHint, decodeWord, Instr.run, decodeVint, ifZero, fMaj_wRRR, fStl_wRRR, fD_wRRR, fA_wRRR, fB_wRRR, fFn_wRRR]

theorem vsar (r : Run) (d a b : BitVec 7) : Statement (.vsar r d a b) := by
  intro _ w h; cases h
  simp [isHint, decodeWord, Instr.run, decodeVint, ifZero, fMaj_wRRR, fStl_wRRR, fD_wRRR, fA_wRRR, fB_wRRR, fFn_wRRR]

theorem vmin (r : Run) (d a b : BitVec 7) : Statement (.vmin r d a b) := by
  intro _ w h; cases h
  simp [isHint, decodeWord, Instr.run, decodeVint, ifZero, fMaj_wRRR, fStl_wRRR, fD_wRRR, fA_wRRR, fB_wRRR, fFn_wRRR]

theorem vmax (r : Run) (d a b : BitVec 7) : Statement (.vmax r d a b) := by
  intro _ w h; cases h
  simp [isHint, decodeWord, Instr.run, decodeVint, ifZero, fMaj_wRRR, fStl_wRRR, fD_wRRR, fA_wRRR, fB_wRRR, fFn_wRRR]

theorem vminn (r : Run) (d a b : BitVec 7) : Statement (.vminn r d a b) := by
  intro _ w h; cases h
  simp [isHint, decodeWord, Instr.run, decodeVint, ifZero, fMaj_wRRR, fStl_wRRR, fD_wRRR, fA_wRRR, fB_wRRR, fFn_wRRR]

theorem vmaxn (r : Run) (d a b : BitVec 7) : Statement (.vmaxn r d a b) := by
  intro _ w h; cases h
  simp [isHint, decodeWord, Instr.run, decodeVint, ifZero, fMaj_wRRR, fStl_wRRR, fD_wRRR, fA_wRRR, fB_wRRR, fFn_wRRR]

theorem vsel (r : Run) (d a b : BitVec 7) : Statement (.vsel r d a b) := by
  intro _ w h; cases h
  simp [isHint, decodeWord, Instr.run, decodeVint, ifZero, fMaj_wRRR, fStl_wRRR, fD_wRRR, fA_wRRR, fB_wRRR, fFn_wRRR]

theorem vmad (r : Run) (d a b : BitVec 7) : Statement (.vmad r d a b) := by
  intro _ w h; cases h
  simp [isHint, decodeWord, Instr.run, decodeVint2, ifZero, fMaj_wRRR, fStl_wRRR, fD_wRRR, fA_wRRR, fB_wRRR, fFn_wRRR]

theorem vabs (r : Run) (d a : BitVec 7) : Statement (.vabs r d a) := by
  intro _ w h; cases h
  simp [isHint, decodeWord, Instr.run, decodeVint2, ifZero, fMaj_wRRR, fStl_wRRR, fD_wRRR, fA_wRRR, fB_wRRR, fFn_wRRR]

theorem vneg (r : Run) (d a : BitVec 7) : Statement (.vneg r d a) := by
  intro _ w h; cases h
  simp [isHint, decodeWord, Instr.run, decodeVint2, ifZero, fMaj_wRRR, fStl_wRRR, fD_wRRR, fA_wRRR, fB_wRRR, fFn_wRRR]

theorem vnot (r : Run) (d a : BitVec 7) : Statement (.vnot r d a) := by
  intro _ w h; cases h
  simp [isHint, decodeWord, Instr.run, decodeVint2, ifZero, fMaj_wRRR, fStl_wRRR, fD_wRRR, fA_wRRR, fB_wRRR, fFn_wRRR]

theorem vclz (r : Run) (d a : BitVec 7) : Statement (.vclz r d a) := by
  intro _ w h; cases h
  simp [isHint, decodeWord, Instr.run, decodeVint2, ifZero, fMaj_wRRR, fStl_wRRR, fD_wRRR, fA_wRRR, fB_wRRR, fFn_wRRR]

theorem vpopc (r : Run) (d a : BitVec 7) : Statement (.vpopc r d a) := by
  intro _ w h; cases h
  simp [isHint, decodeWord, Instr.run, decodeVint2, ifZero, fMaj_wRRR, fStl_wRRR, fD_wRRR, fA_wRRR, fB_wRRR, fFn_wRRR]

theorem vbfx (r : Run) (d a : BitVec 7) : Statement (.vbfx r d a) := by
  intro _ w h; cases h
  simp [isHint, decodeWord, Instr.run, decodeVint2, ifZero, fMaj_wRRR, fStl_wRRR, fD_wRRR, fA_wRRR, fB_wRRR, fFn_wRRR]

theorem vbfi (r : Run) (d a : BitVec 7) : Statement (.vbfi r d a) := by
  intro _ w h; cases h
  simp [isHint, decodeWord, Instr.run, decodeVint2, ifZero, fMaj_wRRR, fStl_wRRR, fD_wRRR, fA_wRRR, fB_wRRR, fFn_wRRR]

theorem vbcst (r : Run) (d a : BitVec 7) : Statement (.vbcst r d a) := by
  intro _ w h; cases h
  simp [isHint, decodeWord, Instr.run, decodeVint2, ifZero, fMaj_wRRR, fStl_wRRR, fD_wRRR, fA_wRRR, fB_wRRR, fFn_wRRR]

theorem vlane (r : Run) (d : BitVec 7) : Statement (.vlane r d) := by
  intro _ w h; cases h
  simp [isHint, decodeWord, Instr.run, decodeVint2, ifZero, fMaj_wRRR, fStl_wRRR, fD_wRRR, fA_wRRR, fB_wRRR, fFn_wRRR]

theorem vmov (r : Run) (d a : BitVec 7) : Statement (.vmov r d a) := by
  intro _ w h; cases h
  simp [isHint, decodeWord, Instr.run, decodeVint2, ifZero, fMaj_wRRR, fStl_wRRR, fD_wRRR, fA_wRRR, fB_wRRR, fFn_wRRR]

theorem vadds (r : Run) (d a b : BitVec 7) : Statement (.vadds r d a b) := by
  intro _ w h; cases h
  simp [isHint, decodeWord, Instr.run, decodeVint2, ifZero, fMaj_wRRR, fStl_wRRR, fD_wRRR, fA_wRRR, fB_wRRR, fFn_wRRR]

theorem vsubs (r : Run) (d a b : BitVec 7) : Statement (.vsubs r d a b) := by
  intro _ w h; cases h
  simp [isHint, decodeWord, Instr.run, decodeVint2, ifZero, fMaj_wRRR, fStl_wRRR, fD_wRRR, fA_wRRR, fB_wRRR, fFn_wRRR]

theorem vquad (r : Run) (d a : BitVec 7) : Statement (.vquad r d a) := by
  intro _ w h; cases h
  simp [isHint, decodeWord, Instr.run, decodeVint2, ifZero, fMaj_wRRR, fStl_wRRR, fD_wRRR, fA_wRRR, fB_wRRR, fFn_wRRR]

theorem vbrev (r : Run) (d a : BitVec 7) : Statement (.vbrev r d a) := by
  intro _ w h; cases h
  simp [isHint, decodeWord, Instr.run, decodeVint2, ifZero, fMaj_wRRR, fStl_wRRR, fD_wRRR, fA_wRRR, fB_wRRR, fFn_wRRR]

theorem vaddi (r : Run) (d a i : BitVec 7) : Statement (.vaddi r d a i) := by
  intro _ w h; cases h
  simp [isHint, decodeWord, Instr.run, decodeVini, ifZero, fMaj_wRRR, fStl_wRRR, fD_wRRR, fA_wRRR, fB_wRRR, fFn_wRRR]

theorem vandi (r : Run) (d a i : BitVec 7) : Statement (.vandi r d a i) := by
  intro _ w h; cases h
  simp [isHint, decodeWord, Instr.run, decodeVini, ifZero, fMaj_wRRR, fStl_wRRR, fD_wRRR, fA_wRRR, fB_wRRR, fFn_wRRR]

theorem vori (r : Run) (d a i : BitVec 7) : Statement (.vori r d a i) := by
  intro _ w h; cases h
  simp [isHint, decodeWord, Instr.run, decodeVini, ifZero, fMaj_wRRR, fStl_wRRR, fD_wRRR, fA_wRRR, fB_wRRR, fFn_wRRR]

theorem vxori (r : Run) (d a i : BitVec 7) : Statement (.vxori r d a i) := by
  intro _ w h; cases h
  simp [isHint, decodeWord, Instr.run, decodeVini, ifZero, fMaj_wRRR, fStl_wRRR, fD_wRRR, fA_wRRR, fB_wRRR, fFn_wRRR]

theorem vshli (r : Run) (d a i : BitVec 7) : Statement (.vshli r d a i) := by
  intro _ w h; cases h
  simp [isHint, decodeWord, Instr.run, decodeVini, ifZero, fMaj_wRRR, fStl_wRRR, fD_wRRR, fA_wRRR, fB_wRRR, fFn_wRRR]

theorem vshri (r : Run) (d a i : BitVec 7) : Statement (.vshri r d a i) := by
  intro _ w h; cases h
  simp [isHint, decodeWord, Instr.run, decodeVini, ifZero, fMaj_wRRR, fStl_wRRR, fD_wRRR, fA_wRRR, fB_wRRR, fFn_wRRR]

theorem vsari (r : Run) (d a i : BitVec 7) : Statement (.vsari r d a i) := by
  intro _ w h; cases h
  simp [isHint, decodeWord, Instr.run, decodeVini, ifZero, fMaj_wRRR, fStl_wRRR, fD_wRRR, fA_wRRR, fB_wRRR, fFn_wRRR]

theorem vmuli (r : Run) (d a i : BitVec 7) : Statement (.vmuli r d a i) := by
  intro _ w h; cases h
  simp [isHint, decodeWord, Instr.run, decodeVini, ifZero, fMaj_wRRR, fStl_wRRR, fD_wRRR, fA_wRRR, fB_wRRR, fFn_wRRR]

theorem fadd (r : Run) (d a b : BitVec 7) : Statement (.fadd r d a b) := by
  intro _ w h; cases h
  simp [isHint, decodeWord, Instr.run, decodeVf32, ifZero, fMaj_wRRR, fStl_wRRR, fD_wRRR, fA_wRRR, fB_wRRR, fFn_wRRR]

theorem fsub (r : Run) (d a b : BitVec 7) : Statement (.fsub r d a b) := by
  intro _ w h; cases h
  simp [isHint, decodeWord, Instr.run, decodeVf32, ifZero, fMaj_wRRR, fStl_wRRR, fD_wRRR, fA_wRRR, fB_wRRR, fFn_wRRR]

theorem fmul (r : Run) (d a b : BitVec 7) : Statement (.fmul r d a b) := by
  intro _ w h; cases h
  simp [isHint, decodeWord, Instr.run, decodeVf32, ifZero, fMaj_wRRR, fStl_wRRR, fD_wRRR, fA_wRRR, fB_wRRR, fFn_wRRR]

theorem ffma (r : Run) (d a b : BitVec 7) : Statement (.ffma r d a b) := by
  intro _ w h; cases h
  simp [isHint, decodeWord, Instr.run, decodeVf32, ifZero, fMaj_wRRR, fStl_wRRR, fD_wRRR, fA_wRRR, fB_wRRR, fFn_wRRR]

theorem ffms (r : Run) (d a b : BitVec 7) : Statement (.ffms r d a b) := by
  intro _ w h; cases h
  simp [isHint, decodeWord, Instr.run, decodeVf32, ifZero, fMaj_wRRR, fStl_wRRR, fD_wRRR, fA_wRRR, fB_wRRR, fFn_wRRR]

theorem fnma (r : Run) (d a b : BitVec 7) : Statement (.fnma r d a b) := by
  intro _ w h; cases h
  simp [isHint, decodeWord, Instr.run, decodeVf32, ifZero, fMaj_wRRR, fStl_wRRR, fD_wRRR, fA_wRRR, fB_wRRR, fFn_wRRR]

theorem fmin (r : Run) (d a b : BitVec 7) : Statement (.fmin r d a b) := by
  intro _ w h; cases h
  simp [isHint, decodeWord, Instr.run, decodeVf32, ifZero, fMaj_wRRR, fStl_wRRR, fD_wRRR, fA_wRRR, fB_wRRR, fFn_wRRR]

theorem fmax (r : Run) (d a b : BitVec 7) : Statement (.fmax r d a b) := by
  intro _ w h; cases h
  simp [isHint, decodeWord, Instr.run, decodeVf32, ifZero, fMaj_wRRR, fStl_wRRR, fD_wRRR, fA_wRRR, fB_wRRR, fFn_wRRR]

theorem fabs (r : Run) (d a : BitVec 7) : Statement (.fabs r d a) := by
  intro _ w h; cases h
  simp [isHint, decodeWord, Instr.run, decodeVf32, ifZero, fMaj_wRRR, fStl_wRRR, fD_wRRR, fA_wRRR, fB_wRRR, fFn_wRRR]

theorem fneg (r : Run) (d a : BitVec 7) : Statement (.fneg r d a) := by
  intro _ w h; cases h
  simp [isHint, decodeWord, Instr.run, decodeVf32, ifZero, fMaj_wRRR, fStl_wRRR, fD_wRRR, fA_wRRR, fB_wRRR, fFn_wRRR]

theorem fcps (r : Run) (d a b : BitVec 7) : Statement (.fcps r d a b) := by
  intro _ w h; cases h
  simp [isHint, decodeWord, Instr.run, decodeVf32, ifZero, fMaj_wRRR, fStl_wRRR, fD_wRRR, fA_wRRR, fB_wRRR, fFn_wRRR]

theorem frnd (r : Run) (d a : BitVec 7) : Statement (.frnd r d a) := by
  intro _ w h; cases h
  simp [isHint, decodeWord, Instr.run, decodeVf32, ifZero, fMaj_wRRR, fStl_wRRR, fD_wRRR, fA_wRRR, fB_wRRR, fFn_wRRR]

theorem ffrc (r : Run) (d a : BitVec 7) : Statement (.ffrc r d a) := by
  intro _ w h; cases h
  simp [isHint, decodeWord, Instr.run, decodeVf32, ifZero, fMaj_wRRR, fStl_wRRR, fD_wRRR, fA_wRRR, fB_wRRR, fFn_wRRR]

theorem fscl (r : Run) (d a b : BitVec 7) : Statement (.fscl r d a b) := by
  intro _ w h; cases h
  simp [isHint, decodeWord, Instr.run, decodeVf32, ifZero, fMaj_wRRR, fStl_wRRR, fD_wRRR, fA_wRRR, fB_wRRR, fFn_wRRR]

theorem fexn (r : Run) (d a : BitVec 7) : Statement (.fexn r d a) := by
  intro _ w h; cases h
  simp [isHint, decodeWord, Instr.run, decodeVf32, ifZero, fMaj_wRRR, fStl_wRRR, fD_wRRR, fA_wRRR, fB_wRRR, fFn_wRRR]

theorem frcp (r : Run) (d a : BitVec 7) : Statement (.frcp r d a) := by
  intro _ w h; cases h
  simp [isHint, decodeWord, Instr.run, decodeVf32x, ifZero, fMaj_wRRR, fStl_wRRR, fD_wRRR, fA_wRRR, fB_wRRR, fFn_wRRR]

theorem frsq (r : Run) (d a : BitVec 7) : Statement (.frsq r d a) := by
  intro _ w h; cases h
  simp [isHint, decodeWord, Instr.run, decodeVf32x, ifZero, fMaj_wRRR, fStl_wRRR, fD_wRRR, fA_wRRR, fB_wRRR, fFn_wRRR]

theorem fsqrt (r : Run) (d a : BitVec 7) : Statement (.fsqrt r d a) := by
  intro _ w h; cases h
  simp [isHint, decodeWord, Instr.run, decodeVf32x, ifZero, fMaj_wRRR, fStl_wRRR, fD_wRRR, fA_wRRR, fB_wRRR, fFn_wRRR]

theorem fdiv (r : Run) (d a b : BitVec 7) : Statement (.fdiv r d a b) := by
  intro _ w h; cases h
  simp [isHint, decodeWord, Instr.run, decodeVf32x, ifZero, fMaj_wRRR, fStl_wRRR, fD_wRRR, fA_wRRR, fB_wRRR, fFn_wRRR]

theorem fexp2 (r : Run) (d a : BitVec 7) : Statement (.fexp2 r d a) := by
  intro _ w h; cases h
  simp [isHint, decodeWord, Instr.run, decodeVf32x, ifZero, fMaj_wRRR, fStl_wRRR, fD_wRRR, fA_wRRR, fB_wRRR, fFn_wRRR]

theorem flog2 (r : Run) (d a : BitVec 7) : Statement (.flog2 r d a) := by
  intro _ w h; cases h
  simp [isHint, decodeWord, Instr.run, decodeVf32x, ifZero, fMaj_wRRR, fStl_wRRR, fD_wRRR, fA_wRRR, fB_wRRR, fFn_wRRR]

theorem fsin (r : Run) (d a : BitVec 7) : Statement (.fsin r d a) := by
  intro _ w h; cases h
  simp [isHint, decodeWord, Instr.run, decodeVf32x, ifZero, fMaj_wRRR, fStl_wRRR, fD_wRRR, fA_wRRR, fB_wRRR, fFn_wRRR]

theorem fcos (r : Run) (d a : BitVec 7) : Statement (.fcos r d a) := by
  intro _ w h; cases h
  simp [isHint, decodeWord, Instr.run, decodeVf32x, ifZero, fMaj_wRRR, fStl_wRRR, fD_wRRR, fA_wRRR, fB_wRRR, fFn_wRRR]

theorem ftanh (r : Run) (d a : BitVec 7) : Statement (.ftanh r d a) := by
  intro _ w h; cases h
  simp [isHint, decodeWord, Instr.run, decodeVf32x, ifZero, fMaj_wRRR, fStl_wRRR, fD_wRRR, fA_wRRR, fB_wRRR, fFn_wRRR]

theorem fcls (r : Run) (d a : BitVec 7) : Statement (.fcls r d a) := by
  intro _ w h; cases h
  simp [isHint, decodeWord, Instr.run, decodeVf32x, ifZero, fMaj_wRRR, fStl_wRRR, fD_wRRR, fA_wRRR, fB_wRRR, fFn_wRRR]

theorem hadd (r : Run) (d a b : BitVec 7) : Statement (.hadd r d a b) := by
  intro _ w h; cases h
  simp [isHint, decodeWord, Instr.run, decodeVf16, ifZero, fMaj_wRRR, fStl_wRRR, fD_wRRR, fA_wRRR, fB_wRRR, fFn_wRRR]

theorem hmul (r : Run) (d a b : BitVec 7) : Statement (.hmul r d a b) := by
  intro _ w h; cases h
  simp [isHint, decodeWord, Instr.run, decodeVf16, ifZero, fMaj_wRRR, fStl_wRRR, fD_wRRR, fA_wRRR, fB_wRRR, fFn_wRRR]

theorem hfma (r : Run) (d a b : BitVec 7) : Statement (.hfma r d a b) := by
  intro _ w h; cases h
  simp [isHint, decodeWord, Instr.run, decodeVf16, ifZero, fMaj_wRRR, fStl_wRRR, fD_wRRR, fA_wRRR, fB_wRRR, fFn_wRRR]

theorem badd (r : Run) (d a b : BitVec 7) : Statement (.badd r d a b) := by
  intro _ w h; cases h
  simp [isHint, decodeWord, Instr.run, decodeVf16, ifZero, fMaj_wRRR, fStl_wRRR, fD_wRRR, fA_wRRR, fB_wRRR, fFn_wRRR]

theorem bmul (r : Run) (d a b : BitVec 7) : Statement (.bmul r d a b) := by
  intro _ w h; cases h
  simp [isHint, decodeWord, Instr.run, decodeVf16, ifZero, fMaj_wRRR, fStl_wRRR, fD_wRRR, fA_wRRR, fB_wRRR, fFn_wRRR]

theorem bfma (r : Run) (d a b : BitVec 7) : Statement (.bfma r d a b) := by
  intro _ w h; cases h
  simp [isHint, decodeWord, Instr.run, decodeVf16, ifZero, fMaj_wRRR, fStl_wRRR, fD_wRRR, fA_wRRR, fB_wRRR, fFn_wRRR]

theorem hdot (r : Run) (d a b : BitVec 7) : Statement (.hdot r d a b) := by
  intro _ w h; cases h
  simp [isHint, decodeWord, Instr.run, decodeVf16, ifZero, fMaj_wRRR, fStl_wRRR, fD_wRRR, fA_wRRR, fB_wRRR, fFn_wRRR]

theorem bdot (r : Run) (d a b : BitVec 7) : Statement (.bdot r d a b) := by
  intro _ w h; cases h
  simp [isHint, decodeWord, Instr.run, decodeVf16, ifZero, fMaj_wRRR, fStl_wRRR, fD_wRRR, fA_wRRR, fB_wRRR, fFn_wRRR]

theorem cvtF32S32 (r : Run) (d a : BitVec 7) : Statement (.cvtF32S32 r d a) := by
  intro _ w h; cases h
  simp [isHint, decodeWord, Instr.run, decodeVcvt, ifZero, fMaj_wRRR, fStl_wRRR, fD_wRRR, fA_wRRR, fB_wRRR, fFn_wRRR]

theorem cvtF32N32 (r : Run) (d a : BitVec 7) : Statement (.cvtF32N32 r d a) := by
  intro _ w h; cases h
  simp [isHint, decodeWord, Instr.run, decodeVcvt, ifZero, fMaj_wRRR, fStl_wRRR, fD_wRRR, fA_wRRR, fB_wRRR, fFn_wRRR]

theorem cvtS32F32 (r : Run) (d a : BitVec 7) : Statement (.cvtS32F32 r d a) := by
  intro _ w h; cases h
  simp [isHint, decodeWord, Instr.run, decodeVcvt, ifZero, fMaj_wRRR, fStl_wRRR, fD_wRRR, fA_wRRR, fB_wRRR, fFn_wRRR]

theorem cvtN32F32 (r : Run) (d a : BitVec 7) : Statement (.cvtN32F32 r d a) := by
  intro _ w h; cases h
  simp [isHint, decodeWord, Instr.run, decodeVcvt, ifZero, fMaj_wRRR, fStl_wRRR, fD_wRRR, fA_wRRR, fB_wRRR, fFn_wRRR]

theorem cvtF16x2 (r : Run) (d a b : BitVec 7) : Statement (.cvtF16x2 r d a b) := by
  intro _ w h; cases h
  simp [isHint, decodeWord, Instr.run, decodeVcvt, ifZero, fMaj_wRRR, fStl_wRRR, fD_wRRR, fA_wRRR, fB_wRRR, fFn_wRRR]

theorem cvtBf16x2 (r : Run) (d a b : BitVec 7) : Statement (.cvtBf16x2 r d a b) := by
  intro _ w h; cases h
  simp [isHint, decodeWord, Instr.run, decodeVcvt, ifZero, fMaj_wRRR, fStl_wRRR, fD_wRRR, fA_wRRR, fB_wRRR, fFn_wRRR]

theorem cvtF32F16 (r : Run) (d a h : BitVec 7) : Statement (.cvtF32F16 r d a h) := by
  intro _ w h; cases h
  simp [isHint, decodeWord, Instr.run, decodeVcvt, ifZero, fMaj_wRRR, fStl_wRRR, fD_wRRR, fA_wRRR, fB_wRRR, fFn_wRRR]

theorem cvtF32Bf16 (r : Run) (d a h : BitVec 7) : Statement (.cvtF32Bf16 r d a h) := by
  intro _ w h; cases h
  simp [isHint, decodeWord, Instr.run, decodeVcvt, ifZero, fMaj_wRRR, fStl_wRRR, fD_wRRR, fA_wRRR, fB_wRRR, fFn_wRRR]

theorem cvtF8e4 (r : Run) (d a k : BitVec 7) : Statement (.cvtF8e4 r d a k) := by
  intro _ w h; cases h
  simp [isHint, decodeWord, Instr.run, decodeVcvt, ifZero, fMaj_wRRR, fStl_wRRR, fD_wRRR, fA_wRRR, fB_wRRR, fFn_wRRR]

theorem cvtF8e5 (r : Run) (d a k : BitVec 7) : Statement (.cvtF8e5 r d a k) := by
  intro _ w h; cases h
  simp [isHint, decodeWord, Instr.run, decodeVcvt, ifZero, fMaj_wRRR, fStl_wRRR, fD_wRRR, fA_wRRR, fB_wRRR, fFn_wRRR]

theorem cvtF32F8 (r : Run) (d a k : BitVec 7) : Statement (.cvtF32F8 r d a k) := by
  intro _ w h; cases h
  simp [isHint, decodeWord, Instr.run, decodeVcvt, ifZero, fMaj_wRRR, fStl_wRRR, fD_wRRR, fA_wRRR, fB_wRRR, fFn_wRRR]

theorem plane (r : Run) (d a : BitVec 7) : Statement (.plane r d a) := by
  intro _ w h; cases h
  simp [isHint, decodeWord, Instr.run, decodeVcvt, ifZero, fMaj_wRRR, fStl_wRRR, fD_wRRR, fA_wRRR, fB_wRRR, fFn_wRRR]

theorem unplane (r : Run) (d a : BitVec 7) : Statement (.unplane r d a) := by
  intro _ w h; cases h
  simp [isHint, decodeWord, Instr.run, decodeVcvt, ifZero, fMaj_wRRR, fStl_wRRR, fD_wRRR, fA_wRRR, fB_wRRR, fFn_wRRR]

theorem cvtS8 (r : Run) (d a k : BitVec 7) : Statement (.cvtS8 r d a k) := by
  intro _ w h; cases h
  simp [isHint, decodeWord, Instr.run, decodeVcvt, ifZero, fMaj_wRRR, fStl_wRRR, fD_wRRR, fA_wRRR, fB_wRRR, fFn_wRRR]

theorem cvtS32S8 (r : Run) (d a k : BitVec 7) : Statement (.cvtS32S8 r d a k) := by
  intro _ w h; cases h
  simp [isHint, decodeWord, Instr.run, decodeVcvt, ifZero, fMaj_wRRR, fStl_wRRR, fD_wRRR, fA_wRRR, fB_wRRR, fFn_wRRR]

theorem vshfl (r : Run) (d a : BitVec 7) (w : BitVec 3) : Statement (.vshfl r d a w) := by
  intro _ w h; cases h
  simp [isHint, decodeWord, Instr.run, decodeVxl, ifZero, fMaj_wVXL, fStl_wVXL, fD_wVXL, fA_wVXL, fWc_wVXL, fF_wVXL, fE_wVXL, fHigh_wVXL, fFn_wVXL]

theorem vshfx (r : Run) (d a : BitVec 7) (w : BitVec 3) (k : BitVec 4) : Statement (.vshfx r d a w k) := by
  intro _ w h; cases h
  have hb : k.toNat < 16 := k.isLt
  simp [isHint, decodeWord, Instr.run, decodeVxl, ifZero, fMaj_wVXL, fStl_wVXL, fD_wVXL, fA_wVXL, fWc_wVXL, fF_wVXL, fE_wVXL, fHigh_wVXL, fFn_wVXL, hb]

theorem vshup (r : Run) (d a : BitVec 7) (w : BitVec 3) (n : BitVec 4) : Statement (.vshup r d a w n) := by
  intro _ w h; cases h
  have hb : n.toNat < 16 := n.isLt
  simp [isHint, decodeWord, Instr.run, decodeVxl, ifZero, fMaj_wVXL, fStl_wVXL, fD_wVXL, fA_wVXL, fWc_wVXL, fF_wVXL, fE_wVXL, fHigh_wVXL, fFn_wVXL, hb]

theorem vshdn (r : Run) (d a : BitVec 7) (w : BitVec 3) (n : BitVec 4) : Statement (.vshdn r d a w n) := by
  intro _ w h; cases h
  have hb : n.toNat < 16 := n.isLt
  simp [isHint, decodeWord, Instr.run, decodeVxl, ifZero, fMaj_wVXL, fStl_wVXL, fD_wVXL, fA_wVXL, fWc_wVXL, fF_wVXL, fE_wVXL, fHigh_wVXL, fFn_wVXL, hb]

theorem vredAddS32 (r : Run) (d a : BitVec 7) (w : BitVec 3) : Statement (.vredAddS32 r d a w) := by
  intro _ w h; cases h
  simp [isHint, decodeWord, Instr.run, decodeVxl, ifZero, fMaj_wVXL, fStl_wVXL, fD_wVXL, fA_wVXL, fWc_wVXL, fF_wVXL, fE_wVXL, fHigh_wVXL, fFn_wVXL]

theorem vredAddF32 (r : Run) (d a : BitVec 7) (w : BitVec 3) : Statement (.vredAddF32 r d a w) := by
  intro _ w h; cases h
  simp [isHint, decodeWord, Instr.run, decodeVxl, ifZero, fMaj_wVXL, fStl_wVXL, fD_wVXL, fA_wVXL, fWc_wVXL, fF_wVXL, fE_wVXL, fHigh_wVXL, fFn_wVXL]

theorem vredMin (r : Run) (d a : BitVec 7) (w : BitVec 3) (t : BitVec 4) : Statement (.vredMin r d a w t) := by
  intro _ w h; cases h
  have hb : t.toNat < 16 := t.isLt
  simp [isHint, decodeWord, Instr.run, decodeVxl, ifZero, fMaj_wVXL, fStl_wVXL, fD_wVXL, fA_wVXL, fWc_wVXL, fF_wVXL, fE_wVXL, fHigh_wVXL, fFn_wVXL, hb]

theorem vredMax (r : Run) (d a : BitVec 7) (w : BitVec 3) (t : BitVec 4) : Statement (.vredMax r d a w t) := by
  intro _ w h; cases h
  have hb : t.toNat < 16 := t.isLt
  simp [isHint, decodeWord, Instr.run, decodeVxl, ifZero, fMaj_wVXL, fStl_wVXL, fD_wVXL, fA_wVXL, fWc_wVXL, fF_wVXL, fE_wVXL, fHigh_wVXL, fFn_wVXL, hb]

theorem vscanAddS32 (r : Run) (d a : BitVec 7) (w : BitVec 3) (e : BitVec 1) : Statement (.vscanAddS32 r d a w e) := by
  intro _ w h; cases h
  have hb : e.toNat < 16 := by have := e.isLt; omega
  have hz : e.toNat / 2 = 0 := by have := e.isLt; omega
  simp [isHint, decodeWord, Instr.run, decodeVxl, ifZero, fMaj_wVXL, fStl_wVXL, fD_wVXL, fA_wVXL, fWc_wVXL, fF_wVXL, fE_wVXL, fHigh_wVXL, fFn_wVXL, hb, hz]

theorem vscanAddF32 (r : Run) (d a : BitVec 7) (w : BitVec 3) (e : BitVec 1) : Statement (.vscanAddF32 r d a w e) := by
  intro _ w h; cases h
  have hb : e.toNat < 16 := by have := e.isLt; omega
  have hz : e.toNat / 2 = 0 := by have := e.isLt; omega
  simp [isHint, decodeWord, Instr.run, decodeVxl, ifZero, fMaj_wVXL, fStl_wVXL, fD_wVXL, fA_wVXL, fWc_wVXL, fF_wVXL, fE_wVXL, fHigh_wVXL, fFn_wVXL, hb, hz]

theorem vvote (r : Run) (d a : BitVec 7) (w : BitVec 3) (m : BitVec 4) : Statement (.vvote r d a w m) := by
  intro _ w h; cases h
  have hb : m.toNat < 16 := m.isLt
  simp [isHint, decodeWord, Instr.run, decodeVxl, ifZero, fMaj_wVXL, fStl_wVXL, fD_wVXL, fA_wVXL, fWc_wVXL, fF_wVXL, fE_wVXL, fHigh_wVXL, fFn_wVXL, hb]

theorem vfirst (r : Run) (d a : BitVec 7) (w : BitVec 3) : Statement (.vfirst r d a w) := by
  intro _ w h; cases h
  simp [isHint, decodeWord, Instr.run, decodeVxl, ifZero, fMaj_wVXL, fStl_wVXL, fD_wVXL, fA_wVXL, fWc_wVXL, fF_wVXL, fE_wVXL, fHigh_wVXL, fFn_wVXL]

theorem vreadl (r : Run) (d a : BitVec 7) (w : BitVec 3) (i : BitVec 4) : Statement (.vreadl r d a w i) := by
  intro _ w h; cases h
  have hb : i.toNat < 16 := i.isLt
  simp [isHint, decodeWord, Instr.run, decodeVxl, ifZero, fMaj_wVXL, fStl_wVXL, fD_wVXL, fA_wVXL, fWc_wVXL, fF_wVXL, fE_wVXL, fHigh_wVXL, fFn_wVXL, hb]

theorem vwritel (r : Run) (d a : BitVec 7) (w : BitVec 3) (i : BitVec 4) : Statement (.vwritel r d a w i) := by
  intro _ w h; cases h
  have hb : i.toNat < 16 := i.isLt
  simp [isHint, decodeWord, Instr.run, decodeVxl, ifZero, fMaj_wVXL, fStl_wVXL, fD_wVXL, fA_wVXL, fWc_wVXL, fF_wVXL, fE_wVXL, fHigh_wVXL, fFn_wVXL, hb]

theorem vmatch (r : Run) (d a : BitVec 7) (w : BitVec 3) (h : BitVec 4) : Statement (.vmatch r d a w h) := by
  intro _ w h; cases h
  have hb : h.toNat < 16 := h.isLt
  simp [isHint, decodeWord, Instr.run, decodeVxl, ifZero, fMaj_wVXL, fStl_wVXL, fD_wVXL, fA_wVXL, fWc_wVXL, fF_wVXL, fE_wVXL, fHigh_wVXL, fFn_wVXL, hb]

theorem cmpeq (r : Run) (d a b : BitVec 7) : Statement (.cmpeq r d a b) := by
  intro _ w h; cases h
  simp [isHint, decodeWord, Instr.run, decodeMask, ifZero, fMaj_wRRR, fStl_wRRR, fD_wRRR, fA_wRRR, fB_wRRR, fFn_wRRR]

theorem cmpne (r : Run) (d a b : BitVec 7) : Statement (.cmpne r d a b) := by
  intro _ w h; cases h
  simp [isHint, decodeWord, Instr.run, decodeMask, ifZero, fMaj_wRRR, fStl_wRRR, fD_wRRR, fA_wRRR, fB_wRRR, fFn_wRRR]

theorem cmplt (r : Run) (d a b : BitVec 7) : Statement (.cmplt r d a b) := by
  intro _ w h; cases h
  simp [isHint, decodeWord, Instr.run, decodeMask, ifZero, fMaj_wRRR, fStl_wRRR, fD_wRRR, fA_wRRR, fB_wRRR, fFn_wRRR]

theorem cmple (r : Run) (d a b : BitVec 7) : Statement (.cmple r d a b) := by
  intro _ w h; cases h
  simp [isHint, decodeWord, Instr.run, decodeMask, ifZero, fMaj_wRRR, fStl_wRRR, fD_wRRR, fA_wRRR, fB_wRRR, fFn_wRRR]

theorem cmpltn (r : Run) (d a b : BitVec 7) : Statement (.cmpltn r d a b) := by
  intro _ w h; cases h
  simp [isHint, decodeWord, Instr.run, decodeMask, ifZero, fMaj_wRRR, fStl_wRRR, fD_wRRR, fA_wRRR, fB_wRRR, fFn_wRRR]

theorem cmplen (r : Run) (d a b : BitVec 7) : Statement (.cmplen r d a b) := by
  intro _ w h; cases h
  simp [isHint, decodeWord, Instr.run, decodeMask, ifZero, fMaj_wRRR, fStl_wRRR, fD_wRRR, fA_wRRR, fB_wRRR, fFn_wRRR]

theorem fcmpeq (r : Run) (d a b : BitVec 7) : Statement (.fcmpeq r d a b) := by
  intro _ w h; cases h
  simp [isHint, decodeWord, Instr.run, decodeMask, ifZero, fMaj_wRRR, fStl_wRRR, fD_wRRR, fA_wRRR, fB_wRRR, fFn_wRRR]

theorem fcmplt (r : Run) (d a b : BitVec 7) : Statement (.fcmplt r d a b) := by
  intro _ w h; cases h
  simp [isHint, decodeWord, Instr.run, decodeMask, ifZero, fMaj_wRRR, fStl_wRRR, fD_wRRR, fA_wRRR, fB_wRRR, fFn_wRRR]

theorem fcmple (r : Run) (d a b : BitVec 7) : Statement (.fcmple r d a b) := by
  intro _ w h; cases h
  simp [isHint, decodeWord, Instr.run, decodeMask, ifZero, fMaj_wRRR, fStl_wRRR, fD_wRRR, fA_wRRR, fB_wRRR, fFn_wRRR]

theorem fcmpun (r : Run) (d a b : BitVec 7) : Statement (.fcmpun r d a b) := by
  intro _ w h; cases h
  simp [isHint, decodeWord, Instr.run, decodeMask, ifZero, fMaj_wRRR, fStl_wRRR, fD_wRRR, fA_wRRR, fB_wRRR, fFn_wRRR]

theorem mkand (r : Run) (d a b : BitVec 7) : Statement (.mkand r d a b) := by
  intro _ w h; cases h
  simp [isHint, decodeWord, Instr.run, decodeMask, ifZero, fMaj_wRRR, fStl_wRRR, fD_wRRR, fA_wRRR, fB_wRRR, fFn_wRRR]

theorem mkor (r : Run) (d a b : BitVec 7) : Statement (.mkor r d a b) := by
  intro _ w h; cases h
  simp [isHint, decodeWord, Instr.run, decodeMask, ifZero, fMaj_wRRR, fStl_wRRR, fD_wRRR, fA_wRRR, fB_wRRR, fFn_wRRR]

theorem mkxor (r : Run) (d a b : BitVec 7) : Statement (.mkxor r d a b) := by
  intro _ w h; cases h
  simp [isHint, decodeWord, Instr.run, decodeMask, ifZero, fMaj_wRRR, fStl_wRRR, fD_wRRR, fA_wRRR, fB_wRRR, fFn_wRRR]

theorem mkandn (r : Run) (d a b : BitVec 7) : Statement (.mkandn r d a b) := by
  intro _ w h; cases h
  simp [isHint, decodeWord, Instr.run, decodeMask, ifZero, fMaj_wRRR, fStl_wRRR, fD_wRRR, fA_wRRR, fB_wRRR, fFn_wRRR]

theorem mkpop (r : Run) (d a : BitVec 7) : Statement (.mkpop r d a) := by
  intro _ w h; cases h
  simp [isHint, decodeWord, Instr.run, decodeMask, ifZero, fMaj_wRRR, fStl_wRRR, fD_wRRR, fA_wRRR, fB_wRRR, fFn_wRRR]

theorem mkmov (r : Run) (d a : BitVec 7) : Statement (.mkmov r d a) := by
  intro _ w h; cases h
  simp [isHint, decodeWord, Instr.run, decodeMask, ifZero, fMaj_wRRR, fStl_wRRR, fD_wRRR, fA_wRRR, fB_wRRR, fFn_wRRR]

theorem ldB (r : Run) (d a b : BitVec 7) : Statement (.ldB r d a b) := by
  intro _ w h; cases h
  simp [isHint, decodeWord, Instr.run, decodeVmem, ifZero, fMaj_wRRR, fStl_wRRR, fD_wRRR, fA_wRRR, fB_wRRR, fFn_wRRR]

theorem ldBs (r : Run) (d a b : BitVec 7) : Statement (.ldBs r d a b) := by
  intro _ w h; cases h
  simp [isHint, decodeWord, Instr.run, decodeVmem, ifZero, fMaj_wRRR, fStl_wRRR, fD_wRRR, fA_wRRR, fB_wRRR, fFn_wRRR]

theorem ldH (r : Run) (d a b : BitVec 7) : Statement (.ldH r d a b) := by
  intro _ w h; cases h
  simp [isHint, decodeWord, Instr.run, decodeVmem, ifZero, fMaj_wRRR, fStl_wRRR, fD_wRRR, fA_wRRR, fB_wRRR, fFn_wRRR]

theorem ldHs (r : Run) (d a b : BitVec 7) : Statement (.ldHs r d a b) := by
  intro _ w h; cases h
  simp [isHint, decodeWord, Instr.run, decodeVmem, ifZero, fMaj_wRRR, fStl_wRRR, fD_wRRR, fA_wRRR, fB_wRRR, fFn_wRRR]

theorem ldW (r : Run) (d a b : BitVec 7) : Statement (.ldW r d a b) := by
  intro _ w h; cases h
  simp [isHint, decodeWord, Instr.run, decodeVmem, ifZero, fMaj_wRRR, fStl_wRRR, fD_wRRR, fA_wRRR, fB_wRRR, fFn_wRRR]

theorem ldD (r : Run) (d a b : BitVec 7) : Statement (.ldD r d a b) := by
  intro _ w h; cases h
  simp [isHint, decodeWord, Instr.run, decodeVmem, ifZero, fMaj_wRRR, fStl_wRRR, fD_wRRR, fA_wRRR, fB_wRRR, fFn_wRRR]

theorem ldQ (r : Run) (d a b : BitVec 7) : Statement (.ldQ r d a b) := by
  intro _ w h; cases h
  simp [isHint, decodeWord, Instr.run, decodeVmem, ifZero, fMaj_wRRR, fStl_wRRR, fD_wRRR, fA_wRRR, fB_wRRR, fFn_wRRR]

theorem ldnW (r : Run) (d a b : BitVec 7) : Statement (.ldnW r d a b) := by
  intro _ w h; cases h
  simp [isHint, decodeWord, Instr.run, decodeVmem, ifZero, fMaj_wRRR, fStl_wRRR, fD_wRRR, fA_wRRR, fB_wRRR, fFn_wRRR]

theorem stB (r : Run) (d a b : BitVec 7) : Statement (.stB r d a b) := by
  intro _ w h; cases h
  simp [isHint, decodeWord, Instr.run, decodeVmem, ifZero, fMaj_wRRR, fStl_wRRR, fD_wRRR, fA_wRRR, fB_wRRR, fFn_wRRR]

theorem stH (r : Run) (d a b : BitVec 7) : Statement (.stH r d a b) := by
  intro _ w h; cases h
  simp [isHint, decodeWord, Instr.run, decodeVmem, ifZero, fMaj_wRRR, fStl_wRRR, fD_wRRR, fA_wRRR, fB_wRRR, fFn_wRRR]

theorem stW (r : Run) (d a b : BitVec 7) : Statement (.stW r d a b) := by
  intro _ w h; cases h
  simp [isHint, decodeWord, Instr.run, decodeVmem, ifZero, fMaj_wRRR, fStl_wRRR, fD_wRRR, fA_wRRR, fB_wRRR, fFn_wRRR]

theorem stD (r : Run) (d a b : BitVec 7) : Statement (.stD r d a b) := by
  intro _ w h; cases h
  simp [isHint, decodeWord, Instr.run, decodeVmem, ifZero, fMaj_wRRR, fStl_wRRR, fD_wRRR, fA_wRRR, fB_wRRR, fFn_wRRR]

theorem stQ (r : Run) (d a b : BitVec 7) : Statement (.stQ r d a b) := by
  intro _ w h; cases h
  simp [isHint, decodeWord, Instr.run, decodeVmem, ifZero, fMaj_wRRR, fStl_wRRR, fD_wRRR, fA_wRRR, fB_wRRR, fFn_wRRR]

theorem pref (r : Run) (a b : BitVec 7) : Statement (.pref r a b) := by
  intro _ w h; cases h
  simp [isHint, decodeWord, Instr.run, decodeVmem, ifZero, fMaj_wRRR, fStl_wRRR, fD_wRRR, fA_wRRR, fB_wRRR, fFn_wRRR]

theorem ldnD (r : Run) (d a b : BitVec 7) : Statement (.ldnD r d a b) := by
  intro _ w h; cases h
  simp [isHint, decodeWord, Instr.run, decodeVmem, ifZero, fMaj_wRRR, fStl_wRRR, fD_wRRR, fA_wRRR, fB_wRRR, fFn_wRRR]

theorem ldsW (r : Run) (d a b : BitVec 7) : Statement (.ldsW r d a b) := by
  intro _ w h; cases h
  simp [isHint, decodeWord, Instr.run, decodeSpad, ifZero, fMaj_wRRR, fStl_wRRR, fD_wRRR, fA_wRRR, fB_wRRR, fFn_wRRR]

theorem ldsD (r : Run) (d a b : BitVec 7) : Statement (.ldsD r d a b) := by
  intro _ w h; cases h
  simp [isHint, decodeWord, Instr.run, decodeSpad, ifZero, fMaj_wRRR, fStl_wRRR, fD_wRRR, fA_wRRR, fB_wRRR, fFn_wRRR]

theorem ldsQ (r : Run) (d a b : BitVec 7) : Statement (.ldsQ r d a b) := by
  intro _ w h; cases h
  simp [isHint, decodeWord, Instr.run, decodeSpad, ifZero, fMaj_wRRR, fStl_wRRR, fD_wRRR, fA_wRRR, fB_wRRR, fFn_wRRR]

theorem stsW (r : Run) (d a b : BitVec 7) : Statement (.stsW r d a b) := by
  intro _ w h; cases h
  simp [isHint, decodeWord, Instr.run, decodeSpad, ifZero, fMaj_wRRR, fStl_wRRR, fD_wRRR, fA_wRRR, fB_wRRR, fFn_wRRR]

theorem stsD (r : Run) (d a b : BitVec 7) : Statement (.stsD r d a b) := by
  intro _ w h; cases h
  simp [isHint, decodeWord, Instr.run, decodeSpad, ifZero, fMaj_wRRR, fStl_wRRR, fD_wRRR, fA_wRRR, fB_wRRR, fFn_wRRR]

theorem stsQ (r : Run) (d a b : BitVec 7) : Statement (.stsQ r d a b) := by
  intro _ w h; cases h
  simp [isHint, decodeWord, Instr.run, decodeSpad, ifZero, fMaj_wRRR, fStl_wRRR, fD_wRRR, fA_wRRR, fB_wRRR, fFn_wRRR]

theorem vspill (r : Run) (d a n : BitVec 7) : Statement (.vspill r d a n) := by
  intro _ w h; cases h
  simp [isHint, decodeWord, Instr.run, decodeSpad, ifZero, fMaj_wRRR, fStl_wRRR, fD_wRRR, fA_wRRR, fB_wRRR, fFn_wRRR]

theorem vfill (r : Run) (d a n : BitVec 7) : Statement (.vfill r d a n) := by
  intro _ w h; cases h
  simp [isHint, decodeWord, Instr.run, decodeSpad, ifZero, fMaj_wRRR, fStl_wRRR, fD_wRRR, fA_wRRR, fB_wRRR, fFn_wRRR]

theorem ldsp (r : Run) (d a b : BitVec 7) : Statement (.ldsp r d a b) := by
  intro _ w h; cases h
  simp [isHint, decodeWord, Instr.run, decodeSpad, ifZero, fMaj_wRRR, fStl_wRRR, fD_wRRR, fA_wRRR, fB_wRRR, fFn_wRRR]

theorem stsp (r : Run) (d a b : BitVec 7) : Statement (.stsp r d a b) := by
  intro _ w h; cases h
  simp [isHint, decodeWord, Instr.run, decodeSpad, ifZero, fMaj_wRRR, fStl_wRRR, fD_wRRR, fA_wRRR, fB_wRRR, fFn_wRRR]

theorem aadd (r : Run) (d a b : BitVec 7) : Statement (.aadd r d a b) := by
  intro _ w h; cases h
  simp [isHint, decodeWord, Instr.run, decodeAtom, ifZero, fMaj_wRRR, fStl_wRRR, fD_wRRR, fA_wRRR, fB_wRRR, fFn_wRRR]

theorem aand (r : Run) (d a b : BitVec 7) : Statement (.aand r d a b) := by
  intro _ w h; cases h
  simp [isHint, decodeWord, Instr.run, decodeAtom, ifZero, fMaj_wRRR, fStl_wRRR, fD_wRRR, fA_wRRR, fB_wRRR, fFn_wRRR]

theorem aor (r : Run) (d a b : BitVec 7) : Statement (.aor r d a b) := by
  intro _ w h; cases h
  simp [isHint, decodeWord, Instr.run, decodeAtom, ifZero, fMaj_wRRR, fStl_wRRR, fD_wRRR, fA_wRRR, fB_wRRR, fFn_wRRR]

theorem axor (r : Run) (d a b : BitVec 7) : Statement (.axor r d a b) := by
  intro _ w h; cases h
  simp [isHint, decodeWord, Instr.run, decodeAtom, ifZero, fMaj_wRRR, fStl_wRRR, fD_wRRR, fA_wRRR, fB_wRRR, fFn_wRRR]

theorem amin (r : Run) (d a b : BitVec 7) : Statement (.amin r d a b) := by
  intro _ w h; cases h
  simp [isHint, decodeWord, Instr.run, decodeAtom, ifZero, fMaj_wRRR, fStl_wRRR, fD_wRRR, fA_wRRR, fB_wRRR, fFn_wRRR]

theorem amax (r : Run) (d a b : BitVec 7) : Statement (.amax r d a b) := by
  intro _ w h; cases h
  simp [isHint, decodeWord, Instr.run, decodeAtom, ifZero, fMaj_wRRR, fStl_wRRR, fD_wRRR, fA_wRRR, fB_wRRR, fFn_wRRR]

theorem aminn (r : Run) (d a b : BitVec 7) : Statement (.aminn r d a b) := by
  intro _ w h; cases h
  simp [isHint, decodeWord, Instr.run, decodeAtom, ifZero, fMaj_wRRR, fStl_wRRR, fD_wRRR, fA_wRRR, fB_wRRR, fFn_wRRR]

theorem amaxn (r : Run) (d a b : BitVec 7) : Statement (.amaxn r d a b) := by
  intro _ w h; cases h
  simp [isHint, decodeWord, Instr.run, decodeAtom, ifZero, fMaj_wRRR, fStl_wRRR, fD_wRRR, fA_wRRR, fB_wRRR, fFn_wRRR]

theorem axch (r : Run) (d a b : BitVec 7) : Statement (.axch r d a b) := by
  intro _ w h; cases h
  simp [isHint, decodeWord, Instr.run, decodeAtom, ifZero, fMaj_wRRR, fStl_wRRR, fD_wRRR, fA_wRRR, fB_wRRR, fFn_wRRR]

theorem acas (r : Run) (d a b : BitVec 7) : Statement (.acas r d a b) := by
  intro _ w h; cases h
  simp [isHint, decodeWord, Instr.run, decodeAtom, ifZero, fMaj_wRRR, fStl_wRRR, fD_wRRR, fA_wRRR, fB_wRRR, fFn_wRRR]

theorem aaddf (r : Run) (d a b : BitVec 7) : Statement (.aaddf r d a b) := by
  intro _ w h; cases h
  simp [isHint, decodeWord, Instr.run, decodeAtom, ifZero, fMaj_wRRR, fStl_wRRR, fD_wRRR, fA_wRRR, fB_wRRR, fFn_wRRR]

theorem aincw (r : Run) (d a b : BitVec 7) : Statement (.aincw r d a b) := by
  intro _ w h; cases h
  simp [isHint, decodeWord, Instr.run, decodeAtom, ifZero, fMaj_wRRR, fStl_wRRR, fD_wRRR, fA_wRRR, fB_wRRR, fFn_wRRR]

theorem ald (r : Run) (d a b : BitVec 7) : Statement (.ald r d a b) := by
  intro _ w h; cases h
  simp [isHint, decodeWord, Instr.run, decodeAtom, ifZero, fMaj_wRRR, fStl_wRRR, fD_wRRR, fA_wRRR, fB_wRRR, fFn_wRRR]

theorem ast (r : Run) (d a b : BitVec 7) : Statement (.ast r d a b) := by
  intro _ w h; cases h
  simp [isHint, decodeWord, Instr.run, decodeAtom, ifZero, fMaj_wRRR, fStl_wRRR, fD_wRRR, fA_wRRR, fB_wRRR, fFn_wRRR]

theorem fence (r : Run) (a : BitVec 7) : Statement (.fence r a) := by
  intro _ w h; cases h
  simp [isHint, decodeWord, Instr.run, decodeSync, ifZero, fMaj_wRRR, fStl_wRRR, fD_wRRR, fA_wRRR, fB_wRRR, fFn_wRRR]

theorem trkset (r : Run) (t a b : BitVec 7) : Statement (.trkset r t a b) := by
  intro hw w h; cases h
  simp only [Instr.wf, Bool.and_eq_true, decide_eq_true_eq] at hw
  simp [isHint, decodeWord, Instr.run, decodeSync, fMaj_wRRR, fStl_wRRR, fD_wRRR, fA_wRRR, fB_wRRR, fFn_wRRR, hw.2]

theorem trksetH (r : Run) (t a : BitVec 7) : Statement (.trksetH r t a) := by
  intro hw w h; cases h
  simp only [Instr.wf, Bool.and_eq_true, decide_eq_true_eq] at hw
  simp [isHint, decodeWord, Instr.run, decodeSync, ifZero, fMaj_wRRR, fStl_wRRR, fD_wRRR, fA_wRRR, fB_wRRR, fFn_wRRR, Nat.not_lt.2 hw.2]

theorem trkclr (r : Run) (t : BitVec 7) : Statement (.trkclr r t) := by
  intro _ w h; cases h
  simp [isHint, decodeWord, Instr.run, decodeSync, ifZero, fMaj_wRRR, fStl_wRRR, fD_wRRR, fA_wRRR, fB_wRRR, fFn_wRRR]

theorem drainst (r : Run) : Statement (.drainst r) := by
  intro _ w h; cases h
  simp [isHint, decodeWord, Instr.run, decodeSync, ifZero, fMaj_wRRR, fStl_wRRR, fD_wRRR, fA_wRRR, fB_wRRR, fFn_wRRR]

theorem waita (r : Run) (d a b : BitVec 7) : Statement (.waita r d a b) := by
  intro _ w h; cases h
  simp [isHint, decodeWord, Instr.run, decodeSync, ifZero, fMaj_wRRR, fStl_wRRR, fD_wRRR, fA_wRRR, fB_wRRR, fFn_wRRR]

theorem bardef (r : Run) (a b : BitVec 7) : Statement (.bardef r a b) := by
  intro _ w h; cases h
  simp [isHint, decodeWord, Instr.run, decodeSync, ifZero, fMaj_wRRR, fStl_wRRR, fD_wRRR, fA_wRRR, fB_wRRR, fFn_wRRR]

theorem bararr (r : Run) (d a : BitVec 7) : Statement (.bararr r d a) := by
  intro _ w h; cases h
  simp [isHint, decodeWord, Instr.run, decodeSync, ifZero, fMaj_wRRR, fStl_wRRR, fD_wRRR, fA_wRRR, fB_wRRR, fFn_wRRR]

theorem barwait (r : Run) (a b : BitVec 7) : Statement (.barwait r a b) := by
  intro _ w h; cases h
  simp [isHint, decodeWord, Instr.run, decodeSync, ifZero, fMaj_wRRR, fStl_wRRR, fD_wRRR, fA_wRRR, fB_wRRR, fFn_wRRR]

theorem barc (r : Run) (d a : BitVec 7) : Statement (.barc r d a) := by
  intro _ w h; cases h
  simp [isHint, decodeWord, Instr.run, decodeSync, ifZero, fMaj_wRRR, fStl_wRRR, fD_wRRR, fA_wRRR, fB_wRRR, fFn_wRRR]

theorem barinv (r : Run) (a : BitVec 7) : Statement (.barinv r a) := by
  intro _ w h; cases h
  simp [isHint, decodeWord, Instr.run, decodeSync, ifZero, fMaj_wRRR, fStl_wRRR, fD_wRRR, fA_wRRR, fB_wRRR, fFn_wRRR]

theorem cpyl (r : Run) (d a b : BitVec 7) : Statement (.cpyl r d a b) := by
  intro _ w h; cases h
  simp [isHint, decodeWord, Instr.run, decodeCopy, ifZero, fMaj_wRRR, fStl_wRRR, fD_wRRR, fA_wRRR, fB_wRRR, fFn_wRRR]

theorem cpyt (r : Run) (a : BitVec 7) : Statement (.cpyt r a) := by
  intro _ w h; cases h
  simp [isHint, decodeWord, Instr.run, decodeCopy, ifZero, fMaj_wRRR, fStl_wRRR, fD_wRRR, fA_wRRR, fB_wRRR, fFn_wRRR]

theorem cpyr (r : Run) (a : BitVec 7) : Statement (.cpyr r a) := by
  intro _ w h; cases h
  simp [isHint, decodeWord, Instr.run, decodeCopy, ifZero, fMaj_wRRR, fStl_wRRR, fD_wRRR, fA_wRRR, fB_wRRR, fFn_wRRR]

theorem bufdef (r : Run) (n a b : BitVec 7) : Statement (.bufdef r n a b) := by
  intro _ w h; cases h
  simp [isHint, decodeWord, Instr.run, decodeCopy, ifZero, fMaj_wRRR, fStl_wRRR, fD_wRRR, fA_wRRR, fB_wRRR, fFn_wRRR]

theorem bufwait (r : Run) (n m : BitVec 7) : Statement (.bufwait r n m) := by
  intro _ w h; cases h
  simp [isHint, decodeWord, Instr.run, decodeCopy, ifZero, fMaj_wRRR, fStl_wRRR, fD_wRRR, fA_wRRR, fB_wRRR, fFn_wRRR]

theorem bufrel (r : Run) (n m : BitVec 7) : Statement (.bufrel r n m) := by
  intro _ w h; cases h
  simp [isHint, decodeWord, Instr.run, decodeCopy, ifZero, fMaj_wRRR, fStl_wRRR, fD_wRRR, fA_wRRR, fB_wRRR, fFn_wRRR]

theorem bufstat (r : Run) (d n : BitVec 7) : Statement (.bufstat r d n) := by
  intro _ w h; cases h
  simp [isHint, decodeWord, Instr.run, decodeCopy, ifZero, fMaj_wRRR, fStl_wRRR, fD_wRRR, fA_wRRR, fB_wRRR, fFn_wRRR]

theorem qpop (r : Run) (d q : BitVec 7) : Statement (.qpop r d q) := by
  intro _ w h; cases h
  simp [isHint, decodeWord, Instr.run, decodeCopy, ifZero, fMaj_wRRR, fStl_wRRR, fD_wRRR, fA_wRRR, fB_wRRR, fFn_wRRR]

theorem qpeek (r : Run) (d q : BitVec 7) : Statement (.qpeek r d q) := by
  intro _ w h; cases h
  simp [isHint, decodeWord, Instr.run, decodeCopy, ifZero, fMaj_wRRR, fStl_wRRR, fD_wRRR, fA_wRRR, fB_wRRR, fFn_wRRR]

theorem aloop (r : Run) (k a : BitVec 7) : Statement (.aloop r k a) := by
  intro _ w h; cases h
  simp [isHint, decodeWord, Instr.run, decodeAccs, ifZero, fMaj_wRRR, fStl_wRRR, fD_wRRR, fA_wRRR, fB_wRRR, fFn_wRRR]

theorem aend (r : Run) (k : BitVec 7) : Statement (.aend r k) := by
  intro _ w h; cases h
  simp [isHint, decodeWord, Instr.run, decodeAccs, ifZero, fMaj_wRRR, fStl_wRRR, fD_wRRR, fA_wRRR, fB_wRRR, fFn_wRRR]

theorem astrm (r : Run) (q a g : BitVec 7) : Statement (.astrm r q a g) := by
  intro _ w h; cases h
  simp [isHint, decodeWord, Instr.run, decodeAccs, ifZero, fMaj_wRRR, fStl_wRRR, fD_wRRR, fA_wRRR, fB_wRRR, fFn_wRRR]

theorem acpy (r : Run) (n a g : BitVec 7) : Statement (.acpy r n a g) := by
  intro _ w h; cases h
  simp [isHint, decodeWord, Instr.run, decodeAccs, ifZero, fMaj_wRRR, fStl_wRRR, fD_wRRR, fA_wRRR, fB_wRRR, fFn_wRRR]

theorem asig (r : Run) (a b : BitVec 7) : Statement (.asig r a b) := by
  intro _ w h; cases h
  simp [isHint, decodeWord, Instr.run, decodeAccs, ifZero, fMaj_wRRR, fStl_wRRR, fD_wRRR, fA_wRRR, fB_wRRR, fFn_wRRR]

theorem ahalt (r : Run) : Statement (.ahalt r) := by
  intro _ w h; cases h
  simp [isHint, decodeWord, Instr.run, decodeAccs, ifZero, fMaj_wRRR, fStl_wRRR, fD_wRRR, fA_wRRR, fB_wRRR, fFn_wRRR]

theorem astart (r : Run) (a : BitVec 7) : Statement (.astart r a) := by
  intro _ w h; cases h
  simp [isHint, decodeWord, Instr.run, decodeAccs, ifZero, fMaj_wRRR, fStl_wRRR, fD_wRRR, fA_wRRR, fB_wRRR, fFn_wRRR]

theorem astat (r : Run) (d : BitVec 7) : Statement (.astat r d) := by
  intro _ w h; cases h
  simp [isHint, decodeWord, Instr.run, decodeAccs, ifZero, fMaj_wRRR, fStl_wRRR, fD_wRRR, fA_wRRR, fB_wRRR, fFn_wRRR]

theorem mwld (r : Run) (a b : BitVec 7) : Statement (.mwld r a b) := by
  intro _ w h; cases h
  simp [isHint, decodeWord, Instr.run, decodeMatx, ifZero, fMaj_wRRR, fStl_wRRR, fD_wRRR, fA_wRRR, fB_wRRR, fFn_wRRR]

theorem mstr (r : Run) (n a b : BitVec 7) : Statement (.mstr r n a b) := by
  intro hw w h; cases h
  simp only [Instr.wf, Bool.and_eq_true, Bool.not_eq_true'] at hw
  simp [isHint, decodeWord, Instr.run, decodeMatx, fMaj_wRRR, fStl_wRRR, fD_wRRR, fA_wRRR, fB_wRRR, fFn_wRRR, hw.2]

theorem mstrQueue (r : Run) (n b : BitVec 7) : Statement (.mstrQueue r n b) := by
  intro hw w h; cases h
  simp only [Instr.wf, Bool.and_eq_true] at hw
  have hs : (Run.mk r.hints r.stl).srcq = true := hw.2
  simp [isHint, decodeWord, Instr.run, decodeMatx, fMaj_wRRR, fStl_wRRR, fD_wRRR, fA_wRRR, fB_wRRR, fFn_wRRR, hs]

theorem mrdo (r : Run) (n a b : BitVec 7) : Statement (.mrdo r n a b) := by
  intro _ w h; cases h
  simp [isHint, decodeWord, Instr.run, decodeMatx, ifZero, fMaj_wRRR, fStl_wRRR, fD_wRRR, fA_wRRR, fB_wRRR, fFn_wRRR]

theorem mzero (r : Run) (n : BitVec 7) : Statement (.mzero r n) := by
  intro _ w h; cases h
  simp [isHint, decodeWord, Instr.run, decodeMatx, ifZero, fMaj_wRRR, fStl_wRRR, fD_wRRR, fA_wRRR, fB_wRRR, fFn_wRRR]

theorem macsv (r : Run) (n a b : BitVec 7) : Statement (.macsv r n a b) := by
  intro _ w h; cases h
  simp [isHint, decodeWord, Instr.run, decodeMatx, ifZero, fMaj_wRRR, fStl_wRRR, fD_wRRR, fA_wRRR, fB_wRRR, fFn_wRRR]

theorem macld (r : Run) (n a b : BitVec 7) : Statement (.macld r n a b) := by
  intro _ w h; cases h
  simp [isHint, decodeWord, Instr.run, decodeMatx, ifZero, fMaj_wRRR, fStl_wRRR, fD_wRRR, fA_wRRR, fB_wRRR, fFn_wRRR]

theorem mstat (r : Run) (d w : BitVec 7) : Statement (.mstat r d w) := by
  intro _ w h; cases h
  simp [isHint, decodeWord, Instr.run, decodeMatx, ifZero, fMaj_wRRR, fStl_wRRR, fD_wRRR, fA_wRRR, fB_wRRR, fFn_wRRR]

theorem trace (r : Run) (d a b : BitVec 7) : Statement (.trace r d a b) := by
  intro _ w h; cases h
  simp [isHint, decodeWord, Instr.run, decodeRay, ifZero, fMaj_wRRR, fStl_wRRR, fD_wRRR, fA_wRRR, fB_wRRR, fFn_wRRR]

theorem hitget (r : Run) (d a b : BitVec 7) : Statement (.hitget r d a b) := by
  intro _ w h; cases h
  simp [isHint, decodeWord, Instr.run, decodeRay, ifZero, fMaj_wRRR, fStl_wRRR, fD_wRRR, fA_wRRR, fB_wRRR, fFn_wRRR]

theorem ahacc (r : Run) : Statement (.ahacc r) := by
  intro _ w h; cases h
  simp [isHint, decodeWord, Instr.run, decodeRay, ifZero, fMaj_wRRR, fStl_wRRR, fD_wRRR, fA_wRRR, fB_wRRR, fFn_wRRR]

theorem ahrej (r : Run) : Statement (.ahrej r) := by
  intro _ w h; cases h
  simp [isHint, decodeWord, Instr.run, decodeRay, ifZero, fMaj_wRRR, fStl_wRRR, fD_wRRR, fA_wRRR, fB_wRRR, fFn_wRRR]

theorem contend (r : Run) (d : BitVec 7) : Statement (.contend r d) := by
  intro _ w h; cases h
  simp [isHint, decodeWord, Instr.run, decodeRay, ifZero, fMaj_wRRR, fStl_wRRR, fD_wRRR, fA_wRRR, fB_wRRR, fFn_wRRR]

theorem contget (r : Run) (d k : BitVec 7) : Statement (.contget r d k) := by
  intro _ w h; cases h
  simp [isHint, decodeWord, Instr.run, decodeRay, ifZero, fMaj_wRRR, fStl_wRRR, fD_wRRR, fA_wRRR, fB_wRRR, fFn_wRRR]

theorem lntinv (r : Run) (a : BitVec 7) : Statement (.lntinv r a) := by
  intro _ w h; cases h
  simp [isHint, decodeWord, Instr.run, decodeRay, ifZero, fMaj_wRRR, fStl_wRRR, fD_wRRR, fA_wRRR, fB_wRRR, fFn_wRRR]

theorem ishit (r : Run) (a b : BitVec 7) : Statement (.ishit r a b) := by
  intro _ w h; cases h
  simp [isHint, decodeWord, Instr.run, decodeRay, ifZero, fMaj_wRRR, fStl_wRRR, fD_wRRR, fA_wRRR, fB_wRRR, fFn_wRRR]

theorem rast (r : Run) (d a b : BitVec 7) : Statement (.rast r d a b) := by
  intro _ w h; cases h
  simp [isHint, decodeWord, Instr.run, decodeGfx, ifZero, fMaj_wRRR, fStl_wRRR, fD_wRRR, fA_wRRR, fB_wRRR, fFn_wRRR]

theorem rprj (r : Run) (d a b : BitVec 7) : Statement (.rprj r d a b) := by
  intro _ w h; cases h
  simp [isHint, decodeWord, Instr.run, decodeGfx, ifZero, fMaj_wRRR, fStl_wRRR, fD_wRRR, fA_wRRR, fB_wRRR, fFn_wRRR]

theorem tex (r : Run) (d a b : BitVec 7) : Statement (.tex r d a b) := by
  intro _ w h; cases h
  simp [isHint, decodeWord, Instr.run, decodeGfx, ifZero, fMaj_wRRR, fStl_wRRR, fD_wRRR, fA_wRRR, fB_wRRR, fFn_wRRR]

theorem texl (r : Run) (d a b : BitVec 7) : Statement (.texl r d a b) := by
  intro _ w h; cases h
  simp [isHint, decodeWord, Instr.run, decodeGfx, ifZero, fMaj_wRRR, fStl_wRRR, fD_wRRR, fA_wRRR, fB_wRRR, fFn_wRRR]

theorem lnch (r : Run) (d a b : BitVec 7) : Statement (.lnch r d a b) := by
  intro _ w h; cases h
  simp [isHint, decodeWord, Instr.run, decodeLnch, ifZero, fMaj_wRRR, fStl_wRRR, fD_wRRR, fA_wRRR, fB_wRRR, fFn_wRRR]

theorem evset (r : Run) (a k : BitVec 7) : Statement (.evset r a k) := by
  intro _ w h; cases h
  simp [isHint, decodeWord, Instr.run, decodeLnch, ifZero, fMaj_wRRR, fStl_wRRR, fD_wRRR, fA_wRRR, fB_wRRR, fFn_wRRR]

theorem evclr (r : Run) (a k : BitVec 7) : Statement (.evclr r a k) := by
  intro _ w h; cases h
  simp [isHint, decodeWord, Instr.run, decodeLnch, ifZero, fMaj_wRRR, fStl_wRRR, fD_wRRR, fA_wRRR, fB_wRRR, fFn_wRRR]

theorem ember (r : Run) (a k : BitVec 7) : Statement (.ember r a k) := by
  intro _ w h; cases h
  simp [isHint, decodeWord, Instr.run, decodeLnch, ifZero, fMaj_wRRR, fStl_wRRR, fD_wRRR, fA_wRRR, fB_wRRR, fFn_wRRR]

theorem grist (r : Run) (a b : BitVec 7) : Statement (.grist r a b) := by
  intro _ w h; cases h
  simp [isHint, decodeWord, Instr.run, decodeLnch, ifZero, fMaj_wRRR, fStl_wRRR, fD_wRRR, fA_wRRR, fB_wRRR, fFn_wRRR]

theorem missSplit (p : PartRef) (load : Nat) : Statement (.missSplit p load) := by
  intro _ w h; simp [encodeWord] at h

theorem joinTimeout (p : PartRef) : Statement (.joinTimeout p) := by
  intro _ w h; simp [encodeWord] at h

theorem fuseWatchdogExpiry (p : PartRef) : Statement (.fuseWatchdogExpiry p) := by
  intro _ w h; simp [encodeWord] at h

theorem loadDataReturn (p : PartRef) (load : Nat) : Statement (.loadDataReturn p load) := by
  intro _ w h; simp [encodeWord] at h

theorem storeAccepted (crew id : Nat) : Statement (.storeAccepted crew id) := by
  intro _ w h; simp [encodeWord] at h

theorem storeFaultReport (crew id : Nat) : Statement (.storeFaultReport crew id) := by
  intro _ w h; simp [encodeWord] at h

theorem accessAnswer (id : Nat) : Statement (.accessAnswer id) := by
  intro _ w h; simp [encodeWord] at h

theorem homeAccess (id : Nat) : Statement (.homeAccess id) := by
  intro _ w h; simp [encodeWord] at h

theorem fenceReleaseComplete (p : PartRef) : Statement (.fenceReleaseComplete p) := by
  intro _ w h; simp [encodeWord] at h

theorem waitaTimeout (p : PartRef) : Statement (.waitaTimeout p) := by
  intro _ w h; simp [encodeWord] at h

theorem waitcyEnd (p : PartRef) : Statement (.waitcyEnd p) := by
  intro _ w h; simp [encodeWord] at h

theorem copyComplete (crew ord : Nat) : Statement (.copyComplete crew ord) := by
  intro _ w h; simp [encodeWord] at h

theorem reduceTicketPoll (crew ord : Nat) : Statement (.reduceTicketPoll crew ord) := by
  intro _ w h; simp [encodeWord] at h

theorem reduceTicketRelease (crew ord : Nat) : Statement (.reduceTicketRelease crew ord) := by
  intro _ w h; simp [encodeWord] at h

theorem copySquash (crew : Nat) : Statement (.copySquash crew) := by
  intro _ w h; simp [encodeWord] at h

theorem astrmPush (crew : Nat) : Statement (.astrmPush crew) := by
  intro _ w h; simp [encodeWord] at h

theorem matrixCommandStands (crew : Nat) : Statement (.matrixCommandStands crew) := by
  intro _ w h; simp [encodeWord] at h

theorem mwldLatch (crew : Nat) : Statement (.mwldLatch crew) := by
  intro _ w h; simp [encodeWord] at h

theorem rayEnd (ray : Nat) : Statement (.rayEnd ray) := by
  intro _ w h; simp [encodeWord] at h

theorem rayHandoff (ray : Nat) : Statement (.rayHandoff ray) := by
  intro _ w h; simp [encodeWord] at h

theorem gatherTimeout (wave : Nat) : Statement (.gatherTimeout wave) := by
  intro _ w h; simp [encodeWord] at h

theorem vaultSample (vault : Nat) (readings : List Int) : Statement (.vaultSample vault readings) := by
  intro _ w h; simp [encodeWord] at h

theorem thermalTrip (sensor : Nat) : Statement (.thermalTrip sensor) := by
  intro _ w h; simp [encodeWord] at h

theorem packagePowerOff : Statement .packagePowerOff := by
  intro _ w h; simp [encodeWord] at h

theorem droopTrip (cluster : Nat) : Statement (.droopTrip cluster) := by
  intro _ w h; simp [encodeWord] at h

theorem gutterRestore (cluster : Nat) : Statement (.gutterRestore cluster) := by
  intro _ w h; simp [encodeWord] at h

theorem biasReplan (cluster : Nat) (slack : List (Int × Nat)) : Statement (.biasReplan cluster slack) := by
  intro _ w h; simp [encodeWord] at h

theorem biasCodeStep (cluster : Nat) : Statement (.biasCodeStep cluster) := by
  intro _ w h; simp [encodeWord] at h

theorem bbiasCodeWrite (cluster : Nat) (value : BitVec 64) : Statement (.bbiasCodeWrite cluster value) := by
  intro _ w h; simp [encodeWord] at h

theorem taperEstimate (cluster amps filler : Nat) : Statement (.taperEstimate cluster amps filler) := by
  intro _ w h; simp [encodeWord] at h

theorem taperRampEnd (cluster : Nat) : Statement (.taperRampEnd cluster) := by
  intro _ w h; simp [encodeWord] at h

theorem eccCorrected (array cluster : Nat) : Statement (.eccCorrected array cluster) := by
  intro _ w h; simp [encodeWord] at h

theorem eccUncorrectable (site : EccSite) : Statement (.eccUncorrectable site) := by
  intro _ w h; simp [encodeWord] at h

theorem backgroundScrub : Statement .backgroundScrub := by
  intro _ w h; simp [encodeWord] at h

theorem slotVisit (slot : Nat) : Statement (.slotVisit slot) := by
  intro _ w h; simp [encodeWord] at h

theorem launchStart (slot : Nat) : Statement (.launchStart slot) := by
  intro _ w h; simp [encodeWord] at h

theorem crewRetire (crew : Nat) : Statement (.crewRetire crew) := by
  intro _ w h; simp [encodeWord] at h

theorem swapOut (crew : Nat) : Statement (.swapOut crew) := by
  intro _ w h; simp [encodeWord] at h

theorem preemptDone (ctx : Nat) : Statement (.preemptDone ctx) := by
  intro _ w h; simp [encodeWord] at h

theorem dumpcDone (crew : Nat) : Statement (.dumpcDone crew) := by
  intro _ w h; simp [encodeWord] at h

theorem handleMigrationEnd (ctx hdl : Nat) : Statement (.handleMigrationEnd ctx hdl) := by
  intro _ w h; simp [encodeWord] at h

theorem notify (slot : Nat) : Statement (.notify slot) := by
  intro _ w h; simp [encodeWord] at h

theorem admqWrite (value : BitVec 64) : Statement (.admqWrite value) := by
  intro _ w h; simp [encodeWord] at h

theorem resetWrite (value : BitVec 64) : Statement (.resetWrite value) := by
  intro _ w h; simp [encodeWord] at h

theorem registerWrite (offset : Nat) (value : BitVec 64) : Statement (.registerWrite offset value) := by
  intro _ w h; simp [encodeWord] at h

theorem moduleBoot : Statement .moduleBoot := by
  intro _ w h; simp [encodeWord] at h

theorem hostMemoryWrite (offset : Nat) (bytes : List Byte) : Statement (.hostMemoryWrite offset bytes) := by
  intro _ w h; simp [encodeWord] at h

theorem hostMemoryRead (offset length : Nat) : Statement (.hostMemoryRead offset length) := by
  intro _ w h; simp [encodeWord] at h

theorem launch (c : Cmd) : Statement (.launch c) := by
  intro _ w h; simp [encodeWord] at h

theorem launchCaptured (c : Cmd) : Statement (.launchCaptured c) := by
  intro _ w h; simp [encodeWord] at h

theorem evsignalSet (c : Cmd) : Statement (.evsignalSet c) := by
  intro _ w h; simp [encodeWord] at h

theorem evsignalClear (c : Cmd) : Statement (.evsignalClear c) := by
  intro _ w h; simp [encodeWord] at h

theorem mapq (c : Cmd) : Statement (.mapq c) := by
  intro _ w h; simp [encodeWord] at h

theorem unmapq (c : Cmd) : Statement (.unmapq c) := by
  intro _ w h; simp [encodeWord] at h

theorem ctxnew (c : Cmd) : Statement (.ctxnew c) := by
  intro _ w h; simp [encodeWord] at h

theorem ctxnewAllotment (c : Cmd) : Statement (.ctxnewAllotment c) := by
  intro _ w h; simp [encodeWord] at h

theorem ctxnewLanternWays (c : Cmd) : Statement (.ctxnewLanternWays c) := by
  intro _ w h; simp [encodeWord] at h

theorem ctxfree (c : Cmd) : Statement (.ctxfree c) := by
  intro _ w h; simp [encodeWord] at h

theorem handleCreate (c : Cmd) : Statement (.handleCreate c) := by
  intro _ w h; simp [encodeWord] at h

theorem handlePriority (c : Cmd) : Statement (.handlePriority c) := by
  intro _ w h; simp [encodeWord] at h

theorem handleMigrate (c : Cmd) : Statement (.handleMigrate c) := by
  intro _ w h; simp [encodeWord] at h

theorem handleEvict (c : Cmd) : Statement (.handleEvict c) := by
  intro _ w h; simp [encodeWord] at h

theorem grant (c : Cmd) : Statement (.grant c) := by
  intro _ w h; simp [encodeWord] at h

theorem preempt (c : Cmd) : Statement (.preempt c) := by
  intro _ w h; simp [encodeWord] at h

theorem preemptResume (c : Cmd) : Statement (.preemptResume c) := by
  intro _ w h; simp [encodeWord] at h

theorem debugAttach (c : Cmd) : Statement (.debugAttach c) := by
  intro _ w h; simp [encodeWord] at h

theorem debugDetach (c : Cmd) : Statement (.debugDetach c) := by
  intro _ w h; simp [encodeWord] at h

theorem debugPcBreakpoint (c : Cmd) : Statement (.debugPcBreakpoint c) := by
  intro _ w h; simp [encodeWord] at h

theorem debugWatchpoint (c : Cmd) : Statement (.debugWatchpoint c) := by
  intro _ w h; simp [encodeWord] at h

theorem debugStopCrew (c : Cmd) : Statement (.debugStopCrew c) := by
  intro _ w h; simp [encodeWord] at h

theorem debugResumeCrew (c : Cmd) : Statement (.debugResumeCrew c) := by
  intro _ w h; simp [encodeWord] at h

theorem debugEmber (c : Cmd) : Statement (.debugEmber c) := by
  intro _ w h; simp [encodeWord] at h

theorem debugGrist (c : Cmd) : Statement (.debugGrist c) := by
  intro _ w h; simp [encodeWord] at h

theorem debugIcinv (c : Cmd) : Statement (.debugIcinv c) := by
  intro _ w h; simp [encodeWord] at h

theorem quote (c : Cmd) : Statement (.quote c) := by
  intro _ w h; simp [encodeWord] at h

theorem quoteExtend (c : Cmd) : Statement (.quoteExtend c) := by
  intro _ w h; simp [encodeWord] at h

theorem powercap (c : Cmd) : Statement (.powercap c) := by
  intro _ w h; simp [encodeWord] at h

theorem countersAccount (c : Cmd) : Statement (.countersAccount c) := by
  intro _ w h; simp [encodeWord] at h

theorem countersReadRegister (c : Cmd) : Statement (.countersReadRegister c) := by
  intro _ w h; simp [encodeWord] at h

theorem countersWriteRegister (c : Cmd) : Statement (.countersWriteRegister c) := by
  intro _ w h; simp [encodeWord] at h

theorem countersLifetime (c : Cmd) : Statement (.countersLifetime c) := by
  intro _ w h; simp [encodeWord] at h

theorem keyset (c : Cmd) : Statement (.keyset c) := by
  intro _ w h; simp [encodeWord] at h

theorem powerEstimate (watts : Nat) : Statement (.powerEstimate watts) := by
  intro _ w h; simp [encodeWord] at h

theorem capExpiry : Statement .capExpiry := by
  intro _ w h; simp [encodeWord] at h

theorem lifetimeRecordWrite : Statement .lifetimeRecordWrite := by
  intro _ w h; simp [encodeWord] at h

theorem emberTag (core seq : Nat) : Statement (.emberTag core seq) := by
  intro _ w h; simp [encodeWord] at h

theorem emberRecord (core seq : Nat) (stages : EmberStages) : Statement (.emberRecord core seq stages) := by
  intro _ w h; simp [encodeWord] at h

theorem flitCrcReplay (port : Nat) : Statement (.flitCrcReplay port) := by
  intro _ w h; simp [encodeWord] at h

theorem inboundAccess (port : Nat) (access : PeerAccess) : Statement (.inboundAccess port access) := by
  intro _ w h; simp [encodeWord] at h

theorem remoteAnswer (id : Nat) (answer : PeerAnswer) : Statement (.remoteAnswer id answer) := by
  intro _ w h; simp [encodeWord] at h

theorem remoteAccessTimeout (id : Nat) : Statement (.remoteAccessTimeout id) := by
  intro _ w h; simp [encodeWord] at h

theorem syncFlitSend : Statement .syncFlitSend := by
  intro _ w h; simp [encodeWord] at h

theorem syncFlitReceive (port : Nat) (stime : BitVec 64) : Statement (.syncFlitReceive port stime) := by
  intro _ w h; simp [encodeWord] at h

theorem portSyncTimeout (port : Nat) : Statement (.portSyncTimeout port) := by
  intro _ w h; simp [encodeWord] at h

theorem quoteRequestFlit (port : Nat) (nonce : List Byte) : Statement (.quoteRequestFlit port nonce) := by
  intro _ w h; simp [encodeWord] at h

theorem powerCapFlit (port : Nat) (cap : CapMessage) : Statement (.powerCapFlit port cap) := by
  intro _ w h; simp [encodeWord] at h

theorem illegalInstruction (r : Run) (reject : Reject) : Statement (.illegalInstruction r reject) := by
  intro _ w h; simp [encodeWord] at h

theorem fetchFailure (outside : Bool) : Statement (.fetchFailure outside) := by
  intro _ w h; simp [encodeWord] at h

theorem icinvComplete (p : PartRef) : Statement (.icinvComplete p) := by
  intro _ w h; simp [encodeWord] at h

theorem copyError (crew ord : Nat) (why : CopyFault) : Statement (.copyError crew ord why) := by
  intro _ w h; simp [encodeWord] at h

theorem intersectionShaderInvoke (ray : Nat) : Statement (.intersectionShaderInvoke ray) := by
  intro _ w h; simp [encodeWord] at h

end Sys2Proof.Laws.RoundTrip
end

