-- ==== Sys2Proof/Tests/Slice0.lean ====
section
/-! SUPPORT. Tests: ill-formed terms that `Instr.wf` refuses, words of the manual and what they decode to, single steps on a
small state with results worked out from the manual, and for each statement a state and operands that meet its hypotheses. -/

open Sys2Proof Sys2Proof.Machine

set_option Elab.async false
set_option maxRecDepth 100000

namespace Sys2Proof.Tests

/-! ### States -/

/-- No hints, no stall. -/
def r0 : Run := { hints := [], stl := 0#2 }

/-- One IMM24 hint. -/
def rImm (n : Nat) : Run := { hints := [{ kind := 0#3, payload := BitVec.ofNat 24 n }], stl := 0#2 }

/-- One hint of a kind. -/
def rHint (k n : Nat) : Run := { hints := [{ kind := BitVec.ofNat 3 k, payload := BitVec.ofNat 24 n }], stl := 0#2 }

/-- A booted device with a crew of one wave whose part stands at a unit. -/
def w0 : State := State.reset.withFetchWord 32 0

/-- The same with a handler at 0x50000. -/
def wT : State := { w0 with wave := { w0.wave with tvec := 0x50000#64 } }

/-- The same inside the handler. -/
def wH : State := { wT with part := { wT.part with state := .trapped, xpc := 0x40010#64, sexm := 0xFF#64 } }

/-- Scalar registers set. -/
def sset (l : List (Nat × W64)) (s : State) : State :=
  { s with part := { s.part with s := l.foldl (fun m x => cset 0#64 m x.1 x.2) s.part.s } }

/-- The first 8 lanes of a vector register set. -/
def vset (n : Nat) (f : Nat → W32) (s : State) : State :=
  { s with wave := { s.wave with v := vput n f (List.range 8) s.wave.v } }

/-- The lanes of `m` active. -/
def act (m : Nat) (s : State) : State := { s with part := { s.part with exm := BitVec.ofNat 64 m } }

/-- Only the first lane active. -/
def one (s : State) : State := { s with part := { s.part with exm := 1#64 } }

/-- The first page, with every right. -/
def page0 : Page := { va := 0, size := 0x200000, pa := 0, x := true, w := true, rd := true, tso := false, key := 0 }

/-- A grant of the first mebibyte, for reads and writes, and the page it lies in. -/
def grant1 (s : State) : State :=
  { s with launches := s.launches.map (fun l => { l with
      grants := [{ base := 0, size := 0x100000, hdl := none, gw := true, gr := true }], pages := [page0] }) }

/-- A barrier word at 0x40 that holds `b`. -/
def bar (b : List Byte) (s : State) : State :=
  { s with crew := scrWrite 0x40 b { s.crew with bars := [{ off := 0x40, bitmap := 0 }] } }

/-- Scalar register `n` of the part in focus after an outcome. -/
def sOf (n : Nat) (o : Host.Outcome State Fault Refusal) : Option W64 :=
  match o with
  | .next t => some (cget 0#64 t.part.s n)
  | _ => none

/-- Lane `l` of vector register `n` after an outcome. -/
def vOf (n l : Nat) (o : Host.Outcome State Fault Refusal) : Option W32 :=
  match o with
  | .next t => some (vraw t.wave n l)
  | _ => none

/-- What a function gives on the next state. -/
def after {α : Type} (f : State → α) (o : Host.Outcome State Fault Refusal) : Option α :=
  match o with
  | .next t => some (f t)
  | _ => none

end Sys2Proof.Tests

namespace Sys2Proof.Tests

/-! ### Ill-formed terms -/

theorem test_wf_hintKind : Instr.wf (.nop (rHint 6 0)) = false := by decide +kernel
theorem test_wf_hintCount :
    Instr.wf (.nop { hints := [⟨0#3, 1#24⟩, ⟨1#3, 1#24⟩, ⟨2#3, 1#24⟩, ⟨3#3, 1#24⟩], stl := 0#2 }) = false := by decide +kernel
theorem test_wf_hintTwice : Instr.wf (.nop { hints := [⟨1#3, 5#24⟩, ⟨1#3, 1#24⟩], stl := 0#2 }) = false := by decide +kernel
theorem test_wf_hintMisuse : Instr.wf (.nop (rHint 1 64)) = false := by decide +kernel
theorem test_wf_plain : Instr.wf (.sadd (rHint 2 0x2000) 1#7 2#7 3#7) = true := by decide +kernel
theorem test_wf_wave : Instr.wf (.waitcyEnd { crew := 1, wave := 32, part := 0 }) = false := by decide +kernel
theorem test_wf_part : Instr.wf (.waitcyEnd { crew := 1, wave := 0, part := 16 }) = false := by decide +kernel
theorem test_wf_vault : Instr.wf (.vaultSample 32 (List.replicate 16 100)) = false := by decide +kernel
theorem test_wf_readings : Instr.wf (.vaultSample 0 [100]) = false := by decide +kernel
theorem test_wf_cluster : Instr.wf (.droopTrip 32) = false := by decide +kernel
theorem test_wf_array : Instr.wf (.eccCorrected 9 0) = false := by decide +kernel
theorem test_wf_arrayCluster : Instr.wf (.eccCorrected 0 32) = false := by decide +kernel
theorem test_wf_siteCore : Instr.wf (.eccUncorrectable (.icache 384 0)) = false := by decide +kernel
theorem test_wf_siteCluster : Instr.wf (.eccUncorrectable (.lantern 32 0)) = false := by decide +kernel
theorem test_wf_slot : Instr.wf (.notify 64) = false := by decide +kernel
theorem test_wf_context : Instr.wf (.preemptDone 64) = false := by decide +kernel
theorem test_wf_handle : Instr.wf (.handleMigrationEnd 0 4096) = false := by decide +kernel
theorem test_wf_cmdSlot : Instr.wf (.unmapq { slot := 64, words := List.replicate 8 4#64 }) = false := by decide +kernel
theorem test_wf_cmdWords : Instr.wf (.unmapq { slot := 0, words := [4#64] }) = false := by decide +kernel
theorem test_wf_cmdCode : Instr.wf (.unmapq { slot := 0, words := List.replicate 8 3#64 }) = false := by decide +kernel
theorem test_wf_cmdForm : Instr.wf (.unmapq { slot := 0, words := 0x100000004#64 :: List.replicate 7 0#64 }) = false := by
  decide +kernel
theorem test_wf_core : Instr.wf (.emberTag 384 0) = false := by decide +kernel
theorem test_wf_sequencer : Instr.wf (.emberTag 0 2) = false := by decide +kernel
theorem test_wf_port : Instr.wf (.flitCrcReplay 16) = false := by decide +kernel
theorem test_wf_peer : Instr.wf (.inboundAccess 0 { peer := 65535, pa := 0, op := .read 4 0 }) = false := by decide +kernel
theorem test_wf_peerSize : Instr.wf (.inboundAccess 0 { peer := 1, pa := 0, op := .write [] }) = false := by decide +kernel
theorem test_wf_peerLine : Instr.wf (.inboundAccess 0 { peer := 1, pa := 126, op := .read 4 0 }) = false := by decide +kernel
theorem test_wf_answer : Instr.wf (.remoteAnswer 1
    { refused := false, bytes := List.replicate 129 0#8, lease := none, time := none, sofs := 0 }) = false := by decide +kernel
theorem test_wf_nonce : Instr.wf (.quoteRequestFlit 0 [0#8]) = false := by decide +kernel
theorem test_wf_reject : Instr.wf (.illegalInstruction r0 { cause := 0x0E, step := 2, word := 0#32 }) = false := by decide +kernel

/-! ### Words of the manual -/

/-- Whether the words of a unit decode to an instruction, with nothing left. -/
abbrev reads (ws : List W32) (i : Instr) : Prop := decodeBytes [] (ws.flatMap bytesOfWord) = some (i, [])

/-- Whether an instruction's encoding is these words. -/
abbrev writes (i : Instr) (ws : List W32) : Prop := encode i = some ws

theorem test_word_sys : reads [0x000DF8DC#32] (.vrset r0 3#7 63#7 13#7) := by decide +kernel
theorem test_word_bra : reads [0x08CBFFF0#32] (.bnz r0 2#4 0x3FFF0#18) := by decide +kernel
theorem test_word_ctl : reads [0x10000003#32] (.exit r0) := by decide +kernel
theorem test_word_salu : reads [0x180C1810#32] (.sadd r0 3#7 3#7 1#7) := by decide +kernel
theorem test_word_sali : reads [0x220817F0#32] (.saddi { hints := [], stl := 1#2 } 2#7 2#7 0x7F#7) := by decide +kernel
theorem test_word_smem : reads [0x283863F2#32] (.sst64 r0 14#7 12#7 63#7) := by decide +kernel
theorem test_word_sli : reads [0x32040005#32] (.sli { hints := [], stl := 1#2 } 1#7 0#2 5#16) := by decide +kernel
theorem test_word_sliSlot : reads [0x30060001#32] (.sli r0 1#7 2#2 1#16) := by decide +kernel
theorem test_word_vini : reads [0x481427D0#32] (.vaddi r0 5#7 4#7 0x7D#7) := by decide +kernel
theorem test_word_viniHint : reads [0xF8000064#32, 0x48142000#32] (.vaddi (rImm 100) 5#7 4#7 0#7) := by decide +kernel
theorem test_word_vf32 : reads [0xFB000003#32, 0x50100823#32] (.ffma (rHint 3 3) 4#7 1#7 2#7) := by decide +kernel
theorem test_word_vcvt : reads [0x681C0828#32] (.cvtF8e4 r0 7#7 1#7 2#7) := by decide +kernel
theorem test_word_plane : reads [0xFC000004#32, 0x6820180B#32] (.plane (rHint 4 4) 8#7 3#7) := by decide +kernel
theorem test_word_vxl : reads [0x70180905#32] (.vredAddF32 r0 6#7 1#7 1#3) := by decide +kernel
theorem test_word_vshfl : reads [0xFB000002#32, 0x70140B00#32] (.vshfl (rHint 3 2) 5#7 1#7 3#3) := by decide +kernel
theorem test_word_mask : reads [0x78041032#32] (.cmplt r0 1#7 2#7 3#7) := by decide +kernel
theorem test_word_vmem : reads [0x800C2024#32] (.ldW r0 3#7 4#7 2#7) := by decide +kernel
theorem test_word_store : reads [0xF8000040#32, 0x8018481B#32] (.stD (rImm 0x40) 6#7 9#7 1#7) := by decide +kernel
theorem test_word_spad : reads [0x882023F9#32] (.stsp r0 8#7 4#7 63#7) := by decide +kernel
theorem test_word_atom : reads [0xFA100090#32, 0x90141840#32] (.aadd (rHint 2 0x100090) 5#7 3#7 4#7) := by decide +kernel
theorem test_word_fence : reads [0xF8000002#32, 0xFA080020#32, 0x98000000#32]
    (.fence { hints := [⟨0#3, 2#24⟩, ⟨2#3, 0x080020#24⟩], stl := 0#2 } 0#7) := by decide +kernel
theorem test_word_waita : reads [0xFB000004#32, 0xFC000002#32, 0x981C1034#32]
    (.waita { hints := [⟨3#3, 4#24⟩, ⟨4#3, 2#24⟩], stl := 0#2 } 7#7 2#7 3#7) := by decide +kernel
theorem test_word_bararr : reads [0x98143006#32] (.bararr r0 5#7 6#7) := by decide +kernel
theorem test_word_copy : reads [0xF82D0001#32, 0xFB00003F#32, 0xA0082010#32]
    (.cpyl { hints := [⟨0#3, 0x2D0001#24⟩, ⟨3#3, 0x3F#24⟩], stl := 0#2 } 2#7 4#7 1#7) := by decide +kernel
theorem test_word_accs : reads [0xA8001042#32] (.astrm r0 0#7 2#7 4#7) := by decide +kernel
theorem test_word_asig : reads [0xA8001854#32] (.asig r0 3#7 5#7) := by decide +kernel
theorem test_word_matx : reads [0xF8000440#32, 0xB0002051#32] (.mstr (rImm 0x440) 0#7 4#7 5#7) := by decide +kernel
theorem test_word_mstat : reads [0xB0240016#32] (.mstat r0 9#7 1#7) := by decide +kernel
theorem test_word_ray : reads [0xFC000003#32, 0xB8082010#32] (.trace (rHint 4 3) 2#7 4#7 1#7) := by decide +kernel
theorem test_word_contget : reads [0xB81C0015#32] (.contget r0 7#7 1#7) := by decide +kernel
theorem test_word_gfx : reads [0xC02050C0#32] (.rast r0 8#7 10#7 12#7) := by decide +kernel
theorem test_word_rprj : reads [0xFA008000#32, 0xC0301841#32] (.rprj (rHint 2 0x8000) 12#7 3#7 4#7) := by decide +kernel
theorem test_word_lnch : reads [0xC80C2050#32] (.lnch r0 3#7 4#7 5#7) := by decide +kernel
theorem test_word_nop : reads [0x00040000#32] (.nop r0) := by decide +kernel
theorem test_word_zero : reads [0#32] (.illegalInstruction r0 { cause := 0x01, step := 3, word := 0#32 }) := by decide +kernel
theorem test_encode_copy : writes (.cpyl { hints := [⟨0#3, 0x2D0001#24⟩, ⟨3#3, 0x3F#24⟩], stl := 0#2 } 2#7 4#7 1#7)
    [0xF82D0001#32, 0xFB00003F#32, 0xA0082010#32] := by decide +kernel
theorem test_encode_branch : writes (.bnz r0 2#4 0x3FFE9#18) [0x08CBFFE9#32] := by decide +kernel

end Sys2Proof.Tests

namespace Sys2Proof.Tests

/-! ### Single steps; the expected values are worked from the rules or stand in the manual's examples -/

-- R107: wraps, and saturates with SAT.
theorem test_sadd_wraps : sOf 3 (exec (.sadd r0 3#7 1#7 2#7) (sset [(1, 0x7FFFFFFFFFFFFFFF#64), (2, 1#64)] w0)) =
    some 0x8000000000000000#64 := by decide +kernel
theorem test_sadd_sat : sOf 3 (exec (.sadd (rHint 2 0x1000) 3#7 1#7 2#7) (sset [(1, 0x7FFFFFFFFFFFFFFF#64), (2, 1#64)] w0)) =
    some 0x7FFFFFFFFFFFFFFF#64 := by decide +kernel
-- R107: the high half of a signed product: -1 * 2 = -2.
theorem test_smulh_negative : sOf 3 (exec (.smulh r0 3#7 1#7 2#7) (sset [(1, -1#64), (2, 2#64)] w0)) = some (-1#64) := by
  decide +kernel
-- R107: only b[5:0] counts.
theorem test_sshl_count : sOf 3 (exec (.sshl r0 3#7 1#7 2#7) (sset [(1, 3#64), (2, 65#64)] w0)) = some 6#64 := by decide +kernel
theorem test_ssar_sign : sOf 3 (exec (.ssar r0 3#7 1#7 2#7) (sset [(1, -8#64), (2, 1#64)] w0)) = some (-4#64) := by decide +kernel
-- R18: a write of sz has no effect.
theorem test_sz_reads_zero : sOf 63 (exec (.sadd r0 63#7 1#7 1#7) (sset [(1, 5#64)] w0)) = some 0#64 := by decide +kernel
-- R64: IMM7 is signed.
theorem test_saddi_negative : sOf 2 (exec (.saddi r0 2#7 2#7 0x7F#7) (sset [(2, 3#64)] w0)) = some 2#64 := by decide +kernel
-- R109: POS 4, LEN 4, SX 1 of 0x80 gives -8.
theorem test_sbfx_sign : sOf 3 (exec (.sbfx (rImm 0x10C4) 3#7 1#7) (sset [(1, 0x80#64)] w0)) = some (-8#64) := by decide +kernel
-- R110, the example of chapter 5: s1 = 0x0000_0001_0000_0005.
theorem test_sli_slot : sOf 1 (exec (.sli r0 1#7 2#2 1#16) (sset [(1, 5#64)] w0)) = some 0x0000000100000005#64 := by decide +kernel
theorem test_sli_sign : sOf 1 (exec (.sli r0 1#7 0#2 0x8000#16) w0) = some 0xFFFFFFFFFFFF8000#64 := by decide +kernel
-- R113: BNZ of the example goes back 23 words, from 0x0040_021C to 0x0040_01C0.
theorem test_bnz_back : after (·.part.pc) (exec (.bnz r0 2#4 0x3FFE9#18)
    (sset [(2, 1#64)] { w0 with part := { w0.part with pc := 0x40021C#64 } })) = some 0x4001C0#64 := by decide +kernel
theorem test_bnz_falls : after (·.part.pc) (exec (.bnz r0 2#4 0x3FFE9#18) w0) = some 0x40004#64 := by decide +kernel
theorem test_call_link : sOf 62 (exec (.call r0 4#18) w0) = some 0x40004#64 := by decide +kernel
-- R39, the example of chapter 2: the taken quads and the others part, each with one entry.
theorem test_bdiv_splits : after (fun t => (t.part.quads, t.sibs.map (·.quads), t.part.stack.length)) (exec (.bdiv r0 1#4 16#18)
    { w0 with wave := { w0.wave with m := [(1, 0x00000000000000FF#64)] } }) = some (3, [0xFFFC], 1) := by decide +kernel
-- R116: outside the part's lanes nothing is set.
theorem test_exmset_outside : after (·.part.exm) (exec (.exmset r0 1#7)
    (sset [(1, -1#64)] { w0 with part := { w0.part with quads := 1, exm := 15#64 } })) = some 15#64 := by decide +kernel
-- R117: the lowest active lane alone.
theorem test_mkff : after (fun t => cget 0#64 t.wave.m 2) (exec (.mkff r0 2#7)
    (act 0xF0 { w0 with wave := { w0.wave with m := [(2, -1#64)] } })) = some 0x10#64 := by decide +kernel
-- R124: bits 63:32 of the count are ignored.
theorem test_waitcy_none : after (·.part.wait) (exec (.waitcy r0 1#7) (sset [(1, 0x100000000#64)] w0)) = some .none := by decide +kernel
-- R126: one lane, whatever exm holds.
theorem test_vrget : sOf 3 (exec (.vrget r0 3#7 4#7 5#7) (sset [(5, 7#64)] (vset 4 (fun l => BitVec.ofNat 32 (10 * l)) w0))) =
    some 70#64 := by decide +kernel
-- R155 to R161: a trap saves the PC and the cause, and stays in the handler.
theorem test_trap_enters : after (fun t => (t.part.xpc, t.part.pc, t.part.state == .trapped)) (exec (.trap r0 5#7) wT) =
    some (0x40000#64, 0x50000#64, true) := by decide +kernel
theorem test_xret : after (fun t => (t.part.pc, t.part.exm, t.part.state == .run)) (exec (.xret r0) wH) =
    some (0x40010#64, 0xFF#64, true) := by decide +kernel
-- R135, R138: lanes wrap; immediates are signed.
theorem test_vadd_wraps : vOf 3 5 (exec (.vadd r0 3#7 1#7 1#7) (act 0x20 (vset 1 (fun _ => 0x80000001#32) w0))) = some 2#32 := by decide +kernel
theorem test_vaddi_signed : vOf 3 5 (exec (.vaddi r0 3#7 1#7 0x7D#7) (act 0x20 (vset 1 (fun _ => 1#32) w0))) = some 0xFFFFFFFE#32 := by
  decide +kernel
-- R22: an inactive lane keeps its value.
theorem test_vadd_inactive : vOf 1 1 (exec (.vadd r0 1#7 1#7 1#7) (one (vset 1 (fun _ => 7#32) w0))) = some 7#32 := by decide +kernel
-- R153, the example of chapter 6: 3 < 5 and 3 < 7.
theorem test_cmplt : after (fun t => (cget 0#64 t.wave.m 1).toNat % 16) (exec (.cmplt r0 1#7 3#7 2#7)
    (act 15 (vset 3 (fun _ => 3#32) (vset 2 (fun l => ([5#32, 0xFFFFFFFF#32, 7#32, 0#32][l % 4]?).getD 0#32) w0)))) = some 5 := by decide +kernel
theorem test_mkpop : sOf 4 (exec (.mkpop r0 4#7 1#7) { w0 with wave := { w0.wave with m := [(1, 5#64)] } }) = some 2#64 := by
  decide +kernel
-- R90, the example of chapter 4: infinity minus infinity at 0x0040_0208.
theorem test_fadd_origin : vOf 3 5 (exec (.fadd r0 3#7 1#7 2#7)
    (vset 1 (fun _ => 0x7F800000#32) (vset 2 (fun _ => 0xFF800000#32) (act 0x20 { w0 with part := { w0.part with pc := 0x400208#64 } }))))
    = some 0x7FC10082#32 := by decide +kernel
-- R87: 2^24 + 1 is a tie, and RNE gives 2^24.
theorem test_fadd_tie : vOf 3 0 (exec (.fadd r0 3#7 1#7 2#7) (vset 1 (fun _ => 0x4B800000#32) (vset 2 (fun _ => 0x3F800000#32) (act 1 w0))))
    = some 0x4B800000#32 := by decide +kernel
theorem test_fmul : vOf 3 0 (exec (.fmul r0 3#7 1#7 2#7) (vset 1 (fun _ => 0x40400000#32) (vset 2 (fun _ => 0xC0000000#32) (act 1 w0))))
    = some 0xC0C00000#32 := by decide +kernel
theorem test_fdiv : vOf 3 0 (exec (.fdiv r0 3#7 1#7 2#7) (vset 1 (fun _ => 0x3F800000#32) (vset 2 (fun _ => 0x40400000#32) (act 1 w0))))
    = some 0x3EAAAAAB#32 := by decide +kernel
-- R82, the example of chapter 4: 300.0 is 288 in F8E4, 0x79, here in byte 2.
theorem test_cvt_f8e4 : vOf 7 0 (exec (.cvtF8e4 r0 7#7 1#7 2#7) (vset 1 (fun _ => 0x43960000#32) (act 1 w0))) = some 0x00790000#32 := by
  decide +kernel
theorem test_cvt_f16x2 : vOf 7 0 (exec (.cvtF16x2 r0 7#7 1#7 2#7) (vset 1 (fun _ => 0x3F800000#32) (vset 2 (fun _ => 0x40000000#32) (act 1 w0))))
    = some 0x40003C00#32 := by decide +kernel
-- R149, the example of chapter 6: the tree gives 2 where lane 5 is inactive.
theorem test_vred_tree : vOf 6 0 (exec (.vredAddF32 r0 6#7 1#7 1#3) (act 0xDF (vset 1 (fun l => ([0x4B800000#32, 0x3F800000#32,
    0x3F800000#32, 0x3F800000#32, 0xCB800000#32, 0x41200000#32, 0#32, 0#32][l]?).getD 0#32) w0))) = some 0x40000000#32 := by decide +kernel
theorem test_vshfx : vOf 3 1 (exec (.vshfx r0 3#7 1#7 0#3 1#4) (act 3 (vset 1 (fun l => BitVec.ofNat 32 l) w0))) = some 0#32 := by decide +kernel
-- R204: lanes of one word see each other in ascending order; here on the scratchpad.
theorem test_aadd_scratch : after (fun t => scrNat t.crew 0x100 4) (exec (.aadd (rHint 2 0x8) 5#7 3#7 4#7)
    (vset 5 (fun _ => 2#32) (sset [(3, 0xFE00000000000100#64)] (act 3 w0)))) = some 4 := by decide +kernel
-- R200, R201: scratchpad stores are performed at once.
theorem test_sts : after (fun t => scrNat t.crew 0x20 4) (exec (.stsW r0 5#7 3#7 4#7)
    (one (vset 5 (fun _ => 0x1234#32) (sset [(3, 0x20#64)] w0)))) = some 0x1234 := by decide +kernel
-- R217, the example of chapter 10: ARRIVED 2 of 4, and the phase in which the part arrived.
theorem test_bararr : after (fun t => (scrNat t.crew 0x40 8, cget 0#64 t.part.s 5)) (exec (.bararr r0 5#7 6#7) 
    (sset [(6, 0x40#64)] (bar (bytes64 0x0000000400000000#64) { w0 with part := { w0.part with quads := 3 } }))) =
    some (0x0000000400020000, 0#64) := by decide +kernel
-- R208: a range is bound as KIND 1, with the default scope and lease.
theorem test_trkset : after (fun t => (getTrk t.crew 1).limit) (exec (.trkset r0 1#7 2#7 3#7) (sset [(2, 0x1000#64), (3, 0x80#64)] w0))
    = some 0x1080#64 := by decide +kernel
-- R239: STATE FREE, with the region of the example.
theorem test_bufstat : sOf 3 (exec (.bufstat r0 3#7 0#7) { w0 with crew := setBuf w0.crew 0 ⟨0x100, 0x80, 1, 1⟩ }) = some 0x0000000100020101#64 := by decide +kernel
-- R241: ALOOP opens the loop of its depth.
theorem test_aloop : after (fun t => (t.crew.slice.depth, t.crew.slice.pc)) (exec (.aloop r0 0#7 1#7) { w0 with
    agent := .sparge, crew := { w0.crew with slice := { w0.crew.slice with a := [(1, 4#64)], pc := 0x100#64, state := 1 } } }) =
    some (1, 0x104#64) := by decide +kernel
-- R258: a command is accepted.
theorem test_mzero : after (fun t => t.crew.matrix.cmds.length) (exec (.mzero r0 0#7) w0) = some 1 := by decide +kernel
-- R342 to R344: 106 degrees close a vault.
theorem test_vault_closes : after (fun t => (getCluster t 3).gctl.getLsbD 1) (exec (.vaultSample 3 (List.replicate 16 424)) w0) =
    some true := by decide +kernel
theorem test_vault_mult : nextMult 2 false true 372 = (1, false) := by decide +kernel
-- R408, the example of chapter 23: a cap of 400 W is clamped to 600 W.
theorem test_cap_clamped : budget (acceptCap { seq := 11#64, watts := 400#64, expiry := 30#64 } w0) = 600 := by decide +kernel
-- R396: only 0x5253 resets.
theorem test_reset_other : after (·.pkg.booted) (exec (.resetWrite 0x5252#64) w0) = some true := by decide +kernel
theorem test_reset : after (·.pkg.booted) (exec (.resetWrite 0x5253#64) w0) = some false := by decide +kernel
-- R346: without power nothing steps.
theorem test_unpowered : isNext (step { w0 with pkg := { w0.pkg with powered := false } }) = false := by decide +kernel

end Sys2Proof.Tests

namespace Sys2Proof.Tests

/-! ### Hypotheses met: units -/

theorem handles_wT : handles wT := ⟨by decide +kernel, by decide +kernel⟩

theorem test_meets_DecodeInvertsEncode :
    (Instr.wf (.sadd (rHint 2 0x1000) 3#7 1#7 2#7) && (encode (.sadd (rHint 2 0x1000) 3#7 1#7 2#7)).isSome) = true := by decide +kernel

theorem test_meets_StepsKeepMemoryCanonical : (Memory.wf w0.memsys.bytes && isNext (step w0)) = true := by decide +kernel

theorem test_meets_PoweredModulesStep :
    State.reset.pkg.powered = true ∧ ({ w0.pkg with powered := false }).powered = false ∧ w0.agenda = [] ∧
      ({ w0 with agenda := [Instr.resetWrite 0x5253#64] }).agenda = [Instr.resetWrite 0x5253#64] := by decide +kernel

/-- A part at a NOP. -/
def wNop : State := State.reset.withFetchWord 32 0x00040000

theorem test_meets_StepRunsTheUnit :
    (mayPick { wNop with sched := [] } && !tagDue wNop && wNop.pkg.powered && wNop.pkg.booted && decide (wNop.agenda = []) &&
      wNop.sched.isEmpty && (firstOf wNop (lateEvents wNop)).isNone && (firstOf wNop (retireEvents wNop)).isNone && (partRefs wNop).find? (fun p => mayPick (focusUnit wNop p)) == some (hereRef wNop) &&
      (nextUnit (beginUnit wNop)).isOk && (fetchPage wNop.part.pc.toNat (beginUnit wNop)).any (fun p => p.x && !poisoned wNop (p.phys 0x40000) 4 &&
        (decodeBytes [] (memRead wNop p.key (p.phys 0x40000) 4)).isSome)) = true ∧
    cget none (getCore wNop wNop.crew.core).icache 0x40000 = none ∧ unowned wNop (fetchTables 0x40000 (beginUnit wNop) ++ [0x40000 / 128]) = true := by
  decide +kernel

/-- A fetch that fails: outside every page. -/
def wLost : State := { wNop with part := { wNop.part with pc := 0xC0000000000000#64 } }

theorem test_meets_StepRunsTheUnit_fails :
    (mayPick { wLost with sched := [] } && (firstOf wLost (lateEvents wLost)).isNone &&
      (match nextUnit (beginUnit wLost) with
        | .ok _ => false
        | .error _ => true)) = true := by decide +kernel

theorem test_meets_ReservedWordsAreIllegal :
    (clear r0 wT && (rejectRun []).isNone && (decodeWord [] 0x00000003#32).isSome && (decodeWord [] 0xD0000000#32).isNone) = true ∧
    (fMaj 0xD0000000#32).toNat = 26 ∧ (fMaj 0xF0000000#32).toNat = 30 ∧ (fMaj 0x1000000C#32, fFn 0x1000000C#32) = (2#5, 12#4) ∧
    (fMaj 0x00080000#32, fFn 0x00080000#32, fD 0x00080000#32) = (0#5, 0#4, 2#7) ∧
    [({ kind := 6#3, payload := 0#24 } : Hint)].find? (fun x => 6 ≤ x.kind.toNat) = some { kind := 6#3, payload := 0#24 } ∧
    clear (rHint 6 0) wT = true := by decide +kernel

theorem test_meets_ScalarResults :
    ([opSalu 0 true r0 3#7 1#7 2#7, opSalu 1 true r0 3#7 1#7 2#7, opSalu 2 true r0 3#7 1#7 2#7, opSalu 3 false r0 63#7 1#7 2#7,
      opSalu 4 false r0 3#7 1#7 2#7, opSalu 5 false r0 3#7 1#7 2#7, opSalu 6 false r0 3#7 1#7 2#7, opSalu 7 false r0 3#7 1#7 2#7,
      opSalu 8 false r0 3#7 1#7 2#7, opSalu 9 false r0 3#7 1#7 2#7, opSalu 10 false r0 3#7 1#7 2#7, opSalu 11 false r0 3#7 1#7 2#7,
      opSalu 12 false r0 3#7 1#7 2#7, opSalu 13 false r0 3#7 1#7 2#7, opSalu 14 false r0 3#7 1#7 2#7, opSalu 15 false r0 3#7 1#7 2#7,
      opSali 0 r0 3#7 1#7 0x40#7, opSali 1 r0 3#7 1#7 5#7, opSali 2 r0 3#7 1#7 5#7, opSali 3 r0 3#7 1#7 5#7, opSali 7 r0 3#7 1#7 5#7,
      opShiftI 4 4 2 63 [srcS 1#7, dstS 3#7] r0 3#7 1#7 63#7, opShiftI 4 5 2 63 [srcS 1#7, dstS 3#7] r0 3#7 1#7 0#7,
      opShiftI 4 6 2 63 [srcS 1#7, dstS 3#7] r0 3#7 1#7 1#7, Op.plain (wRRR 4 r0 3#7 1#7 0#7 8) r0 2 [srcS 1#7, dstS 3#7],
      Op.plain (wRRR 4 r0 3#7 1#7 0#7 9) r0 2 [srcS 1#7, dstS 3#7], Op.plain (wRRR 4 r0 3#7 1#7 0#7 11) r0 2 [srcS 1#7, dstS 3#7],
      opSbfx (rImm 0x10C4) 3#7 1#7].all (fun o => ready o w0)) = true := by decide +kernel

theorem test_meets_SliWritesItsSlot :
    (ready (Op.plain (wLI r0 3#7 0#2 5#16) r0 2 [dstS 3#7]) w0 && ready (Op.plain (wLI r0 3#7 3#2 5#16) r0 2 [modS 3#7]) w0 &&
      clear r0 wT && decide (64 ≤ (64#7).toNat)) = true := by decide +kernel

theorem test_meets_VectorIntegerResults :
    ([opVint 0 modSAT r0 3#7 1#7 2#7, opVint 1 modSAT r0 3#7 1#7 2#7, opVint 2 modSAT r0 3#7 1#7 2#7, opVint 3 0 r0 3#7 1#7 2#7,
      opVint 4 0 r0 3#7 1#7 2#7, opVint 5 0 r0 3#7 1#7 2#7, opVint 6 0 r0 3#7 1#7 2#7, opVint 7 0 r0 3#7 1#7 2#7,
      opVint 8 0 r0 3#7 1#7 2#7, opVint 9 0 r0 3#7 1#7 2#7, opVint 10 0 r0 3#7 1#7 2#7, opVint 11 0 r0 3#7 1#7 2#7,
      opVint 12 0 r0 3#7 1#7 2#7, opVint 13 0 r0 3#7 1#7 2#7, opVint 14 0 r0 127#7 1#7 2#7, opVsel r0 3#7 1#7 2#7,
      opVmad (rHint 3 5) 3#7 1#7 2#7, opSat 1 r0 3#7 1#7, opSat 2 r0 3#7 1#7, opVint2 3 r0 3#7 1#7 0#7 [srcV 1#7, dstV 3#7],
      opVint2 4 r0 3#7 1#7 0#7 [srcV 1#7, dstV 3#7], opVint2 5 r0 3#7 1#7 0#7 [srcV 1#7, dstV 3#7],
      opField 6 (2 ^ 11) (rImm 0xE4) 3#7 1#7 (dstV 3#7), opField 7 (2 ^ 10) (rImm 0xE4) 3#7 1#7 (modV 3#7),
      opVint2 8 r0 3#7 1#7 0#7 [srcS 1#7, dstV 3#7], opVint2 9 r0 3#7 0#7 0#7 [dstV 3#7],
      opVint2 10 r0 3#7 1#7 0#7 [srcV 1#7, dstV 3#7], opSatN 11 r0 3#7 1#7 2#7, opSatN 12 r0 3#7 1#7 2#7,
      opVquad (rImm 0xE4) 3#7 1#7, opVint2 14 r0 3#7 1#7 0#7 [srcV 1#7, dstV 3#7], opVini 0 r0 3#7 1#7 5#7,
      opVini 1 r0 3#7 1#7 5#7, opVini 2 r0 3#7 1#7 5#7, opVini 3 r0 3#7 1#7 5#7, opViniShift 4 r0 3#7 1#7 31#7,
      opViniShift 5 r0 3#7 1#7 0#7, opViniShift 6 r0 3#7 1#7 5#7, opVini 7 r0 3#7 1#7 0x7F#7].all (fun o => ready o w0)) = true := by
  decide +kernel

/-- No event traps at the witness: TRAPEN is clear. -/
theorem noEvent_w0 (f : State → Nat → Res) : noEvent f w0 := Or.inl (by decide +kernel)

theorem test_meets_FloatResults :
    ((([0, 1, 2, 13].map (fun n => opVf 10 n 6 (modRND + modBSC) r0 3#7 1#7 2#7)) ++
      ([6, 7, 10].map (fun n => opVf 10 n 6 modBSC r0 3#7 1#7 2#7)) ++
      ([3, 4, 5].map (fun n => opVf3 10 n 6 (modRND + modBSC) (rHint 3 5) 3#7 1#7 2#7)) ++
      ([8, 9, 12, 14].map (fun n => opVf1 10 n 6 none r0 3#7 1#7)) ++
      ([0, 1, 2, 4, 5, 6, 7, 8].map (fun n => opVf1 11 n 12 (some modRND) r0 3#7 1#7)) ++
      [opVf1 10 11 6 (some modRND) r0 3#7 1#7, opVf 11 3 12 (modRND + modBSC) r0 3#7 1#7 2#7, opVf1 11 9 12 none r0 3#7 1#7]).all
        (fun o => ready o w0)) = true := by decide +kernel

theorem test_meets_HalfAndConversionResults :
    ((([0, 1, 3, 4].map (fun n => opVf 12 n 6 (modRND + modBSC) r0 3#7 1#7 2#7)) ++
      ([2, 5, 6, 7].map (fun n => opVf3 12 n 6 (modRND + modBSC) (rHint 3 5) 3#7 1#7 2#7)) ++
      ([0, 1, 2, 3].map (fun n => opVf1 13 n 6 (some modRND) r0 3#7 1#7)) ++
      [opCvt2 4 r0 3#7 1#7 2#7, opCvt2 5 r0 3#7 1#7 2#7, opCvtK 6 2 none r0 3#7 1#7 1#7 (dstV 3#7),
        opCvtK 7 2 none r0 3#7 1#7 0#7 (dstV 3#7), opCvtK 8 4 (some modRND) r0 3#7 1#7 3#7 (modV 3#7),
        opCvtK 9 4 (some modRND) r0 3#7 1#7 0#7 (modV 3#7), opCvtK 10 8 none r0 3#7 1#7 7#7 (dstV 3#7),
        opCvtK 13 4 none r0 3#7 1#7 3#7 (modV 3#7), opCvtK 14 4 none r0 3#7 1#7 0#7 (dstV 3#7),
        opPlane 11 (rHint 4 8) 8#7 16#7 w0, opPlane 12 (rHint 4 8) 8#7 16#7 w0]).all (fun o => ready o w0) && wholeGroups w0) = true := by
  decide +kernel

/-- The witness with TRAPEN set and a handler. -/
def wE : State := { wT with wave := { wT.wave with wctl := 4#64 } }

theorem test_meets_CrossLaneResults :
    (([opVshfl (rHint 3 5) 3#7 1#7 3#3, opIdx 1 r0 3#7 1#7 3#3 15#4, opIdx 2 r0 3#7 1#7 3#3 0#4, opIdx 3 r0 3#7 1#7 3#3 1#4,
      opAddTree 4 0 modSAT r0 3#7 1#7 3#3, opAddTree 5 0 modRND r0 3#7 1#7 3#3, fun s => opVxl 6 2 true r0 3#7 1#7 3#3 s,
      fun s => opVxl 7 0 true r0 3#7 1#7 3#3 s, opAddTree 8 0 modSAT r0 3#7 1#7 3#3, opAddTree 9 1 modRND r0 3#7 1#7 4#3,
      fun s => opVxl 10 4 true r0 3#7 1#7 4#3 s, fun s => opVxl 11 0 true r0 3#7 1#7 0#3 s, opIdx 12 r0 3#7 1#7 3#3 1#4,
      fun s => opVxl 14 1 true r0 3#7 1#7 4#3 s, opIdx 13 r0 3#7 1#7 3#3 1#4] : List (State → Op)).all (fun o => ready (o w0) w0) &&
      covered w0 (wOf 3#3) w0.part.quads w0.part.quads && covered w0 (wOf 4#3) w0.part.quads w0.part.quads) = true := by decide +kernel

theorem test_meets_CompareResults :
    ((List.range 10).all (fun n => ready (opCmp n r0 3#7 1#7 2#7) w0)) = true := by decide +kernel

theorem test_meets_MaskMoves :
    ((List.range 4).all (fun n => ready (Op.plain (wRRR 15 r0 3#7 1#7 2#7 (10 + n)) r0 2 [srcM 1#7, srcM 2#7, dstM 3#7]) w0) &&
      ready (Op.plain (wRRR 15 r0 3#7 1#7 0#7 14) r0 2 [srcM 1#7, dstS 3#7]) w0 &&
      ready (Op.plain (wRRR 15 r0 3#7 1#7 0#7 15) r0 2 [srcM 1#7, dstM 3#7]) w0 && clear r0 wT && decide (r0.hints = []) &&
      decide (8 ≤ (8#7).toNat ∧ 64 ≤ (64#7).toNat)) = true := by decide +kernel

theorem test_meets_MkffMarksTheLowestLane :
    (ready (opCtl 10 r0 3#7 0#7 true [dstM 3#7]) w0 && (lowLane 8#64 == some 3)) = true := by decide +kernel

/-- A mask register set. -/
def mset (n : Nat) (m : W64) (s : State) : State := { s with wave := { s.wave with m := cset 0#64 s.wave.m n m } }

/-- A divergence level, and the part with sixteen. -/
def lev0 : Entry := { rpc := 0#64, lanes := 0#64, outer := 0#64, d := false, jj := none, jto := 0, hints := 0 }
def wFull : State :=
  { w0 with part := { w0.part with stack := List.replicate 16 lev0 } }

theorem test_meets_BranchResults :
    ([Op.plain (wBR r0 0 0#4 1#18) r0 0 [], Op.plain (wBR r0 2 1#4 1#18) r0 0 [srcS4 1#4], Op.plain (wBR r0 3 1#4 1#18) r0 0 [srcS4 1#4],
      Op.plain (wBR r0 4 15#4 1#18) r0 0 [srcS4 15#4], Op.plain (wBR r0 5 1#4 1#18) r0 0 [srcM4 1#4],
      Op.plain (wBR r0 6 7#4 1#18) r0 0 [srcM4 7#4], Op.plain (wBR r0 1 0#4 1#18) r0 0 [dstS 62#7],
      Op.plain (wBR r0 7 1#4 1#18) r0 0 [srcM4 1#4]].all (fun o => ready o w0)) = true ∧
    -- BDIV: at sixteen levels; uniform both ways; split in place; split into two parts.
    (ready (Op.plain (wBR r0 7 1#4 1#18) r0 0 [srcM4 1#4]) wFull && decide (wFull.part.stack.length = 16)) = true ∧
    w0.part.exm &&& ~~~ (w0.part.exm &&& rdM (mset 1 (-1#64) w0) 1) = 0#64 ∧ w0.part.exm &&& rdM w0 1 = 0#64 ∧
    quadUniform w0.part 1#64 = false ∧
    (quadUniform w0.part 15#64 && !w0.part.nosplit && w0.part.state != .trapped && freeSet w0) = true := by decide +kernel

end Sys2Proof.Tests

namespace Sys2Proof.Tests

/-! ### Hypotheses met: control and system units

Each test lists, for every clause of a statement, the hypotheses of that clause on a witness. -/

/-- Whether all of a list holds. -/
def met (l : List Bool) : Bool := l.all id

/-- A divergence level. -/
def lev (d : Bool) (jj : Option (Nat × W64)) : Entry := { rpc := 0x40100#64, lanes := 0xF0#64, outer := 0xFF#64, d := d, jj := jj, jto := 0, hints := 0 }

/-- The part with one level. -/
def wLev (d : Bool) (jj : Option (Nat × W64)) : State := { w0 with part := { w0.part with stack := [lev d jj] } }

/-- Another part, away from every JOIN. -/
def sib : Part := { w0.part with quads := 0xFF00, pc := 0x41000#64 }

/-- The part beside another. -/
def wSib : State := { w0 with part := { w0.part with quads := 0xFF }, sibs := [sib] }

theorem test_meets_JoinsAndFuses : met [
    ready (opJoin r0 3#7) w0, w0.part.stack.isEmpty, w0.sibs.isEmpty, w0.part.state == .run,
    ready (opJoin r0 3#7) (wLev false none), (wLev false none).part.stack == [lev false none],
    ready (opJoin r0 3#7) (wLev true (some (4, 0#64))), (lev true (some (4, 0#64))).jj == some (4, 0#64),
    ready (opJoin (rHint 5 9) 3#7) wSib, wSib.part.stack.isEmpty, wSib.part.state == .run,
    (presentAt 3 (unitAddr (rHint 5 9) wSib) wSib).length != wSib.sibs.length,
    !allOpen wSib.wave wSib.part.quads 3, payload (rHint 5 9) 5 == some (8 + 1),
    ready (opJoin r0 3#7) wSib, (presentAt 3 (unitAddr r0 wSib) wSib).length != wSib.sibs.length, payload r0 5 == none,
    ready (opCtl 1 r0 4#7 0#7 (decide ((4#7).toNat ≤ 4) && decide ((4#7).toNat ≤ w0.wave.code)) []) w0,
    covered w0 (widthOf 4) w0.part.quads w0.part.quads] = true := by decide +kernel

/-- A part of one quad, alone, in a wave whose other lanes have not exited. -/
def wPart (st : PartState) : State := { w0 with part := { w0.part with quads := 0xFF, state := st } }

/-- Two parts of eight quads each in a state, at a JOIN 3 or a wave-wide unit of 32 lanes; and the first alone there, its quads
marked OPEN. -/
def half (q : Nat) (st : PartState) : Part :=
  { w0.part with quads := q, exm := quadLanes q, state := st, jwait := 3, waitAt := 0x40000#64, wcode := 4, arr := some 5 }
def twoParts (st tu : PartState) : Wave :=
  { w0.wave with parts := [half 0xFF st, half 0xFF00 tu], opens := (List.range 8).map (fun i => (i, 8#64)) }

theorem test_meets_JoinsAndFuses_settle : met [
    lowBit (half 0xFF .run).quads < lowBit (half 0xFF00 .run).quads,
    (half 0xFF .joinwait).state == .joinwait, !(half 0xFF .joinwait).exiting,
    presentWith (half 0xFF .joinwait) 3 0x40000#64 (half 0xFF00 .joinwait),
    (settleWave 5 (twoParts .joinwait .joinwait)).parts.map (·.quads) == [0xFFFF],
    compatible (half 0xFF .fusewait) (half 0xFF00 .fusewait),
    coveredIn (twoParts .fusewait .fusewait) (widthOf 4) 0xFF 0xFFFF, coveredIn (twoParts .fusewait .fusewait) (widthOf 4) 0xFF00 0xFFFF,
    (settleWave 5 (twoParts .fusewait .fusewait)).parts.map (·.quads) == [0xFFFF],
    allOpen (twoParts .joinwait .run) 0xFF 3, (half 0xFF .joinwait).arr == some 5,
    (settleWave 5 (twoParts .joinwait .run)).parts.map (fun p => (p.quads, p.state == .run)) == [(0xFF, true), (0xFF00, true)]] = true := by
  decide +kernel

theorem test_meets_JoinsAndFuses_apart : met ([PartState.run, .trapped].map (fun st =>
      ready (opCtl 1 r0 4#7 0#7 (decide ((4#7).toNat ≤ 4) && decide ((4#7).toNat ≤ (wPart st).wave.code)) []) (wPart st) &&
        !covered (wPart st) (widthOf 4) (wPart st).part.quads (wPart st).part.quads && (wPart st).sibs.isEmpty &&
        bfield (wPart st).wave.wctl 39 32 != 0)) = true := by decide +kernel

/-- A wave with 8 base registers, and one whose bank is full. -/
def wVx (pos cur : Nat) : State := { w0 with wave := { w0.wave with vbase := pos, vcur := cur } }

/-- A part that stands alone with its last lanes. -/
def wLast : State := { w0 with wave := { w0.wave with exited := 0xFFFFFFFFFFFFFF00#64 }, part := { w0.part with exm := 0xFF#64 } }

/-- A part that exits with its first lanes alone, and the same at one level. -/
def wPartly : State := act 15 w0
def wSide : State := act 15 (wLev false none)

theorem test_meets_ControlResults : met [
    ready (opCtl 2 r0 1#7 0#7 (decide ((1#7).toNat < 2)) []) w0, ready (opCtl 8 r0 3#7 0#7 true [dstS 3#7]) w0,
    ready (opCtl 9 r0 0#7 1#7 true [srcS 1#7]) w0, ready (opCtl 4 r0 0#7 0#7 true [srcS 62#7]) w0,
    rdS w0 62 &&& 3#64 == 0#64, rdS (sset [(62, 2#64)] w0) 62 &&& 3#64 != 0#64,
    ready (opCtl 4 r0 0#7 0#7 true [srcS 62#7]) (sset [(62, 2#64)] w0),
    ready (opCtl 5 r0 0#7 1#7 true [srcS 1#7]) w0, sreg w0 1#7 &&& 3#64 == 0#64,
    ready (opCtl 5 r0 0#7 1#7 true [srcS 1#7]) (sset [(1, 3#64)] w0), sreg (sset [(1, 3#64)] w0) 1#7 &&& 3#64 != 0#64,
    ready (opCtl 11 r0 0#7 0#7 true []) w0,
    covered (wVx 64 64) (widthOf (wVx 64 64).wave.code) (wVx 64 64).part.quads (wVx 64 64).part.quads,
    ready (opCtl 6 r0 16#7 0#7 (vxopenOk 16#7 (wVx 64 64)) []) (wVx 64 64), bankRoom (wVx 64 64) (8 * 16 - 64),
    ready (opCtl 7 r0 0#7 0#7 true []) (wVx 64 128),
    ready (opCtl 3 r0 0#7 0#7 true []) w0, (ownStores w0).isEmpty, w0.rays.isEmpty, w0.part.exm != 0#64,
    ready (opCtl 3 r0 0#7 0#7 true []) (act 0 w0), (act 0 w0).part.exm == 0#64,
    ready (opCtl 3 r0 0#7 0#7 true []) wLast, quadLanes wLast.part.quads &&& ~~~ (wLast.wave.exited ||| wLast.part.exm) == 0#64,
    decide (wLast.part.quads < 2 ^ 16), wLast.sibs.isEmpty,
    -- EXIT of some lanes: with no level, and with a level whose other side has lanes left.
    ready (opCtl 3 r0 0#7 0#7 true []) wPartly, wPartly.part.exm != 0#64, wPartly.part.stack.isEmpty,
    quadLanes wPartly.part.quads &&& ~~~ (wPartly.wave.exited ||| wPartly.part.exm) != 0#64,
    ready (opCtl 3 r0 0#7 0#7 true []) wSide, (lev false none).lanes &&& ~~~ wSide.part.exm != 0#64, wSide.part.stack == [lev false none],
    quadLanes wSide.part.quads &&& ~~~ (wSide.wave.exited ||| wSide.part.exm) != 0#64] = true := by decide +kernel

/-- The same beside waves that fill the banks. -/
def wCrowd : State :=
  { wVx 64 64 with waves := (List.range 15).map (fun i => { w0.wave with widx := i + 1, vbase := 64, vcur := 64, parts := [sib] }) }

theorem test_meets_ControlResults_full :
    (ready (opCtl 6 r0 16#7 0#7 (vxopenOk 16#7 wCrowd) []) wCrowd && !bankRoom wCrowd (8 * 16 - 64)) = true := by decide +kernel

theorem test_meets_SystemResults : met [
    ready (opSys 0 r0 1#7 0#7 0#7 true []) w0, ready (opMv 4 r0 3#7 0#7 5#7 [dstS 3#7]) w0,
    ready (opMv 5 r0 0#7 3#7 5#7 [srcS 3#7]) w0,
    ready (opSys 6 r0 3#7 1#7 1#7 (decide ((1#7).toNat < 2)) [srcS 1#7, dstS 3#7]) w0, ready (opSys 8 r0 3#7 0#7 0#7 true [dstS 3#7]) w0,
    ready (opSys 11 r0 3#7 1#7 2#7 true [laneV 1#7, srcS 2#7, dstS 3#7]) w0, decide ((sreg w0 2#7).toNat < 64),
    (partLanes w0).getLsbD 0, decide (landOf w0 1 [0] ≤ now w0),
    ready (opSys 11 r0 3#7 1#7 2#7 true [laneV 1#7, srcS 2#7, dstS 3#7]) (sset [(2, 64#64)] w0),
    decide (64 ≤ (sreg (sset [(2, 64#64)] w0) 2#7).toNat),
    ready (opSys 12 r0 3#7 1#7 2#7 true [laneV 3#7, srcS 1#7, srcS 2#7]) (sset [(2, 6#64)] w0),
    decide (landOf (sset [(2, 6#64)] w0) 3 [1, 2] ≤ now w0),
    decide (0x20 ≤ sysNum r0 0x20#7), clear r0 wT, (rejectOp (opMv 4 r0 3#7 0#7 0x20#7 [dstS 3#7]) wT).isNone,
    (rejectOp (opMv 5 r0 0#7 3#7 0x20#7 [srcS 3#7]) wT).isNone] = true := by decide +kernel

/-- A store-fault record. -/
def sfr : SfRecord := { addr := 0x1000#64, lanes := 1#64, pc := 0#64, seq := 0, reason := 1, dreg := 0, sst := false, lsz := 2, widx := 0, pidx := 0 }

theorem test_meets_SystemWaits : met [
    ready (opSys 7 r0 0#7 1#7 0#7 true [srcS 1#7]) w0, (sreg w0 1#7).toNat % 2 ^ 32 == 0,
    ready (opSys 7 r0 0#7 1#7 0#7 true [srcS 1#7]) (sset [(1, 5#64)] w0), (sreg (sset [(1, 5#64)] w0) 1#7).toNat % 2 ^ 32 != 0,
    ready (opIcinv r0 1#7 2#7) w0, sreg w0 2#7 == 0#64,
    ready (opIcinv r0 1#7 2#7) (sset [(2, 4#64)] w0), sreg (sset [(2, 4#64)] w0) 2#7 != 0#64,
    ready (opSys 13 r0 3#7 1#7 0#7 true [srcS 1#7, dstS 3#7]) w0, (sreg w0 1#7).toNat % 32 == 0,
    decide ((sreg w0 1#7).toNat + 32 ≤ w0.crew.scr), w0.crew.sfq.isEmpty,
    ready (opSys 13 r0 3#7 1#7 0#7 true [srcS 1#7, dstS 3#7]) { w0 with crew := { w0.crew with sfq := [sfr] } },
    !touchesBar { w0.crew with sfq := [sfr] } 0 32] = true := by decide +kernel

/-- A context under a debugger. -/
def wDbg : State := { w0 with ctxs := [(0, some { placedCtx with attached := true })] }

theorem test_meets_TrapsEnterTheHandler : met [
    ready (opSys 1 r0 0#7 5#7 0#7 true []) wT, ready (opSys 2 r0 0#7 5#7 0#7 true []) wT, !debugged wT,
    ready (opSys 10 r0 0#7 0#7 0#7 true []) wT, ready (opSys 2 r0 0#7 5#7 0#7 true []) wDbg, debugged wDbg,
    ready (opSys 10 r0 0#7 0#7 0#7 true []) wDbg, w0.part.state != .trapped, pcField w0.wave.tvec == 0#64,
    wH.part.state == .trapped] = true := by decide +kernel

/-- A dump that the part in focus has begun, beside another part of its wave and one of another wave. -/
def dump0 : Dump :=
  { wave := 0, part := 0, next := 0x40004#64, dreg := 3, addr := 0x1000#64, limit := 0x1000#64, start := 0, time := 0, halts := [],
    copies := [], preempt := false, phase := 0, left := [], starts := [], bytes := 0, nsect := 0, lim := false, fault := false }
def wave1 : Wave := { w0.wave with widx := 1, parts := [{ w0.part with quads := 0xF }] }
def wHalts : State := { wSib with waves := [wave1], crew := { wSib.crew with dump := some dump0 } }

theorem test_meets_HandlerUnits_dump : met [
    (packCrew wHalts).dump == some dump0, dump0.phase == 0, decide (dump0.start < 1),
    (packCrew wHalts).waves.any (fun w => w.parts.any (haltsNow dump0 w)), wHalts.sibs.any (haltsNow dump0 wHalts.wave), sib.wait != .dump,
    wHalts.waves.any (fun w => w.parts.any (fun p => haltsNow dump0 w p && p.wait != .dump))] = true := by decide +kernel

theorem test_meets_HandlerUnits : met [
    ready (opSys 3 r0 0#7 0#7 0#7 true []) wH, wH.part.state == .trapped, wH.crew.dump.isNone,
    ready (opSys 3 r0 0#7 0#7 0#7 true []) { wH with crew := { wH.crew with dump := some { dump0 with phase := 3 } } },
    dump0.wave == wH.wave.widx, wH.part.quads.testBit dump0.part,
    clear r0 w0, w0.part.state == .run, ready (opSys 14 r0 0#7 1#7 0#7 true [srcS 1#7]) w0,
    ready (opSys 15 r0 3#7 1#7 2#7 true [srcS 1#7, srcS 2#7, dstS 3#7]) wH, (sreg wH 1#7).toNat % 256 == 0,
    !dumping wH] = true := by decide +kernel

/-- At an addition of infinities of both signs, with TRAPEN set. -/
def wInf : State := one { wE with wave := { wE.wave with v := [(64, 0x7F800000#32), (128, 0xFF800000#32)] } }

theorem test_meets_ChecksTrap : met [
    clear r0 wT, (rejectOp (Op.plain (wRRR 2 r0 3#7 0#7 0#7 14) r0 2 []) wT).isNone,
    (rejectOp { Op.plain (wRRR 2 r0 3#7 0#7 0#7 14) r0 2 [] with lims := false } wT).isSome,
    ready (opVf 10 0 6 (modRND + modBSC) r0 3#7 1#7 2#7) wInf, wInf.wave.wctl.getLsbD 2, wInf.part.state == .run,
    (activeLanes wInf).contains 0, (fp32.add 0 0x00 0 false 0x7F800000 0xFF800000).inv, pcField wInf.wave.tvec != 0#64] = true := by
  decide +kernel

/-- A part whose PC lies outside the global window. -/
def wOut : State := { w0 with part := { w0.part with pc := 0xFE00000000040000#64 } }

theorem test_meets_ChecksTrap_fetch :
    (wOut.agent == .wave && canIssue wOut && (match nextUnit wOut with
      | .error e => e.why == .outside && e.why != .owned
      | .ok _ => false)) = true := by decide +kernel

end Sys2Proof.Tests

namespace Sys2Proof.Tests

/-! ### Hypotheses met: memory units -/

/-- One lane, with 0x1000 in s1, and a grant and a page there. -/
def wG : State := grant1 (one (sset [(1, 0x1000#64)] w0))

/-- The form of a load, of a store, of an atomic. -/
def fLd (n : Nat) (sc : Bool) : Form := { size := n, scalar := sc, rd := true, wr := false }
def fSt (n : Nat) (sc : Bool) : Form := { size := n, scalar := sc, rd := false, wr := true }
def fAt (n : Nat) : Form := { size := n, scalar := false, rd := true, wr := true }

/-- A plain load. -/
def h0 : How := { ldn := false, acq := false, cache := 0 }

/-- The checks, the grants and the room of an access of `wG` to 0x1000. -/
def goesLd (m : Form) (addrs : List (Nat × W64)) (s : State) : Bool :=
  accessClear m addrs s && accessGranted m addrs s && loadRoom r0 { h0 with ldn := m.size == 0 } m.size m addrs s

def goesSt (data : Nat → List Byte) (m : Form) (addrs : List (Nat × W64)) (s : State) : Bool :=
  accessClear m addrs s && accessGranted m addrs s && storeClear m addrs s && storeRoom r0 false false data m addrs s

/-- The same where every tracker counts 65,535 accesses, so that a store straight to the home has no room. -/
def wOuts : State := { wG with crew := { wG.crew with trk := (List.range 16).map (fun k => (k, { getTrk wG.crew k with out := 65535 })) } }

theorem test_meets_LoadsIssue : met ([
      !acquiring wG, ready (opSmem 0 false r0 3#7 1#7 2#7) wG, ready (opSmem 1 false r0 3#7 1#7 2#7) wG,
      goesLd (fLd 8 true) [(scalarLane wG, addrS r0 1#7 2#7 3 wG)] wG, goesLd (fLd 4 true) [(scalarLane wG, addrS r0 1#7 2#7 2 wG)] wG,
      wG.part.exm != 0#64, ready (opVld 4 4 false r0 8#7 1#7 2#7) (act 0 w0), (act 0 w0).part.exm == 0#64,
      ready (opPref r0 1#7 2#7) wG, ready (opPref (rHint 2 0x800) 1#7 2#7) wG, modField (rHint 2 0x800) 11 10 == 2] ++
    [(0, 1, false), (1, 1, false), (2, 2, false), (3, 2, false), (4, 4, false), (5, 8, false), (6, 16, false), (7, 4, true),
      (14, 8, true)].map (fun x => ready (opVld x.1 x.2.1 x.2.2 r0 8#7 1#7 2#7) wG &&
        goesLd (fLd x.2.1 false) (laneAddrs r0 1#7 2#7 (Nat.log2 x.2.1) wG) wG)) = true := by decide +kernel

theorem test_meets_StoresIssue : met ([
      modField r0 19 19 == 0, ready (opSmem 2 true r0 3#7 1#7 2#7) wG, ready (opSmem 3 true r0 3#7 1#7 2#7) wG,
      goesSt (fun _ => leBytes 8 (sreg wG 3#7).toNat) (fSt 8 true) [(scalarLane wG, addrS r0 1#7 2#7 3 wG)] wG,
      goesSt (fun _ => leBytes 4 (sreg wG 3#7).toNat) (fSt 4 true) [(scalarLane wG, addrS r0 1#7 2#7 2 wG)] wG,
      !(storeRoom (rHint 2 0x800) true false (laneBytes wOuts 8 4) (fSt 4 false) (laneAddrs r0 1#7 2#7 2 wOuts) wOuts),
      ready (opVst 10 4 (rHint 2 0x800) 8#7 1#7 2#7) wOuts, accessClear (fSt 4 false) (laneAddrs r0 1#7 2#7 2 wOuts) wOuts,
      accessGranted (fSt 4 false) (laneAddrs r0 1#7 2#7 2 wOuts) wOuts, storeClear (fSt 4 false) (laneAddrs r0 1#7 2#7 2 wOuts) wOuts,
      modField (rHint 2 0x800) 19 19 == 0, modField (rHint 2 0x800) 11 10 == 2, ready (opVst 10 4 r0 8#7 1#7 2#7) (act 0 w0)] ++
    [(8, 1), (9, 2), (10, 4), (11, 8), (12, 16)].map (fun x => ready (opVst x.1 x.2 r0 8#7 1#7 2#7) wG &&
        goesSt (laneBytes wG 8 x.2) (fSt x.2 false) (laneAddrs r0 1#7 2#7 (Nat.log2 x.2) wG) wG)) = true := by decide +kernel

/-- The same lane with 0x1001 in s1, where a handler stands; one in no window; and one outside the grants. -/
def wMis : State := sset [(1, 0x1001#64)] { wG with wave := wT.wave }
def wBad : State := sset [(1, 0x5500000000000000#64)] wG
def wOutside : State := sset [(1, 0x100000#64)] wG

theorem test_meets_StoredBytesAreDirty : 0x10 % 128 + [1#8, 2#8].length ≤ 128 ∧
    (putDirty 0 0 0 0 false false 0x1000 [1#8] w0).any (fun t => inL1 t 0 32 && (getL1 t 0 32).owner == 0) = true ∧
    (let s := setL1 w0 0 32 { getL1 w0 0 32 with filled := true }; inL1 s 0 32 && (getL1 s 0 32).dirty == 0#128) = true := by decide +kernel

/-- The scratchpad offset 0x40 in s1, for one lane. -/
def wP : State := one (sset [(1, 0x40#64)] w0)

theorem test_meets_ScratchpadAccesses : met ([
      wP.part.exm != 0#64, ready (opSpad 8 r0 3#7 1#7 2#7 [srcS 1#7, srcS 2#7, dstS 3#7]) wP,
      spadClear 8 [(0, addrS r0 1#7 2#7 3 wP)] wP, ready (opSpad 9 r0 3#7 1#7 2#7 [srcS 1#7, srcS 2#7, srcS 3#7]) wP,
      !touchesBar wP.crew (addrS r0 1#7 2#7 3 wP).toNat 8, (sreg wP 1#7 + dispOf r0) &&& 15#64 == 0#64,
      decide ((sreg wP 1#7 + dispOf r0).toNat + 4 * 2 * widthOf wP.wave.code ≤ wP.crew.scr),
      ready (opSpill 6 r0 8#7 1#7 1#7 (srcVs 8#7 2 1)) wP, ready (opSpill 7 r0 8#7 1#7 1#7 (dstVs 8#7 2 1)) wP,
      !(slots wP 0x40 2).any (fun x => touchesBar wP.crew x.2.2 4)] ++
    [(0, 4), (1, 8), (2, 16)].map (fun x => ready (opSpad x.1 r0 8#7 1#7 2#7 ([srcS 1#7, dstVs 8#7 (grp x.2) (grp x.2)] ++ idxUse 2#7)) wP &&
      spadClear x.2 (laneAddrs r0 1#7 2#7 (Nat.log2 x.2) wP) wP) ++
    [(3, 4), (4, 8), (5, 16)].map (fun x => ready (opSpad x.1 r0 8#7 1#7 2#7 ([srcS 1#7, srcVs 8#7 (grp x.2) (grp x.2)] ++ idxUse 2#7)) wP &&
      !((laneAddrs r0 1#7 2#7 (Nat.log2 x.2) wP).map (fun y => (y.1, y.2.toNat))).any (fun y => touchesBar wP.crew y.2 x.2))) = true := by
  decide +kernel

/-- Whether an access takes the clauses of a misaligned address at the first witness, of an address in no window at the second,
and of one outside the grants at the third. -/
def faultsAt (n : Nat) (m : Form) (o : Op) (addrs : State → List (Nat × W64)) : Bool :=
  ready o wMis && (n == 1 || !((addrs wMis).filter (fun x => x.2.toNat % n != 0)).isEmpty) &&
    ready o wBad && ((addrs wBad).filter (fun x => x.2.toNat % n != 0)).isEmpty &&
    ((accsOf m (addrs wBad) wBad).find? (fun c => c.tgt == .bad)).isSome &&
    ready o wOutside && accessClear m (addrs wOutside) wOutside && !(failing m (accsOf m (addrs wOutside) wOutside) wOutside).isEmpty &&
    (m.rd || storeClear m (addrs wOutside) wOutside)

theorem test_meets_AccessFaults : met ([wMis, wBad, wOutside].map (fun s =>
      !atomPending s && !scratchPending s && !acquiring s && s.part.exm != 0#64) ++
    [wMis.part.state != .trapped, pcField wMis.wave.tvec != 0#64, modField r0 19 19 == 0] ++
    [(0, 1, false), (1, 1, false), (2, 2, false), (3, 2, false), (4, 4, false), (5, 8, false), (6, 16, false), (7, 4, true),
      (14, 8, true)].map (fun x => faultsAt x.2.1 (fLd x.2.1 false) (opVld x.1 x.2.1 x.2.2 r0 8#7 1#7 2#7) (laneAddrs r0 1#7 2#7 (Nat.log2 x.2.1))) ++
    [(8, 1), (9, 2), (10, 4), (11, 8), (12, 16)].map (fun x =>
      faultsAt x.2 (fSt x.2 false) (opVst x.1 x.2 r0 8#7 1#7 2#7) (laneAddrs r0 1#7 2#7 (Nat.log2 x.2))) ++
    [(0, 8, 3), (1, 4, 2)].map (fun x =>
      faultsAt x.2.1 (fLd x.2.1 true) (opSmem x.1 false r0 3#7 1#7 2#7) (fun s => [(scalarLane s, addrS r0 1#7 2#7 x.2.2 s)])) ++
    [(2, 8, 3), (3, 4, 2)].map (fun x =>
      faultsAt x.2.1 (fSt x.2.1 true) (opSmem x.1 true r0 3#7 1#7 2#7) (fun s => [(scalarLane s, addrS r0 1#7 2#7 x.2.2 s)]))) = true := by
  decide +kernel

theorem test_meets_AccessFaults_atomics : met (
    [(0, atomMods, r0), (1, atomMods, r0), (2, atomMods, r0), (3, atomMods, r0), (4, atomMods, r0), (5, atomMods, r0), (6, atomMods, r0),
      (7, atomMods, r0), (8, atomMods, r0), (9, atomMods, rHint 3 5), (10, modACQ + modREL, r0), (11, atomMods, r0),
      (12, 2 ^ 13 + modACQ, r0), (13, 2 ^ 13 + modREL, r0)].map (fun x => atomSize x.1 x.2.2 == 4 &&
        faultsAt 4 (fAt 4) (opAtom x.1 x.2.1 (x.1 == 9) x.2.2 3#7 1#7 2#7) (laneAddrs x.2.2 1#7 2#7 2))) = true := by decide +kernel

/-- The scratchpad offset 0x41 in s1, where a handler stands, and one behind the reservation. -/
def wPmis : State := one (sset [(1, 0x41#64)] wT)
def wPout : State := one (sset [(1, 0x10000#64)] wT)

/-- The same for an access to the scratchpad, of an instruction's operands and size. -/
def faultsIn (n : Nat) (o : Op) (offs : State → List (Nat × W64)) : Bool :=
  ready o wPmis && !((offs wPmis).filter (fun x => x.2.toNat % n != 0)).isEmpty &&
    ready o wPout && ((offs wPout).filter (fun x => x.2.toNat % n != 0)).isEmpty &&
    (offs wPout).any (fun x => decide (wPout.crew.scr < x.2.toNat + n))

theorem test_meets_AccessFaults_scratchpad : met ([wPmis, wPout].map (fun s =>
      !atomPending s && !scratchPending s && !acquiring s && s.part.exm != 0#64 && s.part.state != .trapped && pcField s.wave.tvec != 0#64) ++
    [(0, 4), (1, 8), (2, 16)].map (fun x => faultsIn x.2 (opSpad x.1 r0 8#7 1#7 2#7 ([srcS 1#7, dstVs 8#7 (grp x.2) (grp x.2)] ++ idxUse 2#7))
      (laneAddrs r0 1#7 2#7 (Nat.log2 x.2))) ++
    [(3, 4), (4, 8), (5, 16)].map (fun x => faultsIn x.2 (opSpad x.1 r0 8#7 1#7 2#7 ([srcS 1#7, srcVs 8#7 (grp x.2) (grp x.2)] ++ idxUse 2#7))
      (laneAddrs r0 1#7 2#7 (Nat.log2 x.2))) ++
    [faultsIn 8 (opSpad 8 r0 3#7 1#7 2#7 [srcS 1#7, srcS 2#7, dstS 3#7]) (fun s => [(0, addrS r0 1#7 2#7 3 s)]),
      faultsIn 8 (opSpad 9 r0 3#7 1#7 2#7 [srcS 1#7, srcS 2#7, srcS 3#7]) (fun s => [(0, addrS r0 1#7 2#7 3 s)]),
      faultsIn 16 (opSpill 6 r0 8#7 1#7 1#7 (srcVs 8#7 2 1)) (fun s => [(0, sreg s 1#7 + dispOf r0)]),
      faultsIn 16 (opSpill 7 r0 8#7 1#7 1#7 (dstVs 8#7 2 1)) (fun s => [(0, sreg s 1#7 + dispOf r0)])]) = true := by decide +kernel

theorem test_meets_AtomicAndReduceValues :
    (5 : Nat) < 2 ^ (8 * 4) ∧ (5 : Nat) < 2 ^ (8 * 8) ∧ (5 : Nat) < 6 ∧ ¬ (5 : Nat) = 6 := by decide +kernel

/-- A scope of 0, and the same with the line of 0x1000 in L1, and with the scratchpad window in s1. -/
def rNear : Run := rHint 2 0
def wHitL : State := setL1 wG 0 32 { getL1 wG 0 32 with filled := true, lease := 100000 }
def wScr : State := sset [(1, 0xFE00000000000040#64)] wG

/-- The lanes of an AADD of a witness performed, when there is room. -/
def atomRun (r : Run) (s : State) : Option AtomRun :=
  let accs := accsOf (fAt 4) (laneAddrs r 1#7 2#7 2 s) s
  atomLanes (atomFar r) 0 4 (laneNat s 3 4) (laneNat s (opcOf r) 4) (readyOf (fAt 4) r accs s) accs { st := s, lanes := [], accs := [] }

/-- Whether the checks of an AADD of a witness pass, and it has one lane. -/
def atomGoes (r : Run) (s : State) : Bool :=
  let addrs := laneAddrs r 1#7 2#7 2 s
  ready (opAtom 0 atomMods false r 3#7 1#7 2#7) s && atomSize 0 r == 4 && accessClear (fAt 4) addrs s && accessGranted (fAt 4) addrs s &&
    !(scratchOf (accsOf (fAt 4) addrs s)).any (fun x => touchesBar s.crew x.2 4) && (accsOf (fAt 4) addrs s).length == 1 &&
    !acquiring s && s.part.exm != 0#64 && modField r 19 19 == 0

/-- The one place of such a lane in memory. -/
def atomAt (r : Run) (s : State) : List Ready := readyOf (fAt 4) r (accsOf (fAt 4) (laneAddrs r 1#7 2#7 2 s) s) s

theorem test_meets_AtomicsIssue_lanes : met [
    atomFar r0, atomFar (rHint 2 0x10), !atomFar rNear, atomGoes r0 wG, (atomRun r0 wG).isSome, (atomAt r0 wG).length == 1,
    atomGoes r0 wOuts, (atomRun r0 wOuts).isNone,
    atomGoes rNear wHitL, (atomRun rNear wHitL).isSome, (atomAt rNear wHitL).map (fun q => (q.place.tso, q.place.pa)) == [(false, 0x1000)],
    (atomAt rNear wHitL).all (fun q => isHit { ldn := false, acq := false, cache := 0 } q 4 wHitL), !poisonedL1 wHitL 32 0 4, !remoteLine 32,
    atomGoes rNear wG, (atomRun rNear wG).isSome, (atomAt rNear wG).all (fun q => !q.place.tso &&
      !isHit { ldn := false, acq := false, cache := 0 } q 4 wG),
    atomGoes r0 wScr, (atomRun r0 wScr).isSome,
    (accsOf (fAt 4) (laneAddrs r0 1#7 2#7 2 wScr) wScr).map (·.tgt) == [.scratch 0x40]] = true := by decide +kernel

theorem test_meets_AtomicsIssue : met ([
      atomSize 10 r0 == 4, ready (opAtom 9 atomMods true (rHint 3 5) 3#7 1#7 2#7) wG, ready (opAtom 10 (modACQ + modREL) false r0 3#7 1#7 2#7) wG,
      ready (opAtom 12 (2 ^ 13 + modACQ) false r0 3#7 1#7 2#7) wG, ready (opAtom 13 (2 ^ 13 + modREL) false r0 3#7 1#7 2#7) wG] ++
    [0, 1, 2, 3, 4, 5, 6, 7, 8, 11].map (fun n => ready (opAtom n atomMods false r0 3#7 1#7 2#7) wG)) = true := by decide +kernel

/-- A load in flight; a store on its way. -/
def ld1 : Load := { id := 9, kind := .vec 4 false, reg := 3, lanes := [], acq := false, timer := none }
def st1 : PStore :=
  { id := 9, wave := 0, part := 0, accs := [7], fault := none, addr := 0#64, lanes := 1#64, pc := 0#64, dreg := 3, sst := false,
    lsz := 2, at_ := 0 }
def wLd : State := { w0 with part := { w0.part with loads := [ld1] } }
def wSt : State := { w0 with crew := { w0.crew with stores := [st1] } }

theorem test_meets_TrackersAndFences : met [
    ready (opTrkset 0 r0 1#7 1#7 2#7 [srcS 1#7, srcS 2#7]) w0, bfield (sreg w0 1#7) 63 56 == 0x00,
    ready (opTrkset 0 r0 1#7 1#7 2#7 [srcS 1#7, srcS 2#7]) (sset [(1, 0xFC00000000000000#64)] w0),
    bfield (sreg (sset [(1, 0xFC00000000000000#64)] w0) 1#7) 63 56 == 0xFC,
    ready (opTrkset 0 r0 1#7 1#7 2#7 [srcS 1#7, srcS 2#7]) (sset [(1, 0xFE00000000000000#64)] w0),
    ready (opTrkset 16 r0 17#7 1#7 0#7 [srcS 1#7]) w0, ready (opSync 2 r0 1#7 0#7 0#7 (decide ((1#7).toNat ≤ 14)) []) w0,
    ready (opSync 3 r0 0#7 0#7 0#7 true []) w0, (ownStores w0).isEmpty, ready (opFence r0 63#7) w0, !w0.part.relDone,
    releaseClear ((payload r0 0).getD (bfield (sreg w0 63#7) 15 0)) 4 w0, w0.part.loads.isEmpty,
    ready (opFence r0 63#7) wLd, releaseClear 0 4 wLd, (ownStores wLd).isEmpty,
    ready (opFence r0 63#7) wSt, !(ownStores wSt).isEmpty, (ownStores wSt).all (fun x => x.fault.isNone)] = true := by decide +kernel

/-- A word of the scratchpad with s3 = 0x40, and a wait that does not hold. -/
def wW : State := sset [(1, 0x40#64), (2, 7#64)] w0

/-- A wait with the operation EQ and a timeout in s5. -/
def rW : Run := { hints := [{ kind := 3#3, payload := 5#24 }, { kind := 4#3, payload := 0#24 }], stl := 0#2 }

theorem test_meets_WaitsAndBarriers_waita : met [
    ready (opWaita rW 3#7 1#7 2#7) wW, !wW.part.relDone, wW.part.wait == .none, sreg wW 1#7 &&& 7#64 == 0#64,
    decide ((sreg wW 1#7).toNat + 8 ≤ wW.crew.scr),
    waitHolds ((widthHint rW).getD 0) (scrWord (sset [(2, 0#64)] wW) 0x40) (sreg (sset [(2, 0#64)] wW) 2#7), wW.part.loads.isEmpty,
    ready (opWaita rW 3#7 1#7 2#7) (sset [(2, 0#64)] wW), !scratchPending wW,
    ready (opWaita rW 3#7 1#7 2#7) (sset [(1, 0x40#64), (2, 0#64)] wLd), !wLd.part.loads.isEmpty, wLd.part.wait == .none,
    !waitHolds ((widthHint rW).getD 0) (scrWord wW 0x40) (sreg wW 2#7), bfield (rdS wW (opcOf rW)) 31 0 == 0,
    ready (opWaita rW 3#7 1#7 2#7) (sset [(5, 9#64)] wW), bfield (rdS (sset [(5, 9#64)] wW) (opcOf rW)) 31 0 != 0,
    ready (opWaita rW 3#7 1#7 2#7) (sset [(1, 4#64)] wW), sreg (sset [(1, 4#64)] wW) 1#7 &&& 7#64 != 0#64,
    ready (opWaita rW 3#7 1#7 2#7) (sset [(1, 65536#64)] wW), decide ((sset [(1, 65536#64)] wW).crew.scr < 65536 + 8)] = true := by decide +kernel

/-- One quad at a barrier word of two quads, and of one. -/
def wB (n ph : Nat) : State :=
  sset [(1, 0x40#64), (2, BitVec.ofNat 64 n)] (bar (bytes64 (BitVec.ofNat 64 (n * 2 ^ 32 + ph))) { w0 with part := { w0.part with quads := 1 } })

theorem test_meets_WaitsAndBarriers : met [
    ready (opSync 5 r0 0#7 1#7 2#7 true [srcS 1#7, srcS 2#7]) wW, !isBar wW 0x40, decide (1 ≤ (sreg wW 2#7).toNat),
    decide ((sreg wW 2#7).toNat ≤ 512), decide (wW.crew.bars.length < 16), ready (opSync 6 r0 3#7 1#7 0#7 true [srcS 1#7, dstS 3#7]) wW,
    ready (opSync 7 r0 0#7 1#7 2#7 true [srcS 1#7, srcS 2#7]) wW, ready (opSync 8 r0 3#7 1#7 0#7 true [srcS 1#7, dstS 3#7]) wW,
    ready (opSync 6 r0 3#7 1#7 0#7 true [srcS 1#7, dstS 3#7]) (wB 2 0), isBar (wB 2 0) 0x40, (ownStores (wB 2 0)).isEmpty,
    ready (opSync 7 r0 0#7 1#7 2#7 true [srcS 1#7, srcS 2#7]) (wB 2 0), barPhase (wB 2 0).crew 0x40 != 2,
    ready (opSync 8 r0 3#7 1#7 0#7 true [srcS 1#7, dstS 3#7]) (wB 2 0), ready (opSync 5 r0 0#7 1#7 2#7 true [srcS 1#7, srcS 2#7]) (wB 2 0),
    barPhase (barArrive 0x40 (ownQuads (wB 2 0)) (crewExited (wB 2 0)) (wB 2 0).crew) 0x40 == barPhase (wB 2 0).crew 0x40,
    barPhase (barArrive 0x40 (ownQuads (wB 1 0)) (crewExited (wB 1 0)) (wB 1 0).crew) 0x40 != barPhase (wB 1 0).crew 0x40,
    ready (opSync 8 r0 3#7 1#7 0#7 true [srcS 1#7, dstS 3#7]) (wB 1 0),
    (wB 2 0).part.wait == .none, !scratchPending (wB 2 0), !scratchPending wW, (wB 2 0).part.loads.isEmpty] = true := by decide +kernel

/-- A part inside BARWAIT and one inside BARC, that wait for a phase. -/
def wBarw (ph : Nat) : State := { wB 2 0 with part := { (wB 2 0).part with wait := .barw 0x40 ph } }
def wBarc (ph : Nat) : State := { wB 2 0 with part := { (wB 2 0).part with wait := .barc 0x40 ph true } }

theorem test_meets_WaitsAndBarriers_waits : met [
    ready (opSync 7 r0 0#7 1#7 2#7 true [srcS 1#7, srcS 2#7]) (sset [(2, 0#64)] (wB 2 0)), barPhase (wB 2 0).crew 0x40 == 0,
    ready (opSync 7 r0 0#7 1#7 2#7 true [srcS 1#7, srcS 2#7]) (wBarw 0), inPhase (wBarw 0).crew 0x40 0,
    ready (opSync 7 r0 0#7 1#7 2#7 true [srcS 1#7, srcS 2#7]) (wBarw 1), !inPhase (wBarw 1).crew 0x40 1, (wBarw 1).part.loads.isEmpty,
    inPhase (barArrive 0x40 (ownQuads (wB 2 0)) (crewExited (wB 2 0)) (wB 2 0).crew) 0x40 (barPhase (wB 2 0).crew 0x40),
    !inPhase (barArrive 0x40 (ownQuads (wB 1 0)) (crewExited (wB 1 0)) (wB 1 0).crew) 0x40 (barPhase (wB 1 0).crew 0x40),
    ready (opSync 8 r0 3#7 1#7 0#7 true [srcS 1#7, dstS 3#7]) (wBarc 0), inPhase (wBarc 0).crew 0x40 0,
    ready (opSync 8 r0 3#7 1#7 0#7 true [srcS 1#7, dstS 3#7]) (wBarc 1), !inPhase (wBarc 1).crew 0x40 1, !(wBarc 1).part.relDone] = true := by
  decide +kernel

theorem test_meets_WaitsAndBarriers_places : met ([(5, false), (6, true), (7, false), (8, true), (9, false)].map (fun x =>
    [4, 65536].all (fun (a : Nat) =>
      let s := sset [(1, BitVec.ofNat 64 a)] wW
      let o := if x.1 = 5 ∨ x.1 = 7 then opSync x.1 r0 0#7 1#7 2#7 true [srcS 1#7, srcS 2#7]
        else if x.2 then opSync x.1 r0 3#7 1#7 0#7 true [srcS 1#7, dstS 3#7] else opSync x.1 r0 0#7 1#7 0#7 true [srcS 1#7]
      ready o s && !scratchPending s && (decide (a % 8 ≠ 0) || decide (s.crew.scr < a + 8)) && s.part.wait == .none))) = true := by decide +kernel

theorem test_meets_WaitsAndBarriers_phases : met [
    decide (barArrived (wB 2 0).crew 0x40 + [0].length < 1024), decide (barArrived (wB 2 0).crew 0x40 + 1 < barExpect (wB 2 0).crew 0x40),
    decide (barExpect (wB 1 0).crew 0x40 ≤ barArrived (wB 1 0).crew 0x40 + 1)] = true := by decide +kernel

/-- A part that waits on the barrier word. -/
def wBw : State := { wB 2 0 with sibs := [{ sib with wait := .barw 0x40 0 }] }

theorem test_meets_BarinvClearsTheTag : met [
    ready (opSync 9 r0 0#7 1#7 0#7 true [srcS 1#7]) (wB 2 0), isBar (wB 2 0) 0x40,
    !((wB 2 0).sibs ++ (wB 2 0).waves.flatMap (·.parts)).any (waitsOn (wB 2 0).crew 0x40), !scratchPending (wB 2 0),
    ready (opSync 9 r0 0#7 1#7 0#7 true [srcS 1#7]) wW, !isBar wW 0x40, ready (opSync 9 r0 0#7 1#7 0#7 true [srcS 1#7]) wBw,
    isBar wBw 0x40, (wBw.sibs ++ wBw.waves.flatMap (·.parts)).any (waitsOn wBw.crew 0x40)] = true := by decide +kernel

end Sys2Proof.Tests

namespace Sys2Proof.Tests

/-! ### Hypotheses met: copies, slices, the matrix engine, rays, graphics, launches -/

/-- Bytes at an address of memory. -/
def mem (a : Nat) (b : List Byte) (s : State) : State :=
  { s with memsys := { s.memsys with bytes := placeBytes a b s.memsys.bytes } }

/-- Bytes at an offset of the scratchpad. -/
def scr (o : Nat) (b : List Byte) (s : State) : State := { s with crew := scrWrite o b s.crew }

/-- Words as 64 bytes, for descriptors. -/
def desc8 (l : List Nat) : List Byte := wordsBytes ((List.range 8).map (fun i => BitVec.ofNat 64 ((l[i]?).getD 0)))

/-- CPYL of one lane without a handle; CPYT and CPYR of one element. -/
def wCpy : State := scr 0x40 (desc8 [0x2000, 0x1000, 1]) (sset [(1, 0x40#64), (5, 0x2000#64)] (one (grant1 w0)))
def wCpyl : State := sset [(1, 0x1000#64)] wCpy

/-- A handle of bytes at 0x1000. -/
def hdl0 : Handle :=
  { base := 0x1000, extent := 64, ndim := 1, dims := [64], esz := 0, format := 0, prio := 0, tier := 0, vault := 0, pinned := false,
    key := 0, pa := 0x1000, wkey := [], granted := 0, moving := [], lastMv := 0 }
def wCpyt : State := { wCpy with ctxs := [(0, some { placedCtx with handles := [(0, some hdl0)] })] }

/-- An IMM24 control word, and one with an OPC hint. -/
def rCw (w : Nat) : Run := rImm w
def rCwOpc (w n : Nat) : Run :=
  { hints := [{ kind := 0#3, payload := BitVec.ofNat 24 w }, { kind := 3#3, payload := BitVec.ofNat 24 n }], stl := 0#2 }

/-- A copy in flight. -/
def cpy (fn ctl phase : Nat) (desc : List Byte) (lanes : List (Nat × W64 × W64)) (lines : List Nat) : Copy :=
  { ord := 0, fn := fn, ctl := ctl, trk := some 0, trks := [], bound := [], hnd := none, cwOff := 0, cwVal := 0#64, desc := desc,
    lanes := lanes, size := 4, lines := lines, phase := phase, poll := 0, ct := 0, squash := false, slice := false }

def wFly (c : Copy) : State := { one (grant1 w0) with crew := { w0.crew with copies := [c] } }

/-- 64 copies on a core. -/
def wBusy : State := { wCpy with crew := { wCpy.crew with copies := List.replicate 64 (cpy 0 0 0 [] [] []) } }

theorem test_meets_CopiesStart_cpyl : met [
    ready (opCopy 0 (rCwOpc 0 5) 0#7 1#7 0#7 (decide (ctlOpx (ctlOf (rCwOpc 0 5)) ≤ 2)) ([srcS 1#7] ++ idxUse 0#7 ++ idxUse 0#7) wCpyl) wCpyl,
    wCpyl.part.exm != 0#64, (cpylLanes (rCwOpc 0 5) 0#7 1#7 0#7 wCpyl).all (fun x => x.2.1.toNat % 4 == 0 && x.2.2.toNat % 4 == 0),
    copyClear (captured 0 (rCwOpc 0 5) [] (cpylLanes (rCwOpc 0 5) 0#7 1#7 0#7 wCpyl) 4 wCpyl) wCpyl] = true := by decide +kernel

theorem test_meets_CopiesStart : met [
    ready (opCopy 1 (rCw 0) 0#7 1#7 0#7 (ctlOpx 0 == 0) [srcS 1#7] wCpyt) wCpyt, (sreg wCpyt 1#7).toNat % 64 == 0,
    decide ((sreg wCpyt 1#7).toNat + 64 ≤ wCpyt.crew.scr), copyClear (captured 1 (rCw 0) (descOf wCpyt 1#7) [] 0 wCpyt) wCpyt,
    ready (opCopy 2 (rCw 0) 0#7 1#7 0#7 true [srcS 1#7] wCpy) wCpy, copyClear (captured 2 (rCw 0) (descOf wCpy 1#7) [] 0 wCpy) wCpy,
    ready (opCopy 2 (rCw (2 ^ 17)) 0#7 1#7 0#7 true [srcS 1#7] wCpy) wCpy, ctlHmode (2 ^ 17) == 2, (getBuf wCpy.crew 0).state == 0,
    !(captured 2 (rCw (2 ^ 17)) (descOf wCpy 1#7) [] 0 wCpy).hasCw,
    ready (opCopy 2 (rCw 0) 0#7 1#7 0#7 true [srcS 1#7] wBusy) wBusy, regionOk wBusy (captured 2 (rCw 0) (descOf wBusy 1#7) [] 0 wBusy),
    ((captured 2 (rCw 0) (descOf wBusy 1#7) [] 0 wBusy).astray wBusy).isNone, fullEngine wBusy] = true := by
  decide +kernel

/-- The control words of a fill into handle 0, with an OPC hint for CPYL, when the handle is FULL; and none, when 64 copies are under
way. -/
def wCpyFull : State := { wCpyt with crew := setBuf wCpyt.crew 0 { off := 0, size := 0x80, state := 2, count := 0 } }
def many (s : State) : State := { s with crew := { s.crew with copies := List.replicate 64 (cpy 0 0 0 [] [] []) } }
def oCpyl (r : Run) (s : State) : Op := opCopy 0 r 0#7 1#7 0#7 (decide (ctlOpx (ctlOf r) ≤ 2)) ([srcS 1#7] ++ idxUse 0#7 ++ idxUse 0#7) s
def oCpyt (r : Run) (s : State) : Op :=
  opCopy 1 r 0#7 1#7 0#7 (ctlOpx (ctlOf r) == 0 || (decide (2 ≤ ctlOpx (ctlOf r) ∧ ctlOpx (ctlOf r) ≤ 8) && ctlHmode (ctlOf r) == 1)) [srcS 1#7] s

theorem test_meets_CopiesStart_waits :
    let rf := rCwOpc (2 ^ 16) 5
    let s := sset [(1, 0x1000#64)] wCpyFull
    let t := many wCpyl
    met [
      ready (oCpyl rf s) s, ctlHmode (ctlOf rf) == 1, (getBuf s.crew (ctlHnd (ctlOf rf))).state == 2,
      (cpylLanes rf 0#7 1#7 0#7 s).all (fun x => x.2.1.toNat % 4 == 0 && x.2.2.toNat % 4 == 0),
      !(captured 0 rf [] (cpylLanes rf 0#7 1#7 0#7 s) 4 s).hasCw,
      ready (oCpyl (rCwOpc 0 5) t) t, regionOk t (captured 0 (rCwOpc 0 5) [] (cpylLanes (rCwOpc 0 5) 0#7 1#7 0#7 t) 4 t),
      ((captured 0 (rCwOpc 0 5) [] (cpylLanes (rCwOpc 0 5) 0#7 1#7 0#7 t) 4 t).astray t).isNone, fullEngine t,
      !(captured 0 (rCwOpc 0 5) [] (cpylLanes (rCwOpc 0 5) 0#7 1#7 0#7 t) 4 t).hasCw,
      ready (oCpyt (rCw (2 ^ 16)) wCpyFull) wCpyFull, (sreg wCpyFull 1#7).toNat % 64 == 0, ctlOpx (ctlOf (rCw (2 ^ 16))) == 0,
      !(captured 1 (rCw (2 ^ 16)) (descOf wCpyFull 1#7) [] 0 wCpyFull).hasCw,
      ready (oCpyt (rCw 0) (many wCpyt)) (many wCpyt), regionOk (many wCpyt) (captured 1 (rCw 0) (descOf (many wCpyt) 1#7) [] 0 (many wCpyt)),
      ((captured 1 (rCw 0) (descOf (many wCpyt) 1#7) [] 0 (many wCpyt)).astray (many wCpyt)).isNone, fullEngine (many wCpyt),
      decide ((sreg (many wCpyt) 1#7).toNat + 64 ≤ (many wCpyt).crew.scr)] = true := by decide +kernel

/-- One lane of 4 bytes from 0x1000 to 0x2000; and an ordered sum with its ticket word at 0x3000, which reads 7. -/
def cLane (lines : List Nat) : Copy := cpy 0 0 0 [] [(0, 0x1000#64, 0x2000#64)] lines
def cSum (phase : Nat) (lines : List Nat) : Copy := cpy 2 8 phase (desc8 [0x2000, 0x1000, 1, 0x3000, 7]) [] lines

/-- A copy whose lane lies outside the grants. -/
def cBad : Copy := cpy 0 0 0 [] [(0, 0x100000#64, 0x2000#64)] []

/-- A crew that halts past the drain limit; a squashed copy. -/
def wDrain : State := { wFly (cLane []) with crew := { (wFly (cLane [])).crew with halt := true }, clock := 78 * 10000 }
def cOut : Copy := { cLane [] with squash := true }

/-- The access of a copy with its answer come: of the ticket word at 0x3000, and of a write of line 64. -/
def wBack (c : Copy) (line : Nat) (op : AccOp) (v : List (Nat × W64)) : State :=
  let s := wFly c
  { s with net := [{ mkAccess s.crew line 0 false false (some 0) op (.copy 0) with
      id := 7, ans := some { bytes := v, lease := none, ct := some 9, poison := 0, failed := false }, back := true }] }

theorem test_meets_CopyEngineSteps_moves : met [
    drainEnded wDrain, wDrain.crew.cond == .resident, !drainEnded (wFly (cLane [])), findCopy (wFly cOut) 0 == some cOut, mayReplay (wFly cOut),
    !mayReplay { wFly cOut with crew := { (wFly cOut).crew with halt := true } }, copyRuns (wFly (cLane [])),
    !(sentWrites (wBack (cLane []) 64 (.write [(0, 1#64)]) []) (cLane []) 64).isEmpty,
    (sentWrites (wBack (cLane []) 64 (.write [(0, 1#64)]) []) (cLane []) 64).all (fun a => a.back && !(a.ans.map (·.failed)).getD true),
    copyRuns (wFly (cSum 0 [])), !ownDirty (wFly (cSum 0 [])) (0x3000 / 128), !aheadOn (wFly (cSum 0 [])) (cSum 0 []) (0x3000 / 128),
    (copyAccess (wFly (cSum 0 [])) 0 (0x3000 / 128) AccOp.isRead).isNone,
    (copyAccess (wBack (cSum 0 []) (0x3000 / 128) (.read 0) [(0, 7#64)]) 0 (0x3000 / 128) AccOp.isRead).any (fun a => a.back && a.ans.any (fun x =>
      !x.failed && !lineMarked x.poison 0 8 && cellsNat x.bytes 0 8 == 7)),
    (ticketCopy w0.crew.cid 0 0 (wBack (cSum 0 []) (0x3000 / 128) (.read 0) [(0, 7#64)])).isSome,
    (copyAccess (wBack (cSum 1 [64]) (0x3000 / 128) (.write [(0, 8#64)]) []) 0 (0x3000 / 128) (fun o => !o.isRead)).any (fun a => a.back && a.ans.isSome),
    (ticketCopy w0.crew.cid 0 1 (wBack (cSum 1 [64]) (0x3000 / 128) (.write [(0, 8#64)]) [])).isSome] = true := by decide +kernel

theorem test_meets_CopyEngineSteps : met [
    (cLane [64]).moved (wFly (cLane [64])), (wFly (cLane [64])).crew.cond == .resident, findCopy (wFly (cLane [])) 0 == some (cLane []),
    !(cLane []).squash, decide ((cLane [64]).ct ≤ timeOf (wFly (cLane [64]))), !(cLane []).hasCw, !(cLane []).moved (wFly (cLane [])),
    !((cLane []).open_ (wFly (cLane []))).isEmpty, (ticketCopy w0.crew.cid 0 0 (wFly (cSum 0 []))).isSome,
    (ticketCopy w0.crew.cid 0 1 (wFly (cSum 1 [64]))).isSome, ((cSum 1 [64]).todo (wFly (cSum 1 [64]))).isEmpty,
    ((cBad.errors (wFly cBad)).find? (fun y => y.why == .outsideGrants)).isSome] = true := by decide +kernel

/-- A handle in a state. -/
def wBuf (st : Nat) : State := sset [(2, 0x80#64)] { w0 with crew := setBuf w0.crew 0 { off := 0, size := 0x80, state := st, count := 0 } }

/-- An entry in queue 0. -/
def wQ : State := { w0 with crew := { w0.crew with slice := { w0.crew.slice with queues := [(0, [List.replicate 128 1#8])] } } }

theorem test_meets_BufferResults : met [
    ready (opBuf 3 r0 0#7 1#7 2#7 0#7 true [srcS 1#7, srcS 2#7] (wBuf 0)) (wBuf 0), (sreg (wBuf 0) 1#7).toNat % 128 == 0,
    (sreg (wBuf 0) 2#7).toNat % 128 == 0, (getBuf (wBuf 0).crew 0).state == 0,
    decide ((sreg (wBuf 0) 1#7).toNat + (sreg (wBuf 0) 2#7).toNat ≤ (wBuf 0).crew.scr),
    ready (opBuf 4 r0 0#7 0#7 0#7 0#7 true [] (wBuf 2)) (wBuf 2), bufReady 0 (getBuf (wBuf 2).crew 0), (wBuf 2).part.loads.isEmpty,
    ready (opBuf 4 r0 0#7 0#7 0#7 0#7 true [] (wBuf 1)) (wBuf 1), !bufReady 0 (getBuf (wBuf 1).crew 0), !(wBuf 1).part.relDone,
    ready (opBuf 5 r0 0#7 0#7 0#7 0#7 true [] (wBuf 2)) (wBuf 2), ready (opBuf 6 r0 3#7 0#7 0#7 0#7 true [dstS 3#7] (wBuf 2)) (wBuf 2),
    ready { Op.plain (wRRR 20 r0 3#7 0#7 0#7 7) r0 0 [dstV 3#7] with lims := wQ.crew.slice.has && decide ((0#7).toNat < 8) } wQ,
    !(queueOf wQ.crew 0).isEmpty,
    ready { Op.plain (wRRR 20 r0 3#7 0#7 0#7 8) r0 0 [dstS 3#7] with lims := wQ.crew.slice.has && decide ((0#7).toNat < 8) } wQ] = true := by
  decide +kernel

/-- Sparge at a slice word, with a1 = 0x1000 and a handle of 128 bytes. -/
def wA : State :=
  let s := grant1 (State.reset.withFetchWord 32 0xA8000000)
  let c : Crew := { s.crew with slice := { s.crew.slice with a := [(1, 0x1000#64), (2, 0x40#64)] } }
  { s with crew := setBuf c 0 ⟨0, 128, 0, 0⟩ }

/-- The same with its first loop open. -/
def wLoop (n : Nat) : State :=
  { wA with crew := { wA.crew with slice := { wA.crew.slice with depth := 1, cnt := [(0, n)] } } }

/-- A push whose bytes stand fixed. -/
def wPush : State := { w0 with crew := { w0.crew with slice := { w0.crew.slice with push := some (0, List.replicate 128 (0, 0, 1#8)) } } }

/-- The copy of an ACPY of 16 bytes from a1. -/
def cAcpy : Copy :=
  { ord := 0, fn := 3, ctl := 2 ^ 16, trk := none, trks := [], bound := [], hnd := some 0, cwOff := 0, cwVal := 0#64, desc := [],
    lanes := [(0, 0x1000#64, 0#64)], size := 16, lines := [], phase := 0, poll := 0, ct := 0, squash := false, slice := true }

theorem test_meets_SliceUnits : met [
    wA.agent == .sparge, spargeReady wA, wA.crew.slice.depth == 0, decide (1 ≤ (areg wA 1#7).toNat), decide ((areg wA 1#7).toNat ≤ 2 ^ 32),
    (wLoop 2).crew.slice.depth == 0 + 1, spargeReady (wLoop 2), decide (0 + 1 < cget 0 (wLoop 2).crew.slice.cnt 0),
    decide (cget 0 (wLoop 1).crew.slice.cnt 0 ≤ 0 + 1), groupOk 4#7, (affine wA 1#7 4#7).toNat == 0x1000,
    (astrmParts 0x1000).all (fun p => (astrmPlace wA p).isOk),
    roomFor wA ((astrmParts 0x1000).filterMap (fun p => match astrmPlace wA p with
      | .ok y => some y.trk
      | .error _ => none)),
    immCount (rImm 1) == 1, bufAccepts 1 (getBuf wA.crew 0), decide (16 * 1 ≤ (getBuf wA.crew 0).size), (cAcpy.astray wA).isNone,
    !fullEngine wA, (areg wA 2#7).toNat % 8 == 0, !wA.crew.copies.any (·.slice), !touchesBar wA.crew 0x40 8] = true := by
  decide +kernel

/-- The same with a copy of ACPY under way, with the handle FULL, and with a1 where ASTRM and ASIG do not go. -/
def wAcpy : State := { wA with crew := { wA.crew with copies := [cAcpy] } }
def wAfull : State := { wA with crew := setBuf wA.crew 0 ⟨0, 128, 2, 0⟩ }
def wAat (a : Nat) : State := { wA with crew := { wA.crew with slice := { wA.crew.slice with a := [(1, BitVec.ofNat 64 a)] } } }

theorem test_meets_SliceUnits_errors : met ([wAcpy, wAfull, wAat 0, wAat 4, wAat 0xFE00000000000000, wAat 0x5500000000000000].map (fun s =>
      s.agent == .sparge && spargeReady s) ++ [
    wA.crew.slice.depth != 1, (areg (wAat 0) 1#7).toNat == 0, decide (2 ^ 32 < (areg (wAat (2 ^ 32 + 1)) 1#7).toNat), groupOk 4#7, !groupOk 5#7,
    !bufAccepts 1 (getBuf wAfull.crew 0), immCount (rImm 1) == 1, immCount r0 != 1, decide ((getBuf wA.crew 0).size < 16 * 9),
    decide (0 < wA.crew.nbuf), decide (wA.crew.nbuf ≤ 127), wAcpy.crew.copies.any (·.slice), (areg wAcpy 2#7).toNat % 8 == 0,
    decide ((areg wAcpy 2#7).toNat + 8 ≤ wAcpy.crew.scr), (areg (wAat 4) 1#7).toNat % 8 != 0,
    decide ((wAat 0x5500000000000000).crew.scr < (areg (wAat 0x5500000000000000) 1#7).toNat + 8),
    (affine (wAat 4) 1#7 4#7).toNat % 16 != 0, steer (wAat 0x5500000000000000) none (affine (wAat 0x5500000000000000) 1#7 4#7) 128 == .bad,
    steer (wAat 0xFE00000000000000) none (affine (wAat 0xFE00000000000000) 1#7 4#7) 128 == .scratch 0]) = true := by decide +kernel

theorem test_meets_SliceUnits_wave : met [
    wPush.crew.cond == .resident, !noParts wPush, wPush.crew.slice.push.isSome, wPush.net.isEmpty, decide ((queueOf wPush.crew 0).length < 16),
    ready (opAccs 6 r0 0#7 1#7 (srcS 1#7 :: (List.range 16).map (fun i => srcS (BitVec.ofNat 7 i))) w0) w0, w0.crew.slice.state == 0,
    ready (opAccs 6 r0 0#7 1#7 (srcS 1#7 :: (List.range 16).map (fun i => srcS (BitVec.ofNat 7 i))) w0)
      { w0 with crew := { w0.crew with slice := { w0.crew.slice with state := 1 } } },
    ready (opAccs 7 r0 3#7 0#7 [dstS 3#7] w0) w0, clear r0 wT, wT.part.state != .trapped] = true := by decide +kernel

/-- A shape of one row at a stride of 128 (MWLD: one column), and the weights that an accepted MWLD has left. -/
def wM : State :=
  let s := sset [(1, 0x100#64), (2, 0x800000#64), (4, 0x4000000#64)] w0
  { s with crew := { s.crew with matrix := { s.crew.matrix with wlast := some (1, 0, 0, 1, 1) } } }

/-- The checks of MWLD, MSTR and MRDO, with the control words FP8, FP8, FP8 from queue 0, and OUT 0. -/
def oMwld : Op := { opMatx 0 (rImm 1) 0#7 1#7 2#7 false [srcS 1#7, srcS 2#7] with
  immMin := 1, immMax := 1, immOk := 1 / 2 ^ 12 == 0 && mfmtOk (mfmt 1) (mplanes 1) (mread 1) }
def oMstr (w : Nat) (queue : Bool) : Op :=
  { opMatx 1 (rImm w) 0#7 (if queue then 0#7 else 1#7) 2#7 true
      (if w.testBit 13 then [srcS 2#7] else [srcS (if queue then 0#7 else 1#7), srcS 2#7]) with
    lims := decide ((0#7).toNat < 4) && (!w.testBit 13 || (if queue then 0#7 else 1#7) == 0#7 || queue),
    immMin := 1, immMax := 1,
    immOk := w / 2 ^ 17 == 0 && mfmtOk (mfmt w) (mplanes w) (mread w) && (!w.testBit 12 || mfmt w == 0)
      && (w.testBit 13 || w / 2 ^ 14 % 8 == 0) }
def oMrdo : Op := { opMatx 2 (rImm 0) 0#7 1#7 4#7 true [srcS 1#7, srcS 4#7] with
  immMin := 1, immMax := 1, immOk := 0 / 2 ^ 5 == 0 && 0 % 8 != 7 && !(0 % 8 == 5 && (Nat.testBit 0 3 || Nat.testBit 0 4)),
  mods := some modRND, modOk := 0 % 8 != 5 || rndOf (rImm 0) == 0, opc := some (Nat.testBit 0 3 || Nat.testBit 0 4, srcS (opcField (rImm 0))) }

theorem test_meets_MatrixUnits : met [
    groupActive wM, wM.crew.matrix.owned, decide (wM.crew.matrix.cmds.length < 8), ready oMwld wM, shapeStride (sreg wM 2#7) == 128,
    shapeM (sreg wM 2#7) == 1, shapeNc (sreg wM 2#7) == 1, vecSize 1 0 == 128, weightClass wM == some (mclass 1), tagLast wM 0 == 0,
    ready (oMstr 1 false) wM, ready (oMstr (1 + 2 ^ 13) true) wM, wM.crew.slice.has, ready oMrdo wM,
    shapeStride (sreg wM 4#7) == 256 * outSize 0, ready (opMatx 3 r0 0#7 0#7 0#7 true []) wM,
    ready (opMatx 4 r0 0#7 1#7 2#7 true [srcS 1#7, srcS 2#7]) wM, ready (opMatx 5 r0 0#7 1#7 2#7 true [srcS 1#7, srcS 2#7]) wM,
    bfield (sreg wM 2#7) 17 16 == 0, (sreg wM 1#7).toNat % 64 == 0] = true := by decide +kernel

/-- A command of a function that was accepted at cycle 0. -/
def mc (fn ctl : Nat) : MCmd := { fn := fn, acc := 0, ctl := ctl, a := 0x100#64, b := 0x800000#64, c := 0#64, rnd := 0, rows := 0, acpt := 0, due := none }
def wCmds (l : List MCmd) (clk : Nat) : State :=
  { wM with crew := { wM.crew with matrix := { wM.crew.matrix with cmds := l } }, clock := clk }

/-- The engine owned by nobody, and one with eight commands. -/
def wNone : State := { wM with crew := { wM.crew with matrix := Matrix.reset } }
def wEight : State := { wM with crew := { wM.crew with matrix := { wM.crew.matrix with cmds := List.replicate 8 (mc 3 0) } } }

/-- Whether a command is refused for its group, for its engine, and waits behind eight commands; `o` are its checks. -/
def refusals (o : Op) : Bool :=
  ready o (act 1 wM) && !groupActive (act 1 wM) && ready o wNone && groupActive wNone && !wNone.crew.matrix.owned &&
    ready o wEight && groupActive wEight && decide (8 ≤ wEight.crew.matrix.cmds.length)

theorem test_meets_MatrixUnits_refusals : met [
    refusals oMwld, refusals (oMstr 1 false), refusals (oMstr (1 + 2 ^ 13) true), refusals oMrdo, refusals (opMatx 3 r0 0#7 0#7 0#7 true []),
    refusals (opMatx 4 r0 0#7 1#7 2#7 true [srcS 1#7, srcS 2#7]), refusals (opMatx 5 r0 0#7 1#7 2#7 true [srcS 1#7, srcS 2#7])] = true := by
  decide +kernel

/-- Operands that are not aligned, that reach beyond the reservation, and that keep no condition of the engine. -/
def wOdd : State := sset [(1, 0x101#64)] wM
def wFar : State := sset [(1, 0x10000#64)] wM
def wCond : State := sset [(2, 0#64), (4, 0#64)] wM
def wRows : State := sset [(2, 0x7F7F#64)] wM

theorem test_meets_MatrixUnits_operands : met ([oMwld, oMstr 1 false, oMrdo, opMatx 4 r0 0#7 1#7 2#7 true [srcS 1#7, srcS 2#7],
      opMatx 5 r0 0#7 1#7 2#7 true [srcS 1#7, srcS 2#7]].map (fun o =>
        ready o wOdd && groupActive wOdd && wOdd.crew.matrix.owned && ready o wFar && groupActive wFar && wFar.crew.matrix.owned) ++ [
    (sreg wOdd 1#7).toNat % 16 != 0, (sreg wFar 1#7).toNat % 64 == 0, decide (wFar.crew.scr < (sreg wFar 1#7).toNat + 64),
    ready oMwld wCond, decide (shapeStride (sreg wCond 2#7) < vecSize 1 0), shapeStride (sreg wCond 2#7) % 16 == 0,
    ready (oMstr (1 + 2 ^ 13) true) wNone, ready (oMstr 1 false) wCond, ready oMrdo wCond, decide (shapeStride (sreg wCond 4#7) < 256 * outSize 0),
    ready (opMatx 4 r0 0#7 1#7 2#7 true [srcS 1#7, srcS 2#7]) wRows, decide (128 < shapeM0 (sreg wRows 2#7) + shapeM (sreg wRows 2#7)),
    ready (oMstr (1 + 2 ^ 13) true) wRows]) = true := by decide +kernel

theorem test_meets_MatrixUnits_else : met [
    ready { opMatx 6 r0 3#7 0#7 1#7 false [dstS 3#7] with lims := decide ((1#7).toNat < 2) } wM, wM.crew.matrix.cmds.isEmpty,
    wM.part.loads.isEmpty, ready { opMatx 6 r0 3#7 0#7 1#7 false [dstS 3#7] with lims := decide ((1#7).toNat < 2) } (wCmds [mc 3 0] 0),
    !(wCmds [mc 3 0] 0).part.relDone] = true := by
  decide +kernel

theorem test_meets_MatrixEngineSteps : met [
    engineOn w0.crew.cid (wCmds [mc 3 0] 6000000), decide ((mc 3 0).start wM.crew.matrix ≤ now (wCmds [mc 3 0] 6000000)),
    decide ((mc 3 0).stands wM.crew.matrix ≤ now (wCmds [mc 3 0] 6000000)), decide ((mc 0 1).stands wM.crew.matrix ≤ now (wCmds [mc 0 1] 6000000)),
    (mc 1 (1 + 2 ^ 13)).starved (wCmds [mc 1 (1 + 2 ^ 13)] 6000000), !(mc 1 1).starved (wCmds [mc 1 1] 300),
    decide ((mc 1 1).start wM.crew.matrix ≤ now (wCmds [mc 1 1] 300)), decide (now (wCmds [mc 1 1] 300) < (mc 1 1).stands wM.crew.matrix),
    decide ((mc 1 1).rows < (mc 1 1).total), !(wCmds [mc 1 1] 300).pkg.halted,
    (mc 1 1).stands wM.crew.matrix != now (wCmds [mc 1 1] 300) + 1] = true := by decide +kernel

end Sys2Proof.Tests

namespace Sys2Proof.Tests

/-! ### Hypotheses met: rays, graphics, launches -/

/-- Words in the launch's record. -/
def launchRec (l : List (Nat × Nat)) (s : State) : State :=
  { s with launches := s.launches.map (fun x => { x with
      bytes := wordsBytes ((List.range 32).map (fun i => BitVec.ofNat 64 ((l.lookup i).getD 0))) }) }

/-- A line that L1 holds under a long lease. -/
def held (n : Nat) (b : List Byte) (s : State) : State :=
  let x : L1Line := { L1Line.none with filled := true, lease := 2 ^ 60, data := csetList 0#8 [] 0 b }
  { s with cores := [(0, { getCore s 0 with l1 := cset L1Line.none (getCore s 0).l1 n x })] }

/-- One lane with a record at 0x1000, a continuation table at 0xA000 with one entry, a BVH descriptor table at 0x8000. -/
def wRay : State := mem 0xA000 [1#8] (mem 0xA040 (desc8 [0x40000, 0, 0, 8]) (launchRec [(3, 0x8000), (4, 0xA000)] wG))

/-- The same in an any-hit and in an intersection invocation. -/
def wKind (k : CrewKind) : State := { wRay with crew := { wRay.crew with kind := k } }

theorem test_meets_RayUnits_trace : met [
    (ownStores wRay).isEmpty, !wRay.part.relDone, entryOpen wRay wRay.crew.launch 0,
    (match contEntry wRay wRay.crew.launch 0 with
      | .ok e => (nameEntry wRay.crew.launch e wRay).toOption == some wRay
      | _ => false), releaseClear 0xFFFF 4 wRay, (rayAddrs 1#7 2#7 wRay).all (fun x => unowned wRay [x.2.toNat / 128]),
    ready { opRay 0 (rHint 4 0) 3#7 1#7 2#7 (wRay.part.state != .trapped && (wRay.crew.kind != .anyhit && wRay.crew.kind != .intersect))
      [srcV 3#7, srcS 1#7, srcV 2#7] with width := some (0, 15) } wRay,
    (rayAddrs 1#7 2#7 wRay).all (fun x => x.2.toNat % 128 == 0 && decide (x.2.toNat < 2 ^ 56)),
    (failing { size := 128, scalar := false, rd := true, wr := true }
      ((rayAddrs 1#7 2#7 wRay).map (fun x => ({ lane := x.1, addr := x.2, tgt := .glob x.2.toNat false } : LaneAcc))) wRay).isEmpty,
    decide (raysHeld wRay (clusterOf wRay.crew.core) + (activeLanes wRay).length ≤ 1024),
    ready { opRay 4 (rHint 4 0) 3#7 0#7 0#7 (wRay.part.state != .trapped) [srcV 3#7] with width := some (0, 15) } wRay] = true := by decide +kernel

/-- One lane whose record at 0x1000, without a hit, stands in L1; and one with a hit on reference 0 of BVH 0. -/
def wHit (hit : Nat) : State :=
  held 32 (desc8 [0, 0, 0, 0, hit]) (held 0x100 (desc8 [0x6000, 0x9000]) (held 0x120 (desc8 []) wRay))

theorem test_meets_RayQueries_read : met ([0, 1].flatMap (fun n => [
    ready { opRay 1 (rHint 4 n) 3#7 1#7 2#7 true [dstV 3#7, srcS 1#7, srcV 2#7] with width := some (0, 7) } (wHit n),
    readsReady (unitHow false) false 128 (rHint 4 n) (rayAddrs 1#7 2#7 (wHit n)) (wHit n),
    readsReady (unitHow false) false 64 (rHint 4 n) [(0, 0x8000#64)] (wHit n),
    readsReady (unitHow false) false 32 (rHint 4 n) [(0, 0x9000#64)] (wHit n)])) = true := by decide +kernel

/-- The atomic of an LNTINV with its answer come. -/
def wLnt : State :=
  let s := sset [(1, 0#64)] wRay
  { s with net := [{ mkAccess s.crew (0x801C / 128) 0 false false none (.atomic 0 1 0 1#64 0#64) (.unit s.part.issued) with
      ans := some { bytes := [(0x1C, 0xFF#64)], lease := none, ct := none, poison := 0, failed := false }, back := true, part := 0, quads := s.part.quads }] }

theorem test_meets_RayUnits_commits : met [
    ready (opRay 2 r0 0#7 0#7 0#7 ((wKind .anyhit).part.state != .trapped && (wKind .anyhit).crew.kind == .anyhit) []) (wKind .anyhit),
    ready (opRay 3 r0 0#7 0#7 0#7 ((wKind .anyhit).part.state != .trapped && (wKind .anyhit).crew.kind == .anyhit) []) (wKind .anyhit),
    ready (opRay 7 r0 0#7 1#7 2#7 ((wKind .intersect).part.state != .trapped && (wKind .intersect).crew.kind == .intersect)
      [srcV 1#7, srcV 2#7]) (wKind .intersect)] = true := by decide +kernel

theorem test_meets_RayQueries : met [
    ready (opRay 5 r0 3#7 0#7 0#7 (decide ((0#7).toNat < 4)) [dstV 3#7]) wRay,
    ready (opRay 6 r0 0#7 1#7 0#7 true [srcS 1#7]) wLnt,
    accessClear { size := 1, scalar := true, rd := true, wr := true } [(scalarLane wLnt, 0x801C#64)] wLnt,
    (readyOf { size := 1, scalar := true, rd := true, wr := true } r0 (accsOf { size := 1, scalar := true, rd := true, wr := true }
      [(scalarLane wLnt, 0x801C#64)] wLnt) wLnt).length == 1, (ownReads wLnt).any (fun x => x.back && x.ans.isSome)] = true := by decide +kernel

/-- A ray: handed on, or in a traversal unit with a record. -/
def ray (stage : Nat) (b : List Byte) : Ray :=
  { id := 5, ctx := 0, launch := w0.crew.launch, cluster := 0, ra := 0x1000#64, pa := 0x1000, key := 0, value := 0#32, k := 0, entry := [], bytes := b,
    stage := stage, kind := .cont, ready := 0, crew := 0, ref := 0, looked := false, lkey := none, tmax0 := 0#32, reports := [],
    best := none, cands := [], last := none, many := false }
def wRays (r : Ray) : State := { mem 0x8000 (desc8 [0x6000, 0x9000, 0, 2 ^ 48]) wRay with rays := [r] }

/-- A gathered wave. -/
def gw : GWave :=
  { id := 6, cluster := 0, ctx := 0, launch := w0.crew.launch, k := 0, kind := .cont, entry := desc8 [0x40000, 0, 0, 8],
    lanes := [{ ray := 5, ra := 0x1000#64, value := 0#32, ref := 0#32 }], due := 0 }

/-- A record whose direction is 1 along x, with TMAX 1; its reserved bits set; its first number no number; TMAX below 0. -/
def rec0 : List Byte := desc8 [0, 0, 0x3F800000, 0x3F80000000000000]

/-- The same with an overflow area, and a BVH whose one leaf names a custom reference. -/
def rec1 : List Byte := desc8 [0, 0, 0x3F800000, 0x3F80000000000000, 0, 0x100]
def wCustom : State :=
  mem 0x6000 (desc8 [2 ^ 32, 0, 0, 0, 0, 0, 0, 1]) (mem 0x9000 (desc8 [0, 0, 3 * 2 ^ 32]) (wRays (ray 0 rec1)))

theorem test_meets_RaySteps_custom :
    ((traversing 5 wCustom).isSome && (earlyEnd (ray 0 rec1)).isNone && recOvf rec1 != 0 &&
      (match rayDesc wCustom (ray 0 rec1) with
        | .ok d =>
          match lookUp d (ray 0 rec1) (leaseReads (ray 0 rec1) (descRead wCustom (ray 0 rec1)) wCustom) with
          | some (q, t) =>
            let v := traverse t q d
            !v.pend.isEmpty && readsOpen wCustom q.launch (descRead wCustom (ray 0 rec1) ++ v.reads)
          | none => false
        | .error _ => false)) = true := by decide +kernel

/-- A copy owns line `n`. -/
def owned (n : Nat) (s : State) : State :=
  { s with memsys := { s.memsys with lines := [(n, { homeLine s n with owners := [(1, 0)] })] } }


/-- The key under which the Lantern looks for the ray, and the Lantern holding leaf 0 under it; a copy owns the leaf. -/
def lKey : List Nat := lanternKey 0 (recBvh rec1) 0 0 (rayO rec1) (rayD rec1)
def wLantern : State :=
  { owned (0x6000 / 128) wCustom with
    ctxs := [(0, some { placedCtx with ways := 1 })]
    clusters := [(0, { getCluster wCustom 0 with lantern := [⟨Config.lanternSet lKey % 4096, 0, lKey, 0⟩] })] }

/-- The same after the read of the descriptor. -/
def wLeased : State := leaseReads (ray 0 rec1) (descRead wLantern (ray 0 rec1)) wLantern

/-- A ray whose key the Lantern holds, on a leaf in a line that a copy owns, waits. -/
theorem test_meets_RaySteps_lantern (d : Desc) (h : rayDesc wLantern (ray 0 rec1) = .ok d) :
    lookUp d (ray 0 rec1) wLeased = none := by
  have hd : (rayDesc wLantern (ray 0 rec1)).toOption = some ⟨0x6000, 0x9000, 0, 0, 0, 0, 0, 0⟩ := by decide +kernel
  have he : (⟨0x6000, 0x9000, 0, 0, 0, 0, 0, 0⟩ : Desc) = d := by
    rw [h] at hd
    exact (Option.some.inj hd).symm
  subst he
  have hl : (getCluster wLeased 0).lantern =
    [⟨Config.lanternSet lKey % 4096, 0, lKey, 0⟩] := rfl
  have hw : waysOf wLeased 0 = [0] := by decide +kernel
  have hr : readsOpen wLeased (ray 0 rec1).launch
      ((0x6000 + 64 * 0, 64) :: ((leafRefs wLeased (ray 0 rec1)
        ⟨0x6000, 0x9000, 0, 0, 0, 0, 0, 0⟩ 0).map (testRef wLeased
          (ray 0 rec1) ⟨0x6000, 0x9000, 0, 0, 0, 0, 0, 0⟩ true)).flatMap (·.reads)) = false := by decide +kernel
  generalize wLeased = T at *
  have hk : lanternFind T (ray 0 rec1).cluster (ray 0 rec1).ctx lKey = some ⟨Config.lanternSet lKey % 4096, 0, lKey, 0⟩ := by
    unfold lanternFind
    rw [show (ray 0 rec1).cluster = 0 from rfl, show (ray 0 rec1).ctx = 0 from rfl, hl, hw]
    simp
  have hf : (recFlags (ray 0 rec1).bytes).testBit 3 = false := by decide +kernel
  have hn : (ray 0 rec1).lkey.getD (lanternKey (ray 0 rec1).ctx (recBvh (ray 0 rec1).bytes) 0 0 (rayO (ray 0 rec1).bytes)
    (rayD (ray 0 rec1).bytes)) = lKey := rfl
  unfold lookUp
  simp only [hf, hn, hk, show (ray 0 rec1).looked = false from rfl, hr]
  simp

theorem test_meets_RaySteps : met [
    (wRays (ray 1 [])).rays.find? (fun x => x.id == 5) == some (ray 1 []), ctxRuns (wRays (ray 1 [])) 0,
    !(wRays (ray 1 [])).pkg.halted, !recordOut (wRays (ray 1 [])) (ray 1 []), (ray 1 []).kind == .cont, handReady (wRays (ray 1 [])) 0 (ray 1 []),
    !handReady (owned (0xA000 / 128) (wRays (ray 1 []))) 0 (ray 1 []),
    readsOpen (wRays (ray 0 rec0)) (ray 0 rec0).launch (descRead (wRays (ray 0 rec0)) (ray 0 rec0)),
    !readsOpen (owned (0x8000 / 128) (wRays (ray 0 rec0))) (ray 0 rec0).launch (descRead (wRays (ray 0 rec0)) (ray 0 rec0)),
    (traversing 5 (owned (0x8000 / 128) (wRays (ray 0 rec0)))).isSome,
    decide ((ray 1 []).ready ≤ timeOf (wRays (ray 1 []))), (traversing 5 (wRays (ray 0 rec0))).isSome,
    (earlyEnd (ray 0 rec0)).isNone, (earlyEnd (ray 0 (desc8 [0, 0, 0, 0, 0, 2 ^ 50]))).isSome,
    (traversing 5 (wRays (ray 0 (desc8 [0, 0, 0, 0, 0, 2 ^ 50])))).isSome,
    (match rayDesc (wRays (ray 0 rec0)) (ray 0 rec0) with
      | .ok _ => true
      | .error _ => false),
    (match rayDesc { wRay with rays := [ray 0 rec0] } (ray 0 rec0) with
      | .ok _ => false
      | .error _ => true),
    ({ wRay with gwaves := [gw] }).gwaves.find? (fun x => x.id == 6) == some gw, !gw.lanes.isEmpty,
    decide (gw.due ≤ cycleOf { wRay with gwaves := [gw] } gw.cluster)] = true := by decide +kernel

theorem test_meets_GraphicsResults_rast : met [
    ready { opGfx 0 r0 4#7 8#7 12#7 [dstVs 4#7 3 4, srcS 8#7, srcS (8#7 + 1#7), srcS (8#7 + 2#7), modS 12#7] with
      lims := decide ((8#7).toNat ≤ 59) } w0] = true := by decide +kernel

/-- A texture of one level: whatever the level of detail, level 0 alone. -/
theorem levelsOf_one (x : Tex) (lod : Nat) (h : x.levels = 1) : levelsOf x lod = (0, 0, 0) := by
  have hf : ratFloor 0 = 0 := by decide +kernel
  have h0 : ((1 - 1 : Nat) : Rat) = 0 := by decide +kernel
  have hc : ∀ v : Rat, (if v < 0 then (0 : Rat) else if ((1 - 1 : Nat) : Rat) < v then ((1 - 1 : Nat) : Rat) else v) = 0 := by
    intro v
    rw [h0]
    split
    · rfl
    · split
      · rfl
      · exact Rat.le_antisymm (Rat.not_lt.1 ‹_›) (Rat.not_lt.1 ‹_›)
  unfold levelsOf
  simp only [h]
  split
  · simp only [hc, hf]
    have h1 : (0 : Rat) - ((Int.toNat 0 : Nat) : Rat) = 0 := by decide +kernel
    have h2 : min (Int.toNat 0 + 1) (1 - 1) = 0 := by decide +kernel
    split
    · rw [h1, h2]; rfl
    · simp
  · simp [Nat.mod_one]

/-- A texture of one texel, of 4 bytes, LINEAR, whose line stands in L1. -/
def wTex : State := scr 0x40 (desc8 [0x1000, 2 ^ 44, 0, 0]) (sset [(1, 0x40#64)] (held 32 (desc8 []) (one (grant1 w0))))

/-- Its taps at hand, for any level of detail. -/
theorem test_meets_GraphicsResults_tex (lod : Nat) :
    (List.range 8).all (fun k => readsReady (unitHow false) false 4 r0 ((activeLanes wTex).filterMap (fun l =>
      ((laneTaps (texOf (scrRead wTex.crew 0x40 32)) 0 0 lod)[k]?).map (fun y => (l, y.1)))) wTex) = true := by
  have h : laneTaps (texOf (scrRead wTex.crew 0x40 32)) 0 0 lod = taps (texOf (scrRead wTex.crew 0x40 32)) 0 0 0 := by
    unfold laneTaps
    rw [levelsOf_one _ lod (by decide +kernel)]
    simp
  simp only [h]
  decide +kernel

/-- A lane at pixel 0 whose id and depth are 0 and 1.0, as in the previous frame of one pixel. -/
def wRp : State :=
  { scr 0x40 (desc8 [0x1000, 0x1080, 0x1100, 0x10001]) (sset [(1, 0x40#64)]
      (held 32 (desc8 [0x3F800000]) (held 33 (desc8 []) (held 34 (desc8 []) (one (grant1 w0)))))) with
    wave := { w0.wave with v := [(17 * 64, 0x3F800000#32)] } }

theorem test_meets_GraphicsResults : met [
    ready (opGfx 2 r0 8#7 1#7 16#7 [dstVs 8#7 4 4, srcS 1#7, srcVs 16#7 2 4]) wTex,
    ready (opGfx 3 r0 8#7 1#7 16#7 [dstVs 8#7 4 4, srcS 1#7, srcVs 16#7 3 4]) wTex, texOk (scrRead wTex.crew 0x40 32),
    ready { opGfx 1 r0 8#7 1#7 16#7 [dstVs 8#7 4 4, srcS 1#7, srcVs 16#7 4 4, dstM (BitVec.ofNat 7 (mselOf r0))] with
      mods := some modMSEL } wRp, (sreg wRp 1#7).toNat % 64 == 0, decide ((sreg wRp 1#7).toNat + 64 ≤ wRp.crew.scr),
    (activeLanes wRp).filter (fun l => (reprojOf wRp 16 l).inside (scrRead wRp.crew 0x40 64)) == [0],
    readsReady (unitHow false) false 4 r0 [(0, 0x1080#64)] wRp, readsReady (unitHow false) false 4 r0 [(0, 0x1000#64)] wRp,
    readsReady (unitHow false) false 16 r0 [(0, 0x1100#64)] wRp] = true := by decide +kernel

theorem test_meets_RasterSamplesAreCovered :
    (samples [(0, 0), (0, 2048), (2048, 0)] [0, 1] (coveredFrom [(0, 0), (0, 2048), (2048, 0)] 0)).1 ≠ [] ∨
      (samples [(0, 0), (2048, 0), (0, 2048)] [0, 1] (coveredFrom [(0, 0), (2048, 0), (0, 2048)] 0)).1 ≠ [] := by decide +kernel

/-- A queue 3 of the context whose header stands at 0x7000 (DEV 1, LOGSZ 4), with `n` records in its ring. -/
def wQu (dev n : Nat) : State :=
  let s := mem 0x7000 (desc8 [0x7100, 4 + dev * 2 ^ 16, n, 0]) (sset [(1, 0x1000#64), (2, 3#64)] (one (grant1 w0)))
  let come := fun (line : Nat) => { mkAccess s.crew line 0 false false none (.read 0) (.unit s.part.issued) with
    id := line, ans := some { bytes := [], lease := none, ct := none, poison := 0, failed := false }, back := true, part := 0, quads := s.part.quads }
  { s with ctxs := [(0, some { placedCtx with queues := [(3, 0x7000#64)] })], net := [come 32, come 33] }

theorem test_meets_LaunchUnits_lnch : met ([(0, 0), (1, 16)].flatMap (fun x => let s := wQu x.1 x.2
    [ready (opLaunch 0 r0 5#7 1#7 2#7 true [dstS 5#7, srcS 1#7, srcS 2#7]) s, queueHdr s 0 3 == some 0x7000#64,
      viaOk s (some 0) 0x7000 64 true true, (qheadAt s (some 0) 0x7000).map (fun q => (q.dev, q.tail)) == some (x.1 == 1, x.2),
      releaseClear 0xFFFF 4 s, (ownStores s).isEmpty]) ++
    [readsReady (unitHow true) true 128 r0 [(0, 0x1000#64)] (wQu 1 16), readsReady (unitHow true) true 128 r0 [(0, 0x1080#64)] (wQu 1 16)]) =
    true := by decide +kernel

theorem test_meets_LaunchUnits : met [
    ready (opLaunch 0 r0 5#7 1#7 2#7 true [dstS 5#7, srcS 1#7, srcS 2#7]) (sset [(2, 256#64)] w0), decide (255 < (sreg (sset [(2, 256#64)] w0) 2#7).toNat),
    ready (opLaunch 0 r0 5#7 1#7 2#7 true [dstS 5#7, srcS 1#7, srcS 2#7]) w0, (queueHdr w0 0 0).isNone, releaseClear 0xFFFF 4 w0,
    ready (opLaunch 1 r0 0#7 1#7 3#7 (decide ((3#7).toNat < 4)) [srcS 1#7]) w0, ready (opLaunch 2 r0 0#7 1#7 3#7 (decide ((3#7).toNat < 4)) [srcS 1#7]) w0,
    ready (opLaunch 3 r0 0#7 1#7 0#7 (decide ((0#7).toNat < 2)) [srcS 1#7]) w0, !debugged w0,
    ready (opLaunch 3 r0 0#7 1#7 0#7 (decide ((0#7).toNat < 2)) [srcS 1#7]) wDbg, debugged wDbg,
    ready (opLaunch 3 r0 0#7 1#7 1#7 (decide ((1#7).toNat < 2)) [srcS 1#7]) wDbg, (getEmber wDbg 0 0).tag.isNone,
    ready (opLaunch 4 r0 0#7 1#7 2#7 true [srcS 1#7, srcS 2#7]) w0] = true := by decide +kernel

end Sys2Proof.Tests

namespace Sys2Proof.Tests

/-! ### Hypotheses met: timers, homes, answers -/

/-- The part in focus at the witness. -/
def p0 : PartRef := { crew := w0.crew.cid, wave := 0, part := 0 }

/-- The part in a state with a timer that has run out, or in a wait. -/
def wTimer (st : PartState) (w : Wait) : State :=
  { wT with clock := 6000, part := { wT.part with state := st, timer := some 5, waitAt := 0x40000#64, wait := w } }

/-- A load of which the second quad waits; the same with NOSPLIT. -/
def wMiss (stay : Bool) : State :=
  { w0 with clock := 6000, part := { w0.part with nosplit := stay, loads := [{ ld1 with timer := some 5, lanes := [{ lane := 4, acc := 7, off := 0, fixed := [] }] }] } }

/-- At a WAITA whose limit has passed: its hints and its word at 0x40000. -/
def wLate : State :=
  let u := (encode (.waita rW 3#7 1#7 2#7)).getD []
  { mem 0x40000 (u.flatMap bytesOfWord) (wTimer .run (.waita 5)) with wave := { wT.wave with tvec := 0#64 } }

theorem test_meets_TimerSteps : met ([true, false].flatMap (fun b => [(livePart p0 (wMiss b)).isSome, (wMiss b).part.loads.any (fun x => x.timer == some 5),
      decide (5 < now (wMiss b)), (wMiss b).part.state != .halted, freeSetAt 5 (wMiss b), waitingQuads { ld1 with lanes := [{ lane := 4, acc := 7, off := 0, fixed := [] }] } (wMiss b) == 2]) ++
    [(wTimer .joinwait .none, Wait.none), (wTimer .fusewait .none, Wait.none), (wTimer .run (.cycles 5), .cycles 5), (wTimer .run .icinv, .icinv),
      (wLate, .waita 5)].flatMap (fun x => [(livePart p0 x.1).isSome, decide (5 < now x.1), x.1.part.wait == x.2]) ++
    [(presentAt 0 0x40000#64 (wTimer .joinwait .none)).all (fun q => q.timer == none || q.timer == some 5),
      (wTimer .fusewait .none).part.state != .trapped, pcField (wTimer .fusewait .none).wave.tvec != 0#64]) = true := by decide +kernel

theorem test_meets_TimerSteps_icinv : met [({ p0 with crew := 1 }).crew != 0, { p0 with crew := 0 } == { p0 with crew := 0 },
    ({ w0 with icinvs := [⟨1, 0, 0#64, 0#64⟩] }).icinvs == [⟨1, 0, 0#64, 0#64⟩],
    (livePart { crew := 1, wave := 0, part := 0 } { wTimer .run .icinv with crew := { w0.crew with cid := 1 } }).isSome] = true := by decide +kernel

/-- Whether a result holds a value that a test accepts. -/
def okAnd {α β : Type} (f : β → Bool) (x : Except α β) : Bool :=
  match x with
  | .ok b => f b
  | .error _ => false

theorem test_meets_TimerSteps_waita :
    okAnd (fun x => (rejectRun x.1).isNone && fMaj x.2.1 == 19#5 && decodeSync { hints := x.1, stl := fStl x.2.1 } x.2.1 == some (.waita rW 3#7 1#7 2#7) &&
      ready (opWaita rW 3#7 1#7 2#7) x.2.2 && x.2.2.part.wait == .waita 5 && decide (5 ≤ now x.2.2)) (nextUnit { wLate with agent := .wave }) = true := by
  decide +kernel

theorem test_meets_TimerSteps_waita_fails :
    okAnd (fun x => sreg x.2.2 1#7 &&& 7#64 == 0#64 && decide ((sreg x.2.2 1#7).toNat + 8 ≤ x.2.2.crew.scr) && !x.2.2.part.relDone &&
      !scratchPending x.2.2 && !waitHolds ((widthHint rW).getD 0) (scrWord x.2.2 (sreg x.2.2 1#7).toNat) (sreg x.2.2 2#7))
      (nextUnit { sset [(2, 7#64)] wLate with agent := .wave }) = true := by decide +kernel

/-- An access of the crew to a line of memory. -/
def acc1 (op : AccOp) (use : AccUse) : Access :=
  { mkAccess w0.crew 32 0 false false (some 3) op use with id := 7, part := 0 }
def wNet (a : Access) : State := { w0 with net := [a] }

theorem test_meets_HomeAccesses : met ([AccOp.read 400, .write [(0, 1#64)], .atomic 0 4 0 1#64 0#64, .atomic 12 4 0 0#64 0#64].flatMap (fun op =>
    let a := acc1 op .load
    [(wNet a).net.find? (fun x => x.id == a.id && x.ans.isNone) == some a, homeReady (wNet a) a, allotOk (wNet a) a,
      !readsPoison (wNet a) a])) = true := by decide +kernel

/-- The access of a copy to a line of a vault of which its context is allotted nothing. -/
def shut1 : Access := { acc1 (.read 0) (.copy 0) with vault := true }

theorem test_meets_HomeAccesses_shut : met [
    (wNet shut1).net.find? (fun x => x.id == 7 && x.ans.isNone) == some shut1, homeReady (wNet shut1) shut1,
    !allotOk (wNet shut1) shut1] = true := by decide +kernel

theorem test_meets_HorizonsRise_leased : met ([true, false].flatMap (fun lent =>
    let a := acc1 (.atomic 0 4 0 1#64 0#64) .load
    let s := if lent then (perform (acc1 (.read 400) .load) w0).1 else w0
    [a.isAtomic, leasedNow s a.line == lent, !remoteLine a.line]) ++ [remoteLine (2 ^ 40)]) = true := by decide +kernel

theorem test_meets_HorizonsRise :
    (acc1 (.read 0) .load).op = .read 0 ∧ (acc1 (.write [(5, 1#64)]) .store).op = .write [(5, 1#64)] ∧ [(5, (1#64 : W64))] ≠ [] ∧
      (acc1 (.atomic 0 4 4 0#64 0#64) .load).op = .atomic 0 4 4 0#64 0#64 ∧ 4 < 128 := by decide +kernel

/-- An answer of a store; a load whose bytes are fixed; a store to be reported. -/
def ans1 : Answer := { bytes := [], lease := none, ct := some 99, poison := 0, failed := false }
def wAns : State := wNet { acc1 (.write [(0, 1#64)]) .store with ans := some ans1 }
def ll1 : LaneLoad := { lane := 2, acc := 0, off := 0, fixed := [(0, 1#64), (1, 2#64), (2, 3#64), (3, 4#64)] }
def wLoaded : State := { w0 with part := { w0.part with loads := [{ ld1 with lanes := [ll1] }] } }

/-- The same for the sizes and kinds that a load has. -/
def llN (n : Nat) : LaneLoad := { lane := 2, acc := 0, off := 0, fixed := (List.range n).map (fun i => (i, BitVec.ofNat 64 i)) }
def wLoadedAs (k : LoadKind) : State := { w0 with part := { w0.part with loads := [{ ld1 with kind := k, lanes := [llN k.size] }] } }

theorem test_meets_AnswersArrive_sizes : met ([LoadKind.vec 1 true, .vec 2 false, .vec 4 false, .vec 8 false, .vec 16 false, .scalar 4, .scalar 8].flatMap
    (fun k => [(livePart p0 (wLoadedAs k)).isSome, (wLoadedAs k).part.loads.any (fun l => l.kind == k && !l.lanes.isEmpty &&
      decide (l.lanes.map (·.lane)).Nodup && l.lanes.all (fun x => (x.bytes (wLoadedAs k) k.size).isSome && decide (x.lane < 64)))])) = true := by
  decide +kernel

theorem test_meets_AnswersArrive : met [
    wAns.net.any (fun x => x.id == 7 && !x.back && x.ans == some ans1 && x.use == .store && x.trk == some 3 && x.crew == wAns.crew.cid),
    wAns.crew.cond == .resident, (livePart p0 wLoaded).isSome, (ll1.bytes wLoaded 4).isSome, ([ll1].map (·.lane)).Nodup,
    wSt.crew.stores.find? (fun y => y.id == st1.id) == some st1, st1.fault.isNone, !st1.accs.any (onWay wSt),
    ({ st1 with fault := some 3 }).fault == some 3, decide (wSt.crew.sfq.length < 8), turnFree (16 * st1.wave + st1.part) wSt,
    !wSt.crew.stores.any (fun y => y.wave == st1.wave && y.part == st1.part && y.fault.isSome && decide (y.id < st1.id)),
    (livePart p0 { w0 with part := { w0.part with wait := .release [] [] 1 } }).isSome, released [] [] (maskTrks 1) w0] = true := by decide +kernel

theorem test_meets_TalwFollowsItsSample : (31 < 32 ∧ w0.pkg.powered = true ∧ (-2048 : Int) ≤ (List.replicate 15 480).foldl max (-480) ∧
    (List.replicate 15 480).foldl max (-480 : Int) < 2048) ∧ (List.replicate 15 (480 : Int)).length = 15 ∧
    (cget Vault.reset w0.vaults 31).next ≤ timeOf w0 ∧ (∀ r ∈ (-480 : Int) :: List.replicate 15 480, r ≤ 480) ∧ bfield (cget Vault.reset w0.vaults 31).talw 33 32 ≤ 2 := by decide +kernel

theorem test_meets_RefreshThresholds : (420 < (421 : Int) ∧ (420 : Int) ≤ 420 ∧ 380 < (381 : Int) ∧ (381 : Int) ≤ 420 ∧ 340 < (341 : Int) ∧ (341 : Int) ≤ 380) ∧
    (nextMult 1 false true 332).1 < 1 ∧ (nextMult 2 false true 372).1 < 2 := by decide +kernel

/-- A cluster of the witness. -/
def wCl (f : Cluster → Cluster) : State := setCluster w0 3 (f (getCluster w0 3))

/-- A taper ramp. -/
def ramp1 : Ramp := { ctx := 0, queue := 0, entry := 0#64, cycles := 0, amps := 10, time := 0, seen := true }

theorem test_meets_PowerSteps : met [
    !w0.pkg.halted, ({ w0.pkg with tripDue := some 5 }).tripDue == some 5, (getCluster (wCl (fun c => { c with tripped := true })) 3).tripped,
    decide ((getCluster (wCl (fun c => { c with tripped := true })) 3).holdEnd ≤ cycleOf (wCl (fun c => { c with tripped := true })) 3),
    !(getCluster (wCl (fun c => { c with tripped := true })) 3).gctl.getLsbD 1, (getCluster (wCl (fun c => { c with planDue := true })) 3).planDue,
    (getCluster (wCl (fun c => { c with target := some 40 })) 3).target == some 40, decide (-40 ≤ biasCode (getCluster w0 3)),
    decide (biasCode (getCluster w0 3) ≤ 40), (getCluster (wCl (fun c => { c with ramp := some ramp1, estimate := 20 })) 3).ramp == some ramp1,
    decide (ramp1.amps ≤ (getCluster (wCl (fun c => { c with ramp := some ramp1, estimate := 20 })) 3).estimate),
    decide (({ seq := 1, watts := 900, expiry := 0 } : Cap).expiry ≤ timeOf w0), w0.pkg.powered,
    (getEmber (setEmber 0 0 { Ember.reset with interval := 8, count := 8 } w0) 0 0).interval == 8, (getEmber w0 0 0).tag.isNone,
    (getEmber (setEmber 0 0 { Ember.reset with tag := some ⟨0, 0, 0, 0, 0#64, 0, 0, none, 0, false, []⟩ } w0) 0 0).tag.isSome,
    decide (16 ≤ (recentTrips (wCl (fun c => { c with trips := List.replicate 16 0 })) 3).length)] = true := by decide +kernel

theorem test_meets_PowerSteps_clauses : met [
    -- Droop: past the depth, at it, and the clock's next boundary before and after a hold.
    cget [] ({ w0 with rails := [(3, [(51, 4), (50, 1)])] }).rails 3 == [(51, 4), (50, 1)],
    decide (5 * max 4 (bfield (getCluster w0 3).gctl 15 8) < 51), decide (50 ≤ 5 * max 4 (bfield (getCluster w0 3).gctl 15 8)),
    (getCluster w0 3).shift.isNone, !(getCluster w0 3).halve, !(getCluster w0 3).gctl.getLsbD 0, (getCluster w0 3).len == cycleLen (getCluster w0 3),
    (getCluster (wCl (fun c => { c with tripped := true, len := 120 })) 3).len == 2 * 60, !(getCluster w0 3).bbias.getLsbD 16,
    (getCluster (wCl (fun c => { c with shift := some 0 })) 3).shift == some 0, decide (0 ≤ w0.clock),
    -- Bias, taper.
    decide ((getCluster w0 3).nextPlan ≤ timeOf w0), decide ((getCluster w0 3).stepAt ≤ timeOf w0), !(getCluster w0 3).planEnd,
    decide ((getCluster w0 3).nextEst ≤ timeOf w0), ramp1.seen,
    -- What comes by the clock.
    decide (w0.pkg.nextScrub ≤ timeOf { w0 with clock := 78 * 43200000000000 }), decide (w0.pkg.nextPower ≤ timeOf { w0 with clock := 78 * 100000 }),
    decide (w0.pkg.nextHour ≤ timeOf { w0 with clock := 78 * 3600000000000 })] = true := by decide +kernel

/-! ### Hypotheses met: the scheduler, the host, the fabric -/

/-- Slot 1 mapped to queue 0 of context 0. -/
def slot1 : Slot := { Slot.none with queue := 0, ctx := 0, mapped := true, quantum := 100, hdr := 0x7000#64 }
def wSl : State := setSlot w0 1 slot1

/-- A launch that has not placed its crew; one that has not started, with its record at 0x9000. -/
def wNext (ov : Bool) : State :=
  { wSl with launches := wSl.launches.map (fun l => { l with next := 0 }), pkg := { wSl.pkg with power := if ov then 5000 else 0 } }
def wHead (shape : Nat) : State :=
  { launchRec [(0, 0x40000), (5, shape)] wSl with launches := (launchRec [(0, 0x40000), (5, shape)] wSl).launches.map (fun l => { l with
      started := false, passed := false, addr := 0x9000#64 }) }

theorem test_meets_SchedulerSteps : met [
    (getSlot wSl 1).mapped, ctxRuns wSl 0, !wSl.pkg.halted, (nextCrew wSl 0 0).isNone, (nextCrew (wNext true) 0 0).isSome,
    decide (budget (wNext true) < (wNext true).pkg.power), (nextCrew (wNext false) 0 0).isSome, decide ((wNext false).pkg.power ≤ budget (wNext false)), ctxRuns (wNext true) 0,
    (headOf (wHead 0) 0 0).isSome, !(recordOk placedCtx (launchBytes (wHead 0) w0.crew.launch)), (headOf (wHead 8) 0 0).isSome,
    recordOk placedCtx (launchBytes (wHead 8) w0.crew.launch), (headOf (testHeads 0 (wHead 8)) 0 0).any (·.passed), queueFree (testHeads 0 (wHead 8)) 0 0,
    !(launchBytes (wHead 8) w0.crew.launch).isEmpty] = true := by decide +kernel

/-- The crew with all parts retired, without and with a DIRTY line; with its part halted. -/
def wGone : State := { w0 with part := Machine.Part.none, wave := { w0.wave with parts := [] } }
def wDirty : State := (putDirty 0 w0.crew.cid 0 0 false false 0x1000 [1#8] wGone).getD wGone
def wHalted : State := { w0 with crew := { w0.crew with halt := true }, part := { w0.part with state := .halted } }

/-- A pre-emption under way with no crew on a core; a dump that waits to begin, and one whose header has been answered. -/
def wPre : State := { w0 with crew := { w0.crew with cond := .swapped }, ctxs := [(0, some { placedCtx with preempt := 1, ptag := some ⟨1, 0, 0#64, 0#64⟩ })] }
def wDump (ph : Nat) (pre : Bool := false) (left : List Byte := []) : State :=
  let d : Dump := { wave := 0, part := 0, next := 0#64, dreg := 3, addr := 0x1000#64, limit := 0#64, start := 0, time := 0, halts := [],
                    copies := [], preempt := pre, phase := ph, left := left, starts := [], bytes := 0, nsect := 0, lim := false, fault := false }
  { wH with crew := { wH.crew with dump := some d }, part := { wH.part with wait := .dump } }
def wMoveTo (tier : Nat) (s : State) : State :=
  { s with ctxs := [(0, some { placedCtx with handles := [(0, some { hdl0 with tier := 2, moving := [(tier, 0, none)] })] })] }
def wMove : State :=
  { w0 with ctxs := [(0, some { placedCtx with handles := [(0, some { hdl0 with moving := [(0, 0, none)] })] })] }

/-- Granted, to host memory; into a closed vault. -/
def wStay (b : Bool) : State :=
  if b then wMoveTo 3 { w0 with launches := w0.launches.map (fun l => { l with grants := [{ base := 0, size := 0x100000, hdl := some 0, gw := true, gr := true }] }) }
  else wMoveTo 0 { w0 with vaults := [(0, { Vault.reset with talw := 0x80000000#64 })] }

theorem test_meets_SchedulerSteps_leave : met [
    noParts wGone, settledCrew wGone, (dirtyLines wGone 0 wGone.crew.cid (fun _ => true)).isEmpty, noParts wDirty,
    !(dirtyLines wDirty 0 wDirty.crew.cid (fun _ => true)).isEmpty,
    (dirtyLines wDirty 0 wDirty.crew.cid (fun _ => true)).all (fun l => outRoom wDirty wDirty.crew.cid (getL1 wDirty 0 l).trk),
    !noParts wHalted, (dirtyLines wHalted 0 wHalted.crew.cid (fun _ => true)).isEmpty, quiet wHalted, leftAlone wHalted, wHalted.crew.halt,
    (residentOf wPre 0).isEmpty, (getCtx wPre 0).any (fun c => c.preempt == 1 && !c.freeing && c.ptag.isSome),
    (getHandle wMove 0 0).any (fun h => inTier 0 0 h && h.moving == [(0, 0, none)]), isGranted (wStay true) 0 0,
    (getHandle (wStay true) 0 0).any (fun h => h.moving == [(3, 0, none)]),
    (getHandle (wStay false) 0 0).any (fun h => h.moving == [(0, 0, none)] && shutOut (wStay false) 0 0 h)] = true := by decide +kernel

theorem test_meets_SchedulerSteps_dump : met ([0, 2].flatMap (fun ph =>
    let u := focusWave (wDump ph) 0 (some 0)
    [(wDump ph).crew.cond == .resident, u.crew.cid == (wDump ph).crew.cid, u.crew.cond == .resident, u.part.wait == .dump, u.part.quads.testBit 0]) ++
    [(wDump 0).crew.dump.any (fun d => dumpReady d (focusWave (wDump 0) 0 (some 0))), (wDump 0 true).crew.dump.any (·.preempt),
      dumpAnswered (focusWave (wDump 2) 0 (some 0))]) = true := by decide +kernel

theorem test_meets_SchedulerSteps_room :
    (wDump 1 false [1#8]).crew.dump.any (fun d => !blockOut (focusWave (wDump 1) 0 (some 0)) &&
      (dumpBlock d (focusWave (wDump 1 false [1#8]) 0 (some 0))).isSome) = true ∧
    (wDump 1).crew.dump.any (fun d => dumpAnswered (focusWave (wDump 1) 0 (some 0)) && (dumpHeader d (focusWave (wDump 1) 0 (some 0))).isSome) = true := by
  decide +kernel

theorem spotsOk_nil : spotsOk [] := by intro sq i; simp

theorem test_meets_PlacementKeepsCapacity : spotsOk [] ∧ (placeWaves [] [{ w0.wave with parts := [sib] }]).isSome = true :=
  ⟨spotsOk_nil, by decide +kernel⟩

theorem test_meets_HostSteps : met [
    wSl.pkg.booted, (getSlot wSl 1).mapped, ({ w0.pkg with admq := 0x1000#64 }).admq != 0#64, !State.reset.pkg.booted, w0.pkg.powered,
    bfield (0x1000#64) 5 0 == 0, bfield (0x8000000000#64) 38 0 == 0, State.reset.pkg.powered, inWindow w0 0x10000 8,
    inWindow w0 0x10000 [1#8].length, !State.reset.pkg.booting,
    plansEnded { State.reset with pkg := { State.reset.pkg with booting := true } },
    !plansEnded (setCluster { State.reset with pkg := { State.reset.pkg with booting := true } } 3 { Cluster.reset with planEnd := true })] = true := by
  decide +kernel

/-- Port 2 up; an access to a fabric line. -/
def wPort : State := { w0 with clock := 78 * 10000000, fabric := { w0.fabric with capsrc := 4, ports := [(2, { Port.none with up := true })] } }
def far1 : Access := { acc1 (.read 400) .load with line := 2 ^ 40, port := 2 }

/-- An inbound window; quotes held at the port; a lease of the line in this cycle. -/
def wIn (s : State) : State := { s with fabric := { s.fabric with inbound := [(0, (0#64, 0x10000#64, 0xE000FFFF00000000#64))] } }
def wQuotes (n : Nat) : State := { wPort with fabric := { wPort.fabric with ports := [(2, { Port.none with up := true, quotes := List.replicate n [] })] } }
def wLent : State := (perform { acc1 (.read 400) .load with line := 32 } (wIn wPort)).1
def peerAt : PeerAccess := { peer := 1, pa := 0x1000, op := .atomic 0 false 1#64 0#64 }

/-- A peer that reads what an inbound window lets in. -/
def peer1 : PeerAccess := { peer := 1, pa := 0x1000, op := .read 64 0 }

theorem test_meets_FabricSteps : met [
    portUp wPort 2, (inboundFor peer1 wPort).isNone, decide ((getPort wPort 2).lastSync + 10000000 ≤ timeOf wPort), !wPort.pkg.halted,
    decide ((getPort wPort 2).quotes.length ≤ 4), wPort.fabric.capsrc.testBit 2, (wNet far1).net.any (fun x => x.ans.isNone && x.port != 16),
    remoteLine far1.line, decide (far1.sent + 200000 ≤ timeOf { wPort with net := [far1] }), (inboundFor peer1 { wPort with fabric := { wPort.fabric with
      inbound := [(0, (0#64, 0x10000#64, 0xA000FFFF00000000#64))] } }).isSome, wPort.memsys.lines.isEmpty,
    decide (wPort.fabric.nextSync ≤ timeOf wPort), inOrder (wNet far1) far1, (inboundFor peerAt (wIn wPort)).isSome, (inboundFor peerAt wLent).isSome,
    leasedNow wLent 32, !leasedNow (wIn wPort) 32, wLent.memsys.lines.all (fun x => x.2.owners.isEmpty), portUp wLent 2,
    !(getPort (wQuotes 3) 2).quotes.isEmpty, decide ((getPort (wQuotes 3) 2).quotes.length < 4), decide (4 ≤ (getPort (wQuotes 4) 2).quotes.length),
    portUp (wQuotes 4) 2] = true := by decide +kernel

end Sys2Proof.Tests

namespace Sys2Proof.Tests

/-! ### Hypotheses met: commands -/

/-- A command of a code and a form from a slot, with CPLA 0 and its words from the third on. -/
def cmd (slot code form : Nat) (l : List W64) : Cmd := { slot := slot, words := [BitVec.ofNat 64 (code + form * 2 ^ 32), 0#64] ++ l }

/-- Whether such a command is accepted. -/
def takesIt (slot code form : Nat) (l : List W64) (o : Origin) (used : List W64) (s : State) : Bool :=
  accepts (cmd slot code form l) code form o used s

/-- The witness with slot 1 mapped, a handle, a queue header at 0x7000 and a captured record at its HEAD. -/
def wCmd : State :=
  let s := mem 0x7000 (desc8 [0x7100, 4 + 2 ^ 16]) wSl
  { s with ctxs := [(0, some { placedCtx with handles := [(1, some { hdl0 with base := 2 ^ 50 })], caught := [(0x7000#64, 0, [1#8])] })] }

theorem test_meets_CommandCompletion : met [
    takes w0 { slot := 0, words := [0x04#64, 8#64] }, bfield (8#64) 3 0 != 0, takes w0 { slot := 0, words := [0x104#64, 0#64] },
    bfield (0x104#64) 31 8 != 0, takes wSl (cmd 1 0x04 0 []), (cmd 1 0x04 0 []).slot != 0, takes w0 (cmd 0 0x04 0 [0x40#64]),
    !payloadOk (cmd 0 0x04 0 [0x40#64]) [0x3F#64], takes w0 (cmd 0 0x09 0 [5#64]), payloadOk (cmd 0 0x09 0 [5#64]) [0x3F#64],
    (getCtx w0 5).isNone, Cmd.code (cmd 0 0x09 0 [5#64]) == 0x09, Cmd.form (cmd 0 0x09 0 [5#64]) == 0] = true := by decide +kernel

/-- The codes and forms of the commands, each from a queue that may not bring it when there is one, with a payload bit set outside,
and with a context that does not exist. -/
theorem test_meets_CommandChecks : met ([(0x01, 0), (0x01, 1), (0x02, 0), (0x02, 1), (0x03, 0), (0x04, 0), (0x05, 0), (0x05, 1), (0x05, 2), (0x06, 0),
    (0x07, 0), (0x07, 1), (0x07, 2), (0x07, 3), (0x08, 0), (0x09, 0), (0x09, 1), (0x0A, 0), (0x0A, 8), (0x0B, 0), (0x0B, 1), (0x0C, 0),
    (0x0D, 0), (0x0D, 1), (0x0D, 2), (0x0D, 3), (0x0E, 0)].flatMap (fun x =>
      let c := cmd 1 x.1 x.2 []
      [takes wSl c, Cmd.code c == x.1, Cmd.form c == x.2, bfield (Cmd.word c 1) 3 0 == 0, bfield (Cmd.word c 0) 47 40 == 0,
        bfield (Cmd.word c 0) 31 8 == 0]) ++
    [!Origin.admin.allows (cmdVia wSl (cmd 1 0x04 0 [])), !Origin.user.allows (cmdVia w0 (cmd 0 0x01 0 [])),
      Origin.both.allows (cmdVia w0 (cmd 0 0x02 0 [])), !payloadOk (cmd 1 0x07 3 [0x1000#64]) [0xFFF#64],
      payloadOk (cmd 0 0x06 0 [9#64]) [0x3F#64], (getCtx w0 9).isNone]) = true := by decide +kernel

theorem test_meets_QueueCommands_events : met [
    takesIt 1 0x01 0 [0x9000#64] .user [-1#64] wCmd, takesIt 1 0x01 1 [0x9000#64] .user [-1#64] wCmd,
    (getCtx wCmd 0).any (fun x => x.caught.any (fun e => e.1 == (getSlot wCmd 1).hdr &&
      (qheadAt wCmd (some 0) (getSlot wCmd 1).hdr.toNat).map (·.head) == some e.2.1)),
    takesIt 1 0x02 0 [3#64, 5#64, 0#64] .both [-1#64, -1#64, -1#64] wCmd, takesIt 0 0x02 1 [3#64, 5#64, 0#64] .both [-1#64, -1#64, 0x3F#64] wCmd,
    takesIt 0 0x03 0 [0x0102#64, 0x7000#64, 0#64] .admin [0x00000000003FFF3F#64, -1#64, -1#64] wCmd, !(getSlot wCmd 2).mapped,
    (slotOf wCmd 0 1).isNone, viaOk wCmd (some 0) 0x7000 64 true true, (qheadAt wCmd (some 0) 0x7000).isSome,
    takesIt 0 0x04 0 [1#64] .admin [0x3F#64] wCmd, (getSlot wCmd 1).mapped] = true := by decide +kernel

/-- A release that waits, and one that waits for an earlier write. -/
def wPost (b : Bool) : State :=
  { w0 with pkg := { w0.pkg with posts := if b then [⟨none, 0x1000, [1#8], 3, none⟩] else [], lampCt := if b then 0 else 2 ^ 40 } }

theorem test_meets_CompletionsRaiseTheVector : met [
    w0.pkg.posts.isEmpty, lampSettled w0, (0x10#64 : W64) != 0#64, !(wPost true).pkg.posts.isEmpty, lampSettled (wPost true), !lampSettled (wPost false),
    !lampSettled { wPost true with pkg := { (wPost true).pkg with lampCt := 2 ^ 40 } }] = true := by decide +kernel

/-- The context under a pre-emption that is done. -/
def wOff : State := { wCmd with ctxs := [(0, some { placedCtx with preempt := 2 })] }

theorem test_meets_QueueCommands_contexts : met [
    takesIt 0 0x05 0 [0x10000#64] .admin [-1#64, -1#64, -1#64, -1#64, 0x7#64] wCmd, (getCtx wCmd 1).isNone, (getCtx wCmd 0).isSome, isMem wCmd 0x10000,
    takesIt 0 0x05 0 [0x10000#64, 0x40000#64, 0x41000#64, 0x1000#64] .admin [-1#64, -1#64, -1#64, -1#64, 0x7#64] wCmd,
    ctxOk (setCtx wCmd 1 (some (newCtx (cmd 0 0x05 0 [0x10000#64, 0x40000#64, 0x41000#64, 0x1000#64])))) 1 0x40000 64 false false,
    ctxOk (setCtx wCmd 1 (some (newCtx (cmd 0 0x05 0 [0x10000#64, 0x40000#64, 0x41000#64, 0x1000#64])))) 1 0x41000 1 false false,
    takesIt 0 0x05 1 [5#64, 3#64, 0#64] .admin [0x0000000000003F1F#64, -1#64, 0x00000000FFFFFFFF#64] wCmd,
    takesIt 0 0x05 2 [0#64, 7#64] .admin [0x0000000000003F00#64, 0xF#64] wCmd, takesIt 0 0x06 0 [0#64] .admin [0x3F#64] wCmd,
    takesIt 0 0x06 0 [0#64] .admin [0x3F#64] wOff, (getCtx wOff 0).any (fun x => x.preempt == 2), takesIt 0 0x09 0 [0#64] .admin [0x3F#64] wCmd,
    takesIt 0 0x09 0 [0#64] .admin [0x3F#64] wOff, takesIt 0 0x09 1 [0#64] .admin [0x3F#64] wOff] = true := by decide +kernel

/-- A create of 256 bytes for handle 5; a launch that a GRANT names. -/
def cCreate : Cmd := cmd 1 0x07 0 [5#64, 0x40000#64, 0x100#64, 0x0000000100000040#64, 0x0000000100000001#64]
def wGr : State := { wCmd with launches := wCmd.launches.map (fun l => { l with addr := 0x9000#64 }) }

theorem test_meets_QueueCommands_handles : met [
    accepts cCreate 0x07 0 .user [0x0003FF037FFF3FFF#64, -1#64, -1#64, -1#64, -1#64] wCmd, createOk cCreate, (getHandle wCmd 0 5).isNone,
    !(allHandles wCmd).any (fun x => x.1 == 0 && decide (x.2.2.base < (createdHandle wCmd 0 cCreate).base + (createdHandle wCmd 0 cCreate).extent ∧
      (createdHandle wCmd 0 cCreate).base < x.2.2.base + x.2.2.extent)),
    (spaceFor [] (createdHandle wCmd 0 cCreate).tier (createdHandle wCmd 0 cCreate).vault 0x100 (freeSlot 1 wCmd)).isSome,
    (getHandle wCmd 0 1).isSome, takesIt 1 0x07 1 [0x300001#64] .user [0x0000000000700FFF#64] wCmd, !isGranted wCmd 0 1,
    takesIt 1 0x07 2 [0x1000001#64] .user [0x000000007F000FFF#64] wCmd, takesIt 1 0x07 3 [1#64] .user [0x0000000000000FFF#64] wCmd,
    takesIt 0 0x08 0 [0x9000#64, 0#64, 0#64, 0#64] .both [-1#64, -1#64, -1#64, 0x3F#64] wGr,
    (freeSlot 0 wGr).launches.any (fun l => l.ctx == 0 && l.addr == 0x9000#64 && l.started), (readGrants [] 0).any (·.isEmpty),
    (allGrants wGr 0 []).isSome, (promote 0 [] wGr).isSome, nameOk (freeSlot 0 wGr) 0 0x9000,
    unowned (freeSlot 0 wGr) (grantLines (freeSlot 0 wGr) 0 []), (getHandle wCmd 0 1).any (fun h => !h.pinned)] = true := by decide +kernel

/-- The admin command of a DEBUG form on context 0. -/
def dbg (form : Nat) (l used : List W64) (s : State) : Bool := takesIt 0 0x0A form (0#64 :: l) .admin (0x3F#64 :: used) s

/-- A crew that a debugger stopped. -/
def wStop : State := { wCmd with crew := { wCmd.crew with cond := .stopped, stop := some (6, 0, 0, 0, 0#64, 0#64) } }

theorem test_meets_AdminCommands_debug : met [
    dbg 0 [0x7000#64] [-1#64] wCmd, placedCtx.rights.testBit 2, !placedCtx.attached, viaOk wCmd (some 0) 0x7000 64 true true, dbg 1 [] [] wCmd,
    (allCrews wCmd).all (fun y => y.ctx != 0 || y.stop.isNone), dbg 2 [0x100#64, 0x40000#64] [0x107#64, -1#64] wCmd, (walk wCmd 0 0x40000).isSome,
    dbg 3 [0x303#64, 0x1000#64, 0x2000#64] [0x703#64, -1#64, -1#64] wCmd, bfield (0x303#64) 10 9 != 0, nameOk wCmd 0 0x1000, nameOk wCmd 0 (0x2000 - 1), dbg 4 [0#64, 0#64] [-1#64, 0x0000FFFFFFFFFFFF#64] wCmd,
    ((namedCrews (cmd 0 0x0A 4 []) wCmd).find? (fun x => x.cond != .waiting)).any (fun y => y.cond == .resident),
    dbg 5 [0#64, 0#64, 1#64] [-1#64, 0x0000FFFFFFFFFFFF#64, 0x1FF1#64] wStop, ((namedCrews (cmd 0 0x0A 5 []) wStop).find? (fun x => x.cond == .stopped)).isSome,
    dbg 6 [0x108#64, 1#64] [0x11F#64, 0x00000000FFFFFFFF#64] wCmd, dbg 7 [0x10000#64] [-1#64] wCmd, rangeOk wCmd (some 0) 0x10000 196608 true true,
    takesIt 0 0x0A 8 [0x40000#64, 0x100#64] .admin [-1#64, -1#64] wCmd, rangeOk wCmd none 0x40000 0x100 false false] = true := by decide +kernel

theorem test_meets_AdminCommands : met [
    takesIt 0 0x0B 0 [1#64, 2#64, 3#64, 4#64, 0x10000#64] .both [-1#64, -1#64, -1#64, -1#64, -1#64] wCmd, rangeOk wCmd none 0x10000 17440 false true,
    takesIt 0 0x0B 1 [7#64, 2#64, 3#64, 4#64, 5#64] .admin [-1#64, -1#64, -1#64, -1#64, -1#64] wCmd,
    takesIt 0 0x0C 0 [1#64, 900#64, 5#64] .admin [-1#64, -1#64, -1#64] wCmd,
    takesIt 0 0x0D 0 [0x10000#64, 0#64, 40#64, 0#64] .both [-1#64, 0#64, -1#64, 0x3F#64] wCmd, (getCtx wCmd 0).isSome,
    takesIt 0 0x0D 1 [0x60#64] .admin [-1#64] wCmd, (lampReg wCmd 0x60).isSome, takesIt 0 0x0D 2 [0x60#64, 1#64] .admin [-1#64, -1#64] wCmd,
    takesIt 0 0x0D 3 [0x10000#64, 0#64, 64#64] .both [-1#64, 0#64, -1#64] wCmd, takesIt 0 0x0E 0 [1#64, 0x10000#64] .admin [-1#64, -1#64] wCmd,
    (viaRead wCmd none 0x10000 64).isSome] = true := by decide +kernel

end Sys2Proof.Tests
end

section
/-! PROOFS of O2, that every step keeps memory canonical. Each function of the model that gives a state has one lemma
here, in the order in which they call one another: an update that leaves the bytes alone closes by `MemOk.frame`, a write
of bytes by the laws of memory above, and a caller by the lemmas of what it calls. -/

set_option Elab.async false

namespace Sys2Proof.Machine

variable {s t : State} {α β : Type}

/-! ### The invariant for states, outcomes, options and folds -/

/-- An update that leaves the bytes of memory keeps them canonical. -/
theorem MemOk.frame (hs : MemOk s) (h : t.memsys.bytes = s.memsys.bytes := by rfl) : MemOk t :=
  hs.of_bytes h

theorem MemOk.ite {c : Prop} {_ : Decidable c} (hs : MemOk s) (ht : MemOk t) : MemOk (if c then s else t) := by
  split
  · exact hs
  · exact ht

/-- For a step that may be taken after another one. -/
theorem MemOk.iteThen {c : Prop} {_ : Decidable c} (hs : MemOk s) (ht : MemOk s → MemOk t) :
    MemOk (if c then t else s) := .ite (ht hs) hs

/-- The invariant for an outcome: the next state, where there is one, has canonical memory. -/
def NextOk (o : Host.Outcome State Fault Refusal) : Prop := ∀ t, o = .next t → MemOk t

theorem NextOk.next (h : MemOk s) : NextOk (.next s) := by
  rintro t ⟨⟩
  exact h

theorem NextOk.fault {f : Fault} : NextOk (.fault f) := fun _ h => nomatch h

theorem NextOk.ite {c : Prop} {_ : Decidable c} {o p : Host.Outcome State Fault Refusal}
    (ho : NextOk o) (hp : NextOk p) :
    NextOk (if c then o else p) := by
  split
  · exact ho
  · exact hp

/-- The invariant for a step that may have to wait: `P` of its value, where there is one. -/
def Holds (P : α → Prop) (o : Option α) : Prop := ∀ a, o = some a → P a

namespace Holds

variable {P : α → Prop} {Q : β → Prop} {o p : Option α}

theorem none : Holds P none := fun _ h => nomatch h

theorem some {a : α} (h : P a) : Holds P (some a) := by
  rintro b ⟨⟩
  exact h

theorem ite {c : Prop} {_ : Decidable c} (ho : Holds P o) (hp : Holds P p) : Holds P (if c then o else p) := by
  split
  · exact ho
  · exact hp

theorem bind {f : α → Option β} (ho : Holds P o) (hf : ∀ {a}, P a → Holds Q (f a)) : Holds Q (o.bind f) := by
  cases o with
  | none => exact none
  | some a => exact hf (ho a rfl)

theorem map {f : α → β} (ho : Holds P o) (hf : ∀ {a}, P a → Q (f a)) : Holds Q (o.map f) := by
  cases o with
  | none => exact none
  | some a => exact some (hf (ho a rfl))

theorem mapAny {f : α → β} (hf : ∀ {a}, Q (f a)) : Holds Q (o.map f) := by
  cases o with
  | none => exact none
  | some a => exact some hf

theorem getD {a : α} (ho : Holds P o) (h : P a) : P (o.getD a) := by
  cases o with
  | none => exact h
  | some b => exact ho b rfl

end Holds

theorem foldl_memOk {f : State → α → State} (hf : ∀ {t a}, MemOk t → MemOk (f t a)) {l : List α} (h : MemOk s) :
    MemOk (l.foldl f s) := foldl_keeps (fun _ _ => hf) l s h

theorem foldl_holds {P : β → Prop} {f : Option β → α → Option β} {o : Option β}
    (hf : ∀ {o a}, Holds P o → Holds P (f o a)) {l : List α} (ho : Holds P o) : Holds P (l.foldl f o) :=
  foldl_keeps (fun _ _ => hf) l o ho

theorem foldl_fst_memOk {f : State × β → α → State × β} {x : State × β} (hf : ∀ {x a}, MemOk x.1 → MemOk (f x a).1)
    {l : List α} (h : MemOk x.1) : MemOk (l.foldl f x).1 :=
  foldl_keeps (P := fun x => MemOk x.1) (fun _ _ => hf) l x h

theorem ite_fst_memOk {c : Prop} {_ : Decidable c} {x y : State × β} (hx : MemOk x.1) (hy : MemOk y.1) :
    MemOk (if c then x else y).1 := by
  split
  · exact hx
  · exact hy

/-! ### The package's cells, records and accounts -/

theorem setCore_memOk {k : Nat} {c : Core} (h : MemOk s) : MemOk (setCore s k c) := h.frame

theorem setCtx_memOk {c : Nat} {x : Option Ctx} (h : MemOk s) : MemOk (setCtx s c x) := h.frame

theorem msix_memOk {v : Nat} (h : MemOk s) : MemOk (msix v s) := h.frame

theorem setPort_memOk {p : Nat} {x : Port} (h : MemOk s) : MemOk (setPort p x s) := h.frame

theorem sendFlit_memOk {p : Nat} {bs : List Byte} (h : MemOk s) : MemOk (sendFlit p bs s) := .ite h h.frame

theorem depart_memOk {a : Access} (h : MemOk s) : MemOk (depart a s) := sendFlit_memOk h.frame

theorem setHomeLine_memOk {line : Nat} {x : HomeLine} (h : MemOk s) : MemOk (setHomeLine s line x) := h.frame

theorem updCtx_memOk {c : Nat} {f : Ctx → Ctx} (h : MemOk s) : MemOk (updCtx s c f) := by
  unfold updCtx
  split
  · exact h.frame
  · exact h

theorem charge_memOk {ctx i n : Nat} (h : MemOk s) : MemOk (charge s ctx i n) := updCtx_memOk h

theorem putPost_memOk {x : Post} (h : MemOk s) : MemOk (putPost x s) := msix_memOk (putBytes_memOk _ _ _ h)

theorem post_memOk {x : Post} (h : MemOk s) : MemOk (post x s) := .ite (putPost_memOk h) h.frame

theorem putSlots_memOk {ctx ring size tail : Nat} {l : List (List Byte)} (h : MemOk s) :
    MemOk (putSlots ctx ring size tail l s) := by
  induction l generalizing tail s with
  | nil => exact h
  | cons b l ih => exact ih (viaWrite_memOk _ _ _ h)

theorem faultRun_memOk {ctx : Nat} {recs : List Rec} (h : MemOk s) : MemOk (faultRun ctx recs s) := by
  unfold faultRun
  split
  · exact h
  · exact .ite (.ite (post_memOk (putSlots_memOk h.frame)) (msix_memOk (viaWrite_memOk _ _ _ h.frame))) h.frame

theorem setSlot_memOk {i : Nat} {x : Slot} (h : MemOk s) : MemOk (setSlot s i x) := h.frame

theorem debit_memOk {ctx queue n : Nat} (h : MemOk s) : MemOk (debit ctx queue n s) := by
  unfold debit
  split
  · exact h.frame
  · exact h

theorem gristAdd_memOk {ctx k : Nat} {x : W64} {v : Nat} (h : MemOk s) : MemOk (gristAdd ctx k x v s) := by
  unfold gristAdd
  split
  · exact h
  · refine .ite h (foldl_memOk (fun hst => ?_) h)
    dsimp only
    split
    · exact .ite (ctxWrite_memOk _ _ _ hst) hst
    · exact hst

theorem chargeRamp_memOk {r : Ramp} (h : MemOk s) : MemOk (chargeRamp r s) :=
  gristAdd_memOk (charge_memOk (debit_memOk h))

theorem setCluster_memOk {c : Nat} {x : Cluster} (h : MemOk s) : MemOk (setCluster s c x) := h.frame

theorem endRamp_memOk {cl : Nat} (h : MemOk s) : MemOk (endRamp cl s) := by
  unfold endRamp
  split
  · exact chargeRamp_memOk h.frame
  · exact h

theorem freshEstimate_memOk {cl : Nat} (h : MemOk s) : MemOk (freshEstimate cl s) := .ite h h.frame

theorem startRamp_memOk {cl : Nat} {c : Crew} {queue : Nat} (h : MemOk s) : MemOk (startRamp cl c queue s) :=
  .ite (endRamp_memOk h) (setCluster_memOk (freshEstimate_memOk (endRamp_memOk h)))

theorem chargeCrew_memOk {c : Crew} (h : MemOk s) : MemOk (chargeCrew c s) :=
  .iteThen (gristAdd_memOk (charge_memOk (charge_memOk (debit_memOk h)))) startRamp_memOk

theorem complete_memOk {slot : Nat} {ctx : Option Nat} {word0 cpla : W64} {status : Nat} {result : W64}
    (h : MemOk s) :
    MemOk (complete slot ctx word0 cpla status result s) :=
  .ite h.frame (post_memOk h)

theorem freeSlot_memOk {slot : Nat} (h : MemOk s) : MemOk (freeSlot slot s) := h.frame

theorem freeQueue_memOk {ctx q : Nat} (h : MemOk s) : MemOk (freeQueue ctx q s) := by
  unfold freeQueue
  split
  · exact h.frame
  · exact updCtx_memOk h

theorem endCommand_memOk {tag : CmdTag} {ctx : Option Nat} {status : Nat} {result : W64} (h : MemOk s) :
    MemOk (endCommand tag ctx status result s) := by
  unfold endCommand
  dsimp only
  split
  · exact freeQueue_memOk (complete_memOk h)
  · exact freeSlot_memOk (complete_memOk h)

theorem endWaiter_memOk {c : Crew} (h : MemOk s) : MemOk (endWaiter c s) := by
  unfold endWaiter
  split
  · exact endCommand_memOk h
  · exact h

theorem finishLaunch_memOk {lid : Nat} (h : MemOk s) : MemOk (finishLaunch lid s) := by
  unfold finishLaunch
  split
  · exact h
  · exact .ite (.ite h.frame (complete_memOk h.frame)) h

theorem updLaunch_memOk {l : Nat} {f : Launch → Launch} (h : MemOk s) : MemOk (updLaunch s l f) := h.frame

theorem cleanDoms_memOk {lid : Nat} (h : MemOk s) : MemOk (cleanDoms lid s) := h.frame

theorem freeSpace_memOk {ctx cid : Nat} (h : MemOk s) : MemOk (freeSpace ctx cid s) := updCtx_memOk h

/-! ### Ray records, and how a crew ends -/

theorem writeRecord_memOk {r : Ray} (h : MemOk s) : MemOk (writeRecord r s).1 := homeWrites_memOk _ _ _ _ h

theorem updRay_memOk {id : Nat} {f : Ray → Ray} (h : MemOk s) : MemOk (updRay id f s) := h.frame

theorem handOn_memOk {kind : CrewKind} {ref : Nat} {r : Ray} (h : MemOk s) : MemOk (handOn kind ref r s) :=
  updRay_memOk (ite_fst_memOk h (writeRecord_memOk h))

theorem endRay_memOk {state : Nat} {r : Ray} (h : MemOk s) : MemOk (endRay state r s) := handOn_memOk h

theorem endInvocations_memOk {cid : Nat} (h : MemOk s) : MemOk (endInvocations cid s) := foldl_memOk endRay_memOk h

theorem killCrew_memOk {quiet : Bool} {k : Kill} (h : MemOk s) : MemOk (killCrew quiet k s) := by
  unfold killCrew
  extract_lets c again s1 s2 s3 s4 s5
  have h3 : MemOk s3 := .ite h.frame (faultRun_memOk h.frame)
  have h4 : MemOk s4 := chargeCrew_memOk h3
  have h5 : MemOk s5 := endWaiter_memOk h4.frame
  exact .ite h5.frame (finishLaunch_memOk (cleanDoms_memOk
    (freeSpace_memOk (updLaunch_memOk (endInvocations_memOk h5)))))

theorem sliceError_memOk (h : MemOk s) : MemOk (sliceError s) := killCrew_memOk h

/-! ### Traps, halts and one unit of a part -/

theorem reportStore_memOk {x : PStore} {reason : Nat} (h : MemOk s) : MemOk (reportStore x reason s) := h.frame

theorem reportDue_memOk (h : MemOk s) : MemOk (reportDue s) := by
  refine foldl_memOk (fun ht => ?_) h
  split
  · exact .ite ht.frame ht
  · exact ht

theorem killHere_memOk {cause : Nat} {info addr : W64} {access : List AccRec} {regs : Option (List W64)}
    (h : MemOk s) :
    MemOk (killHere cause info addr access regs s) :=
  killCrew_memOk h

theorem trapIn_memOk {c : Nat} {t : Trap} {ulen : Nat} (h : MemOk s) : MemOk (trapIn c t ulen s) :=
  .ite (killHere_memOk h) (.ite (killHere_memOk h) h.frame)

theorem trapAt_memOk {t : Trap} {ulen : Nat} (h : MemOk s) : MemOk (trapAt t ulen s) := trapIn_memOk h

theorem trap_memOk {t : Trap} {r : Run} (h : MemOk s) : MemOk (trap t r s) := trapAt_memOk h

theorem storeTrap_memOk {r : Run} (h : MemOk s) : MemOk (storeTrap r s) := trap_memOk h.frame

theorem hold_memOk (h : MemOk s) : MemOk (hold s) := h.frame

theorem settleCrew_memOk {nowc : Nat} (h : MemOk s) : MemOk (settleCrew nowc s) := .ite h h.frame

theorem haltAll_memOk (h : MemOk s) : MemOk (haltAll s) := (settleCrew_memOk h).frame

theorem stopCrew_memOk {reason n : Nat} {addr : W64} {past : Option W64} (h : MemOk s) :
    MemOk (stopCrew reason n addr past s) :=
  haltAll_memOk h.frame

theorem breakpoint_memOk {k : Nat} {r : Run} (h : MemOk s) : MemOk (breakpoint k r s) :=
  .ite (stopCrew_memOk h) (trap_memOk h)

theorem boundary_memOk {r : Run} {f : State → State} (hf : ∀ {t}, MemOk t → MemOk (f t)) (h : MemOk s) :
    MemOk (boundary r f s) := by
  unfold boundary
  split
  · exact .ite (sliceError_memOk h) h
  · refine .ite h (.ite (hf h) (.ite (storeTrap_memOk (reportDue_memOk h)) (.ite (hold_memOk (reportDue_memOk h))
      ?_)))
    split
    · exact breakpoint_memOk (reportDue_memOk h)
    · exact hf (reportDue_memOk h)

theorem unitBody_memOk {o : Op} {f : State → State} (hf : ∀ {t}, MemOk t → MemOk (f t)) (h : MemOk s) :
    MemOk (unitBody o f s) := by
  unfold unitBody
  split
  · exact trap_memOk h
  · split
    · exact trap_memOk h
    · refine .ite h.frame ?_
      split
      · exact trap_memOk h
      · exact hf h

theorem unitStep_memOk {o : Op} {f : State → State} (hf : ∀ {t}, MemOk t → MemOk (f t)) (h : MemOk s) :
    MemOk (unitStep o f s) :=
  boundary_memOk (unitBody_memOk hf) h

theorem unit_nextOk {o : Op} {f : State → State} (hf : ∀ {t}, MemOk t → MemOk (f t)) (h : MemOk s) :
    NextOk (unit o f s) :=
  .next (unitStep_memOk hf h)

theorem goto_memOk {r : Run} {n : Nat} {pc : W64} (h : MemOk s) : MemOk (goto r n pc s) := h.frame

theorem done_memOk {r : Run} (h : MemOk s) : MemOk (done r s) := h.frame

theorem trapExm_memOk {cause info : Nat} {r : Run} (h : MemOk s) : MemOk (trapExm cause info r s) := trap_memOk h

theorem ownLines_memOk {c : Copy} (h : MemOk s) : MemOk (ownLines c s) := foldl_memOk (fun ht => .ite ht.frame ht) h

theorem replayCopy_memOk {c : Copy} (h : MemOk s) : MemOk (replayCopy c s) := (ownLines_memOk h).frame

theorem replayCopies_memOk (h : MemOk s) : MemOk (replayCopies s) :=
  foldl_memOk (fun ht => .ite (replayCopy_memOk ht) ht) h

theorem addPend_memOk {lat : Nat} {r : RegId} {olds : List (Nat × W64)} (h : MemOk s) :
    MemOk (addPend lat r olds s) :=
  .ite h h.frame

theorem wrS_memOk {lat n : Nat} {x : W64} (h : MemOk s) : MemOk (wrS lat n x s) := .ite h (addPend_memOk h).frame

theorem sysWrite_memOk {n : Nat} {x : W64} (h : MemOk s) : MemOk (sysWrite n x s) := by
  unfold sysWrite
  split
  · exact h.frame
  · exact h.frame
  · exact h.frame
  · exact h

theorem landed_memOk {n : Nat} {ls : List Nat} {f : State → State} (hf : ∀ {t}, MemOk t → MemOk (f t))
    (h : MemOk s) :
    MemOk (landed n ls f s) :=
  .ite h.frame (hf h)

theorem wrV_memOk {lat n : Nat} {ls : List Nat} {f : Nat → W32} (h : MemOk s) : MemOk (wrV lat n ls f s) :=
  (addPend_memOk h).frame

theorem misaligned_memOk {size : Nat} {addr : W64} {r : Run} (h : MemOk s) : MemOk (misaligned size addr r s) :=
  trap_memOk h

theorem aperture_memOk {addr : W64} (h : MemOk s) : MemOk (aperture addr s) := killHere_memOk h

theorem barrierKill_memOk (h : MemOk s) : MemOk (barrierKill s) := killHere_memOk h

theorem popRecord_memOk {r : Run} {d : BitVec 7} {o : Nat} (h : MemOk s) : MemOk (popRecord r d o s) := by
  unfold popRecord
  split
  · exact done_memOk (wrS_memOk h)
  · exact .ite (barrierKill_memOk h) (done_memOk (wrS_memOk h.frame))

theorem divide_memOk {r : Run} {taken target : W64} (h : MemOk s) : MemOk (divide r taken target s) :=
  .ite (trapExm_memOk h) (.ite h.frame (.ite (.ite h.frame h.frame) h.frame))

theorem arriveJoin_memOk {j : Nat} {a : W64} {jto fused once : Nat} (h : MemOk s) :
    MemOk (arriveJoin j a jto fused once s) :=
  .ite h.frame (.ite h.frame h.frame)

theorem joinAt_memOk {r : Run} {j : Nat} (h : MemOk s) : MemOk (joinAt r j s) := by
  unfold joinAt
  dsimp only
  split
  · exact arriveJoin_memOk h.frame
  · exact .ite h.frame (.ite (trapExm_memOk h) (arriveJoin_memOk h.frame))

theorem waveWide_memOk {r : Run} {code : Nat} {f : State → State} (hf : ∀ {t}, MemOk t → MemOk (f t))
    (h : MemOk s) :
    MemOk (waveWide r code f s) :=
  .ite (hf h) (.ite (trapExm_memOk h) h.frame)

theorem reportAll_memOk (h : MemOk s) : MemOk (reportAll s) := by
  refine foldl_memOk (fun ht => ?_) h
  split
  · exact .ite ht ht.frame
  · exact ht

theorem drainBy_memOk {wait : State → State} {r : Run} {f : State → State} (hwait : ∀ {t}, MemOk t → MemOk (wait t))
    (hf : ∀ {t}, MemOk t → MemOk (f t)) (h : MemOk s) :
    MemOk (drainBy wait r f s) :=
  .ite (storeTrap_memOk (reportAll_memOk h)) (.ite (hf (reportAll_memOk h)) (hwait (reportAll_memOk h)))

theorem holdIn_memOk (h : MemOk s) : MemOk (holdIn s) := h.frame

theorem drained_memOk {r : Run} {f : State → State} (hf : ∀ {t}, MemOk t → MemOk (f t)) (h : MemOk s) :
    MemOk (drained r f s) :=
  drainBy_memOk (fun hs => hs.frame) hf h

theorem exitLanes_memOk {ls : W64} (h : MemOk s) : MemOk (exitLanes ls s) := .ite h.frame h.frame

theorem commitLanes_memOk {f : Nat → Ray → State → State} {m : W64} (hf : ∀ {a b t}, MemOk t → MemOk (f a b t))
    (h : MemOk s) :
    MemOk (commitLanes f m s) := by
  refine foldl_memOk (fun ht => ?_) h
  split
  · exact hf ht
  · exact ht

theorem writeOvf_memOk {r : Ray} {o : Nat} {bs : List Byte} (h : MemOk s) : MemOk (writeOvf r o bs s) := by
  unfold writeOvf
  split
  · exact h
  · split
    · exact homeWrites_memOk _ _ _ _ h
    · exact h

theorem lanternPut_memOk {cl ctx : Nat} {key : List Nat} {leaf : Nat} (h : MemOk s) :
    MemOk (lanternPut cl ctx key leaf s) := by
  unfold lanternPut
  dsimp only
  split
  · exact h.frame
  · exact h

theorem nextCand_memOk {r : Ray} (h : MemOk s) : MemOk (nextCand r s) := by
  unfold nextCand
  split
  · refine handOn_memOk ?_
    split
    · exact .ite (writeOvf_memOk h) h
    · exact h
  · refine .ite h.frame ?_
    split
    · exact endRay_memOk h
    · refine endRay_memOk ?_
      split
      · exact .ite (lanternPut_memOk h) h
      · exact h

theorem commitAny_memOk {acc : Bool} {r : Ray} (h : MemOk s) : MemOk (commitAny acc r s) := by
  unfold commitAny
  split
  · exact h
  · exact .ite (nextCand_memOk h) (nextCand_memOk h)

theorem commitNone_memOk {r : Ray} (h : MemOk s) : MemOk (commitNone r s) := by
  unfold commitNone
  split
  · exact commitAny_memOk h
  · exact h.frame
  · exact h

theorem leave_memOk {r : Run} (h : MemOk s) : MemOk (leave r s) :=
  .ite h.frame (exitLanes_memOk (done_memOk (commitLanes_memOk commitNone_memOk h)))

theorem jumpTo_memOk {r : Run} {target : W64} (h : MemOk s) : MemOk (jumpTo r target s) :=
  .ite (misaligned_memOk h) h.frame

theorem wrM_memOk {lat n : Nat} {ls : List Nat} {f : Nat → Bool} (h : MemOk s) : MemOk (wrM lat n ls f s) :=
  (addPend_memOk h).frame

/-! ### Scalar units and the accesses of lanes -/

theorem salu_nextOk {fn : Nat} {sat : Bool} {f : W64 → W64 → W64} {r : Run} {d a b : BitVec 7} (h : MemOk s) :
    NextOk (salu fn sat f r d a b s) :=
  unit_nextOk (fun ht => done_memOk (wrS_memOk ht)) h

theorem sali_nextOk {fn : Nat} {f : W64 → W64 → W64} {r : Run} {d a i : BitVec 7} (h : MemOk s) :
    NextOk (sali fn f r d a i s) :=
  unit_nextOk (fun ht => done_memOk (wrS_memOk ht)) h

theorem saliShift_nextOk {fn : Nat} {f : W64 → Nat → W64} {r : Run} {d a i : BitVec 7} (h : MemOk s) :
    NextOk (saliShift fn f r d a i s) :=
  unit_nextOk (fun ht => done_memOk (wrS_memOk ht)) h

theorem saliMove_nextOk {fn : Nat} {f : W64 → W64} {r : Run} {d a : BitVec 7} (h : MemOk s) :
    NextOk (saliMove fn f r d a s) :=
  unit_nextOk (fun ht => done_memOk (wrS_memOk ht)) h

theorem watchpoint_memOk {k : Nat} {ls addr : W64} {w : Bool} {r : Run} (h : MemOk s) :
    MemOk (watchpoint k ls addr w r s) :=
  .ite (stopCrew_memOk h) (trap_memOk h)

theorem checked_memOk {m : Form} {r : Run} {addrs : List (Nat × W64)} {f : List LaneAcc → State → State}
    (hf : ∀ {a t}, MemOk t → MemOk (f a t)) (h : MemOk s) :
    MemOk (checked m r addrs f s) := by
  refine .ite h.frame ?_
  dsimp only
  split
  · exact .ite (misaligned_memOk h) (trap_memOk h)
  · split
    · exact aperture_memOk h
    · split
      · exact watchpoint_memOk h
      · exact hf h

theorem recoverBy_memOk {k : Kill} (h : MemOk s) : MemOk (recoverBy k s) := (haltAll_memOk (faultRun_memOk h)).frame

theorem recoverHere_memOk {recs : List AccRec} (h : MemOk s) : MemOk (recoverHere recs s) := recoverBy_memOk h

theorem accFault_memOk {recs : List AccRec} (h : MemOk s) : MemOk (accFault recs s) :=
  .ite (recoverHere_memOk h) (killHere_memOk h)

theorem loadFault_memOk {akind : Nat} {bad : List (LaneAcc × Reason)} (h : MemOk s) :
    MemOk (loadFault akind bad s) :=
  .ite (accFault_memOk h) (killHere_memOk h)

theorem poisonKill_memOk (h : MemOk s) : MemOk (poisonKill s) := killHere_memOk h

theorem markFirst_memOk {core : Nat} {lines : List Nat} (h : MemOk s) : MemOk (markFirst core lines s) :=
  foldl_memOk (fun ht => .ite ht.frame ht) h

theorem updCrew_memOk {cid : Nat} {f : Crew → Crew} (h : MemOk s) : MemOk (updCrew s cid f) := .ite h.frame h.frame

theorem bumpOut_memOk {cid t : Nat} {f : Nat → Nat} (h : MemOk s) : MemOk (bumpOut cid t f s) := updCrew_memOk h

theorem send_memOk {a : Access} (h : MemOk s) : MemOk (send a s) := by
  refine depart_memOk ?_.frame
  split
  · exact bumpOut_memOk h
  · exact h

theorem sendFill_memOk {w : How} {use : AccUse} {trk : Option Nat} {q : Ready} (h : MemOk s) :
    MemOk (sendFill w use trk q s) :=
  send_memOk (.ite h h.frame)

theorem issueLoad_memOk {r : Run} {w : How} {kind : LoadKind} {reg n : Nat} {split : Bool} {accs : List LaneAcc}
    {m : Form} (h : MemOk s) : MemOk (issueLoad r w kind reg n split accs m s) := by
  unfold issueLoad
  extract_lets qs gs base sent name t mem scr timer ld
  have hsent : MemOk sent := markFirst_memOk (foldl_memOk sendFill_memOk h)
  have ht : MemOk t := .ite hsent.frame hsent
  exact .ite (poisonKill_memOk h) (.ite h.frame ht.frame)

theorem smemLoad_nextOk {fn n scale : Nat} {r : Run} {d a b : BitVec 7} (h : MemOk s) :
    NextOk (smemLoad fn n scale r d a b s) := by
  refine unit_nextOk (fun ht => .ite ht.frame (checked_memOk (fun hu => ?_) ht)) h
  split
  · exact loadFault_memOk hu
  · exact issueLoad_memOk hu

theorem writeDown_memOk {core line : Nat} (h : MemOk s) : MemOk (writeDown core line s) :=
  .ite h (send_memOk h.frame)

theorem tryDown_holds {core line : Nat} (h : MemOk s) : Holds MemOk (tryDown core line s) :=
  .ite (.some (writeDown_memOk h)) .none

theorem sendWrite_holds {q : Ready} {bs : List Byte} (h : MemOk s) : Holds MemOk (sendWrite q bs s) :=
  .bind (tryDown_holds h) (fun ht => .ite (.some (send_memOk (.ite ht.frame ht))) .none)

theorem makeRoom_holds {core line : Nat} (h : MemOk s) : Holds MemOk (makeRoom core line s) :=
  .ite (.some h) (.ite (.ite .none (.some h.frame)) (.ite (.some (setCore_memOk (writeDown_memOk h.frame)))
    (.some h.frame)))

theorem putDirty_holds {core cid trk key : Nat} {vault first : Bool} {pa : Nat} {bs : List Byte} (h : MemOk s) :
    Holds MemOk (putDirty core cid trk key vault first pa bs s) :=
  .bind (makeRoom_holds h) (fun ht => .map (.ite (tryDown_holds ht) (.some ht)) (fun hu => hu.frame))

theorem storeLane_holds {direct first : Bool} {q : Ready} {bs : List Byte} (h : MemOk s) :
    Holds MemOk (storeLane direct first q bs s) :=
  .ite (sendWrite_holds h) (putDirty_holds h)

theorem storeMem_holds {direct first : Bool} {data : Nat → List Byte} {qs : List Ready} (h : MemOk s) :
    Holds MemOk (storeMem direct first data qs s) := by
  induction qs generalizing s with
  | nil => exact .some h
  | cons q qs ih => exact .bind (storeLane_holds h) ih

theorem storeLanes_holds {direct first : Bool} {data : Nat → List Byte} {accs : List LaneAcc} {qs : List Ready}
    (h : MemOk s) :
    Holds MemOk (storeLanes direct first data accs qs s) :=
  storeMem_holds h.frame

theorem issueStore_memOk {r : Run} {cache dreg lsz : Nat} {rel : Bool} {data : Nat → List Byte}
    {accs : List LaneAcc} {m : Form} (h : MemOk s) :
    MemOk (issueStore r cache dreg lsz rel data accs m s) := by
  refine .ite (barrierKill_memOk h) ?_
  split
  · exact h.frame
  · split
    · exact h.frame
    · next t e =>
        have ht := storeLanes_holds h t e
        exact ht.frame

theorem writeDowns_memOk {core : Nat} {lines : List Nat} (h : MemOk s) : MemOk (writeDowns core lines s) := by
  induction lines generalizing s with
  | nil => exact h
  | cons l lines ih => exact ih ((tryDown_holds h).getD h)

theorem releaseThen_memOk {r : Run} {mask scope : Nat} {f : State → State} (hf : ∀ {t}, MemOk t → MemOk (f t))
    (h : MemOk s) :
    MemOk (releaseThen r mask scope f s) :=
  .ite (hf h) (drainBy_memOk (fun hs => hs.frame) (fun ht => .ite ht.frame (.ite (hf (writeDowns_memOk ht))
    (writeDowns_memOk ht).frame)) h)

theorem smemStore_nextOk {fn n scale : Nat} {r : Run} {d a b : BitVec 7} (h : MemOk s) :
    NextOk (smemStore fn n scale r d a b s) :=
  unit_nextOk (checked_memOk (fun hu => .ite (releaseThen_memOk issueStore_memOk hu) (issueStore_memOk hu))) h

theorem laneUnit_nextOk {o : Op} {d : BitVec 7} {f : State → Nat → W32} (h : MemOk s) : NextOk (laneUnit o d f s) :=
  unit_nextOk (fun ht => done_memOk (wrV_memOk ht)) h

theorem vint_nextOk {fn mods : Nat} {f : W32 → W32 → W32} {r : Run} {d a b : BitVec 7} (h : MemOk s) :
    NextOk (vint fn mods f r d a b s) :=
  laneUnit_nextOk h

theorem vint2_nextOk {fn : Nat} {f : W32 → W32} {r : Run} {d a : BitVec 7} (h : MemOk s) :
    NextOk (vint2 fn f r d a s) :=
  laneUnit_nextOk h

theorem vini_nextOk {fn : Nat} {f : W32 → W32 → W32} {r : Run} {d a i : BitVec 7} (h : MemOk s) :
    NextOk (vini fn f r d a i s) :=
  laneUnit_nextOk h

theorem viniShift_nextOk {fn : Nat} {f : W32 → Nat → W32} {r : Run} {d a i : BitVec 7} (h : MemOk s) :
    NextOk (viniShift fn f r d a i s) :=
  laneUnit_nextOk h

theorem putRes_memOk {r : Run} {lat : Nat} {d : BitVec 7} {f : Nat → Res} (h : MemOk s) :
    MemOk (putRes r lat d f s) :=
  .ite (trap_memOk h) (done_memOk (wrV_memOk h))

theorem fpUnit_nextOk {o : Op} {d : BitVec 7} {f : State → Nat → Res} (h : MemOk s) : NextOk (fpUnit o d f s) :=
  unit_nextOk putRes_memOk h

theorem vfma_nextOk {fn : Nat} {np nc : Bool} {r : Run} {d a b : BitVec 7} (h : MemOk s) :
    NextOk (vfma fn np nc r d a b s) :=
  fpUnit_nextOk h

theorem vf32x_nextOk {fn : Nat} {f : Nat → Nat → Nat → Res} {r : Run} {d a : BitVec 7} (h : MemOk s) :
    NextOk (vf32x fn f r d a s) :=
  fpUnit_nextOk h

theorem vf16_nextOk {fn : Nat} {f : Nat → Nat → Res} {r : Run} {d a b : BitVec 7} (h : MemOk s) :
    NextOk (vf16 fn f r d a b s) :=
  fpUnit_nextOk h

theorem vf16fma_nextOk {fn : Nat} {fm : Fmt} {r : Run} {d a b : BitVec 7} (h : MemOk s) :
    NextOk (vf16fma fn fm r d a b s) :=
  fpUnit_nextOk h

theorem vdot_nextOk {fn : Nat} {fm : Fmt} {r : Run} {d a b : BitVec 7} (h : MemOk s) :
    NextOk (vdot fn fm r d a b s) :=
  fpUnit_nextOk h

theorem vcvt2_nextOk {fn : Nat} {f : Fmt} {r : Run} {d a b : BitVec 7} (h : MemOk s) :
    NextOk (vcvt2 fn f r d a b s) :=
  fpUnit_nextOk h

theorem vcvt8_nextOk {fn : Nat} {f : Fmt} {r : Run} {d a k : BitVec 7} (h : MemOk s) :
    NextOk (vcvt8 fn f r d a k s) :=
  fpUnit_nextOk h

theorem planeUnit_nextOk {fn : Nat} {f : State → Nat → Nat → W32} {r : Run} {d a : BitVec 7} (h : MemOk s) :
    NextOk (planeUnit fn f r d a s) :=
  unit_nextOk (fun ht => .ite (done_memOk (wrV_memOk ht)) (trapExm_memOk ht)) h

theorem vxl_nextOk {o : Op} {w : BitVec 3} {d : BitVec 7} {f : State → Nat → Res} (h : MemOk s) :
    NextOk (vxl o w d f s) :=
  unit_nextOk (waveWide_memOk putRes_memOk) h

theorem cmp_nextOk {fn : Nat} {p : W32 → W32 → Bool} {r : Run} {d a b : BitVec 7} (h : MemOk s) :
    NextOk (cmp fn p r d a b s) :=
  unit_nextOk (fun ht => done_memOk (wrM_memOk ht)) h

theorem fcmp_nextOk {fn : Nat} {p : Nat → Nat → Bool} {r : Run} {d a b : BitVec 7} (h : MemOk s) :
    NextOk (fcmp fn p r d a b s) :=
  unit_nextOk (fun ht => .ite (trap_memOk ht) (done_memOk (wrM_memOk ht))) h

theorem mkop_nextOk {fn : Nat} {p : Bool → Bool → Bool} {r : Run} {d a b : BitVec 7} (h : MemOk s) :
    NextOk (mkop fn p r d a b s) :=
  unit_nextOk (fun ht => done_memOk (wrM_memOk ht)) h

theorem vmemLoad_nextOk {fn n : Nat} {sext ldn : Bool} {r : Run} {d a b : BitVec 7} (h : MemOk s) :
    NextOk (vmemLoad fn n sext ldn r d a b s) := by
  refine unit_nextOk (fun ht => .ite ht.frame (.ite ht.frame (checked_memOk (fun hu => ?_) ht))) h
  split
  · exact loadFault_memOk hu
  · exact issueLoad_memOk hu

theorem vmemStore_nextOk {fn n : Nat} {r : Run} {d a b : BitVec 7} (h : MemOk s) :
    NextOk (vmemStore fn n r d a b s) :=
  unit_nextOk (fun ht => .ite ht.frame (checked_memOk (fun hu => .ite (releaseThen_memOk issueStore_memOk hu)
    (issueStore_memOk hu)) ht)) h

theorem spadChecked_memOk {n : Nat} {scalar : Bool} {r : Run} {offs : List (Nat × W64)} {f : State → State}
    (hf : ∀ {t}, MemOk t → MemOk (f t)) (h : MemOk s) :
    MemOk (spadChecked n scalar r offs f s) := by
  refine .ite h.frame ?_
  dsimp only
  split
  · exact trap_memOk h
  · split
    · exact aperture_memOk h
    · exact hf h

theorem spadLoad_nextOk {fn n : Nat} {r : Run} {d a b : BitVec 7} (h : MemOk s) :
    NextOk (spadLoad fn n r d a b s) :=
  unit_nextOk (fun ht => .ite ht.frame (.ite ht.frame (spadChecked_memOk (fun hu => hu.frame) ht))) h

theorem spadPut_memOk {n : Nat} {offs : List (Nat × Nat)} {data : Nat → List Byte} {f : State → State}
    (hf : ∀ {t}, MemOk t → MemOk (f t)) (h : MemOk s) :
    MemOk (spadPut n offs data f s) :=
  .ite (barrierKill_memOk h) (hf h.frame)

theorem spadStore_nextOk {fn n : Nat} {r : Run} {d a b : BitVec 7} (h : MemOk s) :
    NextOk (spadStore fn n r d a b s) :=
  unit_nextOk (spadChecked_memOk (spadPut_memOk (fun hs => hs.frame))) h

theorem spillChecked_memOk {n : Nat} {r : Run} {base : W64} {f : State → State} (hf : ∀ {t}, MemOk t → MemOk (f t))
    (h : MemOk s) :
    MemOk (spillChecked n r base f s) :=
  .ite h.frame (.ite (misaligned_memOk h) (.ite (aperture_memOk h) (hf h)))

theorem atomScratch_memOk {fn n : Nat} {v c : Nat → Nat} {x : AtomRun} {lo : Nat × Nat} (h : MemOk x.st) :
    MemOk (atomScratch fn n v c x lo).st :=
  h.frame

theorem atomHere_memOk {fn n : Nat} {v c : Nat → Nat} {x : AtomRun} {lane line off key : Nat} {vault : Bool}
    {trk : Option Nat} (h : MemOk x.st) : MemOk (atomHere fn n v c x lane line off key vault trk).st :=
  h.frame

theorem atomHit_holds {fn n : Nat} {v c : Nat → Nat} {x : AtomRun} {q : Ready} (h : MemOk x.st) :
    Holds (fun y => MemOk y.st) (atomHit fn n v c x q) :=
  .map (P := MemOk) (.ite (putDirty_holds h) (.some h)) id

theorem atomSend_holds {far : Bool} {fn n : Nat} {v c : Nat → Nat} {x : AtomRun} {q : Ready} (h : MemOk x.st) :
    Holds (fun y => MemOk y.st) (atomSend far fn n v c x q) :=
  .bind (P := MemOk) (.ite (tryDown_holds h) (.some h)) fun ht => .ite (.some (send_memOk ht.frame)) .none

theorem atomLane_holds {far : Bool} {fn n : Nat} {v c : Nat → Nat} {qs : List Ready} {x : AtomRun} {a : LaneAcc}
    (h : MemOk x.st) : Holds (fun y => MemOk y.st) (atomLane far fn n v c qs x a) := by
  unfold atomLane
  dsimp only
  split
  · refine .some ?_
    split
    · exact atomScratch_memOk h
    · exact atomHere_memOk h
  · split
    · exact .some h
    · exact .ite (.ite (atomHit_holds h) (.some (atomHere_memOk h))) (atomSend_holds h)

theorem atomLanes_holds {far : Bool} {fn n : Nat} {v c : Nat → Nat} {qs : List Ready} {accs : List LaneAcc}
    {x : AtomRun}
    (h : MemOk x.st) : Holds (fun y => MemOk y.st) (atomLanes far fn n v c qs accs x) := by
  induction accs generalizing x with
  | nil => exact .some h
  | cons a accs ih => exact .bind (atomLane_holds h) ih

theorem issueAtom_memOk {fn n : Nat} {r : Run} {d : BitVec 7} {m : Form} {accs : List LaneAcc} (h : MemOk s) :
    MemOk (issueAtom fn n r d m accs s) := by
  refine .ite (barrierKill_memOk h) (.ite (poisonKill_memOk h) ?_)
  split
  · exact h.frame
  · next x hx => exact (atomLanes_holds h x hx).frame

theorem atom_nextOk {fn mods : Nat} {cas : Bool} {r : Run} {d a b : BitVec 7} (h : MemOk s) :
    NextOk (atom fn mods cas r d a b s) := by
  refine unit_nextOk (fun ht => .ite ht.frame (.ite ht.frame (checked_memOk (fun hu => ?_) ht))) h
  split
  · exact loadFault_memOk hu
  · exact .ite (releaseThen_memOk issueAtom_memOk hu) (issueAtom_memOk hu)

theorem faultsFirst_memOk {r : Run} {f : State → State} (hf : ∀ {t}, MemOk t → MemOk (f t)) (h : MemOk s) :
    MemOk (faultsFirst r f s) :=
  .ite (storeTrap_memOk (reportAll_memOk h)) (.ite (hold_memOk (reportAll_memOk h)) (hf (reportAll_memOk h)))

theorem acquireThen_memOk {f : State → State} (hf : ∀ {t}, MemOk t → MemOk (f t)) (h : MemOk s) :
    MemOk (acquireThen f s) :=
  .ite (hf h) h.frame

theorem wordAt_memOk {r : Run} {a : W64} {f : Nat → State → State} (hf : ∀ {a t}, MemOk t → MemOk (f a t))
    (h : MemOk s) :
    MemOk (wordAt r a f s) :=
  .ite h.frame (.ite (misaligned_memOk h) (.ite (aperture_memOk h) (hf h)))

theorem waitTest_memOk {r : Run} {d : BitVec 7} {ok : Bool} {till : Nat} (h : MemOk s) :
    MemOk (waitTest r d ok till s) :=
  .ite (.ite (done_memOk (wrS_memOk h)) h.frame) (.ite (done_memOk (wrS_memOk h)) h.frame)

theorem arriveThen_memOk {r : Run} {o : Nat} {f : Nat → State → State} (hf : ∀ {a t}, MemOk t → MemOk (f a t))
    (h : MemOk s) :
    MemOk (arriveThen r o f s) :=
  drainBy_memOk (fun hs => hs.frame) (fun ht => hf ht.frame) h

theorem phaseWait_memOk {r : Run} {w : Wait} {o ph : Nat} (h : MemOk s) : MemOk (phaseWait r w o ph s) :=
  .ite h.frame h.frame

/-! ### Copies, and the commands of the slice and matrix engines -/

theorem cwAligned_memOk {r : Run} {c : Copy} {f : State → State} (hf : ∀ {t}, MemOk t → MemOk (f t)) (h : MemOk s) :
    MemOk (cwAligned r c f s) :=
  .ite (misaligned_memOk h) (hf h)

theorem downFor_memOk {ord line : Nat} (h : MemOk s) : MemOk (downFor ord line s) := by
  refine .ite ?_ h
  split
  · exact h
  · next t e =>
      have ht := tryDown_holds h t e
      exact ht.frame

theorem startCopy_memOk {c : Copy} (h : MemOk s) : MemOk (startCopy c s) :=
  (ownLines_memOk (foldl_memOk downFor_memOk h)).frame

theorem beginCopy_memOk {f : State → State} {descAt : Option W64} {c : Copy} (hf : ∀ {t}, MemOk t → MemOk (f t))
    (h : MemOk s) :
    MemOk (beginCopy f descAt c s) := by
  refine .ite h.frame (.ite (aperture_memOk h) ?_)
  split
  · exact aperture_memOk h
  · refine .ite (aperture_memOk h) ?_
    split
    · exact aperture_memOk h
    · exact .ite h.frame (hf (startCopy_memOk h))

theorem misuseImm_memOk {r : Run} (h : MemOk s) : MemOk (misuseImm r s) := trap_memOk h

theorem descCopy_memOk {fn : Nat} {r : Run} {a : BitVec 7} {c : Copy} (h : MemOk s) : MemOk (descCopy fn r a c s) :=
  cwAligned_memOk (fun hu => .ite (misaligned_memOk hu) (beginCopy_memOk (fun hs => hs.frame) hu)) h

theorem sliceOp_nextOk {word : W32} {r : Run} {imm ok : Bool} {f : State → State}
    (hf : ∀ {t}, MemOk t → MemOk (f t)) (h : MemOk s) :
    NextOk (sliceOp word r imm ok f s) := by
  unfold sliceOp
  split
  · exact unit_nextOk id h
  · exact .ite (.next h) (.ite (.next (sliceError_memOk h)) (.next (hf h)))

theorem updSlice_memOk {f : Slice → Slice} (h : MemOk s) : MemOk (updSlice f s) := h.frame

theorem sliceNext_memOk {r : Run} (h : MemOk s) : MemOk (sliceNext r s) := h.frame

theorem execAloop_nextOk {r : Run} {k a : BitVec 7} (h : MemOk s) : NextOk (execAloop r k a s) :=
  sliceOp_nextOk (fun ht => .ite ht.frame (sliceError_memOk ht)) h

theorem execAend_nextOk {r : Run} {k : BitVec 7} (h : MemOk s) : NextOk (execAend r k s) :=
  sliceOp_nextOk (fun ht => .ite (sliceError_memOk ht) (.ite ht.frame ht.frame)) h

theorem astrmFault_memOk {bad : List (Nat × Reason)} (h : MemOk s) : MemOk (astrmFault bad s) :=
  .ite (recoverBy_memOk h) (killCrew_memOk h)

theorem astrmRead_memOk {x : State × List (Nat × Nat × Byte)} {qn : Ready × Nat} (hx : MemOk x.1) :
    MemOk (astrmRead x qn).1 :=
  .ite (send_memOk hx) hx

theorem execAstrm_nextOk {r : Run} {q a g : BitVec 7} (h : MemOk s) : NextOk (execAstrm r q a g s) :=
  sliceOp_nextOk (fun ht => .ite (sliceError_memOk ht) (.ite (astrmFault_memOk ht) (.ite (killCrew_memOk ht)
    (.ite ht (updSlice_memOk (foldl_fst_memOk astrmRead_memOk ht)))))) h

theorem execAcpy_nextOk {r : Run} {n a g : BitVec 7} (h : MemOk s) : NextOk (execAcpy r n a g s) := by
  refine sliceOp_nextOk (fun ht => .ite (sliceError_memOk ht) (.ite ht.frame (.ite (sliceError_memOk ht) ?_))) h
  dsimp only
  split
  · exact killCrew_memOk ht
  · exact .ite ht (sliceNext_memOk (updSlice_memOk (startCopy_memOk ht)))

theorem execAsig_nextOk {r : Run} {a b : BitVec 7} (h : MemOk s) : NextOk (execAsig r a b s) :=
  sliceOp_nextOk (fun ht => .ite (sliceError_memOk ht) (.ite ht (.ite (killCrew_memOk ht) ht.frame))) h

theorem execAhalt_nextOk {r : Run} (h : MemOk s) : NextOk (execAhalt r s) := sliceOp_nextOk (fun ht => ht.frame) h

theorem firstFail_memOk {l : List (Bool × (State → State))} {f : State → State}
    (hl : ∀ x ∈ l, ∀ t, MemOk t → MemOk (x.2 t)) (hf : ∀ {t}, MemOk t → MemOk (f t)) (h : MemOk s) :
    MemOk (firstFail l f s) := by
  induction l with
  | nil => exact hf h
  | cons x l ih =>
    exact .ite (ih fun y hy => hl y (List.mem_cons_of_mem _ hy)) (hl x List.mem_cons_self s h)

theorem updMatrix_memOk {f : Matrix → Matrix} (h : MemOk s) : MemOk (updMatrix f s) := h.frame

theorem acceptCmd_memOk {r : Run} {align : List (W64 × Nat)} {extent : Nat} {cond : Bool} {c : MCmd}
    {leave : Matrix → Matrix} (h : MemOk s) : MemOk (acceptCmd r align extent cond c leave s) := by
  refine firstFail_memOk ?_ (fun ht => ht.frame) h
  simp only [List.forall_mem_cons, List.not_mem_nil, false_imp_iff, implies_true, and_true]
  exact ⟨fun _ => trapExm_memOk, fun _ => trapExm_memOk, fun _ => misaligned_memOk, fun _ => aperture_memOk,
    fun _ => trapExm_memOk, fun _ ht => ht.frame⟩

theorem mstr_nextOk {queue : Bool} {r : Run} {n a b : BitVec 7} (h : MemOk s) : NextOk (mstr queue r n a b s) :=
  unit_nextOk acceptCmd_memOk h

/-! ### Rays taken, and reads shared by lanes -/

theorem badK_memOk {word : W32} {r : Run} (h : MemOk s) : MemOk (badK word r s) := trap_memOk h

theorem bring_memOk {ctx : Nat} {lines : List Nat} (h : MemOk s) : MemOk (bring ctx lines s) := by
  unfold bring
  extract_lets t
  have ht : MemOk t := foldl_memOk (fun hu => hu.frame) h
  exact ht.frame

theorem nameEntry_memOk {lid : Nat} {e : List Byte} {t : State} (h : MemOk s) (ht : nameEntry lid e s = .ok t) :
    MemOk t := by
  unfold nameEntry at ht
  dsimp only at ht
  split at ht
  · cases ht
  · split at ht
    · cases ht
      exact h
    · cases hw : stackWalk s _ _ _ _ _ with
      | error x => rw [hw] at ht; cases ht
      | ok ps =>
        rw [hw] at ht
        cases ht
        exact (bring_memOk h).frame

theorem withEntry_memOk {word : W32} {k : Nat} {r : Run} {f : List Byte → State → State}
    (hf : ∀ {a t}, MemOk t → MemOk (f a t)) (h : MemOk s) : MemOk (withEntry word k r f s) := by
  unfold withEntry
  split
  · exact h.frame
  · split
    · exact poisonKill_memOk h
    · exact accFault_memOk h
    · exact badK_memOk h
    · split
      · next ht => exact hf (nameEntry_memOk h ht)
      · exact accFault_memOk h

theorem rayPlaces_memOk {r : Run} {addrs : List (Nat × W64)} {f : List (Nat × W64 × Place) → State → State}
    (hf : ∀ {a t}, MemOk t → MemOk (f a t)) (h : MemOk s) :
    MemOk (rayPlaces r addrs f s) := by
  unfold rayPlaces
  dsimp only
  split
  · exact trap_memOk h
  · split
    · exact aperture_memOk h
    · split
      · exact loadFault_memOk h
      · exact hf h

theorem endWith_memOk {e : RayErr} {r : Ray} (h : MemOk s) : MemOk (endWith e r s) := by
  refine endRay_memOk ?_
  split
  · exact faultRun_memOk h
  · exact h

theorem takeRay_memOk {k : Nat} {entry : List Byte} {value : W32} {ra : W64} {p : Place} (h : MemOk s) :
    MemOk (takeRay k entry value ra p s) :=
  .ite (endWith_memOk (writeRecord_memOk h.frame)) (.ite (endRay_memOk (writeRecord_memOk h.frame))
    (writeRecord_memOk h.frame))

theorem phaseReadBy_memOk {w : How} {scalar : Bool} {n : Nat} {r : Run} {addrs : List (Nat × W64)}
    {f : (Nat → List Byte) → State → State} (hf : ∀ {a t}, MemOk t → MemOk (f a t)) (h : MemOk s) :
    MemOk (phaseReadBy w scalar n r addrs f s) := by
  refine .ite h.frame (checked_memOk (fun ht => ?_) h.frame)
  split
  · exact loadFault_memOk ht
  · exact .ite (accFault_memOk ht) (.ite (.ite (poisonKill_memOk ht) (hf h))
      (.ite h.frame (holdIn_memOk (foldl_memOk sendFill_memOk h))))

theorem phaseRead_memOk {n : Nat} {r : Run} {addrs : List (Nat × W64)} {f : (Nat → List Byte) → State → State}
    (hf : ∀ {a t}, MemOk t → MemOk (f a t)) (h : MemOk s) :
    MemOk (phaseRead n r addrs f s) :=
  phaseReadBy_memOk hf h

theorem doneReads_memOk {r : Run} (h : MemOk s) : MemOk (doneReads r s) := h.frame

theorem commitUnit_memOk {r : Run} {f : Nat → Ray → State → State} (hf : ∀ {a b t}, MemOk t → MemOk (f a b t))
    (h : MemOk s) :
    MemOk (commitUnit r f s) :=
  .ite h.frame (exitLanes_memOk (done_memOk (commitLanes_memOk hf h)))

theorem descAt_memOk {n : Nat} {r : Run} {a : W64} {f : List Byte → State → State}
    (hf : ∀ {a t}, MemOk t → MemOk (f a t)) (h : MemOk s) :
    MemOk (descAt n r a f s) :=
  .ite (misaligned_memOk h) (.ite (aperture_memOk h) (hf h))

theorem readTaps_memOk {size : Nat} {r : Run} {tap : Nat → List (W64 × Nat)} {ls : List Nat} {n : Nat}
    {got : Nat → List (List Byte)} {f : (Nat → List (List Byte)) → State → State}
    (hf : ∀ {a t}, MemOk t → MemOk (f a t)) (h : MemOk s) : MemOk (readTaps size r tap ls n got f s) := by
  induction n generalizing got s with
  | zero => exact hf h
  | succ n ih => exact phaseRead_memOk ih h

theorem texUnit_nextOk {fn : Nat} {explicit : Bool} {r : Run} {d a b : BitVec 7} (h : MemOk s) :
    NextOk (texUnit fn explicit r d a b s) :=
  unit_nextOk (descAt_memOk (fun hu => .ite (trap_memOk hu)
    (readTaps_memOk (fun hv => doneReads_memOk (foldl_memOk wrV_memOk hv)) hu))) h

/-! ### Queues, launches and samples -/

theorem setPend_memOk {v : Via} {w : Nat} {on : Bool} (h : MemOk s) : MemOk (setPend v w on s) :=
  .ite (viaWrite_memOk _ _ _ h) h

theorem notifySlot_memOk {i : Nat} (h : MemOk s) : MemOk (notifySlot i s) := .ite h.frame (.ite h (setPend_memOk h))

theorem notifyQueue_memOk {ctx q : Nat} {w : W64} (h : MemOk s) : MemOk (notifyQueue ctx q w s) := by
  unfold notifyQueue
  split
  · exact notifySlot_memOk h
  · exact setPend_memOk h

theorem enqueue_memOk {r : Run} {d : BitVec 7} {q : Nat} {hdr ra : W64} {w : QHead} {bytes : List Byte}
    (h : MemOk s) :
    MemOk (enqueue r d q hdr ra w bytes s) :=
  .ite (doneReads_memOk (wrS_memOk h)) (doneReads_memOk (wrS_memOk
    (notifyQueue_memOk (updCtx_memOk (viaWrite_memOk _ _ _ (viaWrite_memOk _ _ _ h))))))

theorem eventUnit_nextOk {fn : Nat} {on : Bool} {r : Run} {a k : BitVec 7} (h : MemOk s) :
    NextOk (eventUnit fn on r a k s) :=
  unit_nextOk (drained_memOk (releaseThen_memOk (fun ht => ht.frame))) h

theorem putRing_memOk {ctx buf size w : Nat} {l : List W64} (h : MemOk s) : MemOk (putRing ctx buf size w l s) := by
  induction l generalizing w s with
  | nil => exact h
  | cons x l ih => exact ih (ctxWrite_memOk _ _ _ (ctxWrite_memOk _ _ _ h))

theorem sampleWrite_memOk {ctx : Nat} {recs : List (Nat × List W64)} (h : MemOk s) :
    MemOk (sampleWrite ctx recs s).1 := by
  unfold sampleWrite
  split
  · exact h
  · dsimp only
    refine ite_fst_memOk h (ite_fst_memOk (foldl_fst_memOk (fun hst => ?_) ?_) (ctxWrite_memOk _ _ _ h.frame))
    · exact putRing_memOk (putRing_memOk hst)
    · exact .ite (ctxWrite_memOk _ _ _ h.frame) (ctxWrite_memOk _ _ _
        (putRing_memOk (ctxWrite_memOk _ _ _ h.frame)))

theorem setName_memOk {ctx ref : Nat} {on : Bool} (h : MemOk s) : MemOk (setName ctx ref on s) := updCtx_memOk h

theorem crewSample_memOk {ctx ref : Nat} {name : List W64} {type : Nat} {body : List W64} (h : MemOk s) :
    MemOk (crewSample ctx ref name type body s) :=
  setName_memOk (sampleWrite_memOk h)

theorem setEmber_memOk {core seq : Nat} {e : Ember} (h : MemOk s) : MemOk (setEmber core seq e s) := h.frame

/-! ### The focus, and the timers of a wave -/

theorem focusWave_memOk {widx : Nat} {pidx : Option Nat} (h : MemOk s) : MemOk (focusWave s widx pidx) := by
  unfold focusWave
  dsimp only
  split
  · exact h
  · exact h.frame

theorem focusCrew_memOk {cid : Nat} (h : MemOk s) : MemOk (focusCrew s cid) := by
  refine .ite h ?_
  dsimp only
  split
  · exact h.frame
  · split
    · exact h.frame
    · exact focusWave_memOk h.frame

theorem focus_memOk {p : PartRef} (h : MemOk s) : MemOk (focus s p) :=
  .ite (focusCrew_memOk h) (.ite (focusWave_memOk (focusCrew_memOk h)) (focusCrew_memOk h).frame)

theorem livePart_holds {p : PartRef} (h : MemOk s) : Holds MemOk (livePart p s) :=
  .ite (.some (focus_memOk (settleCrew_memOk (focusCrew_memOk h)))) .none

theorem missExpiry_memOk {l : Load} {n : Nat} (h : MemOk s) : MemOk (missExpiry l n s) :=
  .ite h.frame (.ite h.frame h.frame)

theorem execMissSplit_nextOk {p : PartRef} {load : Nat} (h : MemOk s) : NextOk (execMissSplit p load s) := by
  unfold execMissSplit
  refine .next ?_
  split
  · exact h
  · next t e =>
      have ht := livePart_holds h t e
      split
      · exact h
      · split
        · exact h
        · exact .ite (missExpiry_memOk ht) h

theorem execJoinTimeout_nextOk {p : PartRef} (h : MemOk s) : NextOk (execJoinTimeout p s) := by
  unfold execJoinTimeout
  refine .next ?_
  split
  · exact h
  · next t e =>
      have ht := livePart_holds h t e
      split
      · exact h
      · exact .ite ht.frame h

theorem execFuseWatchdogExpiry_nextOk {p : PartRef} (h : MemOk s) : NextOk (execFuseWatchdogExpiry p s) := by
  unfold execFuseWatchdogExpiry
  refine .next ?_
  split
  · exact h
  · next t e =>
      have ht := livePart_holds h t e
      split
      · exact h
      · exact .ite (trapIn_memOk ht) h

/-! ### Answers of the network and steps of a home -/

theorem tidy_memOk (h : MemOk s) : MemOk (tidy s) := h.frame

theorem writeLoad_memOk {l : Load} {lane : Nat} {bs : List Byte} (h : MemOk s) : MemOk (writeLoad l lane bs s) := by
  unfold writeLoad
  split
  · exact wrS_memOk h
  · exact foldl_memOk wrV_memOk h

theorem returnLoad_memOk {l : Load} (h : MemOk s) : MemOk (returnLoad l s) := by
  refine (foldl_memOk (fun hu => ?_) h).frame
  split
  · exact writeLoad_memOk hu
  · exact hu

theorem execLoadDataReturn_nextOk {p : PartRef} {load : Nat} (h : MemOk s) :
    NextOk (execLoadDataReturn p load s) := by
  unfold execLoadDataReturn
  refine .next ?_
  split
  · exact h
  · next t e =>
      have ht := livePart_holds h t e
      split
      · exact h
      · exact .ite (tidy_memOk (returnLoad_memOk ht)) h

theorem execStoreAccepted_nextOk {crew id : Nat} (h : MemOk s) : NextOk (execStoreAccepted crew id s) := by
  unfold execStoreAccepted
  refine .next ?_
  dsimp only
  split
  · exact h
  · exact .ite (focusCrew_memOk h).frame h

theorem takeTurn_memOk {key : Nat} (h : MemOk s) : MemOk (takeTurn key s) := h.frame

theorem execStoreFaultReport_nextOk {crew id : Nat} (h : MemOk s) : NextOk (execStoreFaultReport crew id s) := by
  unfold execStoreFaultReport
  refine .next ?_
  dsimp only
  split
  · exact h
  · split
    · exact h
    · exact .ite (takeTurn_memOk (reportStore_memOk (focusCrew_memOk h))) h

theorem updAccess_memOk {id : Nat} {f : Access → Access} (h : MemOk s) : MemOk (updAccess id f s) := h.frame

theorem fillL1_holds {first : Bool} {a : Access} {r : Answer} (h : MemOk s) : Holds MemOk (fillL1 first a r s) := by
  unfold fillL1
  split
  · exact .some h
  · exact .map (makeRoom_holds h) (fun ht => ht.frame)

theorem atomL1_holds {fn n off : Nat} {v c : W64} {a : Access} {r : Answer} (h : MemOk s) :
    Holds MemOk (atomL1 fn n off v c a r s) :=
  .bind (fillL1_holds h) (fun ht => .map (.ite (putDirty_holds ht) (.some ht)) (fun hs => hs.frame))

theorem answerTrk_memOk {a : Access} {r : Answer} (h : MemOk s) : MemOk (answerTrk a r s) := by
  unfold answerTrk
  split
  · exact h
  · exact updCrew_memOk h

theorem takeAnswer_memOk {a : Access} {r : Answer} (h : MemOk s) : MemOk (takeAnswer a r s) := by
  unfold takeAnswer
  dsimp only
  split
  · exact .ite h (.ite h.frame ((Holds.map (atomL1_holds (answerTrk_memOk h)) (fun hs => hs.frame)).getD h))
  · exact .ite (tidy_memOk (updAccess_memOk (answerTrk_memOk h)))
      ((Holds.map (fillL1_holds (answerTrk_memOk h)) (fun ht => ht.frame)).getD h)
  · exact tidy_memOk (updAccess_memOk (answerTrk_memOk (.ite h.frame h)))

theorem execAccessAnswer_nextOk {id : Nat} (h : MemOk s) : NextOk (execAccessAnswer id s) := by
  unfold execAccessAnswer
  refine .next ?_
  split
  · exact h
  · split
    · exact h
    · exact takeAnswer_memOk h

theorem killFor_memOk {cause : Nat} {info addr : W64} {a : Access} (h : MemOk s) :
    MemOk (killFor cause info addr a s) := by
  refine .ite h ?_
  split
  · exact killCrew_memOk (focusCrew_memOk h)
  · exact killCrew_memOk (focusCrew_memOk h)
  · exact killCrew_memOk (focusCrew_memOk h)
  · exact killCrew_memOk (focusCrew_memOk h)
  · exact killCrew_memOk (focusCrew_memOk h)

theorem performedHere_memOk {a : Access} {n old : Nat} (h : MemOk s) : MemOk (performedHere a n old s) := h.frame

theorem scratchStep_memOk {fn n off : Nat} {v c : W64} {a : Access} (h : MemOk s) :
    MemOk (scratchStep fn n off v c a s) := by
  unfold scratchStep
  split
  · exact h
  · exact .ite (killFor_memOk h) (performedHere_memOk (.ite (updCrew_memOk h) h))

theorem lineStep_holds {fn n off : Nat} {v c : W64} {a : Access} (h : MemOk s) :
    Holds MemOk (lineStep fn n off v c a s) :=
  .ite (.ite (.some (killFor_memOk h)) (.map (.ite (putDirty_holds h) (.some h)) (fun hs => hs.frame)))
    (.ite (.some (bumpOut_memOk h.frame)) .none)

theorem homeFill_memOk {ctx line q : Nat} (h : MemOk s) : MemOk (homeFill ctx line q s).1 :=
  ite_fst_memOk h (ite_fst_memOk h.frame h.frame)

theorem homeCells_memOk {ctx k line : Nat} {m : Cells Byte} (h : MemOk s) : MemOk (homeCells ctx k line m s).1 := by
  refine foldl_fst_memOk (x := (s, 0)) (fun hst => ?_) h
  exact homeWrite_memOk _ _ _ _ hst

theorem perform_memOk {a : Access} (h : MemOk s) : MemOk (perform a s).1 := by
  unfold perform
  split
  · exact homeFill_memOk h
  · exact homeCells_memOk h
  · exact setHomeLine_memOk (ite_fst_memOk (homeWrite_memOk _ _ _ _ h) h.frame)

theorem disownLine_memOk {cid ord line : Nat} (h : MemOk s) : MemOk (disownLine cid ord line s) := .ite h h.frame

theorem releaseAt_memOk {a : Access} (h : MemOk s) : MemOk (releaseAt a s) := by
  unfold releaseAt
  split
  · exact .ite h (disownLine_memOk h)
  · exact h

theorem mayEvict_memOk {line : Nat} (h : MemOk s) : MemOk (mayEvict line s) :=
  .ite (MemOk.ite (charge_memOk h) h).frame h.frame

theorem homeStep_memOk {a : Access} (h : MemOk s) : MemOk (homeStep a s) := by
  refine .ite ?_ (.ite ?_ (releaseAt_memOk (updAccess_memOk (mayEvict_memOk (perform_memOk h)))))
  · dsimp only
    split
    · exact h.frame
    · exact .ite h.frame (killFor_memOk h.frame)
  · split
    · exact killFor_memOk (updAccess_memOk (perform_memOk h))
    · exact killFor_memOk h.frame

theorem noteReach_memOk {level : Nat} {a : Access} (h : MemOk s) : MemOk (noteReach level a s) := .ite h.frame h

theorem execHomeAccess_nextOk {id : Nat} (h : MemOk s) : NextOk (execHomeAccess id s) := by
  unfold execHomeAccess
  refine .next ?_
  split
  · exact h
  · split
    · exact .ite h (.ite (scratchStep_memOk h) ((lineStep_holds h).getD h))
    · exact .ite (homeStep_memOk (noteReach_memOk h)) h

theorem execFenceReleaseComplete_nextOk {p : PartRef} (h : MemOk s) : NextOk (execFenceReleaseComplete p s) := by
  unfold execFenceReleaseComplete
  refine .next ?_
  split
  · exact h
  · next t e =>
      have ht := livePart_holds h t e
      split
      · exact .ite ht.frame h
      · exact h

/-! ### Fetch -/

theorem fetchWord_memOk {pc : W64} {w : W32} {t : State} (h : MemOk s)
    (hf : fetchWord pc s = .ok (w, t)) : MemOk t := by
  unfold fetchWord at hf
  dsimp only at hf
  split at hf
  · cases hf
  · split at hf
    · cases hf
    · split at hf
      · cases hf
      · split at hf
        · cases hf
        · split at hf
          · cases hf
          · split at hf
            · cases hf
            · cases hf
              exact (bring_memOk (s := { s with free := s.free + 1 }) h.frame).frame

theorem fetchUnit_memOk {n : Nat} {hs hs' : List Hint} {pc : W64} {w : W32} {t : State} (h : MemOk s)
    (hf : fetchUnit n hs pc s = .ok (hs', w, t)) : MemOk t := by
  induction n generalizing hs pc s with
  | zero =>
    cases hf
    exact h
  | succ n ih =>
    unfold fetchUnit at hf
    split at hf
    · cases hf
    · next hw =>
      split at hf
      · exact ih (fetchWord_memOk h hw) hf
      · cases hf
        exact fetchWord_memOk h hw

theorem nextUnit_memOk {hs : List Hint} {w : W32} {t : State} (h : MemOk s) (hf : nextUnit s = .ok (hs, w, t)) :
    MemOk t :=
  fetchUnit_memOk h hf

theorem stepStop_memOk {t v : State} (hv : MemOk v) : MemOk (stepStop t v) :=
  .ite (.ite hv.frame (stopCrew_memOk hv.frame)) hv

theorem execWaita_nextOk {r : Run} {d a b : BitVec 7} (h : MemOk s) : NextOk (execWaita r d a b s) :=
  unit_nextOk (wordAt_memOk waitTest_memOk) h

theorem execWaitaTimeout_nextOk {p : PartRef} (h : MemOk s) : NextOk (execWaitaTimeout p s) := by
  unfold execWaitaTimeout
  split
  · exact .next h
  · next t ht =>
    split
    · refine .ite (.next h) ?_
      dsimp only
      split
      · exact .next h
      · next hv =>
        have hv := nextUnit_memOk (livePart_holds h t ht).frame hv
        refine .ite (.next h) ?_
        split
        · split
          · next he => exact .next (stepStop_memOk (execWaita_nextOk hv _ he))
          · exact execWaita_nextOk hv
        · exact .next h
    · exact .next h

theorem execWaitcyEnd_nextOk {p : PartRef} (h : MemOk s) : NextOk (execWaitcyEnd p s) := by
  unfold execWaitcyEnd
  refine .next ?_
  split
  · exact h
  · next t e =>
      have ht := livePart_holds h t e
      split
      · exact .ite ht.frame h
      · exact h

/-! ### Events of the copy engine -/

theorem finishCopy_memOk {c : Copy} (h : MemOk s) : MemOk (finishCopy c s) := .ite (killCrew_memOk h) h.frame

theorem afterUnits_memOk (h : MemOk s) : MemOk (afterUnits s) := .ite h.frame h

theorem wroteLine_memOk {c : Copy} {line ct : Nat} (h : MemOk s) : MemOk (wroteLine c line ct s) :=
  .ite (disownLine_memOk h.frame) h.frame

theorem sendCopy_holds {c : Copy} {line off : Nat} {spot : Place × Nat} {op : AccOp} (h : MemOk s) :
    Holds MemOk (sendCopy c line off spot op s) :=
  .ite (.some (send_memOk h)) .none

theorem askLines_memOk {c : Copy} {lines : List Nat} (h : MemOk s) : MemOk (askLines c lines s) := by
  refine foldl_memOk (fun ht => ?_) h
  split
  · exact ht
  · exact (sendCopy_holds ht).getD ht

theorem putScratch_memOk {c : Copy} {line : Nat} (h : MemOk s) : MemOk (putScratch c line s) :=
  .ite (killCrew_memOk h) (wroteLine_memOk h.frame)

theorem sendAsks_holds {c : Copy} {line : Nat} {spot : Place × Nat} {l : List (Nat × AccOp)} (h : MemOk s) :
    Holds MemOk (sendAsks c line spot l s) := by
  induction l generalizing s with
  | nil => exact .some h
  | cons x l ih => exact .bind (sendCopy_holds h) ih

theorem sendPiece_memOk {c : Copy} {line : Nat} (h : MemOk s) : MemOk (sendPiece c line s) := by
  unfold sendPiece
  split
  · exact h
  · exact (sendAsks_holds h).getD h

theorem movePiece_memOk {c : Copy} {line : Nat} (h : MemOk s) : MemOk (movePiece c line s) :=
  .ite (.ite (wroteLine_memOk h.frame) h) (.ite (foldl_memOk downFor_memOk h)
    (.ite h (.ite (askLines_memOk h) (.ite h (.ite (killCrew_memOk h) (.ite (putScratch_memOk h)
    (sendPiece_memOk h)))))))

theorem execCopyComplete_nextOk {crew ord : Nat} (h : MemOk s) : NextOk (execCopyComplete crew ord s) := by
  unfold execCopyComplete
  dsimp only
  split
  · exact .next h
  · refine .ite (.next h) (.ite (.next (.ite (replayCopy_memOk (focusCrew_memOk h)) h))
      (.ite (.ite (.next (finishCopy_memOk (afterUnits_memOk (focusCrew_memOk h)))) (.next h)) ?_))
    split
    · exact .next h
    · exact .next (movePiece_memOk (focusCrew_memOk h).frame)

theorem ticketAccess_memOk {c : Copy} {p : Place} {op : AccOp} {use : Answer → State → State}
    (huse : ∀ {a t}, MemOk t → MemOk (use a t)) (h : MemOk s) :
    MemOk (ticketAccess c p op use s) := by
  unfold ticketAccess
  dsimp only
  split
  · split
    · exact .ite (huse h.frame) h
    · exact h
  · exact .ite h (.ite (downFor_memOk h) (.ite h ((sendCopy_holds h).getD h)))

theorem execReduceTicketPoll_nextOk {crew ord : Nat} (h : MemOk s) : NextOk (execReduceTicketPoll crew ord s) := by
  unfold execReduceTicketPoll
  refine .next ?_
  split
  · exact h
  · exact ticketAccess_memOk (fun hu => .ite (killCrew_memOk hu) (.ite hu.frame hu.frame)) (focusCrew_memOk h)

theorem execReduceTicketRelease_nextOk {crew ord : Nat} (h : MemOk s) :
    NextOk (execReduceTicketRelease crew ord s) := by
  unfold execReduceTicketRelease
  refine .next ?_
  split
  · exact h
  · exact .ite h (ticketAccess_memOk (fun hu => hu.frame) (focusCrew_memOk h))

theorem squashCopies_memOk {p : Copy → Bool} (h : MemOk s) : MemOk (squashCopies p s) := by
  unfold squashCopies
  extract_lets gone t
  have ht : MemOk t := foldl_memOk (fun hu => hu.frame) h
  exact ht.frame

theorem squashAll_memOk (h : MemOk s) : MemOk (squashAll s) := squashCopies_memOk h

theorem execCopySquash_nextOk {crew : Nat} (h : MemOk s) : NextOk (execCopySquash crew s) :=
  .next (.ite (squashAll_memOk (focusCrew_memOk h)) h)

/-! ### Events of the slice and matrix engines -/

theorem execAstrmPush_nextOk {crew : Nat} (h : MemOk s) : NextOk (execAstrmPush crew s) := by
  unfold execAstrmPush
  dsimp only
  split
  · exact .next h
  · refine .ite (.next h) ?_
    split
    · exact .next (astrmFault_memOk (focusCrew_memOk h))
    · exact .ite (.next (killCrew_memOk (focusCrew_memOk h))) (.ite (.next (updSlice_memOk (focusCrew_memOk h)))
        (.next (updSlice_memOk (focusCrew_memOk h).frame)))

theorem setHead_memOk {f : MCmd → MCmd} (h : MemOk s) : MemOk (setHead f s) := h.frame

theorem mstrRow_memOk {c : MCmd} (h : MemOk s) : MemOk (mstrRow c s) := by
  unfold mstrRow
  split
  · exact h
  · exact updMatrix_memOk (.ite h.frame h)

theorem engineWrite_memOk {o : Nat} {bs : List Byte} (h : MemOk s) : MemOk (engineWrite o bs s) :=
  .ite (killCrew_memOk h) h.frame

theorem mrdoRow_memOk {c : MCmd} (h : MemOk s) : MemOk (mrdoRow c s) := engineWrite_memOk h

theorem macsvRow_memOk {c : MCmd} (h : MemOk s) : MemOk (macsvRow c s) :=
  .ite (.ite (engineWrite_memOk h) (engineWrite_memOk (engineWrite_memOk h))) (engineWrite_memOk h)

theorem cmdRow_memOk {c : MCmd} (h : MemOk s) : MemOk (cmdRow c s) := by
  unfold cmdRow
  split
  · exact mstrRow_memOk h
  · exact mrdoRow_memOk h
  · exact h.frame
  · exact macsvRow_memOk h
  · exact h.frame

theorem runRows_memOk {n : Nat} (h : MemOk s) : MemOk (runRows n s) := by
  induction n generalizing s with
  | zero => exact h
  | succ n ih =>
    unfold runRows
    split
    · exact h
    · exact .ite h (.ite (cmdRow_memOk h) (ih (cmdRow_memOk h).frame))

theorem headStands_memOk {n : Nat} (h : MemOk s) : MemOk (headStands n s) := h.frame

theorem execMatrixCommandStands_nextOk {crew : Nat} (h : MemOk s) : NextOk (execMatrixCommandStands crew s) := by
  unfold execMatrixCommandStands
  extract_lets t m
  have ht : MemOk t := focusCrew_memOk h
  split
  · exact .next h
  · extract_lets due u v z
    have hv : MemOk v := runRows_memOk (setHead_memOk ht)
    have hz : MemOk z := .ite (afterUnits_memOk hv) hv
    refine .ite (.next h) (.ite (.next (setHead_memOk ht)) ?_)
    split
    · exact .next hz
    · exact .ite (.next (headStands_memOk hz)) (.next hz)

theorem execMwldLatch_nextOk {crew : Nat} (h : MemOk s) : NextOk (execMwldLatch crew s) := by
  unfold execMwldLatch
  dsimp only
  split
  · exact .next h
  · exact .ite (.next h) (.next (headStands_memOk (updMatrix_memOk (focusCrew_memOk h))))

/-! ### Events of rays -/

theorem leaseReads_memOk {r : Ray} {reads : List (Nat × Nat)} (h : MemOk s) : MemOk (leaseReads r reads s) :=
  foldl_memOk homeFill_memOk h

theorem lookUp_memOk {d : Desc} {r : Ray} {q : Ray × State} (h : MemOk s)
    (hq : lookUp d r s = some q) : MemOk q.2 := by
  unfold lookUp at hq
  dsimp only at hq
  split at hq
  · cases hq
    exact h
  · split at hq
    · cases hq
      exact h
    · split at hq
      · cases hq
        exact h
      · split at hq
        · cases hq
        · split at hq
          · cases hq
            exact leaseReads_memOk h.frame
          · cases hq
            exact leaseReads_memOk h.frame

theorem endFree_memOk {r : Ray} (h : MemOk s) : MemOk (endFree r s) := endRay_memOk h.frame

theorem finishTraversal_memOk {d : Desc} {r : Ray} {s0 : State} (hs0 : MemOk s0) (h : MemOk s) :
    MemOk (finishTraversal d r s0 s) := by
  unfold finishTraversal
  extract_lets v facts t errs
  have ht : MemOk t := leaseReads_memOk h.frame
  refine .ite hs0 (.ite (endFree_memOk ht) ?_)
  split
  · exact endWith_memOk ht
  · exact .ite (endRay_memOk ht) (.ite (nextCand_memOk ht) (.ite (nextCand_memOk ht)
      (.ite (endRay_memOk ht) (updRay_memOk ht))))

theorem execRayEnd_nextOk {ray : Nat} (h : MemOk s) : NextOk (execRayEnd ray s) := by
  unfold execRayEnd
  refine .next ?_
  split
  · exact h
  · split
    · exact endRay_memOk h
    · dsimp only
      split
      · exact h
      · split
        · exact endWith_memOk (leaseReads_memOk h)
        · split
          · exact h
          · next hq => exact finishTraversal_memOk h (lookUp_memOk (leaseReads_memOk h) hq).frame

theorem launchWave_memOk {g : GWave} (h : MemOk s) : MemOk (launchWave g s) := (updCtx_memOk h).frame

theorem placeLane_memOk {g : GWave} {r : Ray} (h : MemOk s) : MemOk (placeLane g r s) :=
  .ite (launchWave_memOk h.frame) h.frame

theorem openWave_memOk {r : Ray} {k : Nat} {entry : List Byte} (h : MemOk s) : MemOk (openWave r k entry s) :=
  placeLane_memOk h.frame

theorem handTo_memOk {k : Nat} {r : Ray} (h : MemOk s) : MemOk (handTo k r s) := by
  unfold handTo
  split
  · exact placeLane_memOk h
  · dsimp only
    split
    · split
      · next ht => exact openWave_memOk (nameEntry_memOk h ht)
      · exact .ite (openWave_memOk h) (endWith_memOk h)
    · exact .ite (openWave_memOk h) (endWith_memOk h)
    · exact .ite (openWave_memOk h) (endWith_memOk h)

theorem handInvocation_memOk {r : Ray} (h : MemOk s) : MemOk (handInvocation r s) := by
  refine .ite h ?_
  split
  · exact endWith_memOk (leaseReads_memOk h)
  · exact .ite (handTo_memOk (leaseReads_memOk h)) h

theorem execRayHandoff_nextOk {ray : Nat} (h : MemOk s) : NextOk (execRayHandoff ray s) := by
  unfold execRayHandoff
  refine .next ?_
  split
  · exact h
  · exact .ite h (.ite (.ite (handTo_memOk h) h) (handInvocation_memOk h))

theorem execGatherTimeout_nextOk {wave : Nat} (h : MemOk s) : NextOk (execGatherTimeout wave s) := by
  unfold execGatherTimeout
  refine .next ?_
  split
  · exact h
  · exact .ite h (launchWave_memOk h)

/-! ### Power and errors -/

theorem countVault_memOk {v : Nat} (h : MemOk s) : MemOk (countVault v s) := .ite h h.frame

theorem follow_memOk {c b : Nat} (h : MemOk s) : MemOk (follow c b s) := .ite h h.frame

theorem vaultHold_memOk {c : Nat} {closed : Bool} (h : MemOk s) : MemOk (vaultHold c closed s) :=
  .ite h (follow_memOk h.frame)

theorem sampleVault_memOk {v : Nat} {t : Int} {s0 : State} (hs0 : MemOk s0) : MemOk (sampleVault v t s0) :=
  vaultHold_memOk (countVault_memOk hs0).frame

theorem tripRecord_memOk {c : Crew} (h : MemOk s) : MemOk (tripRecord c s) := faultRun_memOk h

theorem withPkg_memOk {p : Package} (h : MemOk s) : MemOk { s with pkg := p } := h.frame

theorem countCluster_memOk {c : Nat} (h : MemOk s) : MemOk (countCluster c s) := h.frame

theorem writeLife_memOk (h : MemOk s) : MemOk (writeLife s) := by
  have ht : MemOk ((List.range 32).foldl (fun u c => countVault c (countCluster c u)) s) :=
    foldl_memOk (fun hu => countVault_memOk (countCluster_memOk hu)) h
  unfold writeLife
  dsimp only
  split
  · exact withPkg_memOk ht
  · exact withPkg_memOk ht

theorem tripAll_memOk {sensor : Nat} (h : MemOk s) : MemOk (tripAll sensor s) :=
  .ite h (msix_memOk (withPkg_memOk (foldl_memOk tripRecord_memOk (writeLife_memOk h.frame))))

theorem execVaultSample_nextOk {vault : Nat} {readings : List Int} (h : MemOk s) :
    NextOk (execVaultSample vault readings s) := by
  unfold execVaultSample
  refine .next ?_
  dsimp only
  split
  · exact h
  · refine .ite ?_ h
    split
    · exact tripAll_memOk (sampleVault_memOk h)
    · exact sampleVault_memOk h

theorem execThermalTrip_nextOk {sensor : Nat} (h : MemOk s) : NextOk (execThermalTrip sensor s) :=
  .next (tripAll_memOk h)

theorem execPackagePowerOff_nextOk (h : MemOk s) : NextOk (execPackagePowerOff s) := .next (.ite h.frame h)

theorem tripCluster_memOk {cluster cycles : Nat} (h : MemOk s) : MemOk (tripCluster cluster cycles s) :=
  follow_memOk h.frame

theorem execDroopTrip_nextOk {cluster : Nat} (h : MemOk s) : NextOk (execDroopTrip cluster s) := by
  unfold execDroopTrip
  refine .next ?_
  split
  · exact h
  · exact .ite (tripCluster_memOk h.frame) h.frame

theorem execGutterRestore_nextOk {cluster : Nat} (h : MemOk s) : NextOk (execGutterRestore cluster s) :=
  .next (.ite (follow_memOk h.frame) h)

theorem biasArrived_memOk {c : Nat} (h : MemOk s) : MemOk (biasArrived c s) :=
  .ite h (.ite (writeLife_memOk (follow_memOk h.frame)) h.frame)

theorem replan_memOk {c : Nat} {slack : List (Int × Nat)} (h : MemOk s) : MemOk (replan c slack s) :=
  biasArrived_memOk h.frame

theorem execBiasReplan_nextOk {cluster : Nat} {slack : List (Int × Nat)} (h : MemOk s) :
    NextOk (execBiasReplan cluster slack s) :=
  .next (.ite h (.ite h.frame (replan_memOk h.frame)))

theorem execBiasCodeStep_nextOk {cluster : Nat} (h : MemOk s) : NextOk (execBiasCodeStep cluster s) := by
  unfold execBiasCodeStep
  refine .next ?_
  split
  · exact h
  · exact .ite h (biasArrived_memOk h.frame)

theorem writeBbias_memOk {c : Nat} {x : W64} (h : MemOk s) : MemOk (writeBbias c x s) :=
  .ite h (biasArrived_memOk h.frame)

theorem execBbiasCodeWrite_nextOk {cluster : Nat} {value : BitVec 64} (h : MemOk s) :
    NextOk (execBbiasCodeWrite cluster value s) :=
  .next (.ite (writeBbias_memOk h) h)

theorem execTaperEstimate_nextOk {cluster amps filler : Nat} (h : MemOk s) :
    NextOk (execTaperEstimate cluster amps filler s) :=
  .next (.ite h h.frame)

theorem execTaperRampEnd_nextOk {cluster : Nat} (h : MemOk s) : NextOk (execTaperRampEnd cluster s) := by
  unfold execTaperRampEnd
  refine .next ?_
  split
  · exact .ite (endRamp_memOk h) h
  · exact h

theorem execEccCorrected_nextOk {array cluster : Nat} (h : MemOk s) : NextOk (execEccCorrected array cluster s) :=
  .next (.ite h h.frame)

theorem killOther_memOk {cid : Nat} {quiet : Bool} {k : Kill} (h : MemOk s) : MemOk (killOther cid quiet k s) :=
  .ite (killCrew_memOk (focusCrew_memOk h)) (focusCrew_memOk h)

theorem eccKill_memOk {crew sub : Nat} (h : MemOk s) : MemOk (eccKill crew sub s) := by
  unfold eccKill
  split
  · exact .ite (killOther_memOk h) h
  · exact h

theorem eccAction_memOk {site : EccSite} (h : MemOk s) : MemOk (eccAction site s) := by
  unfold eccAction
  split
  · exact eccKill_memOk h
  · exact .ite h (eccKill_memOk h.frame)
  · exact .ite (eccKill_memOk h) h
  · split
    · exact .ite (eccKill_memOk h) h
    · exact h
  · exact h.frame
  · exact h.frame
  · exact h.frame
  · exact .ite h.frame h
  · exact .ite (eccKill_memOk h) h
  · exact h.frame
  · split
    · exact endRay_memOk h
    · exact h

theorem execEccUncorrectable_nextOk {site : EccSite} (h : MemOk s) : NextOk (execEccUncorrectable site s) :=
  .next (eccAction_memOk h.frame)

theorem execBackgroundScrub_nextOk (h : MemOk s) : NextOk (execBackgroundScrub s) := .next (.ite h.frame h)

/-! ### Crews placed, launches and swaps -/

theorem refuseImage_memOk {c : Crew} (h : MemOk s) : MemOk (refuseImage c s) :=
  finishLaunch_memOk (cleanDoms_memOk (freeSpace_memOk (updLaunch_memOk
    (endInvocations_memOk (chargeCrew_memOk (faultRun_memOk h).frame)))))

theorem setHandle_memOk {ctx hdl : Nat} {w : Option Handle} (h : MemOk s) : MemOk (setHandle ctx hdl w s) :=
  updCtx_memOk h

theorem startMove_memOk {ctx hdl tier vault : Nat} {tag : Option CmdTag} (h : MemOk s) :
    MemOk (startMove ctx hdl tier vault tag s) := by
  unfold startMove
  split
  · exact h
  · exact setHandle_memOk h

theorem noteAffinity_memOk {core : Nat} {c : Crew} (h : MemOk s) : MemOk (noteAffinity core c s) := by
  unfold noteAffinity
  split
  · exact h
  · refine .ite h.frame (.ite h.frame ?_)
    split
    · exact h.frame
    · exact .ite h.frame (startMove_memOk (setHandle_memOk h.frame))

theorem takeImage_memOk {c : Crew} {a : Nat} (h : MemOk s) : MemOk (takeImage c a s) := updCtx_memOk h.frame

theorem fixCopies_memOk (h : MemOk s) : MemOk (fixCopies s) := h.frame

theorem restartEngine_memOk (h : MemOk s) : MemOk (restartEngine s) := h.frame

theorem resumeCrew_memOk (h : MemOk s) : MemOk (resumeCrew s) := h.frame

theorem admitCrew_memOk {core : Nat} {c : Crew} {again : Bool} (h : MemOk s) : MemOk (admitCrew core c again s) :=
  .iteThen (focusCrew_memOk (updCtx_memOk (takeImage_memOk h)).frame)
    fun hw => replayCopies_memOk (fixCopies_memOk (restartEngine_memOk (resumeCrew_memOk hw)))

theorem placeNext_holds {ctx queue : Nat} (h : MemOk s) : Holds MemOk (placeNext ctx queue s) := by
  unfold placeNext
  split
  · exact .none
  · refine .ite ?_ (.mapAny (noteAffinity_memOk (admitCrew_memOk h)))
    split
    · exact .some (refuseImage_memOk h)
    · exact .mapAny (noteAffinity_memOk (admitCrew_memOk h))
  · exact .mapAny (noteAffinity_memOk (updLaunch_memOk (admitCrew_memOk h.frame)))

theorem placeAll_memOk {slot n : Nat} (h : MemOk s) : MemOk (placeAll slot n s) := by
  induction n generalizing s with
  | zero => exact h
  | succ n ih =>
    unfold placeAll
    split
    · exact h
    · split
      · next t ht => exact ih (placeNext_holds h t ht)
      · exact h

theorem execSlotVisit_nextOk {slot : Nat} (h : MemOk s) : NextOk (execSlotVisit slot s) :=
  .next (.ite h (.ite (.ite h.frame (placeAll_memOk h.frame)) h.frame))

theorem advanceHead_memOk {v : Via} {hdr : Nat} (h : MemOk s) : MemOk (advanceHead v hdr s) := by
  unfold advanceHead
  split
  · exact .ite (viaWrite_memOk _ _ _ h) h
  · exact h

theorem passRecord_memOk {l : Launch} (h : MemOk s) : MemOk (passRecord l s) := by
  refine .ite ?_ h
  split
  · exact advanceHead_memOk h
  · exact h

theorem dropLaunch_memOk {l : Launch} {cause : Nat} (h : MemOk s) : MemOk (dropLaunch l cause s) :=
  complete_memOk (passRecord_memOk (faultRun_memOk h).frame)

theorem testHeads_memOk {ctx : Nat} (h : MemOk s) : MemOk (testHeads ctx s) := by
  unfold testHeads
  split
  · exact h
  · exact h.frame

theorem carryFloors_memOk {old new : Nat → Bool} (h : MemOk s) : MemOk (carryFloors old new s) := h.frame

theorem moveHandle_memOk {ctx hdl tier vault : Nat} (h : MemOk s) : MemOk (moveHandle ctx hdl tier vault s) := by
  unfold moveHandle
  split
  · exact h
  · exact setHandle_memOk (charge_memOk (charge_memOk (carryFloors_memOk (settleSpace_memOk _ _ _ h))))

theorem makeSpace_holds {keep : List (Nat × Nat)} {fuel tier vault n : Nat} (h : MemOk s) :
    Holds MemOk (makeSpace keep fuel tier vault n s) := by
  induction fuel generalizing tier vault n s with
  | zero => exact .none
  | succ fuel ih =>
    refine .ite (.some h) (.ite .none (.bind (foldl_holds (fun ho => ?_) (.some h)) fun ht => .ite (.some ht)
      .none))
    exact .bind ho fun ht => .ite (.some ht) (.map (ih ht) moveHandle_memOk)

theorem spaceFor_holds {keep : List (Nat × Nat)} {tier vault n : Nat} (h : MemOk s) :
    Holds MemOk (spaceFor keep tier vault n s) :=
  makeSpace_holds h

theorem promote_holds {ctx : Nat} {l : List Grant} (h : MemOk s) : Holds MemOk (promote ctx l s) := by
  refine foldl_holds (fun ho => ?_) (.some h)
  split
  · next t n _ =>
    have ht : MemOk t := ho t rfl
    split
    · dsimp only
      refine .map (.ite (.map (spaceFor_holds ht) moveHandle_memOk) (.some ht)) (fun hu => ?_)
      split
      · exact setHandle_memOk hu
      · exact hu
    · exact .some ht
  · exact ho

theorem startWith_memOk {l : Launch} {list : List Grant} (h : MemOk s) : MemOk (startWith l list s) := by
  unfold startWith
  split
  · split
    · exact h
    · next t e =>
        have ht := promote_holds h t e
        exact finishLaunch_memOk (passRecord_memOk ht.frame)
  · exact dropLaunch_memOk h

theorem startLaunch_memOk {l : Launch} (h : MemOk s) : MemOk (startLaunch l s) := by
  unfold startLaunch
  dsimp only
  split
  · exact dropLaunch_memOk h
  · exact .ite (startWith_memOk (bring_memOk h)) h

theorem execLaunchStart_nextOk {slot : Nat} (h : MemOk s) : NextOk (execLaunchStart slot s) := by
  unfold execLaunchStart
  refine .next ?_
  refine .ite h ?_
  split
  · refine .ite (dropLaunch_memOk h) ?_
    split
    · exact dropLaunch_memOk h
    · refine .ite (dropLaunch_memOk h) ?_
      dsimp only
      split
      · exact .ite (startLaunch_memOk (testHeads_memOk h.frame)) (testHeads_memOk h.frame)
      · exact testHeads_memOk h.frame
  · exact h

theorem leaveCore_memOk (h : MemOk s) : MemOk (leaveCore s) :=
  finishLaunch_memOk (cleanDoms_memOk (freeSpace_memOk (updLaunch_memOk
    (endWaiter_memOk (chargeCrew_memOk h).frame))))

theorem execCrewRetire_nextOk {crew : Nat} (h : MemOk s) : NextOk (execCrewRetire crew s) := by
  unfold execCrewRetire
  refine .next ?_
  refine .ite h ?_
  split
  · exact .ite (leaveCore_memOk (focusCrew_memOk h)) h
  · exact writeDowns_memOk (focusCrew_memOk h)

theorem stopDone_memOk {c : Crew} (h : MemOk s) : MemOk (stopDone c s) := by
  unfold stopDone
  split
  · exact endCommand_memOk h
  · exact h

theorem stopReport_memOk {c : Crew} (h : MemOk s) : MemOk (stopReport c s) := by
  unfold stopReport
  split
  · exact h
  · exact sampleWrite_memOk h

theorem swapAway_memOk (h : MemOk s) : MemOk (swapAway s) :=
  stopDone_memOk (stopReport_memOk (cleanDoms_memOk (startRamp_memOk (viaWrite_memOk _ _ _ h)).frame))

theorem settleEngines_memOk (h : MemOk s) : MemOk (settleEngines s) := by
  unfold settleEngines
  extract_lets t
  suffices ht : MemOk t from ht.frame
  unfold t
  split
  · exact .ite h.frame h
  · exact h

theorem execSwapOut_nextOk {crew : Nat} (h : MemOk s) : NextOk (execSwapOut crew s) := by
  unfold execSwapOut
  refine .next ?_
  refine .ite h ?_
  dsimp only
  split
  · exact .ite (swapAway_memOk (settleEngines_memOk (focusCrew_memOk h))) h
  · exact writeDowns_memOk (focusCrew_memOk h)

theorem endQuietly_memOk {c : Crew} (h : MemOk s) : MemOk (endQuietly s c) :=
  endWaiter_memOk (chargeCrew_memOk h.frame)

theorem killCrews_memOk {ctx : Nat} (h : MemOk s) : MemOk (killCrews ctx s) :=
  foldl_memOk endQuietly_memOk (foldl_memOk killOther_memOk h)

theorem freeCtx_memOk {ctx : Nat} (h : MemOk s) : MemOk (freeCtx ctx s) := by
  have ht := killCrews_memOk (ctx := ctx)
    (s := dropRays ctx { s with launches := s.launches.filter (fun l => l.ctx != ctx) }) h.frame
  refine setCtx_memOk (withPkg_memOk (foldl_memOk (fun hv => ?_) (foldl_memOk (fun hv => ?_) ht)))
  · exact .ite (destroyHandle_memOk _ _ hv) hv
  · exact .ite (setSlot_memOk hv) hv

theorem execPreemptDone_nextOk {ctx : Nat} (h : MemOk s) : NextOk (execPreemptDone ctx s) := by
  unfold execPreemptDone
  refine .next ?_
  split
  · exact h
  · refine .ite h ?_
    dsimp only
    split
    · exact endCommand_memOk (.ite (freeCtx_memOk h.frame) h.frame)
    · exact .ite (freeCtx_memOk h.frame) h.frame

theorem sendBlock_holds {q : Ready} {bs : List Byte} (h : MemOk s) : Holds MemOk (sendBlock q bs s) :=
  foldl_holds (fun ho => .bind ho sendWrite_holds) (.some h)

theorem dumpHeader_holds {d : Dump} (h : MemOk s) : Holds MemOk (dumpHeader d s) := by
  refine .ite (.some h.frame) ?_
  split
  · exact .some h.frame
  · exact .map (sendBlock_holds h) (fun ht => ht.frame)

theorem dumpBlock_holds {d : Dump} (h : MemOk s) : Holds MemOk (dumpBlock d s) := by
  unfold dumpBlock
  dsimp only
  split
  · exact .some h.frame
  · exact .map (sendBlock_holds h) (fun ht => ht.frame)

theorem dumpEnd_memOk {d : Dump} (h : MemOk s) : MemOk (dumpEnd d s) := stepStop_memOk (wrS_memOk h).frame

theorem dumpStep_holds {d : Dump} (h : MemOk s) : Holds MemOk (dumpStep d s) := by
  unfold dumpStep
  split
  · exact .ite (.some h.frame) (.ite (.some h.frame) .none)
  · exact .ite (.ite (dumpHeader_holds h) .none) (.ite .none (dumpBlock_holds h))
  · exact .ite (.some (dumpEnd_memOk h)) .none
  · exact .none

theorem execDumpcDone_nextOk {crew : Nat} (h : MemOk s) : NextOk (execDumpcDone crew s) := by
  unfold execDumpcDone
  refine .next ?_
  dsimp only
  split
  · exact h
  · exact .ite h ((dumpStep_holds (focusWave_memOk (focusCrew_memOk h))).getD h)

theorem execHandleMigrationEnd_nextOk {ctx hdl : Nat} (h : MemOk s) :
    NextOk (execHandleMigrationEnd ctx hdl s) := by
  unfold execHandleMigrationEnd
  refine .next ?_
  split
  · exact h
  · split
    · exact h
    · refine .ite h ?_
      dsimp only
      split
      · exact h
      · next tier vault _ _ _ _ t ht =>
        have ht : MemOk t := Holds.ite (.some h) (spaceFor_holds h) t ht
        have hu := moveHandle_memOk (ctx := ctx) (hdl := hdl) (tier := tier) (vault := vault) ht
        split
        · refine endCommand_memOk ?_
          split
          · exact setHandle_memOk hu
          · exact hu
        · split
          · exact setHandle_memOk hu
          · exact hu

/-! ### The hub and the boot -/

theorem execNotify_nextOk {slot : Nat} (h : MemOk s) : NextOk (execNotify slot s) :=
  .next (.ite h (.ite h.frame (notifySlot_memOk h)))

theorem execAdmqWrite_nextOk {value : BitVec 64} (h : MemOk s) : NextOk (execAdmqWrite value s) :=
  .next (.ite h h.frame)

theorem execResetWrite_nextOk {value : BitVec 64} (h : MemOk s) : NextOk (execResetWrite value s) :=
  .next (.ite h (cwf_filter _ h))

theorem execRegisterWrite_nextOk {offset : Nat} {value : BitVec 64} (h : MemOk s) :
    NextOk (execRegisterWrite offset value s) :=
  .next (.ite h.frame h)

theorem readFabric_memOk (h : MemOk s) : MemOk (readFabric s) := by
  unfold readFabric
  split
  · exact h.frame
  · exact .ite h.frame h.frame

theorem measure_memOk (h : MemOk s) : MemOk (measure s) := by
  unfold measure
  dsimp only
  split
  · exact h.frame
  · split
    · exact h.frame
    · exact h.frame

theorem bootPlan_memOk {c : Nat} (h : MemOk s) : MemOk (bootPlan s c) := replan_memOk h.frame

theorem bootStart_memOk (h : MemOk s) : MemOk (bootStart s) :=
  foldl_memOk bootPlan_memOk (readFabric_memOk (clearMemories_memOk (measure_memOk h))).frame

theorem freeSample_memOk {v : Nat} (h : MemOk s) : MemOk (freeSample v s) := sampleVault_memOk h.frame

theorem bootEnd_memOk (h : MemOk s) : MemOk (bootEnd s) :=
  withPkg_memOk (foldl_memOk (fun hu => .ite hu (freeSample_memOk hu)) h)

theorem execModuleBoot_nextOk (h : MemOk s) : NextOk (execModuleBoot s) :=
  .next (.ite h (.ite (bootStart_memOk h) (.ite (bootEnd_memOk h) h)))

theorem execHostMemoryWrite_nextOk {offset : Nat} {bytes : List Byte} (h : MemOk s) :
    NextOk (execHostMemoryWrite offset bytes s) :=
  .next (.ite h (homeWrites_memOk _ _ _ _ h).frame)

theorem execHostMemoryRead_nextOk {offset length : Nat} (h : MemOk s) :
    NextOk (execHostMemoryRead offset length s) :=
  .next (.ite h h.frame)

/-! ### Commands -/

theorem reply_memOk {c : Cmd} {status : Nat} {result : W64} (h : MemOk s) : MemOk (reply c status result s) :=
  complete_memOk h

theorem command_nextOk {c : Cmd} {code form : Nat} {o : Origin} {used : List W64} {f : State → State}
    (hf : ∀ {t}, MemOk t → MemOk (f t)) (h : MemOk s) :
    NextOk (command c code form o used f s) :=
  .next (.ite h (.ite h.frame (.ite (reply_memOk h) (.ite (reply_memOk h) (.ite (reply_memOk h) (hf h))))))

theorem takeLaunch_memOk {c : Cmd} {caught : Bool} {bytes : List Byte} (h : MemOk s) :
    MemOk (takeLaunch c caught bytes s) :=
  h.frame

theorem execLaunch_nextOk {c : Cmd} (h : MemOk s) : NextOk (execLaunch c s) := command_nextOk (fun hs => hs.frame) h

theorem execLaunchCaptured_nextOk {c : Cmd} (h : MemOk s) : NextOk (execLaunchCaptured c s) := by
  refine command_nextOk (fun ht => ?_) h
  dsimp only
  split
  · exact takeLaunch_memOk (updCtx_memOk ht)
  · exact reply_memOk ht

theorem onCtx_memOk {c : Cmd} {ctx : Nat} {f : Ctx → State → State} (hf : ∀ {a t}, MemOk t → MemOk (f a t))
    (h : MemOk s) :
    MemOk (onCtx c ctx f s) := by
  unfold onCtx
  split
  · exact hf h
  · exact reply_memOk h

theorem signal_nextOk {form : Nat} {on : Bool} {c : Cmd} (h : MemOk s) : NextOk (signal form on c s) :=
  command_nextOk (fun ht => .ite (reply_memOk ht) (onCtx_memOk (fun hu => reply_memOk hu.frame) ht)) h

theorem execEvsignalSet_nextOk {c : Cmd} (h : MemOk s) : NextOk (execEvsignalSet c s) := signal_nextOk h

theorem execEvsignalClear_nextOk {c : Cmd} (h : MemOk s) : NextOk (execEvsignalClear c s) := signal_nextOk h

theorem mapQueue_memOk {slot ctx q : Nat} {hdr : W64} {quantum : Nat} (h : MemOk s) :
    MemOk (mapQueue slot ctx q hdr quantum s) :=
  setPend_memOk (setSlot_memOk (updCtx_memOk h).frame)

theorem execMapq_nextOk {c : Cmd} (h : MemOk s) : NextOk (execMapq c s) :=
  command_nextOk (onCtx_memOk (fun hu => .ite (reply_memOk hu)
    (.ite (reply_memOk hu) (.ite (reply_memOk hu) (reply_memOk (mapQueue_memOk hu)))))) h

theorem unmapQueue_memOk {slot : Nat} (h : MemOk s) : MemOk (unmapQueue slot s) := updCtx_memOk h.frame

theorem execUnmapq_nextOk {c : Cmd} (h : MemOk s) : NextOk (execUnmapq c s) :=
  command_nextOk (fun ht => .ite (reply_memOk ht) (reply_memOk (unmapQueue_memOk ht))) h

theorem execCtxnew_nextOk {c : Cmd} (h : MemOk s) : NextOk (execCtxnew c s) := by
  refine command_nextOk (fun ht => ?_) h
  split
  · exact reply_memOk ht
  · exact .ite (reply_memOk ht) (.ite (reply_memOk ht) (.ite (reply_memOk ht) (reply_memOk ht.frame)))

theorem execCtxnewAllotment_nextOk {c : Cmd} (h : MemOk s) : NextOk (execCtxnewAllotment c s) :=
  command_nextOk (onCtx_memOk (fun hu => reply_memOk (updCtx_memOk hu))) h

theorem execCtxnewLanternWays_nextOk {c : Cmd} (h : MemOk s) : NextOk (execCtxnewLanternWays c s) :=
  command_nextOk (onCtx_memOk (fun hu => reply_memOk (updCtx_memOk hu))) h

theorem holdSlot_memOk {slot : Nat} {words : List W64} (h : MemOk s) : MemOk (holdSlot slot words s) := h.frame

theorem haltCrew_memOk (h : MemOk s) : MemOk (haltCrew s) := (haltAll_memOk h).frame

theorem haltCtx_memOk {ctx : Nat} (h : MemOk s) : MemOk (haltCtx ctx s) :=
  foldl_memOk (fun ht => haltCrew_memOk (focusCrew_memOk ht)) h

theorem parkRay_memOk {r : Ray} (h : MemOk s) : MemOk (parkRay r s) := by
  unfold parkRay
  extract_lets t at_ b q u
  have ht : MemOk t := .ite (leaseReads_memOk h) h
  have hu : MemOk u := by
    dsimp only [u]
    split
    · exact .ite (writeOvf_memOk ht) ht
    · exact ht
  exact .ite (updRay_memOk (writeRecord_memOk hu)) (.ite (updRay_memOk ht) ht)

theorem parkRays_memOk {ctx : Nat} (h : MemOk s) : MemOk (parkRays ctx s) := foldl_memOk parkRay_memOk h.frame

theorem startPreempt_memOk {c : Cmd} {ctx : Nat} {freeing : Bool} (h : MemOk s) :
    MemOk (startPreempt c ctx freeing s) :=
  holdSlot_memOk (haltCtx_memOk (parkRays_memOk (updCtx_memOk h)))

theorem endPreempt_memOk {c : Ctx} (h : MemOk s) : MemOk (endPreempt c s) := by
  unfold endPreempt
  split
  · exact endCommand_memOk h
  · exact h

theorem execCtxfree_nextOk {c : Cmd} (h : MemOk s) : NextOk (execCtxfree c s) :=
  command_nextOk (onCtx_memOk (fun hu => .ite (startPreempt_memOk hu)
    (reply_memOk (freeCtx_memOk (endPreempt_memOk hu))))) h

theorem execHandleCreate_nextOk {c : Cmd} (h : MemOk s) : NextOk (execHandleCreate c s) := by
  refine command_nextOk (fun ht => .ite ?_ (.ite (reply_memOk ht.frame) (.ite (reply_memOk ht.frame) ?_))) h
  · split
    · exact reply_memOk ht.frame
    · exact .ite (reply_memOk ht.frame) (.ite ht.frame (reply_memOk (destroyHandle_memOk _ _ ht.frame)))
  · split
    · exact ht.frame
    · next v e =>
        have hv := spaceFor_holds ht.frame v e
        exact reply_memOk (setHandle_memOk hv)

theorem onHandle_memOk {c : Cmd} {f : Nat → Nat → Handle → State → State}
    (hf : ∀ {a b c t}, MemOk t → MemOk (f a b c t)) (h : MemOk s) :
    MemOk (onHandle c f s) := by
  unfold onHandle
  dsimp only
  split
  · exact hf h
  · exact reply_memOk h

theorem execHandlePriority_nextOk {c : Cmd} (h : MemOk s) : NextOk (execHandlePriority c s) :=
  command_nextOk (onHandle_memOk (fun ht => reply_memOk (setHandle_memOk ht))) h

theorem execHandleMigrate_nextOk {c : Cmd} (h : MemOk s) : NextOk (execHandleMigrate c s) :=
  command_nextOk (onHandle_memOk (fun ht => .ite (reply_memOk ht) (holdSlot_memOk (startMove_memOk ht)))) h

theorem execHandleEvict_nextOk {c : Cmd} (h : MemOk s) : NextOk (execHandleEvict c s) :=
  command_nextOk (onHandle_memOk (fun ht => .ite (reply_memOk ht) (holdSlot_memOk (startMove_memOk ht)))) h

theorem killHeld_memOk {lid : Nat} (h : MemOk s) : MemOk (killHeld lid s) := foldl_memOk killOther_memOk h

theorem extendGrants_memOk {lid : Nat} {gs : List Grant} {ps : List Page} (h : MemOk s) :
    MemOk (extendGrants lid gs ps s) :=
  foldl_memOk updCrew_memOk h.frame

theorem execGrant_nextOk {c : Cmd} (h : MemOk s) : NextOk (execGrant c s) := by
  refine command_nextOk (onCtx_memOk (fun hv => .ite (reply_memOk hv.frame) ?_)) h
  split
  · exact reply_memOk hv.frame
  · split
    · exact reply_memOk hv.frame
    · split
      · exact reply_memOk hv.frame
      · refine .ite hv.frame ?_
        split
        · exact reply_memOk (killHeld_memOk (bring_memOk hv.frame))
        · split
          · exact hv.frame
          · next w e =>
              have hw := promote_holds hv.frame w e
              exact reply_memOk (extendGrants_memOk (bring_memOk hw))

theorem execPreempt_nextOk {c : Cmd} (h : MemOk s) : NextOk (execPreempt c s) :=
  command_nextOk (onCtx_memOk (fun hu => .ite (reply_memOk hu) (startPreempt_memOk hu))) h

theorem resumeRays_memOk {ctx : Nat} (h : MemOk s) : MemOk (resumeRays ctx s) := h.frame

theorem execPreemptResume_nextOk {c : Cmd} (h : MemOk s) : NextOk (execPreemptResume c s) :=
  command_nextOk (onCtx_memOk (fun hu => .ite (reply_memOk hu)
    (reply_memOk (resumeRays_memOk (updCtx_memOk hu))))) h

theorem debugCmd_nextOk {c : Cmd} {form : Nat} {used : List W64} {f : Ctx → State → State}
    (hf : ∀ {a t}, MemOk t → MemOk (f a t)) (h : MemOk s) :
    NextOk (debugCmd c form used f s) :=
  command_nextOk (onCtx_memOk hf) h

theorem debugSet_memOk {c : Cmd} {f : Ctx → Ctx} (h : MemOk s) : MemOk (debugSet c f s) :=
  reply_memOk (updCtx_memOk h)

theorem execDebugAttach_nextOk {c : Cmd} (h : MemOk s) : NextOk (execDebugAttach c s) :=
  debugCmd_nextOk (fun ht => .ite (reply_memOk ht) (.ite (reply_memOk ht)
    (.ite (reply_memOk ht) (debugSet_memOk ht)))) h

theorem execDebugDetach_nextOk {c : Cmd} (h : MemOk s) : NextOk (execDebugDetach c s) :=
  debugCmd_nextOk (fun ht => debugSet_memOk (foldl_memOk updCrew_memOk ht)) h

theorem execDebugPcBreakpoint_nextOk {c : Cmd} (h : MemOk s) : NextOk (execDebugPcBreakpoint c s) :=
  debugCmd_nextOk (fun ht => .ite (reply_memOk ht) (.ite (reply_memOk ht) (debugSet_memOk ht))) h

theorem execDebugWatchpoint_nextOk {c : Cmd} (h : MemOk s) : NextOk (execDebugWatchpoint c s) :=
  debugCmd_nextOk (fun ht => .ite (reply_memOk ht) (.ite (reply_memOk ht) (debugSet_memOk ht))) h

theorem stopResident_memOk {c : Cmd} {x : Crew} (h : MemOk s) : MemOk (stopResident c x s) :=
  holdSlot_memOk (haltCrew_memOk (focusCrew_memOk h)).frame

theorem stopSwapped_memOk {x : Crew} (h : MemOk s) : MemOk (stopSwapped x s) := stopReport_memOk (updCrew_memOk h)

theorem execDebugStopCrew_nextOk {c : Cmd} (h : MemOk s) : NextOk (execDebugStopCrew c s) := by
  refine debugCmd_nextOk (fun ht => ?_) h
  split
  · exact reply_memOk ht
  · split
    · exact stopResident_memOk ht
    · exact reply_memOk ht
    · exact reply_memOk (stopSwapped_memOk ht)

theorem execDebugResumeCrew_nextOk {c : Cmd} (h : MemOk s) : NextOk (execDebugResumeCrew c s) := by
  refine debugCmd_nextOk (fun ht => ?_) h
  dsimp only
  split
  · exact reply_memOk ht
  · exact reply_memOk (updCrew_memOk ht)

theorem seedEmber_memOk {k : Nat} {seed : W32} (h : MemOk s) : MemOk (seedEmber k seed s) :=
  foldl_memOk (fun ht => ht.frame) h

theorem execDebugEmber_nextOk {c : Cmd} (h : MemOk s) : NextOk (execDebugEmber c s) :=
  debugCmd_nextOk (fun ht => .ite (reply_memOk ht) (debugSet_memOk (.ite (seedEmber_memOk ht) ht))) h

theorem execDebugGrist_nextOk {c : Cmd} (h : MemOk s) : NextOk (execDebugGrist c s) :=
  debugCmd_nextOk (fun ht => .ite (reply_memOk ht) (.ite (reply_memOk ht) (debugSet_memOk ht))) h

theorem execDebugIcinv_nextOk {c : Cmd} (h : MemOk s) : NextOk (execDebugIcinv c s) :=
  command_nextOk (fun ht => .ite (reply_memOk ht) ht.frame) h

theorem putOut_memOk {v : Via} {a : Nat} {bs : List Byte} (h : MemOk s) : MemOk (putOut v a bs s) :=
  viaWrite_memOk _ _ _ h

theorem execQuote_nextOk {c : Cmd} (h : MemOk s) : NextOk (execQuote c s) :=
  command_nextOk (fun ht => .ite (reply_memOk ht) (.ite (reply_memOk ht) (reply_memOk (putOut_memOk ht.frame)))) h

theorem execQuoteExtend_nextOk {c : Cmd} (h : MemOk s) : NextOk (execQuoteExtend c s) :=
  command_nextOk (fun ht => .ite (reply_memOk ht) (reply_memOk ht.frame)) h

theorem acceptCap_memOk {m : CapMessage} (h : MemOk s) : MemOk (acceptCap m s) := .ite h.frame h

theorem execPowercap_nextOk {c : Cmd} (h : MemOk s) : NextOk (execPowercap c s) :=
  command_nextOk (fun ht => reply_memOk (acceptCap_memOk ht)) h

theorem putCounters_memOk {c : Cmd} {v : Via} {bs : List Byte} (h : MemOk s) : MemOk (putCounters c v bs s) :=
  .ite (reply_memOk h) (reply_memOk (putOut_memOk h))

theorem execCountersAccount_nextOk {c : Cmd} (h : MemOk s) : NextOk (execCountersAccount c s) :=
  command_nextOk (onCtx_memOk putCounters_memOk) h

theorem execCountersReadRegister_nextOk {c : Cmd} (h : MemOk s) : NextOk (execCountersReadRegister c s) := by
  refine command_nextOk (fun ht => ?_) h
  split
  · exact reply_memOk ht
  · exact reply_memOk ht

theorem writeTapctl_memOk {c : Nat} {x : W64} (h : MemOk s) : MemOk (writeTapctl c x s) :=
  .ite (endRamp_memOk h.frame) h.frame

theorem writeLampReg_memOk {n : Nat} {x : W64} (h : MemOk s) : MemOk (writeLampReg n x s) :=
  .ite h.frame (.ite (writeBbias_memOk h) (.ite (writeTapctl_memOk h) (.ite h.frame (.ite h.frame h))))

theorem execCountersWriteRegister_nextOk {c : Cmd} (h : MemOk s) : NextOk (execCountersWriteRegister c s) := by
  refine command_nextOk (fun ht => ?_) h
  split
  · exact reply_memOk ht
  · exact reply_memOk (writeLampReg_memOk ht)

theorem execCountersLifetime_nextOk {c : Cmd} (h : MemOk s) : NextOk (execCountersLifetime c s) :=
  command_nextOk putCounters_memOk h

theorem execKeyset_nextOk {c : Cmd} (h : MemOk s) : NextOk (execKeyset c s) := by
  refine command_nextOk (fun ht => .ite (reply_memOk ht) ?_) h
  split
  · exact reply_memOk ht
  · exact reply_memOk ht.frame

/-! ### Estimates, caps and the sampler -/

theorem execPowerEstimate_nextOk {watts : Nat} (h : MemOk s) : NextOk (execPowerEstimate watts s) :=
  .next (.ite h.frame h)

theorem execCapExpiry_nextOk (h : MemOk s) : NextOk (execCapExpiry s) := by
  unfold execCapExpiry
  refine .next ?_
  split
  · exact .ite h.frame h
  · exact h

theorem execLifetimeRecordWrite_nextOk (h : MemOk s) : NextOk (execLifetimeRecordWrite s) :=
  .next (.ite (writeLife_memOk h.frame) h)

theorem execEmberTag_nextOk {core seq : Nat} (h : MemOk s) : NextOk (execEmberTag core seq s) :=
  .next (.ite h.frame h)

theorem execEmberRecord_nextOk {core seq : Nat} {stages : EmberStages} (h : MemOk s) :
    NextOk (execEmberRecord core seq stages s) := by
  unfold execEmberRecord
  refine .next ?_
  dsimp only
  split
  · exact h
  · exact .ite h.frame (gristAdd_memOk (crewSample_memOk h.frame))

/-! ### Ports and peers -/

theorem execFlitCrcReplay_nextOk {_port : Nat} (h : MemOk s) : NextOk (execFlitCrcReplay _port s) := .next h

theorem peerPerform_memOk {port key ctx : Nat} {x : PeerAccess} (h : MemOk s) :
    MemOk (peerPerform port key ctx x s) := by
  unfold peerPerform
  split
  · exact sendFlit_memOk (homeFill_memOk h).frame
  · exact sendFlit_memOk (homeWrites_memOk _ _ _ _ h)
  · exact sendFlit_memOk (setHomeLine_memOk (ite_fst_memOk (homeWrite_memOk _ _ _ _ h) h.frame))

theorem execInboundAccess_nextOk {port : Nat} {access : PeerAccess} (h : MemOk s) :
    NextOk (execInboundAccess port access s) := by
  unfold execInboundAccess
  refine .next ?_
  refine .ite h ?_
  split
  · exact sendFlit_memOk h
  · exact .ite (peerPerform_memOk h) h

theorem failKill_memOk {akind : Nat} {a : Access} (h : MemOk s) : MemOk (failKill akind a s) :=
  .ite h (killCrew_memOk (focusCrew_memOk h))

theorem failStore_memOk {a : Access} (h : MemOk s) : MemOk (failStore a s) := updCrew_memOk h

theorem failAccess_memOk {a : Access} (h : MemOk s) : MemOk (failAccess a s) := by
  unfold failAccess
  dsimp only
  split
  · exact updAccess_memOk (answerTrk_memOk h)
  · exact updAccess_memOk (answerTrk_memOk h)
  · exact failKill_memOk (answerTrk_memOk h).frame
  · exact failKill_memOk (answerTrk_memOk h).frame
  · exact failStore_memOk (answerTrk_memOk h).frame
  · exact .ite (updAccess_memOk (answerTrk_memOk h)) (.ite (failKill_memOk (answerTrk_memOk h).frame)
      (answerTrk_memOk h).frame)
  · exact .ite (failKill_memOk (answerTrk_memOk h).frame) (answerTrk_memOk h).frame
  · exact failKill_memOk (answerTrk_memOk h).frame
  · exact h

theorem execRemoteAnswer_nextOk {id : Nat} {answer : PeerAnswer} (h : MemOk s) :
    NextOk (execRemoteAnswer id answer s) := by
  unfold execRemoteAnswer
  refine .next ?_
  split
  · exact h
  · exact .ite h (.ite (failAccess_memOk h) h.frame)

theorem execRemoteAccessTimeout_nextOk {id : Nat} (h : MemOk s) : NextOk (execRemoteAccessTimeout id s) := by
  unfold execRemoteAccessTimeout
  refine .next ?_
  split
  · exact h
  · exact .ite (failAccess_memOk h) h

theorem execSyncFlitSend_nextOk (h : MemOk s) : NextOk (execSyncFlitSend s) :=
  .next (.ite h (foldl_memOk (fun ht => .ite (sendFlit_memOk ht) ht) h.frame))

theorem execSyncFlitReceive_nextOk {port : Nat} {stime : BitVec 64} (h : MemOk s) :
    NextOk (execSyncFlitReceive port stime s) :=
  .next (.ite h h.frame)

theorem execPortSyncTimeout_nextOk {port : Nat} (h : MemOk s) : NextOk (execPortSyncTimeout port s) := by
  unfold execPortSyncTimeout
  refine .next ?_
  refine .ite h (setPort_memOk (foldl_memOk (fun ht => ?_) h))
  split
  · exact failAccess_memOk ht
  · exact ht

theorem answerQuote_memOk {port : Nat} (h : MemOk s) : MemOk (answerQuote port s) := by
  unfold answerQuote
  dsimp only
  split
  · exact h
  · exact h.frame

theorem execQuoteRequestFlit_nextOk {port : Nat} {nonce : List Byte} (h : MemOk s) :
    NextOk (execQuoteRequestFlit port nonce s) :=
  .next (.ite h (.ite (sendFlit_memOk (foldl_memOk answerQuote_memOk h.frame))
    (setPort_memOk (foldl_memOk answerQuote_memOk h.frame))))

theorem execPowerCapFlit_nextOk {port : Nat} {cap : CapMessage} (h : MemOk s) :
    NextOk (execPowerCapFlit port cap s) :=
  .next (.ite (acceptCap_memOk h) h)

/-! ### Around a turn -/

theorem execIllegalInstruction_nextOk {r : Run} {e : Reject} (h : MemOk s) :
    NextOk (execIllegalInstruction r e s) :=
  .next (boundary_memOk trap_memOk h)

theorem fetchKill_memOk {e : FetchStop} (h : MemOk s) : MemOk (fetchKill e s) := by
  unfold fetchKill
  dsimp only
  split
  · exact h
  · exact killCrew_memOk h
  · exact killCrew_memOk h
  · exact killCrew_memOk h

theorem execFetchFailure_nextOk {outside : Bool} (h : MemOk s) : NextOk (execFetchFailure outside s) := by
  unfold execFetchFailure
  refine .next ?_
  split
  · exact h
  · exact .ite (fetchKill_memOk h) h

theorem execIcinvComplete_nextOk {p : PartRef} (h : MemOk s) : NextOk (execIcinvComplete p s) := by
  unfold execIcinvComplete
  refine .next ?_
  refine .ite ?_ ?_
  · split
    · exact h
    · exact endCommand_memOk h.frame
  · split
    · exact h
    · next t e =>
        have ht := livePart_holds h t e
        exact .ite ht.frame h

theorem execCopyError_nextOk {crew ord : Nat} {why : CopyFault} (h : MemOk s) :
    NextOk (execCopyError crew ord why s) := by
  unfold execCopyError
  dsimp only
  split
  · exact .next h
  · refine .ite (.next h) ?_
    split
    · exact .next h
    · exact .ite (.next (.ite h (recoverBy_memOk (squashCopies_memOk (focusCrew_memOk h)))))
        (.next (killCrew_memOk (focusCrew_memOk h)))

theorem execIntersectionShaderInvoke_nextOk {ray : Nat} (h : MemOk s) : NextOk
    (execIntersectionShaderInvoke ray s) := by
  unfold execIntersectionShaderInvoke
  refine .next ?_
  split
  · exact h
  · split
    · split
      · exact h
      · next hq =>
        dsimp only
        split
        · exact h
        · exact .ite h (handOn_memOk (writeOvf_memOk (leaseReads_memOk
            (lookUp_memOk (leaseReads_memOk h) hq).frame)))
    · exact h

theorem freeReplan_nextOk {c : Nat} (h : MemOk s) : NextOk (freeReplan c s) := execBiasReplan_nextOk h.frame

theorem focusUnit_memOk {p : PartRef} (h : MemOk s) : MemOk (focusUnit s p) := (focus_memOk h).frame

theorem tagUnit_memOk {pc : W64} (h : MemOk s) : MemOk (tagUnit pc s) :=
  .ite (.ite h.frame h) (.ite h.frame (.ite h.frame h))

theorem tagBegin_memOk {pc : W64} (h : MemOk s) : MemOk (tagBegin pc s) := .ite h (tagUnit_memOk h)

theorem endTag_memOk {hs : List Hint} {w : W32} {t v : State} (hv : MemOk v) : MemOk (endTag hs w t v) := by
  unfold endTag
  dsimp only
  split
  · exact .ite hv.frame hv
  · exact hv

theorem picked_memOk {core seq n : Nat} (h : MemOk s) : MemOk (picked core seq n s) := by
  unfold picked
  extract_lets f g t
  have ht : MemOk t := .ite h.frame h
  exact ht.frame

theorem countUnit_memOk {core seq : Nat} (h : MemOk s) : MemOk (countUnit core seq s) := .ite h h.frame

theorem afterUnit_memOk {hs : List Hint} {w : W32} {t v0 : State} (h : MemOk v0) : MemOk (afterUnit hs w t v0) := by
  unfold afterUnit
  extract_lets core seq v u slots c z y
  have hv : MemOk v := .ite (endTag_memOk h) h
  have hu : MemOk u := .ite (stepStop_memOk hv) hv
  have hy : MemOk y := picked_memOk (setCore_memOk hu)
  exact .ite hu (.ite (.ite (countUnit_memOk hy) hy) (setEmber_memOk hv))

theorem focusSlice_memOk {crew : Nat} (h : MemOk s) : MemOk (focusSlice s crew) := (focusCrew_memOk h).frame

theorem execPost_nextOk (h : MemOk s) : NextOk (execPost s) := by
  unfold execPost
  refine .next ?_
  split
  · exact h
  · exact .ite (putPost_memOk h.frame) h

theorem unknownCommand_memOk {c : Cmd} (h : MemOk s) : MemOk (unknownCommand c s) :=
  .ite h (.ite h.frame (reply_memOk h))

theorem runCommand_nextOk {c : Cmd} (h : MemOk s) : NextOk (runCommand c s) := by
  unfold runCommand
  split
  · exact execLaunch_nextOk h
  · exact execLaunchCaptured_nextOk h
  · exact execEvsignalSet_nextOk h
  · exact execEvsignalClear_nextOk h
  · exact execMapq_nextOk h
  · exact execUnmapq_nextOk h
  · exact execCtxnew_nextOk h
  · exact execCtxnewAllotment_nextOk h
  · exact execCtxnewLanternWays_nextOk h
  · exact execCtxfree_nextOk h
  · exact execHandleCreate_nextOk h
  · exact execHandlePriority_nextOk h
  · exact execHandleMigrate_nextOk h
  · exact execHandleEvict_nextOk h
  · exact execGrant_nextOk h
  · exact execPreempt_nextOk h
  · exact execPreemptResume_nextOk h
  · exact execDebugAttach_nextOk h
  · exact execDebugDetach_nextOk h
  · exact execDebugPcBreakpoint_nextOk h
  · exact execDebugWatchpoint_nextOk h
  · exact execDebugStopCrew_nextOk h
  · exact execDebugResumeCrew_nextOk h
  · exact execDebugEmber_nextOk h
  · exact execDebugGrist_nextOk h
  · exact execDebugIcinv_nextOk h
  · exact execQuote_nextOk h
  · exact execQuoteExtend_nextOk h
  · exact execPowercap_nextOk h
  · exact execCountersAccount_nextOk h
  · exact execCountersReadRegister_nextOk h
  · exact execCountersWriteRegister_nextOk h
  · exact execCountersLifetime_nextOk h
  · exact execKeyset_nextOk h
  · exact .next (unknownCommand_memOk h)

theorem stopServing_memOk {i cause : Nat} (h : MemOk s) : MemOk (stopServing i cause s) :=
  .ite h.frame (faultRun_memOk h.frame)

theorem visitSlot_nextOk {i : Nat} (h : MemOk s) : NextOk (visitSlot i s) := by
  unfold visitSlot
  have hv := execSlotVisit_nextOk (slot := i) h
  split
  · next t ht => exact .next (hv t ht).frame
  · exact hv

theorem applyChange_memOk {x : Change} (h : MemOk s) : MemOk (applyChange x s) := by
  unfold applyChange
  dsimp only
  split
  · exact complete_memOk (testHeads_memOk (updCtx_memOk h))
  · exact testHeads_memOk (updCtx_memOk h)

theorem applyChanges_memOk (h : MemOk s) : MemOk (applyChanges s) := foldl_memOk applyChange_memOk h.frame

theorem settleClock_memOk {c : Nat} (h : MemOk s) : MemOk (settleClock c s) := by
  unfold settleClock
  dsimp only
  split
  · exact .ite h h.frame
  · exact h

theorem tick_memOk (h : MemOk s) : MemOk (tick s) := foldl_memOk settleClock_memOk (applyChanges_memOk h).frame

/-! ### Instructions -/

theorem NextOk.of_eq {o p : Host.Outcome State Fault Refusal} (he : o = p) (hp : NextOk p) : NextOk o := he ▸ hp

theorem execNop_nextOk {r : Run} (h : MemOk s) : NextOk (execNop r s) := unit_nextOk (fun hs => hs.frame) h

theorem execTrap_nextOk {r : Run} {n : BitVec 7} (h : MemOk s) : NextOk (execTrap r n s) :=
  unit_nextOk trapExm_memOk h

theorem execBrk_nextOk {r : Run} {n : BitVec 7} (h : MemOk s) : NextOk (execBrk r n s) :=
  unit_nextOk (fun ht => .ite (stopCrew_memOk ht) (trapExm_memOk ht)) h

theorem withPart_memOk {p : Part} (h : MemOk s) : MemOk { s with part := p } := h.frame

theorem execXret_nextOk {r : Run} (h : MemOk s) : NextOk (execXret r s) := by
  refine unit_nextOk (fun ht => withPart_memOk ?_) h
  split
  · exact .ite (replayCopies_memOk ht.frame) ht.frame
  · exact ht.frame

theorem execMvfs_nextOk {r : Run} {d n : BitVec 7} (h : MemOk s) : NextOk (execMvfs r d n s) :=
  unit_nextOk (fun ht => done_memOk (wrS_memOk ht)) h

theorem execMvts_nextOk {r : Run} {a n : BitVec 7} (h : MemOk s) : NextOk (execMvts r a n s) :=
  unit_nextOk (fun ht => done_memOk (sysWrite_memOk ht)) h

theorem execPtab_nextOk {r : Run} {d a k : BitVec 7} (h : MemOk s) : NextOk (execPtab r d a k s) :=
  unit_nextOk (fun ht => done_memOk (wrS_memOk ht)) h

theorem execWaitcy_nextOk {r : Run} {a : BitVec 7} (h : MemOk s) : NextOk (execWaitcy r a s) :=
  unit_nextOk (fun ht => .ite ht.frame ht.frame) h

theorem execTime_nextOk {r : Run} {d : BitVec 7} (h : MemOk s) : NextOk (execTime r d s) :=
  unit_nextOk (fun ht => done_memOk (wrS_memOk ht)) h

theorem execIcinv_nextOk {r : Run} {a b : BitVec 7} (h : MemOk s) : NextOk (execIcinv r a b s) :=
  unit_nextOk (fun ht => .ite ht.frame ht.frame) h

theorem execStop_nextOk {r : Run} (h : MemOk s) : NextOk (execStop r s) :=
  unit_nextOk (fun ht => .ite (stopCrew_memOk ht) (trapExm_memOk ht)) h

theorem execVrget_nextOk {r : Run} {d a b : BitVec 7} (h : MemOk s) : NextOk (execVrget r d a b s) :=
  unit_nextOk (fun ht => .ite (landed_memOk (fun hu => done_memOk (wrS_memOk hu)) ht) (trapExm_memOk ht)) h

theorem execVrset_nextOk {r : Run} {d a b : BitVec 7} (h : MemOk s) : NextOk (execVrset r d a b s) :=
  unit_nextOk (landed_memOk (fun hu => done_memOk (wrV_memOk hu))) h

theorem execSfq_nextOk {r : Run} {d a : BitVec 7} (h : MemOk s) : NextOk (execSfq r d a s) :=
  unit_nextOk (fun ht => .ite (misaligned_memOk ht) (.ite (aperture_memOk ht) (popRecord_memOk ht))) h

theorem execKillc_nextOk {r : Run} {a : BitVec 7} (h : MemOk s) : NextOk (execKillc r a s) :=
  unit_nextOk killHere_memOk h

theorem execDumpc_nextOk {r : Run} {d a b : BitVec 7} (h : MemOk s) : NextOk (execDumpc r d a b s) :=
  unit_nextOk (fun ht => .ite ht.frame (.ite (misaligned_memOk ht) ht.frame)) h

theorem execCall_nextOk {r : Run} {o : BitVec 18} (h : MemOk s) : NextOk (execCall r o s) :=
  unit_nextOk (fun ht => goto_memOk (wrS_memOk ht)) h

theorem execBdiv_nextOk {r : Run} {n : BitVec 4} {o : BitVec 18} (h : MemOk s) : NextOk (execBdiv r n o s) :=
  unit_nextOk divide_memOk h

theorem execJoin_nextOk {r : Run} {j : BitVec 7} (h : MemOk s) : NextOk (execJoin r j s) :=
  unit_nextOk joinAt_memOk h

theorem execFuse_nextOk {r : Run} {w : BitVec 7} (h : MemOk s) : NextOk (execFuse r w s) :=
  unit_nextOk (waveWide_memOk (fun hs => hs.frame)) h

theorem execExit_nextOk {r : Run} (h : MemOk s) : NextOk (execExit r s) := unit_nextOk (drained_memOk leave_memOk) h

theorem execRet_nextOk {r : Run} (h : MemOk s) : NextOk (execRet r s) := unit_nextOk jumpTo_memOk h

theorem execJr_nextOk {r : Run} {a : BitVec 7} (h : MemOk s) : NextOk (execJr r a s) := unit_nextOk jumpTo_memOk h

theorem execVxopen_nextOk {r : Run} {e : BitVec 7} (h : MemOk s) : NextOk (execVxopen r e s) :=
  unit_nextOk (waveWide_memOk (fun hu => .ite hu.frame hu.frame)) h

theorem execVxclose_nextOk {r : Run} (h : MemOk s) : NextOk (execVxclose r s) :=
  unit_nextOk (waveWide_memOk (fun hu => hu.frame)) h

theorem execExmget_nextOk {r : Run} {d : BitVec 7} (h : MemOk s) : NextOk (execExmget r d s) :=
  unit_nextOk (fun ht => done_memOk (wrS_memOk ht)) h

theorem execMkff_nextOk {r : Run} {d : BitVec 7} (h : MemOk s) : NextOk (execMkff r d s) :=
  unit_nextOk (fun ht => done_memOk (wrM_memOk ht)) h

theorem execSbfx_nextOk {r : Run} {d a : BitVec 7} (h : MemOk s) : NextOk (execSbfx r d a s) :=
  unit_nextOk (fun ht => done_memOk (wrS_memOk ht)) h

theorem execSli_nextOk {r : Run} {d : BitVec 7} {l : BitVec 2} {i : BitVec 16} (h : MemOk s) : NextOk
    (execSli r d l i s) :=
  unit_nextOk (fun ht => done_memOk (wrS_memOk ht)) h

theorem execVwritel_nextOk {r : Run} {d a : BitVec 7} {w : BitVec 3} {i : BitVec 4} (h : MemOk s) : NextOk
    (execVwritel r d a w i s) :=
  unit_nextOk (waveWide_memOk (fun ht => done_memOk (wrV_memOk ht))) h

theorem execMkpop_nextOk {r : Run} {d a : BitVec 7} (h : MemOk s) : NextOk (execMkpop r d a s) :=
  unit_nextOk (fun ht => done_memOk (wrS_memOk ht)) h

theorem execMkmov_nextOk {r : Run} {d a : BitVec 7} (h : MemOk s) : NextOk (execMkmov r d a s) :=
  unit_nextOk (fun ht => done_memOk (wrM_memOk ht)) h

theorem execPref_nextOk {r : Run} {a b : BitVec 7} (h : MemOk s) : NextOk (execPref r a b s) :=
  unit_nextOk (fun ht => done_memOk (foldl_memOk sendFill_memOk ht)) h

theorem execVspill_nextOk {r : Run} {d a n : BitVec 7} (h : MemOk s) : NextOk (execVspill r d a n s) :=
  unit_nextOk (spillChecked_memOk (fun hu => .ite (barrierKill_memOk hu) hu.frame)) h

theorem execVfill_nextOk {r : Run} {d a n : BitVec 7} (h : MemOk s) : NextOk (execVfill r d a n s) :=
  unit_nextOk (fun ht => .ite ht.frame (spillChecked_memOk (fun hu => hu.frame) ht)) h

theorem execLdsp_nextOk {r : Run} {d a b : BitVec 7} (h : MemOk s) : NextOk (execLdsp r d a b s) :=
  unit_nextOk (fun ht => .ite ht.frame (spadChecked_memOk (fun hu => hu.frame) ht)) h

theorem execStsp_nextOk {r : Run} {d a b : BitVec 7} (h : MemOk s) : NextOk (execStsp r d a b s) :=
  unit_nextOk (spadChecked_memOk (spadPut_memOk (fun hs => hs.frame))) h

theorem execFence_nextOk {r : Run} {a : BitVec 7} (h : MemOk s) : NextOk (execFence r a s) :=
  unit_nextOk (faultsFirst_memOk (fun ht => .ite (releaseThen_memOk
    (fun hu => .ite (acquireThen_memOk (fun hs1 => hs1.frame) hu) hu.frame) ht)
    (.ite (acquireThen_memOk (fun hs1 => hs1.frame) ht) ht.frame))) h

theorem execTrkset_nextOk {r : Run} {t a b : BitVec 7} (h : MemOk s) : NextOk (execTrkset r t a b s) := by
  refine unit_nextOk (fun hu => ?_) h
  dsimp only
  split
  · exact hu.frame
  · exact hu.frame
  · exact aperture_memOk hu

theorem execTrksetH_nextOk {r : Run} {t a : BitVec 7} (h : MemOk s) : NextOk (execTrksetH r t a s) :=
  unit_nextOk (fun hu => hu.frame) h

theorem execTrkclr_nextOk {r : Run} {t : BitVec 7} (h : MemOk s) : NextOk (execTrkclr r t s) :=
  unit_nextOk (fun hu => hu.frame) h

theorem execDrainst_nextOk {r : Run} (h : MemOk s) : NextOk (execDrainst r s) :=
  unit_nextOk (drained_memOk (fun hs1 => hs1.frame)) h

theorem execBardef_nextOk {r : Run} {a b : BitVec 7} (h : MemOk s) : NextOk (execBardef r a b s) :=
  unit_nextOk (wordAt_memOk (fun hu => .ite (barrierKill_memOk hu) hu.frame)) h

theorem execBararr_nextOk {r : Run} {d a : BitVec 7} (h : MemOk s) : NextOk (execBararr r d a s) :=
  unit_nextOk (wordAt_memOk (fun hu => .ite (arriveThen_memOk (fun hv => done_memOk (wrS_memOk hv)) hu)
    (barrierKill_memOk hu))) h

theorem execBarwait_nextOk {r : Run} {a b : BitVec 7} (h : MemOk s) : NextOk (execBarwait r a b s) := by
  refine unit_nextOk (fun ht => ?_) h
  split
  · exact phaseWait_memOk ht
  · exact wordAt_memOk (fun hu => .ite (phaseWait_memOk hu) (barrierKill_memOk hu)) ht

theorem execBarc_nextOk {r : Run} {d a : BitVec 7} (h : MemOk s) : NextOk (execBarc r d a s) := by
  refine unit_nextOk (fun ht => ?_) h
  split
  · exact phaseWait_memOk ht
  · exact wordAt_memOk (fun hu => .ite (arriveThen_memOk (fun hv => phaseWait_memOk (wrS_memOk hv)) hu)
      (barrierKill_memOk hu)) ht

theorem execBarinv_nextOk {r : Run} {a : BitVec 7} (h : MemOk s) : NextOk (execBarinv r a s) :=
  unit_nextOk (wordAt_memOk (fun hu => .ite (barrierKill_memOk hu) hu.frame)) h

theorem execCpyl_nextOk {r : Run} {d a b : BitVec 7} (h : MemOk s) : NextOk (execCpyl r d a b s) := by
  refine unit_nextOk (cwAligned_memOk (fun hu => ?_)) h
  split
  · exact trap_memOk hu
  · exact beginCopy_memOk (fun hs => hs.frame) hu

theorem execCpyt_nextOk {r : Run} {a : BitVec 7} (h : MemOk s) : NextOk (execCpyt r a s) :=
  unit_nextOk (fun ht => .ite (misuseImm_memOk ht) (descCopy_memOk ht)) h

theorem execCpyr_nextOk {r : Run} {a : BitVec 7} (h : MemOk s) : NextOk (execCpyr r a s) :=
  unit_nextOk descCopy_memOk h

theorem execBufdef_nextOk {r : Run} {n a b : BitVec 7} (h : MemOk s) : NextOk (execBufdef r n a b s) :=
  unit_nextOk (fun ht => .ite (misaligned_memOk ht) (.ite (misaligned_memOk ht)
    (.ite ht.frame (.ite (aperture_memOk ht) ht.frame)))) h

theorem execBufwait_nextOk {r : Run} {n m : BitVec 7} (h : MemOk s) : NextOk (execBufwait r n m s) :=
  unit_nextOk (fun ht => .ite (.ite ht.frame ht.frame) ht.frame) h

theorem execBufrel_nextOk {r : Run} {n m : BitVec 7} (h : MemOk s) : NextOk (execBufrel r n m s) :=
  unit_nextOk (fun ht => .ite ht.frame ht.frame) h

theorem execBufstat_nextOk {r : Run} {d n : BitVec 7} (h : MemOk s) : NextOk (execBufstat r d n s) :=
  unit_nextOk (fun ht => done_memOk (wrS_memOk ht)) h

theorem execQpop_nextOk {r : Run} {d q : BitVec 7} (h : MemOk s) : NextOk (execQpop r d q s) := by
  refine unit_nextOk (fun ht => ?_) h
  split
  · exact ht.frame
  · exact done_memOk (wrV_memOk ht.frame)

theorem execQpeek_nextOk {r : Run} {d q : BitVec 7} (h : MemOk s) : NextOk (execQpeek r d q s) :=
  unit_nextOk (fun ht => done_memOk (wrS_memOk ht)) h

theorem execAstart_nextOk {r : Run} {a : BitVec 7} (h : MemOk s) : NextOk (execAstart r a s) :=
  unit_nextOk (fun ht => .ite ht.frame ht.frame) h

theorem execAstat_nextOk {r : Run} {d : BitVec 7} (h : MemOk s) : NextOk (execAstat r d s) :=
  unit_nextOk (fun ht => done_memOk (wrS_memOk ht)) h

theorem execMwld_nextOk {r : Run} {a b : BitVec 7} (h : MemOk s) : NextOk (execMwld r a b s) :=
  unit_nextOk acceptCmd_memOk h

theorem execMrdo_nextOk {r : Run} {n a b : BitVec 7} (h : MemOk s) : NextOk (execMrdo r n a b s) :=
  unit_nextOk acceptCmd_memOk h

theorem execMzero_nextOk {r : Run} {n : BitVec 7} (h : MemOk s) : NextOk (execMzero r n s) :=
  unit_nextOk acceptCmd_memOk h

theorem execMacsv_nextOk {r : Run} {n a b : BitVec 7} (h : MemOk s) : NextOk (execMacsv r n a b s) :=
  unit_nextOk acceptCmd_memOk h

theorem execMacld_nextOk {r : Run} {n a b : BitVec 7} (h : MemOk s) : NextOk (execMacld r n a b s) :=
  unit_nextOk acceptCmd_memOk h

theorem execMstat_nextOk {r : Run} {d w : BitVec 7} (h : MemOk s) : NextOk (execMstat r d w s) := by
  refine unit_nextOk (firstFail_memOk ?_ (fun hu => done_memOk (wrS_memOk hu.frame))) h
  simp only [List.forall_mem_cons, List.not_mem_nil, false_imp_iff, implies_true, and_true]
  exact ⟨fun _ => trapExm_memOk, fun _ => trapExm_memOk, fun _ hu => hu.frame, fun _ hu => hu.frame⟩

theorem execTrace_nextOk {r : Run} {d a b : BitVec 7} (h : MemOk s) : NextOk (execTrace r d a b s) :=
  unit_nextOk (drained_memOk (withEntry_memOk (rayPlaces_memOk (fun hu => .ite hu.frame
    (releaseThen_memOk (fun hv => leave_memOk (foldl_memOk takeRay_memOk hv)) hu))))) h

theorem execHitget_nextOk {r : Run} {d a b : BitVec 7} (h : MemOk s) : NextOk (execHitget r d a b s) :=
  unit_nextOk (phaseRead_memOk (fun hu => .ite (phaseRead_memOk
    (phaseRead_memOk (fun hv1 => doneReads_memOk (wrV_memOk hv1))) hu) (doneReads_memOk (wrV_memOk hu)))) h

theorem execAhacc_nextOk {r : Run} (h : MemOk s) : NextOk (execAhacc r s) :=
  unit_nextOk (drained_memOk (commitUnit_memOk commitAny_memOk)) h

theorem execAhrej_nextOk {r : Run} (h : MemOk s) : NextOk (execAhrej r s) :=
  unit_nextOk (drained_memOk (commitUnit_memOk commitAny_memOk)) h

theorem execContend_nextOk {r : Run} {d : BitVec 7} (h : MemOk s) : NextOk (execContend r d s) :=
  unit_nextOk (drained_memOk (withEntry_memOk (releaseThen_memOk
    (fun hv => leave_memOk (foldl_memOk (fun hw => hw.frame) hv))))) h

theorem execContget_nextOk {r : Run} {d k : BitVec 7} (h : MemOk s) : NextOk (execContget r d k s) :=
  unit_nextOk (fun ht => done_memOk (wrV_memOk ht)) h

theorem execLntinv_nextOk {r : Run} {a : BitVec 7} (h : MemOk s) : NextOk (execLntinv r a s) := by
  refine unit_nextOk (checked_memOk (fun hu => ?_)) h
  split
  · exact loadFault_memOk hu
  · exact aperture_memOk hu
  · dsimp only
    split
    · exact .ite hu.frame (.ite (accFault_memOk hu.frame) (.ite (poisonKill_memOk hu.frame)
        (doneReads_memOk (.ite hu.frame hu))))
    · split
      · exact hu.frame
      · next v e =>
          have hv := tryDown_holds hu v e
          exact .ite (holdIn_memOk (send_memOk hv.frame)) hu.frame

theorem execRast_nextOk {r : Run} {d a b : BitVec 7} (h : MemOk s) : NextOk (execRast r d a b s) :=
  unit_nextOk (fun ht => done_memOk (wrS_memOk (wrV_memOk (wrV_memOk (wrV_memOk ht))))) h

theorem execRprj_nextOk {r : Run} {d a b : BitVec 7} (h : MemOk s) : NextOk (execRprj r d a b s) :=
  unit_nextOk (descAt_memOk (phaseRead_memOk (phaseRead_memOk
    (phaseRead_memOk (fun hx => doneReads_memOk (wrM_memOk (foldl_memOk wrV_memOk hx))))))) h

theorem execLnch_nextOk {r : Run} {d a b : BitVec 7} (h : MemOk s) : NextOk (execLnch r d a b s) := by
  refine unit_nextOk (drained_memOk (fun ht => .ite (misaligned_memOk ht) (releaseThen_memOk (fun hu => ?_) ht))) h
  dsimp only
  split
  · exact doneReads_memOk (wrS_memOk hu)
  · refine .ite (doneReads_memOk (wrS_memOk hu)) ?_
    split
    · exact doneReads_memOk (wrS_memOk hu)
    · exact .ite (doneReads_memOk (wrS_memOk hu)) (phaseReadBy_memOk (phaseReadBy_memOk enqueue_memOk) hu)

theorem execEmber_nextOk {r : Run} {a k : BitVec 7} (h : MemOk s) : NextOk (execEmber r a k s) :=
  unit_nextOk (fun ht => .ite ht.frame (.ite (done_memOk (crewSample_memOk ht)) (.ite ht.frame ht.frame))) h

theorem execGrist_nextOk {r : Run} {a b : BitVec 7} (h : MemOk s) : NextOk (execGrist r a b s) :=
  unit_nextOk (fun ht => done_memOk (gristAdd_memOk ht)) h

theorem execIshit_nextOk {r : Run} {a b : BitVec 7} (h : MemOk s) : NextOk (execIshit r a b s) :=
  unit_nextOk (drained_memOk (commitUnit_memOk MemOk.frame)) h

theorem exec_nextOk {i : Instr} (h : MemOk s) : NextOk (exec i s) := by
  cases i with
  | nop => exact .of_eq (exec_nop ..) (execNop_nextOk h)
  | trap => exact .of_eq (exec_trap ..) (execTrap_nextOk h)
  | brk => exact .of_eq (exec_brk ..) (execBrk_nextOk h)
  | xret => exact .of_eq (exec_xret ..) (execXret_nextOk h)
  | mvfs => exact .of_eq (exec_mvfs ..) (execMvfs_nextOk h)
  | mvts => exact .of_eq (exec_mvts ..) (execMvts_nextOk h)
  | ptab => exact .of_eq (exec_ptab ..) (execPtab_nextOk h)
  | waitcy => exact .of_eq (exec_waitcy ..) (execWaitcy_nextOk h)
  | time => exact .of_eq (exec_time ..) (execTime_nextOk h)
  | icinv => exact .of_eq (exec_icinv ..) (execIcinv_nextOk h)
  | stop => exact .of_eq (exec_stop ..) (execStop_nextOk h)
  | vrget => exact .of_eq (exec_vrget ..) (execVrget_nextOk h)
  | vrset => exact .of_eq (exec_vrset ..) (execVrset_nextOk h)
  | sfq => exact .of_eq (exec_sfq ..) (execSfq_nextOk h)
  | killc => exact .of_eq (exec_killc ..) (execKillc_nextOk h)
  | dumpc => exact .of_eq (exec_dumpc ..) (execDumpc_nextOk h)
  | b => exact .of_eq (exec_b ..) (unit_nextOk (fun ht => ht.frame) h)
  | call => exact .of_eq (exec_call ..) (execCall_nextOk h)
  | bz => exact .of_eq (exec_bz ..) (unit_nextOk (fun ht => ht.frame) h)
  | bnz => exact .of_eq (exec_bnz ..) (unit_nextOk (fun ht => ht.frame) h)
  | bneg => exact .of_eq (exec_bneg ..) (unit_nextOk (fun ht => ht.frame) h)
  | bany => exact .of_eq (exec_bany ..) (unit_nextOk (fun ht => ht.frame) h)
  | ball => exact .of_eq (exec_ball ..) (unit_nextOk (fun ht => ht.frame) h)
  | bdiv => exact .of_eq (exec_bdiv ..) (execBdiv_nextOk h)
  | join => exact .of_eq (exec_join ..) (execJoin_nextOk h)
  | fuse => exact .of_eq (exec_fuse ..) (execFuse_nextOk h)
  | splitctl => exact .of_eq (exec_splitctl ..) (unit_nextOk (fun ht => ht.frame) h)
  | exit => exact .of_eq (exec_exit ..) (execExit_nextOk h)
  | ret => exact .of_eq (exec_ret ..) (execRet_nextOk h)
  | jr => exact .of_eq (exec_jr ..) (execJr_nextOk h)
  | vxopen => exact .of_eq (exec_vxopen ..) (execVxopen_nextOk h)
  | vxclose => exact .of_eq (exec_vxclose ..) (execVxclose_nextOk h)
  | exmget => exact .of_eq (exec_exmget ..) (execExmget_nextOk h)
  | exmset => exact .of_eq (exec_exmset ..) (unit_nextOk (fun ht => ht.frame) h)
  | mkff => exact .of_eq (exec_mkff ..) (execMkff_nextOk h)
  | yield => exact .of_eq (exec_yield ..) (unit_nextOk (fun ht => ht.frame) h)
  | sadd => exact .of_eq (exec_sadd ..) (salu_nextOk h)
  | ssub => exact .of_eq (exec_ssub ..) (salu_nextOk h)
  | smul => exact .of_eq (exec_smul ..) (salu_nextOk h)
  | smulh => exact .of_eq (exec_smulh ..) (salu_nextOk h)
  | sand => exact .of_eq (exec_sand ..) (salu_nextOk h)
  | sor => exact .of_eq (exec_sor ..) (salu_nextOk h)
  | sxor => exact .of_eq (exec_sxor ..) (salu_nextOk h)
  | sshl => exact .of_eq (exec_sshl ..) (salu_nextOk h)
  | sshr => exact .of_eq (exec_sshr ..) (salu_nextOk h)
  | ssar => exact .of_eq (exec_ssar ..) (salu_nextOk h)
  | smin => exact .of_eq (exec_smin ..) (salu_nextOk h)
  | smax => exact .of_eq (exec_smax ..) (salu_nextOk h)
  | sminn => exact .of_eq (exec_sminn ..) (salu_nextOk h)
  | smaxn => exact .of_eq (exec_smaxn ..) (salu_nextOk h)
  | sslt => exact .of_eq (exec_sslt ..) (salu_nextOk h)
  | ssltn => exact .of_eq (exec_ssltn ..) (salu_nextOk h)
  | saddi => exact .of_eq (exec_saddi ..) (sali_nextOk h)
  | sandi => exact .of_eq (exec_sandi ..) (sali_nextOk h)
  | sori => exact .of_eq (exec_sori ..) (sali_nextOk h)
  | sxori => exact .of_eq (exec_sxori ..) (sali_nextOk h)
  | sshli => exact .of_eq (exec_sshli ..) (saliShift_nextOk h)
  | sshri => exact .of_eq (exec_sshri ..) (saliShift_nextOk h)
  | ssari => exact .of_eq (exec_ssari ..) (saliShift_nextOk h)
  | sslti => exact .of_eq (exec_sslti ..) (sali_nextOk h)
  | sclz => exact .of_eq (exec_sclz ..) (saliMove_nextOk h)
  | spopc => exact .of_eq (exec_spopc ..) (saliMove_nextOk h)
  | sbfx => exact .of_eq (exec_sbfx ..) (execSbfx_nextOk h)
  | smov => exact .of_eq (exec_smov ..) (saliMove_nextOk h)
  | sld64 => exact .of_eq (exec_sld64 ..) (smemLoad_nextOk h)
  | sld32 => exact .of_eq (exec_sld32 ..) (smemLoad_nextOk h)
  | sst64 => exact .of_eq (exec_sst64 ..) (smemStore_nextOk h)
  | sst32 => exact .of_eq (exec_sst32 ..) (smemStore_nextOk h)
  | sli => exact .of_eq (exec_sli ..) (execSli_nextOk h)
  | vadd => exact .of_eq (exec_vadd ..) (vint_nextOk h)
  | vsub => exact .of_eq (exec_vsub ..) (vint_nextOk h)
  | vmul => exact .of_eq (exec_vmul ..) (vint_nextOk h)
  | vmulh => exact .of_eq (exec_vmulh ..) (vint_nextOk h)
  | vmulhn => exact .of_eq (exec_vmulhn ..) (vint_nextOk h)
  | vand => exact .of_eq (exec_vand ..) (vint_nextOk h)
  | vor => exact .of_eq (exec_vor ..) (vint_nextOk h)
  | vxor => exact .of_eq (exec_vxor ..) (vint_nextOk h)
  | vshl => exact .of_eq (exec_vshl ..) (vint_nextOk h)
  | vshr => exact .of_eq (exec_vshr ..) (vint_nextOk h)
  | vsar => exact .of_eq (exec_vsar ..) (vint_nextOk h)
  | vmin => exact .of_eq (exec_vmin ..) (vint_nextOk h)
  | vmax => exact .of_eq (exec_vmax ..) (vint_nextOk h)
  | vminn => exact .of_eq (exec_vminn ..) (vint_nextOk h)
  | vmaxn => exact .of_eq (exec_vmaxn ..) (vint_nextOk h)
  | vsel => exact .of_eq (exec_vsel ..) (laneUnit_nextOk h)
  | vmad => exact .of_eq (exec_vmad ..) (laneUnit_nextOk h)
  | vabs => exact .of_eq (exec_vabs ..) (laneUnit_nextOk h)
  | vneg => exact .of_eq (exec_vneg ..) (laneUnit_nextOk h)
  | vnot => exact .of_eq (exec_vnot ..) (vint2_nextOk h)
  | vclz => exact .of_eq (exec_vclz ..) (vint2_nextOk h)
  | vpopc => exact .of_eq (exec_vpopc ..) (vint2_nextOk h)
  | vbfx => exact .of_eq (exec_vbfx ..) (laneUnit_nextOk h)
  | vbfi => exact .of_eq (exec_vbfi ..) (laneUnit_nextOk h)
  | vbcst => exact .of_eq (exec_vbcst ..) (laneUnit_nextOk h)
  | vlane => exact .of_eq (exec_vlane ..) (laneUnit_nextOk h)
  | vmov => exact .of_eq (exec_vmov ..) (vint2_nextOk h)
  | vadds => exact .of_eq (exec_vadds ..) (laneUnit_nextOk h)
  | vsubs => exact .of_eq (exec_vsubs ..) (laneUnit_nextOk h)
  | vquad => exact .of_eq (exec_vquad ..) (laneUnit_nextOk h)
  | vbrev => exact .of_eq (exec_vbrev ..) (vint2_nextOk h)
  | vaddi => exact .of_eq (exec_vaddi ..) (vini_nextOk h)
  | vandi => exact .of_eq (exec_vandi ..) (vini_nextOk h)
  | vori => exact .of_eq (exec_vori ..) (vini_nextOk h)
  | vxori => exact .of_eq (exec_vxori ..) (vini_nextOk h)
  | vshli => exact .of_eq (exec_vshli ..) (viniShift_nextOk h)
  | vshri => exact .of_eq (exec_vshri ..) (viniShift_nextOk h)
  | vsari => exact .of_eq (exec_vsari ..) (viniShift_nextOk h)
  | vmuli => exact .of_eq (exec_vmuli ..) (vini_nextOk h)
  | fadd => exact .of_eq (exec_fadd ..) (fpUnit_nextOk h)
  | fsub => exact .of_eq (exec_fsub ..) (fpUnit_nextOk h)
  | fmul => exact .of_eq (exec_fmul ..) (fpUnit_nextOk h)
  | ffma => exact .of_eq (exec_ffma ..) (vfma_nextOk h)
  | ffms => exact .of_eq (exec_ffms ..) (vfma_nextOk h)
  | fnma => exact .of_eq (exec_fnma ..) (vfma_nextOk h)
  | fmin => exact .of_eq (exec_fmin ..) (fpUnit_nextOk h)
  | fmax => exact .of_eq (exec_fmax ..) (fpUnit_nextOk h)
  | fabs => exact .of_eq (exec_fabs ..) (laneUnit_nextOk h)
  | fneg => exact .of_eq (exec_fneg ..) (laneUnit_nextOk h)
  | fcps => exact .of_eq (exec_fcps ..) (laneUnit_nextOk h)
  | frnd => exact .of_eq (exec_frnd ..) (fpUnit_nextOk h)
  | ffrc => exact .of_eq (exec_ffrc ..) (fpUnit_nextOk h)
  | fscl => exact .of_eq (exec_fscl ..) (fpUnit_nextOk h)
  | fexn => exact .of_eq (exec_fexn ..) (laneUnit_nextOk h)
  | frcp => exact .of_eq (exec_frcp ..) (vf32x_nextOk h)
  | frsq => exact .of_eq (exec_frsq ..) (vf32x_nextOk h)
  | fsqrt => exact .of_eq (exec_fsqrt ..) (vf32x_nextOk h)
  | fdiv => exact .of_eq (exec_fdiv ..) (fpUnit_nextOk h)
  | fexp2 => exact .of_eq (exec_fexp2 ..) (vf32x_nextOk h)
  | flog2 => exact .of_eq (exec_flog2 ..) (vf32x_nextOk h)
  | fsin => exact .of_eq (exec_fsin ..) (vf32x_nextOk h)
  | fcos => exact .of_eq (exec_fcos ..) (vf32x_nextOk h)
  | ftanh => exact .of_eq (exec_ftanh ..) (vf32x_nextOk h)
  | fcls => exact .of_eq (exec_fcls ..) (laneUnit_nextOk h)
  | hadd => exact .of_eq (exec_hadd ..) (vf16_nextOk h)
  | hmul => exact .of_eq (exec_hmul ..) (vf16_nextOk h)
  | hfma => exact .of_eq (exec_hfma ..) (vf16fma_nextOk h)
  | badd => exact .of_eq (exec_badd ..) (vf16_nextOk h)
  | bmul => exact .of_eq (exec_bmul ..) (vf16_nextOk h)
  | bfma => exact .of_eq (exec_bfma ..) (vf16fma_nextOk h)
  | hdot => exact .of_eq (exec_hdot ..) (vdot_nextOk h)
  | bdot => exact .of_eq (exec_bdot ..) (vdot_nextOk h)
  | cvtF32S32 => exact .of_eq (exec_cvtF32S32 ..) (fpUnit_nextOk h)
  | cvtF32N32 => exact .of_eq (exec_cvtF32N32 ..) (fpUnit_nextOk h)
  | cvtS32F32 => exact .of_eq (exec_cvtS32F32 ..) (fpUnit_nextOk h)
  | cvtN32F32 => exact .of_eq (exec_cvtN32F32 ..) (fpUnit_nextOk h)
  | cvtF16x2 => exact .of_eq (exec_cvtF16x2 ..) (vcvt2_nextOk h)
  | cvtBf16x2 => exact .of_eq (exec_cvtBf16x2 ..) (vcvt2_nextOk h)
  | cvtF32F16 => exact .of_eq (exec_cvtF32F16 ..) (fpUnit_nextOk h)
  | cvtF32Bf16 => exact .of_eq (exec_cvtF32Bf16 ..) (fpUnit_nextOk h)
  | cvtF8e4 => exact .of_eq (exec_cvtF8e4 ..) (vcvt8_nextOk h)
  | cvtF8e5 => exact .of_eq (exec_cvtF8e5 ..) (vcvt8_nextOk h)
  | cvtF32F8 => exact .of_eq (exec_cvtF32F8 ..) (fpUnit_nextOk h)
  | plane => exact .of_eq (exec_plane ..) (planeUnit_nextOk h)
  | unplane => exact .of_eq (exec_unplane ..) (planeUnit_nextOk h)
  | cvtS8 => exact .of_eq (exec_cvtS8 ..) (laneUnit_nextOk h)
  | cvtS32S8 => exact .of_eq (exec_cvtS32S8 ..) (laneUnit_nextOk h)
  | vshfl => exact .of_eq (exec_vshfl ..) (vxl_nextOk h)
  | vshfx => exact .of_eq (exec_vshfx ..) (vxl_nextOk h)
  | vshup => exact .of_eq (exec_vshup ..) (vxl_nextOk h)
  | vshdn => exact .of_eq (exec_vshdn ..) (vxl_nextOk h)
  | vredAddS32 => exact .of_eq (exec_vredAddS32 ..) (vxl_nextOk h)
  | vredAddF32 => exact .of_eq (exec_vredAddF32 ..) (vxl_nextOk h)
  | vredMin => exact .of_eq (exec_vredMin ..) (vxl_nextOk h)
  | vredMax => exact .of_eq (exec_vredMax ..) (vxl_nextOk h)
  | vscanAddS32 => exact .of_eq (exec_vscanAddS32 ..) (vxl_nextOk h)
  | vscanAddF32 => exact .of_eq (exec_vscanAddF32 ..) (vxl_nextOk h)
  | vvote => exact .of_eq (exec_vvote ..) (vxl_nextOk h)
  | vfirst => exact .of_eq (exec_vfirst ..) (vxl_nextOk h)
  | vreadl => exact .of_eq (exec_vreadl ..) (vxl_nextOk h)
  | vwritel => exact .of_eq (exec_vwritel ..) (execVwritel_nextOk h)
  | vmatch => exact .of_eq (exec_vmatch ..) (vxl_nextOk h)
  | cmpeq => exact .of_eq (exec_cmpeq ..) (cmp_nextOk h)
  | cmpne => exact .of_eq (exec_cmpne ..) (cmp_nextOk h)
  | cmplt => exact .of_eq (exec_cmplt ..) (cmp_nextOk h)
  | cmple => exact .of_eq (exec_cmple ..) (cmp_nextOk h)
  | cmpltn => exact .of_eq (exec_cmpltn ..) (cmp_nextOk h)
  | cmplen => exact .of_eq (exec_cmplen ..) (cmp_nextOk h)
  | fcmpeq => exact .of_eq (exec_fcmpeq ..) (fcmp_nextOk h)
  | fcmplt => exact .of_eq (exec_fcmplt ..) (fcmp_nextOk h)
  | fcmple => exact .of_eq (exec_fcmple ..) (fcmp_nextOk h)
  | fcmpun => exact .of_eq (exec_fcmpun ..) (fcmp_nextOk h)
  | mkand => exact .of_eq (exec_mkand ..) (mkop_nextOk h)
  | mkor => exact .of_eq (exec_mkor ..) (mkop_nextOk h)
  | mkxor => exact .of_eq (exec_mkxor ..) (mkop_nextOk h)
  | mkandn => exact .of_eq (exec_mkandn ..) (mkop_nextOk h)
  | mkpop => exact .of_eq (exec_mkpop ..) (execMkpop_nextOk h)
  | mkmov => exact .of_eq (exec_mkmov ..) (execMkmov_nextOk h)
  | ldB => exact .of_eq (exec_ldB ..) (vmemLoad_nextOk h)
  | ldBs => exact .of_eq (exec_ldBs ..) (vmemLoad_nextOk h)
  | ldH => exact .of_eq (exec_ldH ..) (vmemLoad_nextOk h)
  | ldHs => exact .of_eq (exec_ldHs ..) (vmemLoad_nextOk h)
  | ldW => exact .of_eq (exec_ldW ..) (vmemLoad_nextOk h)
  | ldD => exact .of_eq (exec_ldD ..) (vmemLoad_nextOk h)
  | ldQ => exact .of_eq (exec_ldQ ..) (vmemLoad_nextOk h)
  | ldnW => exact .of_eq (exec_ldnW ..) (vmemLoad_nextOk h)
  | stB => exact .of_eq (exec_stB ..) (vmemStore_nextOk h)
  | stH => exact .of_eq (exec_stH ..) (vmemStore_nextOk h)
  | stW => exact .of_eq (exec_stW ..) (vmemStore_nextOk h)
  | stD => exact .of_eq (exec_stD ..) (vmemStore_nextOk h)
  | stQ => exact .of_eq (exec_stQ ..) (vmemStore_nextOk h)
  | pref => exact .of_eq (exec_pref ..) (execPref_nextOk h)
  | ldnD => exact .of_eq (exec_ldnD ..) (vmemLoad_nextOk h)
  | ldsW => exact .of_eq (exec_ldsW ..) (spadLoad_nextOk h)
  | ldsD => exact .of_eq (exec_ldsD ..) (spadLoad_nextOk h)
  | ldsQ => exact .of_eq (exec_ldsQ ..) (spadLoad_nextOk h)
  | stsW => exact .of_eq (exec_stsW ..) (spadStore_nextOk h)
  | stsD => exact .of_eq (exec_stsD ..) (spadStore_nextOk h)
  | stsQ => exact .of_eq (exec_stsQ ..) (spadStore_nextOk h)
  | vspill => exact .of_eq (exec_vspill ..) (execVspill_nextOk h)
  | vfill => exact .of_eq (exec_vfill ..) (execVfill_nextOk h)
  | ldsp => exact .of_eq (exec_ldsp ..) (execLdsp_nextOk h)
  | stsp => exact .of_eq (exec_stsp ..) (execStsp_nextOk h)
  | aadd => exact .of_eq (exec_aadd ..) (atom_nextOk h)
  | aand => exact .of_eq (exec_aand ..) (atom_nextOk h)
  | aor => exact .of_eq (exec_aor ..) (atom_nextOk h)
  | axor => exact .of_eq (exec_axor ..) (atom_nextOk h)
  | amin => exact .of_eq (exec_amin ..) (atom_nextOk h)
  | amax => exact .of_eq (exec_amax ..) (atom_nextOk h)
  | aminn => exact .of_eq (exec_aminn ..) (atom_nextOk h)
  | amaxn => exact .of_eq (exec_amaxn ..) (atom_nextOk h)
  | axch => exact .of_eq (exec_axch ..) (atom_nextOk h)
  | acas => exact .of_eq (exec_acas ..) (atom_nextOk h)
  | aaddf => exact .of_eq (exec_aaddf ..) (atom_nextOk h)
  | aincw => exact .of_eq (exec_aincw ..) (atom_nextOk h)
  | ald => exact .of_eq (exec_ald ..) (atom_nextOk h)
  | ast => exact .of_eq (exec_ast ..) (atom_nextOk h)
  | fence => exact .of_eq (exec_fence ..) (execFence_nextOk h)
  | trkset => exact .of_eq (exec_trkset ..) (execTrkset_nextOk h)
  | trksetH => exact .of_eq (exec_trksetH ..) (execTrksetH_nextOk h)
  | trkclr => exact .of_eq (exec_trkclr ..) (execTrkclr_nextOk h)
  | drainst => exact .of_eq (exec_drainst ..) (execDrainst_nextOk h)
  | waita => exact .of_eq (exec_waita ..) (execWaita_nextOk h)
  | bardef => exact .of_eq (exec_bardef ..) (execBardef_nextOk h)
  | bararr => exact .of_eq (exec_bararr ..) (execBararr_nextOk h)
  | barwait => exact .of_eq (exec_barwait ..) (execBarwait_nextOk h)
  | barc => exact .of_eq (exec_barc ..) (execBarc_nextOk h)
  | barinv => exact .of_eq (exec_barinv ..) (execBarinv_nextOk h)
  | cpyl => exact .of_eq (exec_cpyl ..) (execCpyl_nextOk h)
  | cpyt => exact .of_eq (exec_cpyt ..) (execCpyt_nextOk h)
  | cpyr => exact .of_eq (exec_cpyr ..) (execCpyr_nextOk h)
  | bufdef => exact .of_eq (exec_bufdef ..) (execBufdef_nextOk h)
  | bufwait => exact .of_eq (exec_bufwait ..) (execBufwait_nextOk h)
  | bufrel => exact .of_eq (exec_bufrel ..) (execBufrel_nextOk h)
  | bufstat => exact .of_eq (exec_bufstat ..) (execBufstat_nextOk h)
  | qpop => exact .of_eq (exec_qpop ..) (execQpop_nextOk h)
  | qpeek => exact .of_eq (exec_qpeek ..) (execQpeek_nextOk h)
  | aloop => exact .of_eq (exec_aloop ..) (execAloop_nextOk h)
  | aend => exact .of_eq (exec_aend ..) (execAend_nextOk h)
  | astrm => exact .of_eq (exec_astrm ..) (execAstrm_nextOk h)
  | acpy => exact .of_eq (exec_acpy ..) (execAcpy_nextOk h)
  | asig => exact .of_eq (exec_asig ..) (execAsig_nextOk h)
  | ahalt => exact .of_eq (exec_ahalt ..) (execAhalt_nextOk h)
  | astart => exact .of_eq (exec_astart ..) (execAstart_nextOk h)
  | astat => exact .of_eq (exec_astat ..) (execAstat_nextOk h)
  | mwld => exact .of_eq (exec_mwld ..) (execMwld_nextOk h)
  | mstr => exact .of_eq (exec_mstr ..) (mstr_nextOk h)
  | mstrQueue => exact .of_eq (exec_mstrQueue ..) (mstr_nextOk h)
  | mrdo => exact .of_eq (exec_mrdo ..) (execMrdo_nextOk h)
  | mzero => exact .of_eq (exec_mzero ..) (execMzero_nextOk h)
  | macsv => exact .of_eq (exec_macsv ..) (execMacsv_nextOk h)
  | macld => exact .of_eq (exec_macld ..) (execMacld_nextOk h)
  | mstat => exact .of_eq (exec_mstat ..) (execMstat_nextOk h)
  | trace => exact .of_eq (exec_trace ..) (execTrace_nextOk h)
  | hitget => exact .of_eq (exec_hitget ..) (execHitget_nextOk h)
  | ahacc => exact .of_eq (exec_ahacc ..) (execAhacc_nextOk h)
  | ahrej => exact .of_eq (exec_ahrej ..) (execAhrej_nextOk h)
  | contend => exact .of_eq (exec_contend ..) (execContend_nextOk h)
  | contget => exact .of_eq (exec_contget ..) (execContget_nextOk h)
  | lntinv => exact .of_eq (exec_lntinv ..) (execLntinv_nextOk h)
  | ishit => exact .of_eq (exec_ishit ..) (execIshit_nextOk h)
  | rast => exact .of_eq (exec_rast ..) (execRast_nextOk h)
  | rprj => exact .of_eq (exec_rprj ..) (execRprj_nextOk h)
  | tex => exact .of_eq (exec_tex ..) (texUnit_nextOk h)
  | texl => exact .of_eq (exec_texl ..) (texUnit_nextOk h)
  | lnch => exact .of_eq (exec_lnch ..) (execLnch_nextOk h)
  | evset => exact .of_eq (exec_evset ..) (eventUnit_nextOk h)
  | evclr => exact .of_eq (exec_evclr ..) (eventUnit_nextOk h)
  | ember => exact .of_eq (exec_ember ..) (execEmber_nextOk h)
  | grist => exact .of_eq (exec_grist ..) (execGrist_nextOk h)
  | missSplit => exact .of_eq (exec_missSplit ..) (execMissSplit_nextOk h)
  | joinTimeout => exact .of_eq (exec_joinTimeout ..) (execJoinTimeout_nextOk h)
  | fuseWatchdogExpiry => exact .of_eq (exec_fuseWatchdogExpiry ..) (execFuseWatchdogExpiry_nextOk h)
  | loadDataReturn => exact .of_eq (exec_loadDataReturn ..) (execLoadDataReturn_nextOk h)
  | storeAccepted => exact .of_eq (exec_storeAccepted ..) (execStoreAccepted_nextOk h)
  | storeFaultReport => exact .of_eq (exec_storeFaultReport ..) (execStoreFaultReport_nextOk h)
  | accessAnswer => exact .of_eq (exec_accessAnswer ..) (execAccessAnswer_nextOk h)
  | homeAccess => exact .of_eq (exec_homeAccess ..) (execHomeAccess_nextOk h)
  | fenceReleaseComplete => exact .of_eq (exec_fenceReleaseComplete ..) (execFenceReleaseComplete_nextOk h)
  | waitaTimeout => exact .of_eq (exec_waitaTimeout ..) (execWaitaTimeout_nextOk h)
  | waitcyEnd => exact .of_eq (exec_waitcyEnd ..) (execWaitcyEnd_nextOk h)
  | copyComplete => exact .of_eq (exec_copyComplete ..) (execCopyComplete_nextOk h)
  | reduceTicketPoll => exact .of_eq (exec_reduceTicketPoll ..) (execReduceTicketPoll_nextOk h)
  | reduceTicketRelease => exact .of_eq (exec_reduceTicketRelease ..) (execReduceTicketRelease_nextOk h)
  | copySquash => exact .of_eq (exec_copySquash ..) (execCopySquash_nextOk h)
  | astrmPush => exact .of_eq (exec_astrmPush ..) (execAstrmPush_nextOk h)
  | matrixCommandStands => exact .of_eq (exec_matrixCommandStands ..) (execMatrixCommandStands_nextOk h)
  | mwldLatch => exact .of_eq (exec_mwldLatch ..) (execMwldLatch_nextOk h)
  | rayEnd => exact .of_eq (exec_rayEnd ..) (execRayEnd_nextOk h)
  | rayHandoff => exact .of_eq (exec_rayHandoff ..) (execRayHandoff_nextOk h)
  | gatherTimeout => exact .of_eq (exec_gatherTimeout ..) (execGatherTimeout_nextOk h)
  | vaultSample => exact .of_eq (exec_vaultSample ..) (execVaultSample_nextOk h)
  | thermalTrip => exact .of_eq (exec_thermalTrip ..) (execThermalTrip_nextOk h)
  | packagePowerOff => exact .of_eq (exec_packagePowerOff ..) (execPackagePowerOff_nextOk h)
  | droopTrip => exact .of_eq (exec_droopTrip ..) (execDroopTrip_nextOk h)
  | gutterRestore => exact .of_eq (exec_gutterRestore ..) (execGutterRestore_nextOk h)
  | biasReplan => exact .of_eq (exec_biasReplan ..) (execBiasReplan_nextOk h)
  | biasCodeStep => exact .of_eq (exec_biasCodeStep ..) (execBiasCodeStep_nextOk h)
  | bbiasCodeWrite => exact .of_eq (exec_bbiasCodeWrite ..) (execBbiasCodeWrite_nextOk h)
  | taperEstimate => exact .of_eq (exec_taperEstimate ..) (execTaperEstimate_nextOk h)
  | taperRampEnd => exact .of_eq (exec_taperRampEnd ..) (execTaperRampEnd_nextOk h)
  | eccCorrected => exact .of_eq (exec_eccCorrected ..) (execEccCorrected_nextOk h)
  | eccUncorrectable => exact .of_eq (exec_eccUncorrectable ..) (execEccUncorrectable_nextOk h)
  | backgroundScrub => exact .of_eq (exec_backgroundScrub ..) (execBackgroundScrub_nextOk h)
  | slotVisit => exact .of_eq (exec_slotVisit ..) (execSlotVisit_nextOk h)
  | launchStart => exact .of_eq (exec_launchStart ..) (execLaunchStart_nextOk h)
  | crewRetire => exact .of_eq (exec_crewRetire ..) (execCrewRetire_nextOk h)
  | swapOut => exact .of_eq (exec_swapOut ..) (execSwapOut_nextOk h)
  | preemptDone => exact .of_eq (exec_preemptDone ..) (execPreemptDone_nextOk h)
  | dumpcDone => exact .of_eq (exec_dumpcDone ..) (execDumpcDone_nextOk h)
  | handleMigrationEnd => exact .of_eq (exec_handleMigrationEnd ..) (execHandleMigrationEnd_nextOk h)
  | notify => exact .of_eq (exec_notify ..) (execNotify_nextOk h)
  | admqWrite => exact .of_eq (exec_admqWrite ..) (execAdmqWrite_nextOk h)
  | resetWrite => exact .of_eq (exec_resetWrite ..) (execResetWrite_nextOk h)
  | registerWrite => exact .of_eq (exec_registerWrite ..) (execRegisterWrite_nextOk h)
  | moduleBoot => exact .of_eq (exec_moduleBoot ..) (execModuleBoot_nextOk h)
  | hostMemoryWrite => exact .of_eq (exec_hostMemoryWrite ..) (execHostMemoryWrite_nextOk h)
  | hostMemoryRead => exact .of_eq (exec_hostMemoryRead ..) (execHostMemoryRead_nextOk h)
  | launch => exact .of_eq (exec_launch ..) (execLaunch_nextOk h)
  | launchCaptured => exact .of_eq (exec_launchCaptured ..) (execLaunchCaptured_nextOk h)
  | evsignalSet => exact .of_eq (exec_evsignalSet ..) (execEvsignalSet_nextOk h)
  | evsignalClear => exact .of_eq (exec_evsignalClear ..) (execEvsignalClear_nextOk h)
  | mapq => exact .of_eq (exec_mapq ..) (execMapq_nextOk h)
  | unmapq => exact .of_eq (exec_unmapq ..) (execUnmapq_nextOk h)
  | ctxnew => exact .of_eq (exec_ctxnew ..) (execCtxnew_nextOk h)
  | ctxnewAllotment => exact .of_eq (exec_ctxnewAllotment ..) (execCtxnewAllotment_nextOk h)
  | ctxnewLanternWays => exact .of_eq (exec_ctxnewLanternWays ..) (execCtxnewLanternWays_nextOk h)
  | ctxfree => exact .of_eq (exec_ctxfree ..) (execCtxfree_nextOk h)
  | handleCreate => exact .of_eq (exec_handleCreate ..) (execHandleCreate_nextOk h)
  | handlePriority => exact .of_eq (exec_handlePriority ..) (execHandlePriority_nextOk h)
  | handleMigrate => exact .of_eq (exec_handleMigrate ..) (execHandleMigrate_nextOk h)
  | handleEvict => exact .of_eq (exec_handleEvict ..) (execHandleEvict_nextOk h)
  | grant => exact .of_eq (exec_grant ..) (execGrant_nextOk h)
  | preempt => exact .of_eq (exec_preempt ..) (execPreempt_nextOk h)
  | preemptResume => exact .of_eq (exec_preemptResume ..) (execPreemptResume_nextOk h)
  | debugAttach => exact .of_eq (exec_debugAttach ..) (execDebugAttach_nextOk h)
  | debugDetach => exact .of_eq (exec_debugDetach ..) (execDebugDetach_nextOk h)
  | debugPcBreakpoint => exact .of_eq (exec_debugPcBreakpoint ..) (execDebugPcBreakpoint_nextOk h)
  | debugWatchpoint => exact .of_eq (exec_debugWatchpoint ..) (execDebugWatchpoint_nextOk h)
  | debugStopCrew => exact .of_eq (exec_debugStopCrew ..) (execDebugStopCrew_nextOk h)
  | debugResumeCrew => exact .of_eq (exec_debugResumeCrew ..) (execDebugResumeCrew_nextOk h)
  | debugEmber => exact .of_eq (exec_debugEmber ..) (execDebugEmber_nextOk h)
  | debugGrist => exact .of_eq (exec_debugGrist ..) (execDebugGrist_nextOk h)
  | debugIcinv => exact .of_eq (exec_debugIcinv ..) (execDebugIcinv_nextOk h)
  | quote => exact .of_eq (exec_quote ..) (execQuote_nextOk h)
  | quoteExtend => exact .of_eq (exec_quoteExtend ..) (execQuoteExtend_nextOk h)
  | powercap => exact .of_eq (exec_powercap ..) (execPowercap_nextOk h)
  | countersAccount => exact .of_eq (exec_countersAccount ..) (execCountersAccount_nextOk h)
  | countersReadRegister => exact .of_eq (exec_countersReadRegister ..) (execCountersReadRegister_nextOk h)
  | countersWriteRegister => exact .of_eq (exec_countersWriteRegister ..) (execCountersWriteRegister_nextOk h)
  | countersLifetime => exact .of_eq (exec_countersLifetime ..) (execCountersLifetime_nextOk h)
  | keyset => exact .of_eq (exec_keyset ..) (execKeyset_nextOk h)
  | powerEstimate => exact .of_eq (exec_powerEstimate ..) (execPowerEstimate_nextOk h)
  | capExpiry => exact .of_eq (exec_capExpiry ..) (execCapExpiry_nextOk h)
  | lifetimeRecordWrite => exact .of_eq (exec_lifetimeRecordWrite ..) (execLifetimeRecordWrite_nextOk h)
  | emberTag => exact .of_eq (exec_emberTag ..) (execEmberTag_nextOk h)
  | emberRecord => exact .of_eq (exec_emberRecord ..) (execEmberRecord_nextOk h)
  | flitCrcReplay => exact .of_eq (exec_flitCrcReplay ..) (execFlitCrcReplay_nextOk h)
  | inboundAccess => exact .of_eq (exec_inboundAccess ..) (execInboundAccess_nextOk h)
  | remoteAnswer => exact .of_eq (exec_remoteAnswer ..) (execRemoteAnswer_nextOk h)
  | remoteAccessTimeout => exact .of_eq (exec_remoteAccessTimeout ..) (execRemoteAccessTimeout_nextOk h)
  | syncFlitSend => exact .of_eq (exec_syncFlitSend ..) (execSyncFlitSend_nextOk h)
  | syncFlitReceive => exact .of_eq (exec_syncFlitReceive ..) (execSyncFlitReceive_nextOk h)
  | portSyncTimeout => exact .of_eq (exec_portSyncTimeout ..) (execPortSyncTimeout_nextOk h)
  | quoteRequestFlit => exact .of_eq (exec_quoteRequestFlit ..) (execQuoteRequestFlit_nextOk h)
  | powerCapFlit => exact .of_eq (exec_powerCapFlit ..) (execPowerCapFlit_nextOk h)
  | illegalInstruction => exact .of_eq (exec_illegalInstruction ..) (execIllegalInstruction_nextOk h)
  | fetchFailure => exact .of_eq (exec_fetchFailure ..) (execFetchFailure_nextOk h)
  | icinvComplete => exact .of_eq (exec_icinvComplete ..) (execIcinvComplete_nextOk h)
  | copyError => exact .of_eq (exec_copyError ..) (execCopyError_nextOk h)
  | intersectionShaderInvoke =>
    exact .of_eq (exec_intersectionShaderInvoke ..) (execIntersectionShaderInvoke_nextOk h)

/-! ### Turns -/

theorem firstOf_holds {l : List Event} (hl : ∀ e ∈ l, NextOk (e s)) : Holds NextOk (firstOf s l) := by
  induction l with
  | nil => exact .none
  | cons e l ih =>
    unfold firstOf
    have he := hl e List.mem_cons_self
    split
    · next ht => exact .ite (ih fun x hx => hl x (List.mem_cons_of_mem _ hx)) (.some (ht ▸ he))
    · exact .some he

theorem issue_nextOk (h : MemOk s) : NextOk (issue s) := by
  unfold issue
  split
  · split
    · exact .next (fetchKill_memOk h)
    · next ht =>
      have ht := nextUnit_memOk h ht
      split
      · next hv => exact .next (exec_nextOk (takeTurn_memOk ht) _ hv).frame
      · exact exec_nextOk (takeTurn_memOk ht)
  · split
    · exact .next (fetchKill_memOk h.frame)
    · next ht =>
      have ht := nextUnit_memOk h.frame ht
      split
      · next hv => exact .next (afterUnit_memOk (exec_nextOk (tagBegin_memOk ht) _ hv))
      · exact exec_nextOk (tagBegin_memOk ht)

theorem nextPick_holds (h : MemOk s) : Holds NextOk (nextPick s) :=
  .mapAny (.ite (execEmberTag_nextOk (focusUnit_memOk h)) (issue_nextOk (focusUnit_memOk h)))

theorem takePick_nextOk {t : Turn} {rest : List Turn} (h : MemOk s) : NextOk (takePick t rest s) := by
  unfold takePick
  dsimp only
  split
  · exact .ite (.ite (execEmberTag_nextOk h) (issue_nextOk (focusUnit_memOk h.frame))) (.next h.frame)
  · exact .ite (issue_nextOk (focusSlice_memOk h.frame)) (.next h.frame)

theorem takeRecord_nextOk {i : Nat} {v : Via} {hdr : Nat} {words : List W64} (h : MemOk s) :
    NextOk (takeRecord i v hdr words s) := by
  unfold takeRecord
  refine .ite ?_ (runCommand_nextOk (advanceHead_memOk h))
  have hc := runCommand_nextOk (c := { slot := i, words := words }) (holdSlot_memOk (slot := i) (words := words) h)
  split
  · next t ht =>
    have hu : MemOk (freeSlot i t) := freeSlot_memOk (hc t ht)
    exact .next (.ite hu (advanceHead_memOk hu))
  · exact hc

theorem serveSlot_nextOk {i : Nat} (h : MemOk s) : NextOk (serveSlot i s) := by
  unfold serveSlot
  refine .ite (.next h) ?_
  split
  · refine .ite (.next h) ?_
    split
    · exact .ite (takeRecord_nextOk h) (.next h)
    · exact .next h
  · exact runCommand_nextOk h.frame
  · split
    · exact .next (stopServing_memOk h)
    · split
      · exact .next (stopServing_memOk h)
      · refine .ite (.next h.frame) ?_
        split
        · exact .next (stopServing_memOk h)
        · exact takeRecord_nextOk h

/-- The invariant for a list of events: each of them keeps memory canonical. -/

def EventsOk (l : List Event) : Prop := ∀ e ∈ l, ∀ {s}, MemOk s → NextOk (e s)

namespace EventsOk

variable {l m : List Event}

theorem nil : EventsOk [] := fun _ h => nomatch h

theorem cons {e : Event} (he : ∀ {s}, MemOk s → NextOk (e s)) (hl : EventsOk l) : EventsOk (e :: l) :=
  List.forall_mem_cons.2 ⟨@he, hl⟩

theorem single {e : Event} (he : ∀ {s}, MemOk s → NextOk (e s)) : EventsOk [e] := cons he nil

theorem append (hl : EventsOk l) (hm : EventsOk m) : EventsOk (l ++ m) := List.forall_mem_append.2 ⟨hl, hm⟩

theorem map {f : α → Event} {xs : List α} (hf : ∀ {x s}, MemOk s → NextOk (f x s)) : EventsOk (xs.map f) :=
  List.forall_mem_map.2 fun _ _ => hf

theorem flatMap {f : α → List Event} {xs : List α} (hf : ∀ {x}, EventsOk (f x)) : EventsOk (xs.flatMap f) := by
  intro e he
  obtain ⟨x, -, hx⟩ := List.mem_flatMap.1 he
  exact hf e hx

theorem ite {c : Prop} {_ : Decidable c} (hl : EventsOk l) (hm : EventsOk m) : EventsOk (if c then l else m) := by
  split
  · exact hl
  · exact hm

end EventsOk

theorem netEvents_ok : EventsOk (netEvents s) :=
  .flatMap (.cons execHomeAccess_nextOk (.cons execAccessAnswer_nextOk (.single execRemoteAccessTimeout_nextOk)))

theorem partEvents_ok {p : PartRef} {q : Part} : EventsOk (partEvents p q) :=
  .append (.map execLoadDataReturn_nextOk) (.cons execFenceReleaseComplete_nextOk (.single execIcinvComplete_nextOk))

theorem engineEvents_ok {c : Crew} : EventsOk (engineEvents c) := by
  refine .append (.append (.flatMap ?_) (.flatMap (.append (.map execCopyError_nextOk) ?_))) ?_
  · exact .cons execStoreAccepted_nextOk (.single execStoreFaultReport_nextOk)
  · exact .cons execReduceTicketPoll_nextOk (.cons execCopyComplete_nextOk (.single execReduceTicketRelease_nextOk))
  · exact .cons execAstrmPush_nextOk (.cons execMatrixCommandStands_nextOk (.cons execMwldLatch_nextOk
      (.cons execDumpcDone_nextOk (.single execSwapOut_nextOk))))

theorem retireEvents_ok : EventsOk (retireEvents s) := .map execCrewRetire_nextOk

theorem crewEvents_ok : EventsOk (crewEvents s) :=
  .flatMap (.append (.flatMap (.flatMap partEvents_ok)) engineEvents_ok)

theorem rayEvents_ok : EventsOk (rayEvents s) :=
  .append
    (.flatMap (.cons execRayHandoff_nextOk (.cons execIntersectionShaderInvoke_nextOk (.single execRayEnd_nextOk))))
    (.map execGatherTimeout_nextOk)

theorem lampEvents_ok : EventsOk (lampEvents s) := by
  refine .append (.append (.append (.append (.append ?_ ?_) ?_) ?_) ?_) ?_
  · exact .cons execPost_nextOk (.map serveSlot_nextOk)
  · exact .map execLaunchStart_nextOk
  · exact .map execPreemptDone_nextOk
  · exact .flatMap (.ite .nil (.single execHandleMigrationEnd_nextOk))
  · exact .cons execIcinvComplete_nextOk (.single execCapExpiry_nextOk)
  · exact .map visitSlot_nextOk

theorem packageEvents_ok : EventsOk (packageEvents s) :=
  .append (.append (.map execTaperRampEnd_nextOk) (.flatMap (.cons execPortSyncTimeout_nextOk
    (.single fun h => .next (answerQuote_memOk h))))) (.single fun h => .ite (execPackagePowerOff_nextOk h) (.next h))

theorem latePart_ok {n : Nat} {p : PartRef} {q : Part} : EventsOk (latePart n p q) := by
  refine .append (.append (.map execMissSplit_nextOk)
    (.ite (.cons execJoinTimeout_nextOk (.single execFuseWatchdogExpiry_nextOk)) .nil)) ?_
  split
  · exact .ite (.single execWaitcyEnd_nextOk) .nil
  · exact .nil

theorem lateCrew_ok {n : Nat} {c : Crew} : EventsOk (lateCrew s n c) := by
  refine .append (.append (.append (.append ?_ (.flatMap (.flatMap latePart_ok))) ?_) ?_) ?_
  · exact .ite (.single fun h => .next (settleCrew_memOk (focusCrew_memOk h))) .nil
  · split
    · exact .ite (.single fun h => .next ((focusCrew_memOk h).frame)) .nil
    · exact .nil
  · exact .ite (.single execCopySquash_nextOk) .nil
  · split
    · exact .nil
    · exact .ite (.cons execMatrixCommandStands_nextOk (.single execMwldLatch_nextOk)) .nil

theorem lateCluster_ok {c : Nat} {x : Cluster} : EventsOk (lateCluster s c x) := by
  refine .append (.append (.append ?_ ?_) ?_) ?_
  · exact .ite (.single execGutterRestore_nextOk) .nil
  · exact .ite (.single execBiasCodeStep_nextOk) .nil
  · exact .ite (.single freeReplan_nextOk) .nil
  · exact .ite (.single fun h => execTaperEstimate_nextOk h.frame) .nil

theorem lateClock_ok : EventsOk (lateClock s) := by
  refine .append (.append (.append (.append (.append ?_ ?_) ?_) ?_) ?_) (.flatMap lateCluster_ok)
  · exact .map fun h => .next (freeSample_memOk h)
  · exact .ite (.single execLifetimeRecordWrite_nextOk) .nil
  · exact .ite (.single execBackgroundScrub_nextOk) .nil
  · exact .ite (.single fun h => execPowerEstimate_nextOk h.frame) .nil
  · exact .ite (.single execSyncFlitSend_nextOk) .nil

theorem lateEvents_ok : EventsOk (lateEvents s) := .append lateClock_ok (.flatMap lateCrew_ok)

theorem sliceEvents_ok : EventsOk (sliceEvents s) := .map fun h => .ite (issue_nextOk (focusSlice_memOk h)) (.next h)

theorem firstOf_nextOk {l : List Event} {o : Host.Outcome State Fault Refusal} (hl : EventsOk l) (h : MemOk s)
    (ho : firstOf s l = some o) : NextOk o :=
  firstOf_holds (fun e he => hl e he h) o ho

theorem ownTurn_nextOk (h : MemOk s) : NextOk (ownTurn s) := by
  refine .ite (issue_nextOk h) ?_
  split
  · next ho => exact firstOf_nextOk retireEvents_ok h ho
  · split
    · next ho => exact nextPick_holds h _ ho
    · split
      · next ho =>
        exact firstOf_nextOk (.append (.append (.append (.append (.append netEvents_ok sliceEvents_ok) crewEvents_ok)
          rayEvents_ok) lampEvents_ok) packageEvents_ok) h ho
      · exact .next (tick_memOk h)

theorem turn_nextOk (h : MemOk s) : NextOk (turn s) := by
  unfold turn
  split
  · exact exec_nextOk h.frame
  · exact .ite (exec_nextOk h.frame) .fault
  · refine .ite .fault (.ite (execModuleBoot_nextOk h) ?_)
    split
    · next ho => exact firstOf_nextOk lateEvents_ok h ho
    · split
      · exact takePick_nextOk h
      · exact ownTurn_nextOk h

/-- Settles O2: `turn_nextOk`, since a step is a turn. -/
theorem stepsKeepMemoryCanonical : Obligations.StepsKeepMemoryCanonical := fun _ t h ht => turn_nextOk h t ht

end Sys2Proof.Machine
end

section
/-! PROOFS of O55, that a placement keeps the capacity of the sequencers and the register banks. `Placed` says once what
either search for places can answer: every live wave stands at a place that had room for it. One such wave keeps the
capacity (`spotsOk_cons`), and so do all of them. -/

set_option Elab.async false

namespace Sys2Proof.Machine

variable {there : List Spot} {ws out : List Wave} {w : Wave} {p x : Spot}

/-! ### One wave beside those there -/

/-- What a place takes of the bank at position `i`. -/
def Spot.regsAt (i : Nat) (y : Spot) : Nat := if y.pos ≤ i ∧ i < y.pos + y.quads then y.regs else 0

/-- The registers per lane taken at position `i` of a sequencer. -/
def bankLoad (there : List Spot) (sq i : Nat) : Nat := ((there.filter (fun y => y.seqn == sq)).map (Spot.regsAt i)).sum

theorem le_foldl_max {α : Type} {f : α → Nat} {n : Nat} :
    ∀ {l : List α} {m : Nat}, (n ≤ m ∨ ∃ a ∈ l, n ≤ f a) → n ≤ l.foldl (fun m a => max m (f a)) m
  | [], m, h => by simpa using h
  | a :: l, m, h => by
    refine le_foldl_max (l := l) (m := max m (f a)) ?_
    obtain h | ⟨b, hb, h⟩ := h
    · exact .inl (Nat.le_trans h (Nat.le_max_left ..))
    · obtain rfl | hb := List.mem_cons.mp hb
      · exact .inl (Nat.le_trans h (Nat.le_max_right ..))
      · exact .inr ⟨b, hb, h⟩

/-- `spotLoad` bounds the load of every bank that the place covers. -/
theorem bankLoad_le_spotLoad {i : Nat} (hlo : x.pos ≤ i) (hhi : i < x.pos + x.quads) :
    bankLoad there x.seqn i ≤ spotLoad there x := by
  refine le_foldl_max (.inr ⟨i - x.pos, List.mem_range.mpr (by omega), ?_⟩)
  rw [Nat.add_sub_cancel' hlo]
  exact Nat.le_refl _

theorem spotFits_iff : spotFits there x = true ↔
    let near := there.filter (fun y => y.seqn == x.seqn)
    near.length < 32 ∧ (near.map (·.parts)).sum + x.parts ≤ 64 ∧ spotLoad there x + x.regs ≤ 1024 := by
  simp [spotFits, and_assoc]

/-- A bank that a fitting place covers has room for its registers, and any other bank takes nothing more. -/
theorem regsAt_add_bankLoad_le {i : Nat} (hb : bankLoad there x.seqn i ≤ 1024) (hx : spotLoad there x + x.regs ≤ 1024) :
    x.regsAt i + bankLoad there x.seqn i ≤ 1024 := by
  unfold Spot.regsAt
  split
  · next h =>
    obtain ⟨hlo, hhi⟩ := h
    have hcover := bankLoad_le_spotLoad (there := there) hlo hhi
    omega
  · omega

theorem spotsOk_cons (h : spotsOk there) (hx : spotFits there x = true) : spotsOk (x :: there) := by
  intro sq i
  obtain ⟨hlen, hparts, hregs⟩ := h sq i
  by_cases hsq : x.seqn = sq
  · subst hsq
    obtain ⟨xlen, xparts, xregs⟩ := spotFits_iff.mp hx
    simp only [List.filter_cons, beq_self_eq_true, if_true, List.length_cons, List.map_cons, List.sum_cons]
    exact ⟨xlen, by omega, regsAt_add_bankLoad_le hregs xregs⟩
  · simpa [List.filter_cons, hsq] using ⟨hlen, hparts, hregs⟩

/-- The capacity does not depend on the order of the places. -/
theorem spotsOk.perm {l l' : List Spot} (h : spotsOk l) (hp : l.Perm l') : spotsOk l' := by
  intro sq i
  have hn := hp.filter (fun y => y.seqn == sq)
  dsimp only
  rw [← hn.length_eq, ← (hn.map _).sum_nat, ← (hn.map _).sum_nat]
  exact h sq i

/-! ### The places that the searches try -/

@[simp] theorem putAt_parts : (putAt p w).parts = w.parts := rfl

theorem putAt_unplaced : { putAt p w with seqn := 0, qpos := 0 } = { w with seqn := 0, qpos := 0 } := rfl

theorem spotFits_of_mem_spotsFor (h : p ∈ spotsFor there w) : spotFits there p = true := (List.mem_filter.mp h).2

/-- A wave put at a place found for it takes that place. -/
theorem waveSpot_putAt_of_mem_spotsFor (h : p ∈ spotsFor there w) : waveSpot (putAt p w) = p := by
  obtain ⟨sq, -, hsq⟩ := List.mem_flatMap.mp (List.mem_filter.mp h).1
  obtain ⟨i, -, rfl⟩ := List.mem_map.mp hsq
  rfl

theorem mem_of_mem_unlike {l : List Spot} (h : p ∈ unlike there l) : p ∈ l := by
  refine List.foldlRecOn (motive := fun g => ∀ p ∈ g, p ∈ l) l _ (by simp) (fun g hg x hx p hp => ?_) p h
  split at hp
  · exact hg p hp
  · obtain hp | hp := List.mem_append.mp hp
    · exact hg p hp
    · exact List.mem_singleton.mp hp ▸ hx

/-! ### What a search answers -/

/-- Waves and the same waves placed: each live one at a place that fits beside those there and those placed before it. -/
inductive Placed : List Spot → List Wave → List Wave → Prop
  | nil {there : List Spot} : Placed there [] []
  | retired {there : List Spot} {w : Wave} {ws out : List Wave} (hw : w.parts = []) (h : Placed there ws out) :
      Placed there (w :: ws) ({ w with seqn := 0, qpos := 0 } :: out)
  | live {there : List Spot} {w : Wave} {ws out : List Wave} {p : Spot} (hw : w.parts ≠ [])
      (hp : p ∈ spotsFor there w) (h : Placed (p :: there) ws out) : Placed there (w :: ws) (putAt p w :: out)

theorem placed_of_placeFirst : ∀ {ws : List Wave} {there : List Spot} {out : List Wave},
    placeFirst there ws = some out → Placed there ws out
  | [], _, _, h => by
    cases h
    exact .nil
  | w :: ws, there, out, h => by
    unfold placeFirst at h
    split at h
    · next hw =>
      obtain ⟨l, hl, rfl⟩ := Option.map_eq_some_iff.mp h
      exact .retired hw (placed_of_placeFirst hl)
    · next hw =>
      split at h
      · cases h
      · next p ps hp =>
        obtain ⟨l, hl, rfl⟩ := Option.map_eq_some_iff.mp h
        exact .live hw (hp ▸ List.mem_cons_self) (placed_of_placeFirst hl)

theorem placed_of_placeAny : ∀ {ws : List Wave} {there : List Spot} {out : List Wave},
    placeAny there ws = some out → Placed there ws out
  | [], _, _, h => by
    cases h
    exact .nil
  | w :: ws, there, out, h => by
    unfold placeAny at h
    split at h
    · next hw =>
      obtain ⟨l, hl, rfl⟩ := Option.map_eq_some_iff.mp h
      exact .retired hw (placed_of_placeAny hl)
    · next hw =>
      obtain ⟨p, hp, h⟩ := List.exists_of_findSome?_eq_some h
      obtain ⟨l, hl, rfl⟩ := Option.map_eq_some_iff.mp h
      exact .live hw (mem_of_mem_unlike hp) (placed_of_placeAny hl)

theorem placed_of_placeWaves (h : placeWaves there ws = some out) : Placed there ws out := by
  unfold placeWaves at h
  split at h
  · next hl =>
    cases h
    exact placed_of_placeFirst hl
  · dsimp only at h
    split at h
    · cases h
    · exact placed_of_placeAny h

/-! ### The invariant -/

theorem Placed.keeps_spotsOk (h : Placed there ws out) (hok : spotsOk there) :
    spotsOk ((out.filter (fun w => w.parts != [])).map waveSpot ++ there) := by
  induction h with
  | nil => exact hok
  | retired hw _ ih => simpa [hw] using ih hok
  | live hw hp _ ih =>
    have hrest := ih (spotsOk_cons hok (spotFits_of_mem_spotsFor hp))
    simpa [List.filter_cons, hw, waveSpot_putAt_of_mem_spotsFor hp] using hrest.perm List.perm_middle

theorem Placed.unplaced_eq (h : Placed there ws out) :
    out.map (fun w => { w with seqn := 0, qpos := 0 }) = ws.map (fun w => { w with seqn := 0, qpos := 0 }) := by
  induction h with
  | nil => rfl
  | retired _ _ ih => rw [List.map_cons, List.map_cons, ih]
  | live _ _ _ ih => rw [List.map_cons, List.map_cons, ih, putAt_unplaced]

/-- Settles O55: the searches answer `Placed` waves, and these keep the capacity. -/
theorem placementKeepsCapacity : Obligations.PlacementKeepsCapacity := by
  intro there ws out hok h
  have hp := placed_of_placeWaves h
  exact ⟨hp.keeps_spotsOk hok, hp.unplaced_eq⟩

end Sys2Proof.Machine
end

section
/-! PROOFS of O18, what JOIN and FUSE do and how waiting parts fuse. First the rules of the operations on parts and waves
(marks, fuses, passes), then one equation per branch of the JOIN, of the wave-wide unit and of the evaluation at the end of a
cycle; the obligation is assembled from these. -/

set_option Elab.async false

namespace Sys2Proof.Machine

variable {p q : Part} {l : List Part} {w : Wave} {s : State} {r : Run} {c n i j k jto fused once : Nat} {a : W64}

/-! ### Lists of parts (R36) -/

theorem quads_ne_of_lowBit_lt (h : lowBit p.quads < lowBit q.quads) : p.quads ≠ q.quads :=
  fun e => Nat.lt_irrefl _ (e ▸ h)

theorem mem_insertPart : ∀ {l : List Part}, q ∈ insertPart p l ↔ q = p ∨ q ∈ l
  | [] => by simp [insertPart]
  | y :: t => by
    unfold insertPart
    split
    · simp
    · simp only [List.mem_cons, mem_insertPart (l := t)]
      exact or_left_comm

theorem dropParts_self (l : List Part) : dropParts l l = [] := by
  refine List.filter_eq_nil_iff.2 fun q hq => ?_
  simpa using ⟨q, hq, rfl⟩

theorem dropParts_left (h : p.quads ≠ q.quads) : dropParts [p] [p, q] = [q] := by simp [dropParts, h]

/-! ### OPEN marks (R43) and scalar sets (R44) -/

@[simp] theorem markOpen_parts (q j : Nat) (on : Bool) (w : Wave) : (markOpen q j on w).parts = w.parts := rfl
@[simp] theorem markOpen_v (q j : Nat) (on : Bool) (w : Wave) : (markOpen q j on w).v = w.v := rfl
@[simp] theorem markOpen_m (q j : Nat) (on : Bool) (w : Wave) : (markOpen q j on w).m = w.m := rfl
@[simp] theorem keepSets_parts (c k : Nat) (w : Wave) : (keepSets c k w).parts = w.parts := rfl
@[simp] theorem keepSets_v (c k : Nat) (w : Wave) : (keepSets c k w).v = w.v := rfl
@[simp] theorem keepSets_m (c k : Nat) (w : Wave) : (keepSets c k w).m = w.m := rfl
@[simp] theorem keepSets_opens (c k : Nat) (w : Wave) : (keepSets c k w).opens = w.opens := rfl
@[simp] theorem replaceParts_parts (g : List Part) (p : Part) (w : Wave) :
    (replaceParts g p w).parts = insertPart p (dropParts g w.parts) := rfl
@[simp] theorem replaceParts_v (g : List Part) (p : Part) (w : Wave) : (replaceParts g p w).v = w.v := rfl
@[simp] theorem replaceParts_m (g : List Part) (p : Part) (w : Wave) : (replaceParts g p w).m = w.m := rfl
@[simp] theorem replaceParts_opens (g : List Part) (p : Part) (w : Wave) : (replaceParts g p w).opens = w.opens := rfl

/-- A fold that writes each key of a list at most once, from what stands there. -/
theorem cget_foldl_cset {α : Type} [DecidableEq α] (d : α) (f : α → α) (b : Nat → Bool) (i : Nat) :
    ∀ (l : List Nat) (m : Cells α), l.Nodup →
      cget d (l.foldl (fun m k => if b k then cset d m k (f (cget d m k)) else m) m) i =
        if i ∈ l ∧ b i = true then f (cget d m i) else cget d m i
  | [], m, _ => by simp
  | k :: t, m, h => by
    obtain ⟨hk, ht⟩ := List.nodup_cons.1 h
    rw [List.foldl_cons, cget_foldl_cset d f b i t _ ht]
    by_cases hi : i = k
    · subst hi
      by_cases hb : b i = true <;> simp [hk, hb]
    · by_cases hb : b k = true <;> simp [hi, hb, cget_cset]

theorem cget_markOpen (hi : i < 16) (q j : Nat) (on : Bool) (w : Wave) :
    cget 0#64 (markOpen q j on w).opens i =
      if q.testBit i = true then
        if on then cget 0#64 w.opens i ||| (1#64 <<< j) else cget 0#64 w.opens i &&& ~~~ (1#64 <<< j)
      else cget 0#64 w.opens i := by
  have h := cget_foldl_cset 0#64 (fun x => if on then x ||| (1#64 <<< j) else x &&& ~~~ (1#64 <<< j)) q.testBit i
    (List.range 16) w.opens List.nodup_range
  simpa [markOpen, hi] using h

theorem markOpen_sets (hi : i < 16) (hq : k.testBit i = true) (hj : j < 64) :
    (cget 0#64 (markOpen k j true w).opens i).getLsbD j = true := by
  simp [cget_markOpen hi, hq, hj]

theorem markOpen_clears (hi : i < 16) (hq : k.testBit i = true) :
    (cget 0#64 (markOpen k j false w).opens i).getLsbD j = false := by
  by_cases hj : j < 64
  · simp [cget_markOpen hi, hq, hj]
  · exact BitVec.getLsbD_of_ge _ _ (by omega)

/-! ### Fuses and passes (R42 to R44) -/

@[simp] theorem fuse2_quads (p q : Part) : (fuse2 p q).quads = p.quads ||| q.quads := rfl
@[simp] theorem fuse2_exm (p q : Part) : (fuse2 p q).exm = p.exm ||| q.exm := rfl
@[simp] theorem fuse2_state (p q : Part) : (fuse2 p q).state = .run := rfl

/-- The scalar set is that of the part with the lowest quad (R19, R44). -/
theorem fuse2_s (h : lowBit p.quads < lowBit q.quads) : (fuse2 p q).s = p.s := by
  simp [fuse2, Nat.le_of_lt h]

@[simp] theorem passPart_quads (j : Nat) (a : W64) (b : Bool) (n : Nat) (p : Part) : (passPart j a b n p).quads = p.quads := rfl

theorem passPart_state {b : Bool} (h : p.state ≠ .trapped) : (passPart j a b n p).state = .run := if_neg h

theorem resumeExit_of_not_exiting {wctl : W64} (h : p.exiting = false) : resumeExit c wctl p = p := by simp [resumeExit, h]

theorem stillExits_of_not_exiting {m : Part} (h : ∀ q ∈ l, q.exiting = false) : stillExits l m = false := by
  have : l.any (·.exiting) = false := by simpa using h
  simp [stillExits, this]

theorem compatible_refl (p : Part) : compatible p p = true := by
  simp [compatible, List.zip_eq_zipWith, List.zipWith_self]

/-! ### Arrivals at a JOIN (R41, R42) -/

theorem unitAddr_add_four (r : Run) (s : State) : unitAddr r s + 4#64 = unitNext r s := by
  simp only [unitAddr, unitNext, unitWords]
  rw [BitVec.add_assoc, ← BitVec.ofNat_add]
  rfl

theorem arriveJoin_of_trapped (h : s.part.state = .trapped) :
    arriveJoin j a jto fused once s = { s with part := passPart j a false once s.part } := if_pos h

/-- A part that is alone in its wave fuses with nobody and passes. -/
theorem arriveJoin_of_alone (h : s.part.state = .run) (hs : s.sibs = []) :
    arriveJoin j a jto fused once s =
      { s with part := passPart j a false fused s.part,
               wave := keepSets (now s) 0 (markOpen s.part.quads j false s.wave) } := by
  simp [arriveJoin, presentAt, without, dropParts, fuseReady, h, hs]

theorem arriveJoin_of_absent (h : s.part.state = .run) (hg : (presentAt j a s).length ≠ s.sibs.length) :
    arriveJoin j a jto fused once s =
      { s with part := waitPart j a (wctlOf s) jto (now s) once s.part,
               wave := { s.wave with unsettled := some (now s) } } := by
  simp [arriveJoin, h, hg]

/-- The limit of a JOIN's timer is its JOINTO value, or WCTL.JTO without the hint (R42). -/
theorem joinLimit_jointo (wctl : W64) (r : Run) :
    joinLimit wctl (jointo r) = match payload r 5 with | some n => n | none => bfield wctl 31 20 := by
  unfold joinLimit jointo
  cases payload r 5 <;> rfl

/-- The state in which a JOIN that reaches its fuse stage has been counted as issued. -/
def joinCounted (s : State) : State :=
  { s with free := s.free + 1, part := { s.part with issued := s.part.issued + 1, fresh := false, relDone := false } }

/-- The fuse stage of a JOIN that has issued. -/
def joinStage (r : Run) (j : Nat) (s : State) : State :=
  arriveJoin j (unitAddr r s) (jointo r) (now s + max 2 (stallOf r + 1)) (now s + (stallOf r + 1)) (joinCounted s)

theorem joinAt_nil (h : s.part.stack = []) : joinAt r j s = joinStage r j s := by
  simp only [joinAt, joinStage, joinCounted, h]

theorem joinAt_deferred {e : Entry} {rest : List Entry} (h : s.part.stack = e :: rest) (hd : e.d = false)
    (hl : e.lanes ≠ 0#64) :
    joinAt r j s = goto r 2 e.rpc { s with part := { s.part with
      stack := { e with d := true, jj := some (j, unitAddr r s), jto := jointo r, hints := r.hints.length } :: rest,
      exm := e.lanes } } := by
  simp [joinAt, h, hd, hl]

theorem joinAt_pop {e : Entry} {rest : List Entry} {b : W64} (h : s.part.stack = e :: rest) (hd : e.d = true)
    (hj : e.jj = some (j, b)) :
    joinAt r j s = joinStage r j { s with part := { s.part with exm := e.outer, stack := rest } } := by
  have hrun : ¬(e.d = false ∧ e.lanes ≠ 0#64) := by simp [hd]
  have hsame : ¬(e.d = true ∧ (e.jj.map (·.1)).any (fun k => k != j) = true) := by simp [hj]
  simp only [joinAt, h, hrun, hsame, if_false]
  rfl

theorem joinAt_mismatch {e : Entry} {rest : List Entry} {b : W64} (h : s.part.stack = e :: rest) (hd : e.d = true)
    (hj : e.jj = some (k, b)) (hk : k ≠ j) : joinAt r j s = trapExm 0x06 2 r s := by
  simp [joinAt, h, hd, hj, hk]

/-- A part alone in its wave passes a JOIN (R42). -/
theorem joinStage_alone (h : s.part.state = .run) (hs : s.sibs = []) :
    let t := joinStage r j s
    t.part.pc = unitNext r s ∧ t.part.exm = s.part.exm ∧ t.part.stack = s.part.stack ∧ t.part.jidx = j ∧
      t.part.jtout = false ∧ t.part.state = .run ∧ t.part.s = s.part.s ∧ t.part.ready = now s + max 2 (stallOf r + 1) ∧
      t.wave = keepSets (now s) 0 (markOpen s.part.quads j false s.wave) ∧ t.memsys = s.memsys := by
  have hst : (joinCounted s).part.state = .run := h
  intro t
  have ht : t = _ := arriveJoin_of_alone hst hs
  rw [ht]
  exact ⟨unitAddr_add_four r s, rfl, rfl, rfl, rfl, passPart_state (by simp [hst]), rfl, rfl, rfl, rfl⟩

theorem exec_join_of_ready {d : BitVec 7} {t : State} (h : ready (opJoin r d) s = true) (ht : joinAt r d.toNat s = t) :
    exec (.join r d) s = .next t := exec_of_ready (exec_join r d) h ht

/-! ### Wave-wide units (R45) -/

theorem waveWide_of_covered {code : Nat} {f : State → State}
    (h : covered s (widthOf code) s.part.quads s.part.quads = true) : waveWide r code f s = f s := if_pos h

theorem waveWide_of_trapped {code : Nat} {f : State → State}
    (h : covered s (widthOf code) s.part.quads s.part.quads = false) (ht : s.part.state = .trapped) :
    waveWide r code f s = trapExm 0x06 4 r s := by
  simp [waveWide, h, ht]

theorem waveWide_of_uncovered {code : Nat} {f : State → State}
    (h : covered s (widthOf code) s.part.quads s.part.quads = false) (hr : s.part.state = .run) :
    waveWide r code f s = { s with
      part := { s.part with
        state := .fusewait, waitAt := unitAddr r s, wcode := code, timer := some (now s + watchLimit (wctlOf s)),
        tlimit := 0, wait := .none },
      wave := { s.wave with unsettled := some (now s) } } := by
  simp [waveWide, h, hr]

theorem exec_fuse_of_ready {d : BitVec 7} {t : State}
    (h : ready (opCtl 1 r d 0#7 (decide (d.toNat ≤ 4) && decide (d.toNat ≤ s.wave.code)) []) s = true)
    (ht : waveWide r d.toNat (done r) s = t) : exec (.fuse r d) s = .next t :=
  (exec_fuse r d s).trans ((unit_of_ready h _).trans (congrArg _ ht))

/-! ### The end of a cycle (R42, R45, R52) -/

theorem settleJoins_of_find {m : Nat}
    (h : w.parts.find? (fun p => p.state == .joinwait && (p.arr.isSome || allPresent w p)) = some p) :
    settleJoins c (m + 1) w = settleJoins c m (settleJoin c w p) := by
  rw [settleJoins, h]

/-- A wave of which no part waits at a JOIN has no fuse stage to evaluate. -/
theorem settleJoins_of_none (h : ∀ p ∈ w.parts, p.state ≠ .joinwait) : ∀ m, settleJoins c m w = w
  | 0 => rfl
  | m + 1 => by
    have : w.parts.find? (fun p => p.state == .joinwait && (p.arr.isSome || allPresent w p)) = none :=
      List.find?_eq_none.2 fun p hp => by simp [h p hp]
    rw [settleJoins, this]

theorem settleFuse_of_none (h : ∀ q ∈ w.parts, q.state ≠ .fusewait) (p : Part) : settleFuse c w p = w := by
  refine if_pos (List.any_eq_false.2 fun q hq => ?_)
  simp [h q hq]

theorem le_fuseReady (n : Nat) (l : List Part) : n ≤ fuseReady n l := le_foldl_max (.inl (Nat.le_refl n))

/-- The parts present at a JOIN with one that arrives there, fused (R42, R44). -/
theorem settleJoin_of_present (h : allPresent w p = true) (he : ∀ x ∈ p :: presentIn w p, x.exiting = false) :
    settleJoin c w p = keepSets c (presentIn w p).length (replaceParts (p :: presentIn w p)
      (passPart p.jwait p.waitAt false (fuseReady (max (c + 2) p.ready) (p :: presentIn w p))
        { (presentIn w p).foldl fuse2 p with exiting := false })
      (markOpen ((presentIn w p).foldl fuse2 p).quads p.jwait false w)) := by
  simp only [settleJoin, h, if_true, stillExits_of_not_exiting he]
  rw [resumeExit_of_not_exiting rfl]

/-- A part that meets its OPEN marks at a JOIN passes alone (R42). -/
theorem settleJoin_of_open (h : allPresent w p = false) (ha : p.arr = some once) (ho : allOpen w p.quads p.jwait = true)
    (he : p.exiting = false) :
    settleJoin c w p =
      replaceParts [p] (passPart p.jwait p.waitAt false once p) (markOpen p.quads p.jwait false w) := by
  have hpass : (passPart p.jwait p.waitAt false once p).exiting = false := he
  simp only [settleJoin, h, Bool.false_eq_true, if_false, ha, ho, if_true, resumeExit_of_not_exiting hpass]

/-- A set that covers its own groups fuses into one part, which issues the wave-wide unit two cycles later (R45, R53). -/
theorem settleFuse_of_closed (hp : p ∈ w.parts) (hs : p.state = .fusewait)
    (hl : closedSet w (widthOf p.wcode) 16 (fuseClass w p) = l) (hin : p ∈ l) :
    settleFuse c w p = keepSets c (dropParts [p] l).length (replaceParts (p :: dropParts [p] l)
      { (dropParts [p] l).foldl fuse2 p with
        state := .run, pc := p.pc, ready := max ((dropParts [p] l).foldl fuse2 p).ready (c + 2), timer := none } w) := by
  have hwaits : w.parts.any (fun q => q.quads == p.quads && q.state == .fusewait) = true :=
    List.any_eq_true.2 ⟨p, hp, by simp [hs]⟩
  have hown : l.any (fun q => q.quads == p.quads) = true := List.any_eq_true.2 ⟨p, hin, by simp⟩
  simp only [settleFuse, hwaits, hl, hown, Bool.true_eq_false, if_false]

/-- Where one fuse stage leaves every part running, the evaluation ends with it. -/
theorem settleWave_of_settleJoin
    (hf : w.parts.find? (fun p => p.state == .joinwait && (p.arr.isSome || allPresent w p)) = some p)
    (hr : ∀ x ∈ (settleJoin c w p).parts, x.state = .run) :
    settleWave c w = { settleJoin c w p with unsettled := none } := by
  have hj : settleJoins c 320 w = settleJoin c w p := by
    rw [settleJoins_of_find hf, settleJoins_of_none fun x hx => by simp [hr x hx]]
  have hfold := foldl_same (settleFuse c) (settleJoin c w p) (settleJoin c w p).parts
    fun x _ => settleFuse_of_none (fun y hy => by simp [hr y hy]) x
  simp only [settleWave, hj, hfold]

/-- Where the fuse of the first part leaves every part running, the evaluation ends with it. -/
theorem settleWave_of_settleFuse (hw : w.parts = p :: l) (hj : ∀ x ∈ w.parts, x.state ≠ .joinwait)
    (hr : ∀ x ∈ (settleFuse c w p).parts, x.state = .run) :
    settleWave c w = { settleFuse c w p with unsettled := none } := by
  have hfold := foldl_same (settleFuse c) (settleFuse c w p) l
    fun x _ => settleFuse_of_none (fun y hy => by simp [hr y hy]) x
  simp only [settleWave, settleJoins_of_none hj, hw, List.foldl_cons, hfold]

section Pair

variable (hw : w.parts = [p, q]) (hlt : lowBit p.quads < lowBit q.quads)
include hw hlt

theorem presentIn_of_pair : presentIn w p = [q].filter (presentWith p p.jwait p.waitAt) := by
  rw [presentIn, hw, dropParts_left (quads_ne_of_lowBit_lt hlt)]

/-- Two parts at one JOIN fuse and go on after it (R42, R44). -/
theorem settleWave_joins_pair (hs : p.state = .joinwait) (hp : p.exiting = false) (hq : q.exiting = false)
    (h : presentWith p p.jwait p.waitAt q = true) :
    ∃ m, (settleWave c w).parts = [m] ∧ m.quads = p.quads ||| q.quads ∧ m.exm = p.exm ||| q.exm ∧ m.s = p.s ∧
      m.state = .run ∧ m.pc = p.waitAt + 4#64 ∧ m.jidx = p.jwait ∧ m.jtout = false ∧ c + 2 ≤ m.ready ∧
      (settleWave c w).v = w.v ∧ (settleWave c w).m = w.m := by
  have hpres : presentIn w p = [q] := by simp [presentIn_of_pair hw hlt, h]
  have hall : allPresent w p = true := by simp [allPresent, hpres, hw]
  have hjoin := settleJoin_of_present (c := c) hall (by simp [hpres, hp, hq])
  rw [hpres] at hjoin
  have hparts : (settleJoin c w p).parts =
      [passPart p.jwait p.waitAt false (fuseReady (max (c + 2) p.ready) [p, q]) { fuse2 p q with exiting := false }] := by
    simp [hjoin, hw, dropParts_self, insertPart]
  have hset : settleWave c w = { settleJoin c w p with unsettled := none } :=
    settleWave_of_settleJoin (by simp [hw, hs, hall]) (by simp [hparts, passPart_state])
  refine ⟨_, (congrArg Wave.parts hset).trans hparts, rfl, rfl, fuse2_s hlt, passPart_state (by simp), rfl, rfl, rfl, ?_, ?_, ?_⟩
  · exact Nat.le_trans (Nat.le_max_left _ _) (le_fuseReady _ _)
  · simp [hset, hjoin]
  · simp [hset, hjoin]

/-- Two parts that wait at one wave-wide unit and together cover its groups fuse (R45). -/
theorem settleWave_fuses_pair (hp : p.state = .fusewait) (hq : q.state = .fusewait) (ha : q.waitAt = p.waitAt)
    (hc : compatible p q = true) (hcp : coveredIn w (widthOf p.wcode) p.quads (p.quads ||| q.quads) = true)
    (hcq : coveredIn w (widthOf p.wcode) q.quads (p.quads ||| q.quads) = true) :
    ∃ m, (settleWave c w).parts = [m] ∧ m.quads = p.quads ||| q.quads ∧ m.exm = p.exm ||| q.exm ∧ m.s = p.s ∧
      m.state = .run ∧ m.pc = p.pc ∧ c + 2 ≤ m.ready ∧ (settleWave c w).v = w.v ∧ (settleWave c w).m = w.m := by
  have hclass : fuseClass w p = [p, q] := by simp [fuseClass, hw, hp, hq, ha, hc, compatible_refl]
  have hclosed : closedSet w (widthOf p.wcode) 16 (fuseClass w p) = [p, q] := by
    simp [hclass, closedSet, quadsOf, hcp, hcq]
  have hfuse := settleFuse_of_closed (c := c) (by simp [hw]) hp hclosed (by simp)
  rw [dropParts_left (quads_ne_of_lowBit_lt hlt)] at hfuse
  have hparts : (settleFuse c w p).parts =
      [{ fuse2 p q with state := .run, pc := p.pc, ready := max (fuse2 p q).ready (c + 2), timer := none }] := by
    simp [hfuse, hw, dropParts_self, insertPart]
  have hset : settleWave c w = { settleFuse c w p with unsettled := none } :=
    settleWave_of_settleFuse hw (by simp [hw, hp, hq]) (by simp [hparts])
  refine ⟨_, (congrArg Wave.parts hset).trans hparts, rfl, rfl, fuse2_s hlt, rfl, rfl, Nat.le_max_right _ _, ?_, ?_⟩
  · simp [hset, hfuse]
  · simp [hset, hfuse]

/-- A part that has arrived under its OPEN marks passes without its sibling (R42). -/
theorem settleWave_passes_open (hs : p.state = .joinwait) (ha : p.arr = some once) (he : p.exiting = false)
    (hq : q.state = .run) (ho : allOpen w p.quads p.jwait = true) :
    ∃ m, (settleWave c w).parts = [m, q] ∧ m.quads = p.quads ∧ m.exm = p.exm ∧ m.s = p.s ∧ m.state = .run ∧
      m.pc = p.waitAt + 4#64 ∧ m.jidx = p.jwait ∧ m.jtout = false ∧ m.ready = once ∧
      ∀ i < 16, p.quads.testBit i = true → (cget 0#64 (settleWave c w).opens i).getLsbD p.jwait = false := by
  have hall : allPresent w p = false := by
    simp [allPresent, presentIn_of_pair hw hlt, presentWith, hq, hw]
  have hjoin := settleJoin_of_open (c := c) hall ha ho he
  have hrun : (passPart p.jwait p.waitAt false once p).state = .run := passPart_state (by simp [hs])
  have hparts : (settleJoin c w p).parts = [passPart p.jwait p.waitAt false once p, q] := by
    simp [hjoin, hw, dropParts_left (quads_ne_of_lowBit_lt hlt), insertPart, hlt]
  have hset : settleWave c w = { settleJoin c w p with unsettled := none } :=
    settleWave_of_settleJoin (by simp [hw, hs, ha]) (by simp [hparts, hrun, hq])
  refine ⟨_, (congrArg Wave.parts hset).trans hparts, rfl, rfl, rfl, hrun, rfl, rfl, rfl, rfl, fun i hi hb => ?_⟩
  simpa [hset, hjoin] using markOpen_clears hi hb

end Pair

/-! ### The obligation -/

/-- Settles O18: a JOIN by the branches of `joinAt`, FUSE by those of `waveWide`, and the end of a cycle by the three ways in
which two parts of a wave settle. -/
theorem joinsAndFuses : Obligations.JoinsAndFuses := by
  refine ⟨fun r d s hs => ⟨?_, ?_, ?_, ?_⟩, fun r d s hs hstack => ⟨?_, ?_⟩, fun r d s hs => ⟨?_, ?_, ?_⟩,
    fun c w p q hw hlt => ⟨?_, ?_, ?_⟩⟩
  · intro hstack hsibs hrun
    obtain ⟨hpc, hexm, -, hidx, hout, hst, hreg, hready, hwave, hmem⟩ := joinStage_alone (r := r) (j := d.toNat) hrun hsibs
    exact ⟨_, exec_join_of_ready hs (joinAt_nil hstack), hpc, hidx, hout, hst, hexm, hreg, hready, hwave, hmem⟩
  · intro e rest hstack hd hl
    exact ⟨_, exec_join_of_ready hs (joinAt_deferred hstack hd hl), rfl, rfl, rfl, rfl, rfl, rfl⟩
  · intro e rest a hstack hd hj hsibs hrun
    obtain ⟨hpc, hexm, hrest, hidx, hout, hst, hreg, -, hwave, hmem⟩ := joinStage_alone (r := r) (j := d.toNat)
      (s := { s with part := { s.part with exm := e.outer, stack := rest } }) hrun hsibs
    exact ⟨_, exec_join_of_ready hs (joinAt_pop hstack hd hj), hpc, hexm, hrest, hidx, hout, hst, hreg, hwave, hmem⟩
  · intro e rest k a hstack hd hj hk
    exact exec_join_of_ready hs (joinAt_mismatch hstack hd hj hk)
  · intro hrun hg
    refine ⟨_, exec_join_of_ready hs ((joinAt_nil hstack).trans (arriveJoin_of_absent hrun hg)), rfl, rfl, rfl, rfl, rfl, rfl,
      rfl, rfl, ?_, rfl, rfl⟩
    exact congrArg (fun n => some (now s + n)) (joinLimit_jointo (wctlOf s) r)
  · intro ht
    exact ⟨_, exec_join_of_ready hs ((joinAt_nil hstack).trans (arriveJoin_of_trapped ht)), if_pos ht, unitAddr_add_four r s,
      rfl, rfl, rfl, rfl, rfl, rfl⟩
  · intro hc
    exact ⟨_, exec_fuse_of_ready hs (waveWide_of_covered hc), goto_noResult ..⟩
  · intro hc ht
    exact exec_fuse_of_ready hs (waveWide_of_trapped hc ht)
  · intro hc hrun
    exact ⟨_, exec_fuse_of_ready hs (waveWide_of_uncovered hc hrun), rfl, rfl, rfl, rfl, rfl, rfl, rfl, rfl, rfl⟩
  · intro hs hp hq h
    exact settleWave_joins_pair hw hlt hs hp hq h
  · intro hp hq ha hc hcp hcq
    exact settleWave_fuses_pair hw hlt hp hq ha hc hcp hcq
  · intro once hs ha he hq ho
    exact settleWave_passes_open hw hlt hs ha he hq ho

end Sys2Proof.Machine
end

section
/-! PROOFS of O47, what the timers of a part do. Each event is reduced once, by one lemma per event, to what it does to the part
that it names; the timeout of a JOIN has its own rules, on the wave that it leaves. -/

set_option Elab.async false

namespace Sys2Proof.Machine

variable {ref : PartRef} {s t v : State} {p q : Part} {g : List Part} {w : Wave} {l : Load} {c n i j : Nat}

/-! ### Split on a long miss (R40) -/

theorem exec_missSplit_of_due (hp : livePart ref s = some t) (hl : t.part.loads.find? (fun x => x.id == l.id) = some l)
    (ht : l.timer = some n) (hn : n < now t) (hh : t.part.state ≠ .halted) :
    exec (.missSplit ref l.id) s = .next (missExpiry l n t) := by
  rw [exec_missSplit]
  simp [execMissSplit, hp, hl, ht, hn, hh]

/-- A part that may not split, or whose quads wait all or not at all, goes on without the timer. -/
theorem missExpiry_of_stays
    (h : (t.part.nosplit || t.part.state == .trapped || !freeSetAt n t || waitingQuads l t == 0 ||
      t.part.quads - waitingQuads l t == 0) = true) :
    missExpiry l n t = { t with part := { t.part with
      loads := updIf (fun x => x.id == l.id) (fun x => { x with timer := none }) t.part.loads } } := if_pos h

/-- A part of which some quads wait splits into these and the others, both at its PC with its scalar registers. -/
theorem missExpiry_of_splits
    (h : (t.part.nosplit || t.part.state == .trapped || !freeSetAt n t || waitingQuads l t == 0 ||
      t.part.quads - waitingQuads l t == 0) = false) :
    ∃ x y, missExpiry l n t = splitInto x y t ∧
      ((x.quads = waitingQuads l t ∧ y.quads = t.part.quads - waitingQuads l t) ∨
        (x.quads = t.part.quads - waitingQuads l t ∧ y.quads = waitingQuads l t)) ∧
      x.pc = t.part.pc ∧ y.pc = t.part.pc ∧ x.s = t.part.s ∧ y.s = t.part.s := by
  simp only [missExpiry, h, Bool.false_eq_true, if_false]
  split
  · exact ⟨_, _, rfl, .inl ⟨rfl, rfl⟩, rfl, rfl, rfl, rfl⟩
  · exact ⟨_, _, rfl, .inr ⟨rfl, rfl⟩, rfl, rfl, rfl, rfl⟩

/-! ### Pass by timeout (R43) -/

theorem exec_joinTimeout_of_due (hp : livePart ref s = some t) (ht : t.part.timer = some n) (hn : n < now t)
    (hs : t.part.state = .joinwait)
    (hg : ∀ q ∈ presentAt t.part.jwait t.part.waitAt t, ∀ m, q.timer = some m → n ≤ m) :
    exec (.joinTimeout ref) s =
      .next (refocus (timeoutPass n (n + 1) t.part (presentAt t.part.jwait t.part.waitAt t) (packWave t)) t) := by
  have hall : (presentAt t.part.jwait t.part.waitAt t).all
      (fun q => (q.timer.map (fun m => decide (n ≤ m))).getD true) = true := by
    refine List.all_eq_true.2 fun q hq => ?_
    cases hm : q.timer with
    | none => rfl
    | some m => simpa using hg q hq m hm
  rw [exec_joinTimeout]
  simp only [execJoinTimeout, hp, ht, hs, hn, hall, and_self, if_true]

@[simp] theorem timeoutPass_v (c n : Nat) (p : Part) (g : List Part) (w : Wave) : (timeoutPass c n p g w).v = w.v := by
  simp [timeoutPass]
@[simp] theorem timeoutPass_m (c n : Nat) (p : Part) (g : List Part) (w : Wave) : (timeoutPass c n p g w).m = w.m := by
  simp [timeoutPass]

theorem timeoutPass_opens (c n : Nat) (p : Part) (g : List Part) (w : Wave) :
    (timeoutPass c n p g w).opens = (markOpen (quadsOf (dropParts (p :: g) w.parts)) p.jwait true
      (markOpen (g.foldl fuse2 p).quads p.jwait false w)).opens := rfl

theorem timeoutPass_parts (h : ∀ q ∈ p :: g, q.exiting = false) :
    (timeoutPass c n p g w).parts =
      insertPart (passPart p.jwait p.waitAt true n { g.foldl fuse2 p with exiting := false })
        (dropParts (p :: g) w.parts) := by
  simp only [timeoutPass, stillExits_of_not_exiting h, keepSets_parts, replaceParts_parts, markOpen_parts]
  rw [resumeExit_of_not_exiting rfl]

/-- Every other part stays, whatever the passing part goes on to. -/
theorem mem_timeoutPass_parts (h : q ∈ dropParts (p :: g) w.parts) : q ∈ (timeoutPass c n p g w).parts :=
  mem_insertPart.2 (.inr h)

theorem foldl_fuse2_state (h : p.state ≠ .trapped) (g : List Part) : (g.foldl fuse2 p).state ≠ .trapped :=
  foldl_keeps (P := fun p => p.state ≠ .trapped) (fun _ _ _ => by simp) g p h

/-- The parts present fuse and go on after the JOIN with JTOUT set (R43). -/
theorem timeoutPass_passes (hs : p.state ≠ .trapped) (he : ∀ q ∈ p :: g, q.exiting = false) :
    ∃ q ∈ (timeoutPass c n p g w).parts, q.quads = (g.foldl fuse2 p).quads ∧ q.exm = (g.foldl fuse2 p).exm ∧
      q.s = (g.foldl fuse2 p).s ∧ q.state = .run ∧ q.pc = p.waitAt + 4#64 ∧ q.jidx = p.jwait ∧ q.jtout = true ∧
      q.timer = none ∧ q.ready = n := by
  rw [timeoutPass_parts he]
  exact ⟨_, mem_insertPart.2 (.inl rfl), rfl, rfl, rfl, passPart_state (foldl_fuse2_state hs g), rfl, rfl, rfl, rfl, rfl⟩

theorem testBit_foldl_quads (i : Nat) : ∀ (l : List Part) (m : Nat),
    (l.foldl (fun m p => m ||| p.quads) m).testBit i = (m.testBit i || l.any (fun p => p.quads.testBit i))
  | [], m => by simp
  | p :: l, m => by rw [List.foldl_cons, testBit_foldl_quads i l]; simp [Bool.or_assoc]

theorem testBit_quadsOf {l : List Part} (h : q ∈ l) (hi : q.quads.testBit i = true) : (quadsOf l).testBit i = true := by
  have : l.any (fun p => p.quads.testBit i) = true := List.any_eq_true.2 ⟨q, h, hi⟩
  simp [quadsOf, testBit_foldl_quads, this]

/-- The quads of every part that does not pass carry the OPEN mark of the JOIN. -/
theorem timeoutPass_marks (hq : q ∈ dropParts (p :: g) w.parts) (hj : p.jwait < 64) (hi : i < 16)
    (hb : q.quads.testBit i = true) : (cget 0#64 (timeoutPass c n p g w).opens i).getLsbD p.jwait = true := by
  rw [timeoutPass_opens]
  exact markOpen_sets hi (testBit_quadsOf hq hb) hj

/-! ### Watchdogs (R46) -/

/-- A watchdog that has expired takes cause 0x07 in its cycle (R46, R155, R163). -/
theorem exec_fuseWatchdogExpiry_of_due (hp : livePart ref s = some t) (ht : t.part.timer = some n) (hn : n < now t)
    (hs : t.part.state = .fusewait) (hv : pcField (tvecAt n t.wave) ≠ 0#64) :
    exec (.fuseWatchdogExpiry ref) s = .next (enterHandlerAt n
      { cause := 0x07, lanes := t.part.exm, info := BitVec.ofNat 64 t.part.wcode, addr := 0#64 }
      ((t.part.waitAt - t.part.pc).toNat / 4 + 1) t) := by
  rw [exec_fuseWatchdogExpiry]
  simp [execFuseWatchdogExpiry, hp, ht, hn, hs, trapIn, hv]

theorem enterHandlerAt_entered (c : Nat) (x : Trap) (ulen : Nat) (s : State) :
    EnteredAt c x ulen s (enterHandlerAt c x ulen s) :=
  ⟨rfl, rfl, rfl, rfl, rfl, rfl, rfl, rfl, rfl, rfl, Nat.le_max_left _ _, rfl, rfl, fun _ => rfl⟩

/-! ### WAITCY, ICINV, WAITA (R124, R125, R214) -/

theorem exec_waitcyEnd_of_due (hp : livePart ref s = some t) (hw : t.part.wait = .cycles n) (hn : n ≤ now t) :
    exec (.waitcyEnd ref) s = .next { t with part := { t.part with wait := .none } } := by
  rw [exec_waitcyEnd]
  simp [execWaitcyEnd, hp, hw, hn]

theorem exec_icinvComplete_of_part (hc : ref.crew ≠ 0) (hp : livePart ref s = some t) (hw : t.part.wait = .icinv) :
    exec (.icinvComplete ref) s = .next { t with part := { t.part with wait := .none } } := by
  rw [exec_icinvComplete]
  simp [execIcinvComplete, hc, hp, hw]

theorem exec_icinvComplete_of_command {k : CmdTag} {rest : List CmdTag} (hc : ref.crew = 0) (hi : s.icinvs = k :: rest) :
    exec (.icinvComplete ref) s = .next (endCommand k none 0 0#64 { s with icinvs := rest }) := by
  rw [exec_icinvComplete]
  simp [execIcinvComplete, hc, hi]

/-- When the limit of a WAITA has passed, its unit is fetched and run once more. -/
theorem exec_waitaTimeout_of_due {hs : List Hint} {word : W32} {r : Run} {d a b : BitVec 7} {x : State}
    (hp : livePart ref s = some t) (hw : t.part.wait = .waita n) (hn : n ≤ now t)
    (hu : nextUnit { t with agent := .wave } = .ok (hs, word, v)) (hr : rejectRun hs = none) (hm : fMaj word = 19#5)
    (hd : decodeSync { hints := hs, stl := fStl word } word = some (.waita r d a b))
    (hx : exec (.waita r d a b) v = .next x) : exec (.waitaTimeout ref) s = .next (stepStop v x) := by
  rw [exec_waita] at hx
  rw [exec_waitaTimeout]
  simp [execWaitaTimeout, hp, hw, Nat.not_lt.2 hn, hu, hr, hm, hd, hx]

theorem wordAt_of_inside {r : Run} {a : W64} {f : Nat → State → State} (hs : scratchPending s = false)
    (ha : a &&& 7#64 = 0#64) (hr : a.toNat + 8 ≤ s.crew.scr) : wordAt r a f s = f a.toNat s := by
  simp [wordAt, hs, ha, Nat.not_lt.2 hr]

/-- The last test of a WAITA whose condition does not hold goes on with 0 (R214). -/
theorem exec_waita_of_late {r : Run} {d a b : BitVec 7} (h : ready (opWaita r d a b) v = true) (hw : v.part.wait = .waita n)
    (hn : n ≤ now v) (hrel : v.part.relDone = false) (hs : scratchPending v = false) (ha : sreg v a &&& 7#64 = 0#64)
    (hr : (sreg v a).toNat + 8 ≤ v.crew.scr)
    (hc : waitHolds ((widthHint r).getD 0) (scrWord v (sreg v a).toNat) (sreg v b) = false) :
    exec (.waita r d a b) v = .next (done r (wrS 0 d.toNat 0#64 v)) := by
  refine exec_of_ready (exec_waita r d a b) h ((wordAt_of_inside hs ha hr).trans ?_)
  simp [waitTest, hw, hn, hrel, hc]

/-! ### The obligation -/

/-- Settles O47: each event by its own lemma above, the timeout of a JOIN by the rules of `timeoutPass`. -/
theorem timerSteps : Obligations.TimerSteps := by
  refine ⟨fun ref s t l n hp hl ht hn hh => ⟨fun hstays => ?_, fun hsplits => ?_⟩, fun ref s t hp => ⟨?_, ?_, ?_, ?_, ?_, ?_⟩⟩
  · rw [exec_missSplit_of_due hp hl ht hn hh, missExpiry_of_stays hstays]
  · obtain ⟨x, y, hxy, hquads, hxpc, hypc, hxs, hys⟩ := missExpiry_of_splits hsplits
    refine ⟨splitInto x y t, x, y, ?_, rfl, rfl, hquads, hxpc, hypc, hxs, hys, rfl, rfl, rfl⟩
    rw [exec_missSplit_of_due hp hl ht hn hh, hxy]
  · intro n ht hn hs hj g hg m w
    refine ⟨exec_joinTimeout_of_due hp ht hn hs hg, fun he heg => ?_, fun x hx => ?_, timeoutPass_v .., timeoutPass_m ..⟩
    · exact timeoutPass_passes (w := packWave t) (by simp [hs]) (List.forall_mem_cons.2 ⟨he, heg⟩)
    · exact ⟨mem_timeoutPass_parts (w := packWave t) hx,
        fun i hi hb => timeoutPass_marks (w := packWave t) hx (Nat.lt_trans hj (by decide)) hi hb⟩
  · intro n ht hn hs hv
    exact ⟨_, exec_fuseWatchdogExpiry_of_due hp ht hn hs hv, enterHandlerAt_entered ..⟩
  · intro n hw hn
    exact exec_waitcyEnd_of_due hp hw hn
  · intro hc hw
    exact exec_icinvComplete_of_part hc hp hw
  · intro hc k rest hi
    exact exec_icinvComplete_of_command hc hi
  · intro n hs word v r d a b hw hn hu hr hm hd
    refine ⟨fun x hx => exec_waitaTimeout_of_due hp hw hn hu hr hm hd hx, fun h hvw hvn hrel hscr ha hin hc => ?_⟩
    exact ⟨_, exec_waitaTimeout_of_due hp hw hn hu hr hm hd (exec_waita_of_late h hvw hvn hrel hscr ha hin hc), wrS_done ..⟩

end Sys2Proof.Machine
end

section
/-! PROOFS of O1 and O5, on words and their bytes, with what the decoder refuses. A run of hints is read hint by hint; the word
behind it is no hint and decodes as the lemma of its instruction in `RoundTrip` says. -/

set_option Elab.async false

namespace Sys2Proof.Laws

variable {hs : List Hint} {w : W32} {i : Instr}

/-! ### Reading a unit's bytes (R54, R63) -/

theorem decodeBytes_bytesOfWord (hs : List Hint) (w : W32) (t : List Byte) :
    decodeBytes hs (bytesOfWord w ++ t) =
      if isHint w then decodeBytes (hs ++ [decodeHint w]) t else some (decodeUnit hs w, t) := by
  simp only [bytesOfWord, List.cons_append, List.nil_append]
  rw [decodeBytes, wordOfBytes_bytesOfWord]

/-- The hint words in front of a unit's word join its run, in their order. -/
theorem decodeBytes_hints (run hs : List Hint) (t : List Byte) :
    decodeBytes hs ((run.map encodeHint).flatMap bytesOfWord ++ t) = decodeBytes (hs ++ run) t := by
  induction run generalizing hs with
  | nil => simp
  | cons h run ih =>
    obtain ⟨hdec, hhint⟩ := decodeHint_encodeHint h
    rw [List.map_cons, List.flatMap_cons, List.append_assoc, decodeBytes_bytesOfWord, if_pos hhint, hdec, ih,
      List.append_assoc, List.singleton_append]

theorem decodeUnit_of_decodeWord (hr : rejectRun hs = none) (hd : decodeWord hs w = some i) : decodeUnit hs w = i := by
  simp only [decodeUnit, hr, hd]

theorem encode_eq_some {ws : List W32} (h : encode i = some ws) :
    ∃ w, encodeWord i = some w ∧ ws = i.run.hints.map encodeHint ++ [w] := by
  unfold encode at h
  split at h
  · next w hw => exact ⟨w, hw, (Option.some.inj h).symm⟩
  · cases h

/-! ### Words that are no instruction (R70, R71) -/

theorem decodeUnit_of_rejectRun {e : Reject} (h : rejectRun hs = some e) :
    decodeUnit hs w = .illegalInstruction { hints := hs, stl := fStl w } e := by
  simp only [decodeUnit, h]

theorem decodeUnit_of_no_instruction (hr : rejectRun hs = none) (hd : decodeWord hs w = none) :
    decodeUnit hs w =
      .illegalInstruction { hints := hs, stl := fStl w } { cause := 0x01, step := 3, word := w } := by
  simp only [decodeUnit, hr, hd]

theorem rejectRun_of_unknown_kind {h : Hint} (hk : hs.find? (fun x => 6 ≤ x.kind.toNat) = some h) :
    rejectRun hs = some { cause := 0x01, step := 1, word := encodeHint h } := by
  simp only [rejectRun, hk]

theorem decodeWord_of_reserved_major (h : 26 ≤ (fMaj w).toNat) : decodeWord hs w = none := by
  obtain ⟨k, hk⟩ := Nat.exists_eq_add_of_le' h
  simp only [decodeWord, hk]

/-- How many FN values each major's row lists, from FN 0 on; BRA and SLI have no FN (R70). -/
def listedFns : List Nat :=
  [16, 16, 12, 16, 12, 4, 16, 16, 15, 8, 15, 10, 8, 15, 15, 16, 15, 10, 14, 10, 9, 8, 7, 8, 4, 5]

/-- Each major's decoder answers nothing from its first unlisted FN on; a major that lists all 16 has none. -/
theorem decodeWord_of_unlisted_fn {n : Nat} (hn : listedFns[(fMaj w).toNat]? = some n) (h : n ≤ (fFn w).toNat) :
    decodeWord hs w = none := by
  have hlt : n < 16 := Nat.lt_of_le_of_lt h (fFn w).isLt
  obtain ⟨k, hk⟩ := Nat.exists_eq_add_of_le' h
  unfold decodeWord
  split
  case h_27 => rfl
  all_goals
    next hm =>
      rw [hm] at hn
      obtain rfl := Option.some.inj hn
      simp only [hk, decodeCtl, decodeSali, decodeSmem, decodeVint2, decodeVini, decodeVf32, decodeVf32x, decodeVf16, decodeVcvt,
        decodeVxl, decodeVmem, decodeSpad, decodeAtom, decodeSync, decodeCopy, decodeAccs, decodeMatx, decodeRay, decodeGfx,
        decodeLnch, Nat.lt_irrefl] at hlt ⊢

/-- Only D 1 with A and B 0 makes a NOP of a word with major 0 and FN 0; the word 0 has D 0. -/
theorem decodeWord_of_not_nop (hm : fMaj w = 0#5) (hf : fFn w = 0#4) (hn : ¬ (fD w = 1#7 ∧ fA w = 0#7 ∧ fB w = 0#7)) :
    decodeWord hs w = none := by
  have hz : (fD w == 1#7 && fA w == 0#7 && fB w == 0#7) = false := by simpa [and_assoc] using hn
  simp [decodeWord, decodeSys, ifZero, hm, hf, hz]

/-! ### Every instruction that a word encodes -/

/-- The lemma of each instruction, gathered; a step that no word encodes has none. -/
theorem decodeWord_of_encodeWord (hwf : i.wf = true) (h : encodeWord i = some w) :
    runOk i.run = true ∧ isHint w = false ∧ decodeWord i.run.hints w = some i := by
  cases i with
  | nop => exact ⟨hwf, RoundTrip.nop _ hwf w h⟩
  | trap => exact ⟨hwf, RoundTrip.trap _ _ hwf w h⟩
  | brk => exact ⟨hwf, RoundTrip.brk _ _ hwf w h⟩
  | xret => exact ⟨hwf, RoundTrip.xret _ hwf w h⟩
  | mvfs => exact ⟨hwf, RoundTrip.mvfs _ _ _ hwf w h⟩
  | mvts => exact ⟨hwf, RoundTrip.mvts _ _ _ hwf w h⟩
  | ptab => exact ⟨hwf, RoundTrip.ptab _ _ _ _ hwf w h⟩
  | waitcy => exact ⟨hwf, RoundTrip.waitcy _ _ hwf w h⟩
  | time => exact ⟨hwf, RoundTrip.time _ _ hwf w h⟩
  | icinv => exact ⟨hwf, RoundTrip.icinv _ _ _ hwf w h⟩
  | stop => exact ⟨hwf, RoundTrip.stop _ hwf w h⟩
  | vrget => exact ⟨hwf, RoundTrip.vrget _ _ _ _ hwf w h⟩
  | vrset => exact ⟨hwf, RoundTrip.vrset _ _ _ _ hwf w h⟩
  | sfq => exact ⟨hwf, RoundTrip.sfq _ _ _ hwf w h⟩
  | killc => exact ⟨hwf, RoundTrip.killc _ _ hwf w h⟩
  | dumpc => exact ⟨hwf, RoundTrip.dumpc _ _ _ _ hwf w h⟩
  | b => exact ⟨hwf, RoundTrip.b _ _ hwf w h⟩
  | call => exact ⟨hwf, RoundTrip.call _ _ hwf w h⟩
  | bz => exact ⟨hwf, RoundTrip.bz _ _ _ hwf w h⟩
  | bnz => exact ⟨hwf, RoundTrip.bnz _ _ _ hwf w h⟩
  | bneg => exact ⟨hwf, RoundTrip.bneg _ _ _ hwf w h⟩
  | bany => exact ⟨hwf, RoundTrip.bany _ _ _ hwf w h⟩
  | ball => exact ⟨hwf, RoundTrip.ball _ _ _ hwf w h⟩
  | bdiv => exact ⟨hwf, RoundTrip.bdiv _ _ _ hwf w h⟩
  | join => exact ⟨hwf, RoundTrip.join _ _ hwf w h⟩
  | fuse => exact ⟨hwf, RoundTrip.fuse _ _ hwf w h⟩
  | splitctl => exact ⟨hwf, RoundTrip.splitctl _ _ hwf w h⟩
  | exit => exact ⟨hwf, RoundTrip.exit _ hwf w h⟩
  | ret => exact ⟨hwf, RoundTrip.ret _ hwf w h⟩
  | jr => exact ⟨hwf, RoundTrip.jr _ _ hwf w h⟩
  | vxopen => exact ⟨hwf, RoundTrip.vxopen _ _ hwf w h⟩
  | vxclose => exact ⟨hwf, RoundTrip.vxclose _ hwf w h⟩
  | exmget => exact ⟨hwf, RoundTrip.exmget _ _ hwf w h⟩
  | exmset => exact ⟨hwf, RoundTrip.exmset _ _ hwf w h⟩
  | mkff => exact ⟨hwf, RoundTrip.mkff _ _ hwf w h⟩
  | yield => exact ⟨hwf, RoundTrip.yield _ hwf w h⟩
  | sadd => exact ⟨hwf, RoundTrip.sadd _ _ _ _ hwf w h⟩
  | ssub => exact ⟨hwf, RoundTrip.ssub _ _ _ _ hwf w h⟩
  | smul => exact ⟨hwf, RoundTrip.smul _ _ _ _ hwf w h⟩
  | smulh => exact ⟨hwf, RoundTrip.smulh _ _ _ _ hwf w h⟩
  | sand => exact ⟨hwf, RoundTrip.sand _ _ _ _ hwf w h⟩
  | sor => exact ⟨hwf, RoundTrip.sor _ _ _ _ hwf w h⟩
  | sxor => exact ⟨hwf, RoundTrip.sxor _ _ _ _ hwf w h⟩
  | sshl => exact ⟨hwf, RoundTrip.sshl _ _ _ _ hwf w h⟩
  | sshr => exact ⟨hwf, RoundTrip.sshr _ _ _ _ hwf w h⟩
  | ssar => exact ⟨hwf, RoundTrip.ssar _ _ _ _ hwf w h⟩
  | smin => exact ⟨hwf, RoundTrip.smin _ _ _ _ hwf w h⟩
  | smax => exact ⟨hwf, RoundTrip.smax _ _ _ _ hwf w h⟩
  | sminn => exact ⟨hwf, RoundTrip.sminn _ _ _ _ hwf w h⟩
  | smaxn => exact ⟨hwf, RoundTrip.smaxn _ _ _ _ hwf w h⟩
  | sslt => exact ⟨hwf, RoundTrip.sslt _ _ _ _ hwf w h⟩
  | ssltn => exact ⟨hwf, RoundTrip.ssltn _ _ _ _ hwf w h⟩
  | saddi => exact ⟨hwf, RoundTrip.saddi _ _ _ _ hwf w h⟩
  | sandi => exact ⟨hwf, RoundTrip.sandi _ _ _ _ hwf w h⟩
  | sori => exact ⟨hwf, RoundTrip.sori _ _ _ _ hwf w h⟩
  | sxori => exact ⟨hwf, RoundTrip.sxori _ _ _ _ hwf w h⟩
  | sshli => exact ⟨hwf, RoundTrip.sshli _ _ _ _ hwf w h⟩
  | sshri => exact ⟨hwf, RoundTrip.sshri _ _ _ _ hwf w h⟩
  | ssari => exact ⟨hwf, RoundTrip.ssari _ _ _ _ hwf w h⟩
  | sslti => exact ⟨hwf, RoundTrip.sslti _ _ _ _ hwf w h⟩
  | sclz => exact ⟨hwf, RoundTrip.sclz _ _ _ hwf w h⟩
  | spopc => exact ⟨hwf, RoundTrip.spopc _ _ _ hwf w h⟩
  | sbfx => exact ⟨hwf, RoundTrip.sbfx _ _ _ hwf w h⟩
  | smov => exact ⟨hwf, RoundTrip.smov _ _ _ hwf w h⟩
  | sld64 => exact ⟨hwf, RoundTrip.sld64 _ _ _ _ hwf w h⟩
  | sld32 => exact ⟨hwf, RoundTrip.sld32 _ _ _ _ hwf w h⟩
  | sst64 => exact ⟨hwf, RoundTrip.sst64 _ _ _ _ hwf w h⟩
  | sst32 => exact ⟨hwf, RoundTrip.sst32 _ _ _ _ hwf w h⟩
  | sli => exact ⟨hwf, RoundTrip.sli _ _ _ _ hwf w h⟩
  | vadd => exact ⟨hwf, RoundTrip.vadd _ _ _ _ hwf w h⟩
  | vsub => exact ⟨hwf, RoundTrip.vsub _ _ _ _ hwf w h⟩
  | vmul => exact ⟨hwf, RoundTrip.vmul _ _ _ _ hwf w h⟩
  | vmulh => exact ⟨hwf, RoundTrip.vmulh _ _ _ _ hwf w h⟩
  | vmulhn => exact ⟨hwf, RoundTrip.vmulhn _ _ _ _ hwf w h⟩
  | vand => exact ⟨hwf, RoundTrip.vand _ _ _ _ hwf w h⟩
  | vor => exact ⟨hwf, RoundTrip.vor _ _ _ _ hwf w h⟩
  | vxor => exact ⟨hwf, RoundTrip.vxor _ _ _ _ hwf w h⟩
  | vshl => exact ⟨hwf, RoundTrip.vshl _ _ _ _ hwf w h⟩
  | vshr => exact ⟨hwf, RoundTrip.vshr _ _ _ _ hwf w h⟩
  | vsar => exact ⟨hwf, RoundTrip.vsar _ _ _ _ hwf w h⟩
  | vmin => exact ⟨hwf, RoundTrip.vmin _ _ _ _ hwf w h⟩
  | vmax => exact ⟨hwf, RoundTrip.vmax _ _ _ _ hwf w h⟩
  | vminn => exact ⟨hwf, RoundTrip.vminn _ _ _ _ hwf w h⟩
  | vmaxn => exact ⟨hwf, RoundTrip.vmaxn _ _ _ _ hwf w h⟩
  | vsel => exact ⟨hwf, RoundTrip.vsel _ _ _ _ hwf w h⟩
  | vmad => exact ⟨hwf, RoundTrip.vmad _ _ _ _ hwf w h⟩
  | vabs => exact ⟨hwf, RoundTrip.vabs _ _ _ hwf w h⟩
  | vneg => exact ⟨hwf, RoundTrip.vneg _ _ _ hwf w h⟩
  | vnot => exact ⟨hwf, RoundTrip.vnot _ _ _ hwf w h⟩
  | vclz => exact ⟨hwf, RoundTrip.vclz _ _ _ hwf w h⟩
  | vpopc => exact ⟨hwf, RoundTrip.vpopc _ _ _ hwf w h⟩
  | vbfx => exact ⟨hwf, RoundTrip.vbfx _ _ _ hwf w h⟩
  | vbfi => exact ⟨hwf, RoundTrip.vbfi _ _ _ hwf w h⟩
  | vbcst => exact ⟨hwf, RoundTrip.vbcst _ _ _ hwf w h⟩
  | vlane => exact ⟨hwf, RoundTrip.vlane _ _ hwf w h⟩
  | vmov => exact ⟨hwf, RoundTrip.vmov _ _ _ hwf w h⟩
  | vadds => exact ⟨hwf, RoundTrip.vadds _ _ _ _ hwf w h⟩
  | vsubs => exact ⟨hwf, RoundTrip.vsubs _ _ _ _ hwf w h⟩
  | vquad => exact ⟨hwf, RoundTrip.vquad _ _ _ hwf w h⟩
  | vbrev => exact ⟨hwf, RoundTrip.vbrev _ _ _ hwf w h⟩
  | vaddi => exact ⟨hwf, RoundTrip.vaddi _ _ _ _ hwf w h⟩
  | vandi => exact ⟨hwf, RoundTrip.vandi _ _ _ _ hwf w h⟩
  | vori => exact ⟨hwf, RoundTrip.vori _ _ _ _ hwf w h⟩
  | vxori => exact ⟨hwf, RoundTrip.vxori _ _ _ _ hwf w h⟩
  | vshli => exact ⟨hwf, RoundTrip.vshli _ _ _ _ hwf w h⟩
  | vshri => exact ⟨hwf, RoundTrip.vshri _ _ _ _ hwf w h⟩
  | vsari => exact ⟨hwf, RoundTrip.vsari _ _ _ _ hwf w h⟩
  | vmuli => exact ⟨hwf, RoundTrip.vmuli _ _ _ _ hwf w h⟩
  | fadd => exact ⟨hwf, RoundTrip.fadd _ _ _ _ hwf w h⟩
  | fsub => exact ⟨hwf, RoundTrip.fsub _ _ _ _ hwf w h⟩
  | fmul => exact ⟨hwf, RoundTrip.fmul _ _ _ _ hwf w h⟩
  | ffma => exact ⟨hwf, RoundTrip.ffma _ _ _ _ hwf w h⟩
  | ffms => exact ⟨hwf, RoundTrip.ffms _ _ _ _ hwf w h⟩
  | fnma => exact ⟨hwf, RoundTrip.fnma _ _ _ _ hwf w h⟩
  | fmin => exact ⟨hwf, RoundTrip.fmin _ _ _ _ hwf w h⟩
  | fmax => exact ⟨hwf, RoundTrip.fmax _ _ _ _ hwf w h⟩
  | fabs => exact ⟨hwf, RoundTrip.fabs _ _ _ hwf w h⟩
  | fneg => exact ⟨hwf, RoundTrip.fneg _ _ _ hwf w h⟩
  | fcps => exact ⟨hwf, RoundTrip.fcps _ _ _ _ hwf w h⟩
  | frnd => exact ⟨hwf, RoundTrip.frnd _ _ _ hwf w h⟩
  | ffrc => exact ⟨hwf, RoundTrip.ffrc _ _ _ hwf w h⟩
  | fscl => exact ⟨hwf, RoundTrip.fscl _ _ _ _ hwf w h⟩
  | fexn => exact ⟨hwf, RoundTrip.fexn _ _ _ hwf w h⟩
  | frcp => exact ⟨hwf, RoundTrip.frcp _ _ _ hwf w h⟩
  | frsq => exact ⟨hwf, RoundTrip.frsq _ _ _ hwf w h⟩
  | fsqrt => exact ⟨hwf, RoundTrip.fsqrt _ _ _ hwf w h⟩
  | fdiv => exact ⟨hwf, RoundTrip.fdiv _ _ _ _ hwf w h⟩
  | fexp2 => exact ⟨hwf, RoundTrip.fexp2 _ _ _ hwf w h⟩
  | flog2 => exact ⟨hwf, RoundTrip.flog2 _ _ _ hwf w h⟩
  | fsin => exact ⟨hwf, RoundTrip.fsin _ _ _ hwf w h⟩
  | fcos => exact ⟨hwf, RoundTrip.fcos _ _ _ hwf w h⟩
  | ftanh => exact ⟨hwf, RoundTrip.ftanh _ _ _ hwf w h⟩
  | fcls => exact ⟨hwf, RoundTrip.fcls _ _ _ hwf w h⟩
  | hadd => exact ⟨hwf, RoundTrip.hadd _ _ _ _ hwf w h⟩
  | hmul => exact ⟨hwf, RoundTrip.hmul _ _ _ _ hwf w h⟩
  | hfma => exact ⟨hwf, RoundTrip.hfma _ _ _ _ hwf w h⟩
  | badd => exact ⟨hwf, RoundTrip.badd _ _ _ _ hwf w h⟩
  | bmul => exact ⟨hwf, RoundTrip.bmul _ _ _ _ hwf w h⟩
  | bfma => exact ⟨hwf, RoundTrip.bfma _ _ _ _ hwf w h⟩
  | hdot => exact ⟨hwf, RoundTrip.hdot _ _ _ _ hwf w h⟩
  | bdot => exact ⟨hwf, RoundTrip.bdot _ _ _ _ hwf w h⟩
  | cvtF32S32 => exact ⟨hwf, RoundTrip.cvtF32S32 _ _ _ hwf w h⟩
  | cvtF32N32 => exact ⟨hwf, RoundTrip.cvtF32N32 _ _ _ hwf w h⟩
  | cvtS32F32 => exact ⟨hwf, RoundTrip.cvtS32F32 _ _ _ hwf w h⟩
  | cvtN32F32 => exact ⟨hwf, RoundTrip.cvtN32F32 _ _ _ hwf w h⟩
  | cvtF16x2 => exact ⟨hwf, RoundTrip.cvtF16x2 _ _ _ _ hwf w h⟩
  | cvtBf16x2 => exact ⟨hwf, RoundTrip.cvtBf16x2 _ _ _ _ hwf w h⟩
  | cvtF32F16 => exact ⟨hwf, RoundTrip.cvtF32F16 _ _ _ _ hwf w h⟩
  | cvtF32Bf16 => exact ⟨hwf, RoundTrip.cvtF32Bf16 _ _ _ _ hwf w h⟩
  | cvtF8e4 => exact ⟨hwf, RoundTrip.cvtF8e4 _ _ _ _ hwf w h⟩
  | cvtF8e5 => exact ⟨hwf, RoundTrip.cvtF8e5 _ _ _ _ hwf w h⟩
  | cvtF32F8 => exact ⟨hwf, RoundTrip.cvtF32F8 _ _ _ _ hwf w h⟩
  | plane => exact ⟨hwf, RoundTrip.plane _ _ _ hwf w h⟩
  | unplane => exact ⟨hwf, RoundTrip.unplane _ _ _ hwf w h⟩
  | cvtS8 => exact ⟨hwf, RoundTrip.cvtS8 _ _ _ _ hwf w h⟩
  | cvtS32S8 => exact ⟨hwf, RoundTrip.cvtS32S8 _ _ _ _ hwf w h⟩
  | vshfl => exact ⟨hwf, RoundTrip.vshfl _ _ _ _ hwf w h⟩
  | vshfx => exact ⟨hwf, RoundTrip.vshfx _ _ _ _ _ hwf w h⟩
  | vshup => exact ⟨hwf, RoundTrip.vshup _ _ _ _ _ hwf w h⟩
  | vshdn => exact ⟨hwf, RoundTrip.vshdn _ _ _ _ _ hwf w h⟩
  | vredAddS32 => exact ⟨hwf, RoundTrip.vredAddS32 _ _ _ _ hwf w h⟩
  | vredAddF32 => exact ⟨hwf, RoundTrip.vredAddF32 _ _ _ _ hwf w h⟩
  | vredMin => exact ⟨hwf, RoundTrip.vredMin _ _ _ _ _ hwf w h⟩
  | vredMax => exact ⟨hwf, RoundTrip.vredMax _ _ _ _ _ hwf w h⟩
  | vscanAddS32 => exact ⟨hwf, RoundTrip.vscanAddS32 _ _ _ _ _ hwf w h⟩
  | vscanAddF32 => exact ⟨hwf, RoundTrip.vscanAddF32 _ _ _ _ _ hwf w h⟩
  | vvote => exact ⟨hwf, RoundTrip.vvote _ _ _ _ _ hwf w h⟩
  | vfirst => exact ⟨hwf, RoundTrip.vfirst _ _ _ _ hwf w h⟩
  | vreadl => exact ⟨hwf, RoundTrip.vreadl _ _ _ _ _ hwf w h⟩
  | vwritel => exact ⟨hwf, RoundTrip.vwritel _ _ _ _ _ hwf w h⟩
  | vmatch => exact ⟨hwf, RoundTrip.vmatch _ _ _ _ _ hwf w h⟩
  | cmpeq => exact ⟨hwf, RoundTrip.cmpeq _ _ _ _ hwf w h⟩
  | cmpne => exact ⟨hwf, RoundTrip.cmpne _ _ _ _ hwf w h⟩
  | cmplt => exact ⟨hwf, RoundTrip.cmplt _ _ _ _ hwf w h⟩
  | cmple => exact ⟨hwf, RoundTrip.cmple _ _ _ _ hwf w h⟩
  | cmpltn => exact ⟨hwf, RoundTrip.cmpltn _ _ _ _ hwf w h⟩
  | cmplen => exact ⟨hwf, RoundTrip.cmplen _ _ _ _ hwf w h⟩
  | fcmpeq => exact ⟨hwf, RoundTrip.fcmpeq _ _ _ _ hwf w h⟩
  | fcmplt => exact ⟨hwf, RoundTrip.fcmplt _ _ _ _ hwf w h⟩
  | fcmple => exact ⟨hwf, RoundTrip.fcmple _ _ _ _ hwf w h⟩
  | fcmpun => exact ⟨hwf, RoundTrip.fcmpun _ _ _ _ hwf w h⟩
  | mkand => exact ⟨hwf, RoundTrip.mkand _ _ _ _ hwf w h⟩
  | mkor => exact ⟨hwf, RoundTrip.mkor _ _ _ _ hwf w h⟩
  | mkxor => exact ⟨hwf, RoundTrip.mkxor _ _ _ _ hwf w h⟩
  | mkandn => exact ⟨hwf, RoundTrip.mkandn _ _ _ _ hwf w h⟩
  | mkpop => exact ⟨hwf, RoundTrip.mkpop _ _ _ hwf w h⟩
  | mkmov => exact ⟨hwf, RoundTrip.mkmov _ _ _ hwf w h⟩
  | ldB => exact ⟨hwf, RoundTrip.ldB _ _ _ _ hwf w h⟩
  | ldBs => exact ⟨hwf, RoundTrip.ldBs _ _ _ _ hwf w h⟩
  | ldH => exact ⟨hwf, RoundTrip.ldH _ _ _ _ hwf w h⟩
  | ldHs => exact ⟨hwf, RoundTrip.ldHs _ _ _ _ hwf w h⟩
  | ldW => exact ⟨hwf, RoundTrip.ldW _ _ _ _ hwf w h⟩
  | ldD => exact ⟨hwf, RoundTrip.ldD _ _ _ _ hwf w h⟩
  | ldQ => exact ⟨hwf, RoundTrip.ldQ _ _ _ _ hwf w h⟩
  | ldnW => exact ⟨hwf, RoundTrip.ldnW _ _ _ _ hwf w h⟩
  | stB => exact ⟨hwf, RoundTrip.stB _ _ _ _ hwf w h⟩
  | stH => exact ⟨hwf, RoundTrip.stH _ _ _ _ hwf w h⟩
  | stW => exact ⟨hwf, RoundTrip.stW _ _ _ _ hwf w h⟩
  | stD => exact ⟨hwf, RoundTrip.stD _ _ _ _ hwf w h⟩
  | stQ => exact ⟨hwf, RoundTrip.stQ _ _ _ _ hwf w h⟩
  | pref => exact ⟨hwf, RoundTrip.pref _ _ _ hwf w h⟩
  | ldnD => exact ⟨hwf, RoundTrip.ldnD _ _ _ _ hwf w h⟩
  | ldsW => exact ⟨hwf, RoundTrip.ldsW _ _ _ _ hwf w h⟩
  | ldsD => exact ⟨hwf, RoundTrip.ldsD _ _ _ _ hwf w h⟩
  | ldsQ => exact ⟨hwf, RoundTrip.ldsQ _ _ _ _ hwf w h⟩
  | stsW => exact ⟨hwf, RoundTrip.stsW _ _ _ _ hwf w h⟩
  | stsD => exact ⟨hwf, RoundTrip.stsD _ _ _ _ hwf w h⟩
  | stsQ => exact ⟨hwf, RoundTrip.stsQ _ _ _ _ hwf w h⟩
  | vspill => exact ⟨hwf, RoundTrip.vspill _ _ _ _ hwf w h⟩
  | vfill => exact ⟨hwf, RoundTrip.vfill _ _ _ _ hwf w h⟩
  | ldsp => exact ⟨hwf, RoundTrip.ldsp _ _ _ _ hwf w h⟩
  | stsp => exact ⟨hwf, RoundTrip.stsp _ _ _ _ hwf w h⟩
  | aadd => exact ⟨hwf, RoundTrip.aadd _ _ _ _ hwf w h⟩
  | aand => exact ⟨hwf, RoundTrip.aand _ _ _ _ hwf w h⟩
  | aor => exact ⟨hwf, RoundTrip.aor _ _ _ _ hwf w h⟩
  | axor => exact ⟨hwf, RoundTrip.axor _ _ _ _ hwf w h⟩
  | amin => exact ⟨hwf, RoundTrip.amin _ _ _ _ hwf w h⟩
  | amax => exact ⟨hwf, RoundTrip.amax _ _ _ _ hwf w h⟩
  | aminn => exact ⟨hwf, RoundTrip.aminn _ _ _ _ hwf w h⟩
  | amaxn => exact ⟨hwf, RoundTrip.amaxn _ _ _ _ hwf w h⟩
  | axch => exact ⟨hwf, RoundTrip.axch _ _ _ _ hwf w h⟩
  | acas => exact ⟨hwf, RoundTrip.acas _ _ _ _ hwf w h⟩
  | aaddf => exact ⟨hwf, RoundTrip.aaddf _ _ _ _ hwf w h⟩
  | aincw => exact ⟨hwf, RoundTrip.aincw _ _ _ _ hwf w h⟩
  | ald => exact ⟨hwf, RoundTrip.ald _ _ _ _ hwf w h⟩
  | ast => exact ⟨hwf, RoundTrip.ast _ _ _ _ hwf w h⟩
  | fence => exact ⟨hwf, RoundTrip.fence _ _ hwf w h⟩
  | trkset => exact ⟨(Bool.and_eq_true_iff.1 hwf).1, RoundTrip.trkset _ _ _ _ hwf w h⟩
  | trksetH => exact ⟨(Bool.and_eq_true_iff.1 hwf).1, RoundTrip.trksetH _ _ _ hwf w h⟩
  | trkclr => exact ⟨hwf, RoundTrip.trkclr _ _ hwf w h⟩
  | drainst => exact ⟨hwf, RoundTrip.drainst _ hwf w h⟩
  | waita => exact ⟨hwf, RoundTrip.waita _ _ _ _ hwf w h⟩
  | bardef => exact ⟨hwf, RoundTrip.bardef _ _ _ hwf w h⟩
  | bararr => exact ⟨hwf, RoundTrip.bararr _ _ _ hwf w h⟩
  | barwait => exact ⟨hwf, RoundTrip.barwait _ _ _ hwf w h⟩
  | barc => exact ⟨hwf, RoundTrip.barc _ _ _ hwf w h⟩
  | barinv => exact ⟨hwf, RoundTrip.barinv _ _ hwf w h⟩
  | cpyl => exact ⟨hwf, RoundTrip.cpyl _ _ _ _ hwf w h⟩
  | cpyt => exact ⟨hwf, RoundTrip.cpyt _ _ hwf w h⟩
  | cpyr => exact ⟨hwf, RoundTrip.cpyr _ _ hwf w h⟩
  | bufdef => exact ⟨hwf, RoundTrip.bufdef _ _ _ _ hwf w h⟩
  | bufwait => exact ⟨hwf, RoundTrip.bufwait _ _ _ hwf w h⟩
  | bufrel => exact ⟨hwf, RoundTrip.bufrel _ _ _ hwf w h⟩
  | bufstat => exact ⟨hwf, RoundTrip.bufstat _ _ _ hwf w h⟩
  | qpop => exact ⟨hwf, RoundTrip.qpop _ _ _ hwf w h⟩
  | qpeek => exact ⟨hwf, RoundTrip.qpeek _ _ _ hwf w h⟩
  | aloop => exact ⟨hwf, RoundTrip.aloop _ _ _ hwf w h⟩
  | aend => exact ⟨hwf, RoundTrip.aend _ _ hwf w h⟩
  | astrm => exact ⟨hwf, RoundTrip.astrm _ _ _ _ hwf w h⟩
  | acpy => exact ⟨hwf, RoundTrip.acpy _ _ _ _ hwf w h⟩
  | asig => exact ⟨hwf, RoundTrip.asig _ _ _ hwf w h⟩
  | ahalt => exact ⟨hwf, RoundTrip.ahalt _ hwf w h⟩
  | astart => exact ⟨hwf, RoundTrip.astart _ _ hwf w h⟩
  | astat => exact ⟨hwf, RoundTrip.astat _ _ hwf w h⟩
  | mwld => exact ⟨hwf, RoundTrip.mwld _ _ _ hwf w h⟩
  | mstr => exact ⟨(Bool.and_eq_true_iff.1 hwf).1, RoundTrip.mstr _ _ _ _ hwf w h⟩
  | mstrQueue => exact ⟨(Bool.and_eq_true_iff.1 hwf).1, RoundTrip.mstrQueue _ _ _ hwf w h⟩
  | mrdo => exact ⟨hwf, RoundTrip.mrdo _ _ _ _ hwf w h⟩
  | mzero => exact ⟨hwf, RoundTrip.mzero _ _ hwf w h⟩
  | macsv => exact ⟨hwf, RoundTrip.macsv _ _ _ _ hwf w h⟩
  | macld => exact ⟨hwf, RoundTrip.macld _ _ _ _ hwf w h⟩
  | mstat => exact ⟨hwf, RoundTrip.mstat _ _ _ hwf w h⟩
  | trace => exact ⟨hwf, RoundTrip.trace _ _ _ _ hwf w h⟩
  | hitget => exact ⟨hwf, RoundTrip.hitget _ _ _ _ hwf w h⟩
  | ahacc => exact ⟨hwf, RoundTrip.ahacc _ hwf w h⟩
  | ahrej => exact ⟨hwf, RoundTrip.ahrej _ hwf w h⟩
  | contend => exact ⟨hwf, RoundTrip.contend _ _ hwf w h⟩
  | contget => exact ⟨hwf, RoundTrip.contget _ _ _ hwf w h⟩
  | lntinv => exact ⟨hwf, RoundTrip.lntinv _ _ hwf w h⟩
  | ishit => exact ⟨hwf, RoundTrip.ishit _ _ _ hwf w h⟩
  | rast => exact ⟨hwf, RoundTrip.rast _ _ _ _ hwf w h⟩
  | rprj => exact ⟨hwf, RoundTrip.rprj _ _ _ _ hwf w h⟩
  | tex => exact ⟨hwf, RoundTrip.tex _ _ _ _ hwf w h⟩
  | texl => exact ⟨hwf, RoundTrip.texl _ _ _ _ hwf w h⟩
  | lnch => exact ⟨hwf, RoundTrip.lnch _ _ _ _ hwf w h⟩
  | evset => exact ⟨hwf, RoundTrip.evset _ _ _ hwf w h⟩
  | evclr => exact ⟨hwf, RoundTrip.evclr _ _ _ hwf w h⟩
  | ember => exact ⟨hwf, RoundTrip.ember _ _ _ hwf w h⟩
  | grist => exact ⟨hwf, RoundTrip.grist _ _ _ hwf w h⟩
  | _ => cases h

/-- Settles O1: the hints by `decodeBytes_hints`, the word by `decodeWord_of_encodeWord`. -/
theorem decodeInvertsEncode : Obligations.DecodeInvertsEncode := by
  intro i ws rest hwf henc
  obtain ⟨w, hw, rfl⟩ := encode_eq_some henc
  obtain ⟨hrun, hhint, hdec⟩ := decodeWord_of_encodeWord hwf hw
  have hunit : decodeUnit i.run.hints w = i := decodeUnit_of_decodeWord (Option.isNone_iff_eq_none.1 hrun) hdec
  have hbytes : (i.run.hints.map encodeHint ++ [w]).flatMap bytesOfWord ++ rest =
      (i.run.hints.map encodeHint).flatMap bytesOfWord ++ (bytesOfWord w ++ rest) := by simp
  rw [hbytes, decodeBytes_hints, List.nil_append, decodeBytes_bytesOfWord, if_neg (by simp [hhint]), hunit]

/-- Settles O5: each word is read field by field. -/
theorem writtenWordsDecode : Obligations.WrittenWordsDecode :=
  ⟨rfl, rfl, rfl, rfl, rfl, rfl, rfl, rfl, rfl, rfl⟩

end Sys2Proof.Laws
end

section
/-! PROOFS of O7 and O24, the units that are refused. A word that is no instruction and a unit that fails a check both end in
`trap`, which enters the handler where the part has one; a fetch that fails ends in `fetchKill`. -/

set_option Elab.async false

namespace Sys2Proof.Machine

variable {s : State} {r : Run}

/-- A unit that is refused before it is an instruction enters the handler (R71, R161). -/
theorem exec_illegalInstruction_entered (hc : clear r s = true) (hh : handles s) (e : Reject) :
    ∃ t, exec (.illegalInstruction r e) s = .next t ∧ Entered (rejectTrap e s) (unitWords r) s t :=
  ⟨_, (exec_illegalInstruction ..).trans (congrArg Host.Outcome.next (boundary_of_clear hc _)), trap_entered hh⟩

/-! ### Words that are no instruction (R71) -/

/-- Settles O7: each kind of reserved word decodes to nothing, by the decoder's lemmas, and a NOP by its lemma in `RoundTrip`. -/
theorem reservedWordsAreIllegal : Obligations.ReservedWordsAreIllegal := by
  intro hs w s r illegal
  have refused {at_ : W32} {step : Nat}
      (hd : decodeUnit hs w = .illegalInstruction r { cause := 0x01, step := step, word := at_ }) : illegal at_ step := by
    intro hclear hh
    rw [hd]
    exact exec_illegalInstruction_entered hclear hh _
  refine ⟨fun hr => ?_, fun h hk => ?_, rfl, rfl⟩
  · have reserved (hd : decodeWord hs w = none) : illegal w 3 := refused (Laws.decodeUnit_of_no_instruction hr hd)
    refine ⟨reserved, fun hlo _ => reserved (Laws.decodeWord_of_reserved_major hlo),
      fun n hn hle => reserved (Laws.decodeWord_of_unlisted_fn hn hle), fun hw => reserved ?_,
      fun hm hf hn => reserved (Laws.decodeWord_of_not_nop hm hf hn), fun stl => ?_⟩
    · exact hw ▸ Laws.decodeWord_of_not_nop rfl rfl (by decide)
    · have hwf : (Instr.nop { hints := hs, stl := stl }).wf = true := Option.isNone_iff_eq_none.2 hr
      exact (Laws.RoundTrip.nop _ hwf _ rfl).2
  · exact refused (Laws.decodeUnit_of_rejectRun (Laws.rejectRun_of_unknown_kind hk))

/-! ### Events that trap (R134, R164) -/

/-- The active lanes in which a floating unit has an invalid event. -/
def eventLanes (f : State → Nat → Res) (s : State) : List Nat := (activeLanes s).filter (fun l => (f s l).inv)

/-- With TRAPEN set, outside a handler, an event in an active lane takes cause 0x04 in place of the results. -/
theorem putRes_of_event {f : State → Nat → Res} (hen : (wctlOf s).getLsbD 2 = true) (hst : s.part.state = .run)
    (he : ∃ l ∈ activeLanes s, (f s l).inv = true) (lat : Nat) (d : BitVec 7) :
    putRes r lat d (f s) s =
      trap { cause := 0x04, lanes := maskOf (fun l => (eventLanes f s).contains l), info := 0#64, addr := 0#64 } r s := by
  obtain ⟨l, hl, hinv⟩ := he
  have hmem : l ∈ eventLanes f s := List.mem_filter.2 ⟨hl, hinv⟩
  exact if_pos ⟨hen, by simp [hst], List.ne_nil_of_mem hmem⟩

theorem contains_eventLanes (f : State → Nat → Res) (s : State) (l : Nat) :
    (eventLanes f s).contains l = ((activeLanes s).contains l && (f s l).inv) := by
  rw [Bool.eq_iff_iff]
  simp [eventLanes]

/-! ### Fetches that fail (R113, R384) -/

/-- Only a fetch from an address outside the global window fails as such; every later check names another reason. -/
theorem outside_of_fetchWord {pc : W64} {e : FetchStop} (h : fetchWord pc s = .error e) (hw : e.why = .outside) :
    2 ^ 56 ≤ e.pc.toNat := by
  unfold fetchWord at h
  dsimp only at h
  split at h
  · next hlo => cases h; exact hlo
  · grind

theorem outside_of_fetchUnit {e : FetchStop} (hw : e.why = .outside) (n : Nat) (hs : List Hint) (pc : W64) (s : State)
    (h : fetchUnit n hs pc s = .error e) : 2 ^ 56 ≤ e.pc.toNat := by
  induction n generalizing hs pc s with
  | zero => cases h
  | succ n ih =>
    unfold fetchUnit at h
    split at h
    · next hword => cases h; exact outside_of_fetchWord hword hw
    · split at h
      · exact ih _ _ _ h
      · cases h

theorem exec_fetchFailure_of_error {e : FetchStop} (ha : s.agent = .wave) (hc : canIssue s = true)
    (hn : nextUnit s = .error e) : exec (.fetchFailure (e.why == .outside)) s = .next (fetchKill e s) := by
  rw [exec_fetchFailure]
  simp [execFetchFailure, ha, hc, hn]

/-- Settles O24: a refused unit by `unit_of_reject`, an event by `putRes_of_event`, a failing fetch by `fetchKill`. -/
theorem checksTrap : Obligations.ChecksTrap := by
  refine ⟨fun o f e s hc hh => ⟨fun hr => ?_, exec_illegalInstruction_entered hc hh e⟩,
    fun o d f s hr hen hst he hv => ?_, fun s e ha hc hn howned => ?_⟩
  · exact ⟨_, unit_of_reject hc hr f, trap_entered hh⟩
  · have hh : handles s := ⟨by simp [hst], hv⟩
    refine ⟨_, unit_of_ready hr _, ?_⟩
    rw [putRes_of_event hen hst he, trap, trapAt_of_handles hh]
    refine ⟨rfl, rfl, rfl, rfl, rfl, fun l hl => ?_⟩
    exact (maskOf_getLsbD _ l hl).trans (contains_eventLanes f s l)
  · have hx := exec_fetchFailure_of_error ha hc hn
    obtain ⟨why, pc⟩ := e
    cases why with
    | owned => exact absurd rfl howned
    | outside =>
      simp only [fetchKill, fetchPc, ha] at hx
      exact ⟨_, hx, rfl, rfl, rfl, fun _ => ⟨rfl, rfl, outside_of_fetchUnit rfl _ _ _ _ hn⟩, nofun, nofun⟩
    | refused n =>
      simp only [fetchKill, fetchPc, ha] at hx
      exact ⟨_, hx, rfl, rfl, rfl, nofun, fun _ hm => ⟨rfl, by cases hm; rfl⟩, nofun⟩
    | poison =>
      simp only [fetchKill, fetchPc, ha] at hx
      exact ⟨_, hx, rfl, rfl, rfl, nofun, nofun, fun _ => ⟨rfl, rfl, rfl⟩⟩

end Sys2Proof.Machine
end

section
/-! PROOFS of O4, that a step runs the unit at the PC. A part that is picked is the part in focus, so its step is `issue` on the
state itself; and where nothing stands in the way of the fetch, its word is the four bytes of memory. -/

set_option Elab.async false

namespace Sys2Proof.Machine

variable {s t : State} {hs : List Hint} {w : W32} {p : Page} {rest : List Turn}

/-! ### The pick (R50, R201) -/

theorem canIssue_of_mayPick (h : mayPick s = true) : canIssue s = true := by
  simp only [mayPick, due, polls, Bool.and_eq_true, Bool.or_eq_true] at h
  obtain ⟨⟨⟨⟨hc, -⟩, -⟩, -⟩ | ⟨⟨⟨hc, -⟩, -⟩, -⟩, -⟩ := h
  · exact hc
  · exact hc

/-- The focus on the part that has it changes nothing. -/
theorem focusUnit_hereRef (ha : s.agent = .wave) (h : canIssue s = true) : focusUnit s (hereRef s) = s := by
  simp only [canIssue, Bool.and_eq_true, beq_iff_eq, bne_iff_ne] at h
  obtain ⟨⟨⟨⟨hres, hquads⟩, -⟩, -⟩, -⟩ := h
  have hcrew : focusCrew s s.crew.cid = s := if_pos ⟨rfl, by simp [hres]⟩
  have hfocus : focus s (hereRef s) = s := by
    unfold focus
    rw [show focusCrew s (hereRef s).crew = s from hcrew]
    exact if_pos ⟨rfl, rfl, rfl, hquads⟩
  rw [focusUnit, hfocus, ← ha]

theorem takePick_hereRef (ha : s.agent = .wave) (hp : mayPick { s with sched := rest } = true) (htag : tagDue s = false) :
    takePick (.part (hereRef s)) rest s = issue { s with sched := rest } := by
  have hfocus : focusUnit { s with sched := rest } (hereRef s) = { s with sched := rest } :=
    focusUnit_hereRef (s := { s with sched := rest }) ha (canIssue_of_mayPick hp)
  have htag' : tagDue { s with sched := rest } = false := htag
  simp only [takePick, hfocus, hp, htag', Bool.false_eq_true, if_false]
  exact if_pos ⟨rfl, trivial⟩

theorem ownTurn_hereRef (ha : s.agent = .wave) (hp : mayPick s = true) (htag : tagDue s = false)
    (hret : firstOf s (retireEvents s) = none)
    (hfind : (partRefs s).find? (fun p => mayPick (focusUnit s p)) = some (hereRef s)) : ownTurn s = issue s := by
  have hslice : dueSlice s = false := by simp [dueSlice, ha]
  have hfocus := focusUnit_hereRef ha (canIssue_of_mayPick hp)
  simp [ownTurn, hslice, hret, nextPick, hfind, hfocus, htag]

theorem step_of_picksHere (hag : s.agenda = []) (hpow : s.pkg.powered = true) (hboot : s.pkg.booted = true)
    (ha : s.agent = .wave) (hlate : firstOf s (lateEvents s) = none) (hpick : picksHere s rest) (htag : tagDue s = false) :
    step s = issue { s with sched := rest } := by
  obtain ⟨hp, hsched | ⟨hsched, rfl, hret, hfind⟩⟩ := hpick
  · rw [← takePick_hereRef ha hp htag]
    simp only [step, turn, hag, hpow, hboot, hlate, hsched, Bool.true_eq_false, false_and, if_false]
  · have hs : { s with sched := [] } = s := congrArg (fun l => { s with sched := l }) hsched.symm
    rw [hs] at hp ⊢
    rw [← ownTurn_hereRef ha hp htag hret hfind]
    simp only [step, turn, hag, hpow, hboot, hlate, hsched, Bool.true_eq_false, false_and, if_false]

/-! ### The unit (R54, R63) -/

/-- What a unit that has run leaves, when it leaves a state. -/
def endUnit (hs : List Hint) (w : W32) (t : State) (o : Host.Outcome State Fault Refusal) : Host.Outcome State Fault Refusal :=
  match o with
  | .next v => .next (afterUnit hs w t v)
  | stop => stop

theorem issue_of_nextUnit (ha : s.agent = .wave) (h : nextUnit (beginUnit s) = .ok (hs, w, t)) :
    issue s =
      endUnit hs w t (exec (decodeUnit hs w) (tagBegin (s.part.pc + BitVec.ofNat 64 (4 * hs.length)) t)) := by
  simp only [issue, ha, h]
  rfl

theorem issue_of_fetchStop {e : FetchStop} (ha : s.agent = .wave) (h : nextUnit (beginUnit s) = .error e) :
    issue s = .next (fetchKill e (beginUnit s)) := by
  simp only [issue, ha, h]

/-! ### The word (R2, R125, R384) -/

theorem wordOfBytes_eq_leNat (b0 b1 b2 b3 : Byte) :
    wordOfBytes b0 b1 b2 b3 = BitVec.ofNat 32 (leNat [b0, b1, b2, b3]) := by
  simp only [wordOfBytes, leNat]
  congr 1
  omega

/-- Four bytes that decode are the word of a unit without hints. -/
theorem decodeBytes_four {bytes bs : List Byte} {i : Instr} (hlen : bytes.length = 4)
    (h : decodeBytes [] bytes = some (i, bs)) :
    isHint (BitVec.ofNat 32 (leNat bytes)) = false ∧ decodeUnit [] (BitVec.ofNat 32 (leNat bytes)) = i := by
  match bytes, hlen with
  | [b0, b1, b2, b3], _ =>
    rw [decodeBytes, wordOfBytes_eq_leNat] at h
    split at h
    · cases h
    · next hhint => exact ⟨Bool.eq_false_iff.2 hhint, by cases h; rfl⟩

theorem memRead_length (s : State) (k a n : Nat) : (memRead s k a n).length = n := by simp [memRead]

theorem fetchAt_of_uncached {core key pa : Nat} (h : cget none (getCore s core).icache pa = none) :
    fetchAt core key pa s = BitVec.ofNat 32 (leNat (memRead s key pa 4)) := by
  simp only [fetchAt, h]

theorem fetchLine_of_uncached {pa : Nat} (h : cget none (getCore s s.crew.core).icache pa = none) :
    fetchLine pa s = [pa / 128] := by
  simp [fetchLine, h]

/-- The state after the fetch of a word: the lines that it reads come to their slices, and the crew and its core hold the page
and the word. -/
def fetched (va : Nat) (p : Page) (w : W32) (s : State) : State :=
  let t := bring s.crew.ctx (fetchTables va s ++ fetchLine (p.phys va) s) { s with free := s.free + 1 }
  cacheWord t.crew.core (p.phys va) t.crew.ctx va w (holdPage p t)

theorem fetchWord_of_clear {pc : W64} (hva : pc.toNat < 2 ^ 56) (hp : fetchPage pc.toNat s = some p) (hx : p.x = true)
    (hu : unowned s (fetchTables pc.toNat s ++ fetchLine (p.phys pc.toNat) s) = true)
    (hpoison : poisoned s (p.phys pc.toNat) 4 = false) :
    fetchWord pc s = .ok (fetchAt s.crew.core p.key (p.phys pc.toNat) s,
      fetched pc.toNat p (fetchAt s.crew.core p.key (p.phys pc.toNat) s) s) := by
  rw [unowned, List.all_append, Bool.and_eq_true] at hu
  obtain ⟨htables, hline⟩ := hu
  have hin : ¬ 2 ^ 56 ≤ pc.toNat := Nat.not_le.2 hva
  simp only [fetchWord, unowned, hin, htables, hp, hx, hline, hpoison, fetched, Bool.true_eq_false, Bool.false_eq_true, if_false]

/-- A unit whose first word is no hint is that word. -/
theorem nextUnit_of_fetchWord (h : fetchWord (fetchPc s) s = .ok (w, t)) (hhint : isHint w = false) :
    nextUnit s = .ok ([], w, t) := by
  rw [nextUnit, fetchLimit, fetchUnit, h]
  exact if_neg (Bool.eq_false_iff.1 hhint)

/-! ### What a fetch leaves alone -/

theorem charge_free (c i k n : Nat) (s : State) : charge { s with free := n } c i k = { charge s c i k with free := n } := by
  have hctx : getCtx { s with free := n } c = getCtx s c := rfl
  simp only [charge, updCtx, hctx]
  split
  · rfl
  · rfl

theorem present_free (c l n : Nat) (s : State) : present c l { s with free := n } = { present c l s with free := n } := by
  simp only [present, charge_free]
  rfl

/-- The free choices play no part in what a fetch brings to the slices. -/
theorem bring_memsys_free (c n : Nat) (ls : List Nat) (s : State) :
    (bring c ls { s with free := n }).memsys = (bring c ls s).memsys := by
  have hfold : ls.foldl (fun t l => present c l t) { s with free := n } =
      { ls.foldl (fun t l => present c l t) s with free := n } := by
    induction ls generalizing s with
    | nil => rfl
    | cons l ls ih => rw [List.foldl_cons, List.foldl_cons, present_free, ih]
  simp only [bring, hfold]

theorem bring_bytes (c : Nat) (ls : List Nat) (s : State) : (bring c ls s).memsys.bytes = s.memsys.bytes :=
  foldl_keeps (P := fun t => t.memsys.bytes = s.memsys.bytes) (f := fun t l => present c l t)
    (fun t l ht => (present_bytes c l t).trans ht) ls s rfl

theorem fetched_crew (va : Nat) (p : Page) (w : W32) (s : State) :
    (fetched va p w s).crew = { s.crew with fetch := (fetched va p w s).crew.fetch } := rfl

theorem fetched_memsys (va : Nat) (p : Page) (w : W32) (s : State) :
    (fetched va p w s).memsys = (bring s.crew.ctx (fetchTables va s ++ fetchLine (p.phys va) s) s).memsys :=
  bring_memsys_free ..

/-- Where nothing stands in the way of the fetch, the unit is the four bytes of memory at the PC. -/
theorem nextUnit_of_clear {i : Instr} {bs : List Byte} (hva : (fetchPc s).toNat < 2 ^ 56)
    (hp : fetchPage (fetchPc s).toNat s = some p) (hx : p.x = true)
    (hu : unowned s (fetchTables (fetchPc s).toNat s ++ [p.phys (fetchPc s).toNat / 128]) = true)
    (hpoison : poisoned s (p.phys (fetchPc s).toNat) 4 = false)
    (hcache : cget none (getCore s s.crew.core).icache (p.phys (fetchPc s).toNat) = none)
    (hdec : decodeBytes [] (memRead s p.key (p.phys (fetchPc s).toNat) 4) = some (i, bs)) :
    ∃ w, decodeUnit [] w = i ∧ nextUnit s = .ok ([], w, fetched (fetchPc s).toNat p w s) := by
  obtain ⟨hhint, hunit⟩ := decodeBytes_four (memRead_length ..) hdec
  have hfetch := fetchWord_of_clear hva hp hx (by rw [fetchLine_of_uncached hcache]; exact hu) hpoison
  rw [fetchAt_of_uncached hcache] at hfetch
  exact ⟨_, hunit, nextUnit_of_fetchWord hfetch hhint⟩

/-- Settles O4: the step is `issue`, and a fetch that nothing hinders brings the four bytes at the PC. -/
theorem stepRunsTheUnit : Obligations.StepRunsTheUnit := by
  intro s rest hag hpow hboot ha hlate hpick htag b
  have hstep : step s = issue { s with sched := rest } := step_of_picksHere hag hpow hboot ha hlate hpick htag
  have hissue {hs : List Hint} {w : W32} {t : State} (hn : nextUnit b = .ok (hs, w, t)) :=
    hstep.trans (issue_of_nextUnit (s := { s with sched := rest }) ha hn)
  refine ⟨fun hs w t i hn hi => ?_, fun e he => ?_, fun p i bs hva hp hx hu hpoison hcache hdec => ?_⟩
  · rw [← hi]
    exact hissue hn
  · exact hstep.trans (issue_of_fetchStop (s := { s with sched := rest }) ha he)
  · have hpc : fetchPc b = s.part.pc := by simp [fetchPc, b, beginUnit, takeTurn, ha]
    rw [← hpc] at hva hp hu hpoison hcache hdec
    obtain ⟨w, hunit, hnext⟩ := nextUnit_of_clear (s := b) hva hp hx hu hpoison hcache hdec
    have hline := fetchLine_of_uncached (s := b) hcache
    have hrun := hissue hnext
    rw [hunit, List.length_nil, Nat.mul_zero, BitVec.add_zero] at hrun
    refine ⟨fetched (fetchPc b).toNat p w b, w, rfl, rfl, rfl, rfl, ?_, ?_, fetched_crew .., hunit, hrun⟩
    · rw [fetched_memsys]
      exact bring_bytes ..
    · rw [fetched_memsys, hline, hpc]
      rfl

end Sys2Proof.Machine
end

section
/-! PROOFS of O10, the results of integer lanes. Each meaning is a `laneUnit`; only a minimum and a maximum, which the model
takes by a comparison, are written otherwise in the statement. -/

set_option Elab.async false

namespace Sys2Proof.Machine

/-! ### The smaller and the larger of two lanes (R135) -/

theorem w32_toInt (x : W32) : w32 x.toInt = x := BitVec.ofInt_toInt

theorem minS_eq_min (x y : W32) : minS x y = w32 (min x.toInt y.toInt) := by
  by_cases h : y.toInt < x.toInt
  · rw [minS, if_pos h, Int.min_eq_right (Int.le_of_lt h), w32_toInt]
  · rw [minS, if_neg h, Int.min_eq_left (Int.not_lt.1 h), w32_toInt]

theorem maxS_eq_max (x y : W32) : maxS x y = w32 (max x.toInt y.toInt) := by
  by_cases h : x.toInt < y.toInt
  · rw [maxS, if_pos h, Int.max_eq_right (Int.le_of_lt h), w32_toInt]
  · rw [maxS, if_neg h, Int.max_eq_left (Int.not_lt.1 h), w32_toInt]

theorem ofNat_toNat_w32 (x : W32) : BitVec.ofNat 32 x.toNat = x := by rw [BitVec.ofNat_toNat, BitVec.setWidth_eq]

theorem minN_eq_min (x y : W32) : minN x y = BitVec.ofNat 32 (min x.toNat y.toNat) := by
  by_cases h : y.toNat < x.toNat
  · rw [minN, if_pos h, Nat.min_eq_right (Nat.le_of_lt h), ofNat_toNat_w32]
  · rw [minN, if_neg h, Nat.min_eq_left (Nat.not_lt.1 h), ofNat_toNat_w32]

theorem maxN_eq_max (x y : W32) : maxN x y = BitVec.ofNat 32 (max x.toNat y.toNat) := by
  by_cases h : x.toNat < y.toNat
  · rw [maxN, if_pos h, Nat.max_eq_right (Nat.le_of_lt h), ofNat_toNat_w32]
  · rw [maxN, if_neg h, Nat.max_eq_left (Nat.not_lt.1 h), ofNat_toNat_w32]

/-- A VINT unit whose result in a lane has been shown to be `g`. -/
theorem laneUnit_of_vint {i : Instr} {fn mods : Nat} {f : W32 → W32 → W32} {g : State → Nat → W32} {r : Run}
    {d a b : BitVec 7} (h : ∀ s, exec i s = vint fn mods f r d a b s) (hg : ∀ s l, f (rdA a s l) (rdB r b s l) = g s l) :
    LaneUnit i (opVint fn mods r d a b) d g :=
  laneUnit_of_eq fun s => (h s).trans (by simp only [vint, hg])

/-! ### The obligation -/

/-- Settles O10: each meaning is a `laneUnit` with the function stated; a minimum or maximum by its lemma above. -/
theorem vectorIntegerResults : Obligations.VectorIntegerResults := by
  refine ⟨fun r d a b => ?vint, fun r d a b => ?vint2_vini⟩
  case vint =>
    exact ⟨laneUnit_of_eq (exec_vadd r d a b), laneUnit_of_eq (exec_vsub r d a b), laneUnit_of_eq (exec_vmul r d a b),
      laneUnit_of_eq (exec_vmulh r d a b), laneUnit_of_eq (exec_vmulhn r d a b), laneUnit_of_eq (exec_vand r d a b),
      laneUnit_of_eq (exec_vor r d a b), laneUnit_of_eq (exec_vxor r d a b), laneUnit_of_eq (exec_vshl r d a b),
      laneUnit_of_eq (exec_vshr r d a b), laneUnit_of_eq (exec_vsar r d a b),
      laneUnit_of_vint (exec_vmin r d a b) fun _ _ => minS_eq_min ..,
      laneUnit_of_vint (exec_vmax r d a b) fun _ _ => maxS_eq_max ..,
      laneUnit_of_vint (exec_vminn r d a b) fun _ _ => minN_eq_min ..,
      laneUnit_of_vint (exec_vmaxn r d a b) fun _ _ => maxN_eq_max ..,
      laneUnit_of_eq (exec_vsel r d a b)⟩
  case vint2_vini =>
    exact ⟨laneUnit_of_eq (exec_vmad r d a b), laneUnit_of_eq (exec_vabs r d a), laneUnit_of_eq (exec_vneg r d a),
      laneUnit_of_eq (exec_vnot r d a), laneUnit_of_eq (exec_vclz r d a), laneUnit_of_eq (exec_vpopc r d a),
      laneUnit_of_eq (exec_vbfx r d a), laneUnit_of_eq (exec_vbfi r d a), laneUnit_of_eq (exec_vbcst r d a),
      laneUnit_of_eq (exec_vlane r d), laneUnit_of_eq (exec_vmov r d a), laneUnit_of_eq (exec_vadds r d a b),
      laneUnit_of_eq (exec_vsubs r d a b), laneUnit_of_eq (exec_vquad r d a), laneUnit_of_eq (exec_vbrev r d a),
      laneUnit_of_eq (exec_vaddi r d a b), laneUnit_of_eq (exec_vandi r d a b), laneUnit_of_eq (exec_vori r d a b),
      laneUnit_of_eq (exec_vxori r d a b), laneUnit_of_eq (exec_vshli r d a b), laneUnit_of_eq (exec_vshri r d a b),
      laneUnit_of_eq (exec_vsari r d a b), laneUnit_of_eq (exec_vmuli r d a b)⟩

end Sys2Proof.Machine
end

section
/-! PROOFS of O11 and O12, the results of floating lanes and of conversions. Each meaning is an `fpUnit`, or a `laneUnit` where
it has no event; PLANE and UNPLANE have their rule here. -/

set_option Elab.async false

namespace Sys2Proof.Machine

/-! ### The obligation on FP32 lanes -/

/-- Settles O11: each meaning is an `fpUnit`, or for a bit operation or a classification a `laneUnit`, with the function
stated. -/
theorem floatResults : Obligations.FloatResults := by
  refine ⟨fun r d a b => ?vf32, fun r d a b => ?vf32x⟩
  case vf32 =>
    exact ⟨floatUnit_of_eq (exec_fadd r d a b), floatUnit_of_eq (exec_fsub r d a b), floatUnit_of_eq (exec_fmul r d a b),
      floatUnit_of_eq (exec_ffma r d a b), floatUnit_of_eq (exec_ffms r d a b), floatUnit_of_eq (exec_fnma r d a b),
      floatUnit_of_eq (exec_fmin r d a b), floatUnit_of_eq (exec_fmax r d a b), laneUnit_of_eq (exec_fabs r d a),
      laneUnit_of_eq (exec_fneg r d a), laneUnit_of_eq (exec_fcps r d a b), floatUnit_of_eq (exec_frnd r d a),
      floatUnit_of_eq (exec_ffrc r d a), floatUnit_of_eq (exec_fscl r d a b), laneUnit_of_eq (exec_fexn r d a)⟩
  case vf32x =>
    exact ⟨floatUnit_of_eq (exec_frcp r d a), floatUnit_of_eq (exec_frsq r d a), floatUnit_of_eq (exec_fsqrt r d a),
      floatUnit_of_eq (exec_fexp2 r d a), floatUnit_of_eq (exec_flog2 r d a), floatUnit_of_eq (exec_fsin r d a),
      floatUnit_of_eq (exec_fcos r d a), floatUnit_of_eq (exec_ftanh r d a), floatUnit_of_eq (exec_fdiv r d a b),
      laneUnit_of_eq (exec_fcls r d a)⟩

/-! ### PLANE and UNPLANE (R146) -/

/-- Where every group that the part holds a quad of is whole, PLANE and UNPLANE write their lanes. -/
theorem planeUnit_of_wholeGroups {i : Instr} {fn : Nat} {f : State → Nat → Nat → W32} {r : Run} {d a : BitVec 7} {s : State}
    (h : exec i s = planeUnit fn f r d a s) (hr : ready (opPlane fn r d a s) s = true) (hg : wholeGroups s = true) :
    ∃ t, exec i s = .next t ∧ VectorResult r 6 d.toNat (activeLanes s) (f s ((widthHint r).getD 8)) s t :=
  ⟨_, h.trans ((unit_of_ready hr _).trans (congrArg _ (if_pos hg))), wrV_done _ _ _ _ _ _ fun _ => activeLanes_lt⟩

/-! ### The obligation on halves and conversions -/

/-- Settles O12: each meaning is an `fpUnit`, or for an integer conversion a `laneUnit`, with the function stated; PLANE and
UNPLANE by `planeUnit_of_wholeGroups`. -/
theorem halfAndConversionResults : Obligations.HalfAndConversionResults := by
  refine ⟨fun r d a b => ?vf16, fun r d a b => ?vcvt⟩
  case vf16 =>
    exact ⟨floatUnit_of_eq (exec_hadd r d a b), floatUnit_of_eq (exec_hmul r d a b), floatUnit_of_eq (exec_hfma r d a b),
      floatUnit_of_eq (exec_badd r d a b), floatUnit_of_eq (exec_bmul r d a b), floatUnit_of_eq (exec_bfma r d a b),
      floatUnit_of_eq (exec_hdot r d a b), floatUnit_of_eq (exec_bdot r d a b)⟩
  case vcvt =>
    exact ⟨floatUnit_of_eq (exec_cvtF32S32 r d a), floatUnit_of_eq (exec_cvtF32N32 r d a),
      floatUnit_of_eq (exec_cvtS32F32 r d a), floatUnit_of_eq (exec_cvtN32F32 r d a),
      floatUnit_of_eq (exec_cvtF16x2 r d a b), floatUnit_of_eq (exec_cvtBf16x2 r d a b),
      floatUnit_of_eq (exec_cvtF32F16 r d a b), floatUnit_of_eq (exec_cvtF32Bf16 r d a b),
      floatUnit_of_eq (exec_cvtF8e4 r d a b), floatUnit_of_eq (exec_cvtF8e5 r d a b),
      floatUnit_of_eq (exec_cvtF32F8 r d a b), laneUnit_of_eq (exec_cvtS8 r d a b), laneUnit_of_eq (exec_cvtS32S8 r d a b),
      fun s => planeUnit_of_wholeGroups (exec_plane r d a s), fun s => planeUnit_of_wholeGroups (exec_unplane r d a s)⟩

end Sys2Proof.Machine
end

section
/-! PROOFS of O13, the results of cross-lane instructions. Each meaning is a `vxl`, but for VWRITEL, which writes one lane of
each live group; that this is a lane of the wave rests on the limit on its index, a check that a ready unit has passed. -/

set_option Elab.async false

namespace Sys2Proof.Machine

variable {o : Op} {s : State} {r : Run} {d a : BitVec 7} {w : BitVec 3} {k : BitVec 4}

/-! ### Checks that a ready unit has passed (R72) -/

theorem rejectOp_of_ready (h : ready o s = true) : rejectOp o s = none := by
  simp only [ready, Bool.and_eq_true, Option.isNone_iff_eq_none] at h
  exact h.1.1.1.2

/-- A unit that no check refuses has passed the limits of its fields and the checks of its hints and their values. -/
theorem checks_of_rejectOp (h : rejectOp o s = none) : o.lims = true ∧ badKind o = none ∧ badValue o s = none := by
  unfold rejectOp at h
  split at h
  · cases h
  · grind

/-- Where an IMM24 hint stands, its value has been accepted. -/
theorem immOk_of_rejectOp (h : rejectOp o s = none) (hi : immCount o.run ≠ 0) : o.immOk = true := by
  obtain ⟨x, hx⟩ := List.exists_mem_of_ne_nil _ (fun hn => hi (List.length_eq_zero_iff.2 hn))
  obtain ⟨hmem, hkind⟩ := List.mem_filter.1 hx
  obtain ⟨-, -, hvalues⟩ := checks_of_rejectOp h
  have hv := List.find?_eq_none.1 hvalues x hmem
  simpa [beq_iff_eq.1 hkind] using hv

/-! ### The lanes that VWRITEL writes (R148) -/

theorem idxOf_lt_of_ready {fn : Nat} (h : ready (opIdx fn r d a w k s) s = true) : idxOf r k < wOf w := by
  have hr := rejectOp_of_ready h
  by_cases hi : immCount r = 0
  · have hnone : payload r 0 = none := by simp [payload, List.length_eq_zero_iff.1 hi]
    obtain ⟨hlims, -, -⟩ := checks_of_rejectOp hr
    simp only [opIdx, opVxl, hi, if_true, Bool.and_eq_true, decide_eq_true_eq] at hlims
    simpa [idxOf, hnone] using hlims.1.1
  · have himm : (payload r 0).getD 0 < wOf w := of_decide_eq_true (immOk_of_rejectOp hr hi)
    have hsome : (payload r 0).isSome := by
      simpa [payload, immCount, List.length_eq_zero_iff] using hi
    obtain ⟨p, hp⟩ := Option.isSome_iff_exists.1 hsome
    simpa [idxOf, hp] using himm

/-- A live group ends within the 64 lanes. -/
theorem liveGroups_le {g : Nat × Nat} {n : Nat} (h : g ∈ liveGroups n s) : g.1 + n ≤ 64 := by
  obtain ⟨i, hi, hg⟩ := List.mem_filterMap.1 h
  obtain ⟨l, -, rfl⟩ := Option.map_eq_some_iff.1 hg
  calc i * n + n = (i + 1) * n := (Nat.succ_mul i n).symm
    _ ≤ 64 / n * n := Nat.mul_le_mul_right n (List.mem_range.1 hi)
    _ ≤ 64 := Nat.div_mul_le_self 64 n

/-- VWRITEL, where its groups are all the part's own or exited, writes lane g + i of each live group (R148, R45). -/
theorem exec_vwritel_of_covered (hr : ready (opIdx 13 r d a w k s) s = true)
    (hc : covered s (wOf w) s.part.quads s.part.quads = true) :
    ∃ t, exec (.vwritel r d a w k) s = .next t ∧
      VectorResult r 8 d.toNat ((liveGroups (wOf w) s).map (fun g => g.1 + idxOf r k)) (writelOf a w s) s t := by
  refine ⟨_, (exec_vwritel ..).trans ((unit_of_ready hr _).trans (congrArg _ (waveWide_of_covered hc))),
    wrV_done _ _ _ _ _ _ fun x hx => ?_⟩
  obtain ⟨g, hg, rfl⟩ := List.mem_map.1 hx
  have hend := liveGroups_le hg
  have hidx := idxOf_lt_of_ready hr
  omega

/-! ### The obligation -/

/-- Settles O13: each meaning is a `vxl` with the function stated; VWRITEL by `exec_vwritel_of_covered`. -/
theorem crossLaneResults : Obligations.CrossLaneResults := fun r d a w k e =>
  ⟨crossUnit_of_eq (exec_vshfl r d a w), crossUnit_of_eq (exec_vshfx r d a w k), crossUnit_of_eq (exec_vshup r d a w k),
    crossUnit_of_eq (exec_vshdn r d a w k), crossUnit_of_eq (exec_vredAddS32 r d a w),
    crossUnit_of_eq (exec_vredAddF32 r d a w), crossUnit_of_eq (exec_vredMin r d a w k),
    crossUnit_of_eq (exec_vredMax r d a w k), crossUnit_of_eq (exec_vscanAddS32 r d a w e),
    crossUnit_of_eq (exec_vscanAddF32 r d a w e), crossUnit_of_eq (exec_vvote r d a w k),
    crossUnit_of_eq (exec_vfirst r d a w), crossUnit_of_eq (exec_vreadl r d a w k), crossUnit_of_eq (exec_vmatch r d a w k),
    fun _ => exec_vwritel_of_covered⟩

end Sys2Proof.Machine
end

section
/-! PROOFS of O14 and O15, compares and mask registers. A compare and a mask operation write the bits of the active lanes; a
register field out of its range fails step 3 of the checks. -/

set_option Elab.async false

namespace Sys2Proof.Machine

variable {i : Instr} {o : Op} {u : Use} {s : State} {r : Run} {d a b n : BitVec 7}

/-! ### Compares (R152) -/

theorem bne_eq_decide_ne (x y : W32) : (x != y) = decide (x ≠ y) := by
  rw [Bool.eq_iff_iff]
  simp

/-- A compare of bit patterns whose bit in a lane has been shown to be `f`. -/
theorem maskUnit_of_cmp {fn : Nat} {p : W32 → W32 → Bool} {f : State → Nat → Bool} (h : ∀ s, exec i s = cmp fn p r d a b s)
    (hf : ∀ s l, p (rdA a s l) (rdB r b s l) = f s l) :
    MaskUnit i (opCmp fn r d a b) d (fun _ => True) activeLanes f :=
  maskUnit_of_eq fun s _ => (h s).trans (by simp only [cmp, hf]; rfl)

/-- The invalid event of a float compare in a lane: a signalling NaN operand (R152, R134). -/
def cmpEvent (r : Run) (a b : BitVec 7) (s : State) (l : Nat) : Res :=
  { bits := 0, inv := fp32.isSnan (fA a s l) || fp32.isSnan (fB r b s l) }

/-- A float compare whose bit in a lane has been shown to be `f`, where no event traps. -/
theorem maskUnit_of_fcmp {fn : Nat} {p : Nat → Nat → Bool} {f : State → Nat → Bool}
    (h : ∀ s, exec i s = fcmp fn p r d a b s) (hf : ∀ s l, p (fA a s l) (fB r b s l) = f s l) :
    MaskUnit i (opCmp fn r d a b) d (noEvent (cmpEvent r a b)) activeLanes f := by
  obtain rfl : (fun s l => p (fA a s l) (fB r b s l)) = f := funext fun s => funext (hf s)
  intro s hs hq
  refine ⟨_, (h s).trans ((unit_of_ready hs _).trans (congrArg _ (if_neg ?_))), wrM_done ..⟩
  rintro ⟨hen, hst, hev⟩
  rcases hq with hoff | htrapped | hnone
  · exact Bool.noConfusion (hoff.symm.trans hen)
  · exact hst htrapped
  · exact hev (List.filter_eq_nil_iff.2 fun l hl => by simpa [cmpEvent] using hnone l hl)

/-! ### The obligation on compares -/

/-- Settles O14: a compare of bit patterns by `maskUnit_of_cmp`, a float compare by `maskUnit_of_fcmp`. -/
theorem compareResults : Obligations.CompareResults := by
  intro r d a b int flt
  exact ⟨maskUnit_of_cmp (exec_cmpeq r d a b) fun _ _ => rfl,
    maskUnit_of_cmp (exec_cmpne r d a b) fun _ _ => bne_eq_decide_ne ..,
    maskUnit_of_cmp (exec_cmplt r d a b) fun _ _ => rfl, maskUnit_of_cmp (exec_cmple r d a b) fun _ _ => rfl,
    maskUnit_of_cmp (exec_cmpltn r d a b) fun _ _ => rfl, maskUnit_of_cmp (exec_cmplen r d a b) fun _ _ => rfl,
    maskUnit_of_fcmp (exec_fcmpeq r d a b) fun _ _ => rfl, maskUnit_of_fcmp (exec_fcmplt r d a b) fun _ _ => rfl,
    maskUnit_of_fcmp (exec_fcmple r d a b) fun _ _ => rfl, maskUnit_of_fcmp (exec_fcmpun r d a b) fun _ _ => rfl⟩

/-! ### Register fields out of their range (R57, R72) -/

theorem useOk_srcM_of_le (h : 8 ≤ n.toNat) : useOk s (srcM n) = false := decide_eq_false (Nat.not_lt.2 h)

theorem useOk_dstM_of_le (h : 8 ≤ n.toNat) : useOk s (dstM n) = false := decide_eq_false (Nat.not_lt.2 h)

theorem useOk_dstS_of_le (h : 64 ≤ n.toNat) : useOk s (dstS n) = false := decide_eq_false (Nat.not_lt.2 h)

theorem rejectOp_of_badUse (hu : u ∈ o.uses) (hb : useOk s u = false) :
    rejectOp o s = some { cause := 0x01, step := 3, word := o.word } := by
  have hall : o.uses.all (useOk s) = false := List.all_eq_false.2 ⟨u, hu, by simp [hb]⟩
  simp [rejectOp, hall]

/-- A unit without hints, with a register field out of its range, enters the handler with cause 0x01 (R72, R161). -/
theorem entered_of_badUse {f : State → State} (hx : exec i s = unit o f s) (hr : o.run.hints = []) (hc : clear o.run s = true)
    (hh : handles s) (hu : u ∈ o.uses) (hb : useOk s u = false) :
    ∃ t, exec i s = .next t ∧
      Entered { cause := 0x01, lanes := s.part.exm, info := BitVec.ofNat 64 (o.word.toNat + 3 * 2 ^ 32), addr := 0#64 } 1 s t := by
  have hwords : unitWords o.run = 1 := by simp [unitWords, hr]
  exact ⟨_, hx.trans (unit_of_reject hc (rejectOp_of_badUse hu hb) f), hwords ▸ trap_entered hh⟩

/-! ### Mask operations (R153) -/

/-- A mask operation with a mask field of 8 or more enters the handler with cause 0x01 (R153, R161). -/
theorem entered_of_badMask {fn : Nat} {p : Bool → Bool → Bool} (hx : ∀ s, exec i s = mkop fn p r d a b s)
    (hle : 8 ≤ d.toNat ∨ 8 ≤ a.toNat ∨ 8 ≤ b.toNat) (hr : r.hints = []) (s : State) (hc : clear r s = true) (hh : handles s) :
    ∃ t, exec i s = .next t ∧ Entered
      { cause := 0x01, lanes := s.part.exm, info := BitVec.ofNat 64 ((wRRR 15 r d a b fn).toNat + 3 * 2 ^ 32), addr := 0#64 }
      1 s t := by
  have bad {u : Use} (hu : u ∈ [srcM a, srcM b, dstM d]) (hb : useOk s u = false) := entered_of_badUse (hx s) hr hc hh hu hb
  rcases hle with hd | ha | hb
  · exact bad (by simp) (useOk_dstM_of_le hd)
  · exact bad (by simp) (useOk_srcM_of_le ha)
  · exact bad (by simp) (useOk_srcM_of_le hb)

/-! ### The obligation on mask operations -/

/-- Settles O15: the results by the forms of the meanings, the illegal fields by `entered_of_badUse`. -/
theorem maskMoves : Obligations.MaskMoves := by
  intro r d a b illegal msk pop mov
  refine ⟨⟨maskUnit_of_eq fun s _ => exec_mkand r d a b s, entered_of_badMask (exec_mkand r d a b)⟩,
    ⟨maskUnit_of_eq fun s _ => exec_mkor r d a b s, entered_of_badMask (exec_mkor r d a b)⟩,
    ⟨maskUnit_of_eq fun s _ => exec_mkxor r d a b s, entered_of_badMask (exec_mkxor r d a b)⟩,
    ⟨maskUnit_of_eq fun s _ => exec_mkandn r d a b s, entered_of_badMask (exec_mkandn r d a b)⟩,
    scalarUnit_of_eq (exec_mkpop r d a), fun hle hr s hc hh => ?mkpop, maskUnit_of_eq fun s _ => exec_mkmov r d a s,
    fun hle hr s hc hh => ?mkmov⟩
  case mkpop =>
    rcases hle with hd | ha
    · exact entered_of_badUse (exec_mkpop r d a s) hr hc hh (List.mem_cons_of_mem _ List.mem_cons_self) (useOk_dstS_of_le hd)
    · exact entered_of_badUse (exec_mkpop r d a s) hr hc hh List.mem_cons_self (useOk_srcM_of_le ha)
  case mkmov =>
    rcases hle with hd | ha
    · exact entered_of_badUse (exec_mkmov r d a s) hr hc hh (List.mem_cons_of_mem _ List.mem_cons_self) (useOk_dstM_of_le hd)
    · exact entered_of_badUse (exec_mkmov r d a s) hr hc hh List.mem_cons_self (useOk_srcM_of_le ha)

end Sys2Proof.Machine
end

section
/-! PROOFS of O28, how a misplaced or refused access ends. Every unit of the statement runs one of three checks, `checked`,
`spadChecked` or `spillChecked`, and each is shown once to end as `CheckEnds` says. What follows the checks of an access to
memory is reached through `RunsChecked`, and is a `loadFault` or a pending store where its lanes are not granted. -/

set_option Elab.async false

namespace Sys2Proof.Machine

variable {i : Instr} {o : Op} {m : Form} {r : Run} {d a b : BitVec 7} {s u : State} {addrs : List (Nat × W64)}
  {scalar go : Bool} {n : Nat} {outside : Option W64}

/-! ### What the checks of an access end in (R193, R173, R200) -/

/-- The lanes whose address is no multiple of the size. -/
def unaligned (n : Nat) (addrs : List (Nat × W64)) : List (Nat × W64) := addrs.filter (fun x => x.2.toNat % n != 0)

/-- The trap of a misaligned access (R193, R161). -/
def alignTrap (scalar : Bool) (n : Nat) (addrs : List (Nat × W64)) (x : W64) : Trap :=
  { cause := 0x03, lanes := if scalar then 0#64 else maskOf (fun l => (unaligned n addrs).any (fun x => x.1 == l)),
    info := BitVec.ofNat 64 n, addr := x }

/-- The address of the lowest lane whose bytes do not end within the reservation (R200). -/
def beyond (n : Nat) (offs : List (Nat × W64)) (s : State) : Option W64 :=
  (offs.find? (fun x => decide (s.crew.scr < x.2.toNat + n))).map (·.2)

/-- `u` is how the checks of an access at `addrs` end in `s`, where they fail: `outside` is the address that they refuse when
all are aligned. -/
structure CheckEnds (r : Run) (scalar : Bool) (n : Nat) (addrs : List (Nat × W64)) (outside : Option W64) (s u : State) :
    Prop where
  of_unaligned : handles s → ∀ l x rest, unaligned n addrs = (l, x) :: rest →
    Entered (alignTrap scalar n addrs x) (unitWords r) s u
  of_outside : unaligned n addrs = [] → ∀ x, outside = some x → u = aperture x s

theorem checked_of_unaligned {l : Nat} {x : W64} {rest : List (Nat × W64)} (ha : atomPending s = false)
    (hb : unaligned m.size addrs = (l, x) :: rest) (f : List LaneAcc → State → State) :
    checked m r addrs f s = trap (alignTrap m.scalar m.size addrs x) r s := by
  unfold unaligned at hb
  cases hm : m.scalar <;> simp [checked, ha, hb, hm, misaligned, alignTrap, unaligned]

theorem checked_of_noWindow {x : W64} (ha : atomPending s = false) (hb : unaligned m.size addrs = [])
    (hx : ((accsOf m addrs s).find? (fun c => c.tgt == .bad)).map (·.addr) = some x) (f : List LaneAcc → State → State) :
    checked m r addrs f s = aperture x s := by
  unfold unaligned at hb
  obtain ⟨c, hc, rfl⟩ := Option.map_eq_some_iff.1 hx
  simp [checked, ha, hb, hc]

theorem checked_ends (ha : atomPending s = false) (f : List LaneAcc → State → State) :
    CheckEnds r m.scalar m.size addrs (((accsOf m addrs s).find? (fun c => c.tgt == .bad)).map (·.addr)) s
      (checked m r addrs f s) where
  of_unaligned hh _ _ _ hb := checked_of_unaligned ha hb f ▸ trap_entered hh
  of_outside hb _ hx := checked_of_noWindow ha hb hx f

theorem spadChecked_of_unaligned {l : Nat} {x : W64} {rest : List (Nat × W64)} (hp : scratchPending s = false)
    (hb : unaligned n addrs = (l, x) :: rest) (f : State → State) :
    spadChecked n scalar r addrs f s = trap (alignTrap scalar n addrs x) r s := by
  unfold unaligned at hb
  simp [spadChecked, hp, hb, alignTrap, unaligned]

theorem spadChecked_of_beyond {x : W64} (hp : scratchPending s = false) (hb : unaligned n addrs = [])
    (hx : beyond n addrs s = some x) (f : State → State) : spadChecked n scalar r addrs f s = aperture x s := by
  unfold unaligned at hb
  obtain ⟨y, hy, rfl⟩ := Option.map_eq_some_iff.1 hx
  simp [spadChecked, hp, hb, hy]

theorem spadChecked_ends (hp : scratchPending s = false) (f : State → State) :
    CheckEnds r scalar n addrs (beyond n addrs s) s (spadChecked n scalar r addrs f s) where
  of_unaligned hh _ _ _ hb := spadChecked_of_unaligned hp hb f ▸ trap_entered hh
  of_outside hb _ hx := spadChecked_of_beyond hp hb hx f

/-- The low four bits of an address are its remainder by 16. -/
theorem and_fifteen_eq_zero_iff (x : W64) : x &&& 15#64 = 0#64 ↔ x.toNat % 16 = 0 := by
  have hmod : (x &&& 15#64).toNat = x.toNat % 16 := Nat.and_two_pow_sub_one_eq_mod x.toNat 4
  exact BitVec.toNat_inj.symm.trans (Iff.of_eq (congrArg (· = 0) hmod))

theorem unaligned_singleton (n l : Nat) (x : W64) :
    unaligned n [(l, x)] = if x.toNat % n = 0 then [] else [(l, x)] := by
  by_cases h : x.toNat % n = 0 <;> simp [unaligned, h]

theorem spillChecked_ends {k : Nat} {base : W64} (hp : scratchPending s = false) (f : State → State) :
    CheckEnds r true 16 [(0, base)] (if s.crew.scr < base.toNat + 4 * k * widthOf s.wave.code then some base else none) s
      (spillChecked k r base f s) := by
  by_cases hb : base.toNat % 16 = 0
  · refine ⟨fun _ l x rest h => ?_, fun _ x hx => ?_⟩
    · simp [unaligned_singleton, hb] at h
    · obtain ⟨hout, rfl⟩ := Option.ite_some_none_eq_some.1 hx
      simp [spillChecked, hp, (and_fifteen_eq_zero_iff _).2 hb, hout]
  · refine ⟨fun hh l x rest h => ?_, fun h => ?_⟩
    · rw [unaligned_singleton, if_neg hb] at h
      cases h
      have htrap : spillChecked k r base f s = trap (alignTrap true 16 [(0, base)] base) r s := by
        simp [spillChecked, hp, mt (and_fifteen_eq_zero_iff _).1 hb, misaligned, alignTrap]
      exact htrap ▸ trap_entered hh
    · simp [unaligned_singleton, hb] at h

/-! ### Units that run such checks -/

/-- Instruction `i`, where `go` holds, ends as its checks do. -/
def AccessStops (i : Instr) (r : Run) (go scalar : Bool) (n : Nat) (addrs : List (Nat × W64)) (outside : Option W64)
    (s : State) : Prop :=
  go = true →
    (handles s → ∀ l x rest, unaligned n addrs = (l, x) :: rest → ∃ t, exec i s = .next t ∧
      Entered (alignTrap scalar n addrs x) (unitWords r) s t) ∧
    (unaligned n addrs = [] → ∀ x, outside = some x → exec i s = .next (aperture x s))

theorem accessStops_of_ends (hx : go = true → exec i s = .next u) (hu : CheckEnds r scalar n addrs outside s u) :
    AccessStops i r go scalar n addrs outside s := fun hgo =>
  ⟨fun hh l x rest hb => ⟨u, hx hgo, hu.of_unaligned hh l x rest hb⟩, fun hb x ho => hu.of_outside hb x ho ▸ hx hgo⟩

/-- Instruction `i` runs the checks of an access with operands `o`, and `after` behind them, where it is ready, has a lane and
does not wait for an acquire. -/
def RunsChecked (i : Instr) (o : Op) (m : Form) (r : Run) (addrs : List (Nat × W64)) (after : List LaneAcc → State → State)
    (s : State) : Prop :=
  ready o s = true → (m.scalar = true ∨ s.part.exm ≠ 0#64) → (m.rd = true → acquiring s = false) →
    exec i s = .next (checked m r addrs after s)

/-- The clause on the windows and the alignment of an access to memory. -/
def WindowStops (i : Instr) (o : Op) (m : Form) (r : Run) (addrs : List (Nat × W64)) (s : State) : Prop :=
  AccessStops i r (ready o s && (m.scalar || s.part.exm != 0#64) && !(m.rd && acquiring s)) m.scalar m.size addrs
    (((accsOf m addrs s).find? (fun c => c.tgt == .bad)).map (·.addr)) s

section
variable {after : List LaneAcc → State → State}

theorem RunsChecked.windowStops (h : RunsChecked i o m r addrs after s) (ha : atomPending s = false) :
    WindowStops i o m r addrs s := by
  refine accessStops_of_ends (fun hgo => ?_) (checked_ends ha after)
  simp only [Bool.and_eq_true, Bool.or_eq_true, bne_iff_ne, Bool.not_eq_true', Bool.and_eq_false_imp] at hgo
  obtain ⟨⟨hready, hlanes⟩, hacq⟩ := hgo
  exact h hready hlanes hacq

theorem RunsChecked.exec_of_clear (h : RunsChecked i o m r addrs after s) (hr : ready o s = true)
    (hl : m.scalar = true ∨ s.part.exm ≠ 0#64) (hq : m.rd = true → acquiring s = false)
    (hc : accessClear m addrs s = true) : exec i s = .next (after (accsOf m addrs s) s) :=
  (h hr hl hq).trans (congrArg _ (checked_of_clear hc after))

/-! ### Loads and atomics whose lanes are not granted (R199) -/

/-- The clauses on a load or an atomic. -/
def LoadStops (i : Instr) (o : Op) (akind : Nat) (m : Form) (r : Run) (addrs : List (Nat × W64)) (s : State) : Prop :=
  WindowStops i o m r addrs s ∧ (ready o s = true → (m.scalar = true ∨ s.part.exm ≠ 0#64) → acquiring s = false →
    accessClear m addrs s = true → ∀ x l, failing m (accsOf m addrs s) s = x :: l →
      exec i s = .next (loadFault akind (x :: l) s))

theorem RunsChecked.loadStops {akind : Nat} (h : RunsChecked i o m r addrs after s) (ha : atomPending s = false)
    (hf : ∀ accs x l, failing m accs s = x :: l → after accs s = loadFault akind (x :: l) s) :
    LoadStops i o akind m r addrs s :=
  ⟨h.windowStops ha, fun hr hl hq hc x l hx =>
    (h.exec_of_clear hr hl (fun _ => hq) hc).trans (congrArg _ (hf _ x l hx))⟩

/-! ### Stores whose lanes are not granted (R162) -/

/-- A store whose lanes are not granted has changed nothing, and is pending with the fault of its lowest such lane (R162). -/
def StoreRefused (r : Run) (x : LaneAcc × Reason) (s t : State) : Prop :=
  MemoryQuiet r s t ∧ t.net = s.net ∧ t.cores = s.cores ∧ t.crew.scratch = s.crew.scratch ∧
    ∃ p : PStore, t.crew.stores = s.crew.stores ++ [p] ∧ p.fault = some x.2 ∧ p.addr = BitVec.ofNat 64 x.1.va

/-- The clauses on a store. -/
def StoreStops (i : Instr) (o : Op) (m : Form) (r : Run) (addrs : List (Nat × W64)) (s : State) : Prop :=
  WindowStops i o m r addrs s ∧ (ready o s = true → (m.scalar = true ∨ s.part.exm ≠ 0#64) → modField r 19 19 = 0 →
    accessClear m addrs s = true → storeClear m addrs s = true → ∀ x l, failing m (accsOf m addrs s) s = x :: l →
      ∃ t, exec i s = .next t ∧ StoreRefused r x s t)

theorem faultingStore_done_refused (x : LaneAcc × Reason) (l : List (LaneAcc × Reason)) (dreg lsz : Nat) :
    StoreRefused r x s (done r (faultingStore (x :: l) dreg lsz scalar s)) :=
  ⟨⟨⟨rfl, rfl, rfl, rfl⟩, rfl, rfl, rfl, rfl, rfl, rfl, rfl, rfl, fun _ => rfl⟩, rfl, rfl, rfl, _, rfl, rfl, rfl⟩

/-- A store that meets no barrier word and whose lanes are not granted is only noted (R162). -/
theorem issueStore_of_failing {cache dreg lsz : Nat} {rel : Bool} {data : Nat → List Byte} {x : LaneAcc × Reason}
    {l : List (LaneAcc × Reason)} (hs : storeClear m addrs s = true) (hx : failing m (accsOf m addrs s) s = x :: l) :
    issueStore r cache dreg lsz rel data (accsOf m addrs s) m s = done r (faultingStore (x :: l) dreg lsz m.scalar s) := by
  rw [storeClear, Bool.not_eq_true'] at hs
  simp only [issueStore, hs, hx, Bool.false_eq_true, if_false]

theorem RunsChecked.storeStops {cache dreg lsz : Nat} {rel : Bool} {data : Nat → List Byte}
    (h : RunsChecked i o m r addrs after s) (ha : atomPending s = false) (hm : m.rd = false)
    (hf : modField r 19 19 = 0 → ∀ accs, after accs s = issueStore r cache dreg lsz rel data accs m s) :
    StoreStops i o m r addrs s := by
  refine ⟨h.windowStops ha, fun hr hl hrel hc hs x l hx => ?_⟩
  have hexec := h.exec_of_clear hr hl (by simp [hm]) hc
  rw [hf hrel, issueStore_of_failing hs hx] at hexec
  exact ⟨_, hexec, faultingStore_done_refused x l dreg lsz⟩

end

/-! ### Accesses to memory by their meanings (R111, R194, R204) -/

section
variable {fn scale mods : Nat} {sext ldn cas : Bool}

/-- A vector unit that does nothing without lanes and waits for acquires runs its checks otherwise (R194, R197). -/
theorem runsChecked_of_vector {lanes : State → List (Nat × W64)} {after : List LaneAcc → State → State}
    (hx : exec i s = unit o (fun t =>
      if t.part.exm = 0#64 then done r t else if acquiring t then hold t else checked m r (lanes t) after t) s)
    (hs : m.scalar = false) (hm : m.rd = true) : RunsChecked i o m r (lanes s) after s := fun hr hl hq => by
  have hexm : s.part.exm ≠ 0#64 := hl.resolve_left (by simp [hs])
  rw [hx, unit_of_ready hr, if_neg hexm, if_neg (by simp [hq hm])]

theorem vmemLoad_stops (hx : exec i s = vmemLoad fn n sext ldn r d a b s) (ha : atomPending s = false) :
    LoadStops i (opVld fn n ldn r d a b) 0 { size := n, scalar := false, rd := true, wr := false } r
      (laneAddrs r a b (Nat.log2 n) s) s :=
  (runsChecked_of_vector hx rfl rfl).loadStops ha fun _ _ _ hbad => by simp only [hbad]

theorem atom_stops (hx : exec i s = atom fn mods cas r d a b s) (ha : atomPending s = false) :
    LoadStops i (opAtom fn mods cas r d a b) 2 { size := atomSize fn r, scalar := false, rd := true, wr := true } r
      (laneAddrs r a b (Nat.log2 (atomSize fn r)) s) s :=
  (runsChecked_of_vector hx rfl rfl).loadStops ha fun _ _ _ hbad => by simp only [hbad]

/-- A unit that waits for acquires before its effect `f`, where none is under way. -/
theorem exec_of_ready_acquired {f : State → State} (hx : exec i s = unit o (fun t => if acquiring t then hold t else f t) s)
    (hr : ready o s = true) (hq : acquiring s = false) : exec i s = .next (f s) := by
  rw [hx, unit_of_ready hr, if_neg (by simp [hq])]

/-- A scalar unit that waits for acquires runs its checks otherwise (R111, R197). -/
theorem runsChecked_of_scalar {lanes : State → List (Nat × W64)} {after : List LaneAcc → State → State}
    (hx : exec i s = unit o (fun t => if acquiring t then hold t else checked m r (lanes t) after t) s) (hm : m.rd = true) :
    RunsChecked i o m r (lanes s) after s :=
  fun hr _ hq => exec_of_ready_acquired (f := fun t => checked m r (lanes t) after t) hx hr (hq hm)

theorem smemLoad_stops (hx : exec i s = smemLoad fn n scale r d a b s) (ha : atomPending s = false) :
    LoadStops i (opSmem fn false r d a b) 0 { size := n, scalar := true, rd := true, wr := false } r
      [(scalarLane s, addrS r a b scale s)] s :=
  (runsChecked_of_scalar hx rfl).loadStops ha fun _ _ _ hbad => by simp only [hbad]

theorem smemStore_stops (hx : exec i s = smemStore fn n scale r d a b s) (ha : atomPending s = false) :
    StoreStops i (opSmem fn true r d a b) { size := n, scalar := true, rd := false, wr := true } r
      [(scalarLane s, addrS r a b scale s)] s :=
  RunsChecked.storeStops (fun hr _ _ => hx.trans (unit_of_ready hr _)) ha rfl
    fun hrel _ => if_neg (by simp [hrel])

theorem vmemStore_stops (hx : exec i s = vmemStore fn n r d a b s) (ha : atomPending s = false) :
    StoreStops i (opVst fn n r d a b) { size := n, scalar := false, rd := false, wr := true } r
      (laneAddrs r a b (Nat.log2 n) s) s :=
  RunsChecked.storeStops
    (fun hr hl _ => hx.trans ((unit_of_ready hr _).trans (congrArg _ (if_neg (hl.resolve_left Bool.false_ne_true)))))
    ha rfl fun hrel _ => if_neg (by simp [hrel])

/-! ### Accesses to the scratchpad by their meanings (R200, R202, R203) -/

theorem spadLoad_stops (hx : exec i s = spadLoad fn n r d a b s) (hp : scratchPending s = false) :
    AccessStops i r (ready (opSpad fn r d a b ([srcS a, dstVs d (grp n) (grp n)] ++ idxUse b)) s && s.part.exm != 0#64 &&
      !acquiring s) false n (laneAddrs r a b (Nat.log2 n) s) (beyond n (laneAddrs r a b (Nat.log2 n) s) s) s := by
  intro hgo
  simp only [Bool.and_eq_true, bne_iff_ne, Bool.not_eq_true'] at hgo
  obtain ⟨⟨hready, hexm⟩, hacq⟩ := hgo
  exact accessStops_of_ends (go := true)
    (fun _ => hx.trans ((unit_of_ready hready _).trans (congrArg _ ((if_neg hexm).trans (if_neg (by simp [hacq]))))))
    (spadChecked_ends hp _) rfl

theorem spadStore_stops (hx : exec i s = spadStore fn n r d a b s) (hp : scratchPending s = false) :
    AccessStops i r (ready (opSpad fn r d a b ([srcS a, srcVs d (grp n) (grp n)] ++ idxUse b)) s) false n
      (laneAddrs r a b (Nat.log2 n) s) (beyond n (laneAddrs r a b (Nat.log2 n) s) s) s :=
  accessStops_of_ends (fun hr => hx.trans (unit_of_ready hr _)) (spadChecked_ends hp _)

/-- A scratchpad unit that waits for acquires. -/
theorem accessStops_of_acquired {f : State → State}
    (hx : exec i s = unit o (fun t => if acquiring t then hold t else f t) s)
    (hu : CheckEnds r scalar n addrs outside s (f s)) :
    AccessStops i r (ready o s && !acquiring s) scalar n addrs outside s := by
  refine accessStops_of_ends (fun hgo => ?_) hu
  rw [Bool.and_eq_true, Bool.not_eq_true'] at hgo
  obtain ⟨hready, hacq⟩ := hgo
  exact exec_of_ready_acquired hx hready hacq

end

/-! ### The obligation -/

/-- Settles O28: each unit runs its checks, which end as `checked_ends`, `spadChecked_ends` or `spillChecked_ends` says; lanes
that are not granted end a load in `RunsChecked.loadStops` and a store in `RunsChecked.storeStops`. -/
theorem accessFaults : Obligations.AccessFaults := by
  intro r d a b s ha hp
  refine ⟨?vectorLoads, ?vectorStores, ?scalars, ?scratchpad, ⟨?vspill, ?vfill⟩, ?atomics, ?ldsp, ?stsp⟩
  case vectorLoads =>
    exact ⟨vmemLoad_stops (exec_ldB ..) ha, vmemLoad_stops (exec_ldBs ..) ha, vmemLoad_stops (exec_ldH ..) ha,
      vmemLoad_stops (exec_ldHs ..) ha, vmemLoad_stops (exec_ldW ..) ha, vmemLoad_stops (exec_ldD ..) ha,
      vmemLoad_stops (exec_ldQ ..) ha, vmemLoad_stops (exec_ldnW ..) ha, vmemLoad_stops (exec_ldnD ..) ha⟩
  case vectorStores =>
    exact ⟨vmemStore_stops (exec_stB ..) ha, vmemStore_stops (exec_stH ..) ha, vmemStore_stops (exec_stW ..) ha,
      vmemStore_stops (exec_stD ..) ha, vmemStore_stops (exec_stQ ..) ha⟩
  case scalars =>
    exact ⟨smemLoad_stops (exec_sld64 ..) ha, smemLoad_stops (exec_sld32 ..) ha, smemStore_stops (exec_sst64 ..) ha,
      smemStore_stops (exec_sst32 ..) ha⟩
  case scratchpad =>
    exact ⟨spadLoad_stops (exec_ldsW ..) hp, spadLoad_stops (exec_ldsD ..) hp, spadLoad_stops (exec_ldsQ ..) hp,
      spadStore_stops (exec_stsW ..) hp, spadStore_stops (exec_stsD ..) hp, spadStore_stops (exec_stsQ ..) hp⟩
  case vspill =>
    exact accessStops_of_ends (fun hgo => (exec_vspill ..).trans (unit_of_ready ((Bool.and_true _).symm.trans hgo) _))
      (spillChecked_ends hp _)
  case vfill => exact accessStops_of_acquired (exec_vfill ..) (spillChecked_ends hp _)
  case atomics =>
    exact ⟨atom_stops (exec_aadd ..) ha, atom_stops (exec_aand ..) ha, atom_stops (exec_aor ..) ha,
      atom_stops (exec_axor ..) ha, atom_stops (exec_amin ..) ha, atom_stops (exec_amax ..) ha,
      atom_stops (exec_aminn ..) ha, atom_stops (exec_amaxn ..) ha, atom_stops (exec_axch ..) ha,
      atom_stops (exec_acas ..) ha, atom_stops (exec_aaddf ..) ha, atom_stops (exec_aincw ..) ha,
      atom_stops (exec_ald ..) ha, atom_stops (exec_ast ..) ha⟩
  case ldsp => exact accessStops_of_acquired (exec_ldsp ..) (spadChecked_ends hp _)
  case stsp =>
    exact accessStops_of_ends (fun hr => (exec_stsp ..).trans (unit_of_ready hr _)) (spadChecked_ends hp _)

end Sys2Proof.Machine
end

section
/-! PROOFS of O27, what a store leaves in L1. Neither room made for a line nor a write-down writes a byte at a home; a
write-down leaves of its line all but the DIRTY bits; and what stands in L1 in the end is `storedLine` of that line. -/

set_option Elab.async false

namespace Sys2Proof.Machine

variable {s t : State} {core line cid trk key off n i : Nat} {vault first : Bool} {bs : List Byte}

/-! ### Accesses that leave the core keep L1 and memory (R183, R187) -/

@[simp] theorem updCrew_cores (s : State) (cid : Nat) (f : Crew → Crew) : (updCrew s cid f).cores = s.cores := by
  unfold updCrew; split <;> rfl

@[simp] theorem updCrew_memsys (s : State) (cid : Nat) (f : Crew → Crew) : (updCrew s cid f).memsys = s.memsys := by
  unfold updCrew; split <;> rfl

@[simp] theorem send_cores (a : Access) (s : State) : (send a s).cores = s.cores := by
  refine (congrArg State.cores (depart_memOnly _ _)).trans ?_
  cases a.trk with
  | none => rfl
  | some k => exact updCrew_cores ..

@[simp] theorem send_memsys (a : Access) (s : State) : (send a s).memsys = s.memsys := by
  refine (depart_memsys _ _).trans ?_
  cases a.trk with
  | none => rfl
  | some k => exact updCrew_memsys ..

@[simp] theorem writeDown_memsys (core line : Nat) (s : State) : (writeDown core line s).memsys = s.memsys := by
  unfold writeDown; dsimp only
  split
  · rfl
  · simp

/-- A write-down leaves its line in L1 with its data, and takes its DIRTY bits (R183). -/
theorem getL1_writeDown (core line : Nat) (s : State) :
    getL1 (writeDown core line s) core line = { getL1 s core line with dirty := 0#128 } := by
  unfold writeDown; dsimp only
  split
  · next h => rw [← h]
  · rw [getL1, getCore, send_cores]
    exact (getL1_setL1 ..).trans (if_pos ⟨rfl, rfl⟩)

theorem eq_writeDown_of_tryDown (h : tryDown core line s = some t) : t = writeDown core line s := by
  unfold tryDown at h
  exact (Option.some.inj (Option.ite_none_right_eq_some.1 h).2).symm

/-- Room for a line is made without a write at a home (R182, R183). -/
theorem makeRoom_memsys : Holds (fun t => t.memsys = s.memsys) (makeRoom core line s) :=
  .ite (.some rfl) (.ite (.ite .none (.some rfl)) (.ite (.some (writeDown_memsys ..)) (.some rfl)))

/-- A line that L1 holds has its room. -/
theorem makeRoom_of_inL1 (h : inL1 s core line = true) : makeRoom core line s = some s := if_pos h

/-! ### The line after a store (R182, R195) -/

theorem getLsbD_dirtyMask (hi : i < 128) : (dirtyMask off n).getLsbD i = decide (off ≤ i ∧ i < off + n) := by
  rw [dirtyMask, BitVec.getLsbD_ofNat, Nat.testBit_mul_two_pow, Nat.testBit_two_pow_sub_one, Bool.eq_iff_iff]
  simp only [hi, decide_true, Bool.true_and, Bool.and_eq_true, decide_eq_true_eq]
  omega

theorem storedLine_dirty (y : L1Line) (hlo : off ≤ i) (hhi : i < off + bs.length) (hi : i < 128) :
    (storedLine cid trk key vault first off bs y).dirty.getLsbD i = true := by
  simp [storedLine, getLsbD_dirtyMask hi, hlo, hhi]

theorem storedLine_data (y : L1Line) (o : Nat) :
    cget 0#8 (storedLine cid trk key vault first off bs y).data o =
      if off ≤ o ∧ o < off + bs.length then (bs[o - off]?).getD 0#8 else cget 0#8 y.data o :=
  cget_csetList _ _ _ _ _

/-! ### A store placed in L1 -/

/-- The line of a store in L1, once there is room for it: its older bytes under another tracker or crew went down first. -/
theorem putDirty_eq_some {pa : Nat} (h : putDirty core cid trk key vault first pa bs s = some t) :
    ∃ r u, makeRoom core (pa / 128) s = some r ∧ (u = writeDown core (pa / 128) r ∨ u = r) ∧
      t = setL1 u core (pa / 128) (storedLine cid trk key vault first (pa % 128) bs (getL1 u core (pa / 128))) := by
  obtain ⟨r, hr, h⟩ := Option.bind_eq_some_iff.1 h
  obtain ⟨u, hu, rfl⟩ := Option.map_eq_some_iff.1 h
  refine ⟨r, u, hr, ?_, rfl⟩
  split at hu
  · exact .inl (eq_writeDown_of_tryDown hu)
  · exact .inr (Option.some.inj hu).symm

/-- A clean line that L1 holds takes a store at once (R182). -/
theorem putDirty_of_clean {pa : Nat} (h : inL1 s core (pa / 128) = true) (hc : (getL1 s core (pa / 128)).dirty = 0#128) :
    (putDirty core cid trk key vault first pa bs s).isSome = true := by
  simp [putDirty, makeRoom_of_inL1 h, hc]

/-! ### The obligation -/

/-- Settles O27: the line is the stored line of what `putDirty_eq_some` finds there, and that has the data from before the
store where no room had to be made. -/
theorem storedBytesAreDirty : Obligations.StoredBytesAreDirty := by
  intro core cid trk key vault first pa bs s hlen
  refine ⟨putDirty_of_clean, fun t ht => ?_⟩
  obtain ⟨r, u, hr, hu, rfl⟩ := putDirty_eq_some ht
  have hmem : u.memsys = s.memsys := by
    rcases hu with rfl | rfl
    · exact (writeDown_memsys ..).trans (makeRoom_memsys _ hr)
    · exact makeRoom_memsys _ hr
  have hdata : (getL1 u core (pa / 128)).data = (getL1 r core (pa / 128)).data := by
    rcases hu with rfl | rfl
    · rw [getL1_writeDown]
    · rfl
  simp only [getL1_setL1, and_self, if_true]
  refine ⟨rfl, rfl, fun i hi => ⟨?_, ?_⟩, fun hin o ho => ?_, hmem⟩
  · rw [storedLine_data, if_pos (by omega), Nat.add_sub_cancel_left]
  · exact storedLine_dirty _ (by omega) (by omega) (by omega)
  · obtain rfl : s = r := Option.some.inj ((makeRoom_of_inL1 hin).symm.trans hr)
    rw [storedLine_data, if_neg ho, hdata]

end Sys2Proof.Machine
end

section
/-! PROOFS of O50, what an answer, a load's data, a store and a release come to when they complete. A load writes its lanes by
`landLanes`, which changes registers alone; its vector lanes are read back lane by lane (`vraw_writeLoad`). -/

set_option Elab.async false

namespace Sys2Proof.Machine

variable {s t u : State} {a : Access} {z : Answer} {k n m i lane : Nat} {d : Bool} {l : Load} {p : PartRef} {bs : List Byte}
  {x : PStore}

/-! ### Answers of stores (R187) -/

/-- The tracker of a crew that is in focus takes an answer. -/
theorem answerTrk_of_focus (hk : a.trk = some k) (hc : s.crew.cid = a.crew) (hr : s.crew.cond = .resident) :
    answerTrk a z s = { s with crew := setTrk s.crew k { getTrk s.crew k with
      out := (getTrk s.crew k).out - 1, lct := max (getTrk s.crew k).lct (z.ct.getD 0) } } := by
  simp [answerTrk, hk, updCrew, hc, hr]

/-- The write of the hub that an answer dates, where it is one. -/
def datedAtHub (a : Access) (z : Answer) (s : State) : State := if a.core = hubCore then dated a (z.ct.getD 0) s else s

theorem datedAtHub_eq (a : Access) (z : Answer) (s : State) :
    ∃ rays pkg, datedAtHub a z s = { s with rays := rays, pkg := pkg } := by
  unfold datedAtHub
  split
  · exact ⟨_, _, rfl⟩
  · exact ⟨s.rays, s.pkg, rfl⟩

theorem exec_accessAnswer_of_store (hf : s.net.find? (fun x => x.id == a.id && !x.back) = some a) (hz : a.ans = some z)
    (hu : a.use = .store) : exec (.accessAnswer a.id) s =
      .next (tidy (updAccess a.id (fun x => { x with back := true }) (answerTrk a z (datedAtHub a z s)))) := by
  rw [exec_accessAnswer]
  simp [execAccessAnswer, hf, hz, takeAnswer, hu, datedAtHub]

/-! ### Writes of variable latency (R32; log 49) -/

theorem wrV_zero (r : Nat) (ls : List Nat) (f : Nat → W32) (s : State) :
    wrV 0 r ls f s = { s with wave := { s.wave with v := vput r f ls s.wave.v } } := by
  simp [wrV, addPend, settled]

theorem wrS_zero (r : Nat) (x : W64) (s : State) :
    wrS 0 r x s = { s with part := { s.part with s := if r = 63 then s.part.s else cset 0#64 s.part.s r x } } := by
  unfold wrS
  split
  · rfl
  · simp [addPend, settled]

/-! ### The lanes of a load (R194, R195) -/

/-- Only scalar registers of the part and vector registers of the wave differ. -/
def RegsOnly (s t : State) : Prop := t = { s with part := { s.part with s := t.part.s }, wave := { s.wave with v := t.wave.v } }

theorem RegsOnly.refl (s : State) : RegsOnly s s := rfl

theorem RegsOnly.trans (h : RegsOnly s t) (g : RegsOnly t u) : RegsOnly s u := by
  unfold RegsOnly at *; rw [g, h]

theorem writeLoad_regsOnly (l : Load) (lane : Nat) (bs : List Byte) (s : State) : RegsOnly s (writeLoad l lane bs s) := by
  unfold writeLoad
  split
  · rw [wrS_zero]; rfl
  · refine foldl_keeps (P := RegsOnly s) (fun u i hu => hu.trans ?_) _ _ (.refl s)
    rw [wrV_zero]; rfl

/-- The bytes that a lane of a load has, and none where they are still to come. -/
def bytesAt (l : Load) (s : State) (x : LaneLoad) : List Byte := (x.bytes s l.kind.size).getD []

/-- The lanes `xs` of a load written with the bytes that they have in `s`. -/
def landLanes (l : Load) (s : State) (xs : List LaneLoad) (u : State) : State :=
  xs.foldl (fun u x => writeLoad l x.lane (bytesAt l s x) u) u

theorem landLanes_regsOnly (l : Load) (s : State) (xs : List LaneLoad) (u : State) : RegsOnly u (landLanes l s xs u) :=
  foldl_keeps (P := RegsOnly u) (fun _ _ hv => hv.trans (writeLoad_regsOnly ..)) _ _ (.refl u)

/-- The loads of a part without one that is over; an acquire goes on in the loads before it (R212). -/
def loadsAfter (l : Load) (loads : List Load) : List Load :=
  (loads.filter (fun y => y.id != l.id)).map (fun y => if l.acq = true ∧ y.id < l.id then { y with acq := true } else y)

/-- Folds of steps that agree on the elements of the list agree. -/
theorem foldl_eq_of_forall_mem {α β : Type} {f g : β → α → β} : ∀ {l : List α}, (∀ a ∈ l, ∀ b, f b a = g b a) →
    ∀ b, l.foldl f b = l.foldl g b
  | [], _, _ => rfl
  | a :: l, h, b => by
    obtain ⟨ha, hl⟩ := List.forall_mem_cons.1 h
    rw [List.foldl_cons, List.foldl_cons, ha, foldl_eq_of_forall_mem hl]

/-- A load whose lanes all have their bytes writes them and is over. -/
theorem returnLoad_of_complete (h : ∀ x ∈ l.lanes, (x.bytes s l.kind.size).isSome = true) :
    returnLoad l s = { landLanes l s l.lanes s with
      part := { (landLanes l s l.lanes s).part with loads := loadsAfter l s.part.loads } } := by
  have hleft : l.lanes.filter (fun x => (x.bytes s l.kind.size).isNone) = [] :=
    List.filter_eq_nil_iff.2 fun x hx => by
      simpa using Option.isSome_iff_ne_none.1 (h x hx)
  have hloads : (landLanes l s l.lanes s).part.loads = s.part.loads := by rw [landLanes_regsOnly l s l.lanes s]
  unfold returnLoad
  dsimp only
  rw [foldl_eq_of_forall_mem (g := fun u x => writeLoad l x.lane (bytesAt l s x) u) ?_ s, hleft, if_pos rfl]
  · exact congrArg (fun loads => { landLanes l s l.lanes s with
      part := { (landLanes l s l.lanes s).part with loads := loadsAfter l loads } }) hloads
  · intro x hx u
    obtain ⟨bs, hbs⟩ := Option.isSome_iff_exists.1 (h x hx)
    simp only [bytesAt, hbs, Option.getD_some]

/-! ### Vector lanes -/

theorem vraw_wrV_zero (r : Nat) (f : Nat → W32) (s : State) (hl : lane < 64) (hi : i < 64) :
    vraw (wrV 0 r [lane] f s).wave m i = if m = r ∧ i = lane then f i else vraw s.wave m i := by
  rw [wrV_zero]
  simpa [vraw] using cget_vput r f m i hi [lane] s.wave.v (by simpa using hl)

/-- What the registers hold after a lane of a vector load: the words of its bytes from the load's register on. -/
theorem vraw_writeLoad (hk : l.kind = .vec n d) (hl : lane < 64) (hi : i < 64) :
    vraw (writeLoad l lane bs s).wave m i =
      if (l.reg ≤ m ∧ m < l.reg + max 1 (n / 4)) ∧ i = lane then loadWord n d bs (m - l.reg) else vraw s.wave m i := by
  simp only [writeLoad, hk]
  generalize max 1 (n / 4) = c
  induction c with
  | zero => exact (if_neg (by omega)).symm
  | succ c ih =>
    rw [List.range_succ, List.foldl_append, List.foldl_cons, List.foldl_nil, vraw_wrV_zero _ _ _ hl hi, ih]
    by_cases hm : m = l.reg + c
    · subst hm; simp
    · have : m < l.reg + (c + 1) ↔ m < l.reg + c := by omega
      simp [hm, this]

theorem writeLoad_vec_part (hk : l.kind = .vec n d) (lane : Nat) (bs : List Byte) (s : State) :
    (writeLoad l lane bs s).part = s.part := by
  simp only [writeLoad, hk]
  exact foldl_keeps (P := fun u : State => u.part = s.part) (fun u i hu => by rw [wrV_zero]; exact hu) _ _ rfl

theorem landLanes_vec_part (hk : l.kind = .vec n d) (xs : List LaneLoad) : (landLanes l s xs u).part = u.part :=
  foldl_keeps (P := fun v : State => v.part = u.part) (fun _ _ hv => (writeLoad_vec_part hk ..).trans hv) _ _ rfl

/-- Lanes and registers that a vector load does not name are as before. -/
theorem vraw_landLanes_of_other (hk : l.kind = .vec n d) (hi : i < 64) : ∀ (xs : List LaneLoad) (u : State),
    (∀ x ∈ xs, x.lane < 64) → (m < l.reg ∨ l.reg + max 1 (n / 4) ≤ m ∨ ∀ x ∈ xs, x.lane ≠ i) →
      vraw (landLanes l s xs u).wave m i = vraw u.wave m i
  | [], _, _, _ => rfl
  | x :: xs, u, hl, ho => by
    obtain ⟨hx, hxs⟩ := List.forall_mem_cons.1 hl
    rw [List.forall_mem_cons] at ho
    refine (vraw_landLanes_of_other hk hi xs _ hxs (ho.imp_right (·.imp_right And.right))).trans ?_
    rw [vraw_writeLoad hk hx hi, if_neg (by omega)]

/-- Every lane of a vector load holds the words of its bytes: the lanes after it are others. -/
theorem vraw_landLanes (hk : l.kind = .vec n d) (hi : i < max 1 (n / 4)) (xs : List LaneLoad) :
    ∀ u : State, (∀ x ∈ xs, x.lane < 64) → (xs.map (·.lane)).Nodup → ∀ x ∈ xs,
      vraw (landLanes l s xs u).wave (l.reg + i) x.lane = loadWord n d (bytesAt l s x) i := by
  induction xs with
  | nil => simp
  | cons y ys ih =>
    intro u hl hd x hx
    obtain ⟨hy, hys⟩ := List.forall_mem_cons.1 hl
    obtain ⟨hnot, hd⟩ := List.nodup_cons.1 hd
    rcases List.mem_cons.1 hx with rfl | hx
    · have hothers : ∀ z ∈ ys, z.lane ≠ x.lane := fun z hz he => hnot (List.mem_map.2 ⟨z, hz, he⟩)
      refine (vraw_landLanes_of_other hk hy ys _ hys (.inr (.inr hothers))).trans ?_
      rw [vraw_writeLoad hk hy hy, if_pos ⟨by omega, rfl⟩, Nat.add_sub_cancel_left]
    · exact ih _ hys hd x hx

/-! ### Scalar loads -/

theorem wrS_zero_scalarSet (r : Nat) (x : W64) (s : State) : ScalarSet r x s (wrS 0 r x s) := by
  intro k
  rw [wrS_zero]
  by_cases hr : r = 63 <;> simp [hr, cget_cset]

theorem landLanes_scalar (hk : l.kind = .scalar n) (x : LaneLoad) (u : State) :
    landLanes l s [x] u = wrS 0 l.reg (BitVec.ofNat 64 (leNat (bytesAt l s x))) u := by
  simp [landLanes, writeLoad, hk]

/-! ### The load as a whole -/

theorem exec_loadDataReturn_of_complete (hp : livePart p s = some t) (hf : t.part.loads.find? (fun x => x.id == l.id) = some l)
    (hne : l.lanes ≠ []) (h : ∀ x ∈ l.lanes, (x.bytes t l.kind.size).isSome = true) :
    exec (.loadDataReturn p l.id) s = .next (tidy (returnLoad l t)) := by
  obtain ⟨x, hx⟩ := List.exists_mem_of_ne_nil _ hne
  have hany : l.lanes.any (fun x => (x.bytes t l.kind.size).isSome) = true := List.any_eq_true.2 ⟨x, hx, h x hx⟩
  rw [exec_loadDataReturn]
  simp [execLoadDataReturn, hp, hf, hany]

/-! ### Stores accepted and reported (R184, R162) -/

theorem focusCrew_self (h : s.crew.cond = .resident) : focusCrew s s.crew.cid = s := if_pos ⟨rfl, by simp [h]⟩

theorem exec_storeAccepted_of_performed (hr : s.crew.cond = .resident)
    (hf : s.crew.stores.find? (fun y => y.id == x.id) = some x) (hx : x.fault = none) (hw : x.accs.any (onWay s) = false) :
    exec (.storeAccepted s.crew.cid x.id) s =
      .next { s with crew := { s.crew with stores := s.crew.stores.filter (fun y => y.id != x.id) } } := by
  rw [exec_storeAccepted]
  simp only [execStoreAccepted, focusCrew_self hr, hf]
  rw [if_pos ⟨trivial, hr, hx, hw⟩]

theorem exec_storeFaultReport_of_oldest {re : Reason} (hr : s.crew.cond = .resident)
    (hf : s.crew.stores.find? (fun y => y.id == x.id) = some x) (hx : x.fault = some re)
    (ht : turnFree (16 * x.wave + x.part) s = true)
    (ho : s.crew.stores.any (fun y => y.wave == x.wave && y.part == x.part && y.fault.isSome && decide (y.id < x.id)) = false) :
    exec (.storeFaultReport s.crew.cid x.id) s = .next (takeTurn (16 * x.wave + x.part + 1) (reportStore x re s)) := by
  rw [exec_storeFaultReport]
  simp only [execStoreFaultReport, focusCrew_self hr, hf, hx]
  rw [if_pos ⟨trivial, hr, ho, ht⟩]

/-- A report that finds room in the queue joins it (R279). -/
theorem reportStore_sfq_length {re : Reason} (h : s.crew.sfq.length < 8) :
    (reportStore x re s).crew.sfq.length = s.crew.sfq.length + 1 := by
  have hroom : decide (8 ≤ s.crew.sfq.length) = false := decide_eq_false (Nat.not_le.2 h)
  simp [reportStore, hroom, mapParts]

/-! ### Releases (R211) -/

theorem exec_fenceReleaseComplete_of_released {accs ords : List Nat} {mask : Nat} (hp : livePart p s = some t)
    (hw : t.part.wait = .release accs ords mask) (h : released accs ords (maskTrks mask) t = true) :
    exec (.fenceReleaseComplete p) s = .next { t with part := { t.part with wait := .none, relDone := true } } := by
  rw [exec_fenceReleaseComplete]
  simp [execFenceReleaseComplete, hp, hw, h]

/-! ### The obligation -/

/-- Settles O50: each event by its own lemma above; what a load leaves in registers by the rules of `landLanes`. -/
theorem answersArrive : Obligations.AnswersArrive := by
  intro s
  refine ⟨?answers, ?loads, fun hr x hf => ⟨?accepted, ?reported⟩, ?releases⟩
  case answers =>
    intro a z k hf hz hu hk hc hr
    refine ⟨_, exec_accessAnswer_of_store hf hz hu, ?_⟩
    obtain ⟨rays, pkg, hdated⟩ := datedAtHub_eq a z s
    rw [hdated, answerTrk_of_focus (s := { s with rays := rays, pkg := pkg }) hk hc hr]
    exact ⟨rfl, rfl, rfl, by simp [tidy], by simp [tidy]⟩
  case loads =>
    intro p t l hp hf n hne hall hd
    have hbytes : ∀ x ∈ l.lanes, (x.bytes t l.kind.size).isSome = true := fun x hx => (hall x hx).1
    have hlanes : ∀ x ∈ l.lanes, x.lane < 64 := fun x hx => (hall x hx).2
    have hregs := landLanes_regsOnly l t l.lanes t
    refine ⟨_, exec_loadDataReturn_of_complete hp hf hne hbytes, ?_⟩
    rw [returnLoad_of_complete hbytes]
    refine ⟨rfl, ?pc, ?memory, ?masks, fun d hk => ⟨?scalars, fun x hx i hi => ?lanes, fun m i hi ho => ?others⟩,
      fun x hk hx => ⟨?vectors, fun r => ?scalar⟩⟩
    case pc => rw [hregs]; rfl
    case memory => rw [hregs]; rfl
    case masks => rw [hregs]; rfl
    case scalars =>
      have hpart : (landLanes l t l.lanes t).part = t.part := landLanes_vec_part hk l.lanes
      exact (congrArg Part.s hpart :)
    case lanes => exact vraw_landLanes hk hi l.lanes t hlanes hd x hx
    case others => exact vraw_landLanes_of_other hk hi l.lanes t hlanes ho
    case vectors => rw [hx, landLanes_scalar hk, wrS_zero]; rfl
    case scalar =>
      rw [hx, landLanes_scalar hk]
      exact wrS_zero_scalarSet _ _ _ r
  case accepted => exact exec_storeAccepted_of_performed hr hf
  case reported =>
    intro re hx hroom ht ho
    exact ⟨_, exec_storeFaultReport_of_oldest hr hf hx ht ho, rfl, reportStore_sfq_length hroom, rfl, rfl⟩
  case releases =>
    intro p t accs ords mask hp hw h
    exact exec_fenceReleaseComplete_of_released hp hw h

end Sys2Proof.Machine
end

section
/-! PROOFS of O29, accesses to the scratchpad. Each meaning runs its checks and ends in one of two ways: a load that stands with
the bytes of its lanes (`loadStands_done`), or bytes written lane by lane (`scratchStored_done`). -/

set_option Elab.async false

namespace Sys2Proof.Machine

variable {i : Instr} {r : Run} {d a b : BitVec 7} {s t : State} {n fn : Nat} {addrs : List (Nat × W64)}

/-! ### Checks that pass (R200, R202) -/

theorem spadChecked_of_clear {scalar : Bool} (h : spadClear n addrs s = true) (f : State → State) :
    spadChecked n scalar r addrs f s = f s := by
  simp only [spadClear, Bool.and_eq_true, Bool.not_eq_true', List.all_eq_true, beq_iff_eq, decide_eq_true_eq] at h
  obtain ⟨hp, hall⟩ := h
  have haligned : addrs.filter (fun x => x.2.toNat % n != 0) = [] :=
    List.filter_eq_nil_iff.2 fun x hx => by simp [(hall x hx).1]
  have hinside : addrs.find? (fun x => decide (s.crew.scr < x.2.toNat + n)) = none :=
    List.find?_eq_none.2 fun x hx => by simp [(hall x hx).2]
  simp [spadChecked, hp, haligned, hinside]

theorem spillChecked_of_inside {k : Nat} {base : W64} (hp : scratchPending s = false) (hb : base &&& 15#64 = 0#64)
    (he : base.toNat + 4 * k * widthOf s.wave.code ≤ s.crew.scr) (f : State → State) : spillChecked k r base f s = f s := by
  simp [spillChecked, hp, hb, Nat.not_lt.2 he]

/-- Bytes that touch no barrier word are written (R180). -/
theorem spadPut_of_untouched {offs : List (Nat × Nat)} (h : offs.any (fun x => touchesBar s.crew x.2 n) = false)
    (data : Nat → List Byte) (f : State → State) :
    spadPut n offs data f s = f { s with crew := offs.foldl (fun (c : Crew) x => scrWrite x.2 (data x.1) c) s.crew } :=
  if_neg (by simp [h])

/-! ### What an access leaves (R201) -/

/-- A unit that ends with another crew record of its core, other loads and another id leaves the rest alone. -/
theorem done_memoryQuiet {c : Crew} (hc : c.core = s.crew.core) (ids : Nat) (loads : List Load) :
    MemoryQuiet r s (done r { s with ids := ids, crew := c, part := { s.part with loads := loads } }) := by
  have hnow : now { s with ids := ids, crew := c, part := { s.part with loads := loads } } = now s :=
    congrArg (fun k => cycleOf s (clusterOf k)) hc
  exact ⟨⟨rfl, congrArg (· + max 1 (stallOf r + 1)) hnow, rfl, rfl⟩, rfl, rfl, rfl, rfl, rfl, rfl, rfl, rfl, fun _ => rfl⟩

/-- A load stands with the bytes `l` of its lanes, taken at issue; the crew with its scratchpad is as before. -/
def LoadStands (r : Run) (kind : LoadKind) (reg : Nat) (l : List (Nat × Cells W64)) (s t : State) : Prop :=
  MemoryQuiet r s t ∧ t.crew = s.crew ∧ ∃ ld : Load, t.part.loads = s.part.loads ++ [ld] ∧ ld.kind = kind ∧
    ld.reg = reg ∧ ld.lanes.map (fun x => (x.lane, x.fixed)) = l

/-- Writes of the scratchpad one after another. -/
def scrWrites {α : Type} (off : α → Nat) (data : α → List Byte) (l : List α) (c : Crew) : Crew :=
  l.foldl (fun c x => scrWrite (off x) (data x) c) c

theorem scrWrites_core {α : Type} (off : α → Nat) (data : α → List Byte) (l : List α) (c : Crew) :
    (scrWrites off data l c).core = c.core :=
  foldl_keeps (P := fun x : Crew => x.core = c.core) (f := fun c x => scrWrite (off x) (data x) c) (fun _ _ h => h) l c rfl

theorem loadStands_done (kind : LoadKind) (reg : Nat) (lanes : List LaneLoad) :
    LoadStands r kind reg (lanes.map (fun x => (x.lane, x.fixed))) s (done r { s with
      ids := s.ids + 1
      part := { s.part with loads := s.part.loads ++
        [{ id := s.ids, kind := kind, reg := reg, lanes := lanes, acq := false, timer := none }] } }) :=
  ⟨done_memoryQuiet (c := s.crew) rfl _ _, rfl, _, rfl, rfl, rfl, rfl⟩

/-- The scratchpad of the crew holds what the writes put there; no load of the part has changed. -/
def ScratchStored {α : Type} (r : Run) (off : α → Nat) (data : α → List Byte) (l : List α) (s t : State) : Prop :=
  MemoryQuiet r s t ∧ t.part.loads = s.part.loads ∧ t.crew = scrWrites off data l s.crew

theorem scratchStored_done {α : Type} (off : α → Nat) (data : α → List Byte) (l : List α) :
    ScratchStored r off data l s (done r { s with crew := scrWrites off data l s.crew }) :=
  ⟨done_memoryQuiet (scrWrites_core ..) s.ids s.part.loads, rfl, rfl⟩

/-! ### LDS and STS (R200) -/

theorem spadLoad_stands (hx : ∀ s, exec i s = spadLoad fn n r d a b s)
    (hr : ready (opSpad fn r d a b ([srcS a, dstVs d (grp n) (grp n)] ++ idxUse b)) s = true) (hexm : s.part.exm ≠ 0#64)
    (hc : spadClear n (laneAddrs r a b (Nat.log2 n) s) s = true) (hq : acquiring s = false) :
    ∃ t, exec i s = .next t ∧ LoadStands r (.vec n false) d.toNat
      ((laneAddrs r a b (Nat.log2 n) s).map (fun x => (x.1, scratchCells s.crew x.2.toNat n))) s t := by
  refine ⟨_, exec_of_ready hx hr
    ((if_neg hexm).trans ((if_neg (by simp [hq])).trans (spadChecked_of_clear hc _))), ?_⟩
  have h := loadStands_done (r := r) (s := s) (.vec n false) d.toNat ((laneAddrs r a b (Nat.log2 n) s).map (fun x =>
    ({ lane := x.1, acc := 0, off := 0, fixed := scratchCells s.crew x.2.toNat n } : LaneLoad)))
  rwa [List.map_map] at h

theorem spadStore_stored (hx : ∀ s, exec i s = spadStore fn n r d a b s)
    (hr : ready (opSpad fn r d a b ([srcS a, srcVs d (grp n) (grp n)] ++ idxUse b)) s = true)
    (hc : spadClear n (laneAddrs r a b (Nat.log2 n) s) s = true)
    (ht : ((laneAddrs r a b (Nat.log2 n) s).map (fun x => (x.1, x.2.toNat))).any (fun x => touchesBar s.crew x.2 n) = false) :
    ∃ t, exec i s = .next t ∧ ScratchStored r (fun x : Nat × Nat => x.2) (fun x => laneBytes s d.toNat n x.1)
      ((laneAddrs r a b (Nat.log2 n) s).map (fun x => (x.1, x.2.toNat))) s t :=
  ⟨_, exec_of_ready hx hr ((spadChecked_of_clear hc _).trans (spadPut_of_untouched ht _ _)), scratchStored_done ..⟩

/-! ### VSPILL and VFILL (R202) -/

theorem vspill_stored {base : W64} {k : Nat} (hbase : sreg s a + dispOf r = base) (hk : b.toNat + 1 = k)
    (hr : ready (opSpill 6 r d a b (srcVs d k 1)) s = true) (hp : scratchPending s = false) (hb : base &&& 15#64 = 0#64)
    (he : base.toNat + 4 * k * widthOf s.wave.code ≤ s.crew.scr)
    (ht : (slots s base.toNat k).any (fun x => touchesBar s.crew x.2.2 4) = false) :
    ∃ t, exec (.vspill r d a b) s = .next t ∧ ScratchStored r (fun x : Nat × Nat × Nat => x.2.2)
      (fun x => bytes32 (rdV s (d.toNat + x.1) x.2.1)) (slots s base.toNat k) s t := by
  subst hbase hk
  exact ⟨_, exec_of_ready (exec_vspill r d a b) hr
    ((spillChecked_of_inside hp hb he _).trans (if_neg (by simp only [ht, Bool.false_eq_true, not_false_eq_true]))),
    scratchStored_done ..⟩

theorem vfill_stands {base : W64} {k : Nat} (hbase : sreg s a + dispOf r = base) (hk : b.toNat + 1 = k)
    (hr : ready (opSpill 7 r d a b (dstVs d k 1)) s = true) (hq : acquiring s = false) (hp : scratchPending s = false)
    (hb : base &&& 15#64 = 0#64) (he : base.toNat + 4 * k * widthOf s.wave.code ≤ s.crew.scr) :
    ∃ t, exec (.vfill r d a b) s = .next t ∧ LoadStands r (.vec (4 * k) false) d.toNat ((lanesOf (partLanes s)).map (fun l =>
      (l, byteCells 0 ((List.range k).flatMap (fun i => scrRead s.crew (slot s base.toNat i l) 4))))) s t := by
  subst hbase hk
  refine ⟨_, exec_of_ready (exec_vfill r d a b) hr
    ((if_neg (by simp [hq])).trans (spillChecked_of_inside hp hb he _)), ?_⟩
  have h := loadStands_done (r := r) (s := s) (.vec (4 * (b.toNat + 1)) false) d.toNat
    ((lanesOf (partLanes s)).map (fun l => ({ lane := l, acc := 0, off := 0, fixed := byteCells 0 ((List.range (b.toNat + 1)).flatMap
      (fun i => scrRead s.crew (slot s (sreg s a + dispOf r).toNat i l) 4)) } : LaneLoad)))
  rwa [List.map_map] at h

/-! ### LDSP and STSP (R203) -/

theorem ldsp_stands (hr : ready (opSpad 8 r d a b [srcS a, srcS b, dstS d]) s = true)
    (hc : spadClear 8 [(0, addrS r a b 3 s)] s = true) (hq : acquiring s = false) :
    ∃ t, exec (.ldsp r d a b) s = .next t ∧ LoadStands r (.scalar 8) d.toNat
      [(scalarLane s, scratchCells s.crew (addrS r a b 3 s).toNat 8)] s t :=
  ⟨_, exec_of_ready (exec_ldsp r d a b) hr ((if_neg (by simp [hq])).trans (spadChecked_of_clear hc _)), loadStands_done ..⟩

theorem stsp_stored (hr : ready (opSpad 9 r d a b [srcS a, srcS b, srcS d]) s = true)
    (hc : spadClear 8 [(0, addrS r a b 3 s)] s = true) (ht : touchesBar s.crew (addrS r a b 3 s).toNat 8 = false) :
    ∃ t, exec (.stsp r d a b) s = .next t ∧ ScratchStored r (fun x : Nat × Nat => x.2) (fun _ => bytes64 (sreg s d))
      [(0, (addrS r a b 3 s).toNat)] s t :=
  ⟨_, exec_of_ready (exec_stsp r d a b) hr ((spadChecked_of_clear hc _).trans
    (spadPut_of_untouched (by simpa using ht) _ _)), scratchStored_done ..⟩

/-! ### The obligation -/

/-- Settles O29: the checks pass by `spadChecked_of_clear` and `spillChecked_of_inside`, and the unit ends as
`loadStands_done` or `scratchStored_done` says. -/
theorem scratchpadAccesses : Obligations.ScratchpadAccesses := by
  refine ⟨fun r d a b s => ⟨spadLoad_stands (exec_ldsW r d a b), spadLoad_stands (exec_ldsD r d a b),
    spadLoad_stands (exec_ldsQ r d a b), spadStore_stored (exec_stsW r d a b), spadStore_stored (exec_stsD r d a b),
    spadStore_stored (exec_stsQ r d a b), ldsp_stands, stsp_stored⟩, ?spills⟩
  case spills =>
    intro r d a n s base k hp hb he
    refine ⟨fun hr ht => ?vspill, fun hr hq => vfill_stands rfl rfl hr hq hp hb he⟩
    obtain ⟨t, hexec, hquiet, -, hcrew⟩ := vspill_stored rfl rfl hr hp hb he ht
    exact ⟨t, hexec, hquiet, hcrew⟩

end Sys2Proof.Machine
end

section
/-! PROOFS of O30, the values of atomics and of reduce-copies. The model takes a minimum or a maximum by a comparison and
clamps a sum by two; each is the `min` and `max` of the statement by a general lemma. -/

set_option Elab.async false

namespace Sys2Proof.Machine

/-! ### Comparisons as minima and maxima -/

theorem apply_ite_lt_eq_min {α : Type} (f : α → Int) (x y : α) : f (if f y < f x then y else x) = min (f x) (f y) := by
  split <;> omega

theorem apply_ite_lt_eq_max {α : Type} (f : α → Int) (x y : α) : f (if f x < f y then y else x) = max (f x) (f y) := by
  split <;> omega

theorem ite_lt_eq_min (x y : Nat) : (if y < x then y else x) = min x y := by
  split <;> omega

theorem ite_lt_eq_max (x y : Nat) : (if x < y then y else x) = max x y := by
  split <;> omega

theorem clampInt_eq (x : Int) {lo hi : Int} (h : lo ≤ hi) : clampInt x lo hi = max lo (min hi x) := by
  unfold clampInt
  omega

/-- The low bits of an integer in the signed range have its value. -/
theorem signedOf_wrapTo {x : Int} (hlo : -(2 ^ 31) ≤ x) (hhi : x ≤ 2 ^ 31 - 1) : signedOf 32 (wrapTo 32 x) = x := by
  simp only [signedOf, wrapTo]
  omega

/-! ### The obligation -/

/-- Settles O30: the signed forms by `apply_ite_lt_eq_min` and `apply_ite_lt_eq_max`, the clamped sum by `clampInt_eq`, the
others by the tables of the model. -/
theorem atomicAndReduceValues : Obligations.AtomicAndReduceValues := by
  refine ⟨fun n old v c _ _ _ => ?atomics, fun d x _ _ => ?reduces⟩
  case atomics =>
    exact ⟨rfl, rfl, rfl, rfl, apply_ite_lt_eq_min _ old v, apply_ite_lt_eq_max _ old v,
      ite_lt_eq_min old v, ite_lt_eq_max old v, rfl, fun h => if_pos h, fun h => if_neg h, rfl, fun h => if_neg (Nat.not_le.2 h),
      fun h => if_pos h, rfl, rfl⟩
  case reduces =>
    refine ⟨rfl, ?saturated, rfl, apply_ite_lt_eq_min _ d x, apply_ite_lt_eq_max _ d x⟩
    have hclamp : clampInt (signedOf 32 d + signedOf 32 x) (-(2 ^ 31)) (2 ^ 31 - 1) = _ := clampInt_eq _ (by decide)
    exact (signedOf_wrapTo (by omega) (by omega)).trans hclamp

end Sys2Proof.Machine
end

section
/-! PROOFS of O31, how an atomic issues. What its lanes leave alone, wherever they are performed, is `LaneFrame`, kept by each
step of a lane; a run of one lane is then one `atomScratch`, `atomHit` or `atomSend`. -/

set_option Elab.async false

namespace Sys2Proof.Machine

variable {i : Instr} {r : Run} {d a b : BitVec 7} {s t u : State} {fn n mods core line cid trk key : Nat} {cas far vault : Bool}
  {m : Form} {accs : List LaneAcc} {qs : List Ready} {q : Ready} {v c : Nat → Nat} {x y : AtomRun}
  {l : LaneAcc} {bs : List Byte}

/-! ### What the lanes of an atomic leave alone -/

/-- The part, its wave, memory, the clocks, and the core and the pending stores of the crew are as before. -/
structure LaneFrame (s t : State) : Prop where
  part : t.part = s.part
  wave : t.wave = s.wave
  memsys : t.memsys = s.memsys
  clusters : t.clusters = s.clusters
  clock : t.clock = s.clock
  core : t.crew.core = s.crew.core
  stores : t.crew.stores = s.crew.stores

theorem LaneFrame.refl (s : State) : LaneFrame s s := ⟨rfl, rfl, rfl, rfl, rfl, rfl, rfl⟩

theorem LaneFrame.trans (h : LaneFrame s t) (g : LaneFrame t u) : LaneFrame s u :=
  ⟨g.part.trans h.part, g.wave.trans h.wave, g.memsys.trans h.memsys, g.clusters.trans h.clusters, g.clock.trans h.clock,
    g.core.trans h.core, g.stores.trans h.stores⟩

/-- Cores, accesses under way, ids and the free counter are outside the frame. -/
theorem LaneFrame.update (h : LaneFrame s t) (cores : Cells Core) (net : List Access) (ids free : Nat) :
    LaneFrame s { t with cores := cores, net := net, ids := ids, free := free } :=
  ⟨h.part, h.wave, h.memsys, h.clusters, h.clock, h.core, h.stores⟩

theorem LaneFrame.now_eq (h : LaneFrame s t) : now t = now s := by
  simp only [now, cycleOf, getCluster, h.clusters, h.clock, h.core]

theorem LaneFrame.of_memOnly (h : MemOnly s t) (hm : t.memsys = s.memsys) : LaneFrame s t where
  part := by rw [h]
  wave := by rw [h]
  memsys := hm
  clusters := by rw [h]
  clock := by rw [h]
  core := by rw [h]
  stores := by rw [h]

theorem bumpOut_frame (cid k : Nat) (f : Nat → Nat) (s : State) : LaneFrame s (bumpOut cid k f s) := by
  unfold bumpOut updCrew
  split <;> exact ⟨rfl, rfl, rfl, rfl, rfl, rfl, rfl⟩

theorem depart_frame (a : Access) (s : State) : LaneFrame s (depart a s) := .of_memOnly (depart_memOnly a s) (depart_memsys a s)

/-- The state in which an access departs: its tracker counts it, and fills that it overtakes are marked. -/
def readied (a : Access) (s : State) : State :=
  let t := match a.trk with
    | some k => bumpOut a.crew k (· + 1) s
    | none => s
  { t with net := match a.op with
    | .read _ => t.net
    | _ => t.net.map (spoilFill a) }

theorem send_eq (a : Access) (s : State) :
    send a s = depart { a with pc := s.part.pc, quads := sentQuads a s } (readied a s) := rfl

theorem readied_frame (a : Access) (s : State) : LaneFrame s (readied a s) := by
  unfold readied
  cases a.trk with
  | none => exact (LaneFrame.refl s).update s.cores _ s.ids s.free
  | some k => exact (bumpOut_frame a.crew k (· + 1) s).update _ _ _ _

theorem send_frame (a : Access) (s : State) : LaneFrame s (send a s) :=
  (readied_frame a s).trans (send_eq a s ▸ depart_frame _ _)

theorem setL1_frame (s : State) (core line : Nat) (y : L1Line) : LaneFrame s (setL1 s core line y) :=
  ⟨rfl, rfl, rfl, rfl, rfl, rfl, rfl⟩

theorem writeDown_frame (core line : Nat) (s : State) : LaneFrame s (writeDown core line s) := by
  unfold writeDown; dsimp only
  split
  · exact .refl s
  · exact (setL1_frame ..).trans (send_frame ..)

theorem tryDown_frame : Holds (LaneFrame s) (tryDown core line s) := .ite (.some (writeDown_frame ..)) .none

theorem makeRoom_frame : Holds (LaneFrame s) (makeRoom core line s) :=
  have hfree : LaneFrame s { s with free := s.free + 1 } := (LaneFrame.refl s).update s.cores s.net s.ids _
  .ite (.some (.refl s)) (.ite (.ite .none (.some hfree))
    (.ite (.some (hfree.trans ((writeDown_frame ..).trans (setL1_frame ..)))) (.some hfree)))

theorem putDirty_frame {first : Bool} {pa : Nat} : Holds (LaneFrame s) (putDirty core cid trk key vault first pa bs s) := by
  intro t ht
  obtain ⟨r, u, hr, hu, rfl⟩ := putDirty_eq_some ht
  have hru : LaneFrame r u := by
    rcases hu with rfl | rfl
    · exact writeDown_frame ..
    · exact .refl _
  exact ((makeRoom_frame r hr).trans hru).trans (setL1_frame ..)

theorem overtake_frame (own : List Nat) (core line : Nat) (s : State) : LaneFrame s (overtake own core line s) :=
  ⟨rfl, rfl, rfl, rfl, rfl, rfl, rfl⟩

/-! ### What the lanes of an atomic leave alone, by the place where they are performed (R206) -/

theorem atomScratch_frame (lo : Nat × Nat) : LaneFrame x.st (atomScratch fn n v c x lo).st := by
  unfold atomScratch
  cases atomWrites fn <;> exact ⟨rfl, rfl, rfl, rfl, rfl, rfl, rfl⟩

theorem atomHere_frame (lane line off key : Nat) (vault : Bool) (trk : Option Nat) :
    LaneFrame x.st (atomHere fn n v c x lane line off key vault trk).st := ⟨rfl, rfl, rfl, rfl, rfl, rfl, rfl⟩

theorem atomHit_frame : Holds (fun y => LaneFrame x.st y.st) (atomHit fn n v c x q) :=
  .map (P := LaneFrame x.st) (.ite putDirty_frame (.some (.refl _))) id

theorem atomSend_frame : Holds (fun y => LaneFrame x.st y.st) (atomSend far fn n v c x q) :=
  .bind (P := LaneFrame x.st) (.ite tryDown_frame (.some (.refl _))) fun ht =>
    .ite (.some ((ht.trans (overtake_frame ..)).trans (send_frame ..))) .none

theorem atomLane_frame : Holds (fun y => LaneFrame x.st y.st) (atomLane far fn n v c qs x l) := by
  unfold atomLane; dsimp only
  split
  · refine .some ?_
    split
    · exact atomScratch_frame _
    · exact atomHere_frame ..
  · split
    · exact .some (.refl _)
    · exact .ite (.ite atomHit_frame (.some (atomHere_frame ..))) atomSend_frame

theorem atomLanes_frame (far : Bool) (fn n : Nat) (v c : Nat → Nat) (qs : List Ready) (accs : List LaneAcc) :
    ∀ x : AtomRun, Holds (fun y => LaneFrame x.st y.st) (atomLanes far fn n v c qs accs x) := by
  induction accs with
  | nil => exact fun x => .some (.refl _)
  | cons l accs ih => exact fun x => .bind atomLane_frame fun h z hz => h.trans (ih _ z hz)

/-! ### The accesses that leave -/

@[simp] theorem sendFlit_net (p : Nat) (bs : List Byte) (s : State) : (sendFlit p bs s).net = s.net := by
  unfold sendFlit; split <;> rfl

/-- An access that is sent is under way, for its line, with its operation. -/
theorem exists_mem_send (a : Access) (s : State) :
    ∃ z ∈ (send a s).net, z.line = a.line ∧ z.op = a.op ∧ z.use = a.use ∧ z.back = a.back := by
  rw [send_eq, depart, sendFlit_net]
  exact ⟨_, List.mem_append_right _ List.mem_cons_self, rfl, rfl, rfl, rfl⟩

/-- Whether a lane's atomic is performed at its home (R206). -/
def atHome (far : Bool) (q : Ready) : Bool := far || q.place.tso || remoteLine (q.place.pa / 128)

/-- A lane that goes to its home carries the operation and its operands there; one that is performed in L1 carries them with
the fill of its line. -/
theorem exists_mem_atomSend (h : atomSend far fn n v c x q = some y) :
    ∃ z ∈ y.st.net, z.line = q.place.pa / 128 ∧ z.back = false ∧
      (atHome far q = true →
        z.op = .atomic fn n (q.place.pa % 128) (BitVec.ofNat 64 (v q.lane)) (BitVec.ofNat 64 (c q.lane))) ∧
      (atHome far q = false → (∃ e, z.op = .read e) ∧
        z.use = .atom fn n (q.place.pa % 128) (BitVec.ofNat 64 (v q.lane)) (BitVec.ofNat 64 (c q.lane))) := by
  obtain ⟨w, -, h⟩ := Option.bind_eq_some_iff.1 h
  obtain ⟨-, h⟩ := Option.ite_none_right_eq_some.1 h
  cases h
  obtain ⟨z, hz, hline, hop, huse, hback⟩ := exists_mem_send _ _
  refine ⟨z, hz, hline, hback, fun hh => ?_, fun hh => ⟨?_, ?_⟩⟩
  · exact hop.trans (if_pos hh)
  · exact ⟨_, hop.trans (if_neg (ne_true_of_eq_false hh))⟩
  · exact huse.trans (if_neg (ne_true_of_eq_false hh))

/-! ### The lane of a run with one active lane (R206) -/

theorem atomLanes_singleton (far : Bool) (x : AtomRun) (l : LaneAcc) :
    atomLanes far fn n v c qs [l] x = atomLane far fn n v c qs x l := Option.bind_fun_some _

theorem atomLane_of_scratch {o : Nat} (h : l.tgt = .scratch o) (hx : x.accs = []) :
    atomLane far fn n v c qs x l = some (atomScratch fn n v c x (l.lane, o)) := by
  simp only [atomLane, h, hx, if_true]

/-- How an atomic finds a line in L1. -/
abbrev atomHow : How := { ldn := false, acq := false, cache := 0 }

/-- A lane that reaches memory is no lane of the scratchpad window. -/
theorem readyOf_singleton (h : readyOf m r [l] s = [q]) : q.lane = l.lane ∧ ∀ o, l.tgt ≠ .scratch o := by
  have hq : q ∈ readyOf m r [l] s := h ▸ List.mem_cons_self
  obtain ⟨l', hl', hplace⟩ := List.mem_filterMap.1 hq
  obtain rfl := List.mem_singleton.1 hl'
  split at hplace
  · next p hp =>
    cases hplace
    refine ⟨rfl, fun o ho => ?_⟩
    rw [placeOf, ho] at hp
    cases hp
  · cases hplace

theorem atomLane_of_ready (hl : q.lane = l.lane) (hs : ∀ o, l.tgt ≠ .scratch o) (hx : x.accs = []) :
    atomLane far fn n v c [q] x l =
      if (!atHome far q && isHit atomHow q n x.st) = true then atomHit fn n v c x q else atomSend far fn n v c x q := by
  unfold atomLane; dsimp only
  split
  · next o ho => exact absurd ho (hs o)
  · simp only [List.find?_cons, hl, beq_self_eq_true, hx, if_true, atHome, Bool.not_or]

theorem ite_atomWrites {α : Type} (fn : Nat) (x y : α) : (if atomWrites fn = true then x else y) = if fn = 12 then y else x := by
  by_cases h : fn = 12 <;> simp [atomWrites, h]

/-- The new value of a lane in the scratchpad window stands there, but for an ALD. -/
theorem atomScratch_scratch (lo : Nat × Nat) : (atomScratch fn n v c x lo).st.crew.scratch =
    (if fn = 12 then x.st.crew else scrWrite lo.2
      (leBytes n (atomNew fn n (scrNat x.st.crew lo.2 n) (v lo.1) (c lo.1))) x.st.crew).scratch := by
  simp only [atomScratch, ite_atomWrites]

/-- The value of a lane's bytes in L1. -/
def heldNat (n : Nat) (q : Ready) (s : State) : Nat :=
  leNat (cgetList 0#8 (getL1 s s.crew.core (q.place.pa / 128)).data (q.place.pa % 128) n)

/-- The old value of a lane on a line of L1 is its result, and the new one is stored there but for an ALD. -/
theorem atomHit_eq_some (h : atomHit fn n v c x q = some y) :
    y.lanes = x.lanes ++ [{ lane := q.lane, acc := 0, off := 0, fixed := byteCells 0 (leBytes n (heldNat n q x.st)) }] ∧
      if fn = 12 then y.st = x.st
      else putDirty x.st.crew.core x.st.crew.cid q.trk q.place.key q.place.vault false q.place.pa
        (leBytes n (atomNew fn n (heldNat n q x.st) (v q.lane) (c q.lane))) x.st = some y.st := by
  simp only [atomHit, ite_atomWrites] at h
  obtain ⟨u, hu, rfl⟩ := Option.map_eq_some_iff.1 h
  refine ⟨rfl, ?_⟩
  split
  · next hfn => exact (Option.some.inj ((if_pos hfn).symm.trans hu)).symm
  · next hfn => exact (if_neg hfn).symm.trans hu

/-! ### The unit (R204) -/

/-- An atomic has issued: its lanes stand as the run `x` has left them, and it is pending as a load and as a store. -/
structure AtomIssued (fn n : Nat) (r : Run) (d : BitVec 7) (x : AtomRun) (s t : State) : Prop where
  moved : Moved r 1 (unitNext r s) s t
  regs : t.part.s = s.part.s
  exm : t.part.exm = s.part.exm
  wave : t.wave = s.wave
  memsys : t.memsys = s.memsys
  stores : t.crew.stores.length = s.crew.stores.length + 1
  scratch : t.crew.scratch = x.st.crew.scratch
  cores : t.cores = x.st.cores
  net : t.net = x.st.net
  load : ∃ ld : Load, t.part.loads = (if fn = 13 then s.part.loads else s.part.loads ++ [ld]) ∧ ld.kind = .vec n false ∧
    ld.reg = d.toNat ∧ ld.acq = (modField r 18 18 == 1) ∧ ld.lanes = x.lanes

/-- The run of an atomic's lanes, in ascending order. -/
def atomRunOf (fn n : Nat) (r : Run) (d : BitVec 7) (m : Form) (accs : List LaneAcc) (s : State) : Option AtomRun :=
  atomLanes (atomFar r) fn n (laneNat s d.toNat n) (laneNat s (opcOf r) n) (readyOf m r accs s) accs
    { st := s, lanes := [], accs := [] }

/-- A run of one lane in the scratchpad window. -/
theorem atomRunOf_scratch {o : Nat} (hl : l.tgt = .scratch o) : atomRunOf fn n r d m [l] s =
    some (atomScratch fn n (laneNat s d.toNat n) (laneNat s (opcOf r) n) { st := s, lanes := [], accs := [] } (l.lane, o)) :=
  (atomLanes_singleton ..).trans (atomLane_of_scratch hl rfl)

/-- A run of one lane that reaches memory. -/
theorem atomRunOf_ready (hq : readyOf m r [l] s = [q]) : atomRunOf fn n r d m [l] s =
    if (!atHome (atomFar r) q && isHit atomHow q n s) = true then
      atomHit fn n (laneNat s d.toNat n) (laneNat s (opcOf r) n) { st := s, lanes := [], accs := [] } q
    else atomSend (atomFar r) fn n (laneNat s d.toNat n) (laneNat s (opcOf r) n) { st := s, lanes := [], accs := [] } q := by
  obtain ⟨hlane, htgt⟩ := readyOf_singleton hq
  rw [atomRunOf, hq, atomLanes_singleton]
  exact atomLane_of_ready hlane htgt rfl

/-- The access of one lane that is performed at its home. -/
theorem exists_home_access (hq : readyOf m r [l] s = [q]) (hh : atHome (atomFar r) q = true)
    (hrun : atomRunOf fn n r d m [l] s = some y) :
    ∃ z ∈ y.st.net, z.line = q.place.pa / 128 ∧ z.op = .atomic fn n (q.place.pa % 128)
      (BitVec.ofNat 64 (laneNat s d.toNat n q.lane)) (BitVec.ofNat 64 (laneNat s (opcOf r) n q.lane)) := by
  rw [atomRunOf_ready hq, hh, Bool.not_true, Bool.false_and, if_neg Bool.false_ne_true] at hrun
  obtain ⟨z, hz, hline, -, hop, -⟩ := exists_mem_atomSend hrun
  exact ⟨z, hz, hline, hop hh⟩

/-- The fill of one lane that waits for its line. -/
theorem exists_fill_access (hq : readyOf m r [l] s = [q]) (hh : atHome (atomFar r) q = false) (hmiss : isHit atomHow q n s = false)
    (hrun : atomRunOf fn n r d m [l] s = some y) :
    ∃ z ∈ y.st.net, z.line = q.place.pa / 128 ∧ z.back = false ∧ (∃ e, z.op = .read e) ∧ z.use = .atom fn n (q.place.pa % 128)
      (BitVec.ofNat 64 (laneNat s d.toNat n q.lane)) (BitVec.ofNat 64 (laneNat s (opcOf r) n q.lane)) := by
  rw [atomRunOf_ready hq, hmiss, Bool.and_false, if_neg Bool.false_ne_true] at hrun
  obtain ⟨z, hz, hline, hback, -, hop⟩ := exists_mem_atomSend hrun
  exact ⟨z, hz, hline, hback, hop hh⟩

/-- What one lane on a line of L1 leaves. -/
theorem held_of_hit (hq : readyOf m r [l] s = [q]) (hh : atHome (atomFar r) q = false) (hhit : isHit atomHow q n s = true)
    (hrun : atomRunOf fn n r d m [l] s = some y) :
    y.lanes.map (fun x => (x.lane, x.fixed)) = [(q.lane, byteCells 0 (leBytes n (heldNat n q s)))] ∧
      if fn = 12 then y.st.cores = s.cores ∧ y.st.net = s.net
      else ∃ u, putDirty s.crew.core s.crew.cid q.trk q.place.key q.place.vault false q.place.pa
        (leBytes n (atomNew fn n (heldNat n q s) (laneNat s d.toNat n q.lane) (laneNat s (opcOf r) n q.lane))) s = some u ∧
          y.st.cores = u.cores ∧ y.st.net = u.net := by
  rw [atomRunOf_ready hq, hh, hhit, Bool.not_false, Bool.and_self, if_pos rfl] at hrun
  obtain ⟨hlanes, hst⟩ := atomHit_eq_some hrun
  refine ⟨congrArg (List.map _) hlanes, ?_⟩
  split
  · next hfn =>
    rw [if_pos hfn] at hst
    exact ⟨congrArg State.cores hst, congrArg State.net hst⟩
  · next hfn =>
    rw [if_neg hfn] at hst
    exact ⟨_, hst, rfl, rfl⟩

/-- No lane touches a barrier word or hits a poisoned word. -/
def AtomSafe (n : Nat) (r : Run) (m : Form) (accs : List LaneAcc) (s : State) : Prop :=
  (scratchOf accs).any (fun x => touchesBar s.crew x.2 n) = false ∧
    ∀ q ∈ readyOf m r accs s, atomFar r = false → q.place.tso = false → isHit atomHow q n s = true →
      poisonedL1 s (q.place.pa / 128) (q.place.pa % 128) n = false

/-- An atomic that is safe waits where its lanes find no room, and issues where they do. -/
theorem issueAtom_of_safe (h : AtomSafe n r m accs s) :
    (atomRunOf fn n r d m accs s = none → issueAtom fn n r d m accs s = hold s) ∧
    ∀ x, atomRunOf fn n r d m accs s = some x → AtomIssued fn n r d x s (issueAtom fn n r d m accs s) := by
  obtain ⟨hbar, hpoison⟩ := h
  have hclean : ¬ (readyOf m r accs s).any (fun q => !atomFar r && !q.place.tso && isHit atomHow q n s &&
      poisonedL1 s (q.place.pa / 128) (q.place.pa % 128) n) = true := by
    rw [List.any_eq_true]
    rintro ⟨q, hq, hbad⟩
    simp only [Bool.and_eq_true, Bool.not_eq_true'] at hbad
    obtain ⟨⟨⟨hfar, htso⟩, hhit⟩, hmark⟩ := hbad
    exact Bool.false_ne_true ((hpoison q hq hfar htso hhit).symm.trans hmark)
  unfold atomRunOf issueAtom; dsimp only
  rw [if_neg (by simp [hbar]), if_neg hclean]
  refine ⟨fun hrun => by rw [hrun], fun x hrun => ?_⟩
  have hframe := atomLanes_frame _ _ _ _ _ _ _ _ _ hrun
  have hpart : x.st.part = s.part := hframe.part
  have hnow : now x.st = now s := hframe.now_eq
  rw [hrun]
  exact {
    moved := ⟨(congrArg (fun p : Part => p.pc + BitVec.ofNat 64 (4 * unitWords r)) hpart :),
      (congrArg (· + max 1 (stallOf r + 1)) hnow :), rfl, (congrArg (fun p : Part => p.issued + 1) hpart :)⟩
    regs := (congrArg Part.s hpart :)
    exm := (congrArg Part.exm hpart :)
    wave := hframe.wave
    memsys := hframe.memsys
    stores := (List.length_append ..).trans (congrArg (fun l : List PStore => l.length + 1) hframe.stores :)
    scratch := rfl
    cores := rfl
    net := rfl
    load := ⟨_, (congrArg (fun p : Part => if fn = 13 then p.loads else p.loads ++ [_]) hpart :), rfl, rfl, rfl, rfl⟩ }

/-- The form of an atomic's accesses. -/
abbrev atomForm (fn : Nat) (r : Run) : Form := { size := atomSize fn r, scalar := false, rd := true, wr := true }

/-- An atomic without REL whose checks pass and whose lanes are granted goes on to its lanes. -/
theorem exec_atom_of_clear (hx : ∀ s, exec i s = atom fn mods cas r d a b s) (hr : ready (opAtom fn mods cas r d a b) s = true)
    (hexm : s.part.exm ≠ 0#64) (hacq : acquiring s = false) (hrel : modField r 19 19 = 0)
    (hc : accessClear (atomForm fn r) (laneAddrs r a b (Nat.log2 (atomSize fn r)) s) s = true)
    (hg : accessGranted (atomForm fn r) (laneAddrs r a b (Nat.log2 (atomSize fn r)) s) s = true) :
    exec i s = .next (issueAtom fn (atomSize fn r) r d (atomForm fn r)
      (accsOf (atomForm fn r) (laneAddrs r a b (Nat.log2 (atomSize fn r)) s) s) s) := by
  have hruns := runsChecked_of_vector (r := r) (lanes := laneAddrs r a b (Nat.log2 (atomSize fn r))) (hx s) rfl rfl
  refine (hruns.exec_of_clear hr (.inr hexm) (fun _ => hacq) hc).trans (congrArg _ ?_)
  have hfail : failing _ _ s = [] := List.isEmpty_iff.1 hg
  simp only [hfail, hrel, Nat.zero_ne_one, if_false]

/-! ### The obligation -/

/-- Settles O31: the run of the lanes by `issueAtom_of_safe`; the lane of a run of one by the place where it is performed. -/
theorem atomicsIssue : Obligations.AtomicsIssue := by
  intro r d a b s hrel hacq hexm at_
  have hatom : ∀ i fn mods cas, (∀ s, exec i s = atom fn mods cas r d a b s) → at_ i fn mods cas := by
    intro i fn mods cas hx
    dsimp only [at_]
    intro hc hg hbar hpoison hr
    have hexec := exec_atom_of_clear hx hr hexm hacq hrel hc hg
    obtain ⟨hblocked, hissues⟩ := issueAtom_of_safe (fn := fn) (d := d) ⟨hbar, hpoison⟩
    refine ⟨fun hrun => hexec.trans (congrArg _ (hblocked hrun)), fun hsome => ?_⟩
    obtain ⟨y, hrun⟩ := Option.isSome_iff_exists.1 hsome
    have hissued := hissues y hrun
    obtain ⟨ld, hloads, hkind, hreg, hldacq, hlanes⟩ := hissued.load
    refine ⟨_, hexec, hissued.moved, hissued.regs, hissued.exm, hissued.wave, hissued.memsys, hissued.stores, ld, hloads, hkind,
      hreg, hldacq, fun l hl => ?_⟩
    rw [hissued.scratch, hissued.cores, hissued.net, hlanes, hl]
    replace hrun : atomRunOf _ _ _ _ _ _ _ = _ := hrun
    rw [hl] at hrun
    refine ⟨fun o ho => ?scratch, fun q hq => ?ready⟩
    case scratch =>
      rw [atomRunOf_scratch ho] at hrun
      cases hrun
      exact ⟨rfl, atomScratch_scratch _⟩
    case ready =>
      have hnear : (!atomFar r && !q.place.tso && !remoteLine (q.place.pa / 128)) = !atHome (atomFar r) q := by
        simp only [atHome, Bool.not_or]
      rw [hnear, Bool.not_eq_eq_eq_not, Bool.not_eq_eq_eq_not]
      exact ⟨fun hfar => exists_home_access hq hfar hrun, fun hnear hhit => held_of_hit hq hnear hhit hrun,
        fun hnear hmiss => exists_fill_access hq hnear hmiss hrun⟩
  exact ⟨hatom _ _ _ _ (exec_aadd r d a b), hatom _ _ _ _ (exec_aand r d a b), hatom _ _ _ _ (exec_aor r d a b),
    hatom _ _ _ _ (exec_axor r d a b), hatom _ _ _ _ (exec_amin r d a b), hatom _ _ _ _ (exec_amax r d a b),
    hatom _ _ _ _ (exec_aminn r d a b), hatom _ _ _ _ (exec_amaxn r d a b), hatom _ _ _ _ (exec_axch r d a b),
    hatom _ _ _ _ (exec_acas r d a b), hatom _ _ _ _ (exec_aaddf r d a b), hatom _ _ _ _ (exec_aincw r d a b),
    hatom _ _ _ _ (exec_ald r d a b), hatom _ _ _ _ (exec_ast r d a b)⟩

end Sys2Proof.Machine
end

section
/-! PROOFS of O32, trackers, DRAINST and FENCE. A TRKSET or TRKCLR changes its tracker and no other state; a FENCE runs its
release, which finds nothing to do (`releaseThen_of_clear`) or waits (`releaseThen_of_pending`), and then its acquire. -/

set_option Elab.async false

namespace Sys2Proof.Machine

variable {o : Op} {r : Run} {a b : BitVec 7} {s : State} {mask scope : Nat}

/-! ### Stores accepted (R162, R184, R211) -/

/-- A ready unit has no store fault to take. -/
theorem fault_of_ready (h : ready o s = true) : ¬ (s.part.fault.isSome = true ∧ s.part.state ≠ .trapped) := by
  simp only [ready, clear, Bool.and_eq_true, Bool.or_eq_true, Option.isNone_iff_eq_none, beq_iff_eq] at h
  obtain ⟨⟨⟨⟨⟨⟨⟨-, hf⟩, -⟩, -⟩, -⟩, -⟩, -⟩, -⟩ := h
  rintro ⟨hs, hn⟩
  rcases hf with hf | hf
  · simp [hf] at hs
  · exact hn hf

theorem reportAll_of_no_fault (h : ∀ x ∈ ownStores s, x.fault = none) : reportAll s = s :=
  foldl_same _ _ _ fun x hx => by simp only [h x hx]

theorem reportAll_of_accepted (hs : ownStores s = []) : reportAll s = s := reportAll_of_no_fault (by simp [hs])

theorem drainBy_of_accepted (hr : ready o s = true) (hs : ownStores s = []) (wait f : State → State) :
    drainBy wait r f s = f s := by
  simp only [drainBy, reportAll_of_accepted hs, hs, if_neg (fault_of_ready hr), List.isEmpty_nil, if_true]

theorem drainBy_of_pending (hr : ready o s = true) (hs : ownStores s ≠ []) (hf : ∀ x ∈ ownStores s, x.fault = none)
    (wait f : State → State) : drainBy wait r f s = wait s := by
  have hempty : ¬ (ownStores s).isEmpty = true := by simpa using hs
  simp only [drainBy, reportAll_of_no_fault hf, if_neg (fault_of_ready hr), if_neg hempty]

theorem unanswered_of_accepted (hs : ownStores s = []) (p : PStore → Bool) : unanswered p s = false := by
  rw [unanswered, hs, List.any_nil]

theorem faultsFirst_of_accepted (hr : ready o s = true) (hs : ownStores s = []) (f : State → State) :
    faultsFirst r f s = f s := by
  simp only [faultsFirst, reportAll_of_accepted hs, if_neg (fault_of_ready hr), unanswered_of_accepted hs,
    Bool.false_eq_true, and_false, if_false]

/-- Stores that have not faulted hold a unit until their peers have answered, or let it go on. -/
theorem faultsFirst_of_no_fault (hr : ready o s = true) (hf : ∀ x ∈ ownStores s, x.fault = none) (f : State → State) :
    faultsFirst r f s = hold s ∨ faultsFirst r f s = f s := by
  simp only [faultsFirst, reportAll_of_no_fault hf, if_neg (fault_of_ready hr)]
  split
  · exact .inl rfl
  · exact .inr rfl

/-! ### Releases and acquires (R211, R212) -/

/-- A release that finds nothing to do goes on at once. -/
theorem releaseThen_of_clear (hr : ready o s = true) (hs : ownStores s = []) (hrel : s.part.relDone = false)
    (hc : releaseClear mask scope s = true) (f : State → State) : releaseThen r mask scope f s = f s := by
  simp only [releaseClear, Bool.and_eq_true, List.isEmpty_iff] at hc
  obtain ⟨hlines, hreleased⟩ := hc
  simp only [releaseThen, hrel, Bool.false_eq_true, if_false, drainBy_of_accepted hr hs, hlines, List.map_nil, roomFor,
    List.all_nil, Bool.not_true, writeDowns, hreleased, if_true]

theorem releaseThen_of_pending (hr : ready o s = true) (hs : ownStores s ≠ []) (hf : ∀ x ∈ ownStores s, x.fault = none)
    (hrel : s.part.relDone = false) (f : State → State) : releaseThen r mask scope f s = hold s :=
  (if_neg (by simp [hrel])).trans (drainBy_of_pending hr hs hf ..)

theorem acquireThen_of_idle (h : s.part.loads = []) (f : State → State) : acquireThen f s = f s := if_pos h

theorem acquireThen_of_loading (h : s.part.loads ≠ []) (f : State → State) : acquireThen f s = hold s := if_neg h

/-! ### FENCE (R210) -/

/-- Whether a FENCE acquires, and whether it releases: both without a MOD hint. -/
def fenceAcq (r : Run) : Bool := !hasMod r || modField r 18 18 == 1
def fenceRel (r : Run) : Bool := !hasMod r || modField r 19 19 == 1

/-- The scope of a FENCE, and its tracker mask. -/
def fenceScope (r : Run) : Nat := if hasMod r then scopeOf r else 4
def fenceMask (r : Run) (a : BitVec 7) (s : State) : Nat := (payload r 0).getD (bfield (sreg s a) 15 0)

/-- A FENCE whose release has nothing to do comes to its acquire. -/
theorem exec_fence_of_released (hr : ready (opFence r a) s = true) (hs : ownStores s = []) (hrel : s.part.relDone = false)
    (hc : fenceRel r = true → releaseClear (fenceMask r a s) (fenceScope r) s = true) :
    exec (.fence r a) s = .next (if fenceAcq r then acquireThen (done r) s else done r s) := by
  refine exec_of_ready (exec_fence r a) hr ((faultsFirst_of_accepted hr hs _).trans ?_)
  by_cases h : fenceRel r = true
  · exact (if_pos h).trans (releaseThen_of_clear hr hs hrel (hc h) _)
  · exact if_neg h

theorem exec_fence_of_idle (hr : ready (opFence r a) s = true) (hs : ownStores s = []) (hrel : s.part.relDone = false)
    (hc : fenceRel r = true → releaseClear (fenceMask r a s) (fenceScope r) s = true)
    (hl : fenceAcq r = true → s.part.loads = []) : exec (.fence r a) s = .next (done r s) := by
  refine (exec_fence_of_released hr hs hrel hc).trans (congrArg _ ?_)
  by_cases h : fenceAcq r = true
  · exact (if_pos h).trans (acquireThen_of_idle (hl h) _)
  · exact if_neg h

theorem exec_fence_of_loading (hr : ready (opFence r a) s = true) (hs : ownStores s = []) (hrel : s.part.relDone = false)
    (hc : fenceRel r = true → releaseClear (fenceMask r a s) (fenceScope r) s = true) (hq : fenceAcq r = true)
    (hl : s.part.loads ≠ []) : exec (.fence r a) s = .next (hold s) :=
  (exec_fence_of_released hr hs hrel hc).trans (congrArg _ ((if_pos hq).trans (acquireThen_of_loading hl _)))

theorem exec_fence_of_pending (hr : ready (opFence r a) s = true) (h : fenceRel r = true) (hrel : s.part.relDone = false)
    (hs : ownStores s ≠ []) (hf : ∀ x ∈ ownStores s, x.fault = none) : exec (.fence r a) s = .next (hold s) := by
  refine exec_of_ready (exec_fence r a) hr ?_
  rcases faultsFirst_of_no_fault hr hf _ with hfirst | hfirst
  · exact hfirst
  · exact hfirst.trans ((if_pos h).trans (releaseThen_of_pending hr hs hf hrel _))

/-! ### The obligation -/

/-- Settles O32: each unit on trackers is its meaning in the window of its address; a FENCE ends as `exec_fence_of_idle`,
`exec_fence_of_loading` and `exec_fence_of_pending` say. -/
theorem trackersAndFences : Obligations.TrackersAndFences := by
  refine ⟨fun r t a b => ⟨?global, ?vault, ?astray, ?handle, ?clear⟩,
    fun r a => ⟨?drainst, ?fence, ?loading, ?pending⟩⟩
  case global => exact stateUnit_of_eq (exec_trkset r t a b) fun s hs => by simp only [hs]; rfl
  case vault => exact stateUnit_of_eq (exec_trkset r t a b) fun s hs => by simp only [hs]; rfl
  case astray =>
    intro s hr h0 hFC
    refine exec_of_ready (exec_trkset r t a b) hr ?_
    split
    · next h => exact absurd h h0
    · next h => exact absurd h hFC
    · rfl
  case handle => exact stateUnit_of_eq (exec_trksetH r t a) fun _ _ => rfl
  case clear => exact stateUnit_of_eq (exec_trkclr r t) fun _ _ => rfl
  case drainst => exact fun s hr hs => exec_of_ready (exec_drainst r) hr (drainBy_of_accepted hr hs ..)
  case fence =>
    rintro s hr ⟨⟨hs, hrel⟩, hc, hl⟩
    exact exec_fence_of_idle hr hs hrel hc hl
  case loading =>
    rintro s hr ⟨hs, hrel⟩ hc hq hl
    exact exec_fence_of_loading hr hs hrel hc hq hl
  case pending => exact fun s hr h hrel hs hf => exec_fence_of_pending hr h hrel hs hf

end Sys2Proof.Machine
end

section
/-! PROOFS of O33 and O34, WAITA and the barrier instructions. A barrier word that is written reads back field by field
(`toNat_barWord`), which gives the phase and the count after an arrival; each unit first looks for its word (`RunsAtWord`) and
then acts on it, or waits there as `phaseWait` says. -/

set_option Elab.async false

namespace Sys2Proof.Machine

variable {i : Instr} {o : Op} {r : Run} {d a b : BitVec 7} {s t : State} {n k off : Nat} {bs : List Byte} {c : Crew}

/-! ### The word at an offset (R214, R215) -/

theorem wordAt_of_misaligned {x : W64} {f : Nat → State → State} (hp : scratchPending s = false) (hx : x &&& 7#64 ≠ 0#64) :
    wordAt r x f s = misaligned 8 x r s := by
  simp [wordAt, hp, hx]

theorem wordAt_of_outside {x : W64} {f : Nat → State → State} (hp : scratchPending s = false) (hx : x &&& 7#64 = 0#64)
    (ho : s.crew.scr < x.toNat + 8) : wordAt r x f s = aperture x s := by
  simp [wordAt, hp, hx, ho]

/-- `a` names an aligned word of the reservation, a barrier word as `bar` says, and no atomic of the part has still to be
performed at the scratchpad. -/
def AtWord (a : BitVec 7) (bar : Bool) (s : State) : Prop :=
  scratchPending s = false ∧ sreg s a &&& 7#64 = 0#64 ∧ (sreg s a).toNat + 8 ≤ s.crew.scr ∧ isBar s (sreg s a).toNat = bar

theorem AtWord.isBar_eq {bar : Bool} (h : AtWord a bar s) : isBar s (sreg s a).toNat = bar := by
  obtain ⟨-, -, -, hbar⟩ := h
  exact hbar

theorem wordAt_of_atWord {bar : Bool} (h : AtWord a bar s) (f : Nat → State → State) :
    wordAt r (sreg s a) f s = f (sreg s a).toNat s := by
  obtain ⟨hp, hx, hi, -⟩ := h
  exact wordAt_of_inside hp hx hi

/-! ### Units that name a word (R215) -/

/-- The part is not inside a BARWAIT or a BARC. -/
def NotWaiting (s : State) : Prop := ∀ n k g, s.part.wait ≠ .barw n k ∧ s.part.wait ≠ .barc n k g

/-- Instruction `i` looks for its word at s[A] and goes on as `f` says there. -/
def RunsAtWord (i : Instr) (r : Run) (a : BitVec 7) (f : Nat → State → State) (s : State) : Prop :=
  exec i s = .next (wordAt r (sreg s a) f s)

section
variable {f : Nat → State → State}

theorem RunsAtWord.exec_of_atWord {bar : Bool} (h : RunsAtWord i r a f s) (hw : AtWord a bar s) :
    exec i s = .next (f (sreg s a).toNat s) := h.trans (congrArg _ (wordAt_of_atWord hw f))

/-- A word that is not aligned traps, and one outside the reservation is an aperture fault. -/
theorem RunsAtWord.stops (h : RunsAtWord i r a f s) (hp : scratchPending s = false) :
    (sreg s a &&& 7#64 ≠ 0#64 → exec i s = .next (misaligned 8 (sreg s a) r s)) ∧
    (sreg s a &&& 7#64 = 0#64 → s.crew.scr < (sreg s a).toNat + 8 → exec i s = .next (aperture (sreg s a) s)) :=
  ⟨fun hx => h.trans (congrArg _ (wordAt_of_misaligned hp hx)), fun hx ho => h.trans (congrArg _ (wordAt_of_outside hp hx ho))⟩

end

/-! ### WAITA (R214) -/

/-- A WAITA that begins at a word of the reservation makes its first test. -/
theorem exec_waita_of_new (hr : ready (opWaita r d a b) s = true) (hrel : s.part.relDone = false) (hw : s.part.wait = .none)
    (hp : scratchPending s = false) (hx : sreg s a &&& 7#64 = 0#64) (hi : (sreg s a).toNat + 8 ≤ s.crew.scr) :
    exec (.waita r d a b) s = .next (waitTest r d
      (waitHolds ((widthHint r).getD 0) (scrWord s (sreg s a).toNat) (sreg s b)) (now s + bfield (rdS s (opcOf r)) 31 0) s) := by
  refine exec_of_ready (exec_waita r d a b) hr ((wordAt_of_inside hp hx hi).trans ?_)
  simp only [hrel, hw, Bool.false_or]

section
variable {ok : Bool}

theorem waitTest_of_met (h : ok = true) (hl : s.part.loads = []) : waitTest r d ok n s = done r (wrS 0 d.toNat 1#64 s) :=
  (if_pos h).trans (if_pos hl)

theorem waitTest_of_acquiring (h : ok = true) (hl : s.part.loads ≠ []) :
    waitTest r d ok n s = { s with part := { s.part with wait := .retry, relDone := true } } := (if_pos h).trans (if_neg hl)

theorem waitTest_of_late (h : ok = false) (hn : n ≤ now s) : waitTest r d ok n s = done r (wrS 0 d.toNat 0#64 s) :=
  (if_neg (ne_true_of_eq_false h)).trans (if_pos hn)

theorem waitTest_of_early (h : ok = false) (hn : now s < n) :
    waitTest r d ok n s = { s with part := { s.part with wait := .waita n } } :=
  (if_neg (ne_true_of_eq_false h)).trans (if_neg (Nat.not_le.2 hn))

end

theorem waita_runsAtWord (hr : ready (opWaita r d a b) s = true) :
    ∃ f, RunsAtWord (.waita r d a b) r a f s := ⟨_, exec_of_ready (exec_waita r d a b) hr rfl⟩

/-! ### The fields of a barrier word (R179) -/

theorem length_leBytes : ∀ n x : Nat, (leBytes n x).length = n
  | 0, _ => rfl
  | n + 1, x => congrArg (· + 1) (length_leBytes n (x / 256))

/-- The bytes of a number from the `k`-th on are those of its part from there. -/
theorem leNat_take_drop_leBytes : ∀ n k m x : Nat, k + m ≤ n →
    leNat (((leBytes n x).drop k).take m) = x / 256 ^ k % 256 ^ m
  | n, 0, 0, x, _ => by simp [leNat, Nat.mod_one]
  | n + 1, 0, m + 1, x, h => by
    have ih := leNat_take_drop_leBytes n 0 m (x / 256) (by omega)
    simp only [leBytes, List.drop_zero, List.take_succ_cons, leNat, Nat.pow_zero, Nat.div_one] at ih ⊢
    rw [ih, Nat.pow_succ', Nat.mod_mul, BitVec.toNat_ofNat]
  | 0, k + 1, m, x, h => by omega
  | n + 1, k + 1, m, x, h => by
    have ih := leNat_take_drop_leBytes n k m (x / 256) (by omega)
    rw [leBytes, List.drop_succ_cons, ih, Nat.pow_succ', Nat.div_div_eq_div_mul]

/-- Bytes within those written to the scratchpad read back. -/
theorem scrRead_scrWrite_within (h : k + n ≤ bs.length) : scrRead (scrWrite off bs c) (off + k) n = (bs.drop k).take n := by
  have hlen : (scrRead (scrWrite off bs c) (off + k) n).length = n := cgetList_length ..
  refine List.ext_getElem (by rw [hlen, List.length_take, List.length_drop]; omega) fun j hj _ => ?_
  rw [hlen] at hj
  have hk : off + k + j - off = k + j := by omega
  simp only [scrRead, cgetList, List.getElem_map, List.getElem_range, List.getElem_take, List.getElem_drop]
  rw [scratch_scrWrite, if_pos ⟨by omega, by omega⟩, hk, List.getElem?_eq_getElem (by omega), Option.getD_some]

/-- A 16-bit field of a word written to the scratchpad. -/
theorem scrNat_scrWrite_bytes64 (x : W64) (h : k + 2 ≤ 8) :
    scrNat (scrWrite off (bytes64 x) c) (off + k) 2 = x.toNat / 256 ^ k % 2 ^ 16 := by
  have hlen : k + 2 ≤ (bytes64 x).length := by rw [bytes64, length_leBytes]; exact h
  rw [scrNat, scrRead_scrWrite_within hlen]
  exact leNat_take_drop_leBytes 8 k 2 x.toNat h

theorem toNat_barWord (p e n : Nat) :
    (barWord p e n).toNat = p % 2 ^ 16 * 2 ^ 48 + e % 2 ^ 10 * 2 ^ 32 + n % 2 ^ 10 * 2 ^ 16 := by
  rw [barWord, BitVec.toNat_ofNat]
  omega

theorem barPhase_scrWrite_barWord (p e n : Nat) : barPhase (scrWrite off (bytes64 (barWord p e n)) c) off = p % 2 ^ 16 := by
  rw [barPhase, scrNat_scrWrite_bytes64 _ (by decide), toNat_barWord]
  omega

theorem barExpect_scrWrite_barWord (p e n : Nat) : barExpect (scrWrite off (bytes64 (barWord p e n)) c) off = e % 2 ^ 10 := by
  rw [barExpect, scrNat_scrWrite_bytes64 _ (by decide), toNat_barWord]
  omega

theorem barArrived_scrWrite_barWord (p e n : Nat) :
    barArrived (scrWrite off (bytes64 (barWord p e n)) c) off = n % 2 ^ 10 := by
  rw [barArrived, scrNat_scrWrite_bytes64 _ (by decide), toNat_barWord]
  omega

theorem barPhase_lt (c : Crew) (off : Nat) : barPhase c off < 2 ^ 16 := by
  have h : ∀ x y : Byte, leNat [x, y] < 2 ^ 16 := fun x y => by simp only [leNat]; omega
  exact h _ _

theorem barExpect_lt (c : Crew) (off : Nat) : barExpect c off < 2 ^ 10 := Nat.mod_lt _ (by decide)

@[simp] theorem barPhase_setBitmap (m : Nat) : barPhase (setBitmap off m c) k = barPhase c k := rfl
@[simp] theorem barExpect_setBitmap (m : Nat) : barExpect (setBitmap off m c) k = barExpect c k := rfl
@[simp] theorem barArrived_setBitmap (m : Nat) : barArrived (setBitmap off m c) k = barArrived c k := rfl

/-! ### Phases (R217) -/

theorem phaseCheck_of_reached {exited : Nat} (h : barExpect c off ≤ barArrived c off) :
    phaseCheck off exited c = setBitmap off exited (scrWrite off
      (bytes64 (barWord (barPhase c off + 1) (barExpect c off) (crewQuads exited).length)) c) := if_pos h

theorem phaseCheck_of_short {exited : Nat} (h : barArrived c off < barExpect c off) : phaseCheck off exited c = c :=
  if_neg (Nat.not_le.2 h)

/-- The arrival bitmap of a barrier word. -/
def arrivals (off : Nat) (c : Crew) : Nat := ((c.bars.find? (fun b => b.off == off)).map (·.bitmap)).getD 0

/-- The quads of a list that have not arrived at a barrier word in its phase. -/
def freshQuads (off : Nat) (quads : List Nat) (c : Crew) : List Nat := quads.filter (fun q => !(arrivals off c).testBit q)

/-- A barrier word and its bitmap with quads recorded, before the phase is looked at. -/
def recordQuads (off : Nat) (quads : List Nat) (c : Crew) : Crew :=
  setBitmap off ((freshQuads off quads c).foldl (fun m q => m + 2 ^ q) (arrivals off c))
    (scrWrite off (bytes64 (barWord (barPhase c off) (barExpect c off)
      (barArrived c off + (freshQuads off quads c).length))) c)

theorem barArrive_eq (off : Nat) (quads : List Nat) (exited : Nat) (c : Crew) :
    barArrive off quads exited c = phaseCheck off exited (recordQuads off quads c) := rfl

theorem barPhase_recordQuads (quads : List Nat) : barPhase (recordQuads off quads c) off = barPhase c off := by
  rw [recordQuads, barPhase_setBitmap, barPhase_scrWrite_barWord, Nat.mod_eq_of_lt (barPhase_lt ..)]

theorem barExpect_recordQuads (quads : List Nat) : barExpect (recordQuads off quads c) off = barExpect c off := by
  rw [recordQuads, barExpect_setBitmap, barExpect_scrWrite_barWord, Nat.mod_eq_of_lt (barExpect_lt ..)]

theorem barArrived_recordQuads {quads : List Nat} (h : barArrived c off + (freshQuads off quads c).length < 1024) :
    barArrived (recordQuads off quads c) off = barArrived c off + (freshQuads off quads c).length := by
  rw [recordQuads, barArrived_setBitmap, barArrived_scrWrite_barWord]
  exact Nat.mod_eq_of_lt h

/-- Quads that leave ARRIVED short of EXPECT are counted. -/
theorem barArrive_of_short {quads : List Nat} (exited : Nat)
    (hn : barArrived c off + (freshQuads off quads c).length < 1024)
    (h : barArrived c off + (freshQuads off quads c).length < barExpect c off) :
    barArrive off quads exited c = recordQuads off quads c := by
  rw [barArrive_eq, phaseCheck_of_short]
  rwa [barArrived_recordQuads hn, barExpect_recordQuads]

/-- Quads with which ARRIVED reaches EXPECT complete the phase. -/
theorem barArrive_of_reached {quads : List Nat} (exited : Nat)
    (hn : barArrived c off + (freshQuads off quads c).length < 1024)
    (h : barExpect c off ≤ barArrived c off + (freshQuads off quads c).length) :
    barArrive off quads exited c = setBitmap off exited (scrWrite off (bytes64 (barWord (barPhase c off + 1)
      (barExpect c off) (crewQuads exited).length)) (recordQuads off quads c)) := by
  rw [barArrive_eq, phaseCheck_of_reached, barPhase_recordQuads, barExpect_recordQuads]
  rwa [barArrived_recordQuads hn, barExpect_recordQuads]

/-! ### Waits for a phase (R218) -/

theorem phaseWait_of_passed {w : Wait} (hp : inPhase s.crew off n = false) (hl : s.part.loads = []) :
    phaseWait r w off n s = done r s := by
  simp [phaseWait, hp, hl]

theorem phaseWait_of_inPhase {w : Wait} (hrel : s.part.relDone = false) (hp : inPhase s.crew off n = true) :
    phaseWait r w off n s = { s with part := { s.part with wait := w } } := by
  obtain ⟨⟩ := s
  simp_all [phaseWait]

theorem inPhase_of_isBar (h : isBar s off = true) : inPhase s.crew off n = (barPhase s.crew off == n) := by
  rw [inPhase, show s.crew.bars.any (fun b => b.off == off) = true from h, Bool.true_and]

/-! ### Arrivals (R217) -/

/-- The part in focus has arrived at a barrier word, with the phase of its arrival in `d` (R217). -/
def arrivedAt (d : BitVec 7) (off : Nat) (s : State) : State :=
  wrS 0 d.toNat (BitVec.ofNat 64 (barPhase s.crew off))
    { s with crew := barArrive off (ownQuads s) (crewExited s) s.crew }

theorem arriveThen_of_accepted (hr : ready o s = true) (hs : ownStores s = []) (f : Nat → State → State) :
    arriveThen r off f s = f (barPhase s.crew off) { s with crew := barArrive off (ownQuads s) (crewExited s) s.crew } :=
  drainBy_of_accepted hr hs ..

theorem arrivedAt_loads (d : BitVec 7) (off : Nat) (s : State) : (arrivedAt d off s).part.loads = s.part.loads := by
  rw [arrivedAt, wrS_zero]

theorem arrivedAt_relDone (d : BitVec 7) (off : Nat) (s : State) : (arrivedAt d off s).part.relDone = s.part.relDone := by
  rw [arrivedAt, wrS_zero]

/-! ### What the barrier units do at their word (R215 to R219) -/

/-- What a BARWAIT that begins does at its word (R218). -/
def barwaitAt (r : Run) (b : BitVec 7) (off : Nat) (s : State) : State :=
  if isBar s off then phaseWait r (.barw off (bfield (sreg s b) 15 0)) off (bfield (sreg s b) 15 0) s else barrierKill s

/-- What a BARC that begins does at its word (R218). -/
def barcAt (r : Run) (d : BitVec 7) (off : Nat) (s : State) : State :=
  if isBar s off then
    arriveThen r off (fun ph t => phaseWait r (.barc off ph true) off ph (wrS 0 d.toNat (BitVec.ofNat 64 ph) t)) s
  else barrierKill s

theorem barwait_runsAtWord (hr : ready (opSync 7 r 0#7 a b true [srcS a, srcS b]) s = true) (hn : NotWaiting s) :
    RunsAtWord (.barwait r a b) r a (barwaitAt r b) s := by
  refine exec_of_ready (exec_barwait r a b) hr ?_
  split
  · next n k hw => exact absurd hw (hn n k false).1
  · rfl

theorem barc_runsAtWord (hr : ready (opSync 8 r d a 0#7 true [srcS a, dstS d]) s = true) (hn : NotWaiting s) :
    RunsAtWord (.barc r d a) r a (barcAt r d) s := by
  refine exec_of_ready (exec_barc r d a) hr ?_
  split
  · next n k g hw => exact absurd hw (hn n k g).2
  · rfl

theorem bardef_runsAtWord (hr : ready (opSync 5 r 0#7 a b true [srcS a, srcS b]) s = true) :
    ∃ f, RunsAtWord (.bardef r a b) r a f s := ⟨_, exec_of_ready (exec_bardef r a b) hr rfl⟩

theorem bararr_runsAtWord (hr : ready (opSync 6 r d a 0#7 true [srcS a, dstS d]) s = true) :
    ∃ f, RunsAtWord (.bararr r d a) r a f s := ⟨_, exec_of_ready (exec_bararr r d a) hr rfl⟩

theorem barinv_runsAtWord (hr : ready (opSync 9 r 0#7 a 0#7 true [srcS a]) s = true) :
    ∃ f, RunsAtWord (.barinv r a) r a f s := ⟨_, exec_of_ready (exec_barinv r a) hr rfl⟩

/-! ### BARDEF and BARARR (R216, R217) -/

/-- The crew with a new barrier word of `n` quads in phase 0 (R216). -/
def defineBar (off n exited : Nat) (c : Crew) : Crew :=
  phaseCheck off exited (scrWrite off (bytes64 (barWord 0 n (crewQuads exited).length))
    { c with bars := c.bars ++ [{ off := off, bitmap := exited }] })

theorem exec_bardef_of_free (hr : ready (opSync 5 r 0#7 a b true [srcS a, srcS b]) s = true) (hw : AtWord a false s)
    (hlo : 1 ≤ (sreg s b).toNat) (hhi : (sreg s b).toNat ≤ 512) (hb : s.crew.bars.length < 16) :
    exec (.bardef r a b) s =
      .next (done r { s with crew := defineBar (sreg s a).toNat (sreg s b).toNat (crewExited s) s.crew }) := by
  refine exec_of_ready (exec_bardef r a b) hr ((wordAt_of_atWord hw _).trans (if_neg ?_))
  simp only [hw.isBar_eq, Bool.false_or, Bool.or_eq_true, decide_eq_true_eq]
  omega

theorem exec_bardef_of_isBar (hr : ready (opSync 5 r 0#7 a b true [srcS a, srcS b]) s = true) (hw : AtWord a true s) :
    exec (.bardef r a b) s = .next (barrierKill s) :=
  exec_of_ready (exec_bardef r a b) hr ((wordAt_of_atWord hw _).trans (if_pos (by simp [hw.isBar_eq])))

theorem exec_bararr_of_accepted (hr : ready (opSync 6 r d a 0#7 true [srcS a, dstS d]) s = true) (hw : AtWord a true s)
    (hs : ownStores s = []) : exec (.bararr r d a) s = .next (done r (arrivedAt d (sreg s a).toNat s)) :=
  exec_of_ready (exec_bararr r d a) hr
    ((wordAt_of_atWord hw _).trans ((if_pos hw.isBar_eq).trans (arriveThen_of_accepted hr hs _)))

theorem exec_bararr_of_not_isBar (hr : ready (opSync 6 r d a 0#7 true [srcS a, dstS d]) s = true) (hw : AtWord a false s) :
    exec (.bararr r d a) s = .next (barrierKill s) :=
  exec_of_ready (exec_bararr r d a) hr ((wordAt_of_atWord hw _).trans (if_neg (by simp [hw.isBar_eq])))

/-! ### BARWAIT and BARC (R218) -/

theorem exec_barwait_of_isBar (hr : ready (opSync 7 r 0#7 a b true [srcS a, srcS b]) s = true) (hn : NotWaiting s)
    (hw : AtWord a true s) : exec (.barwait r a b) s = .next (phaseWait r (.barw (sreg s a).toNat (bfield (sreg s b) 15 0))
      (sreg s a).toNat (bfield (sreg s b) 15 0) s) :=
  ((barwait_runsAtWord hr hn).exec_of_atWord hw).trans (congrArg _ (if_pos hw.isBar_eq))

theorem exec_barwait_of_not_isBar (hr : ready (opSync 7 r 0#7 a b true [srcS a, srcS b]) s = true) (hn : NotWaiting s)
    (hw : AtWord a false s) : exec (.barwait r a b) s = .next (barrierKill s) :=
  ((barwait_runsAtWord hr hn).exec_of_atWord hw).trans (congrArg _ (if_neg (by simp [hw.isBar_eq])))

theorem exec_barwait_of_inside (hr : ready (opSync 7 r 0#7 a b true [srcS a, srcS b]) s = true)
    (hw : s.part.wait = .barw off n) : exec (.barwait r a b) s = .next (phaseWait r (.barw off n) off n s) :=
  exec_of_ready (exec_barwait r a b) hr (by simp only [hw])

theorem exec_barc_of_accepted (hr : ready (opSync 8 r d a 0#7 true [srcS a, dstS d]) s = true) (hn : NotWaiting s)
    (hw : AtWord a true s) (hs : ownStores s = []) :
    exec (.barc r d a) s = .next (phaseWait r (.barc (sreg s a).toNat (barPhase s.crew (sreg s a).toNat) true)
      (sreg s a).toNat (barPhase s.crew (sreg s a).toNat) (arrivedAt d (sreg s a).toNat s)) :=
  ((barc_runsAtWord hr hn).exec_of_atWord hw).trans
    (congrArg _ ((if_pos hw.isBar_eq).trans (arriveThen_of_accepted hr hs _)))

theorem exec_barc_of_not_isBar (hr : ready (opSync 8 r d a 0#7 true [srcS a, dstS d]) s = true) (hn : NotWaiting s)
    (hw : AtWord a false s) : exec (.barc r d a) s = .next (barrierKill s) :=
  ((barc_runsAtWord hr hn).exec_of_atWord hw).trans (congrArg _ (if_neg (by simp [hw.isBar_eq])))

theorem exec_barc_of_inside {g : Bool} (hr : ready (opSync 8 r d a 0#7 true [srcS a, dstS d]) s = true)
    (hw : s.part.wait = .barc off n g) : exec (.barc r d a) s = .next (phaseWait r (.barc off n true) off n s) :=
  exec_of_ready (exec_barc r d a) hr (by simp only [hw])

/-- A part inside a wait whose phase has not passed stays as it is. -/
theorem phaseWait_of_stays (hrel : s.part.relDone = false) (hp : inPhase s.crew off n = true) :
    phaseWait r s.part.wait off n s = s := phaseWait_of_inPhase hrel hp

/-! ### BARINV (R219) -/

/-- The crew without the tag of a barrier word. -/
def dropBar (off : Nat) (c : Crew) : Crew := { c with bars := c.bars.filter (fun x => x.off != off) }

theorem dropBar_of_not_isBar (h : isBar s off = false) : dropBar off s.crew = s.crew := by
  have hbars : s.crew.bars.filter (fun x => x.off != off) = s.crew.bars :=
    List.filter_eq_self.2 fun x hx => by simpa using List.any_eq_false.1 h x hx
  rw [dropBar, hbars]

/-- Whether another part of the crew waits on a word (R219). -/
def othersWait (off : Nat) (s : State) : Bool := (s.sibs ++ s.waves.flatMap (·.parts)).any (waitsOn s.crew off)

theorem exec_barinv_of_waited {bar : Bool} (hr : ready (opSync 9 r 0#7 a 0#7 true [srcS a]) s = true) (hw : AtWord a bar s)
    (h : (bar && othersWait (sreg s a).toNat s) = true) : exec (.barinv r a) s = .next (barrierKill s) := by
  rw [← hw.isBar_eq] at h
  exact exec_of_ready (exec_barinv r a) hr ((wordAt_of_atWord hw _).trans (if_pos h))

theorem exec_barinv_of_unwaited {bar : Bool} (hr : ready (opSync 9 r 0#7 a 0#7 true [srcS a]) s = true) (hw : AtWord a bar s)
    (h : (bar && othersWait (sreg s a).toNat s) = false) :
    exec (.barinv r a) s = .next (done r { s with crew := dropBar (sreg s a).toNat s.crew }) := by
  rw [← hw.isBar_eq] at h
  exact exec_of_ready (exec_barinv r a) hr ((wordAt_of_atWord hw _).trans (if_neg (ne_true_of_eq_false h)))

/-! ### The obligations -/

/-- Settles O34: no part waits on an untagged word, so only a barrier word that is waited on kills the crew. -/
theorem barinvClearsTheTag : Obligations.BarinvClearsTheTag := by
  intro r a
  refine ⟨fun s hr h => ?tagged, fun s hr h => ?untagged, fun s hr h hbar hwait => ?waited⟩
  case tagged =>
    obtain ⟨⟨hp, hx, hi⟩, hbar, hwait⟩ := h
    exact exec_barinv_of_unwaited hr ⟨hp, hx, hi, hbar⟩ ((Bool.true_and _).trans hwait)
  case untagged =>
    obtain ⟨⟨hp, hx, hi⟩, hbar⟩ := h
    refine (exec_barinv_of_unwaited hr ⟨hp, hx, hi, hbar⟩ rfl).trans ?_
    rw [dropBar_of_not_isBar hbar]
    rfl
  case waited =>
    obtain ⟨hp, hx, hi⟩ := h
    exact exec_barinv_of_waited hr ⟨hp, hx, hi, hbar⟩ ((Bool.true_and _).trans hwait)

/-- Settles O33: a WAITA by the cases of `waitTest`, the barrier units by what each does at its word, phases by
`barArrive_of_short` and `barArrive_of_reached`. -/
theorem waitsAndBarriers : Obligations.WaitsAndBarriers := by
  refine ⟨?waita, ?barriers, ?phases⟩
  case waita =>
    intro r d a b s hr o holds inside hrel hw hp
    have htest := fun hin : inside => exec_waita_of_new hr hrel hw hp hin.1 hin.2
    refine ⟨fun hin hh hl => ?met, fun hin hh hl => ?acquiring, fun hin hh hk => ?late, fun hin hh hk => ?early, ?stops⟩
    case met => exact ⟨_, (htest hin).trans (congrArg _ (waitTest_of_met hh hl)), wrS_done ..⟩
    case acquiring => exact (htest hin).trans (congrArg _ (waitTest_of_acquiring hh hl))
    case late => exact ⟨_, (htest hin).trans (congrArg _ (waitTest_of_late hh (by omega))), wrS_done ..⟩
    case early => exact (htest hin).trans (congrArg _ (waitTest_of_early hh (by omega)))
    case stops =>
      obtain ⟨f, hf⟩ := waita_runsAtWord hr
      exact hf.stops hp
  case barriers =>
    intro r d a b
    refine ⟨fun s hr h => ?bardef, fun s hr h => ?bararr, fun s hr h => ?barwait, fun s hr hw hn hrel hph => ?barwaitWaits,
      fun s n k hr hw hrel => ?barwaitInside, fun s hr h => ?barc, fun s hr hw hn hs hrel hin => ?barcWaits,
      fun s n k hr hw hrel => ?barcInside, fun s hw hn => ?untagged, fun s hw hr => exec_bardef_of_isBar hr hw,
      fun s i op hmem hr hn hp => ?stops⟩
    case bardef =>
      obtain ⟨hw, hlo, hhi, hb⟩ := h
      exact exec_bardef_of_free hr hw hlo hhi hb
    case bararr =>
      obtain ⟨hw, hs⟩ := h
      exact exec_bararr_of_accepted hr hw hs
    case barwait =>
      obtain ⟨hw, hn, hph, hl⟩ := h
      refine (exec_barwait_of_isBar hr hn hw).trans (congrArg _ (phaseWait_of_passed ?_ hl))
      rw [inPhase_of_isBar (AtWord.isBar_eq hw)]
      exact beq_false_of_ne hph
    case barwaitWaits =>
      refine (exec_barwait_of_isBar hr hn hw).trans (congrArg _ ?_)
      rw [← hph]
      exact phaseWait_of_inPhase hrel ((inPhase_of_isBar (AtWord.isBar_eq hw)).trans (beq_self_eq_true _))
    case barwaitInside =>
      have hexec := exec_barwait_of_inside hr hw
      exact ⟨fun hin => hexec.trans (congrArg _ (hw ▸ phaseWait_of_stays hrel hin)),
        fun hout hl => hexec.trans (congrArg _ (phaseWait_of_passed hout hl))⟩
    case barc =>
      obtain ⟨hw, hn, hs, hl, hout⟩ := h
      exact (exec_barc_of_accepted hr hn hw hs).trans
        (congrArg _ (phaseWait_of_passed hout ((arrivedAt_loads ..).trans hl)))
    case barcWaits =>
      exact (exec_barc_of_accepted hr hn hw hs).trans
        (congrArg _ (phaseWait_of_inPhase ((arrivedAt_relDone ..).trans hrel) hin))
    case barcInside =>
      have hexec := exec_barc_of_inside hr hw
      exact ⟨fun hin => hexec.trans (congrArg _ (hw ▸ phaseWait_of_stays hrel hin)),
        fun hout hl => hexec.trans (congrArg _ (phaseWait_of_passed hout hl))⟩
    case untagged =>
      exact ⟨fun hr => exec_bararr_of_not_isBar hr hw, fun hr => exec_barwait_of_not_isBar hr hn hw,
        fun hr => exec_barc_of_not_isBar hr hn hw⟩
    case stops =>
      have hat : ∃ f, RunsAtWord i r a f s := by
        simp only [List.mem_cons, Prod.mk.injEq, List.not_mem_nil, or_false] at hmem
        rcases hmem with ⟨rfl, rfl⟩ | ⟨rfl, rfl⟩ | ⟨rfl, rfl⟩ | ⟨rfl, rfl⟩ | ⟨rfl, rfl⟩
        · exact bardef_runsAtWord hr
        · exact bararr_runsAtWord hr
        · exact ⟨_, barwait_runsAtWord hr hn⟩
        · exact ⟨_, barc_runsAtWord hr hn⟩
        · exact barinv_runsAtWord hr
      obtain ⟨f, hf⟩ := hat
      exact hf.stops hp
  case phases =>
    intro off exited quads c bm fresh n hn
    refine ⟨fun h => ?short, fun h => ?reached, ?expect⟩
    case short =>
      rw [barArrive_of_short exited hn h]
      exact ⟨barPhase_recordQuads quads, barArrived_recordQuads hn⟩
    case reached =>
      rw [barArrive_of_reached exited hn h, barPhase_setBitmap, barArrived_setBitmap, barPhase_scrWrite_barWord,
        barArrived_scrWrite_barWord]
      exact ⟨rfl, rfl⟩
    case expect =>
      rcases Nat.lt_or_ge n (barExpect c off) with h | h
      · rw [barArrive_of_short exited hn h, barExpect_recordQuads]
      · rw [barArrive_of_reached exited hn h, barExpect_setBitmap, barExpect_scrWrite_barWord]
        exact Nat.mod_eq_of_lt (barExpect_lt ..)

end Sys2Proof.Machine
end

section
/-! PROOFS of O37, buffer handles and the reads of a slice's queues. A unit that is ready takes its own effect; what is left of
each meaning is its tests. -/

set_option Elab.async false

namespace Sys2Proof.Machine

/-- A unit whose checks may look at the state takes its own effect where it is ready. -/
theorem exec_eq_of_ready {i : Instr} {o : Op} {f : State → State} {s t : State} (hx : exec i s = unit o f s)
    (hr : ready o s = true) (ht : f s = t) : exec i s = .next t :=
  hx.trans ((unit_of_ready hr f).trans (congrArg _ ht))

/-- Settles O37: each clause says which tests of the meaning pass; a result in a register is `wrS_done` or `wrV_done`. -/
theorem bufferResults : Obligations.BufferResults := by
  intro r d n m a b h put
  refine ⟨fun s hr ha hb hfree hin => ?bufdef, fun s hr hm hl => ?bufwait, fun s hr hm hrel => ?bufwaitHeld,
    fun s hr hst => ?bufrel, fun s hr => ?bufstat, fun s e rest hr hq => ?qpop, fun s hr => ?qpeek⟩
  case bufdef =>
    refine exec_eq_of_ready (exec_bufdef ..) hr ?_
    exact (if_neg (not_not.2 ha)).trans ((if_neg (not_not.2 hb)).trans ((if_neg (not_not.2 hfree)).trans
      (if_neg (Nat.not_lt.2 hin))))
  case bufwait => exact exec_eq_of_ready (exec_bufwait ..) hr ((if_pos (by rw [hm, Bool.or_true])).trans (if_pos hl))
  case bufwaitHeld => exact exec_eq_of_ready (exec_bufwait ..) hr (if_neg (by rw [hm, hrel]; decide))
  case bufrel => exact exec_eq_of_ready (exec_bufrel ..) hr (if_neg fun hn => hst.elim hn.1 hn.2)
  case bufstat => exact ⟨_, exec_eq_of_ready (exec_bufstat ..) hr rfl, wrS_done ..⟩
  case qpop =>
    exact ⟨_, exec_eq_of_ready (exec_qpop ..) hr (by simp only [hq]), wrV_done _ _ _ _ _ _ fun _ => activeLanes_lt⟩
  case qpeek => exact ⟨_, exec_eq_of_ready (exec_qpeek ..) hr rfl, wrS_done ..⟩

end Sys2Proof.Machine
end

section
/-! PROOFS of O36, what the copy engine does with a copy of the crew in focus. Each event is one equation per branch of its
meaning; a ticket access has its own, for one that leaves and for one whose answer has come. -/

set_option Elab.async false

namespace Sys2Proof.Machine

variable {s : State} {c : Copy} {ord line : Nat} {p : Place} {op : AccOp} {use : Answer → State → State} {why : CopyFault}

/-! ### Squash, replay and completion (R234, R237, R372) -/

theorem exec_copySquash_resident (hr : s.crew.cond = .resident) :
    exec (.copySquash s.crew.cid) s = .next (if drainEnded s = true then squashAll s else s) := by
  rw [exec_copySquash]
  simp only [execCopySquash, focusCrew_self hr, hr, true_and]

/-- The event of a copy that is found: it is replayed, completes, or moves one of its lines (R234, R237). -/
theorem exec_copyComplete_of_find (hr : s.crew.cond = .resident) (hc : findCopy s ord = some c) :
    exec (.copyComplete s.crew.cid ord) s =
      if c.squash then .next (if mayReplay s then replayCopy c s else s)
      else if c.moved s then if c.ct ≤ timeOf s then .next (finishCopy c (afterUnits s)) else .next s
      else
        let ls := (c.open_ s).filter (fun l => copyRuns s || !(sentWrites s c l).isEmpty)
        match ls[Config.freeNat 4 s.free % max 1 ls.length]? with
        | none => .next s
        | some l => .next (movePiece c l { s with free := s.free + 1 }) := by
  rw [exec_copyComplete]
  simp only [execCopyComplete, focusCrew_self hr, hc]
  exact if_neg (by simp [hr])

/-- A copy that may begin works on one of its open lines, whichever is taken (R286). -/
theorem exec_copyComplete_of_open (hr : s.crew.cond = .resident) (hc : findCopy s ord = some c) (hq : c.squash = false)
    (hm : c.moved s = false) (hrun : copyRuns s = true) (ho : c.open_ s ≠ []) :
    ∃ l ∈ c.open_ s, exec (.copyComplete s.crew.cid ord) s = .next (movePiece c l { s with free := s.free + 1 }) := by
  have hls : (c.open_ s).filter (fun l => copyRuns s || !(sentWrites s c l).isEmpty) = c.open_ s :=
    List.filter_eq_self.2 fun l _ => by rw [hrun]; rfl
  have hlt : Config.freeNat 4 s.free % max 1 (c.open_ s).length < (c.open_ s).length := by
    have hpos := List.length_pos_iff.2 ho
    rw [Nat.max_eq_right hpos]
    exact Nat.mod_lt _ hpos
  refine ⟨(c.open_ s)[Config.freeNat 4 s.free % max 1 (c.open_ s).length], List.getElem_mem hlt, ?_⟩
  rw [exec_copyComplete_of_find hr hc, hq, hm]
  simp only [hls, List.getElem?_eq_getElem hlt, Bool.false_eq_true, if_false]

theorem afterUnits_frame (s : State) :
    (afterUnits s).part = s.part ∧ (afterUnits s).wave = s.wave ∧ (afterUnits s).memsys = s.memsys ∧
      ∃ k n, (afterUnits s).crew = { s.crew with turnAt := k, turnKey := n } := by
  unfold afterUnits
  split
  · exact ⟨rfl, rfl, rfl, _, _, rfl⟩
  · exact ⟨rfl, rfl, rfl, _, _, rfl⟩

/-! ### Handles that a copy leaves (R222) -/

/-- A handle after a completion: one copy less, and with none left FULL after a fill and FREE after a drain. -/
def leftBuf (hmode : Nat) (b : Buf) : Buf :=
  { b with count := b.count - 1, state := if b.count - 1 ≠ 0 then b.state else if hmode = 1 then 2 else 0 }

theorem leftBuf_state {hmode : Nat} {b : Buf} (h : b.count ≤ 1) : (leftBuf hmode b).state = if hmode = 1 then 2 else 0 :=
  if_neg (by omega)

theorem getBuf_leaveBuf {hmode n : Nat} (cr : Crew) (h : hmode ≠ 0) :
    getBuf (leaveBuf hmode n cr) n = leftBuf hmode (getBuf cr n) := by
  rw [leaveBuf, if_neg h]
  exact (getBuf_setBuf ..).trans (if_pos rfl)

/-- The crew that a completed copy leaves, but for its list of copies: the completion word stands and the handle has moved. -/
def finishedCrew (c : Copy) (cr : Crew) : Crew :=
  leaveBuf c.hmode (c.hnd.getD 0) (if c.hasCw then scrWrite c.cwOff (bytes64 c.cwVal) cr else cr)

theorem finishCopy_of_clear (h : c.hasCw = true → touchesBar s.crew c.cwOff 8 = false) :
    finishCopy c s = { s with
      crew := { finishedCrew c s.crew with copies := (finishedCrew c s.crew).copies.filter (fun x => x.ord != c.ord) },
      net := s.net.filter (fun a => !(a.crew == s.crew.cid && a.use == .copy c.ord)) } :=
  if_neg (by simpa using h)

theorem leaveBuf_frame (hmode n : Nat) (cr : Crew) : ∃ b, leaveBuf hmode n cr = { cr with bufs := b } := by
  unfold leaveBuf
  split
  · exact ⟨_, rfl⟩
  · exact ⟨_, rfl⟩

theorem copies_finishedCrew (c : Copy) (cr : Crew) : (finishedCrew c cr).copies = cr.copies := by
  obtain ⟨b, hb⟩ := leaveBuf_frame c.hmode (c.hnd.getD 0) (if c.hasCw then scrWrite c.cwOff (bytes64 c.cwVal) cr else cr)
  rw [finishedCrew, hb]
  split <;> rfl

/-- The completion word stands in the scratchpad (R234). -/
theorem scrRead_finishedCrew (cr : Crew) (h : c.hasCw = true) : scrRead (finishedCrew c cr) c.cwOff 8 = bytes64 c.cwVal := by
  obtain ⟨b, hb⟩ := leaveBuf_frame c.hmode (c.hnd.getD 0) (scrWrite c.cwOff (bytes64 c.cwVal) cr)
  rw [finishedCrew, if_pos h, hb]
  exact (congrArg _ (length_leBytes 8 _).symm).trans (scrRead_scrWrite c.cwOff (bytes64 c.cwVal) cr)

theorem getBuf_finishedCrew (cr : Crew) (h : c.hmode ≠ 0) :
    getBuf (finishedCrew c cr) (c.hnd.getD 0) = leftBuf c.hmode (getBuf cr (c.hnd.getD 0)) := by
  rw [finishedCrew, getBuf_leaveBuf _ h]
  split <;> rfl

/-! ### Lines (R234, R286) -/

theorem copies_wroteLine (c : Copy) (line ct : Nat) (s : State) :
    (wroteLine c line ct s).crew.copies =
      updIf (fun x => x.ord == c.ord) (fun x => { x with lines := x.lines ++ [line], ct := max x.ct ct }) s.crew.copies := by
  unfold wroteLine disownLine
  dsimp only
  split
  · split <;> rfl
  · rfl

/-- A line whose writes have all been answered stands written, whenever the last of them completes. -/
theorem copies_movePiece_of_answered (hne : sentWrites s c line ≠ [])
    (hb : ∀ a ∈ sentWrites s c line, a.back = true ∧ (a.ans.map (·.failed)).getD true = false) :
    (movePiece c line s).crew.copies = updIf (fun x => x.ord == c.ord) (fun x => { x with
      lines := x.lines ++ [line],
      ct := max x.ct ((sentWrites s c line).foldl (fun m a => max m ((a.ans.bind (·.ct)).getD 0)) 0) }) s.crew.copies := by
  have hall : (sentWrites s c line).all (fun a => a.back && !(a.ans.map (·.failed)).getD true) = true :=
    List.all_eq_true.2 fun a ha => by
      obtain ⟨hback, hans⟩ := hb a ha
      rw [hback, hans]; rfl
  exact (congrArg (fun t : State => t.crew.copies) ((if_pos hne).trans (if_pos hall))).trans (copies_wroteLine ..)

/-! ### Tickets (R232) -/

/-- An access to the ticket word that nothing holds back leaves, where OUT has room for it. -/
theorem ticketAccess_of_unsent (hn : copyAccess s c.ord (p.pa / 128) (fun o => o.isRead == op.isRead) = none)
    (hrun : copyRuns s = true) (hpoll : op.isRead = true → c.poll ≤ timeOf s) (hd : ownDirty s (p.pa / 128) = false)
    (ha : aheadOn s c (p.pa / 128) = false) :
    ticketAccess c p op use s = (sendCopy c (p.pa / 128) (p.pa % 128) (p, (c.word 3).toNat) op s).getD s := by
  have hgo : ¬ (copyRuns s = false ∨ op.isRead = true ∧ timeOf s < c.poll) := by
    rintro (h | ⟨h, hlt⟩)
    · exact Bool.noConfusion (h.symm.trans hrun)
    · exact Nat.not_lt.2 (hpoll h) hlt
  simp only [ticketAccess, hn, if_neg hgo, hd, ha, Bool.false_eq_true, if_false]

/-- The answer of an access to the ticket word is taken, and the access has ended. -/
theorem ticketAccess_of_answered {a : Access} {x : Answer}
    (hs : copyAccess s c.ord (p.pa / 128) (fun o => o.isRead == op.isRead) = some a) (hb : a.back = true)
    (hx : a.ans = some x) (hf : x.failed = false) :
    ticketAccess c p op use s = use x { s with net := s.net.filter (fun y => y.id != a.id) } := by
  simp only [ticketAccess, hs, hx, hb, hf, Bool.not_false, Bool.and_true, if_true]

/-- What a copy does with the ticket word that it has read. -/
def ticketRead (ord : Nat) (c : Copy) (p : Place) (x : Answer) (u : State) : State :=
  if lineMarked x.poison (p.pa % 128) 8 then killCrew false (engineKill 0x11 5#64 0#64 0#64 []) u
  else if cellsNat x.bytes (p.pa % 128) 8 = (c.word 4).toNat then updCopy ord (fun y => { y with phase := 1 }) u
  else updCopy ord (fun y => { y with poll := nextPoll u }) { u with free := u.free + 1 }

theorem exec_reduceTicketPoll_of_ticketCopy (hr : s.crew.cond = .resident) (ht : ticketCopy s.crew.cid ord 0 s = some (c, p)) :
    exec (.reduceTicketPoll s.crew.cid ord) s = .next (ticketAccess c p (.read 0) (ticketRead ord c p) s) := by
  rw [exec_reduceTicketPoll]
  simp only [execReduceTicketPoll, focusCrew_self hr, ht]
  rfl

/-- The write that releases a ticket: TKT + 1. -/
def ticketWrite (c : Copy) (p : Place) : AccOp := .write (byteCells (p.pa % 128) (bytes64 (c.word 4 + 1#64)))

theorem exec_reduceTicketRelease_of_ticketCopy (hr : s.crew.cond = .resident)
    (ht : ticketCopy s.crew.cid ord 1 s = some (c, p)) (htodo : c.todo s = []) (hct : c.ct ≤ timeOf s) :
    exec (.reduceTicketRelease s.crew.cid ord) s = .next (ticketAccess c p (ticketWrite c p)
      (fun x u => updCopy ord (fun y => { y with phase := 2, ct := max y.ct (x.ct.getD 0) }) u) s) := by
  rw [exec_reduceTicketRelease]
  simp only [execReduceTicketRelease, focusCrew_self hr, ht]
  exact congrArg _ (if_neg (by simp [htodo, hct]))

/-- The next poll comes within 1 µs (R232). -/
theorem nextPoll_bounds (s : State) : timeOf s < nextPoll s ∧ nextPoll s ≤ timeOf s + 1000 := by
  have : Config.freeNat 50 s.free % 1000 < 1000 := Nat.mod_lt _ (by decide)
  rw [nextPoll]
  omega

/-! ### Errors (R236, R389) -/

/-- The access record of a copy's error; an invalid descriptor has none. -/
def errorRecs (why : CopyFault) (x : CopyBad) : List AccRec :=
  if why = .descriptor then [] else [{ addr := BitVec.ofNat 64 x.addr, lanes := 0#64, akind := x.akind, reason := x.reason }]

theorem exec_copyError_of_find {x : CopyBad} (hr : s.crew.cond = .resident) (hc : findCopy s ord = some c)
    (hq : c.squash = false) (hx : (c.errors s).find? (fun y => y.why == why) = some x) :
    exec (.copyError s.crew.cid ord why) s = .next
      (if why = .outsideGrants ∧ recoverable s = true then
        if s.crew.recov then s
        else recoverBy (engineKill 0x0A 0#64 (BitVec.ofNat 64 x.addr) 0#64 (errorRecs why x))
          (squashCopies (fun y => y.ord == ord && squashable s y) s)
      else killCrew false (engineKill 0x10 (BitVec.ofNat 64 (copySubcode why)) (BitVec.ofNat 64 x.addr) 0#64
        (errorRecs why x)) s) := by
  have hgo : ¬ (s.crew.cid ≠ s.crew.cid ∨ s.crew.cond ≠ .resident ∨ c.squash = true) := by simp [hr, hq]
  rw [exec_copyError]
  simp only [execCopyError, focusCrew_self hr, hc, if_neg hgo, hx]
  split <;> rfl

/-! ### The obligation -/

/-- Settles O36: each clause is the equation of its event, with the branch that its hypotheses name. -/
theorem copyEngineSteps : Obligations.CopyEngineSteps := by
  intro ord c s hr hc
  refine ⟨fun hd => ?squashes, fun hd => ?runsOn, fun hq => ?replays, fun hq hm hct hbar => ?completes,
    fun hq hm hrun ho => exec_copyComplete_of_open hr hc hq hm hrun ho, fun l hne hb => copies_movePiece_of_answered hne hb,
    fun phase p op hphase ht => ?ticket, fun why x hq hx => exec_copyError_of_find hr hc hq hx⟩
  case squashes => exact (exec_copySquash_resident hr).trans (congrArg _ (if_pos hd))
  case runsOn => exact (exec_copySquash_resident hr).trans (congrArg _ (if_neg (by simp [hd])))
  case replays => exact (exec_copyComplete_of_find hr hc).trans (if_pos hq)
  case completes =>
    obtain ⟨hpart, hwave, hmem, k, n, hcrew⟩ := afterUnits_frame s
    have hexec : exec (.copyComplete s.crew.cid ord) s = .next (finishCopy c (afterUnits s)) := by
      rw [exec_copyComplete_of_find hr hc, hq, hm]
      exact if_pos hct
    rw [finishCopy_of_clear (s := afterUnits s) (hcrew ▸ hbar)] at hexec
    have hleft (hh : c.hmode ≠ 0) : getBuf (finishedCrew c (afterUnits s).crew) (c.hnd.getD 0) =
        leftBuf c.hmode (getBuf s.crew (c.hnd.getD 0)) := by
      rw [getBuf_finishedCrew _ hh, hcrew]; rfl
    have hstate (hh : c.hmode ≠ 0) (hle : (getBuf s.crew (c.hnd.getD 0)).count ≤ 1) :=
      (congrArg Buf.state (hleft hh)).trans (leftBuf_state hle)
    refine ⟨_, hexec, hpart, hwave, hmem, ?_, scrRead_finishedCrew _, fun hh => congrArg Buf.count (hleft hh),
      fun hfill hle => (hstate (by simp [hfill]) hle).trans (if_pos hfill),
      fun hdrain hle => (hstate (by simp [hdrain]) hle).trans (if_neg (by simp [hdrain]))⟩
    simp only [copies_finishedCrew, hcrew]
  case ticket =>
    rcases hphase with ⟨rfl, rfl⟩ | ⟨rfl, htodo, hct, rfl⟩
    · have hpolls := exec_reduceTicketPoll_of_ticketCopy hr ht
      refine ⟨fun hn hrun hpoll hd ha => ?unsent, fun a x hs hb hx hf => ?answered⟩
      case unsent => exact hpolls.trans (congrArg _ (ticketAccess_of_unsent hn hrun (fun _ => hpoll rfl) hd ha))
      case answered =>
        rw [ticketAccess_of_answered hs hb hx hf] at hpolls
        refine ⟨fun _ hclean => ⟨fun heq => ?_, fun hne => ⟨_, (nextPoll_bounds s).1, (nextPoll_bounds s).2, ?_⟩⟩,
          fun _ hmark => ?_, nofun⟩
        · exact hpolls.trans (congrArg _ ((if_neg (by simp [hclean])).trans (if_pos heq)))
        · exact hpolls.trans (congrArg _ ((if_neg (by simp [hclean])).trans (if_neg hne)))
        · exact hpolls.trans (congrArg _ (if_pos hmark))
    · have hreleases := exec_reduceTicketRelease_of_ticketCopy hr ht htodo hct
      refine ⟨fun hn hrun _ hd ha => ?unsentRelease, fun a x hs hb hx hf => ⟨nofun, nofun, fun _ => ?answeredRelease⟩⟩
      case unsentRelease => exact hreleases.trans (congrArg _ (ticketAccess_of_unsent hn hrun nofun hd ha))
      case answeredRelease => exact hreleases.trans (congrArg _ (ticketAccess_of_answered hs hb hx hf))

end Sys2Proof.Machine
end

section
/-! PROOFS of O35, how a copy starts or waits. The write-downs that a start sends change the crew's trackers alone
(`SendFrame`), and its lines change no byte (`ownLines_frame`), so that `startCopy_effect` says once what a start does. -/

set_option Elab.async false

namespace Sys2Proof.Machine

variable {i : Instr} {r : Run} {d a b : BitVec 7} {s t u : State} {c : Copy} {descAt : Option W64} {core line ord m n : Nat}
  {f : State → State}

/-! ### What accesses that leave the core change (R187) -/

/-- What an access that leaves the core keeps: the lanes' frame, and all of the crew but its trackers, which count it. -/
structure SendFrame (s t : State) : Prop where
  lane : LaneFrame s t
  crew : t.crew = { s.crew with trk := t.crew.trk }

theorem SendFrame.refl (s : State) : SendFrame s s := ⟨.refl s, rfl⟩

theorem SendFrame.trans (h : SendFrame s t) (g : SendFrame t u) : SendFrame s u :=
  ⟨h.lane.trans g.lane, by rw [g.crew, h.crew]⟩

theorem SendFrame.of_crew_eq (h : LaneFrame s t) (hc : t.crew = s.crew) : SendFrame s t := ⟨h, by rw [hc]⟩

theorem bumpOut_sendFrame (cid k : Nat) (f : Nat → Nat) (s : State) : SendFrame s (bumpOut cid k f s) := by
  refine ⟨bumpOut_frame .., ?_⟩
  unfold bumpOut updCrew
  split <;> rfl

theorem readied_sendFrame (a : Access) (s : State) : SendFrame s (readied a s) := by
  refine ⟨readied_frame a s, ?_⟩
  unfold readied
  cases a.trk with
  | none => rfl
  | some k => exact (bumpOut_sendFrame a.crew k (· + 1) s).crew

theorem send_sendFrame (a : Access) (s : State) : SendFrame s (send a s) := by
  refine (readied_sendFrame a s).trans (send_eq a s ▸ .of_crew_eq (depart_frame _ _) ?_)
  rw [depart_memOnly _ (readied a s)]

theorem writeDown_sendFrame (core line : Nat) (s : State) : SendFrame s (writeDown core line s) := by
  unfold writeDown; dsimp only
  split
  · exact .refl s
  · exact (SendFrame.of_crew_eq (setL1_frame ..) rfl).trans (send_sendFrame ..)

theorem downFor_sendFrame (ord line : Nat) (s : State) : SendFrame s (downFor ord line s) := by
  unfold downFor
  split
  · split
    · exact .refl s
    · next t ht =>
      obtain ⟨hl, hc⟩ := eq_writeDown_of_tryDown ht ▸ writeDown_sendFrame s.crew.core line s
      exact ⟨hl.update _ _ _ _, hc⟩
  · exact .refl s

theorem downs_sendFrame (ord : Nat) (ls : List Nat) (s : State) : SendFrame s (ls.foldl (fun t l => downFor ord l t) s) :=
  foldl_keeps (fun t l h => h.trans (downFor_sendFrame ord l t)) ls s (.refl s)

/-- The lines that a copy takes at their homes change no byte and nothing outside memory (R292). -/
theorem ownLines_frame (c : Copy) (s : State) :
    ownLines c s = { s with memsys := (ownLines c s).memsys } ∧ (ownLines c s).memsys.bytes = s.memsys.bytes := by
  refine foldl_keeps (P := fun t => t = { s with memsys := t.memsys } ∧ t.memsys.bytes = s.memsys.bytes) ?_ _ s ⟨rfl, rfl⟩
  rintro t l ⟨ht, hb⟩
  dsimp only
  split
  · exact ⟨by rw [ht]; rfl, hb⟩
  · exact ⟨ht, hb⟩

/-! ### The start (R225, R233) -/

/-- The crew after the start of a copy. -/
def startedCrew (c : Copy) (trks : List Nat) (cr : Crew) : Crew :=
  let x := takeBuf c.hmode (c.hnd.getD 0) cr
  { x with copies := x.copies ++ [{ c with trks := trks }], copyOrd := (x.copyOrd + 1) % 2 ^ 32 }

/-- A start changes its crew, what is known of its lines at their homes, and what has left the core. -/
theorem startCopy_effect (c : Copy) (s : State) :
    (startCopy c s).part = s.part ∧ (startCopy c s).wave = s.wave ∧ (startCopy c s).memsys.bytes = s.memsys.bytes ∧
      ∃ k, (startCopy c s).crew = startedCrew c (c.writeTrks s) { s.crew with trk := k } := by
  let c1 := { c with trks := c.writeTrks s }
  let lines := ((c1.dstLines s) ++ (c1.dstLines s).flatMap (c1.srcLines s)).eraseDups
  let t := (lines.filter (fun l => l < 2 ^ 60)).foldl (fun t l => downFor c1.ord l t) s
  obtain ⟨hlane, hcrew⟩ : SendFrame s t := downs_sendFrame ..
  obtain ⟨hown, hbytes⟩ := ownLines_frame c1 t
  have hcr : (ownLines c1 t).crew = { s.crew with trk := t.crew.trk } := (congrArg State.crew hown).trans hcrew
  refine ⟨(congrArg State.part hown).trans hlane.part, (congrArg State.wave hown).trans hlane.wave,
    hbytes.trans (congrArg _ hlane.memsys), t.crew.trk, ?_⟩
  rw [← hcr]
  rfl

/-- The handle of a copy that starts counts it and is FILLING or DRAINING (R221). -/
theorem getBuf_takeBuf (m n k : Nat) (cr : Crew) :
    getBuf (takeBuf m n cr) k = if m ≠ 0 ∧ k = n then
      { getBuf cr k with count := (getBuf cr k).count + 1, state := if m = 1 then 1 else 3 } else getBuf cr k := by
  by_cases hm : m = 0
  · rw [takeBuf, if_pos hm, if_neg fun h => h.1 hm]
  · rw [takeBuf, if_neg hm, getBuf_setBuf]
    by_cases hk : k = n
    · subst hk
      exact (if_pos rfl).trans (if_pos ⟨hm, rfl⟩).symm
    · exact (if_neg hk).trans (if_neg fun h => hk h.2).symm

theorem takeBuf_frame (m n : Nat) (cr : Crew) : ∃ b, takeBuf m n cr = { cr with bufs := b } := by
  unfold takeBuf
  split
  · exact ⟨_, rfl⟩
  · exact ⟨_, rfl⟩

/-- Of its crew, a start changes the trackers, the handles, the copies in flight and the next ordinal (R225). -/
theorem startCopy_crew (c : Copy) (s : State) : ∃ k b, (startCopy c s).crew = { s.crew with
    trk := k, bufs := b, copies := s.crew.copies ++ [{ c with trks := c.writeTrks s }],
    copyOrd := (s.crew.copyOrd + 1) % 2 ^ 32 } := by
  obtain ⟨-, -, -, k, hcrew⟩ := startCopy_effect c s
  obtain ⟨b, hb⟩ := takeBuf_frame c.hmode (c.hnd.getD 0) { s.crew with trk := k }
  exact ⟨k, b, by rw [hcrew, startedCrew, hb]⟩

theorem copies_startCopy (c : Copy) (s : State) :
    (startCopy c s).crew.copies = s.crew.copies ++ [{ c with trks := c.writeTrks s }] := by
  obtain ⟨_, _, hcrew⟩ := startCopy_crew c s
  rw [hcrew]

theorem slice_startCopy (c : Copy) (s : State) : (startCopy c s).crew.slice = s.crew.slice := by
  obtain ⟨_, _, hcrew⟩ := startCopy_crew c s
  rw [hcrew]

theorem getBuf_startCopy (c : Copy) (s : State) (n : Nat) :
    getBuf (startCopy c s).crew n = if c.hmode ≠ 0 ∧ n = c.hnd.getD 0 then
      { getBuf s.crew n with count := (getBuf s.crew n).count + 1, state := if c.hmode = 1 then 1 else 3 }
    else getBuf s.crew n := by
  obtain ⟨-, -, -, k, hcrew⟩ := startCopy_effect c s
  rw [hcrew]
  exact getBuf_takeBuf ..

/-! ### The checks (R225) -/

theorem cwAligned_of_aligned (h : c.hasCw = true → c.cwOff % 8 = 0) : cwAligned r c f s = f s :=
  if_neg fun hn => hn.2 (h hn.1)

theorem beginCopy_of_refusing (h : bufAccepts c.hmode (getBuf s.crew (c.hnd.getD 0)) = false) :
    beginCopy f descAt c s = hold s := if_pos (by rw [h]; rfl)

/-- A copy that lies where it must waits for its handle or for its core, and else starts. -/
theorem beginCopy_of_placed (hcw : c.hasCw = true → c.cwOff + 8 ≤ s.crew.scr)
    (hd : ∀ x, descAt = some x → x.toNat + 64 ≤ s.crew.scr) (hreg : regionOk s c = true) (hast : c.astray s = none) :
    beginCopy f descAt c s = if bufAccepts c.hmode (getBuf s.crew (c.hnd.getD 0)) = false ∨ fullEngine s = true then hold s
      else f (startCopy c s) := by
  have hword : ¬ (c.hasCw = true ∧ s.crew.scr < c.cwOff + 8) := fun h => Nat.not_lt.2 (hcw h.1) h.2
  have hdesc : descAt.filter (fun x => decide (s.crew.scr < x.toNat + 64)) = none :=
    Option.filter_eq_none_iff.2 fun x hx => by simpa using hd x hx
  unfold beginCopy
  cases hb : bufAccepts c.hmode (getBuf s.crew (c.hnd.getD 0)) with
  | false => rfl
  | true =>
    simp only [hword, hdesc, hreg, hast, Bool.not_true, Bool.false_eq_true, if_false, Bool.true_eq_false, false_or]

/-- The states in which a handle does not accept a fill or a drain (R221). -/
theorem bufAccepts_eq_false {x : Buf}
    (h : (m = 1 ∧ x.state ≠ 0 ∧ x.state ≠ 1) ∨ (m = 2 ∧ x.state ≠ 2 ∧ x.state ≠ 3)) : bufAccepts m x = false := by
  rcases h with ⟨rfl, h0, h1⟩ | ⟨rfl, h2, h3⟩
  · simp [bufAccepts, h0, h1]
  · simp [bufAccepts, h2, h3]

/-! ### Units that begin a copy -/

/-- Instruction `i` comes to the checks of the copy `c` behind its alignment. -/
def Begins (i : Instr) (r : Run) (descAt : Option W64) (c : Copy) (s : State) : Prop :=
  exec i s = .next (beginCopy (done r) descAt c s)

/-- Instruction `i` starts the copy `c`. -/
def Starts (i : Instr) (r : Run) (c : Copy) (s : State) : Prop :=
  ∃ t x, exec i s = .next (done r t) ∧ t.part = s.part ∧ t.wave = s.wave ∧ (∀ a, rawByte t a = rawByte s a) ∧
    t.crew.copyOrd = (s.crew.copyOrd + 1) % 2 ^ 32 ∧ t.crew.copies = s.crew.copies ++ [x] ∧
    x = { c with trks := x.trks } ∧ t.crew.scratch = s.crew.scratch ∧
    ∀ n, getBuf t.crew n = if c.hmode ≠ 0 ∧ n = c.hnd.getD 0 then
      { getBuf s.crew n with count := (getBuf s.crew n).count + 1, state := if c.hmode = 1 then 1 else 3 }
    else getBuf s.crew n

/-- A copy that passes the checks of R225 starts. -/
theorem Begins.starts (hb : Begins i r descAt c s) (hd : ∀ x, descAt = some x → x.toNat + 64 ≤ s.crew.scr)
    (hc : copyClear c s = true) : Starts i r c s := by
  simp only [copyClear, Bool.and_eq_true, Bool.or_eq_true, Bool.not_eq_true', decide_eq_true_eq,
    Option.isNone_iff_eq_none] at hc
  obtain ⟨⟨⟨⟨hacc, hcw⟩, hreg⟩, hast⟩, hfull⟩ := hc
  have hword : c.hasCw = true → c.cwOff + 8 ≤ s.crew.scr := fun h => (hcw.resolve_left (by simp [h])).2
  obtain ⟨hpart, hwave, hbytes, -⟩ := startCopy_effect c s
  obtain ⟨k, b, hcrew⟩ := startCopy_crew c s
  refine ⟨startCopy c s, { c with trks := c.writeTrks s }, ?_, hpart, hwave, fun a => ?_, by rw [hcrew],
    copies_startCopy c s, rfl, by rw [hcrew], getBuf_startCopy c s⟩
  · exact Eq.trans hb (congrArg _ ((beginCopy_of_placed hword hd hreg hast).trans (if_neg (by simp [hacc, hfull]))))
  · rw [rawByte, rawByte, hbytes]

/-- A copy whose handle does not accept it waits, and so does one that is placed and finds no room in its core (R188, R221). -/
theorem Begins.waits (hb : Begins i r descAt c s) :
    (bufAccepts c.hmode (getBuf s.crew (c.hnd.getD 0)) = false → exec i s = .next (hold s)) ∧
    ((c.hasCw = true → c.cwOff + 8 ≤ s.crew.scr) → (∀ x, descAt = some x → x.toNat + 64 ≤ s.crew.scr) →
      regionOk s c = true → c.astray s = none → fullEngine s = true → exec i s = .next (hold s)) :=
  ⟨fun h => Eq.trans hb (congrArg _ (beginCopy_of_refusing h)), fun hword hd hreg hast hfull =>
    Eq.trans hb (congrArg _ ((beginCopy_of_placed hword hd hreg hast).trans (if_pos (.inr hfull))))⟩

/-! ### CPYL, CPYT and CPYR (R226, R228, R230) -/

/-- The size of an element of a CPYL. -/
def cpylSize (r : Run) : Nat := 4 * 2 ^ ctlOpx (ctlOf r)

/-- The copy that a CPYL captures. -/
def cpylCopy (r : Run) (d a b : BitVec 7) (s : State) : Copy := captured 0 r [] (cpylLanes r d a b s) (cpylSize r) s

theorem cpyl_begins
    (hr : ready (opCopy 0 r d a b (decide (ctlOpx (ctlOf r) ≤ 2)) ([srcS a] ++ idxUse d ++ idxUse b) s) s = true)
    (hw : (cpylCopy r d a b s).hasCw = true → (cpylCopy r d a b s).cwOff % 8 = 0)
    (hal : (cpylLanes r d a b s).all (fun x => x.2.1.toNat % cpylSize r == 0 && x.2.2.toNat % cpylSize r == 0) = true) :
    Begins (.cpyl r d a b) r none (cpylCopy r d a b s) s := by
  have hbad : (cpylLanes r d a b s).filter
      (fun x => x.2.1.toNat % cpylSize r != 0 || x.2.2.toNat % cpylSize r != 0) = [] :=
    List.filter_eq_nil_iff.2 fun x hx => by simpa [bne_iff_ne] using List.all_eq_true.1 hal x hx
  refine exec_eq_of_ready (exec_cpyl ..) hr ((cwAligned_of_aligned hw).trans ?_)
  simp only [cpylSize] at hbad
  simp only [hbad]
  rfl

/-- The copy that a CPYT or a CPYR captures. -/
def descCopyOf (fn : Nat) (r : Run) (a : BitVec 7) (s : State) : Copy := captured fn r (descOf s a) [] 0 s

theorem descCopy_of_aligned {fn : Nat} (hw : (descCopyOf fn r a s).hasCw = true → (descCopyOf fn r a s).cwOff % 8 = 0)
    (ha : (sreg s a).toNat % 64 = 0) :
    descCopy fn r a (descCopyOf fn r a s) s = beginCopy (done r) (some (sreg s a)) (descCopyOf fn r a s) s :=
  (cwAligned_of_aligned hw).trans (if_neg (not_not.2 ha))

theorem cpyt_begins
    (hr : ready (opCopy 1 r 0#7 a 0#7 (ctlOpx (ctlOf r) == 0 ||
      (decide (2 ≤ ctlOpx (ctlOf r) ∧ ctlOpx (ctlOf r) ≤ 8) && ctlHmode (ctlOf r) == 1)) [srcS a] s) s = true)
    (hw : (descCopyOf 1 r a s).hasCw = true → (descCopyOf 1 r a s).cwOff % 8 = 0) (ha : (sreg s a).toNat % 64 = 0)
    (hdir : ctlOpx (ctlOf r) = 0 ∨ (descCopyOf 1 r a s).box.dir = false) :
    Begins (.cpyt r a) r (some (sreg s a)) (descCopyOf 1 r a s) s := by
  refine exec_eq_of_ready (exec_cpyt ..) hr ((if_neg ?_).trans (descCopy_of_aligned hw ha))
  rintro ⟨hopx, -, -, htrue⟩
  exact hdir.elim hopx fun h => Bool.noConfusion (h.symm.trans htrue)

theorem cpyr_begins
    (hr : ready (opCopy 2 r 0#7 a 0#7 (ctlOpx (ctlOf r) % 8 != 7 && ctlHmode (ctlOf r) != 1) [srcS a] s) s = true)
    (hw : (descCopyOf 2 r a s).hasCw = true → (descCopyOf 2 r a s).cwOff % 8 = 0) (ha : (sreg s a).toNat % 64 = 0) :
    Begins (.cpyr r a) r (some (sreg s a)) (descCopyOf 2 r a s) s :=
  exec_eq_of_ready (exec_cpyr ..) hr (descCopy_of_aligned hw ha)

/-! ### The obligation -/

theorem cwOff_of_copyClear (h : copyClear c s = true) (hw : c.hasCw = true) : c.cwOff % 8 = 0 := by
  simp only [copyClear, hw, Bool.not_true, Bool.false_or, Bool.and_eq_true, beq_iff_eq] at h
  obtain ⟨⟨⟨⟨-, hmod, -⟩, -⟩, -⟩, -⟩ := h
  exact hmod

theorem descAt_within {y : W64} (h : y.toNat + 64 ≤ n) : ∀ x, some y = some x → x.toNat + 64 ≤ n := by
  rintro _ ⟨⟩
  exact h

/-- The handle of a copy that its control word gives a mode is the one of the word. -/
theorem hnd_captured {fn size : Nat} {desc : List Byte} {lanes : List (Nat × W64 × W64)} (h : ctlHmode (ctlOf r) ≠ 0) :
    (captured fn r desc lanes size s).hnd.getD 0 = ctlHnd (ctlOf r) :=
  congrArg (fun x : Option Nat => x.getD 0) (if_neg h)

/-- Settles O35: each unit comes to the checks of its copy (`Begins`), and there it starts or waits. -/
theorem copiesStart : Obligations.CopiesStart := by
  refine ⟨fun r d a b s => ?starts, fun r d a b s => ?waits⟩
  case starts =>
    intro w starts lanes size desc
    have starts_of {i : Instr} {fn size : Nat} {ds : List Byte} {ls : List (Nat × W64 × W64)}
        (h : Starts i r (captured fn r ds ls size s) s) : starts i (captured fn r ds ls size s) := by
      obtain ⟨t, x, hexec, hpart, hwave, hbyte, hord, hcopies, hx, hscr, hbuf⟩ := h
      refine ⟨t, x, hexec, hpart, hwave, hbyte, hord, hcopies, hx, hscr, fun n => (hbuf n).trans (if_congr ?_ rfl rfl)⟩
      exact and_congr_right fun hm => by rw [hnd_captured hm]
    refine ⟨fun hr _ hal hc => starts_of ((cpyl_begins hr (cwOff_of_copyClear hc) hal).starts nofun hc),
      fun hr ha hin hpre hc => starts_of ((cpyt_begins hr (cwOff_of_copyClear hc) ha ?_).starts (descAt_within hin) hc),
      fun hr ha hin _ hc => starts_of ((cpyr_begins hr (cwOff_of_copyClear hc) ha).starts (descAt_within hin) hc)⟩
    exact (Bool.or_eq_true_iff.1 hpre).imp beq_iff_eq.1 Bool.eq_false_of_not_eq_true'
  case waits =>
    intro w h wait waits size lanes desc
    have waits_of {i : Instr} {descAt : Option W64} {fn size : Nat} {ds : List Byte} {ls : List (Nat × W64 × W64)}
        (hb : Begins i r descAt (captured fn r ds ls size s) s) :
        ((ctlHmode w = 1 ∧ h ≠ 0 ∧ h ≠ 1) ∨ (ctlHmode w = 2 ∧ h ≠ 2 ∧ h ≠ 3) → wait i) := by
      intro hh
      have hm : ctlHmode w ≠ 0 := by omega
      exact hb.waits.1 (bufAccepts_eq_false ((hnd_captured (r := r) hm).symm ▸ hh))
    refine ⟨fun hr hw hal => ?_, fun hr hw ha => ?_, fun hr hw ha => ?_⟩
    · have hb := cpyl_begins hr hw hal
      exact ⟨waits_of hb, fun hword _ => hb.waits.2 hword nofun⟩
    · have hb := cpyt_begins hr hw ha.1 ha.2
      exact ⟨waits_of hb, fun hword hin => hb.waits.2 hword (descAt_within hin)⟩
    · have hb := cpyr_begins hr hw ha.1
      exact ⟨waits_of hb, fun hword hin => hb.waits.2 hword (descAt_within hin)⟩

end Sys2Proof.Machine
end

section
/-! PROOFS of O38, the words of Sparge, ASTRM_PUSH, ASTART and ASTAT. A word of Sparge either runs its meaning
(`SpargeTurn.runs`) or ends in a slice error, whichever of its checks comes first (`SpargeTurn.stops`); what ASTRM and ACPY
send changes what `SendFrame` and `startCopy_effect` say. -/

set_option Elab.async false

namespace Sys2Proof.Machine

variable {i : Instr} {word : W32} {r : Run} {k a b q g n : BitVec 7} {s t u : State} {imm ok : Bool} {f : State → State}
  {p : Nat × Nat} {parts : List (Nat × Nat)} {bs : List (Nat × Nat × Byte)}

/-! ### A word of Sparge (R240, R246) -/

/-- Whether a word of Sparge takes the hints that stand before it. -/
def hintsTaken (imm : Bool) (r : Run) : Bool := if imm then decide (r.hints.length = 1 ∧ immCount r = 1) else r.hints == []

theorem hintsTaken_false : hintsTaken false r = true ↔ r.hints = [] := by
  cases h : r.hints <;> simp [hintsTaken, h]

theorem hintsTaken_true : hintsTaken true r = true ↔ r.hints.length = 1 ∧ immCount r = 1 := decide_eq_true_iff

/-- Sparge meets a unit of the crew in focus, which has no stall field. -/
structure SpargeTurn (r : Run) (s : State) : Prop where
  agent : s.agent = .sparge
  ready : spargeReady s = true
  stl : r.stl = 0#2

theorem sliceOp_sparge (ha : s.agent = .sparge) (hr : spargeReady s = true) :
    sliceOp word r imm ok f s =
      if r.stl ≠ 0#2 ∨ hintsTaken imm r = false ∨ ok = false then .next (sliceError s) else .next (f s) := by
  unfold sliceOp
  rw [ha]
  exact if_neg (by rw [hr]; decide)

/-- A word that Sparge does not refuse takes its effect. -/
theorem SpargeTurn.runs (h : SpargeTurn r s) (hx : exec i s = sliceOp word r imm ok f s) (hh : hintsTaken imm r = true)
    (hok : ok = true) (hf : f s = t) : exec i s = .next t := by
  rw [hx, sliceOp_sparge h.agent h.ready, if_neg (by simp [h.stl, hh, hok]), hf]

/-- A word whose meaning ends in a slice error wherever its checks let it come so far is a slice error. -/
theorem SpargeTurn.stops (h : SpargeTurn r s) (hx : exec i s = sliceOp word r imm ok f s)
    (hf : hintsTaken imm r = true → ok = true → f s = sliceError s) : exec i s = .next (sliceError s) := by
  rw [hx, sliceOp_sparge h.agent h.ready]
  split
  · rfl
  · next hgo =>
    simp only [not_or, Bool.not_eq_false] at hgo
    obtain ⟨-, hh, hok⟩ := hgo
    exact congrArg _ (hf hh hok)

/-- A word with hints that it does not take, or with a field out of range, is a slice error (R246). -/
theorem SpargeTurn.refuses (h : SpargeTurn r s) (hx : exec i s = sliceOp word r imm ok f s)
    (hbad : hintsTaken imm r = false ∨ ok = false) : exec i s = .next (sliceError s) :=
  h.stops hx fun hh hok => by simp [hh, hok] at hbad

theorem hintsTaken_of_hints (h : r.hints ≠ []) : hintsTaken false r = false :=
  Bool.eq_false_iff.2 fun hh => h (hintsTaken_false.1 hh)

/-- A unit beyond a limit of its instruction enters the handler with cause 0x01 (R72 step 3, R161). -/
theorem entered_of_lims {o : Op} (hx : exec i s = unit o f s) (ho : o.lims = false) (hc : clear o.run s = true)
    (hh : handles s) :
    ∃ t, exec i s = .next t ∧
      Entered { cause := 0x01, lanes := s.part.exm, info := BitVec.ofNat 64 (o.word.toNat + 3 * 2 ^ 32), addr := 0#64 }
        (unitWords o.run) s t := by
  have hrej : rejectOp o s = some { cause := 0x01, step := 3, word := o.word } := by simp [rejectOp, ho]
  exact ⟨_, hx.trans (unit_of_reject hc hrej f), trap_entered hh⟩

theorem agent_of_clear (h : clear r s = true) : s.agent = .wave := by
  simp only [clear, Bool.and_eq_true, beq_iff_eq] at h
  obtain ⟨⟨⟨⟨⟨-, ha⟩, -⟩, -⟩, -⟩, -⟩ := h
  exact ha

/-- In a wave a word of Sparge is illegal (R240). -/
theorem sliceOp_wave (ha : s.agent = .wave) :
    sliceOp word r imm ok f s = unit { Op.plain word r 0 [] with lims := false } id s := by
  rw [sliceOp, ha]

theorem updSlice_updSlice (f g : Slice → Slice) (s : State) : updSlice f (updSlice g s) = updSlice (fun x => f (g x)) s := rfl

/-- The next word after one without hints. -/
theorem sliceNext_of_no_hints (hh : r.hints = []) (s : State) :
    sliceNext r s = updSlice (fun x => { x with pc := x.pc + 4#64, state := 1 }) s := by
  simp [sliceNext, unitWords, hh]

/-- The next word after one with one hint. -/
theorem sliceNext_of_one_hint (hl : r.hints.length = 1) (s : State) :
    sliceNext r s = updSlice (fun x => { x with pc := x.pc + 8#64, state := 1 }) s := by
  simp [sliceNext, unitWords, hl]

/-! ### ALOOP, AEND, AHALT (R242, R245) -/

theorem exec_aloop_of_opened (h : SpargeTurn r s) (hh : r.hints = []) (hk : k.toNat < 4) (ha : a.toNat < 16)
    (hd : s.crew.slice.depth = k.toNat) (h1 : 1 ≤ (areg s a).toNat) (h2 : (areg s a).toNat ≤ 2 ^ 32) :
    exec (.aloop r k a) s = .next { s with crew := { s.crew with slice := { s.crew.slice with
      ctr := cset 0 s.crew.slice.ctr k.toNat 0, cnt := cset 0 s.crew.slice.cnt k.toNat (areg s a).toNat,
      loop := cset 0#64 s.crew.slice.loop k.toNat (s.crew.slice.pc + 4#64), depth := k.toNat + 1,
      pc := s.crew.slice.pc + 4#64, state := 1 } } } :=
  h.runs (exec_aloop ..) (hintsTaken_false.2 hh) (by simp [hk, ha])
    ((if_pos ⟨hd, h1, h2⟩).trans (sliceNext_of_no_hints hh _))

theorem exec_aloop_of_misplaced (h : SpargeTurn r s)
    (hbad : s.crew.slice.depth ≠ k.toNat ∨ (areg s a).toNat = 0 ∨ 2 ^ 32 < (areg s a).toNat) :
    exec (.aloop r k a) s = .next (sliceError s) :=
  h.stops (exec_aloop ..) fun _ _ => if_neg fun ⟨hd, h1, h2⟩ => by omega

theorem exec_aend_of_misplaced (h : SpargeTurn r s) (hbad : s.crew.slice.depth ≠ k.toNat + 1) :
    exec (.aend r k) s = .next (sliceError s) := h.stops (exec_aend ..) fun _ _ => if_pos hbad

theorem exec_aend_of_round (h : SpargeTurn r s) (hh : r.hints = []) (hk : k.toNat < 4)
    (hd : s.crew.slice.depth = k.toNat + 1) (hlt : cget 0 s.crew.slice.ctr k.toNat + 1 < cget 0 s.crew.slice.cnt k.toNat) :
    exec (.aend r k) s = .next { s with crew := { s.crew with slice := { s.crew.slice with
      ctr := cset 0 s.crew.slice.ctr k.toNat (cget 0 s.crew.slice.ctr k.toNat + 1),
      pc := cget 0#64 s.crew.slice.loop k.toNat, state := 1 } } } :=
  h.runs (exec_aend ..) (hintsTaken_false.2 hh) (by simp [hk]) ((if_neg (not_not.2 hd)).trans (if_pos hlt))

theorem exec_aend_of_closed (h : SpargeTurn r s) (hh : r.hints = []) (hk : k.toNat < 4)
    (hd : s.crew.slice.depth = k.toNat + 1) (hle : cget 0 s.crew.slice.cnt k.toNat ≤ cget 0 s.crew.slice.ctr k.toNat + 1) :
    exec (.aend r k) s = .next { s with crew := { s.crew with slice := { s.crew.slice with
      ctr := cset 0 s.crew.slice.ctr k.toNat 0, depth := k.toNat, pc := s.crew.slice.pc + 4#64, state := 1 } } } :=
  h.runs (exec_aend ..) (hintsTaken_false.2 hh) (by simp [hk])
    ((if_neg (not_not.2 hd)).trans ((if_neg (Nat.not_lt.2 hle)).trans (sliceNext_of_no_hints hh _)))

theorem exec_ahalt_of_turn (h : SpargeTurn r s) (hh : r.hints = []) :
    exec (.ahalt r) s = .next { s with crew := { s.crew with slice := { s.crew.slice with
      pc := s.crew.slice.pc + 4#64, state := 4 } } } :=
  h.runs (exec_ahalt ..) (hintsTaken_false.2 hh) rfl (congrArg _ (sliceNext_of_no_hints hh s))

/-! ### ASIG (R245) -/

theorem exec_asig_of_signals (h : SpargeTurn r s) (hh : r.hints = []) (ha : a.toNat < 16) (hb : b.toNat < 16)
    (hal : (areg s a).toNat % 8 = 0) (hin : (areg s a).toNat + 8 ≤ s.crew.scr) (hc : s.crew.copies.any (·.slice) = false)
    (hbar : touchesBar s.crew (areg s a).toNat 8 = false) :
    exec (.asig r a b) s = .next { s with crew := { scrWrite (areg s a).toNat
        (bytes64 (areg s b + BitVec.ofNat 64 (cget 0 s.crew.slice.execs (sliceWord r s) + 1))) s.crew with
      slice := { s.crew.slice with
        execs := cset 0 s.crew.slice.execs (sliceWord r s) (cget 0 s.crew.slice.execs (sliceWord r s) + 1),
        pc := s.crew.slice.pc + 4#64, state := 1 } } } := by
  refine h.runs (exec_asig ..) (hintsTaken_false.2 hh) (by simp [ha, hb]) ?_
  refine (if_neg (by omega)).trans ((if_neg (by simp [hc])).trans ((if_neg (by simp [hbar])).trans ?_))
  exact sliceNext_of_no_hints hh _

theorem exec_asig_of_waits (h : SpargeTurn r s) (hh : r.hints = []) (ha : a.toNat < 16) (hb : b.toNat < 16)
    (hal : (areg s a).toNat % 8 = 0) (hin : (areg s a).toNat + 8 ≤ s.crew.scr) (hc : s.crew.copies.any (·.slice) = true) :
    exec (.asig r a b) s = .next s :=
  h.runs (exec_asig ..) (hintsTaken_false.2 hh) (by simp [ha, hb]) ((if_neg (by omega)).trans (if_pos hc))

theorem exec_asig_of_misplaced (h : SpargeTurn r s)
    (hbad : (areg s a).toNat % 8 ≠ 0 ∨ s.crew.scr < (areg s a).toNat + 8) : exec (.asig r a b) s = .next (sliceError s) :=
  h.stops (exec_asig ..) fun _ _ => if_pos hbad

/-! ### ACPY (R244) -/

/-- The handle of its ring that an ACPY takes. -/
def ringHandle (r : Run) (n : BitVec 7) (s : State) : Nat :=
  n.toNat + cget 0 s.crew.slice.execs (sliceWord r s) % ((payload r 0).getD 0 / 2 ^ 20 + 1)

/-- The bytes that an ACPY copies. -/
def ringLength (r : Run) : Nat := 16 * ((payload r 0).getD 0 % 2 ^ 20)

theorem ringLength_eq_zero : ringLength r = 0 ↔ (payload r 0).getD 0 % 2 ^ 20 = 0 := by
  unfold ringLength
  omega

/-- The fill copy of an ACPY. -/
def ringCopy (r : Run) (n a g : BitVec 7) (s : State) : Copy :=
  { ord := s.crew.copyOrd, fn := 3, ctl := 2 ^ 16 + ringHandle r n s * 2 ^ 10, trk := none, trks := [], bound := s.crew.trk,
    hnd := some (ringHandle r n s), cwOff := 0, cwVal := 0#64, desc := [], lanes := [(0, affine s a g, 0#64)],
    size := ringLength r, lines := [], phase := 0, poll := 0, ct := 0, squash := false, slice := true }

theorem not_refuses {x : Buf} (hb : bufAccepts 1 x = true) : ¬ (!bufAccepts 1 x) = true := by simp [hb]

theorem exec_acpy_of_misplaced (h : SpargeTurn r s) (hbad : s.crew.nbuf ≤ ringHandle r n s ∨ ringLength r = 0) :
    exec (.acpy r n a g) s = .next (sliceError s) := h.stops (exec_acpy ..) fun _ _ => if_pos hbad

theorem exec_acpy_of_small (h : SpargeTurn r s) (hin : ringHandle r n s < s.crew.nbuf) (hlen : ringLength r ≠ 0)
    (hb : bufAccepts 1 (getBuf s.crew (ringHandle r n s)) = true)
    (hs : (getBuf s.crew (ringHandle r n s)).size < ringLength r) : exec (.acpy r n a g) s = .next (sliceError s) :=
  h.stops (exec_acpy ..) fun _ _ =>
    (if_neg (not_or.2 ⟨Nat.not_le.2 hin, hlen⟩)).trans ((if_neg (not_refuses hb)).trans (if_pos hs))

section
variable (h : SpargeTurn r s) (hl : r.hints.length = 1) (hi : immCount r = 1) (ha : a.toNat < 16) (hg : groupOk g = true)
  (hin : ringHandle r n s < s.crew.nbuf) (hlen : ringLength r ≠ 0)
include h hl hi ha hg hin hlen

theorem exec_acpy_of_refusing (hb : bufAccepts 1 (getBuf s.crew (ringHandle r n s)) = false) :
    exec (.acpy r n a g) s = .next (updSlice (fun x => { x with state := 3 }) s) :=
  h.runs (exec_acpy ..) (hintsTaken_true.2 ⟨hl, hi⟩) (by simp [ha, hg])
    ((if_neg (not_or.2 ⟨Nat.not_le.2 hin, hlen⟩)).trans (if_pos ((congrArg (!·) hb).trans rfl)))

/-- An ACPY that its handle accepts starts its copy, counts its execution and goes on behind its hint. -/
theorem exec_acpy_of_starts (hb : bufAccepts 1 (getBuf s.crew (ringHandle r n s)) = true)
    (hs : ringLength r ≤ (getBuf s.crew (ringHandle r n s)).size)
    (hast : (ringCopy r n a g s).astray s = none) (hfull : fullEngine s = false) :
    exec (.acpy r n a g) s = .next (updSlice (fun x => { x with
      execs := cset 0 x.execs (sliceWord r s) (cget 0 x.execs (sliceWord r s) + 1), pc := x.pc + 8#64, state := 1 })
        (startCopy (ringCopy r n a g s) s)) := by
  refine h.runs (exec_acpy ..) (hintsTaken_true.2 ⟨hl, hi⟩) (by simp [ha, hg]) ?_
  refine (if_neg (not_or.2 ⟨Nat.not_le.2 hin, hlen⟩)).trans ((if_neg (not_refuses hb)).trans
    ((if_neg (Nat.not_lt.2 hs)).trans ?_))
  show (match (ringCopy r n a g s).astray s with
    | some _ => _
    | none => if fullEngine s = true then s else
      sliceNext r (updSlice (fun x => { x with
        execs := cset 0 x.execs (sliceWord r s) (cget 0 x.execs (sliceWord r s) + 1) }) (startCopy (ringCopy r n a g s) s))) = _
  rw [hast]
  refine (if_neg (by simp [hfull])).trans ?_
  rw [sliceNext_of_one_hint hl, updSlice_updSlice]

end

/-! ### ASTRM (R243) -/

/-- An address this low names the global window. -/
theorem steer_of_low {x : W64} {m : Nat} (hm : m ≤ 128) (h : x.toNat < 2 ^ 56 - 128) :
    steer s none x m = .glob x.toNat false := by
  have hwin : x.toNat / 2 ^ 56 = 0 := Nat.div_eq_of_lt (by omega)
  have hoff : x.toNat % 2 ^ 56 = x.toNat := Nat.mod_eq_of_lt (by omega)
  simp only [steer, hwin, hoff]
  exact if_pos (by omega)

/-- A part of an ASTRM that may be read, with its length. -/
def partReady (s : State) (p : Nat × Nat) : Option (Ready × Nat) :=
  match astrmPlace s p with
  | .ok x => some (x, p.2)
  | .error _ => none

/-- Why a part of an ASTRM fails, with its address. -/
def partFault (s : State) (p : Nat × Nat) : Option (Nat × Reason) :=
  match astrmPlace s p with
  | .error e => some (p.1, e)
  | .ok _ => none

theorem partFault_of_isOk (h : (astrmPlace s p).isOk = true) : partFault s p = none := by
  unfold partFault
  split
  · next he => rw [he] at h; cases h
  · rfl

theorem partReady_of_isOk (h : (astrmPlace s p).isOk = true) : (partReady s p).map (·.2) = some p.2 := by
  unfold partReady
  split
  · rfl
  · next he => rw [he] at h; cases h

/-- Where every part may be read, the parts read are as long as the parts. -/
theorem lengths_partReady (h : ∀ p ∈ parts, (astrmPlace s p).isOk = true) :
    (parts.filterMap (partReady s)).map (·.2) = parts.map (·.2) := by
  induction parts with
  | nil => rfl
  | cons p t ih =>
    obtain ⟨y, hy, hlen⟩ := Option.map_eq_some_iff.1 (partReady_of_isOk (h p List.mem_cons_self))
    rw [List.filterMap_cons_some hy, List.map_cons, List.map_cons, hlen, ih fun x hx => h x (List.mem_cons_of_mem _ hx)]

theorem sum_astrmParts (m : Nat) : ((astrmParts m).map (·.2)).sum = 128 := by
  unfold astrmParts
  split
  · rfl
  · simp only [List.map_cons, List.map_nil, List.sum_cons, List.sum_nil]
    omega

theorem astrmRead_sendFrame (x : State × List (Nat × Nat × Byte)) (qn : Ready × Nat) : SendFrame x.1 (astrmRead x qn).1 := by
  unfold astrmRead
  dsimp only
  split
  · exact send_sendFrame ..
  · exact .refl _

theorem length_foldl_astrmRead (qs : List (Ready × Nat)) (x : State × List (Nat × Nat × Byte)) :
    (qs.foldl astrmRead x).2.length = x.2.length + (qs.map (·.2)).sum := by
  induction qs generalizing x with
  | nil => rfl
  | cons qn t ih =>
    have hone : (astrmRead x qn).2.length = x.2.length + qn.2 := by simp [astrmRead]
    rw [List.foldl_cons, ih, hone, List.map_cons, List.sum_cons, Nat.add_assoc]

/-- The reads of the parts from an address on that may be read, and the bytes of the entry so far. -/
def astrmReads (s : State) (m : Nat) : State × List (Nat × Nat × Byte) :=
  ((astrmParts m).filterMap (partReady s)).foldl astrmRead (s, [])

theorem astrmReads_sendFrame (s : State) (m : Nat) : SendFrame s (astrmReads s m).1 :=
  foldl_keeps (P := fun x : State × List (Nat × Nat × Byte) => SendFrame s x.1)
    (fun x qn h => h.trans (astrmRead_sendFrame x qn)) _ (s, []) (.refl s)

theorem slice_astrmReads (s : State) (m : Nat) : (astrmReads s m).1.crew.slice = s.crew.slice := by
  rw [(astrmReads_sendFrame s m).crew]

theorem scratch_astrmReads (s : State) (m : Nat) : (astrmReads s m).1.crew.scratch = s.crew.scratch := by
  rw [(astrmReads_sendFrame s m).crew]

theorem length_astrmReads {m : Nat} (h : ∀ p ∈ astrmParts m, (astrmPlace s p).isOk = true) :
    (astrmReads s m).2.length = 128 := by
  rw [astrmReads, length_foldl_astrmRead, lengths_partReady h, sum_astrmParts]
  rfl

theorem exec_astrm_of_misplaced (h : SpargeTurn r s)
    (hbad : (affine s a g).toNat % 16 ≠ 0 ∨ steer s none (affine s a g) 128 = .bad ∨
      ∃ o, steer s none (affine s a g) 128 = .scratch o) : exec (.astrm r q a g) s = .next (sliceError s) := by
  refine h.stops (exec_astrm ..) fun _ _ => if_pos (hbad.imp id ?_)
  rintro (ht | ⟨o, ht⟩) <;> rw [ht]

/-- An ASTRM whose parts may be read and find room sends its reads, and its entry waits for them. -/
theorem exec_astrm_of_sends (h : SpargeTurn r s) (hh : r.hints = []) (hq : q.toNat < 8) (ha : a.toNat < 16)
    (hg : groupOk g = true) (hal : (affine s a g).toNat % 16 = 0) (hlow : (affine s a g).toNat < 2 ^ 56 - 128)
    (hok : ∀ p ∈ astrmParts (affine s a g).toNat, (astrmPlace s p).isOk = true)
    (hclean : ((astrmParts (affine s a g).toNat).filterMap (partReady s)).any (fun y =>
      decide ((astrmFixed y.1 y.2 s).length = y.2) && poisonedL1 s (y.1.place.pa / 128) (y.1.place.pa % 128) y.2) = false)
    (hroom : roomFor s (((astrmParts (affine s a g).toNat).filterMap (partReady s)).map (·.1.trk)) = true) :
    exec (.astrm r q a g) s = .next (updSlice
      (fun x => { x with push := some (q.toNat, (astrmReads s (affine s a g).toNat).2) })
      (astrmReads s (affine s a g).toNat).1) := by
  have hbad : (astrmParts (affine s a g).toNat).filterMap (partFault s) = [] :=
    List.filterMap_eq_nil_iff.2 fun p hp => partFault_of_isOk (hok p hp)
  refine h.runs (exec_astrm ..) (hintsTaken_false.2 hh) (by simp [hq, ha, hg]) ?_
  refine (if_neg ?_).trans ((if_neg (not_not.2 hbad)).trans ((if_neg ?_).trans ((if_neg ?_).trans rfl)))
  · rw [steer_of_low (Nat.le_refl 128) hlow]
    simp [hal]
  · exact fun hany => Bool.noConfusion (hclean.symm.trans hany)
  · exact fun hno => Bool.noConfusion (hroom.symm.trans (Bool.eq_false_of_not_eq_true' hno))

/-! ### The push of an entry (R243) -/

/-- An access of which a byte of the entry waits. -/
def awaited (bs : List (Nat × Nat × Byte)) (x : Access) : Bool := bs.any (fun y => y.1 == x.id && y.1 != 0)

theorem lineMarked_zero (off m : Nat) : lineMarked 0 off m = false :=
  List.any_eq_false.2 fun w _ => by simp [blockMarked]

/-- An entry whose accesses have come back sound goes to the tail of a queue with room. -/
theorem exec_astrmPush_of_back {m : Nat} (hr : s.crew.cond = .resident) (hn : noParts s = false)
    (hp : s.crew.slice.push = some (m, bs))
    (hb : ∀ x ∈ s.net, awaited bs x = true → x.back = true ∧ ∀ z, x.ans = some z → z.failed = false ∧ z.poison = 0)
    (hroom : (queueOf s.crew m).length < 16) :
    exec (.astrmPush s.crew.cid) s = .next { s with
      net := s.net.filter (fun x => !(s.net.filter (awaited bs)).any (fun y => y.id == x.id)),
      crew := { s.crew with slice := { s.crew.slice with
        queues := cset [] s.crew.slice.queues m (queueOf s.crew m ++ [entryBytes s bs]), push := none,
        pc := s.crew.slice.pc + 4#64, state := 1 } } } := by
  have hmine : ∀ x ∈ s.net.filter (awaited bs), x.back = true ∧ ∀ z, x.ans = some z → z.failed = false ∧ z.poison = 0 :=
    fun x hx => hb x (List.mem_of_mem_filter hx) (List.mem_filter.1 hx).2
  have hback : (s.net.filter (awaited bs)).any (fun x => !x.back) = false :=
    List.any_eq_false.2 fun x hx => by simp [(hmine x hx).1]
  have hsound : (s.net.filter (awaited bs)).find? (fun x => (x.ans.map (·.failed)).getD false) = none :=
    List.find?_eq_none.2 fun x hx => by
      cases hans : x.ans with
      | none => simp
      | some z => simp [((hmine x hx).2 z hans).1]
  have hclean : (s.net.filter (awaited bs)).any (fun x => bs.any (fun y => y.1 == x.id &&
      lineMarked ((x.ans.map Answer.poison).getD 0) y.2.1 1)) = false :=
    List.any_eq_false.2 fun x hx => by
      have hzero : (x.ans.map Answer.poison).getD 0 = 0 := by
        cases hans : x.ans with
        | none => rfl
        | some z => exact ((hmine x hx).2 z hans).2
      simp [hzero, lineMarked_zero]
  rw [exec_astrmPush]
  simp only [execAstrmPush, focusCrew_self hr, hp]
  refine (if_neg ?_).trans ?_
  · rintro (h | h | h | h)
    · exact h rfl
    · exact h hr
    · exact Bool.noConfusion (hn.symm.trans h)
    · exact Bool.noConfusion (hback.symm.trans h)
  · show (match (s.net.filter (awaited bs)).find? (fun x => (x.ans.map (·.failed)).getD false) with
      | some x => Host.Outcome.next (astrmFault [(128 * x.line, 2)] s)
      | none => _) = _
    rw [hsound]
    refine (if_neg ?_).trans ((if_neg (Nat.not_le.2 hroom)).trans rfl)
    exact fun h => Bool.noConfusion (hclean.symm.trans h)

/-! ### The obligation -/

/-- The words that Sparge runs, each with its encoding (not compiled, as `exec` is not: log 41). -/
noncomputable def spargeWords (r : Run) (a k b : BitVec 7) : List (Instr × W32) :=
  [(.aloop r k a, wRRR 21 r k a 0#7 0), (.aend r k, wRRR 21 r k 0#7 0#7 1), (.astrm r k a b, wRRR 21 r k a b 2),
    (.acpy r k a b, wRRR 21 r k a b 3), (.asig r a b, wRRR 21 r 0#7 a b 4), (.ahalt r, wRRR 21 r 0#7 0#7 0#7 5)]

theorem sliceOp_of_mem_spargeWords (h : (i, word) ∈ spargeWords r a k b) (s : State) :
    ∃ imm ok f, exec i s = sliceOp word r imm ok f s := by
  simp only [spargeWords, List.mem_cons, Prod.mk.injEq, List.not_mem_nil, or_false] at h
  rcases h with ⟨rfl, rfl⟩ | ⟨rfl, rfl⟩ | ⟨rfl, rfl⟩ | ⟨rfl, rfl⟩ | ⟨rfl, rfl⟩ | ⟨rfl, rfl⟩
  · exact ⟨_, _, _, exec_aloop ..⟩
  · exact ⟨_, _, _, exec_aend ..⟩
  · exact ⟨_, _, _, exec_astrm ..⟩
  · exact ⟨_, _, _, exec_acpy ..⟩
  · exact ⟨_, _, _, exec_asig ..⟩
  · exact ⟨_, _, _, exec_ahalt ..⟩

/-- Settles O38: each clause on a word of Sparge is the lemma of that word, or `SpargeTurn.refuses` where the word is
ill-formed; in a wave every such word is illegal. -/
theorem sliceUnits : Obligations.SliceUnits := by
  refine ⟨fun r k a b q g n s hagent hready hstl => ?words, fun r d a k b => ?events⟩
  case words =>
    have h : SpargeTurn r s := ⟨hagent, hready, hstl⟩
    intro x err is addr parts qs imm w hd c
    have hasLength (hlen : imm % 2 ^ 20 ≠ 0) : ringLength r ≠ 0 := mt ringLength_eq_zero.1 hlen
    refine ⟨fun hh hk ha => ⟨exec_aloop_of_opened h hh hk ha, exec_aloop_of_misplaced h⟩,
      fun _ hdep => exec_aend_of_misplaced h hdep,
      fun hh hk hdep => ⟨exec_aend_of_round h hh hk hdep, exec_aend_of_closed h hh hk hdep⟩,
      fun hh hq ha hg hal hlow hok hclean hroom => ?astrm, fun hl hi ha hg hin hlen hb hs hast hfull => ?acpy,
      fun hh ha hb hal hin hc hbar => exec_asig_of_signals h hh ha hb hal hin hc hbar,
      fun hl hi ha hg hlen hin => ⟨exec_acpy_of_refusing h hl hi ha hg hin (hasLength hlen),
        exec_acpy_of_small h hin (hasLength hlen)⟩,
      fun hbad => exec_acpy_of_misplaced h (hbad.imp_right ringLength_eq_zero.2),
      fun hh ha hb hal hin hc => exec_asig_of_waits h hh ha hb hal hin hc, fun hbad => exec_asig_of_misplaced h hbad,
      fun hbad => exec_astrm_of_misplaced h hbad, fun hh => exec_ahalt_of_turn h hh, fun hk => ?loopOut, fun ha => ?registerOut,
      fun hb => ?operandOut, fun hq => ?queueOut, fun hg => ?groupOut, fun hne => ?hinted, fun hbad => ?unhinted⟩
    case astrm =>
      have hlane := (astrmReads_sendFrame s addr.toNat).lane
      refine ⟨_, exec_astrm_of_sends h hh hq ha hg hal hlow hok hclean hroom, ⟨_, ?_, length_astrmReads hok⟩, ?_, ?_, ?_⟩
      · rw [updSlice_crew, slice_astrmReads]
      · rw [updSlice_part, hlane.part]
      · rw [updSlice_crew, scratch_astrmReads]
      · rw [updSlice_memsys, hlane.memsys]
    case acpy =>
      obtain ⟨hpart, -, hbytes, -⟩ := startCopy_effect (ringCopy r n a g s) s
      refine ⟨_, exec_acpy_of_starts h hl hi ha hg hin (hasLength hlen) hb hs hast hfull, ?_, ?_, ?_, ?_⟩
      · rw [updSlice_part, hpart]
      · rw [updSlice_memsys, hbytes]
      · rw [updSlice_crew, copies_startCopy]
        exact List.length_append
      · rw [updSlice_crew, slice_startCopy]
    case loopOut =>
      have hout : decide (k.toNat < 4) = false := decide_eq_false (Nat.not_lt.2 hk)
      exact ⟨h.refuses (exec_aloop ..) (.inr (by simp [hout])), h.refuses (exec_aend ..) (.inr hout)⟩
    case registerOut =>
      have hout : decide (a.toNat < 16) = false := decide_eq_false (Nat.not_lt.2 ha)
      exact ⟨h.refuses (exec_aloop ..) (.inr (by simp [hout])), h.refuses (exec_astrm ..) (.inr (by simp [hout])),
        h.refuses (exec_acpy ..) (.inr (by simp [hout])), h.refuses (exec_asig ..) (.inr (by simp [hout]))⟩
    case operandOut => exact h.refuses (exec_asig ..) (.inr (by simp [Nat.not_lt.2 hb]))
    case queueOut => exact h.refuses (exec_astrm ..) (.inr (by simp [Nat.not_lt.2 hq]))
    case groupOut =>
      exact ⟨h.refuses (exec_astrm ..) (.inr (by simp [hg])), h.refuses (exec_acpy ..) (.inr (by simp [hg]))⟩
    case hinted =>
      have hints := hintsTaken_of_hints hne
      exact ⟨h.refuses (exec_aloop ..) (.inl hints), h.refuses (exec_aend ..) (.inl hints),
        h.refuses (exec_astrm ..) (.inl hints), h.refuses (exec_asig ..) (.inl hints), h.refuses (exec_ahalt ..) (.inl hints)⟩
    case unhinted =>
      refine h.refuses (exec_acpy ..) (.inl (Bool.eq_false_iff.2 fun hh => ?_))
      obtain ⟨hone, himm⟩ := hintsTaken_true.1 hh
      exact hbad.elim (· himm) (· hone)
  case events =>
    intro words
    refine ⟨fun s m bs hr hn hp hb hroom => ?push, fun s hr => ⟨fun hst => ?start, fun h0 h4 => ?startWaits⟩, fun s hr => ?stat,
      fun s i w hmem hc hh => ?wave, fun s i w hmem ha hr hstl => ?stalled⟩
    case push => exact ⟨_, exec_astrmPush_of_back hr hn hp hb hroom, rfl, rfl, rfl⟩
    case start => exact exec_eq_of_ready (exec_astart ..) hr (if_pos hst)
    case startWaits => exact exec_eq_of_ready (exec_astart ..) hr (if_neg (not_or.2 ⟨h0, h4⟩))
    case stat => exact ⟨_, exec_eq_of_ready (exec_astat ..) hr rfl, wrS_done ..⟩
    case wave =>
      obtain ⟨imm, ok, f, hx⟩ := sliceOp_of_mem_spargeWords (r := r) hmem s
      have hunit := hx.trans (sliceOp_wave (agent_of_clear hc))
      exact entered_of_lims (o := { Op.plain w r 0 [] with lims := false }) hunit rfl hc hh
    case stalled =>
      obtain ⟨imm, ok, f, hx⟩ := sliceOp_of_mem_spargeWords (r := r) hmem s
      rw [hx, sliceOp_sparge ha hr, if_pos (.inl hstl)]

end Sys2Proof.Machine
end

section
/-! PROOFS of O39, MATX units at issue. A command is a list of checks (`firstFail`); `acceptCmd` has one rule per check that
fails, and one for a command that passes them all. -/

set_option Elab.async false

namespace Sys2Proof.Machine

variable {i : Instr} {o : Op} {r : Run} {n a b : BitVec 7} {s : State} {f : State → State}
  {align : List (W64 × Nat)} {x : W64 × Nat} {extent : Nat} {cond : Bool} {c : MCmd}
  {leave : Matrix → Matrix}

/-! ### Checks in order (R258) -/

theorem firstFail_passed (f g : State → State) (l : List (Bool × (State → State))) (s : State) :
    firstFail ((true, g) :: l) f s = firstFail l f s := rfl

theorem firstFail_failed (f g : State → State) (l : List (Bool × (State → State))) (s : State) :
    firstFail ((false, g) :: l) f s = g s := rfl

/-- The part and its crew may use the engine: the part has its group of 16 lanes, and the crew owns the engine (R47, R171). -/
structure HoldsEngine (s : State) : Prop where
  group : groupActive s = true
  owned : s.crew.matrix.owned = true

/-- Each operand is a multiple of what it must be a multiple of. -/
def Aligned (align : List (W64 × Nat)) : Prop := ∀ x ∈ align, x.1.toNat % x.2 = 0

theorem aligned_iff_all : Aligned align ↔ align.all (fun x => x.1.toNat % x.2 == 0) = true := by
  simp only [Aligned, List.all_eq_true, beq_iff_eq]

theorem Aligned.find?_eq_none (h : Aligned align) : align.find? (fun x => x.1.toNat % x.2 != 0) = none :=
  List.find?_eq_none.2 fun x hx => by simp [h x hx]

theorem acceptCmd_of_noGroup (hg : groupActive s = false) :
    acceptCmd r align extent cond c leave s = trapExm 0x06 3 r s := by
  rw [acceptCmd, hg, firstFail_failed]

theorem acceptCmd_of_notOwned (hg : groupActive s = true) (ho : s.crew.matrix.owned = false) :
    acceptCmd r align extent cond c leave s = trapExm 0x06 7 r s := by
  rw [acceptCmd, hg, ho, firstFail_passed, firstFail_failed]

section
variable (h : HoldsEngine s)
include h

theorem acceptCmd_of_misaligned (hx : align.find? (fun x => x.1.toNat % x.2 != 0) = some x) :
    acceptCmd r align extent cond c leave s = misaligned x.2 x.1 r s := by
  rw [acceptCmd, h.group, h.owned, hx]
  rfl

/-- What is left to check of a command whose operands are aligned. -/
theorem acceptCmd_of_aligned (ha : Aligned align) :
    acceptCmd r align extent cond c leave s =
      firstFail [(decide (extent ≤ s.crew.scr), aperture 0#64), (cond, trapExm 0x06 7 r),
          (decide (s.crew.matrix.cmds.length < 8), hold)]
        (fun t => done r (updMatrix (fun m => leave { m with cmds := m.cmds ++ [c] }) t)) s := by
  rw [acceptCmd, h.group, h.owned, ha.find?_eq_none]
  rfl

theorem acceptCmd_of_outside (ha : Aligned align) (he : s.crew.scr < extent) :
    acceptCmd r align extent cond c leave s = aperture 0#64 s := by
  rw [acceptCmd_of_aligned h ha, decide_eq_false (Nat.not_le.2 he), firstFail_failed]

theorem acceptCmd_of_badCond (ha : Aligned align) (he : extent ≤ s.crew.scr) :
    acceptCmd r align extent false c leave s = trapExm 0x06 7 r s := by
  rw [acceptCmd_of_aligned h ha, decide_eq_true he, firstFail_passed, firstFail_failed]

theorem acceptCmd_of_full (ha : Aligned align) (he : extent ≤ s.crew.scr) (hf : 8 ≤ s.crew.matrix.cmds.length) :
    acceptCmd r align extent true c leave s = hold s := by
  rw [acceptCmd_of_aligned h ha, decide_eq_true he, decide_eq_false (Nat.not_lt.2 hf), firstFail_passed, firstFail_passed,
    firstFail_failed]

/-- A command that passes every check joins the queue (R258). -/
theorem acceptCmd_of_passed (ha : Aligned align) (he : extent ≤ s.crew.scr) (hf : s.crew.matrix.cmds.length < 8) :
    acceptCmd r align extent true c leave s =
      done r (updMatrix (fun m => leave { m with cmds := m.cmds ++ [c] }) s) := by
  rw [acceptCmd_of_aligned h ha, decide_eq_true he, decide_eq_true hf]
  rfl

end

/-! ### Commands refused, and commands accepted -/

/-- What stops a command that the engine does not accept, in the order of R258. -/
def CommandChecks (i : Instr) (o : Op) (r : Run) (align : List (W64 × Nat)) (extent : Nat) (cond : Bool) (s : State) : Prop :=
  ready o s = true →
    (groupActive s = false → exec i s = .next (trapExm 0x06 3 r s)) ∧
    (groupActive s = true → s.crew.matrix.owned = false → exec i s = .next (trapExm 0x06 7 r s)) ∧
    (groupActive s = true → s.crew.matrix.owned = true →
      (∀ x, align.find? (fun x => x.1.toNat % x.2 != 0) = some x → exec i s = .next (misaligned x.2 x.1 r s)) ∧
      (align.all (fun x => x.1.toNat % x.2 == 0) = true →
        (s.crew.scr < extent → exec i s = .next (aperture 0#64 s)) ∧
        (extent ≤ s.crew.scr → cond = false → exec i s = .next (trapExm 0x06 7 r s)) ∧
        (extent ≤ s.crew.scr → cond = true → 8 ≤ s.crew.matrix.cmds.length → exec i s = .next (hold s))))

theorem commandChecks_of_eq (hx : exec i s = unit o f s) (hf : f s = acceptCmd r align extent cond c leave s) :
    CommandChecks i o r align extent cond s := by
  intro hr
  have ends {t : State} (ht : acceptCmd r align extent cond c leave s = t) : exec i s = .next t :=
    exec_eq_of_ready hx hr (hf.trans ht)
  refine ⟨fun hg => ends (acceptCmd_of_noGroup hg), fun hg ho => ends (acceptCmd_of_notOwned hg ho), fun hg ho => ?_⟩
  have h : HoldsEngine s := ⟨hg, ho⟩
  refine ⟨fun x hx => ends (acceptCmd_of_misaligned h hx), fun ha => ?_⟩
  rw [← aligned_iff_all] at ha
  refine ⟨fun he => ends (acceptCmd_of_outside h ha he), fun he hc => ends ?_, fun he hc hl => ends ?_⟩
  · exact hc ▸ acceptCmd_of_badCond h ha he
  · exact hc ▸ acceptCmd_of_full h ha he hl

/-- A command that its checks let pass joins the queue, and the engine's record changes as the command leaves it. -/
theorem exec_of_accepted (hx : exec i s = unit o f s) (hr : ready o s = true)
    (hf : f s = acceptCmd r align extent cond c leave s) (h : HoldsEngine s) (hl : s.crew.matrix.cmds.length < 8)
    (ha : Aligned align) (he : extent ≤ s.crew.scr) (hc : cond = true) :
    exec i s = .next (done r { s with crew := { s.crew with
      matrix := leave { s.crew.matrix with cmds := s.crew.matrix.cmds ++ [c] } } }) :=
  exec_eq_of_ready hx hr (hf.trans (hc ▸ acceptCmd_of_passed h ha he hl))

/-! ### Operands -/

theorem toNat_ofNat64_mod_16 (m : Nat) : (BitVec.ofNat 64 m).toNat % 16 = m % 16 := by
  rw [BitVec.toNat_ofNat, Nat.mod_mod_of_dvd _ (by decide)]

theorem toNat_ofNat64_mod_4 (m : Nat) : (BitVec.ofNat 64 m).toNat % 4 = m % 4 := by
  rw [BitVec.toNat_ofNat, Nat.mod_mod_of_dvd _ (by decide)]

theorem aligned_nil : Aligned [] := fun _ h => nomatch h

theorem aligned_single {v : W64} {k : Nat} (h : v.toNat % k = 0) : Aligned [(v, k)] := by
  simpa [Aligned] using h

/-- An area of rows: its start and its stride are multiples of 16. -/
theorem aligned_area {v : W64} {k : Nat} (hv : v.toNat % 16 = 0) (hk : k % 16 = 0) :
    Aligned [(v, 16), (BitVec.ofNat 64 k, 16)] := by
  simp only [Aligned, List.forall_mem_cons, List.not_mem_nil, false_imp_iff, implies_true, and_true]
  exact ⟨hv, (toNat_ofNat64_mod_16 k).trans hk⟩

theorem Aligned.append {m : List (W64 × Nat)} (hl : Aligned align) (hm : Aligned m) : Aligned (align ++ m) :=
  fun x hx => (List.mem_append.1 hx).elim (hl x) (hm x)

/-- The offset of the scales of an MRDO, where it reads them. -/
theorem aligned_scales {k : Nat} {p : Bool} (h : p = true → k % 4 = 0) :
    Aligned (if p then [(BitVec.ofNat 64 k, 4)] else []) := by
  cases p with
  | false => exact aligned_nil
  | true => exact aligned_single ((toNat_ofNat64_mod_4 k).trans (h rfl))

/-- The ends of what an MRDO names lie inside where each of them does. -/
theorem foldl_max_le {k : Nat} : ∀ {l : List Nat} {m : Nat}, m ≤ k → (∀ x ∈ l, x ≤ k) → l.foldl max m ≤ k
  | [], _, hm, _ => hm
  | x :: t, _, hm, hl =>
    foldl_max_le (l := t) (Nat.max_le.2 ⟨hm, hl x List.mem_cons_self⟩) fun y hy => hl y (List.mem_cons_of_mem _ hy)

theorem le_of_scales {p : Bool} {e k : Nat} (h : p = true → e ≤ k) : (if p then e else 0) ≤ k := by
  cases p with
  | false => exact Nat.zero_le _
  | true => exact h rfl

/-- An accumulator image of `m` rows lies inside where its last byte does. -/
theorem image_le {v m k : Nat} (h : v + 64 + 1024 * m ≤ k) : v + imageSize m ≤ k := by
  rwa [imageSize, ← Nat.add_assoc]

/-! ### MSTR (R263) -/

/-- The checks of an MSTR before it issues. -/
def streamOp (queue : Bool) (r : Run) (n a b : BitVec 7) : Op :=
  let w := ctlOf r
  { opMatx 1 r n a b true (if w.testBit 13 then [srcS b] else [srcS a, srcS b]) with
    lims := decide (n.toNat < 4) && (!w.testBit 13 || a == 0#7 || queue), immMin := 1, immMax := 1,
    immOk := w / 2 ^ 17 == 0 && mfmtOk (mfmt w) (mplanes w) (mread w) && (!w.testBit 12 || mfmt w == 0)
      && (w.testBit 13 || w / 2 ^ 14 % 8 == 0) }

/-- The engine conditions of an MSTR. -/
def streamCond (r : Run) (n b : BitVec 7) (s : State) : Bool :=
  let w := ctlOf r
  let sh := sreg s b
  let cls := mclass (mfmt w)
  weightClass s == some cls && (tagLast s n.toNat == 0 || tagLast s n.toNat == cls)
    && decide (shapeM0 sh + shapeM sh ≤ 128) && (w.testBit 13 || decide (vecSize (mfmt w) (mplanes w) ≤ shapeStride sh))
    && (!w.testBit 13 || s.crew.slice.has)

/-- The operands of an MSTR that must be aligned: where its rows come from a queue, none. -/
def streamAlign (r : Run) (a b : BitVec 7) (s : State) : List (W64 × Nat) :=
  if (ctlOf r).testBit 13 then [] else [(sreg s a, 16), (BitVec.ofNat 64 (shapeStride (sreg s b)), 16)]

/-- The end of the rows that an MSTR takes from the scratchpad. -/
def streamExtent (r : Run) (a b : BitVec 7) (s : State) : Nat :=
  if (ctlOf r).testBit 13 then 0
  else (sreg s a).toNat + (shapeM (sreg s b) - 1) * shapeStride (sreg s b) + vecSize (mfmt (ctlOf r)) (mplanes (ctlOf r))

/-- An MSTR at the engine. -/
def issueStream (r : Run) (n a b : BitVec 7) (s : State) : State :=
  acceptCmd r (streamAlign r a b s) (streamExtent r a b s) (streamCond r n b s)
    (mcmd 1 n.toNat r (if (ctlOf r).testBit 13 then 0#64 else sreg s a) (sreg s b) s)
    (fun m => { m with tlast := cset 0 m.tlast n.toNat (mclass (mfmt (ctlOf r))) }) s

theorem mstr_eq (queue : Bool) (r : Run) (n a b : BitVec 7) (s : State) :
    mstr queue r n a b s = unit (streamOp queue r n a b) (issueStream r n a b) s := by
  refine congrArg (unit (streamOp queue r n a b) · s) (funext fun t => ?_)
  dsimp only [issueStream, streamAlign, streamExtent, streamCond]
  cases (ctlOf r).testBit 13 <;> rfl

theorem exec_mstrForm (queue : Bool) (r : Run) (n a b : BitVec 7) (s : State) :
    exec (if queue then .mstrQueue r n b else .mstr r n a b) s =
      unit (streamOp queue r n (if queue then 0#7 else a) b) (issueStream r n (if queue then 0#7 else a) b) s := by
  cases queue with
  | false => exact (exec_mstr ..).trans (mstr_eq ..)
  | true => exact (exec_mstrQueue ..).trans (mstr_eq ..)

theorem issueStream_of_queue (hq : (ctlOf r).testBit 13 = true) : issueStream r n a b s =
    acceptCmd r [] 0 (streamCond r n b s) (mcmd 1 n.toNat r 0#64 (sreg s b) s)
      (fun m => { m with tlast := cset 0 m.tlast n.toNat (mclass (mfmt (ctlOf r))) }) s := by
  simp only [issueStream, streamAlign, streamExtent, hq, if_true]

theorem issueStream_of_scratch (hq : (ctlOf r).testBit 13 = false) : issueStream r n a b s =
    acceptCmd r [(sreg s a, 16), (BitVec.ofNat 64 (shapeStride (sreg s b)), 16)]
      ((sreg s a).toNat + (shapeM (sreg s b) - 1) * shapeStride (sreg s b) + vecSize (mfmt (ctlOf r)) (mplanes (ctlOf r)))
      (streamCond r n b s) (mcmd 1 n.toNat r (sreg s a) (sreg s b) s)
      (fun m => { m with tlast := cset 0 m.tlast n.toNat (mclass (mfmt (ctlOf r))) }) s := by
  simp only [issueStream, streamAlign, streamExtent, hq, Bool.false_eq_true, if_false]

section
variable (hw : weightClass s = some (mclass (mfmt (ctlOf r))))
  (ht : tagLast s n.toNat = 0 ∨ tagLast s n.toNat = mclass (mfmt (ctlOf r)))
  (hm : shapeM0 (sreg s b) + shapeM (sreg s b) ≤ 128)
include hw ht hm

theorem streamCond_of_queue (hq : (ctlOf r).testBit 13 = true) (hs : s.crew.slice.has = true) :
    streamCond r n b s = true := by
  simp [streamCond, hw, ht, hm, hq, hs]

theorem streamCond_of_scratch (hq : (ctlOf r).testBit 13 = false)
    (hs : vecSize (mfmt (ctlOf r)) (mplanes (ctlOf r)) ≤ shapeStride (sreg s b)) : streamCond r n b s = true := by
  simp [streamCond, hw, ht, hm, hq, hs]

end

/-! ### MSTAT (R266) -/

/-- The checks of an MSTAT, and its read of the status word. -/
def readStatus (r : Run) (d w : BitVec 7) (s : State) : State :=
  firstFail
    [(groupActive s, trapExm 0x06 3 r), (s.crew.matrix.owned, trapExm 0x06 7 r),
     (w == 0#7 || s.part.relDone || s.crew.matrix.cmds == [], hold),
     (w == 0#7 || s.part.loads == [], fun u => { u with part := { u.part with wait := .retry, relDone := true } })]
    (fun u => done r (wrS 0 d.toNat (mstatWord u) (updMatrix (fun m => { m with lderr := false }) u))) s

theorem exec_mstat_eq (r : Run) (d w : BitVec 7) (s : State) : exec (.mstat r d w) s =
    unit { opMatx 6 r d 0#7 w false [dstS d] with lims := decide (w.toNat < 2) } (readStatus r d w) s := rfl

variable {d w : BitVec 7}

theorem readStatus_of_noGroup (hg : groupActive s = false) : readStatus r d w s = trapExm 0x06 3 r s := by
  rw [readStatus, hg, firstFail_failed]

theorem readStatus_of_notOwned (hg : groupActive s = true) (ho : s.crew.matrix.owned = false) :
    readStatus r d w s = trapExm 0x06 7 r s := by
  rw [readStatus, hg, ho, firstFail_passed, firstFail_failed]

theorem readStatus_of_stood (h : HoldsEngine s) (hw : w = 0#7 ∨ s.crew.matrix.cmds = [] ∧ s.part.loads = []) :
    readStatus r d w s =
      done r (wrS 0 d.toNat (mstatWord s) (updMatrix (fun m => { m with lderr := false }) s)) := by
  have hcmds : (w == 0#7 || s.part.relDone || s.crew.matrix.cmds == []) = true := by
    rcases hw with hw | ⟨hw, -⟩ <;> simp [hw]
  have hloads : (w == 0#7 || s.part.loads == []) = true := by
    rcases hw with hw | ⟨-, hw⟩ <;> simp [hw]
  rw [readStatus, h.group, h.owned, hcmds, hloads]
  rfl

theorem readStatus_of_waits (h : HoldsEngine s) (hw : w ≠ 0#7) (hc : s.crew.matrix.cmds ≠ [])
    (hd : s.part.relDone = false) : readStatus r d w s = hold s := by
  have hcmds : (w == 0#7 || s.part.relDone || s.crew.matrix.cmds == []) = false := by simp [hw, hd, hc]
  rw [readStatus, h.group, h.owned, hcmds, firstFail_passed, firstFail_passed, firstFail_failed]

/-! ### The statement -/

/-- Settles O39: a command runs its checks, which end as `commandChecks_of_eq` says where one fails, and as
`exec_of_accepted` says where all pass; an MSTAT by the rules of `readStatus`. -/
theorem matrixUnits : Obligations.MatrixUnits := by
  refine ⟨?accepted, ?checked⟩
  case accepted =>
    intro r n a b s
    dsimp only
    intro hg ho hl
    have h : HoldsEngine s := ⟨hg, ho⟩
    refine ⟨fun hr ha hs he hc => ?mwld, fun queue hr hw ht hm => ?mstr, fun hr ha hs he hc hm h3 h4 => ?mrdo,
      fun hr => ?mzero, fun ha he hm => ⟨fun hr => ?macsv, fun hr h3 ht => ?macld⟩⟩
    case mwld => exact exec_of_accepted (exec_mwld ..) hr rfl h hl (aligned_area ha hs) he (decide_eq_true hc)
    case mstr =>
      refine ⟨?queue, ?scratch⟩
      case queue =>
        rintro rfl hq hs
        exact exec_of_accepted (exec_mstrForm true r n a b s) hr (issueStream_of_queue hq) h hl aligned_nil (Nat.zero_le _)
          (streamCond_of_queue hw ht hm hq hs)
      case scratch =>
        rintro rfl hq ha hk he hs
        exact exec_of_accepted (exec_mstrForm false r n a b s) hr (issueStream_of_scratch hq) h hl (aligned_area ha hk) he
          (streamCond_of_scratch hw ht hm hq hs)
    case mrdo =>
      refine exec_of_accepted (leave := id) (exec_mrdo ..) hr rfl h hl ?_ ?_
        (Bool.and_eq_true_iff.2 ⟨decide_eq_true hc, decide_eq_true hm⟩)
      · exact ((aligned_area ha hs).append (aligned_scales fun hp => (h3 hp).1)).append (aligned_scales fun hp => (h4 hp).1)
      · refine foldl_max_le (Nat.zero_le _) ?_
        simp only [List.forall_mem_cons, List.not_mem_nil, false_imp_iff, implies_true, and_true]
        exact ⟨he, le_of_scales fun hp => (h3 hp).2, le_of_scales fun hp => (h4 hp).2⟩
    case mzero => exact exec_of_accepted (exec_mzero ..) hr rfl h hl aligned_nil (Nat.zero_le _) rfl
    case macsv =>
      exact exec_of_accepted (leave := id) (exec_macsv ..) hr rfl h hl (aligned_single ha) (image_le he)
        (decide_eq_true hm)
    case macld =>
      refine (exec_of_accepted (exec_macld ..) hr rfl h hl (aligned_single ha) (image_le he)
        (by simp [hm, h3, or_assoc, ht])).trans ?_
      simp only [Bool.or_eq_true, decide_eq_true_eq, beq_iff_eq]
      split <;> rfl
  case checked =>
    intro r d n a b w s
    dsimp only
    refine ⟨commandChecks_of_eq (exec_mwld ..) rfl, fun queue => ?mstr, commandChecks_of_eq (exec_mrdo ..) rfl,
      commandChecks_of_eq (exec_mzero ..) rfl, commandChecks_of_eq (exec_macsv ..) rfl,
      commandChecks_of_eq (exec_macld ..) rfl, fun hr => ?mstat⟩
    case mstr =>
      exact commandChecks_of_eq (align := streamAlign r _ b s) (extent := streamExtent r _ b s)
        (cond := streamCond r n b s) (exec_mstrForm queue r n a b s) rfl
    case mstat =>
      refine ⟨fun hg => exec_eq_of_ready (exec_mstat_eq ..) hr (readStatus_of_noGroup hg),
        fun hg ho => exec_eq_of_ready (exec_mstat_eq ..) hr (readStatus_of_notOwned hg ho),
        fun hg ho => ⟨fun hw => ?_, fun hw hc hd => ?_⟩⟩
      · exact ⟨_, exec_eq_of_ready (exec_mstat_eq ..) hr (readStatus_of_stood ⟨hg, ho⟩ hw), wrS_done ..⟩
      · exact exec_eq_of_ready (exec_mstat_eq ..) hr (readStatus_of_waits ⟨hg, ho⟩ hw hc hd)

end Sys2Proof.Machine
end

section
/-! PROOFS of O40, the engine at work on the command at the head of its queue. Where the engine is on, its event is one
equation (`exec_matrixCommandStands_of_started`): the command waits for its queue, or works through rows and may stand then. -/

set_option Elab.async false

namespace Sys2Proof.Machine

variable {s : State} {c : MCmd} {rest : List MCmd} {n : Nat} {f : MCmd → MCmd}

/-! ### The engine and its head command -/

theorem resident_of_engineOn {cid : Nat} (h : engineOn cid s = true) : s.crew.cond = .resident := by
  simp only [engineOn, Bool.and_eq_true, beq_iff_eq] at h
  obtain ⟨⟨⟨-, hc⟩, -⟩, -⟩ := h
  exact hc

theorem setHead_of_cons (h : s.crew.matrix.cmds = c :: rest) :
    setHead f s = updMatrix (fun m => { m with cmds := f c :: rest }) s := by
  simp only [setHead, updMatrix, h]

theorem not_starved_of_fn (h : c.fn ≠ 1) : c.starved s = false := by
  simp [MCmd.starved, h]

/-- The head command stands at its cycle where that has come and its rows are done. -/
def standIfDone (due cyc : Nat) (s : State) : State :=
  match s.crew.matrix.cmds with
  | [] => s
  | d :: _ => if due ≤ cyc ∧ d.total ≤ d.rows then headStands due s else s

theorem standIfDone_of_early {due cyc : Nat} (h : cyc < due) : standIfDone due cyc s = s := by
  unfold standIfDone
  split
  · rfl
  · exact if_neg fun hd => Nat.not_lt.2 hd.1 h

theorem standIfDone_of_done {due cyc : Nat} (h : due ≤ cyc) (hc : s.crew.matrix.cmds = c :: rest) (hr : c.total ≤ c.rows) :
    standIfDone due cyc s = updMatrix (fun m => { m with cmds := rest, stoodAt := due }) s := by
  unfold standIfDone
  simp only [hc, h, hr, and_self, if_true, headStands, updMatrix, List.drop_one, List.tail_cons]

/-- The head command with `k` of its rows worked through; an MSTR takes its entries after the pops of the cycle (R260). -/
def workRows (c : MCmd) (k : Nat) (s : State) : State :=
  let u := runRows k (setHead (fun x => { x with due := some (c.stands s.crew.matrix) }) s)
  if c.fn = 1 ∧ c.ctl.testBit 13 = true then afterUnits u else u

/-- The event of an engine whose head command has started: a wait for the queue, or rows (R259). -/
theorem exec_matrixCommandStands_of_started (hon : engineOn s.crew.cid s = true) (hh : s.pkg.halted = false)
    (hc : s.crew.matrix.cmds = c :: rest) (hf : c.fn ≠ 0) (ht : c.start s.crew.matrix ≤ now s) :
    exec (.matrixCommandStands s.crew.cid) s = .next (if c.starved s then
        setHead (fun x => { x with due := some (max (c.stands s.crew.matrix) (now s + 1 + x.busy s.crew.matrix - 24)) }) s
      else standIfDone (c.stands s.crew.matrix) (now s)
        (workRows c (if c.stands s.crew.matrix ≤ now s + 1 then c.total else 1) s)) := by
  have hgo : (!engineOn s.crew.cid s || c.fn == 0 || decide (now s < c.start s.crew.matrix) || (c.due.isNone && s.pkg.halted))
      = false := by
    simp [hon, hf, ht, hh]
  rw [exec_matrixCommandStands]
  simp only [execMatrixCommandStands, focusCrew_self (resident_of_engineOn hon), hc, hgo, Bool.false_eq_true, if_false]
  split
  · rfl
  · cases hz : (workRows c (if c.stands s.crew.matrix ≤ now s + 1 then c.total else 1) s).crew.matrix.cmds with
    | nil =>
      simp only [workRows] at hz
      simp only [standIfDone, workRows, hz]
    | cons d l =>
      simp only [workRows] at hz
      simp only [standIfDone, workRows, hz]
      exact (apply_ite Host.Outcome.next _ _ _).symm

theorem exec_mwldLatch_of_filled (hon : engineOn s.crew.cid s = true) (hh : s.pkg.halted = false)
    (hc : s.crew.matrix.cmds = c :: rest) (hf : c.fn = 0) (ht : c.stands s.crew.matrix ≤ now s) :
    exec (.mwldLatch s.crew.cid) s = .next { s with crew := { s.crew with matrix := { s.crew.matrix with
      weights := some (readWeights c s), latched := c.stands s.crew.matrix, stoodAt := c.stands s.crew.matrix,
      cmds := rest } } } := by
  have hgo : (!engineOn s.crew.cid s || c.fn != 0 || decide (now s < c.stands s.crew.matrix) || s.pkg.halted) = false := by
    simp [hon, hf, ht, hh]
  rw [exec_mwldLatch]
  simp only [execMwldLatch, focusCrew_self (resident_of_engineOn hon), hc, hgo, Bool.false_eq_true, if_false, headStands,
    updMatrix, List.drop_one, List.tail_cons]

/-! ### Rows (R259, R263 to R265) -/

/-- A command with a row to work through, whose queue feeds it, works through it. -/
theorem runRows_succ_of_fed (hc : s.crew.matrix.cmds = c :: rest) (hf : c.fn ≠ 0) (hr : c.rows < c.total)
    (hs : c.starved s = false) (hl : (cmdRow c s).crew.cond ≠ .absent) :
    runRows (n + 1) s = runRows n (setHead (fun x => { x with rows := x.rows + 1 }) (cmdRow c s)) := by
  have hgo : ¬ (c.fn = 0 ∨ c.total ≤ c.rows ∨ c.starved s = true) := by
    simp [hf, hr, hs]
  simp only [runRows, hc, if_neg hgo, if_neg hl]

theorem cget_filter_key {α : Type} (d : α) (p : Nat → Bool) (m : Cells α) (k : Nat) :
    cget d (m.filter (fun e => p e.1)) k = if p k then cget d m k else d := by
  induction m with
  | nil => simp [cget]
  | cons e t ih =>
    obtain ⟨j, v⟩ := e
    by_cases hk : k = j
    · subst hk
      cases hp : p k <;> simp [cget, hp, ih]
    · cases hp : p j <;> simp [cget, hp, hk, ih]

/-- What an MZERO that has stood leaves (R265). -/
def zeroedMatrix (c : MCmd) (rest : List MCmd) (m : Matrix) : Matrix :=
  { m with
    acc := m.acc.filter (fun x => !(decide (32768 * c.acc ≤ x.1 ∧ x.1 < 32768 * (c.acc + 1)))),
    tags := cset 0 m.tags c.acc 0, cmds := rest }

theorem cget_zeroedMatrix_acc (m : Matrix) (k : Nat) : cget 0#32 (zeroedMatrix c rest m).acc k =
    if 32768 * c.acc ≤ k ∧ k < 32768 * (c.acc + 1) then 0#32 else cget 0#32 m.acc k := by
  refine (cget_filter_key _ (fun j => !decide (32768 * c.acc ≤ j ∧ j < 32768 * (c.acc + 1))) _ _).trans ?_
  simp only [Bool.not_eq_true', decide_eq_false_iff_not, ite_not]

/-- An MZERO has one row, which is its whole effect (R265). -/
theorem runRows_one_of_mzero (hr : s.crew.cond = .resident) (hc : s.crew.matrix.cmds = c :: rest) (hf : c.fn = 3)
    (h0 : c.rows = 0) : runRows 1 s = updMatrix (zeroedMatrix c ({ c with rows := 1 } :: rest)) s := by
  have hrow : cmdRow c s = mzeroAll c s := by simp only [cmdRow, hf]
  rw [runRows_succ_of_fed (n := 0) hc (by simp [hf]) (by simp [MCmd.total, hf, h0]) (not_starved_of_fn (by simp [hf]))
    (by simp [hrow, mzeroAll, hr]), hrow, runRows, setHead_of_cons (s := mzeroAll c s) hc, h0]
  rfl

theorem workRows_of_mzero (hr : s.crew.cond = .resident) (hc : s.crew.matrix.cmds = c :: rest) (hf : c.fn = 3)
    (h0 : c.rows = 0) : workRows c 1 s =
      updMatrix (zeroedMatrix c ({ c with due := some (c.stands s.crew.matrix), rows := 1 } :: rest)) s := by
  rw [workRows, setHead_of_cons hc, if_neg (by simp [hf]),
    runRows_one_of_mzero (s := updMatrix _ s) (c := { c with due := some (c.stands s.crew.matrix) }) hr rfl hf h0]
  rfl

/-! ### The statement -/

/-- Settles O40: the event by its equation, and an MZERO by the effect of its one row. -/
theorem matrixEngineSteps : Obligations.MatrixEngineSteps := by
  intro c rest s hon hh hc
  dsimp only
  refine ⟨fun hf h0 hs ht => ?mzero, fun hf ht => exec_mwldLatch_of_filled hon hh hc hf ht, fun hf hs hst => ?waits,
    fun k hf hs hst hlt hrows hk => ?rows⟩
  case mzero =>
    have hf0 : c.fn ≠ 0 := by simp [hf]
    have htotal : c.total = 1 := if_pos (.inl hf)
    have hexec : exec (.matrixCommandStands s.crew.cid) s =
        .next (updMatrix (fun m => { zeroedMatrix c rest m with stoodAt := c.stands s.crew.matrix }) s) := by
      refine (exec_matrixCommandStands_of_started hon hh hc hf0 hs).trans (congrArg _ ?_)
      rw [not_starved_of_fn (by simp [hf]), if_neg Bool.false_ne_true, htotal, ite_self,
        workRows_of_mzero (resident_of_engineOn hon) hc hf h0]
      exact standIfDone_of_done ht rfl (by simp [MCmd.total, hf])
    exact ⟨_, hexec, rfl, cget_zeroedMatrix_acc (rest := rest) s.crew.matrix,
      cget_cset_same 0 s.crew.matrix.tags c.acc 0, rfl, rfl, rfl, rfl⟩
  case waits =>
    have hexec := exec_matrixCommandStands_of_started hon hh hc hf hs
    rw [hst, if_pos rfl, setHead_of_cons hc] at hexec
    exact ⟨_, hexec, rfl, rfl, rfl, rfl⟩
  case rows =>
    have hn : (if c.stands s.crew.matrix ≤ now s + 1 then c.total else 1) = k := by
      rw [hk]
      exact if_congr (by omega) rfl rfl
    refine (exec_matrixCommandStands_of_started hon hh hc hf hs).trans (congrArg _ ?_)
    rw [hst, if_neg Bool.false_ne_true, hn, standIfDone_of_early hlt]
    rfl

end Sys2Proof.Machine
end

section
/-! PROOFS of O6, O52 and O45: what reset leaves, the thresholds of the refresh multiplier, and the samples of RAST. The
search of RAST only goes forward in the order of the pixel index, so each sample's index is at least the one asked for. -/

set_option Elab.async false

namespace Sys2Proof.Machine

/-! ### Reset (R345, R348, R351, R353, R371) -/

theorem getCluster_reset (c : Nat) : getCluster State.reset c = Cluster.reset := rfl

/-- Settles O6: every register of a cluster or a vault reads as the reset value of its map. -/
theorem resetState : Obligations.ResetState := by
  refine ⟨rfl, rfl, rfl, by decide, rfl, rfl, rfl, rfl, rfl, fun n _ => rfl, fun c hc => ?_, ⟨_, rfl, by decide, by decide⟩,
    ⟨_, rfl, by decide⟩⟩
  have hn : lampReg State.reset (0x40 + c) = some 0#64 := if_pos ⟨by omega, by omega⟩
  have hg : lampReg State.reset (0x60 + c) = some Cluster.reset.gctl := by
    rw [lampReg, if_neg (by omega), if_pos ⟨by omega, by omega⟩, getCluster_reset]
  have hb : lampReg State.reset (0x80 + c) = some 0#64 := by
    rw [lampReg, if_neg (by omega), if_neg (by omega), if_pos ⟨by omega, by omega⟩, getCluster_reset]
    rfl
  have ht : lampReg State.reset (0xA0 + c) = some 10#64 := by
    rw [lampReg, if_neg (by omega), if_neg (by omega), if_neg (by omega), if_pos ⟨by omega, by omega⟩, getCluster_reset]
    rfl
  exact ⟨⟨_, hn, by decide, by decide, by decide⟩, ⟨_, hg, by decide, by decide, by decide⟩, hb, ht⟩

/-! ### Refresh (R342 to R344) -/

/-- Settles O52: each clause is one branch of the table of thresholds, or the one step by which MULT falls. -/
theorem refreshThresholds : Obligations.RefreshThresholds := by
  intro mult closed dwelt t hm
  refine ⟨fun h => if_pos h, ?_, ?_, ?_, ?_, ?_, ?_⟩
  · intro h hc
    rw [nextMult, if_neg (by omega), if_pos hc]
  · intro h h' hc
    simp [nextMult, hc, h, not_lt.mpr h']
  · intro h h' hc h0
    rw [nextMult, if_neg (by omega), if_neg (by simp [hc]), if_neg (by omega), if_pos ⟨h, by omega⟩]
  · intro hc h
    rw [nextMult, if_neg (not_lt.mpr h), if_neg (by simp [hc])]
    split_ifs <;> rfl
  · intro hc
    simp only [nextMult, hc]
    split_ifs with h1 h2 h3 h4 h5
    · dsimp only; omega
    · cases h2
    · dsimp only; omega
    · dsimp only; omega
    · intro _
      exact ⟨h5.1, by dsimp only; omega, by omega, by omega⟩
    · dsimp only; omega
  · simp only [nextMult]
    split_ifs <;> dsimp only <;> omega

/-! ### The samples of RAST (R321) -/

/-- A pixel that the search of a box gives is covered, and stands at some position from the first one on. -/
theorem nextCovered_spec {v : List (Int × Int)} {x0 w y0 : Nat} {p : Nat × Nat} (fuel n : Nat)
    (h : nextCovered v x0 w y0 fuel n = some p) :
    covers v p.1 p.2 = true ∧ ∃ m, n ≤ m ∧ p = (x0 + m % w, y0 + m / w) := by
  induction fuel generalizing n with
  | zero => cases h
  | succ fuel ih =>
    rw [nextCovered] at h
    split at h
    next hc =>
      cases h
      exact ⟨hc, n, le_rfl, rfl⟩
    next =>
      obtain ⟨hc, m, hm, hp⟩ := ih _ h
      exact ⟨hc, m, by omega, hp⟩

/-- A pixel on a later row has the greater index. -/
theorem le_pixelIndex_of_row {idx : Nat} {p : Nat × Nat} (h : idx / 2 ^ 14 + 1 ≤ p.2) : idx ≤ pixelIndex p := by
  unfold pixelIndex
  omega

/-- A pixel on the same row or a later one has the greater index when it lies no further left. -/
theorem le_pixelIndex_of_col {idx : Nat} {p : Nat × Nat} (h : idx / 2 ^ 14 ≤ p.2) (h' : idx % 2 ^ 14 ≤ p.1) :
    idx ≤ pixelIndex p := by
  unfold pixelIndex
  omega

/-- A position of the box from row `d` on stands on row `d` or on a later one. -/
theorem row_le_of_mul_le {d w m : Nat} (hw : 0 < w) (h : d * w ≤ m) : d ≤ m / w := (Nat.le_div_iff_mul_le hw).mpr h

theorem coveredFrom_spec {v : List (Int × Int)} {idx : Nat} {p : Nat × Nat} (h : coveredFrom v idx = some p) :
    covers v p.1 p.2 = true ∧ idx ≤ pixelIndex p := by
  unfold coveredFrom at h
  generalize triBox v = box at h
  obtain ⟨x0, w, y0, hh⟩ := box
  dsimp only at h
  split at h
  next => cases h
  next hbox =>
    have hw : 0 < w := by
      by_contra h0
      exact hbox (Or.inl (by omega))
    obtain ⟨hc, m, hm, rfl⟩ := nextCovered_spec _ _ h
    refine ⟨hc, ?_⟩
    split_ifs at hm with h1 h2 h3
    · exact le_pixelIndex_of_row (Nat.le_add_right_of_le h1)
    · have hrow := row_le_of_mul_le hw hm
      exact le_pixelIndex_of_col (by dsimp only; omega) (by dsimp only; omega)
    · have hrow := row_le_of_mul_le hw hm
      have hy : y0 ≤ idx / 2 ^ 14 := Nat.le_of_not_lt h1
      exact le_pixelIndex_of_row (by dsimp only; omega)
    · have hrow := row_le_of_mul_le hw (Nat.le_of_add_right_le hm)
      rcases hrow.lt_or_eq with hlt | heq
      · exact le_pixelIndex_of_row (by dsimp only; omega)
      · have hdiv := Nat.div_add_mod m w
        rw [← heq, Nat.mul_comm] at hdiv
        exact le_pixelIndex_of_col (by dsimp only; omega) (by dsimp only; omega)

/-- Every sample is a pixel that the search gave from some index on, no earlier than the first. -/
theorem mem_samples {v : List (Int × Int)} {x : Nat × Nat × Nat} (ls : List Nat) (idx : Nat)
    (h : x ∈ (samples v ls (coveredFrom v idx)).1) :
    covers v x.2.1 x.2.2 = true ∧ idx ≤ pixelIndex x.2 ∧ x.1 ∈ ls := by
  induction ls generalizing idx with
  | nil => cases h
  | cons l ls ih =>
    cases hp : coveredFrom v idx with
    | none =>
      rw [hp] at h
      cases h
    | some p =>
      rw [hp] at h
      obtain ⟨hc, hi⟩ := coveredFrom_spec hp
      rcases List.mem_cons.mp h with rfl | h
      · exact ⟨hc, hi, List.mem_cons_self⟩
      · obtain ⟨hc', hi', hl⟩ := ih _ h
        exact ⟨hc', by omega, List.mem_cons_of_mem _ hl⟩

/-- Settles O45, by induction on the lanes that RAST serves. -/
theorem rasterSamplesAreCovered : Obligations.RasterSamplesAreCovered :=
  fun _ ls idx _ h => mem_samples ls idx h

end Sys2Proof.Machine
end

section
/-! PROOFS of O43: the steps of a ray in a traversal unit and in the gatherer, one lemma per step of the device. -/

set_option Elab.async false

namespace Sys2Proof.Machine

/-! ### Gatherers (R300, R320) -/

/-- A ray whose time has come, of a context that runs, goes to the gatherer under the entry that TRACE read. -/
theorem rayHandoff_of_due {s : State} {r : Ray} (hf : s.rays.find? (fun x => x.id == r.id) = some r) (hst : r.stage = 1)
    (hr : r.ready ≤ timeOf s) (hc : ctxRuns s r.ctx = true) (hh : s.pkg.halted = false) (ho : recordOut s r = false)
    (hk : r.kind = .cont) : exec (.rayHandoff r.id) s = .next (if handReady s r.k r then handTo r.k r s else s) := by
  rw [exec_rayHandoff, execRayHandoff, hf]
  simp [hst, Nat.not_lt.mpr hr, hc, hh, ho, hk]

theorem mem_insertCrew (c : Crew) : ∀ l : List Crew, c ∈ insertCrew c l
  | [] => List.mem_singleton_self c
  | x :: t => by
    rw [insertCrew]
    split
    · exact List.mem_cons_self
    · exact List.mem_cons_of_mem _ (mem_insertCrew c t)

theorem launchWave_gwaves (g : GWave) (s : State) : (launchWave g s).gwaves = s.gwaves.filter (fun x => x.id != g.id) := by
  simp [launchWave]

theorem mem_launchWave_crews (g : GWave) (s : State) : gatheredCrew s g ∈ (launchWave g s).crews := mem_insertCrew _ _

theorem launchWave_memsys (g : GWave) (s : State) : (launchWave g s).memsys = s.memsys := by
  simp [launchWave]

theorem gatherTimeout_of_due {s : State} {g : GWave} (hf : s.gwaves.find? (fun x => x.id == g.id) = some g)
    (hl : g.lanes ≠ []) (hd : g.due ≤ cycleOf s g.cluster) (hh : s.pkg.halted = false) :
    exec (.gatherTimeout g.id) s = .next (launchWave g s) := by
  rw [exec_gatherTimeout, execGatherTimeout, hf]
  simp [hl, Nat.not_lt.mpr hd, hh]

/-! ### The end of a traversal (R303, R309, R313) -/

section
variable {s : State} {r : Ray} (ht : traversing r.id s = some r)
include ht

theorem rayEnd_of_early {st : Nat} {b : List Byte} (h : earlyEnd r = some (st, b)) :
    exec (.rayEnd r.id) s = .next (endRay st { r with bytes := b } s) := by
  rw [exec_rayEnd, execRayEnd, ht]
  simp only [h]

theorem rayEnd_of_owned (h : earlyEnd r = none) (ho : readsOpen s r.launch (descRead s r) = false) :
    exec (.rayEnd r.id) s = .next s := by
  rw [exec_rayEnd, execRayEnd, ht]
  simp only [h, ho, if_true]

theorem rayEnd_of_error {e : RayErr} (h : earlyEnd r = none) (ho : readsOpen s r.launch (descRead s r) = true)
    (he : rayDesc s r = .error e) : exec (.rayEnd r.id) s = .next (endWith e r (leaseReads r (descRead s r) s)) := by
  rw [exec_rayEnd, execRayEnd, ht]
  simp only [h, ho, he, Bool.true_eq_false, if_false]

theorem rayEnd_of_waiting {d : Desc} (h : earlyEnd r = none) (ho : readsOpen s r.launch (descRead s r) = true)
    (hd : rayDesc s r = .ok d) (hl : lookUp d r (leaseReads r (descRead s r) s) = none) :
    exec (.rayEnd r.id) s = .next s := by
  rw [exec_rayEnd, execRayEnd, ht]
  simp only [h, ho, hd, hl, Bool.true_eq_false, if_false]

theorem rayEnd_of_found {d : Desc} {q : Ray} {t : State} (h : earlyEnd r = none)
    (ho : readsOpen s r.launch (descRead s r) = true) (hd : rayDesc s r = .ok d)
    (hl : lookUp d r (leaseReads r (descRead s r) s) = some (q, t)) :
    exec (.rayEnd r.id) s = .next (finishTraversal d q s (updRay r.id (fun _ => q) t)) := by
  rw [exec_rayEnd, execRayEnd, ht]
  simp only [h, ho, hd, hl, Bool.true_eq_false, if_false]

/-! ### Custom references (R308) -/

/-- The reference that the unit's choice names is one of those that the ray has still to meet. -/
theorem intersectionInvoke_of_pending {d : Desc} {q : Ray} {t : State} (h : earlyEnd r = none) (hd : rayDesc s r = .ok d)
    (hl : lookUp d r (leaseReads r (descRead s r) s) = some (q, t)) (hv : recOvf r.bytes ≠ 0)
    (ho : readsOpen s r.launch (descRead s r ++ (traverse t q d).reads) = true) (hp : (traverse t q d).pend ≠ []) :
    ∃ n ∈ (traverse t q d).pend, exec (.intersectionShaderInvoke r.id) s = .next
      (handOn .intersect n { q with bytes := withState 4 q.bytes }
        (writeOvf q 0 (leBytes 4 n) (leaseReads q (traverse t q d).reads { t with free := s.free + 1 }))) := by
  have hlen : Config.freeNat 15 s.free % (traverse t q d).pend.length < (traverse t q d).pend.length :=
    Nat.mod_lt _ (List.length_pos_iff.mpr hp)
  refine ⟨_, List.getElem_mem hlen, ?_⟩
  rw [exec_intersectionShaderInvoke, execIntersectionShaderInvoke, ht]
  simp only [h, hd, hl, List.getElem?_eq_getElem hlen, hv, ho, Bool.true_eq_false, or_self, if_false]
end

/-! ### The obligation -/

/-- Settles O43: each clause is the step's own lemma. -/
theorem raySteps : Obligations.RaySteps := by
  intro s r
  refine ⟨rayHandoff_of_due, fun g hf hl hd hh => ⟨_, gatherTimeout_of_due hf hl hd hh, launchWave_gwaves g s,
    mem_launchWave_crews g s, launchWave_memsys g s⟩, fun ht => ⟨fun st b => rayEnd_of_early ht, fun h => ?_⟩⟩
  exact ⟨rayEnd_of_owned ht h, fun ho => ⟨fun e => rayEnd_of_error ht h ho, fun d => rayEnd_of_waiting ht h ho,
    fun d q t hd hl => ⟨rayEnd_of_found ht h ho hd hl, fun hv => intersectionInvoke_of_pending ht h hd hl hv⟩⟩⟩

end Sys2Proof.Machine
end

section
/-! PROOFS of O49 and O48: the horizon of a line at its home, and an access with a byte outside its line, whose home puts one
more access on its way and so does not leave the network as O48 says. -/

set_option Elab.async false

namespace Sys2Proof.Machine

/-! ### A line in its slice (R290, R291) -/

/-- Filling a line changes no handle. -/
theorem paHandle_present (c l pa : Nat) (s : State) : paHandle (present c l s) pa = paHandle s pa := by
  have hctx : ∀ k, (getCtx (present c l s) k).map (·.handles) = (getCtx s k).map (·.handles) := by
    intro k
    have hpres : getCtx (present c l s) k =
        if (homeLine s l).present || remoteLine l then getCtx s k else getCtx (charge s c 3 128) k := by
      unfold present
      dsimp only
      split <;> rfl
    rw [hpres]
    split
    · rfl
    · rw [charge, getCtx_updCtx]
      split
      next h => rw [h, Option.map_map]; rfl
      next => rfl
  unfold paHandle
  split
  · rfl
  · have h := hctx ((pa / 2 ^ 52 - 1) / 4096)
    revert h
    cases getCtx s ((pa / 2 ^ 52 - 1) / 4096) <;> cases getCtx (present c l s) ((pa / 2 ^ 52 - 1) / 4096) <;> intro h
    · rfl
    · cases h
    · cases h
    · simp only [Option.map_some, Option.some.injEq] at h
      simp only [h]

theorem homeCycle_present (c l m : Nat) (s : State) : homeCycle (present c l s) m = homeCycle s m := by
  unfold homeCycle homeSlice
  rw [paHandle_present]
  rfl

/-- What a fill of a line sets: the line stands in its slice, and keeps its horizon and the cycle of its last atomic. -/
theorem homeLine_present {l : Nat} (c : Nat) (s : State) (hl : remoteLine l = false) :
    (homeLine (present c l s) l).present = true ∧ (homeLine (present c l s) l).h = (homeLine s l).h ∧
      (homeLine (present c l s) l).atom = (homeLine s l).atom := by
  cases hp : (homeLine s l).present with
  | true =>
    have hsame : present c l s = s := by simp [present, hp]
    rw [hsame]
    exact ⟨hp, rfl, rfl⟩
  | false =>
    have hline : homeLine (present c l s) l = { homeLine s l with present := true, filler := c } := by
      rw [homeLine]
      simp [present, hp, hl, setHomeLine, cget_cset_same]
    rw [hline]
    exact ⟨rfl, rfl, rfl⟩

/-- A line that is put into its slice reads back. -/
theorem homeLine_setHomeLine {x : HomeLine} (l : Nat) (s : State) (hx : x.present = true) : homeLine (setHomeLine s l x) l = x := by
  rw [homeLine]
  simp [setHomeLine, cget_cset_same, hx]

theorem lines_setBytes (k : Nat) (bs : List Byte) (a : Nat) (s : State) :
    (setBytes k a bs s).memsys.lines = s.memsys.lines := by
  induction bs generalizing a s with
  | nil => rfl
  | cons b bs ih =>
    rw [setBytes, ih]
    unfold setByte rekey
    dsimp only
    split <;> rfl

/-- A line that stands in its slice is read there alone. -/
theorem homeLine_of_lines {s t : State} {l : Nat} (h : t.memsys.lines = s.memsys.lines) (hp : (homeLine s l).present = true) :
    homeLine t l = homeLine s l := by
  have hs : (cget HomeLine.none s.memsys.lines l).present = true := by
    unfold homeLine at hp
    dsimp only at hp
    split at hp
    · assumption
    · exact hp
  simp [homeLine, h, hs]

/-! ### Writes at a home (R290) -/

/-- A line keeps its horizon `h` at time `T` and stands in its slice or at least as before. -/
def HorizonIs (l T h : Nat) (s : State) : Prop := (homeLine s l).h = h ∧ timeOf s = T

/-- A write at the home of a line keeps the line's horizon and is dated after it. -/
theorem homeWrite_horizon {l : Nat} (c k a : Nat) (bs : List Byte) (s : State) (ha : a / 128 = l) (hl : remoteLine l = false) :
    (homeLine (homeWrite c k a bs s).1 l).present = true ∧ HorizonIs l (timeOf s) (homeLine s l).h (homeWrite c k a bs s).1 ∧
      (homeWrite c k a bs s).2 = max (timeOf s) ((homeLine s l).h + 8) := by
  obtain ⟨hp, hh, -⟩ := homeLine_present c s hl
  have ht : timeOf (homeWrite c k a bs s).1 = timeOf s := by
    rw [homeWrite_memOnly c k a bs s]
    rfl
  have hw : homeWrite c k a bs s = (unpoison a bs.length (setBytes k a bs (setHomeLine (present c l s) l
      { homeLine (present c l s) l with dirty := true, writer := c })),
      max (timeOf s) ((homeLine (present c l s) l).h + 8)) := by
    unfold homeWrite
    rw [ha, if_neg (by simp [hl])]
  have hline : homeLine (homeWrite c k a bs s).1 l = { homeLine (present c l s) l with dirty := true, writer := c } := by
    rw [hw]
    have hset := homeLine_setHomeLine (x := { homeLine (present c l s) l with dirty := true, writer := c }) l (present c l s) hp
    exact (homeLine_of_lines (lines_setBytes k bs a _) (by rw [hset]; exact hp)).trans hset
  refine ⟨by rw [hline]; exact hp, ⟨by rw [hline]; exact hh, ht⟩, ?_⟩
  rw [hw, hh]

/-- The runs of cells start at offsets of cells. -/
theorem mem_runsOf {m : Cells Byte} {x : Nat × List Byte} (h : x ∈ runsOf m) : ∃ y ∈ m, y.1 = x.1 := by
  induction m generalizing x with
  | nil => cases h
  | cons c m ih =>
    obtain ⟨k, v⟩ := c
    cases hr : runsOf m with
    | nil =>
      simp only [runsOf, hr, List.mem_singleton] at h
      exact ⟨(k, v), List.mem_cons_self, by rw [h]⟩
    | cons y ys =>
      simp only [runsOf, hr] at h
      have hin : x.1 = k ∨ x ∈ runsOf m := by
        rw [hr]
        split at h <;> rcases List.mem_cons.mp h with rfl | h
        · exact .inl rfl
        · exact .inr (List.mem_cons_of_mem _ h)
        · exact .inl rfl
        · exact .inr h
      rcases hin with hk | hin
      · exact ⟨(k, v), List.mem_cons_self, hk.symm⟩
      · obtain ⟨z, hz, hzx⟩ := ih hin
        exact ⟨z, List.mem_cons_of_mem _ hz, hzx⟩

theorem runsOf_ne_nil {m : Cells Byte} (h : m ≠ []) : runsOf m ≠ [] := by
  cases m with
  | nil => exact absurd rfl h
  | cons c m =>
    obtain ⟨k, v⟩ := c
    rw [runsOf]
    split
    · split <;> exact List.cons_ne_nil _ _
    · exact List.cons_ne_nil _ _

/-- The runs of a line written one after another: the horizon stays, and the date is that of each of them. -/
theorem writeRuns_horizon {l T h : Nat} (c k : Nat) (hl : remoteLine l = false) (xs : List (Nat × List Byte))
    (hx : ∀ x ∈ xs, x.1 < 128) (st : State × Nat) (hs : HorizonIs l T h st.1) :
    let out := xs.foldl (fun st x => ((homeWrite c k (128 * l + x.1) x.2 st.1).1,
      max st.2 (homeWrite c k (128 * l + x.1) x.2 st.1).2)) st
    HorizonIs l T h out.1 ∧ out.2 = if xs = [] then st.2 else max st.2 (max T (h + 8)) := by
  induction xs generalizing st with
  | nil => exact ⟨hs, rfl⟩
  | cons x xs ih =>
    obtain ⟨hh, ht⟩ := hs
    have hdiv : (128 * l + x.1) / 128 = l := by
      have := hx x List.mem_cons_self
      omega
    obtain ⟨-, hw, hd⟩ := homeWrite_horizon c k (128 * l + x.1) x.2 st.1 hdiv hl
    rw [hh, ht] at hw hd
    obtain ⟨h1, h2⟩ := ih (fun y hy => hx y (List.mem_cons_of_mem _ hy)) (_, max st.2 _) hw
    refine ⟨h1, h2.trans ?_⟩
    rw [if_neg (List.cons_ne_nil _ _), hd]
    split
    · rfl
    · dsimp only
      omega

theorem homeCells_horizon {l : Nat} (c k : Nat) (m : Cells Byte) (s : State) (hl : remoteLine l = false) (hm : m ≠ [])
    (hx : ∀ x ∈ m, x.1 < 128) : (homeLine (homeCells c k l m s).1 l).h = (homeLine s l).h ∧
      (homeCells c k l m s).2 = max (timeOf s) ((homeLine s l).h + 8) := by
  have hruns : ∀ x ∈ runsOf m, x.1 < 128 := by
    intro x hxr
    obtain ⟨y, hy, hyx⟩ := mem_runsOf hxr
    exact hyx ▸ hx y hy
  obtain ⟨⟨h1, -⟩, h2⟩ := writeRuns_horizon c k hl (runsOf m) hruns (s, 0) ⟨rfl, rfl⟩
  refine ⟨h1, h2.trans ?_⟩
  rw [if_neg (runsOf_ne_nil hm)]
  exact Nat.zero_max _

/-! ### Fills (R290) -/

/-- A fill that grants no lease keeps the horizon. -/
theorem homeFill_of_bare {l q : Nat} (c : Nat) (s : State)
    (h : remoteLine l = true ∨ q = 0 ∨ (homeLine s l).atom = homeCycle s l + 1) :
    (homeFill c l q s).2 = none ∧ (homeLine (homeFill c l q s).1 l).h = (homeLine s l).h := by
  cases hl : remoteLine l with
  | true => simp [homeFill, hl]
  | false =>
    obtain ⟨hp, hh, ha⟩ := homeLine_present c s hl
    have hbare : q = 0 ∨ (homeLine (present c l s) l).atom = homeCycle (present c l s) l + 1 := by
      rw [ha, homeCycle_present]
      simpa [hl] using h
    have hf : homeFill c l q s = (setHomeLine (present c l s) l (homeLine (present c l s) l), none) := by
      simp only [homeFill, hl, Bool.false_eq_true, if_false, if_pos hbare]
    rw [hf, homeLine_setHomeLine l _ hp]
    exact ⟨rfl, hh⟩

/-- A fill that grants a lease raises the horizon to its end, in this cycle of the home. -/
theorem homeFill_of_lent {l q : Nat} (c : Nat) (s : State)
    (h : ¬(remoteLine l = true ∨ q = 0 ∨ (homeLine s l).atom = homeCycle s l + 1)) :
    (homeFill c l q s).2 = some (timeOf s + q) ∧
      (homeLine (homeFill c l q s).1 l).h = max (homeLine s l).h (timeOf s + q) ∧ leasedNow (homeFill c l q s).1 l = true := by
  obtain ⟨hl, hq, hat⟩ := not_or.mp h |>.imp id not_or.mp
  rw [Bool.not_eq_true] at hl
  obtain ⟨hp, hh, ha⟩ := homeLine_present c s hl
  have hlent : ¬(q = 0 ∨ (homeLine (present c l s) l).atom = homeCycle (present c l s) l + 1) := by
    rw [ha, homeCycle_present]
    exact not_or.mpr ⟨hq, hat⟩
  have hf : homeFill c l q s = (setHomeLine (present c l s) l { homeLine (present c l s) l with
      h := max (homeLine (present c l s) l).h (timeOf s + q), leased := homeCycle (present c l s) l + 1 },
      some (timeOf s + q)) := by
    simp only [homeFill, hl, Bool.false_eq_true, if_false, if_neg hlent]
  rw [hf, leasedNow, homeLine_setHomeLine, hh]
  · exact ⟨rfl, rfl, beq_self_eq_true _⟩
  · exact hp

/-! ### What a home performs (R288, R290) -/

/-- Noting an atomic keeps the horizon of a line that stands in its slice. -/
theorem notedAtom_h {l : Nat} {s : State} (hp : (homeLine s l).present = true) :
    (homeLine (notedAtom l s) l).h = (homeLine s l).h := by
  rw [notedAtom, homeLine_setHomeLine]
  exact hp

theorem perform_read {a : Access} {q : Nat} (s : State) (h : a.op = .read q) :
    perform a s = ((homeFill a.ctx a.line (if a.tso then 0 else q) s).1,
      { bytes := lineBytes s a.key a.line, lease := (homeFill a.ctx a.line (if a.tso then 0 else q) s).2, ct := none,
        poison := linePoison s a.line, failed := false }) := by
  simp only [perform, h]

/-- An access with a lease request, as the fill that its home makes of it. -/
theorem bare_iff {a : Access} {q : Nat} (s : State) :
    (remoteLine a.line = true ∨ a.tso = true ∨ q = 0 ∨ (homeLine s a.line).atom = homeCycle s a.line + 1) ↔
      (remoteLine a.line = true ∨ (if a.tso then 0 else q) = 0 ∨ (homeLine s a.line).atom = homeCycle s a.line + 1) := by
  cases a.tso <;> simp

theorem perform_write_horizon {a : Access} {bs : Cells W64} (s : State) (h : a.op = .write bs) (hl : remoteLine a.line = false)
    (hb : bs ≠ []) (hx : ∀ x ∈ bs, x.1 < 128) :
    (perform a s).2.ct = some (max (timeOf s) ((homeLine s a.line).h + 8)) ∧
      (homeLine (perform a s).1 a.line).h = (homeLine s a.line).h := by
  obtain ⟨h1, h2⟩ := homeCells_horizon a.ctx a.key (bs.map (fun x => (x.1, x.2.setWidth 8))) s hl
    (by simpa using hb) (List.forall_mem_map.mpr hx)
  simp only [perform, h]
  exact ⟨congrArg some h2, h1⟩

theorem perform_atomic_horizon {a : Access} {fn n off : Nat} {v c : W64} (s : State) (h : a.op = .atomic fn n off v c)
    (hl : remoteLine a.line = false) (ho : off < 128) :
    (perform a s).2.ct = some (max (timeOf s) ((homeLine s a.line).h + 8)) ∧
      (homeLine (perform a s).1 a.line).h = (homeLine s a.line).h := by
  simp only [perform, h]
  cases hw : atomWrites fn with
  | true =>
    obtain ⟨hp, ⟨hh, -⟩, hd⟩ := homeWrite_horizon a.ctx a.key (128 * a.line + off)
      (leBytes n (homeNew fn n (leNat (memRead s a.key (128 * a.line + off) n)) v.toNat c.toNat)) s (by omega) hl
    exact ⟨congrArg some hd, (notedAtom_h hp).trans hh⟩
  | false =>
    obtain ⟨hp, hh, -⟩ := homeLine_present a.ctx s hl
    refine ⟨?_, (notedAtom_h hp).trans hh⟩
    simp only [Bool.false_eq_true, if_false, hh]

/-- Settles O49: fills, writes and atomics each by the lemma of what the home performs. -/
theorem horizonsRise : Obligations.HorizonsRise := by
  intro a s
  refine ⟨fun q hq => ?_, fun ha hl => by simp [homeReady, ha, hl], fun bs h hl hb hx => perform_write_horizon s h hl hb hx,
    fun fn n off v c h hl ho => perform_atomic_horizon s h hl ho⟩
  rw [perform_read s hq]
  exact ⟨rfl, fun hb => homeFill_of_bare a.ctx s ((bare_iff s).mp hb),
    fun hb => by
      have hlent := homeFill_of_lent a.ctx s (mt (bare_iff s).mpr hb)
      have hq : (if a.tso then 0 else q) = q := by
        cases ht : a.tso
        · rfl
        · exact absurd (.inr (.inl ht)) hb
      rw [hq] at hlent ⊢
      exact hlent⟩

/-! ### An access with a byte outside its line -/

/-- A store whose one byte is the first behind its line, the last one before the outbound windows. -/
def strayStore : Access :=
  { id := 0, core := 0, crew := 0, wave := 0, part := 0, ctx := 0, line := 2 ^ 40 - 1, off := 0, key := 0, tso := false,
    trk := none, vault := false, op := .write [(128, 0#64)], use := .store, sent := 0, pc := 0#64, quads := 0, port := 16,
    who := [], stale := false, ans := none, back := false }

/-- The module after reset with that store on its way. -/
def strayState : State := { State.reset with net := [strayStore] }

/-- Its home sends the byte on to the peer, as one more access. -/
theorem strayStore_departs : ∃ t, exec (.homeAccess strayStore.id) strayState = .next t ∧ t.net.length = 2 :=
  ⟨_, rfl, by decide +kernel⟩

/-- Refutes O48: a store may hold a byte behind its line, which the home sends to a peer where that byte lies behind a fabric
window; the network then holds one access more. -/
theorem not_homeAccesses : ¬ Obligations.HomeAccesses := by
  intro h
  obtain ⟨t, z, ⟨he, -, -, -, hnet⟩, -⟩ := (h strayStore strayState (by decide +kernel) (by decide +kernel)
    (fun _ _ _ _ _ _ hu => by cases hu)).1 (by decide +kernel) (by decide +kernel)
  obtain ⟨u, hu, hlen⟩ := strayStore_departs
  rw [he] at hu
  cases hu
  rw [hnet] at hlen
  cases hlen

end Sys2Proof.Machine
end

section
/-! PROOFS of O3: a module with power always steps. Every instruction and every event of the device goes on to a state, so the
first of a list that changes the state, a pick and a turn do. -/

set_option Elab.async false

namespace Sys2Proof.Machine

/-- An outcome that goes on to a state. -/
def GoesOn (o : Host.Outcome State Fault Refusal) : Prop := ∃ t, o = .next t

/-- Every event of a list goes on from every state. -/
def AllGoOn (l : List Event) : Prop := ∀ e ∈ l, ∀ s, GoesOn (e s)

theorem GoesOn.next (s : State) : GoesOn (.next s) := ⟨s, rfl⟩

theorem GoesOn.ite {c : Prop} [Decidable c] {o p : Host.Outcome State Fault Refusal} (ho : GoesOn o) (hp : GoesOn p) :
    GoesOn (if c then o else p) := by
  split
  · exact ho
  · exact hp

/-! ### Instructions -/

theorem sliceOp_goesOn (word : W32) (r : Run) (imm ok : Bool) (f : State → State) (s : State) :
    GoesOn (sliceOp word r imm ok f s) := by
  unfold sliceOp
  split
  · exact ⟨_, rfl⟩
  · exact .ite (.next _) (.ite (.next _) (.next _))

theorem execWaitaTimeout_goesOn (p : PartRef) (s : State) : GoesOn (execWaitaTimeout p s) := by
  unfold execWaitaTimeout
  split
  · exact .next _
  · split
    · refine .ite (.next _) ?_
      dsimp only
      split
      · exact .next _
      · refine .ite (.next _) ?_
        split
        · exact ⟨_, rfl⟩
        · exact .next _
    · exact .next _

theorem execCopyComplete_goesOn (crew ord : Nat) (s : State) : GoesOn (execCopyComplete crew ord s) := by
  unfold execCopyComplete
  dsimp only
  split
  · exact .next _
  · refine .ite (.next _) (.ite (.next _) (.ite (.ite (.next _) (.next _)) ?_))
    split <;> exact .next _

theorem execCopyError_goesOn (crew ord : Nat) (why : CopyFault) (s : State) : GoesOn (execCopyError crew ord why s) := by
  unfold execCopyError
  dsimp only
  split
  · exact .next _
  · refine .ite (.next _) ?_
    split
    · exact .next _
    · exact .ite (.next _) (.next _)

theorem execAstrmPush_goesOn (crew : Nat) (s : State) : GoesOn (execAstrmPush crew s) := by
  unfold execAstrmPush
  dsimp only
  split
  · exact .next _
  · refine .ite (.next _) ?_
    split
    · exact .next _
    · exact .ite (.next _) (.ite (.next _) (.next _))

theorem execMatrixCommandStands_goesOn (crew : Nat) (s : State) : GoesOn (execMatrixCommandStands crew s) := by
  unfold execMatrixCommandStands
  dsimp only
  split
  · exact .next _
  · refine .ite (.next _) (.ite (.next _) ?_)
    split
    · exact .next _
    · exact .ite (.next _) (.next _)

theorem execMwldLatch_goesOn (crew : Nat) (s : State) : GoesOn (execMwldLatch crew s) := by
  unfold execMwldLatch
  dsimp only
  split
  · exact .next _
  · exact .ite (.next _) (.next _)

/-- Every instruction and every event has a next state: Sparge's words and the events that search a crew by their own lemmas, and
any other as its meaning is written. -/
theorem exec_goesOn (i : Instr) (s : State) : GoesOn (exec i s) := by
  cases i with
  | aloop => rw [exec_aloop]; exact sliceOp_goesOn ..
  | aend => rw [exec_aend]; exact sliceOp_goesOn ..
  | astrm => rw [exec_astrm]; exact sliceOp_goesOn ..
  | acpy => rw [exec_acpy]; exact sliceOp_goesOn ..
  | asig => rw [exec_asig]; exact sliceOp_goesOn ..
  | ahalt => rw [exec_ahalt]; exact sliceOp_goesOn ..
  | waitaTimeout => exact execWaitaTimeout_goesOn ..
  | copyComplete => exact execCopyComplete_goesOn ..
  | copyError => exact execCopyError_goesOn ..
  | astrmPush => exact execAstrmPush_goesOn ..
  | matrixCommandStands => exact execMatrixCommandStands_goesOn ..
  | mwldLatch => exact execMwldLatch_goesOn ..
  | _ => exact ⟨_, rfl⟩

theorem issue_goesOn (s : State) : GoesOn (issue s) := by
  unfold issue
  split
  · split
    next => exact .next _
    next hs w t _ =>
      obtain ⟨v, hv⟩ := exec_goesOn (decodeUnit hs w) _
      rw [hv]
      exact .next _
  · split
    next => exact .next _
    next hs w t _ =>
      obtain ⟨v, hv⟩ := exec_goesOn (decodeUnit hs w) _
      rw [hv]
      exact .next _

/-! ### Commands -/

theorem runCommand_goesOn (c : Cmd) (s : State) : GoesOn (runCommand c s) := by
  unfold runCommand
  split <;> exact ⟨_, rfl⟩

theorem takeRecord_goesOn (i : Nat) (v : Via) (hdr : Nat) (words : List W64) (s : State) :
    GoesOn (takeRecord i v hdr words s) := by
  refine .ite ?_ (runCommand_goesOn _ _)
  obtain ⟨t, ht⟩ := runCommand_goesOn { slot := i, words := words } (holdSlot i words s)
  rw [ht]
  exact .next _

theorem serveSlot_goesOn (i : Nat) (s : State) : GoesOn (serveSlot i s) := by
  unfold serveSlot
  refine .ite (.next _) ?_
  split
  · refine .ite (.next _) ?_
    split
    · exact .ite (takeRecord_goesOn ..) (.next _)
    · exact .next _
  · exact runCommand_goesOn _ _
  · split
    · exact .next _
    · split
      · exact .next _
      · refine .ite (.next _) ?_
        split
        · exact .next _
        · exact takeRecord_goesOn ..

/-! ### Events -/

namespace AllGoOn

variable {l m : List Event} {α : Type}

theorem nil : AllGoOn [] := fun _ h => nomatch h

theorem cons {e : Event} (he : ∀ s, GoesOn (e s)) (hl : AllGoOn l) : AllGoOn (e :: l) := List.forall_mem_cons.2 ⟨he, hl⟩

theorem append (hl : AllGoOn l) (hm : AllGoOn m) : AllGoOn (l ++ m) := List.forall_mem_append.2 ⟨hl, hm⟩

theorem map {f : α → Event} (hf : ∀ x s, GoesOn (f x s)) (xs : List α) : AllGoOn (xs.map f) :=
  List.forall_mem_map.2 fun x _ => hf x

theorem flatMap {f : α → List Event} (hf : ∀ x, AllGoOn (f x)) (xs : List α) : AllGoOn (xs.flatMap f) := by
  intro e he
  obtain ⟨x, -, hx⟩ := List.mem_flatMap.1 he
  exact hf x e hx

theorem ite {c : Prop} [Decidable c] (hl : AllGoOn l) (hm : AllGoOn m) : AllGoOn (if c then l else m) := by
  split
  · exact hl
  · exact hm

/-- The first event of a list that changes the state has a next state. -/
theorem firstOf {s : State} {o : Host.Outcome State Fault Refusal} (hl : AllGoOn l) (h : firstOf s l = some o) : GoesOn o := by
  induction l with
  | nil => cases h
  | cons e l ih =>
    obtain ⟨he, hl⟩ := List.forall_mem_cons.1 hl
    obtain ⟨t, ht⟩ := he s
    rw [Machine.firstOf, ht] at h
    dsimp only at h
    split at h
    · exact ih hl h
    · exact ⟨t, (Option.some.inj h).symm⟩

end AllGoOn

theorem retireEvents_goOn (s : State) : AllGoOn (retireEvents s) := .map (fun _ _ => ⟨_, rfl⟩) _

theorem netEvents_goOn (s : State) : AllGoOn (netEvents s) :=
  .flatMap (fun _ => .cons (fun _ => ⟨_, rfl⟩) (.cons (fun _ => ⟨_, rfl⟩) (.cons (fun _ => ⟨_, rfl⟩) .nil))) _

theorem sliceEvents_goOn (s : State) : AllGoOn (sliceEvents s) := .map (fun _ _ => .ite (issue_goesOn _) (.next _)) _

theorem partEvents_goOn (p : PartRef) (q : Part) : AllGoOn (partEvents p q) :=
  .append (.map (fun _ _ => ⟨_, rfl⟩) _) (.cons (fun _ => ⟨_, rfl⟩) (.cons (fun _ => ⟨_, rfl⟩) .nil))

theorem engineEvents_goOn (c : Crew) : AllGoOn (engineEvents c) := by
  refine .append (.append (.flatMap (fun _ => ?_) _) (.flatMap (fun _ => .append (.map (fun _ _ => ?_) _) ?_) _)) ?_
  · exact .cons (fun _ => ⟨_, rfl⟩) (.cons (fun _ => ⟨_, rfl⟩) .nil)
  · exact execCopyError_goesOn ..
  · exact .cons (fun _ => ⟨_, rfl⟩) (.cons (execCopyComplete_goesOn _ _) (.cons (fun _ => ⟨_, rfl⟩) .nil))
  · exact .cons (execAstrmPush_goesOn _) (.cons (execMatrixCommandStands_goesOn _) (.cons (execMwldLatch_goesOn _)
      (.cons (fun _ => ⟨_, rfl⟩) (.cons (fun _ => ⟨_, rfl⟩) .nil))))

theorem crewEvents_goOn (s : State) : AllGoOn (crewEvents s) :=
  .flatMap (fun _ => .append (.flatMap (fun _ => .flatMap (fun _ => partEvents_goOn _ _) _) _) (engineEvents_goOn _)) _

theorem rayEvents_goOn (s : State) : AllGoOn (rayEvents s) :=
  .append (.flatMap (fun _ => .cons (fun _ => ⟨_, rfl⟩) (.cons (fun _ => ⟨_, rfl⟩) (.cons (fun _ => ⟨_, rfl⟩) .nil))) _)
    (.map (fun _ _ => ⟨_, rfl⟩) _)

theorem lampEvents_goOn (s : State) : AllGoOn (lampEvents s) := by
  refine .append (.append (.append (.append (.append (.cons (fun _ => ⟨_, rfl⟩) ?_) ?_) ?_) ?_) ?_) ?_
  · exact .map (fun _ => serveSlot_goesOn _) _
  · exact .map (fun _ _ => ⟨_, rfl⟩) _
  · exact .map (fun _ _ => ⟨_, rfl⟩) _
  · exact .flatMap (fun _ => .ite .nil (.cons (fun _ => ⟨_, rfl⟩) .nil)) _
  · exact .cons (fun _ => ⟨_, rfl⟩) (.cons (fun _ => ⟨_, rfl⟩) .nil)
  · exact .map (fun _ _ => ⟨_, rfl⟩) _

theorem packageEvents_goOn (s : State) : AllGoOn (packageEvents s) :=
  .append (.append (.map (fun _ _ => ⟨_, rfl⟩) _)
      (.flatMap (fun _ => .cons (fun _ => ⟨_, rfl⟩) (.cons (fun _ => ⟨_, rfl⟩) .nil)) _))
    (.cons (fun _ => .ite ⟨_, rfl⟩ (.next _)) .nil)

/-! ### Events of an earlier cycle -/

theorem latePart_goOn (n : Nat) (p : PartRef) (q : Part) : AllGoOn (latePart n p q) := by
  refine .append (.append (.map (fun _ _ => ⟨_, rfl⟩) _)
    (.ite (.cons (fun _ => ⟨_, rfl⟩) (.cons (fun _ => ⟨_, rfl⟩) .nil)) .nil)) ?_
  split
  · exact .ite (.cons (fun _ => ⟨_, rfl⟩) .nil) .nil
  · exact .nil

theorem lateCrew_goOn (s : State) (n : Nat) (c : Crew) : AllGoOn (lateCrew s n c) := by
  refine .append (.append (.append (.append ?_ (.flatMap (fun _ => .flatMap (fun _ => latePart_goOn _ _ _) _) _)) ?_) ?_) ?_
  · exact .ite (.cons (fun _ => ⟨_, rfl⟩) .nil) .nil
  · split
    · exact .ite (.cons (fun _ => ⟨_, rfl⟩) .nil) .nil
    · exact .nil
  · exact .ite (.cons (fun _ => ⟨_, rfl⟩) .nil) .nil
  · split
    · exact .nil
    · exact .ite (.cons (execMatrixCommandStands_goesOn _) (.cons (execMwldLatch_goesOn _) .nil)) .nil

theorem lateCluster_goOn (s : State) (c : Nat) (x : Cluster) : AllGoOn (lateCluster s c x) := by
  refine .append (.append (.append ?_ ?_) ?_) ?_ <;> exact .ite (.cons (fun _ => ⟨_, rfl⟩) .nil) .nil

theorem lateClock_goOn (s : State) : AllGoOn (lateClock s) := by
  refine .append (.append (.append (.append (.append ?_ ?_) ?_) ?_) ?_) (.flatMap (fun _ => lateCluster_goOn _ _ _) _)
  · exact .map (fun _ _ => ⟨_, rfl⟩) _
  all_goals exact .ite (.cons (fun _ => ⟨_, rfl⟩) .nil) .nil

theorem lateEvents_goOn (s : State) : AllGoOn (lateEvents s) :=
  .append (lateClock_goOn s) (.flatMap (fun _ => lateCrew_goOn _ _ _) _)

/-! ### Turns -/

theorem nextPick_goesOn {s : State} {o : Host.Outcome State Fault Refusal} (h : nextPick s = some o) : GoesOn o := by
  obtain ⟨p, -, rfl⟩ := Option.map_eq_some_iff.1 h
  exact .ite ⟨_, rfl⟩ (issue_goesOn _)

theorem ownTurn_goesOn (s : State) : GoesOn (ownTurn s) := by
  refine .ite (issue_goesOn s) ?_
  split
  next ho => exact (retireEvents_goOn s).firstOf ho
  next =>
    split
    next ho => exact nextPick_goesOn ho
    next =>
      split
      next ho =>
        exact ((((((netEvents_goOn s).append (sliceEvents_goOn s)).append (crewEvents_goOn s)).append
          (rayEvents_goOn s)).append (lampEvents_goOn s)).append (packageEvents_goOn s)).firstOf ho
      next => exact .next _

theorem takePick_goesOn (t : Turn) (rest : List Turn) (s : State) : GoesOn (takePick t rest s) := by
  unfold takePick
  dsimp only
  split
  · exact .ite (.ite ⟨_, rfl⟩ (issue_goesOn _)) (.next _)
  · exact .ite (issue_goesOn _) (.next _)

theorem turn_of_resetWrite {s : State} (v : W64) (rest : List Instr) (h : s.agenda = .resetWrite v :: rest) :
    GoesOn (turn s) := by
  unfold turn
  rw [h]
  exact exec_goesOn _ _

theorem turn_of_powered {s : State} (hp : s.pkg.powered = true) : GoesOn (turn s) := by
  unfold turn
  split
  · exact exec_goesOn _ _
  · rw [if_pos hp]
    exact exec_goesOn _ _
  · rw [if_neg (by simp [hp])]
    refine .ite ⟨_, rfl⟩ ?_
    split
    next ho => exact (lateEvents_goOn s).firstOf ho
    next =>
      split
      · exact takePick_goesOn ..
      · exact ownTurn_goesOn s

theorem turn_of_unpowered {s : State} (hp : s.pkg.powered = false) (hr : ∀ v rest, s.agenda ≠ .resetWrite v :: rest) :
    turn s = .fault .unpowered := by
  unfold turn
  split
  next v rest ha => exact absurd ha (hr v rest)
  next => exact if_neg (by simp [hp])
  next => exact if_pos hp

/-- Settles O3: a step is a turn. -/
theorem poweredModulesStep : Obligations.PoweredModulesStep :=
  fun _ => ⟨turn_of_powered, turn_of_unpowered, turn_of_resetWrite⟩

end Sys2Proof.Machine
end

section
/-! PROOFS of O59: the commands of queues, events, contexts, handles, grants and pre-emption. A command that its checks accept
is performed, and what it does then follows its operands. -/

set_option Elab.async false

namespace Sys2Proof.Machine

variable {c : Cmd} {s : State}

/-! ### Accepted commands (R400, R401) -/

/-- An accepted command whose performance gives `t`. -/
theorem exec_of_accepts {i : Instr} {code form : Nat} {o : Origin} {used : List W64} {f : State → State} {t : State}
    (he : exec i s = command c code form o used f s) (h : accepts c code form o used s = true) (ht : f s = t) :
    exec i s = .next t :=
  he.trans ((command_of_accepts h f).trans (congrArg _ ht))

/-- A command on a context that exists. -/
theorem onCtx_of_some {k : Nat} {x : Ctx} {f : Ctx → State → State} (h : getCtx s k = some x) : onCtx c k f s = f x s := by
  rw [onCtx, h]

/-- A HANDLE command on a handle that is live. -/
theorem onHandle_of_some {h : Handle} {f : Nat → Nat → Handle → State → State}
    (hh : getHandle s (getSlot s c.slot).ctx (bfield (Cmd.word c 2) 11 0) = some h) :
    onHandle c f s = f (getSlot s c.slot).ctx (bfield (Cmd.word c 2) 11 0) h s := by
  simp only [onHandle, hh]

/-! ### Launches and events (R361, R362, R364) -/

theorem exec_launch_of_accepts (h : accepts c 0x01 0 .user [-1#64] s = true) :
    exec (.launch c) s = .next (takeLaunch c false [] s) :=
  exec_of_accepts (exec_launch c s) h rfl

theorem exec_launchCaptured_of_accepts (h : accepts c 0x01 1 .user [-1#64] s = true) {x : Ctx} {e : W64 × Nat × List Byte}
    (hx : getCtx s (getSlot s c.slot).ctx = some x) :
    let mine := fun (e : W64 × Nat × List Byte) => e.1 == (getSlot s c.slot).hdr &&
      (qheadAt s (some (getSlot s c.slot).ctx) (getSlot s c.slot).hdr.toNat).map (·.head) == some e.2.1
    x.caught.find? mine = some e → exec (.launchCaptured c) s = .next (takeLaunch c true e.2.2
      (updCtx s (getSlot s c.slot).ctx (fun y => { y with caught := y.caught.filter (fun z => !mine z) }))) := by
  intro mine he
  refine exec_of_accepts (exec_launchCaptured c s) h ?_
  simp only [hx, Option.bind_some]
  rw [he]

theorem signal_of_accepts {form : Nat} {i : Instr} {on : Bool} (he : exec i s = signal form on c s)
    (h : accepts c 0x02 form .both [-1#64, -1#64, 0x3F#64] s = true) (hw : (Cmd.word c 2).toNat < 4)
    (hk : (getCtx s (actsOn s c (bfield (Cmd.word c 4) 5 0))).isSome = true) :
    exec i s = .next (reply c 0 0#64
      (addChange (bitChange 2 0 (actsOn s c (bfield (Cmd.word c 4) 5 0)) (Cmd.word c 2).toNat on (Cmd.word c 3)) s)) := by
  obtain ⟨x, hx⟩ := Option.isSome_iff_exists.mp hk
  refine exec_of_accepts he h ?_
  rw [if_neg (Nat.not_le.mpr hw)]
  exact onCtx_of_some hx

/-! ### Queues (R359, R360) -/

theorem exec_mapq_of_accepts (h : accepts c 0x03 0 .admin [0x00000000003FFF3F#64, -1#64, -1#64] s = true)
    (hk : (getCtx s (bfield (Cmd.word c 2) 21 16)).isSome = true) (h0 : bfield (Cmd.word c 2) 5 0 ≠ 0)
    (hm : (getSlot s (bfield (Cmd.word c 2) 5 0)).mapped = false)
    (hq : slotOf s (bfield (Cmd.word c 2) 21 16) (bfield (Cmd.word c 2) 15 8) = none)
    (hv : viaOk s (some (bfield (Cmd.word c 2) 21 16)) (Cmd.word c 3).toNat 64 true true = true)
    (hh : (qheadAt s (some (bfield (Cmd.word c 2) 21 16)) (Cmd.word c 3).toNat).isSome = true) :
    exec (.mapq c) s = .next (reply c 0 0#64 (mapQueue (bfield (Cmd.word c 2) 5 0) (bfield (Cmd.word c 2) 21 16)
      (bfield (Cmd.word c 2) 15 8) (Cmd.word c 3)
      (if Cmd.word c 4 = 0#64 then defaultQuantum s else (Cmd.word c 4).toNat) s)) := by
  obtain ⟨x, hx⟩ := Option.isSome_iff_exists.mp hk
  refine exec_of_accepts (exec_mapq c s) h ((onCtx_of_some hx).trans ?_)
  rw [if_neg (by simp [h0, hm, hq]), if_neg (by simp [hv]), if_neg (by simpa using Option.isSome_iff_ne_none.mp hh)]

theorem exec_unmapq_of_accepts (h : accepts c 0x04 0 .admin [0x3F#64] s = true) (h0 : (Cmd.word c 2).toNat ≠ 0)
    (hm : (getSlot s (Cmd.word c 2).toNat).mapped = true) :
    exec (.unmapq c) s = .next (reply c 0 0#64 (unmapQueue (Cmd.word c 2).toNat s)) := by
  refine exec_of_accepts (exec_unmapq c s) h ?_
  simp only [h0, hm, Bool.true_eq_false, or_self, if_false]

/-! ### Contexts (R376, R404) -/

/-- The lowest context that is free. -/
theorem find_freeCtx {i : Nat} (hi : i < 64) (hf : getCtx s i = none) (hl : ∀ j, j < i → getCtx s j ≠ none) :
    (List.range 64).find? (fun i => (getCtx s i).isNone) = some i := by
  rw [List.find?_range_eq_some]
  refine ⟨by simp [hf], List.mem_range.mpr hi, fun j hj => ?_⟩
  rw [Bool.not_eq_true', Option.isNone_eq_false_iff, Option.isSome_iff_ne_none]
  exact hl j hj

theorem exec_ctxnew_of_accepts (h : accepts c 0x05 0 .admin [-1#64, -1#64, -1#64, -1#64, 0x7#64] s = true) {i : Nat}
    (hi : i < 64) (hf : getCtx s i = none) (hl : ∀ j, j < i → getCtx s j ≠ none) (ha : (Cmd.word c 2).toNat % 65536 = 0)
    (hp : (Cmd.word c 2).toNat < 2 ^ 52) (hm : isMem s (Cmd.word c 2).toNat = true)
    (hr : ctxOk (setCtx s i (some (newCtx c))) i (Cmd.word c 3).toNat 64 false false = true)
    (hs : Cmd.word c 5 ≠ 0#64 → ctxOk (setCtx s i (some (newCtx c))) i (Cmd.word c 4).toNat 1 false false = true) :
    exec (.ctxnew c) s = .next (reply c 0 (BitVec.ofNat 64 i) (setCtx s i (some (newCtx c)))) := by
  refine exec_of_accepts (exec_ctxnew c s) h ?_
  rw [find_freeCtx hi hf hl]
  dsimp only
  rw [if_neg (not_not.mpr ha), if_neg (not_or.mpr ⟨by simp [hm], Nat.not_le.mpr hp⟩), if_neg]
  rintro (h1 | ⟨h5, h1⟩)
  · rw [hr] at h1
    cases h1
  · rw [hs h5] at h1
    cases h1

theorem exec_ctxnewAllotment_of_accepts (hk : (getCtx s (bfield (Cmd.word c 2) 13 8)).isSome = true)
    (h : accepts c 0x05 1 .admin [0x0000000000003F1F#64, -1#64, 0x00000000FFFFFFFF#64] s = true) :
    exec (.ctxnewAllotment c) s = .next (reply c 0 (BitVec.ofNat 64 (bfield (Cmd.word c 2) 13 8))
      (updCtx s (bfield (Cmd.word c 2) 13 8) (fun x => { x with
        allot := cset 0 x.allot (bfield (Cmd.word c 2) 4 0) ((Cmd.word c 3).toNat + 2 ^ 64 * bfield (Cmd.word c 4) 31 0) }))) := by
  obtain ⟨x, hx⟩ := Option.isSome_iff_exists.mp hk
  exact exec_of_accepts (exec_ctxnewAllotment c s) h (onCtx_of_some hx)

theorem exec_ctxnewLanternWays_of_accepts (hk : (getCtx s (bfield (Cmd.word c 2) 13 8)).isSome = true)
    (h : accepts c 0x05 2 .admin [0x0000000000003F00#64, 0xF#64] s = true) :
    exec (.ctxnewLanternWays c) s = .next (reply c 0 (BitVec.ofNat 64 (bfield (Cmd.word c 2) 13 8))
      (updCtx s (bfield (Cmd.word c 2) 13 8) (fun x => { x with ways := bfield (Cmd.word c 3) 3 0 }))) := by
  obtain ⟨x, hx⟩ := Option.isSome_iff_exists.mp hk
  exact exec_of_accepts (exec_ctxnewLanternWays c s) h (onCtx_of_some hx)

/-! ### Pre-emption (R372, R374, R376) -/

section
variable {x : Ctx} (hx : getCtx s (Cmd.word c 2).toNat = some x)
include hx

theorem exec_ctxfree_of_accepts (h : accepts c 0x06 0 .admin [0x3F#64] s = true) :
    exec (.ctxfree c) s = .next (if x.preempt = 0 then startPreempt c (Cmd.word c 2).toNat true s
      else reply c 0 0#64 (freeCtx (Cmd.word c 2).toNat (endPreempt x s))) :=
  exec_of_accepts (exec_ctxfree c s) h (onCtx_of_some hx)

theorem exec_preempt_of_accepts (h : accepts c 0x09 0 .admin [0x3F#64] s = true) :
    exec (.preempt c) s = .next (if x.preempt ≠ 0 then reply c 3 0#64 s else startPreempt c (Cmd.word c 2).toNat false s) :=
  exec_of_accepts (exec_preempt c s) h (onCtx_of_some hx)

theorem exec_preemptResume_of_accepts (h : accepts c 0x09 1 .admin [0x3F#64] s = true) (hp : x.preempt = 2) :
    exec (.preemptResume c) s = .next (reply c 0 0#64 (resumeRays (Cmd.word c 2).toNat
      (updCtx s (Cmd.word c 2).toNat (fun y => { y with preempt := 0 })))) :=
  exec_of_accepts (exec_preemptResume c s) h ((onCtx_of_some hx).trans (if_neg (not_not.mpr hp)))
end

/-! ### Handles (R392 to R394, R405) -/

theorem exec_handleCreate_of_accepts {v : State}
    (h : accepts c 0x07 0 .user [0x0003FF037FFF3FFF#64, -1#64, -1#64, -1#64, -1#64] s = true) (h4 : Cmd.word c 4 ≠ 0#64)
    (hc : createOk c = true) (hn : getHandle s (getSlot s c.slot).ctx (bfield (Cmd.word c 2) 11 0) = none)
    (hclash : ((allHandles s).any (fun x => x.1 == (getSlot s c.slot).ctx &&
      decide (x.2.2.base < (createdHandle s (getSlot s c.slot).ctx c).base + (createdHandle s (getSlot s c.slot).ctx c).extent ∧
        (createdHandle s (getSlot s c.slot).ctx c).base < x.2.2.base + x.2.2.extent))) = false)
    (hv : spaceFor [] (createdHandle s (getSlot s c.slot).ctx c).tier (createdHandle s (getSlot s c.slot).ctx c).vault
      (createdHandle s (getSlot s c.slot).ctx c).extent (freeSlot c.slot s) = some v) :
    exec (.handleCreate c) s = .next (reply c 0 0#64 (setHandle (getSlot s c.slot).ctx (bfield (Cmd.word c 2) 11 0)
      (some (createdHandle s (getSlot s c.slot).ctx c)) v)) := by
  refine exec_of_accepts (exec_handleCreate c s) h ?_
  dsimp only
  rw [if_neg h4, if_neg (by simp [hc]), if_neg (not_or.mpr ⟨by simp [hn], ne_true_of_eq_false hclash⟩), hv]

section
variable {h : Handle} (hh : getHandle s (getSlot s c.slot).ctx (bfield (Cmd.word c 2) 11 0) = some h)
include hh

theorem exec_handlePriority_of_accepts (ha : accepts c 0x07 1 .user [0x0000000000700FFF#64] s = true) :
    exec (.handlePriority c) s = .next (reply c 0 0#64 (setHandle (getSlot s c.slot).ctx (bfield (Cmd.word c 2) 11 0)
      (some { h with prio := bfield (Cmd.word c 2) 22 20 }) s)) :=
  exec_of_accepts (exec_handlePriority c s) ha (onHandle_of_some hh)

theorem exec_handleMigrate_of_accepts (ha : accepts c 0x07 2 .user [0x000000007F000FFF#64] s = true) :
    exec (.handleMigrate c) s = .next (if bfield (Cmd.word c 2) 25 24 = 3 ∧
        isGranted s (getSlot s c.slot).ctx (bfield (Cmd.word c 2) 11 0) = true then reply c 3 0#64 s
      else holdSlot c.slot [] (startMove (getSlot s c.slot).ctx (bfield (Cmd.word c 2) 11 0) (bfield (Cmd.word c 2) 25 24)
        (bfield (Cmd.word c 2) 30 26) (some (cmdTag s c)) s)) :=
  exec_of_accepts (exec_handleMigrate c s) ha (onHandle_of_some hh)

theorem exec_handleEvict_of_accepts (ha : accepts c 0x07 3 .user [0x0000000000000FFF#64] s = true) :
    exec (.handleEvict c) s = .next (if isGranted s (getSlot s c.slot).ctx (bfield (Cmd.word c 2) 11 0) || h.pinned then
        reply c 3 0#64 s
      else holdSlot c.slot [] (startMove (getSlot s c.slot).ctx (bfield (Cmd.word c 2) 11 0) 3 0 (some (cmdTag s c)) s)) :=
  exec_of_accepts (exec_handleEvict c s) ha (onHandle_of_some hh)
end

/-! ### Grants (R389) -/

theorem exec_grant_of_accepts {k : Nat} {u v : State} {l : Launch} {b : List Byte} {gs : List Grant} {hs : List Grant}
    {ps : List Page} (hk : k = actsOn s c (bfield (Cmd.word c 5) 5 0)) (hu : u = freeSlot c.slot s)
    (h : accepts c 0x08 0 .both [-1#64, -1#64, -1#64, 0x3F#64] s = true) (hn : nameOk u k (Cmd.word c 2).toNat = true)
    (hx : (getCtx s k).isSome = true) (h4 : (Cmd.word c 4).toNat ≤ 16) (h3 : (Cmd.word c 3).toNat % 32 = 0)
    (hl : u.launches.find? (fun l => l.ctx == k && l.addr == Cmd.word c 2 && l.started) = some l)
    (hb : (if (Cmd.word c 4).toNat = 0 then some [] else ctxRead u k (Cmd.word c 3).toNat (32 * (Cmd.word c 4).toNat)) = some b)
    (hg : readGrants b (Cmd.word c 4).toNat = some gs) (ho : unowned u (grantLines u k gs) = true)
    (ha : allGrants u k gs = some (hs, ps)) (hp : promote k hs u = some v) :
    exec (.grant c) s = .next (reply c 0 0#64 (extendGrants l.lid hs ps (bring k (grantLines u k gs) v))) := by
  subst hk hu
  obtain ⟨x, hx⟩ := Option.isSome_iff_exists.mp hx
  refine exec_of_accepts (exec_grant c s) h ((onCtx_of_some hx).trans ?_)
  dsimp only
  rw [if_neg (by simp [h3, Nat.not_lt.mpr h4]), hl]
  simp only [hn, Bool.true_eq_false, if_false]
  rw [hb]
  simp only [hg, ho, ha, hp, Bool.true_eq_false, if_false]

/-! ### The obligation -/

/-- Settles O59: each clause is the lemma of its command. -/
theorem queueCommands : Obligations.QueueCommands := by
  intro c s
  refine ⟨exec_launch_of_accepts, fun h x e hx => exec_launchCaptured_of_accepts h hx, fun hw hk =>
    ⟨fun h => signal_of_accepts (exec_evsignalSet c s) h hw hk, fun h => signal_of_accepts (exec_evsignalClear c s) h hw hk⟩,
    fun h hk h0 hm hq hv hh => exec_mapq_of_accepts h hk h0 hm hq hv hh,
    fun h h0 hm => exec_unmapq_of_accepts h h0 hm,
    fun h i hi hf hl ha hp hm hr hs => exec_ctxnew_of_accepts h hi hf hl ha hp hm hr hs,
    fun hk => ⟨exec_ctxnewAllotment_of_accepts hk, exec_ctxnewLanternWays_of_accepts hk⟩, fun x hx => ⟨fun h => ?_, fun h => ?_,
    exec_preemptResume_of_accepts hx⟩, fun h h4 hc hn hclash v hv => exec_handleCreate_of_accepts h h4 hc hn hclash hv,
    fun h hh => ⟨exec_handlePriority_of_accepts hh, fun ha => ?_, fun ha => ?_⟩,
    fun h hn hx h4 h3 l b gs hs ps v hl hb hg ho ha hp =>
      exec_grant_of_accepts rfl rfl h hn hx h4 h3 hl hb hg ho ha hp⟩
  · rw [exec_ctxfree_of_accepts hx h]
    exact ⟨fun hp => by rw [if_pos hp], fun hp => by rw [if_neg hp]⟩
  · rw [exec_preempt_of_accepts hx h]
    exact ⟨fun hp => by rw [if_neg (not_not.mpr hp)], fun hp => by rw [if_pos hp]⟩
  · rw [exec_handleMigrate_of_accepts hh ha]
    refine ⟨fun hm => ?_, fun ht hg => by rw [if_pos ⟨ht, hg⟩]⟩
    rw [if_neg]
    rintro ⟨ht, hg⟩
    rcases hm with hm | hm
    · exact hm ht
    · rw [hm] at hg
      cases hg
  · rw [exec_handleEvict_of_accepts hh ha]
    refine ⟨fun hg hp => by rw [if_neg (by simp [hg, hp])], fun hm => ?_⟩
    rcases hm with hm | hm
    · rw [if_pos (by simp [hm])]
    · rw [if_pos (by simp [hm])]

end Sys2Proof.Machine
end

section
/-! PROOFS of O60: the commands DEBUG, QUOTE, POWERCAP, COUNTERS and KEYSET. What ICINV leaves in the caches of instructions is
read off the cells that stand in them. -/

set_option Elab.async false

namespace Sys2Proof.Machine

variable {c : Cmd} {s : State}

/-! ### DEBUG (R410, R419 to R423) -/

/-- An accepted DEBUG form on a context that exists. -/
theorem debug_of_accepts {i : Instr} {form : Nat} {used : List W64} {f : Ctx → State → State} {x : Ctx} {t : State}
    (he : exec i s = debugCmd c form used f s) (hx : getCtx s (Cmd.word c 2).toNat = some x)
    (h : accepts c 0x0A form .admin (0x3F#64 :: used) s = true) (ht : f x s = t) : exec i s = .next t :=
  exec_of_accepts he h ((onCtx_of_some hx).trans ht)

section
variable {x : Ctx} (hx : getCtx s (Cmd.word c 2).toNat = some x)
include hx

theorem exec_debugAttach_of_accepts (h : accepts c 0x0A 0 .admin [0x3F#64, -1#64] s = true)
    (ha : (Cmd.word c 3).toNat % 64 = 0) (hr : x.rights.testBit 2 = true) (hn : x.attached = false)
    (hv : viaOk s (some (Cmd.word c 2).toNat) (Cmd.word c 3).toNat 64 true true = true) :
    exec (.debugAttach c) s = .next (debugSet c (fun y => { y with attached := true, buffer := Cmd.word c 3 }) s) := by
  refine debug_of_accepts (exec_debugAttach c s) hx h ?_
  dsimp only
  rw [if_neg (not_not.mpr ha), if_neg (by simp [hr, hn]), if_neg]
  exact ne_false_of_eq_true hv

theorem exec_debugDetach_of_accepts (h : accepts c 0x0A 1 .admin [0x3F#64] s = true)
    (hn : ∀ y ∈ allCrews s, y.ctx = (Cmd.word c 2).toNat → y.stop = none) :
    exec (.debugDetach c) s = .next (debugSet c (fun y => { y with attached := false, buffer := 0#64 }) s) := by
  have hmine : (allCrews s).filter (fun x => x.ctx == debugCtx c && x.stop.isSome) = [] := by
    refine List.filter_eq_nil_iff.mpr (fun y hy => ?_)
    rw [Bool.and_eq_true, beq_iff_eq]
    rintro ⟨hk, hs⟩
    rw [hn y hy hk] at hs
    cases hs
  refine debug_of_accepts (exec_debugDetach c s) hx h ?_
  dsimp only
  rw [hmine, List.foldl_nil]

theorem exec_debugPcBreakpoint_of_accepts (h : accepts c 0x0A 2 .admin [0x3F#64, 0x107#64, -1#64] s = true)
    (ha : (Cmd.word c 4).toNat % 4 = 0)
    (hw : (Cmd.word c 3).getLsbD 8 = true → (walk s (Cmd.word c 2).toNat (Cmd.word c 4).toNat).isSome = true) :
    exec (.debugPcBreakpoint c) s = .next (debugSet c (fun y => { y with
      bps := cset none y.bps (bfield (Cmd.word c 3) 2 0) (if (Cmd.word c 3).getLsbD 8 then some (Cmd.word c 4) else none) }) s) := by
  refine debug_of_accepts (exec_debugPcBreakpoint c s) hx h ?_
  dsimp only
  rw [if_neg (not_not.mpr ha), if_neg]
  rintro ⟨hon, hno⟩
  rw [Option.isNone_iff_eq_none] at hno
  have := hw hon
  rw [← debugCtx, hno] at this
  cases this

theorem exec_debugWatchpoint_of_accepts (h : accepts c 0x0A 3 .admin [0x3F#64, 0x703#64, -1#64, -1#64] s = true)
    (hk : bfield (Cmd.word c 3) 10 9 ≠ 0)
    (hn : (Cmd.word c 3).getLsbD 8 = true → nameOk s (Cmd.word c 2).toNat (Cmd.word c 4).toNat = true ∧
      ((Cmd.word c 5).toNat ≤ (Cmd.word c 4).toNat ∨ nameOk s (Cmd.word c 2).toNat ((Cmd.word c 5).toNat - 1) = true)) :
    exec (.debugWatchpoint c) s = .next (debugSet c (fun y => { y with
      watches := cset Watch.none y.watches (bfield (Cmd.word c 3) 1 0)
        { on := (Cmd.word c 3).getLsbD 8, kind := bfield (Cmd.word c 3) 10 9, base := (Cmd.word c 4).toNat,
          limit := (Cmd.word c 5).toNat } }) s) := by
  refine debug_of_accepts (exec_debugWatchpoint c s) hx h ?_
  dsimp only
  rw [if_neg hk, if_neg]
  rw [Bool.and_eq_true, not_and, Bool.not_eq_true', Bool.not_eq_false, Bool.and_eq_true, Bool.or_eq_true, decide_eq_true_eq]
  exact hn

theorem exec_debugStopCrew_of_accepts (h : accepts c 0x0A 4 .admin [0x3F#64, -1#64, 0x0000FFFFFFFFFFFF#64] s = true) {y : Crew}
    (hy : (namedCrews c s).find? (fun x => x.cond != .waiting) = some y) (hr : y.cond = .resident) :
    exec (.debugStopCrew c) s = .next (stopResident c y s) := by
  refine debug_of_accepts (exec_debugStopCrew c s) hx h ?_
  simp only [hy, hr]

theorem exec_debugResumeCrew_of_accepts
    (h : accepts c 0x0A 5 .admin [0x3F#64, -1#64, 0x0000FFFFFFFFFFFF#64, 0x1FF1#64] s = true) {y : Crew}
    (hy : (namedCrews c s).find? (fun x => x.cond == .stopped) = some y) :
    exec (.debugResumeCrew c) s = .next (reply c 0 0#64 (updCrew s y.cid (resumeStopped
      (if (Cmd.word c 5).getLsbD 0 then some (bfield (Cmd.word c 5) 8 4, bfield (Cmd.word c 5) 12 9) else none)))) := by
  refine debug_of_accepts (exec_debugResumeCrew c s) hx h ?_
  rw [hy]

theorem exec_debugEmber_of_accepts (h : accepts c 0x0A 6 .admin [0x3F#64, 0x11F#64, 0x00000000FFFFFFFF#64] s = true)
    (h8 : 8 ≤ bfield (Cmd.word c 3) 4 0) (h24 : bfield (Cmd.word c 3) 4 0 ≤ 24) (h4 : Cmd.word c 4 ≠ 0#64) :
    exec (.debugEmber c) s = .next (debugSet c
      (fun y => { y with emberOn := (Cmd.word c 3).getLsbD 8, emberK := bfield (Cmd.word c 3) 4 0 })
      (if (Cmd.word c 3).getLsbD 8 then seedEmber (bfield (Cmd.word c 3) 4 0) ((Cmd.word c 4).setWidth 32) s else s)) := by
  refine debug_of_accepts (exec_debugEmber c s) hx h (if_neg ?_)
  exact not_or.mpr ⟨Nat.not_lt.mpr h8, not_or.mpr ⟨Nat.not_lt.mpr h24, h4⟩⟩

theorem exec_debugGrist_of_accepts (h : accepts c 0x0A 7 .admin [0x3F#64, -1#64] s = true)
    (ha : (Cmd.word c 3).toNat % 65536 = 0)
    (hr : Cmd.word c 3 ≠ 0#64 → rangeOk s (some (Cmd.word c 2).toNat) (Cmd.word c 3).toNat 196608 true true = true) :
    exec (.debugGrist c) s = .next (debugSet c (fun y => { y with grist := Cmd.word c 3 }) s) := by
  refine debug_of_accepts (exec_debugGrist c s) hx h ?_
  dsimp only
  rw [if_neg (not_not.mpr ha), if_neg]
  rintro ⟨h3, hno⟩
  exact absurd (hr h3) (ne_true_of_eq_false hno)
end

/-! ### ICINV at package scope (R423) -/

/-- What a map gives is listed, unless it is what stands for nothing. -/
theorem mem_of_cget {α : Type} {d x : α} {m : Cells α} {n : Nat} (h : cget d m n = x) (hx : x ≠ d) : (n, x) ∈ m := by
  induction m with
  | nil => exact absurd h.symm hx
  | cons e m ih =>
    obtain ⟨k, v⟩ := e
    rw [cget] at h
    split at h
    next hk =>
      subst hk h
      exact List.mem_cons_self
    next => exact List.mem_cons_of_mem _ (ih h)

/-- No cached word that meets the test stays in a named core. -/
theorem not_hit_of_cached {hit : Nat → CodeWord → Bool} {named : Nat → Bool} {core pa : Nat} {x : CodeWord}
    (hn : named core = true) (h : cget none (getCore (dropWords hit named s) core).icache pa = some x) : hit pa x = false := by
  have hcached := mem_of_cget h (Option.some_ne_none x)
  have hcore : (core, getCore (dropWords hit named s) core) ∈ (dropWords hit named s).cores := by
    refine mem_of_cget rfl (fun hnone => ?_)
    rw [hnone] at hcached
    cases hcached
  obtain ⟨⟨k, y⟩, -, hy⟩ := List.mem_filterMap.mp hcore
  dsimp only at hy
  generalize hz : (if named k = true then _ else y) = z at hy
  by_cases h0 : z = Core.none
  · rw [if_pos h0] at hy
    cases hy
  · rw [if_neg h0] at hy
    obtain ⟨rfl, rfl⟩ := Prod.mk.inj (Option.some.inj hy)
    rw [← hz, if_pos hn] at hcached
    simpa using (List.mem_filter.mp hcached).2

theorem exec_debugIcinv_of_accepts (h : accepts c 0x0A 8 .admin [-1#64, -1#64] s = true)
    (hr : Cmd.word c 3 ≠ 0#64 → rangeOk s none (Cmd.word c 2).toNat (Cmd.word c 3).toNat false false = true) :
    ∃ t, exec (.debugIcinv c) s = .next t ∧ t.icinvs = s.icinvs ++ [cmdTag s c] ∧ (getSlot t c.slot).held = some [] ∧
      (∀ core pa x, cget none (getCore t core).icache pa = some x → pa < (Cmd.word c 2).toNat + (Cmd.word c 3).toNat →
        pa + 4 ≤ (Cmd.word c 2).toNat) ∧ t.part = s.part ∧ t.memsys = s.memsys := by
  have hno : ¬((Cmd.word c 3).toNat ≠ 0 ∧
      rangeOk s none (Cmd.word c 2).toNat (Cmd.word c 3).toNat false false = false) := by
    rintro ⟨h0, hno⟩
    have h3 : Cmd.word c 3 ≠ 0#64 := fun h3 => h0 (by rw [h3]; rfl)
    exact absurd (hr h3) (ne_true_of_eq_false hno)
  refine ⟨_, exec_of_accepts (exec_debugIcinv c s) h (if_neg hno), rfl, ?_, fun core pa x hc hlt => ?_, rfl, rfl⟩
  · dsimp only
    rw [holdSlot, getSlot_setSlot, if_pos rfl]
  · have hhit := not_hit_of_cached (s := s) (named := fun _ => true) (hit := fun pa _ => decide
      (pa < (Cmd.word c 2).toNat + (Cmd.word c 3).toNat ∧ (Cmd.word c 2).toNat < pa + 4)) rfl hc
    rw [decide_eq_false_iff_not, not_and, Nat.not_lt] at hhit
    exact hhit hlt

/-! ### QUOTE, POWERCAP, KEYSET (R395, R406 to R408) -/

theorem exec_quote_of_accepts (h : accepts c 0x0B 0 .both [-1#64, -1#64, -1#64, -1#64, -1#64] s = true)
    (ha : (Cmd.word c 6).toNat % 64 = 0) (hr : rangeOk s (cmdVia s c) (Cmd.word c 6).toNat 17440 false true = true) :
    exec (.quote c) s = .next (reply c 0 17440#64 (putOut (cmdVia s c) (Cmd.word c 6).toNat
      (quoteBytes (wordsBytes [Cmd.word c 2, Cmd.word c 3, Cmd.word c 4, Cmd.word c 5]) s) { s with free := s.free + 1 })) := by
  refine exec_of_accepts (exec_quote c s) h ?_
  dsimp only
  rw [if_neg (not_not.mpr ha), if_neg (ne_false_of_eq_true hr)]
  rfl

theorem exec_quoteExtend_of_accepts (h : accepts c 0x0B 1 .admin [-1#64, -1#64, -1#64, -1#64, -1#64] s = true)
    (h3 : 3 ≤ (Cmd.word c 2).toNat) (h7 : (Cmd.word c 2).toNat ≤ 7) :
    exec (.quoteExtend c) s = .next (reply c 0 0#64 { s with pkg := { s.pkg with
      meas := cset [] s.pkg.meas (Cmd.word c 2).toNat (sha256 (measOf s (Cmd.word c 2).toNat ++
        wordsBytes [Cmd.word c 3, Cmd.word c 4, Cmd.word c 5, Cmd.word c 6])) } }) :=
  exec_of_accepts (exec_quoteExtend c s) h (if_neg (not_or.mpr ⟨Nat.not_lt.mpr h3, Nat.not_lt.mpr h7⟩))

theorem exec_powercap_of_accepts (h : accepts c 0x0C 0 .admin [-1#64, -1#64, -1#64] s = true) :
    exec (.powercap c) s = .next (reply c 0 0#64
      (acceptCap { seq := Cmd.word c 2, watts := Cmd.word c 3, expiry := Cmd.word c 4 } s)) :=
  exec_of_accepts (exec_powercap c s) h rfl

theorem exec_keyset_of_accepts (h : accepts c 0x0E 0 .admin [-1#64, -1#64] s = true) (h1 : 1 ≤ (Cmd.word c 2).toNat)
    (h2 : (Cmd.word c 2).toNat < 1024) {b : List Byte} (hb : viaRead s none (Cmd.word c 3).toNat 64 = some b) :
    exec (.keyset c) s = .next (reply c 0 0#64 { s with pkg := { s.pkg with
      keys := cset [] s.pkg.keys (Cmd.word c 2).toNat b } }) := by
  refine exec_of_accepts (exec_keyset c s) h ((if_neg (not_or.mpr ⟨?_, Nat.not_le.mpr h2⟩)).trans ?_)
  · exact Nat.one_le_iff_ne_zero.mp h1
  · rw [hb]

/-! ### COUNTERS (R403, R409) -/

theorem exec_countersAccount_of_accepts {x : Ctx} (hx : getCtx s (actsOn s c (bfield (Cmd.word c 5) 5 0)) = some x)
    (h : accepts c 0x0D 0 .both [-1#64, 0#64, -1#64, 0x3F#64] s = true) :
    exec (.countersAccount c) s = .next (putCounters c (some (actsOn s c (bfield (Cmd.word c 5) 5 0)))
      ((List.range 5).flatMap (fun i => leBytes 8 (x.account[i]?.getD 0))) s) :=
  exec_of_accepts (exec_countersAccount c s) h (onCtx_of_some hx)

theorem exec_countersReadRegister_of_accepts {x : W64} (hx : lampReg s (Cmd.word c 2).toNat = some x)
    (h : accepts c 0x0D 1 .admin [-1#64, 0#64, 0#64, 0x3F#64] s = true) :
    exec (.countersReadRegister c) s = .next (reply c 0 x s) :=
  exec_of_accepts (exec_countersReadRegister c s) h (by rw [hx])

theorem exec_countersWriteRegister_of_accepts {x : W64} (hx : lampReg s (Cmd.word c 2).toNat = some x)
    (h : accepts c 0x0D 2 .admin [-1#64, -1#64, 0#64, 0x3F#64] s = true) :
    exec (.countersWriteRegister c) s = .next (reply c 0 (Cmd.word c 3)
      (writeLampReg (Cmd.word c 2).toNat (Cmd.word c 3) s)) :=
  exec_of_accepts (exec_countersWriteRegister c s) h (by rw [hx])

theorem exec_countersLifetime_of_accepts (h : accepts c 0x0D 3 .both [-1#64, 0#64, -1#64, 0x3F#64] s = true) :
    exec (.countersLifetime c) s = .next (putCounters c (cmdVia s c) (lifeBytes s) s) :=
  exec_of_accepts (exec_countersLifetime c s) h rfl

/-! ### The obligation -/

/-- Settles O60: each clause is the lemma of its command. -/
theorem adminCommands : Obligations.AdminCommands := by
  intro c s
  refine ⟨fun x hx => ⟨fun h ha hr hn hv => exec_debugAttach_of_accepts hx h ha hr hn hv,
      fun h hn => exec_debugDetach_of_accepts hx h hn, fun h ha hw => exec_debugPcBreakpoint_of_accepts hx h ha hw,
      fun h hk hn => exec_debugWatchpoint_of_accepts hx h hk hn, fun h y hy hr => exec_debugStopCrew_of_accepts hx h hy hr,
      fun h y hy => exec_debugResumeCrew_of_accepts hx h hy, fun h h8 h24 h4 => exec_debugEmber_of_accepts hx h h8 h24 h4,
      fun h ha hr => exec_debugGrist_of_accepts hx h ha hr⟩,
    exec_debugIcinv_of_accepts, exec_quote_of_accepts, exec_quoteExtend_of_accepts, exec_powercap_of_accepts,
    fun x hx h => exec_countersAccount_of_accepts hx h,
    fun x hx => ⟨exec_countersReadRegister_of_accepts hx, exec_countersWriteRegister_of_accepts hx⟩,
    exec_countersLifetime_of_accepts, fun h h1 h2 b hb => exec_keyset_of_accepts h h1 h2 hb⟩

end Sys2Proof.Machine
end

section
/-! PROOFS of O58: the checks that all commands share, stated once for `command`, and the completions. Bytes written at their
homes leave the package alone, so a completion raises its own vector and no other. -/

set_option Elab.async false

namespace Sys2Proof.Machine

variable {s : State}

/-! ### Checks (R400, R401) -/

/-- A command keeps R400's and R401's checks, where its performance answers a missing context with STATUS 3. -/
theorem checksForm_of_command {c : Cmd} {i : Instr} {code form : Nat} {o : Origin} {used : List W64} {f : State → State}
    {ctx : Option Nat} (he : exec i s = command c code form o used f s)
    (hn : ∀ n, ctx = some n → getCtx s n = none → f s = reply c 3 0#64 s) : ChecksForm c s i code form o used ctx := by
  intro ht hc hf
  have htaken : ¬(takes s c = false ∨ Cmd.code c ≠ code ∨ Cmd.form c ≠ form) := by simp [ht, hc, hf]
  rw [he, command, if_neg htaken]
  refine ⟨fun ha => by rw [if_pos ha], fun ha hcl => ?_, fun ha hcl ho => ?_, fun ha hcl ho => ⟨fun hp => ?_, fun hp n hctx hk => ?_⟩⟩
  all_goals rw [if_neg (not_not.mpr ha)]
  · rw [if_pos (not_and_or.mp hcl)]
  · rw [if_neg (not_or.mpr ⟨not_not.mpr hcl.1, not_not.mpr hcl.2⟩), if_pos ho]
  · rw [if_neg (not_or.mpr ⟨not_not.mpr hcl.1, not_not.mpr hcl.2⟩), if_neg (ne_false_of_eq_true ho), if_pos hp]
  · rw [if_neg (not_or.mpr ⟨not_not.mpr hcl.1, not_not.mpr hcl.2⟩), if_neg (ne_false_of_eq_true ho),
      if_neg (ne_false_of_eq_true hp), hn n hctx hk]

/-- A command that names no context. -/
theorem checksForm_of_noCtx {c : Cmd} {i : Instr} {code form : Nat} {o : Origin} {used : List W64} {f : State → State}
    (he : exec i s = command c code form o used f s) : ChecksForm c s i code form o used none :=
  checksForm_of_command he (fun _ h => nomatch h)

/-- A command on a context that does not exist. -/
theorem onCtx_of_none {c : Cmd} {k : Nat} {f : Ctx → State → State} (h : getCtx s k = none) :
    onCtx c k f s = reply c 3 0#64 s := by
  rw [onCtx, h]

/-- A command whose performance is one on a context that its payload or its queue names. -/
theorem checksForm_of_onCtx {c : Cmd} {i : Instr} {code form k : Nat} {o : Origin} {used : List W64} {f : State → State}
    {g : Ctx → State → State} (he : exec i s = command c code form o used f s) (hf : f s = onCtx c k g s) :
    ChecksForm c s i code form o used (some k) :=
  checksForm_of_command he (fun _ h hk => hf.trans (onCtx_of_none ((Option.some.inj h) ▸ hk)))

/-- A DEBUG form on a context. -/
theorem checksForm_of_debugCmd {c : Cmd} {i : Instr} {form : Nat} {used : List W64} {f : Ctx → State → State}
    (he : exec i s = debugCmd c form used f s) :
    ChecksForm c s i 0x0A form .admin (0x3F#64 :: used) (some (Cmd.word c 2).toNat) :=
  checksForm_of_onCtx he rfl

theorem checksForm_of_signal {c : Cmd} {i : Instr} {form : Nat} {on : Bool} (he : exec i s = signal form on c s) :
    ChecksForm c s i 0x02 form .both [-1#64, -1#64, 0x3F#64]
      (if (Cmd.word c 2).toNat < 4 then some (actsOn s c (bfield (Cmd.word c 4) 5 0)) else none) := by
  refine checksForm_of_command he (fun n hn hk => ?_)
  split at hn
  next hw =>
    cases hn
    rw [if_neg (Nat.not_le.mpr hw)]
    exact onCtx_of_none hk
  next => cases hn

/-! ### Completions (R334, R396, R400) -/

theorem sendFlit_pkg (p : Nat) (bs : List Byte) (s : State) : (sendFlit p bs s).pkg = s.pkg := by
  unfold sendFlit
  split <;> rfl

theorem setBytes_pkg (k : Nat) (bs : List Byte) (a : Nat) (s : State) : (setBytes k a bs s).pkg = s.pkg := by
  induction bs generalizing a s with
  | nil => rfl
  | cons b bs ih =>
    rw [setBytes, ih]
    unfold setByte rekey
    dsimp only
    split <;> rfl

theorem homeWrite_pkg (c k a : Nat) (bs : List Byte) (s : State) : (homeWrite c k a bs s).1.pkg = s.pkg := by
  unfold homeWrite
  dsimp only
  split
  · exact sendFlit_pkg ..
  · exact setBytes_pkg ..

theorem homeWrites_pkg (c k a : Nat) (bs : List Byte) (s : State) : (homeWrites c k a bs s).1.pkg = s.pkg := by
  unfold homeWrites
  dsimp only
  split
  · rfl
  · refine foldl_keeps (P := fun st : State × Nat => st.1.pkg = s.pkg) ?_ _ (s, 0) rfl
    exact fun st i h => (homeWrite_pkg ..).trans h

theorem ctxWrites_pkg (c n va : Nat) (bs : List Byte) (st : State × Nat) : (ctxWrites c n va bs st).1.pkg = st.1.pkg := by
  induction n generalizing va bs st with
  | zero => rfl
  | succ n ih =>
    unfold ctxWrites
    split
    · rfl
    · split
      · exact (ih _ _ _).trans (homeWrites_pkg ..)
      · exact ih _ _ _

theorem viaWrite_msix (v : Option Nat) (a : Nat) (bs : List Byte) (s : State) :
    (viaWrite v a bs s).pkg.msix = s.pkg.msix := by
  unfold viaWrite
  split
  next k =>
    have h := congrArg Package.msix (ctxWrites_pkg k bs.length a bs (s, 0))
    exact h
  next =>
    have h := congrArg Package.msix (homeWrites_pkg noCtx 0 a bs s)
    exact h

theorem putBytes_msix (v : Option Nat) (a : Nat) (bs : List Byte) (s : State) :
    (putBytes v a bs s).pkg.msix = s.pkg.msix := by
  unfold putBytes
  split <;> split
  · exact viaWrite_msix ..
  · rfl
  · exact viaWrite_msix ..
  · rfl

/-- A release that is performed raises its vector by one, and no other. -/
theorem putPost_msix (x : Post) (s : State) (v : Nat) :
    cget 0 (putPost x s).pkg.msix v = cget 0 s.pkg.msix v + if v = x.vector then 1 else 0 := by
  have h : (putPost x s).pkg.msix = cset 0 s.pkg.msix x.vector (cget 0 s.pkg.msix x.vector + 1) := by
    rw [← putBytes_msix x.ctx x.addr x.bytes s]
    rfl
  rw [h, cget_cset]
  split
  next hv => rw [hv]
  next => rfl

/-- A release that is performed touches memory, what is on its way and what Lamplighter knows of its writes alone. -/
theorem putPost_memOnly (x : Post) (s : State) : MemOnly s (putPost x s) := (putBytes_memOnly x.ctx x.addr x.bytes s).trans rfl

theorem complete_of_zero (slot status : Nat) (ctx : Option Nat) (word0 result : W64) (s : State) :
    complete slot ctx word0 0#64 status result s = msix slot s := if_pos rfl

/-- A release behind others, or before earlier writes are settled, waits. -/
theorem post_of_waiting {x : Post} (h : s.pkg.posts ≠ [] ∨ lampSettled s = false) :
    post x s = { s with pkg := { s.pkg with posts := s.pkg.posts ++ [x] } } := by
  refine if_neg ?_
  rw [Bool.and_eq_true, List.isEmpty_iff, not_and_or, Bool.not_eq_true]
  exact h

theorem execPost_of_settled {x : Post} {rest : List Post} (h : s.pkg.posts = x :: rest) (hs : lampSettled s = true) :
    execPost s = .next (putPost x { s with pkg := { s.pkg with posts := rest } }) := by
  simp only [execPost, h, hs, if_true]

theorem execPost_of_unsettled {x : Post} {rest : List Post} (h : s.pkg.posts = x :: rest) (hs : lampSettled s = false) :
    execPost s = .next s := by
  simp only [execPost, h, hs, Bool.false_eq_true, if_false]

/-! ### The obligation -/

/-- Settles O58: every command is one of `command`'s, and the completions are releases. -/
theorem commandCompletion : Obligations.CommandCompletion := by
  refine ⟨fun c s => ⟨checksForm_of_noCtx (exec_launch c s), checksForm_of_noCtx (exec_launchCaptured c s),
    checksForm_of_signal (exec_evsignalSet c s), checksForm_of_signal (exec_evsignalClear c s),
    checksForm_of_onCtx (exec_mapq c s) rfl, checksForm_of_noCtx (exec_unmapq c s), checksForm_of_noCtx (exec_ctxnew c s),
    checksForm_of_onCtx (exec_ctxnewAllotment c s) rfl, checksForm_of_onCtx (exec_ctxnewLanternWays c s) rfl,
    checksForm_of_onCtx (exec_ctxfree c s) rfl, checksForm_of_noCtx (exec_handleCreate c s),
    checksForm_of_noCtx (exec_handlePriority c s), checksForm_of_noCtx (exec_handleMigrate c s),
    checksForm_of_noCtx (exec_handleEvict c s), checksForm_of_onCtx (exec_grant c s) rfl,
    checksForm_of_onCtx (exec_preempt c s) rfl, checksForm_of_onCtx (exec_preemptResume c s) rfl,
    checksForm_of_debugCmd (exec_debugAttach c s), checksForm_of_debugCmd (exec_debugDetach c s),
    checksForm_of_debugCmd (exec_debugPcBreakpoint c s), checksForm_of_debugCmd (exec_debugWatchpoint c s),
    checksForm_of_debugCmd (exec_debugStopCrew c s), checksForm_of_debugCmd (exec_debugResumeCrew c s),
    checksForm_of_debugCmd (exec_debugEmber c s), checksForm_of_debugCmd (exec_debugGrist c s),
    checksForm_of_noCtx (exec_debugIcinv c s), checksForm_of_noCtx (exec_quote c s),
    checksForm_of_noCtx (exec_quoteExtend c s), checksForm_of_noCtx (exec_powercap c s),
    checksForm_of_onCtx (exec_countersAccount c s) rfl, checksForm_of_noCtx (exec_countersReadRegister c s),
    checksForm_of_noCtx (exec_countersWriteRegister c s), checksForm_of_noCtx (exec_countersLifetime c s),
    checksForm_of_noCtx (exec_keyset c s)⟩, ?_, ?_, ?_⟩
  · intro slot status ctx word0 cpla result s
    refine ⟨?_, fun h hp hs => (if_neg h).trans (post_of_settled hp hs), fun h hw => (if_neg h).trans (post_of_waiting hw)⟩
    rintro rfl
    exact complete_of_zero ..
  · intro x s
    refine ⟨?_, fun v hv => ?_, ?_⟩
    · rw [putPost_msix, if_pos rfl]
    · rw [putPost_msix, if_neg hv, Nat.add_zero]
    · rw [putPost_memOnly x s]
      exact ⟨rfl, rfl, rfl, rfl, rfl, rfl, rfl, rfl⟩
  · exact fun x rest s h => ⟨execPost_of_settled h, execPost_of_unsettled h⟩

end Sys2Proof.Machine
end

section
/-! PROOFS of O54: what Lamplighter and the schedulers do at a visit of a slot, at a launch, at the end of a crew and of a
pre-emption, in a dump and at the end of a migration. -/

set_option Elab.async false

namespace Sys2Proof.Machine

variable {s : State}

/-! ### Visits of a slot (R366) -/

section
variable {n : Nat} (hm : (getSlot s n).mapped = true) (h0 : n ≠ 0) (hc : ctxRuns s (getSlot s n).ctx = true)
  (hh : s.pkg.halted = false)
include hm h0 hc hh

/-- Nothing keeps Lamplighter from the slot. -/
theorem slot_served : ¬((!(getSlot s n).mapped || n == 0 || !ctxRuns s (getSlot s n).ctx || s.pkg.halted) = true) := by
  simp [hm, h0, hc, hh]

theorem slotVisit_of_idle (hn : nextCrew s (getSlot s n).ctx (getSlot s n).queue = none) :
    exec (.slotVisit n) s = .next (setSlot s n { getSlot s n with deficit := min (getSlot s n).deficit 0 }) := by
  rw [exec_slotVisit, execSlotVisit, if_neg (slot_served hm h0 hc hh), hn]
  rfl

theorem slotVisit_of_crew (hn : (nextCrew s (getSlot s n).ctx (getSlot s n).queue).isSome = true) :
    let t := setSlot s n { getSlot s n with
      deficit := min ((getSlot s n).deficit + (getSlot s n).quantum) (2 * (getSlot s n).quantum) }
    exec (.slotVisit n) s = .next (if budget s < s.pkg.power then t
      else placeAll n (s.crews.length + 1 + (s.launches.map (fun l => l.total - l.next)).sum) t) := by
  rw [exec_slotVisit, execSlotVisit, if_neg (slot_served hm h0 hc hh), if_pos hn]

/-! ### Launches (R357, R361) -/

section
variable {l : Launch} {c : Ctx} (hl : headOf s (getSlot s n).ctx (getSlot s n).queue = some l)
  (hx : getCtx s (getSlot s n).ctx = some c) (hb : l.bytes ≠ []) (ha : l.addr.toNat % 256 = 0)
include hl hx hb ha

theorem launchStart_of_badRecord (hr : recordOk c l.bytes = false) :
    exec (.launchStart n) s = .next (dropLaunch l 0x01 s) := by
  rw [exec_launchStart, execLaunchStart, if_neg (slot_served hm h0 hc hh)]
  simp only [hl, hx, if_neg hb, if_neg (not_not.mpr ha), if_pos hr]

theorem launchStart_of_ready {m : Launch} (hr : recordOk c l.bytes = true) :
    let t := testHeads (getSlot s n).ctx (updLaunch s l.lid (fun y => { y with bytes := l.bytes }))
    headOf t (getSlot s n).ctx (getSlot s n).queue = some m → m.passed = true →
      queueFree t (getSlot s n).ctx (getSlot s n).queue = true → exec (.launchStart n) s = .next (startLaunch m t) := by
  intro t hhead hp hq
  have hgo : m.passed = true ∧ queueFree t (getSlot s n).ctx (getSlot s n).queue = true := ⟨hp, hq⟩
  rw [exec_launchStart, execLaunchStart, if_neg (slot_served hm h0 hc hh)]
  simp only [hl, hx, if_neg hb, if_neg (not_not.mpr ha), if_neg (ne_false_of_eq_true hr)]
  rw [hhead]
  exact congrArg _ (if_pos hgo)
end
end

/-! ### The end of a crew (R273, R274, R372) -/

theorem crewRetire_of_clean (h : s.crew.cond = .resident) (hp : noParts s = true)
    (hl : dirtyLines s s.crew.core s.crew.cid (fun _ => true) = []) (hs : settledCrew s = true) :
    exec (.crewRetire s.crew.cid) s = .next (leaveCore s) := by
  rw [exec_crewRetire, execCrewRetire, focusCrew_self h]
  simp [h, hp, hl, hs]

theorem crewRetire_of_dirty (h : s.crew.cond = .resident) (hp : noParts s = true)
    (hl : dirtyLines s s.crew.core s.crew.cid (fun _ => true) ≠ [])
    (hr : (dirtyLines s s.crew.core s.crew.cid (fun _ => true)).filter
      (fun l => outRoom s s.crew.cid (getL1 s s.crew.core l).trk) = dirtyLines s s.crew.core s.crew.cid (fun _ => true)) :
    exec (.crewRetire s.crew.cid) s =
      .next (writeDowns s.crew.core (dirtyLines s s.crew.core s.crew.cid (fun _ => true)) s) := by
  rw [exec_crewRetire, execCrewRetire, focusCrew_self h]
  rw [if_neg (by simp [h, hp]), hr]
  split
  next hnil => exact absurd hnil hl
  next => rfl

theorem swapOut_of_clean (h : s.crew.cond = .resident) (hp : noParts s = false) (hh : s.crew.halt = true)
    (hl : dirtyLines s s.crew.core s.crew.cid (fun _ => true) = []) (hq : quiet s = true) (ha : leftAlone s = true) :
    exec (.swapOut s.crew.cid) s = .next (swapAway (settleEngines s)) := by
  rw [exec_swapOut, execSwapOut, focusCrew_self h]
  simp [h, hp, hh, hl, hq, ha]

/-! ### The end of a pre-emption (R372) -/

theorem preemptDone_of_tag {n : Nat} {c : Ctx} {k : CmdTag} (hc : getCtx s n = some c) (hp : c.preempt = 1)
    (hr : residentOf s n = []) (hf : c.freeing = false) (hk : c.ptag = some k) :
    exec (.preemptDone n) s = .next (endCommand k none 0 0#64 (setCtx s n (some { c with preempt := 2, ptag := none }))) := by
  rw [exec_preemptDone, execPreemptDone, hc]
  simp only [hp, hr, hf, hk, ne_eq, not_true_eq_false, or_self, if_false, Bool.false_eq_true]

/-! ### Dumps (R129, R424 to R427) -/

/-- A dump whose part waits for it goes on by its next step. -/
theorem dumpcDone_of_waiting {d : Dump} (h : s.crew.cond = .resident) (hd : s.crew.dump = some d)
    (hi : (focusWave s d.wave (some d.part)).crew.cid = s.crew.cid)
    (hr : (focusWave s d.wave (some d.part)).crew.cond = .resident)
    (hw : (focusWave s d.wave (some d.part)).part.wait = .dump)
    (hq : (focusWave s d.wave (some d.part)).part.quads.testBit d.part = true) :
    exec (.dumpcDone s.crew.cid) s = .next ((dumpStep d (focusWave s d.wave (some d.part))).getD s) := by
  rw [exec_dumpcDone, execDumpcDone, focusCrew_self h, hd]
  dsimp only
  rw [if_neg (by simp [hi, hr, hw, hq])]

section
variable {d : Dump} {u v : State}

theorem dumpStep_of_ready (h0 : d.phase = 0) (hp : d.preempt = false) (hr : dumpReady d u = true) :
    dumpStep d u = some (putDump u (renderDump d u)) := by
  simp [dumpStep, h0, hp, hr]

theorem dumpStep_of_preempted (h0 : d.phase = 0) (hp : d.preempt = true) :
    dumpStep d u = some (putDump u { d with phase := 2 }) := by
  simp [dumpStep, h0, hp]

theorem dumpStep_of_block (h1 : d.phase = 1) (hf : d.fault = false) (hp : d.preempt = false) (hl : d.left ≠ [])
    (hb : blockOut u = false) : dumpStep d u = dumpBlock d u := by
  simp [dumpStep, h1, hf, hp, hl, hb]

theorem dumpStep_of_header (h1 : d.phase = 1) (hl : d.fault = true ∨ d.preempt = true ∨ d.left = [])
    (ha : dumpAnswered u = true) : dumpStep d u = dumpHeader d u := by
  have hend : (d.fault || d.preempt || d.left.isEmpty) = true := by
    rwa [Bool.or_eq_true, Bool.or_eq_true, List.isEmpty_iff, or_assoc]
  simp only [dumpStep, h1, hend, ha, if_true]

theorem dumpStep_of_answered (h2 : d.phase = 2) (ha : dumpAnswered u = true) : dumpStep d u = some (dumpEnd d u) := by
  simp only [dumpStep, h2, ha, if_true]
end

/-! ### Migrations (R344, R393, R394) -/

/-- A handle of a context that exists reads back. -/
theorem getHandle_setHandle_same {n k : Nat} {x : Option Handle} (hc : (getCtx s n).isSome = true) :
    getHandle (setHandle n k x s) n k = x := by
  obtain ⟨c, hc⟩ := Option.isSome_iff_exists.mp hc
  simp [getHandle, setHandle, getCtx_updCtx, hc]

theorem isSome_getCtx_updCtx {n k : Nat} {f : Ctx → Ctx} : (getCtx (updCtx s n f) k).isSome = (getCtx s k).isSome := by
  rw [getCtx_updCtx]
  split
  next h => rw [h, Option.isSome_map]
  next => rfl

theorem isSome_getCtx_of_getHandle {n k : Nat} {h : Handle} (hh : getHandle s n k = some h) : (getCtx s n).isSome = true := by
  obtain ⟨c, hc, -⟩ := Option.bind_eq_some_iff.mp hh
  rw [hc]
  rfl

/-- The lines of a handle have moved: its tier and vault are the new ones, and its place and its migrations stay. -/
theorem getHandle_moveHandle {n k tier v : Nat} {h : Handle} (hh : getHandle s n k = some h) :
    getHandle (moveHandle n k tier v s) n k =
      some { h with tier := tier, vault := if tier < 2 then v else 0, wkey := keyVal s h.key } := by
  rw [moveHandle, hh]
  dsimp only
  rw [getHandle_setHandle_same]
  · rw [charge, isSome_getCtx_updCtx, charge, isSome_getCtx_updCtx]
    exact isSome_getCtx_of_getHandle hh

theorem moveHandle_part (n k tier v : Nat) (s : State) : (moveHandle n k tier v s).part = s.part := by
  unfold moveHandle
  split
  · rfl
  · simp [setHandle, charge, carryFloors, settleSpace]

/-- A migration within the tier and the vault that the handle stands in needs no space, and is over. -/
theorem migrationEnd_of_inTier {n k v tier : Nat} {h : Handle} {rest : List (Nat × Nat × Option CmdTag)}
    (hh : getHandle s n k = some h) (hm : h.moving = (tier, v, none) :: rest) (h3 : tier ≠ 3) (hi : inTier tier v h = true) :
    ∃ t, exec (.handleMigrationEnd n k) s = .next t ∧
      (∃ x, getHandle t n k = some x ∧ x.moving = rest ∧ x.tier = tier ∧ x.base = h.base ∧ x.extent = h.extent) ∧
      t.part = s.part := by
  have htier : h.tier = tier := by
    rw [inTier, Bool.and_eq_true, beq_iff_eq] at hi
    exact hi.1
  have hwait : ¬((tier = 3 ∧ isGranted s n k = true) ∨ shutOut s tier v h = true) := by simp [h3, shutOut, htier]
  have hmoved := getHandle_moveHandle (tier := tier) (v := v) hh
  refine ⟨setHandle n k (some { h with
    tier := tier, vault := if tier < 2 then v else 0, wkey := keyVal s h.key, moving := rest }) (moveHandle n k tier v s), ?_,
    ⟨_, getHandle_setHandle_same (isSome_getCtx_of_getHandle hmoved), rfl, rfl, rfl, rfl⟩, ?_⟩
  · rw [exec_handleMigrationEnd, execHandleMigrationEnd, hh]
    dsimp only
    rw [hm]
    dsimp only
    rw [if_neg hwait, if_pos hi]
    dsimp only
    rw [hmoved]
  · rw [setHandle, updCtx_part, moveHandle_part]

/-- A migration of a granted handle to host memory waits, and so does a promotion into a closed vault. -/
theorem migrationEnd_of_waiting {n k v tier : Nat} {tag : Option CmdTag} {h : Handle} {rest : List (Nat × Nat × Option CmdTag)}
    (hh : getHandle s n k = some h) (hm : h.moving = (tier, v, tag) :: rest)
    (hw : (tier = 3 ∧ isGranted s n k = true) ∨ shutOut s tier v h = true) : exec (.handleMigrationEnd n k) s = .next s := by
  rw [exec_handleMigrationEnd, execHandleMigrationEnd, hh]
  dsimp only
  rw [hm]
  dsimp only
  rw [if_pos hw]

/-! ### The obligation -/

/-- Settles O54: each clause is the lemma of its step. -/
theorem schedulerSteps : Obligations.SchedulerSteps := by
  intro s
  refine ⟨fun n hm h0 hc hh => ⟨slotVisit_of_idle hm h0 hc hh, fun hn => ?_⟩,
    fun n l c hm h0 hc hh hl hx hb ha => ⟨launchStart_of_badRecord hm h0 hc hh hl hx hb ha,
      fun hr m => launchStart_of_ready hm h0 hc hh hl hx hb ha hr⟩,
    fun h => ⟨crewRetire_of_clean h, crewRetire_of_dirty h, swapOut_of_clean h⟩,
    fun n c hc hp hr hf k hk => preemptDone_of_tag hc hp hr hf hk, fun d h hd hi hr hw hq => ?_,
    fun n k h v rest hh tier hm h3 hi => migrationEnd_of_inTier hh hm h3 hi,
    fun n k h tier v tag rest hh hm hw => migrationEnd_of_waiting hh hm hw⟩
  · rw [slotVisit_of_crew hm h0 hc hh hn]
    exact ⟨fun hb => by rw [if_pos hb], fun hb => by rw [if_neg (Nat.not_lt.mpr hb)]⟩
  · rw [dumpcDone_of_waiting h hd hi hr hw hq]
    refine ⟨fun h0 hp hr => ?_, fun h0 hp => ?_, fun h1 hf hp hl hb v hv => ?_, fun h1 hl ha v hv => ?_, fun h2 ha => ?_⟩
    · rw [dumpStep_of_ready h0 hp hr, Option.getD_some]
    · rw [dumpStep_of_preempted h0 hp, Option.getD_some]
    · rw [dumpStep_of_block h1 hf hp hl hb, hv, Option.getD_some]
    · rw [dumpStep_of_header h1 hl ha, hv, Option.getD_some]
    · rw [dumpStep_of_answered h2 ha, Option.getD_some]

end Sys2Proof.Machine
end

section
/-! PROOFS of O51 and O56: TALW after a sample of its vault, and what the host port and the boot do. The housekeeping of heat,
droop and bias touches clusters, vaults, free choices and the lifetime records alone (`PowerOnly`), which the boot and the
samples share. -/

set_option Elab.async false

namespace Sys2Proof.Machine

variable {s t u : State}

/-! ### Fields of a word -/

theorem toNat_bset {x : W64} {hi lo v : Nat} (hl : lo ≤ hi) (hh : hi < 64) :
    (bset x hi lo v).toNat = 2 ^ lo * (2 ^ (hi + 1 - lo) * (x.toNat / 2 ^ (hi + 1)) + v % 2 ^ (hi + 1 - lo)) + x.toNat % 2 ^ lo := by
  have hpow : 2 ^ lo * 2 ^ (hi + 1 - lo) = 2 ^ (hi + 1) := by
    rw [← Nat.pow_add]
    congr 1
    omega
  have hsum : x.toNat % 2 ^ lo + v % 2 ^ (hi + 1 - lo) * 2 ^ lo + x.toNat / 2 ^ (hi + 1) * 2 ^ (hi + 1) =
      2 ^ lo * (2 ^ (hi + 1 - lo) * (x.toNat / 2 ^ (hi + 1)) + v % 2 ^ (hi + 1 - lo)) + x.toNat % 2 ^ lo := by
    rw [Nat.mul_add, ← Nat.mul_assoc, hpow]
    ring
  rw [bset, BitVec.toNat_ofNat, hsum]
  refine Nat.mod_eq_of_lt ?_
  have hx : x.toNat / 2 ^ (hi + 1) < 2 ^ (64 - (hi + 1)) := by
    refine Nat.div_lt_of_lt_mul ?_
    rw [← Nat.pow_add, show hi + 1 + (64 - (hi + 1)) = 64 by omega]
    exact x.isLt
  have hmid : 2 ^ (hi + 1 - lo) * (x.toNat / 2 ^ (hi + 1)) + v % 2 ^ (hi + 1 - lo) < 2 ^ (64 - lo) := by
    have h64 : 2 ^ (64 - (hi + 1)) * 2 ^ (hi + 1 - lo) = 2 ^ (64 - lo) := by
      rw [← Nat.pow_add]
      congr 1
      omega
    rw [← h64]
    exact Nat.mul_add_lt_mul_of_lt_of_lt hx (Nat.mod_lt _ (Nat.two_pow_pos _))
  have h64 : 2 ^ (64 - lo) * 2 ^ lo = 2 ^ 64 := by
    rw [← Nat.pow_add]
    congr 1
    omega
  rw [← h64]
  exact Nat.mul_add_lt_mul_of_lt_of_lt hmid (Nat.mod_lt _ (Nat.two_pow_pos _))

/-- A bit of a word with a field replaced: of the field inside it, and as before outside. -/
theorem getLsbD_bset {x : W64} {hi lo v : Nat} (hl : lo ≤ hi) (hh : hi < 64) (j : Nat) :
    (bset x hi lo v).getLsbD j = if lo ≤ j ∧ j ≤ hi then v.testBit (j - lo) else x.getLsbD j := by
  rw [BitVec.getLsbD, toNat_bset hl hh, Nat.testBit_two_pow_mul_add _ (Nat.mod_lt _ (Nat.two_pow_pos _)),
    Nat.testBit_two_pow_mul_add _ (Nat.mod_lt _ (Nat.two_pow_pos _)), Nat.testBit_mod_two_pow, Nat.testBit_mod_two_pow,
    Nat.testBit_div_two_pow]
  by_cases h1 : j < lo
  · simp [h1, Nat.not_le.mpr h1, BitVec.getLsbD]
  · by_cases h2 : j ≤ hi
    · simp [h1, h2, Nat.not_lt.mp h1, show j - lo < hi + 1 - lo by omega]
    · simp [h1, h2, show ¬ j - lo < hi + 1 - lo by omega, show j - lo - (hi + 1 - lo) + (hi + 1) = j by omega, BitVec.getLsbD]

/-- A one-bit field that is set reads back. -/
theorem getLsbD_bset_same {x : W64} {k : Nat} (b : Bool) (hk : k < 64) : (bset x k k b.toNat).getLsbD k = b := by
  rw [getLsbD_bset le_rfl hk, if_pos ⟨le_rfl, le_rfl⟩, Nat.sub_self]
  cases b <;> rfl

/-! ### The housekeeping of power -/

/-- Only clusters, vaults, free choices and the lifetime records differ. -/
def PowerOnly (s t : State) : Prop :=
  ∃ cs vs n l m, t = { s with clusters := cs, vaults := vs, free := n, pkg := { s.pkg with
    life := l, flash := { s.pkg.flash with life := m } } }

theorem PowerOnly.refl (s : State) : PowerOnly s s := ⟨_, _, _, _, _, rfl⟩

theorem PowerOnly.trans (h : PowerOnly s t) (k : PowerOnly t u) : PowerOnly s u := by
  obtain ⟨_, _, _, _, _, rfl⟩ := h
  obtain ⟨_, _, _, _, _, rfl⟩ := k
  exact ⟨_, _, _, _, _, rfl⟩

theorem PowerOnly.ite {c : Prop} [Decidable c] (h : PowerOnly s t) (k : PowerOnly s u) : PowerOnly s (if c then t else u) := by
  split
  · exact h
  · exact k

/-- A fold of housekeeping is housekeeping. -/
theorem foldl_powerOnly {f : State → Nat → State} (hf : ∀ u c, PowerOnly u (f u c)) (l : List Nat) (s : State) :
    PowerOnly s (l.foldl f s) :=
  foldl_keeps (fun u c hu => hu.trans (hf u c)) l s (.refl s)

theorem setCluster_powerOnly (s : State) (c : Nat) (x : Cluster) : PowerOnly s (setCluster s c x) := ⟨_, _, _, _, _, rfl⟩

theorem updLife_powerOnly (f : Lifetime → Lifetime) (s : State) : PowerOnly s (updLife f s) := ⟨_, _, _, _, _, rfl⟩

theorem follow_powerOnly (c b : Nat) (s : State) : PowerOnly s (follow c b s) := .ite (.refl s) (setCluster_powerOnly ..)

theorem countCluster_powerOnly (c : Nat) (s : State) : PowerOnly s (countCluster c s) := ⟨_, _, _, _, _, rfl⟩

theorem countVault_powerOnly (v : Nat) (s : State) : PowerOnly s (countVault v s) := .ite (.refl s) ⟨_, _, _, _, _, rfl⟩

theorem writeLife_powerOnly (s : State) : PowerOnly s (writeLife s) := by
  have h : PowerOnly s ((List.range 32).foldl (fun u c => countVault c (countCluster c u)) s) :=
    foldl_powerOnly (fun u c => (countCluster_powerOnly c u).trans (countVault_powerOnly c _)) _ s
  unfold writeLife
  dsimp only
  generalize (List.range 32).foldl (fun u c => countVault c (countCluster c u)) s = t at h ⊢
  exact .ite (h.trans ⟨_, _, _, _, _, rfl⟩) (h.trans ⟨_, _, _, _, _, rfl⟩)

theorem vaultHold_powerOnly (c : Nat) (b : Bool) (s : State) : PowerOnly s (vaultHold c b s) :=
  .ite (.refl s) ((setCluster_powerOnly ..).trans (follow_powerOnly ..))

theorem sampleVault_powerOnly (v : Nat) (x : Int) (s : State) : PowerOnly s (sampleVault v x s) :=
  (countVault_powerOnly v s).trans (PowerOnly.trans (t := { countVault v s with vaults := _ }) ⟨_, _, _, _, _, rfl⟩
    (vaultHold_powerOnly ..))

theorem freeSample_powerOnly (v : Nat) (s : State) : PowerOnly s (freeSample v s) :=
  PowerOnly.trans (t := { s with free := s.free + 16 }) ⟨_, _, _, _, _, rfl⟩ (sampleVault_powerOnly ..)

theorem biasArrived_powerOnly (c : Nat) (s : State) : PowerOnly s (biasArrived c s) := by
  refine .ite (.refl s) (.ite ?_ (setCluster_powerOnly ..))
  exact (countCluster_powerOnly c s).trans ((setCluster_powerOnly ..).trans
    ((follow_powerOnly ..).trans (writeLife_powerOnly _)))

theorem aimBias_powerOnly (c : Nat) (code : Int) (s : State) : PowerOnly s (aimBias c code s) := setCluster_powerOnly ..

theorem replan_powerOnly (c : Nat) (slack : List (Int × Nat)) (s : State) : PowerOnly s (replan c slack s) :=
  (setCluster_powerOnly ..).trans ((aimBias_powerOnly ..).trans ((updLife_powerOnly ..).trans (biasArrived_powerOnly ..)))

theorem bootPlan_powerOnly (s : State) (c : Nat) : PowerOnly s (bootPlan s c) :=
  PowerOnly.trans (t := { s with free := s.free + 81 }) ⟨_, _, _, _, _, rfl⟩
    ((setCluster_powerOnly ..).trans (replan_powerOnly ..))

namespace PowerOnly

theorem part (h : PowerOnly s t) : t.part = s.part := by
  obtain ⟨_, _, _, _, _, rfl⟩ := h
  rfl

theorem memsys (h : PowerOnly s t) : t.memsys = s.memsys := by
  obtain ⟨_, _, _, _, _, rfl⟩ := h
  rfl

theorem clock (h : PowerOnly s t) : t.clock = s.clock := by
  obtain ⟨_, _, _, _, _, rfl⟩ := h
  rfl

/-- What of the package is no lifetime record stays. -/
theorem pkg (h : PowerOnly s t) : t.pkg = { s.pkg with life := t.pkg.life, flash := t.pkg.flash } := by
  obtain ⟨_, _, _, _, _, rfl⟩ := h
  rfl

end PowerOnly

/-! ### TALW (R345) -/

/-- Counting a vault's time leaves its word, its state and its last change. -/
theorem countVault_vault (v k : Nat) (s : State) : ∃ n, cget Vault.reset (countVault v s).vaults k =
    { cget Vault.reset s.vaults k with since := n } ∧ (k ≠ v → n = (cget Vault.reset s.vaults k).since) := by
  unfold countVault
  dsimp only
  split
  · exact ⟨_, rfl, fun _ => rfl⟩
  · by_cases hk : k = v
    · subst hk
      exact ⟨s.clock, by simp [updLife, cget_cset_same], fun h => absurd rfl h⟩
    · exact ⟨_, by simp [updLife, cget_cset_ne _ _ _ hk], fun _ => rfl⟩

theorem follow_vaults (c b : Nat) (s : State) : (follow c b s).vaults = s.vaults := by
  unfold follow
  dsimp only
  split <;> rfl

theorem vaultHold_vaults (c : Nat) (b : Bool) (s : State) : (vaultHold c b s).vaults = s.vaults := by
  unfold vaultHold
  dsimp only
  split
  · rfl
  · exact follow_vaults ..

/-- The divider holds the clock exactly when the vault is closed. -/
theorem vaultHold_held (c : Nat) (b : Bool) (s : State) : (getCluster (vaultHold c b s) c).gctl.getLsbD 1 = b := by
  have hfollow : ∀ u : State, (getCluster (follow c 1 u) c).gctl = (getCluster u c).gctl := by
    intro u
    unfold follow
    dsimp only
    split
    · rfl
    · rw [getCluster_setCluster, if_pos rfl]
  unfold vaultHold
  dsimp only
  split
  next h => exact h
  next =>
    rw [hfollow, getCluster_setCluster, if_pos rfl]
    exact getLsbD_bset_same b (by decide)

/-- The vaults after a sample: its own with the new word, and the others as before. -/
theorem sampleVault_vault (v k : Nat) (x : Int) (s : State) :
    let old := cget Vault.reset s.vaults v
    let n := nextMult (bfield old.talw 33 32) (old.talw.getLsbD 31) (old.sampled && decide (old.changed + 1000000 ≤ timeOf s)) x
    let new := cget Vault.reset (sampleVault v x s).vaults k
    if k = v then
      new.talw = talwOf (bfield old.talw 63 48 + (n != (bfield old.talw 33 32, old.talw.getLsbD 31)).toNat) n.1 n.2 x ∧
        (getCluster (sampleVault v x s) v).gctl.getLsbD 1 = n.2
    else new = cget Vault.reset s.vaults k := by
  dsimp only
  have htime : timeOf (countVault v s) = timeOf s := by rw [timeOf, (countVault_powerOnly v s).clock, timeOf]
  obtain ⟨n, hn, -⟩ := countVault_vault v v s
  split
  next hk =>
    subst hk
    unfold sampleVault
    dsimp only
    rw [vaultHold_vaults, vaultHold_held]
    dsimp only
    rw [cget_cset_same, hn, htime]
    exact ⟨rfl, rfl⟩
  next hk =>
    obtain ⟨m, hm, hsame⟩ := countVault_vault v k s
    unfold sampleVault
    dsimp only
    rw [vaultHold_vaults]
    dsimp only
    rw [cget_cset_ne _ _ _ hk, hm, hsame hk]

/-- The fields of a word of a vault, which do not overlap. -/
theorem talwOf_fields {seq mult : Nat} {closed : Bool} {x : Int} (hm : mult ≤ 2) :
    bfield (talwOf seq mult closed x) 63 48 = seq % 2 ^ 16 ∧ bfield (talwOf seq mult closed x) 47 34 = 0 ∧
      bfield (talwOf seq mult closed x) 33 32 = mult ∧ bfield (talwOf seq mult closed x) 31 31 = closed.toNat ∧
      bfield (talwOf seq mult closed x) 30 28 = 0 ∧ bfield (talwOf seq mult closed x) 27 16 = wrapTo 12 x ∧
      bfield (talwOf seq mult closed x) 15 0 = wrapTo 16 (420 - x) := by
  have hc : closed.toNat ≤ 1 := Bool.toNat_le closed
  have h12 : wrapTo 12 x < 4096 := by
    unfold wrapTo
    omega
  have h16 : wrapTo 16 (420 - x) < 65536 := by
    unfold wrapTo
    omega
  simp only [talwOf, bfield, BitVec.toNat_ofNat]
  generalize wrapTo 12 x = a at *
  generalize wrapTo 16 (420 - x) = b at *
  omega

/-- A bit of a word as a field. -/
theorem getLsbD_of_bfield {x : W64} {k : Nat} {b : Bool} (h : bfield x k k = b.toNat) : x.getLsbD k = b := by
  rw [BitVec.getLsbD, Nat.testBit_eq_decide_div_mod_eq]
  rw [bfield, Nat.add_sub_cancel_left, Nat.pow_one] at h
  rw [h]
  cases b <;> rfl

/-- A reading reads back from its 12 bits. -/
theorem signedOf_wrapTo_12 {x : Int} (hlo : -2048 ≤ x) (hhi : x < 2048) : signedOf 12 (wrapTo 12 x) = x := by
  unfold signedOf wrapTo
  dsimp only
  split <;> omega

/-- A margin reads back from its 16 bits. -/
theorem signedOf_wrapTo_16 {x : Int} (hlo : -32768 ≤ x) (hhi : x < 32768) : signedOf 16 (wrapTo 16 x) = x := by
  unfold signedOf wrapTo
  dsimp only
  split <;> omega

/-- A sample of which no reading trips. -/
theorem vaultSample_of_cool {v : Nat} {x : Int} {l : List Int} (hv : v < 32) (hp : s.pkg.powered = true) (hl : l.length = 15)
    (hd : (cget Vault.reset s.vaults v).next ≤ timeOf s) (hr : ∀ r ∈ x :: l, r ≤ 480) :
    exec (.vaultSample v (x :: l)) s = .next (sampleVault v (l.foldl max x) s) := by
  have hcool : (x :: l).findIdx? (fun r => decide (480 < r)) = none :=
    List.findIdx?_eq_none_iff.mpr (fun r h => decide_eq_false (not_lt.mpr (hr r h)))
  rw [exec_vaultSample, execVaultSample]
  dsimp only
  rw [if_pos ⟨hv, by rw [List.length_cons, hl], hp, hd⟩, hcool]

/-- Settles O51: the word of the sampled vault is `talwOf`, whose fields read back. -/
theorem talwFollowsItsSample : Obligations.TalwFollowsItsSample := by
  intro v x l s hv hp t old hl hd hr mult closed n hlo hhi hm
  have hself := sampleVault_vault v v t s
  rw [if_pos rfl] at hself
  obtain ⟨htalw, hheld⟩ := hself
  have hn : n.1 ≤ 2 := (refreshThresholds mult closed _ t hm).2.2.2.2.2.2
  obtain ⟨hseq, hres, hmult, hclosed, hres', htemp, hhead⟩ :=
    talwOf_fields (seq := bfield old.talw 63 48 + (n != (mult, closed)).toNat) (closed := n.2) (x := t) hn
  have hreg : lampReg (sampleVault v t s) (0x40 + v) = some (talwOf (bfield old.talw 63 48 + (n != (mult, closed)).toNat) n.1 n.2 t) := by
    rw [lampReg, if_pos ⟨by omega, by omega⟩, Nat.add_sub_cancel_left]
    exact congrArg some htalw
  refine ⟨_, _, vaultSample_of_cool hv hp hl hd hr, hreg, hseq.trans ?_, hres, hmult, hn, getLsbD_of_bfield hclosed, hres',
    htemp.symm ▸ signedOf_wrapTo_12 hlo hhi, hhead.symm ▸ signedOf_wrapTo_16 (by omega) (by omega), fun k hk => ?_, hheld,
    (sampleVault_powerOnly v t s).part, (sampleVault_powerOnly v t s).memsys⟩
  · by_cases h : n = (mult, closed)
    · rw [if_pos h, bne_eq_false_iff_eq.mpr h, Bool.toNat_false]
    · rw [if_neg h, bne_iff_ne.mpr h, Bool.toNat_true]
  · have hother := sampleVault_vault v k t s
    rw [if_neg hk] at hother
    exact hother

/-! ### The host port (R359, R360, R396, R397) -/

theorem notify_of_mapped {n : Nat} (hb : s.pkg.booted = true) (hn : n < 64) (h0 : n ≠ 0) (hm : (getSlot s n).mapped = true) :
    exec (.notify n) s = .next (setSlot s n { getSlot s n with serving := !(getSlot s n).broken }) := by
  rw [exec_notify, execNotify, if_neg (by simp [hb, hn]), if_neg h0, notifySlot, if_pos hm]

theorem notify_admin (hb : s.pkg.booted = true) :
    exec (.notify 0) s = .next (setSlot s 0 { getSlot s 0 with serving := !(getSlot s 0).broken }) := by
  rw [exec_notify, execNotify, if_neg (by simp [hb]), if_pos rfl]

theorem notify_unbooted (n : Nat) (hb : s.pkg.booted = false) : exec (.notify n) s = .next s := by
  rw [exec_notify, execNotify, if_pos (.inl hb)]

theorem admqWrite_of_aligned {v : W64} (hp : s.pkg.powered = true) (hv : bfield v 5 0 = 0) :
    ∃ t, exec (.admqWrite v) s = .next t ∧ t.pkg.admq = v ∧ (getSlot t 0).serving = false ∧ (getSlot t 0).broken = false ∧
      t.memsys = s.memsys := by
  have hok : ¬(s.pkg.powered = false ∨ bfield v 5 0 ≠ 0) := by simp [hp, hv]
  refine ⟨_, (exec_admqWrite v s).trans (congrArg Host.Outcome.next (if_neg hok)), rfl, ?_, ?_, rfl⟩
  · rw [getSlot_setSlot, if_pos rfl]
  · rw [getSlot_setSlot, if_pos rfl]

theorem barRead_other {n : Nat} (h0 : n ≠ 0x1000) (h1 : n ≠ 0x1008) (h2 : n ≠ 0x1010) : barRead s n = 0#64 := by
  unfold barRead
  split
  · exact absurd rfl h0
  · exact absurd rfl h1
  · exact absurd rfl h2
  · rfl

theorem registerWrite_winb {v : W64} (hp : s.pkg.powered = true) (hv : bfield v 38 0 = 0) :
    exec (.registerWrite 0x1008 v) s = .next { s with pkg := { s.pkg with winb := v } } := by
  rw [exec_registerWrite, execRegisterWrite, if_pos ⟨hp, rfl, hv⟩]

theorem registerWrite_other {n : Nat} (v : W64) (hn : n ≠ 0x1008) : exec (.registerWrite n v) s = .next s := by
  rw [exec_registerWrite, execRegisterWrite, if_neg (fun h => hn h.2.1)]

/-! ### Reset (R396) -/

theorem resetWrite_of_code : ∃ t, exec (.resetWrite 0x5253#64) s = .next t ∧
    t.pkg = { Package.reset with flash := s.pkg.flash } ∧ t.crew = Crew.none ∧ t.crews = [] ∧ t.ctxs = [] ∧ t.slots = [] ∧
    t.launches = [] ∧ t.clusters = [] ∧ t.vaults = [] ∧
    (∀ a, rawByte t a = if a < 2 ^ 52 ∧ paKind a = 3 then rawByte s a else 0#8) := by
  refine ⟨_, (exec_resetWrite _ s).trans (congrArg Host.Outcome.next (if_neg (not_not.mpr rfl))), rfl, rfl, rfl, rfl, rfl, rfl, rfl, rfl, fun a => ?_⟩
  refine (cget_filter_key 0#8 (fun a => decide (a < 2 ^ 52) && paKind a == 3) s.memsys.bytes a).trans ?_
  simp only [Bool.and_eq_true, decide_eq_true_eq, beq_iff_eq]
  rfl

theorem resetWrite_other {v : W64} (hv : v ≠ 0x5253#64) : exec (.resetWrite v) s = .next s := by
  rw [exec_resetWrite, execResetWrite, if_pos hv]

/-! ### Boot (R398, R399) -/

theorem measure_keeps (s : State) : (measure s).part = s.part ∧ (measure s).pkg.booted = s.pkg.booted := by
  unfold measure
  dsimp only
  split
  · exact ⟨rfl, rfl⟩
  · split <;> exact ⟨rfl, rfl⟩

theorem readFabric_keeps (s : State) : (readFabric s).part = s.part ∧ (readFabric s).pkg.booted = s.pkg.booted := by
  unfold readFabric
  split
  · exact ⟨rfl, rfl⟩
  · split <;> exact ⟨rfl, rfl⟩

/-- A boot that starts is under way, and touches no part. -/
theorem bootStart_keeps (s : State) : (bootStart s).pkg.booting = true ∧ (bootStart s).pkg.booted = s.pkg.booted ∧
    (bootStart s).part = s.part := by
  obtain ⟨hmp, hmb⟩ := measure_keeps s
  obtain ⟨hfp, hfb⟩ := readFabric_keeps (clearMemories (measure s))
  unfold bootStart
  dsimp only
  generalize readFabric (clearMemories (measure s)) = x at *
  have hplans : PowerOnly { x with pkg := { x.pkg with booting := true } }
      ((List.range 32).foldl bootPlan { x with pkg := { x.pkg with booting := true } }) :=
    foldl_powerOnly bootPlan_powerOnly _ _
  refine ⟨?_, ?_, hplans.part.trans (hfp.trans hmp)⟩
  · rw [hplans.pkg]
  · rw [hplans.pkg]
    exact hfb.trans hmb

theorem moduleBoot_starts (hp : s.pkg.powered = true) (hb : s.pkg.booted = false) (hg : s.pkg.booting = false) :
    ∃ t, exec .moduleBoot s = .next t ∧ t.pkg.booting = true ∧ t.pkg.booted = false ∧ t.part = s.part := by
  obtain ⟨hgoing, hbooted, hpart⟩ := bootStart_keeps s
  refine ⟨bootStart s, ?_, hgoing, hbooted.trans hb, hpart⟩
  rw [exec_moduleBoot, execModuleBoot, if_neg (by simp [hp, hb]), if_pos hg]

/-- A boot that ends sets READY, and touches no part. -/
theorem bootEnd_keeps (s : State) : (bootEnd s).pkg.booting = false ∧ (bootEnd s).pkg.booted = true ∧
    (bootEnd s).pkg.status.getLsbD 0 = true ∧ (bootEnd s).part = s.part := by
  have h := foldl_powerOnly (f := fun u v =>
      if (cget Vault.reset u.vaults v).sampled && decide (timeOf u < (cget Vault.reset u.vaults v).next) then u
      else freeSample v u) (fun u v => .ite (.refl u) (freeSample_powerOnly v u)) (List.range 32) s
  unfold bootEnd
  dsimp only
  generalize (List.range 32).foldl _ s = t at h ⊢
  exact ⟨rfl, rfl, by simp, h.part⟩

theorem moduleBoot_ends (hp : s.pkg.powered = true) (hb : s.pkg.booted = false) (hg : s.pkg.booting = true)
    (he : plansEnded s = true) : ∃ t, exec .moduleBoot s = .next t ∧ t.pkg.booting = false ∧ t.pkg.booted = true ∧
      t.pkg.status.getLsbD 0 = true ∧ t.part = s.part := by
  refine ⟨bootEnd s, ?_, bootEnd_keeps s⟩
  rw [exec_moduleBoot, execModuleBoot, if_neg (by simp [hp, hb]), if_neg (by simp [hg]), if_pos he]

theorem moduleBoot_waits (hp : s.pkg.powered = true) (hb : s.pkg.booted = false) (hg : s.pkg.booting = true)
    (he : plansEnded s = false) : exec .moduleBoot s = .next s := by
  rw [exec_moduleBoot, execModuleBoot, if_neg (by simp [hp, hb]), if_neg (by simp [hg]), if_neg (by simp [he])]

/-! ### The window of the host (R397) -/

theorem hostMemoryRead_of_inWindow {o n : Nat} (h : inWindow s o n = true) : ∃ t, exec (.hostMemoryRead o n) s = .next t ∧
    t.pkg.read = memRead s 0 (s.pkg.winb.toNat + o) n ∧ t.memsys = s.memsys :=
  ⟨_, (exec_hostMemoryRead o n s).trans (congrArg Host.Outcome.next (if_neg (ne_false_of_eq_true h))), rfl, rfl⟩

theorem hostMemoryWrite_of_inWindow {o : Nat} {bs : List Byte} (h : inWindow s o bs.length = true) :
    let r := homeWrites noCtx 0 (s.pkg.winb.toNat + o) bs s
    ∃ t, exec (.hostMemoryWrite o bs) s = .next t ∧ t.memsys = r.1.memsys ∧ s.pkg.hostCt ≤ t.pkg.hostCt ∧
      r.2 ≤ t.pkg.hostCt ∧ t.part = s.part := by
  intro r
  refine ⟨_, (exec_hostMemoryWrite o bs s).trans (congrArg Host.Outcome.next (if_neg (ne_false_of_eq_true h))), rfl, ?_,
    Nat.le_max_right _ _, ?_⟩
  · refine le_trans (le_of_eq ?_) (Nat.le_max_left _ _)
    rw [homeWrites_pkg]
  · have h := congrArg State.part (homeWrites_memOnly noCtx 0 (s.pkg.winb.toNat + o) bs s)
    exact h

/-! ### The obligation -/

/-- Settles O56: each clause is the lemma of its step. -/
theorem hostSteps : Obligations.HostSteps := by
  intro s
  exact ⟨fun _ => notify_of_mapped, notify_admin, notify_unbooted, fun _ => admqWrite_of_aligned,
    ⟨rfl, rfl, rfl, fun _ => barRead_other⟩, fun _ => registerWrite_winb, fun _ v => registerWrite_other v, resetWrite_of_code,
    fun _ => resetWrite_other, fun hp hb => ⟨moduleBoot_starts hp hb, moduleBoot_ends hp hb, moduleBoot_waits hp hb⟩,
    fun _ _ => hostMemoryRead_of_inWindow, fun _ _ => hostMemoryWrite_of_inWindow⟩

end Sys2Proof.Machine
end

section
/-! PROOFS of O57: what arrives over the fabric and what the ports send. The slew of SOFS is arithmetic on the gap to the
sender's STIME; the sync flits are one fold over the ports, each of which takes its own flit. -/

set_option Elab.async false

namespace Sys2Proof.Machine

variable {s : State} {p : Nat}

/-! ### Answers (R432, R434) -/

section
variable {a : Access} (ha : s.net.find? (fun x => x.id == a.id && x.ans.isNone) = some a) (hl : remoteLine a.line = true)
include ha hl

theorem remoteAnswer_of_open (z : PeerAnswer) (hp : a.port ≠ 16) (ho : inOrder s a = true) :
    exec (.remoteAnswer a.id z) s = .next (if z.refused then failAccess a s
      else updAccess a.id (fun x => { x with ans := some (convert a z s) }) s) := by
  rw [exec_remoteAnswer, execRemoteAnswer, ha]
  dsimp only
  rw [if_neg (by simp [hl, hp, ho])]

theorem remoteAccessTimeout_of_late (ht : a.sent + 200000 ≤ timeOf s) :
    exec (.remoteAccessTimeout a.id) s = .next (failAccess a s) := by
  rw [exec_remoteAccessTimeout, execRemoteAccessTimeout, ha]
  dsimp only
  rw [if_pos ⟨hl, ht⟩]
end

/-! ### Accesses of peers (R430, R432) -/

section
variable {x : PeerAccess} (hu : portUp s p = true)
include hu

theorem inboundAccess_of_shut (hx : inboundFor x s = none) :
    exec (.inboundAccess p x) s = .next (sendFlit p (answerFlit true [] 0 0 s) s) := by
  rw [exec_inboundAccess, execInboundAccess]
  dsimp only
  rw [if_neg (by simp [hu]), hx]

/-- An access that a window lets in, to lines that no copy owns, waits for a lease alone, and only as an atomic. -/
theorem inboundAccess_of_window {k c : Nat} (hx : inboundFor x s = some (k, c)) (ho : ∀ l, (homeLine s l).owners = []) :
    exec (.inboundAccess p x) s = .next (if (match x.op with
        | .atomic .. => true
        | _ => false) && leasedNow s (x.pa / 128) then s else peerPerform p k c x s) := by
  have hfree : ∀ l : List Nat, unowned s l = true := fun l => List.all_eq_true.mpr (fun m _ => by rw [ho m]; rfl)
  rw [exec_inboundAccess, execInboundAccess]
  dsimp only
  rw [if_neg (by simp [hu]), hx]
  dsimp only
  rw [hfree, Bool.true_and]
  cases x.op <;> cases leasedNow s (x.pa / 128) <;> rfl

theorem inboundAccess_of_unleased {k c : Nat} (hx : inboundFor x s = some (k, c)) (ho : ∀ l, (homeLine s l).owners = [])
    (hl : ∀ fn wide v e, x.op = .atomic fn wide v e → leasedNow s (x.pa / 128) = false) :
    exec (.inboundAccess p x) s = .next (peerPerform p k c x s) := by
  rw [inboundAccess_of_window hu hx ho, if_neg]
  cases hop : x.op with
  | read => simp
  | write => simp
  | atomic fn wide v e => simp [hl fn wide v e hop]

theorem inboundAccess_of_leased {k c fn : Nat} {wide : Bool} {v e : W64} (hx : inboundFor x s = some (k, c))
    (ho : ∀ l, (homeLine s l).owners = []) (hop : x.op = .atomic fn wide v e) (hl : leasedNow s (x.pa / 128) = true) :
    exec (.inboundAccess p x) s = .next s := by
  rw [inboundAccess_of_window hu hx ho, hop, hl]
  rfl

/-! ### The timebase (R433) -/

/-- SOFS after a sync flit: a change of at most the gap, at a rate of at most 50 ppm, begins now. -/
def Slewed (gap : Int) (s t : State) : Prop :=
  t.fabric.sofs = sofsOf s ∧ t.fabric.slewed = timeOf s ∧ t.fabric.rate ≤ 50 ∧ t.fabric.aim.natAbs ≤ gap.natAbs ∧
    (t.fabric.aim < 0 → gap < 0) ∧ (0 < t.fabric.aim → 0 ≤ gap)

theorem syncFlitReceive_slews (v : W64) : ∃ t, exec (.syncFlitReceive p v) s = .next t ∧
    (getPort t p).lastSync = timeOf s ∧ t.clock = s.clock ∧ t.memsys = s.memsys ∧ Slewed (v.toInt - stimeOf s) s t := by
  refine ⟨_, (exec_syncFlitReceive p v s).trans (congrArg Host.Outcome.next (if_neg (by simp [hu]))), ?_, rfl, rfl,
    rfl, rfl, ?_, ?_, ?_, ?_⟩
  · have h := getPort_setPort p p { getPort s p with lastSync := timeOf s } { s with free := s.free + 1 }
    rw [if_pos rfl] at h
    exact congrArg Port.lastSync h
  · exact Nat.le_of_lt_succ (Nat.mod_lt _ (by decide))
  all_goals
    have hstep : Config.freeNat 16 s.free % ((v.toInt - stimeOf s).natAbs + 1) < (v.toInt - stimeOf s).natAbs + 1 :=
      Nat.mod_lt _ (Nat.succ_pos _)
    dsimp only
    split <;> omega
end

/-- What has been slewed so far, with its sign. -/
theorem sofsOf_eq (u : State) : (sofsOf u - u.fabric.sofs).natAbs = slewedBy u := by
  unfold sofsOf
  split <;> omega

theorem slewedBy_le (u : State) : slewedBy u ≤ u.fabric.aim.natAbs ∧
    slewedBy u ≤ (timeOf u - u.fabric.slewed) * u.fabric.rate / 1000000 := ⟨Nat.min_le_left _ _, Nat.min_le_right _ _⟩

/-- SOFS moves by at most 50 ppm of the time that has passed, and by no more than the change that is under way. -/
theorem Slewed.moves {gap : Int} {t u : State} (h : Slewed gap s t) (hf : u.fabric = t.fabric) :
    (sofsOf u - sofsOf s).natAbs ≤ (timeOf u - timeOf s) * 50 / 1000000 ∧
      (sofsOf u - sofsOf s).natAbs ≤ t.fabric.aim.natAbs := by
  obtain ⟨hs, hw, hr, -, -, -⟩ := h
  obtain ⟨h1, h2⟩ := slewedBy_le u
  rw [hf] at h1 h2
  rw [hw] at h2
  rw [← hs, ← hf, sofsOf_eq u, hf]
  exact ⟨h2.trans (Nat.div_le_div_right (Nat.mul_le_mul_left _ hr)), h1⟩

/-- At the moment of the sync flit SOFS stands as it did. -/
theorem Slewed.sofs_now {gap : Int} {t : State} (h : Slewed gap s t) (ht : t.clock = s.clock) : sofsOf t = sofsOf s := by
  have htime : timeOf t = timeOf s := by rw [timeOf, ht, timeOf]
  have hmoves := (h.moves rfl).1
  rw [htime, Nat.sub_self, Nat.zero_mul, Nat.zero_div] at hmoves
  omega

/-- The change that is under way leads toward the sender's STIME. -/
theorem Slewed.nearer {v : W64} {t : State} (h : Slewed (v.toInt - stimeOf s) s t) (ht : t.clock = s.clock) :
    (v.toInt - (stimeOf t + t.fabric.aim)).natAbs ≤ (v.toInt - stimeOf s).natAbs := by
  have hstime : stimeOf t = stimeOf s := by rw [stimeOf, h.sofs_now ht, timeOf, ht, stimeOf, timeOf]
  obtain ⟨-, -, -, hle, hneg, hpos⟩ := h
  rw [hstime]
  omega

/-! ### Ports without a sync flit, quotes and caps (R433, R436, R437) -/

section
variable (hu : portUp s p = true)
include hu

theorem portSyncTimeout_of_late (hl : (getPort s p).lastSync + 10000000 ≤ timeOf s) :
    ∃ t, exec (.portSyncTimeout p) s = .next t ∧ (getPort t p).up = false := by
  have hlate : ¬(portUp s p = false ∨ timeOf s < (getPort s p).lastSync + 10000000) := by simp [hu, hl]
  refine ⟨_, (exec_portSyncTimeout p s).trans (congrArg Host.Outcome.next (if_neg hlate)), ?_⟩
  rw [getPort_setPort, if_pos rfl]

/-- Of the requests held, as many are answered first as the device chooses. -/
theorem quoteRequestFlit_of_up (nonce : List Byte) (hh : s.pkg.halted = false) :
    let t := (List.range (Config.freeNat 17 s.free % 5)).foldl (fun u _ => answerQuote p u) { s with free := s.free + 1 }
    exec (.quoteRequestFlit p nonce) s = .next (if 4 ≤ (getPort t p).quotes.length then sendFlit p [1#8] t
      else setPort p { getPort t p with quotes := (getPort t p).quotes ++ [sliceOf 0#8 nonce 0 32] } t) := by
  rw [exec_quoteRequestFlit, execQuoteRequestFlit, if_neg (by simp [hu, hh])]

theorem powerCapFlit_of_source (m : CapMessage) (hc : s.fabric.capsrc.testBit p = true) (hh : s.pkg.halted = false) :
    exec (.powerCapFlit p m) s = .next (acceptCap m s) := by
  rw [exec_powerCapFlit, execPowerCapFlit, if_pos ⟨hu, hc, hh⟩]
end

theorem answerQuote_of_held {nonce : List Byte} {rest : List (List Byte)} (h : (getPort s p).quotes = nonce :: rest) :
    getPort (answerQuote p s) p = { getPort s p with
      quotes := rest,
      sent := (getPort s p).sent ++ (List.range 69).map (fun i => sliceOf 0#8 (quoteBytes nonce s) (256 * i) 256) } := by
  unfold answerQuote
  simp only [h]
  rw [getPort_setPort, if_pos rfl]

/-! ### Sync flits (R433) -/

/-- The ports of a list that are up each send a flit. -/
def sendUp (bs : List Byte) (l : List Nat) (s : State) : State :=
  l.foldl (fun t p => if portUp t p then sendFlit p bs t else t) s

theorem portUp_sendFlit (p q : Nat) (bs : List Byte) (s : State) : portUp (sendFlit p bs s) q = portUp s q := by
  unfold sendFlit
  split
  · rfl
  · rw [portUp, getPort_setPort]
    split
    next h =>
      subst h
      rfl
    next => rfl

theorem getPort_sendFlit {p : Nat} (q : Nat) (bs : List Byte) (s : State) (hp : p < 16) : getPort (sendFlit p bs s) q =
    if q = p then { getPort s p with sent := (getPort s p).sent ++ [sliceOf 0#8 bs 0 256] } else getPort s q := by
  rw [sendFlit, if_neg (Nat.not_le.mpr hp), getPort_setPort]

/-- Each port of the list that is up sends its flit once; no other port changes. -/
theorem getPort_sendUp (bs : List Byte) (q : Nat) (l : List Nat) (s : State) (hl : ∀ p ∈ l, p < 16) (hn : l.Nodup) :
    getPort (sendUp bs l s) q = if q ∈ l ∧ portUp s q = true then
      { getPort s q with sent := (getPort s q).sent ++ [sliceOf 0#8 bs 0 256] } else getPort s q := by
  induction l generalizing s with
  | nil => simp [sendUp]
  | cons p l ih =>
    obtain ⟨hnot, hn⟩ := List.nodup_cons.mp hn
    have hlt := hl p List.mem_cons_self
    have hrest := ih (if portUp s p then sendFlit p bs s else s) (fun r hr => hl r (List.mem_cons_of_mem _ hr)) hn
    have hup : portUp (if portUp s p then sendFlit p bs s else s) q = portUp s q := by
      split
      · exact portUp_sendFlit ..
      · rfl
    rw [hup] at hrest
    refine hrest.trans ?_
    by_cases hq : q = p
    · subst hq
      cases portUp s q <;> simp [hnot, getPort_sendFlit _ _ _ hlt]
    · have hsame : getPort (if portUp s p then sendFlit p bs s else s) q = getPort s q := by
        split
        · rw [getPort_sendFlit _ _ _ hlt, if_neg hq]
        · rfl
      simp [hsame, hq]

theorem sendFlit_nextSync (p : Nat) (bs : List Byte) (s : State) : (sendFlit p bs s).fabric.nextSync = s.fabric.nextSync := by
  unfold sendFlit
  split <;> rfl

theorem sendUp_keeps (bs : List Byte) (l : List Nat) (s : State) :
    (sendUp bs l s).fabric.nextSync = s.fabric.nextSync ∧ (sendUp bs l s).memsys = s.memsys := by
  refine foldl_keeps (P := fun t : State => t.fabric.nextSync = s.fabric.nextSync ∧ t.memsys = s.memsys) ?_ l s ⟨rfl, rfl⟩
  rintro t q ⟨hn, hm⟩
  split
  · exact ⟨(sendFlit_nextSync ..).trans hn, (sendFlit_memsys ..).trans hm⟩
  · exact ⟨hn, hm⟩

theorem syncFlitSend_of_due (h : s.fabric.nextSync ≤ timeOf s) : ∃ t, exec .syncFlitSend s = .next t ∧
    t.fabric.nextSync = timeOf s + 1000000 ∧
    (∀ q, q < 16 → portUp s q = true →
      (getPort t q).sent = (getPort s q).sent ++ [sliceOf 0#8 (bytes64 (w64 (stimeOf s))) 0 256]) ∧
    (∀ q, portUp s q = false → getPort t q = getPort s q) ∧ t.memsys = s.memsys := by
  have hports := fun q => getPort_sendUp (bytes64 (w64 (stimeOf s))) q (List.range 16)
    { s with fabric := { s.fabric with nextSync := timeOf s + 1000000 } } (fun _ => List.mem_range.mp) List.nodup_range
  obtain ⟨hsync, hmem⟩ := sendUp_keeps (bytes64 (w64 (stimeOf s))) (List.range 16)
    { s with fabric := { s.fabric with nextSync := timeOf s + 1000000 } }
  refine ⟨_, (exec_syncFlitSend s).trans (congrArg Host.Outcome.next (if_neg (Nat.not_lt.mpr h))), hsync, fun q hq hu => ?_,
    fun q hu => ?_, hmem⟩
  · exact (congrArg Port.sent (hports q)).trans (congrArg Port.sent (if_pos ⟨List.mem_range.mpr hq, hu⟩))
  · exact (hports q).trans (if_neg (fun hup => Bool.false_ne_true (hu.symm.trans hup.2)))

/-! ### The obligation -/

/-- Settles O57: each clause is the lemma of its step. -/
theorem fabricSteps : Obligations.FabricSteps := by
  intro s p
  refine ⟨rfl, fun a ha hl => ⟨fun z hp ho hz => ?_, fun z hp ho hz => ?_, remoteAccessTimeout_of_late ha hl⟩, fun hu =>
    ⟨fun x => inboundAccess_of_shut hu, fun x k c hx ho => ⟨inboundAccess_of_unleased hu hx ho,
        fun fn wide v e => inboundAccess_of_leased hu hx ho⟩, fun v => ?_, portSyncTimeout_of_late hu,
      fun nonce hh hq => ⟨Config.freeNat 17 s.free % 5, Nat.mod_lt _ (by decide), ?_⟩,
      fun nonce rest h => by rw [answerQuote_of_held h]; exact ⟨rfl, rfl⟩, fun m => powerCapFlit_of_source hu m⟩,
    syncFlitSend_of_due⟩
  · rw [remoteAnswer_of_open ha hl z hp ho, hz]
    rfl
  · rw [remoteAnswer_of_open ha hl z hp ho, hz]
    rfl
  · obtain ⟨t, he, hsync, hclock, hmem, hslew⟩ := syncFlitReceive_slews hu v
    exact ⟨t, he, hsync, hslew.sofs_now hclock, hslew.nearer hclock, hmem, fun u hf => hslew.moves hf⟩
  · rw [quoteRequestFlit_of_up hu nonce hh]
    exact ⟨fun hfull => by rw [if_pos hfull], fun hroom => by rw [if_neg (Nat.not_le.mpr hroom)]⟩

end Sys2Proof.Machine
end

section
/-! PROOFS of O41: TRACE, CONTEND and the commits. Naming an entry touches memory, accounts and launches alone (`nameEntry_frame`),
so what the unit read of its part and wave before it stands; the checks of the addresses then leave one place for each lane. -/

set_option Elab.async false

namespace Sys2Proof.Machine

variable {r : Run} {a b d : BitVec 7} {s t : State} {e : List Byte}

/-! ### Naming an entry (R302, R384) -/

/-- Naming an entry touches the homes of its lines, the accounts and the launch. -/
theorem nameEntry_frame {lid : Nat} (h : nameEntry lid e s = .ok t) :
    t = { s with ctxs := t.ctxs, memsys := t.memsys, launches := t.launches } := by
  unfold nameEntry at h
  dsimp only at h
  split at h
  next => cases h
  next l _ =>
    split at h
    next =>
      cases h
      rfl
    next =>
      obtain ⟨ps, -, hps⟩ : ∃ ps, stackWalk s l.ctx l.stkPages (entryStack e).2 (entryStack e).1
          ((entryStack e).1 + (entryStack e).2) = .ok ps ∧ updLaunch (bring l.ctx (entryLines s lid e) s) lid
          (fun x => { x with stkPages := x.stkPages ++ ps }) = t := by
        revert h
        cases stackWalk s l.ctx l.stkPages (entryStack e).2 (entryStack e).1 ((entryStack e).1 + (entryStack e).2) with
        | error x => exact fun h => nomatch h
        | ok ps => exact fun h => ⟨ps, rfl, Except.ok.inj h⟩
      rw [← hps]
      rfl

/-- A unit whose entry can be named goes on with it. -/
theorem withEntry_of_named {k : Nat} {word : W32} (ho : entryOpen s s.crew.launch k = true)
    (hc : contEntry s s.crew.launch k = .ok e) (hn : nameEntry s.crew.launch e s = .ok t) (f : List Byte → State → State) :
    withEntry word k r f s = f e t := by
  rw [withEntry, if_neg (ne_false_of_eq_true ho), hc]
  dsimp only
  rw [hn]

/-! ### Releases inside a unit (R211) -/

/-- A release that finds nothing to do, in a state in which no store fault of the part is to be taken. -/
theorem releaseThen_of_faultless {mask scope : Nat} (hf : ¬(s.part.fault.isSome = true ∧ s.part.state ≠ .trapped))
    (hs : ownStores s = []) (hrel : s.part.relDone = false) (hc : releaseClear mask scope s = true) (f : State → State) :
    releaseThen r mask scope f s = f s := by
  simp only [releaseClear, Bool.and_eq_true, List.isEmpty_iff] at hc
  obtain ⟨hlines, hreleased⟩ := hc
  simp only [releaseThen, hrel, Bool.false_eq_true, if_false, drainBy, reportAll_of_accepted hs, if_neg hf, hs,
    List.isEmpty_nil, if_true, hlines, List.map_nil, roomFor, List.all_nil, Bool.not_true, writeDowns, hreleased]

/-- The state with its entry named takes the release as the unit's own state would. -/
theorem releaseThen_of_named {o : Op} {lid : Nat} (hr : ready o s = true) (hs : ownStores s = []) (hrel : s.part.relDone = false)
    (hn : nameEntry lid e s = .ok t) (hc : releaseClear 0xFFFF 4 t = true) (f : State → State) :
    releaseThen r 0xFFFF 4 f t = f t := by
  have hframe := nameEntry_frame hn
  have hfault := fault_of_ready hr
  refine releaseThen_of_faultless ?_ ?_ ?_ hc f
  · rw [hframe]
    exact hfault
  · rw [hframe]
    exact hs
  · rw [hframe]
    exact hrel

/-! ### The places of the records (R299) -/

/-- An access to the global window that fails no check has a place. -/
theorem place_of_not_failing {m : Form} {c : LaneAcc} {accs : List LaneAcc} {va : Nat} {st : Bool} (hc : c ∈ accs)
    (ht : c.tgt = .glob va st) (hf : failing m accs t = []) : ∃ p, placeOf m c t = .ok (some p) := by
  have hnone := List.filterMap_eq_nil_iff.mp hf c hc
  have hplace : placeOf m c t = (resolveG t va m.size st m.rd m.wr).map some := by rw [placeOf, ht]
  cases hp : resolveG t va m.size st m.rd m.wr with
  | error x =>
    rw [hplace, hp] at hnone
    cases hnone
  | ok p => exact ⟨p, by rw [hplace, hp]; rfl⟩

/-- The accesses of TRACE to the records at its addresses. -/
def recordAccs (addrs : List (Nat × W64)) : List LaneAcc :=
  addrs.map (fun x => ({ lane := x.1, addr := x.2, tgt := .glob x.2.toNat false } : LaneAcc))

/-- The lanes with the places of their records. -/
def recordPlaces (m : Form) (accs : List LaneAcc) (s : State) : List (Nat × W64 × Place) :=
  accs.filterMap (fun c => match placeOf m c s with
    | .ok (some p) => some (c.lane, c.addr, p)
    | _ => none)

/-- Every lane has its place, in the order of the lanes. -/
theorem recordPlaces_lanes {m : Form} (addrs : List (Nat × W64)) (hf : failing m (recordAccs addrs) t = []) :
    (recordPlaces m (recordAccs addrs) t).map (fun x => (x.1, x.2.1)) = addrs := by
  induction addrs with
  | nil => rfl
  | cons x addrs ih =>
    obtain ⟨p, hp⟩ := place_of_not_failing (c := { lane := x.1, addr := x.2, tgt := .glob x.2.toNat false }) (by simp [recordAccs])
      rfl hf
    have hrest : failing m (recordAccs addrs) t = [] :=
      List.filterMap_eq_nil_iff.mpr (fun c hc => List.filterMap_eq_nil_iff.mp hf c (List.mem_cons_of_mem _ hc))
    have hcons : recordPlaces m (recordAccs (x :: addrs)) t = (x.1, x.2, p) :: recordPlaces m (recordAccs addrs) t := by
      simp [recordPlaces, recordAccs, hp]
    rw [hcons, List.map_cons, ih hrest]

theorem mem_recordPlaces {m : Form} {accs : List LaneAcc} {x : Nat × W64 × Place} (h : x ∈ recordPlaces m accs t) :
    ∃ c ∈ accs, placeOf m c t = .ok (some x.2.2) := by
  obtain ⟨c, hc, hx⟩ := List.mem_filterMap.mp h
  split at hx
  next p hp =>
    cases hx
    exact ⟨c, hc, hp⟩
  next => cases hx

/-- No copy owns a record when none owns the line of a place. -/
theorem unowned_recordPlaces {m : Form} {accs : List LaneAcc}
    (h : ∀ c ∈ accs, ∀ p, placeOf m c t = .ok (some p) → unowned t [p.pa / 128] = true) :
    unowned t ((recordPlaces m accs t).map (fun x => x.2.2.pa / 128)) = true := by
  refine List.all_eq_true.mpr (fun l hl => ?_)
  obtain ⟨x, hx, rfl⟩ := List.mem_map.mp hl
  obtain ⟨c, hc, hp⟩ := mem_recordPlaces hx
  exact List.all_eq_true.mp (h c hc _ hp) _ (List.mem_singleton_self _)

/-- Addresses that are aligned and lie in the window, of accesses that do not fail, go on with their places. -/
theorem rayPlaces_of_clear {addrs : List (Nat × W64)} (ha : ∀ x ∈ addrs, x.2.toNat % 128 = 0 ∧ x.2.toNat < 2 ^ 56)
    (hf : failing { size := 128, scalar := false, rd := true, wr := true } (recordAccs addrs) t = [])
    (f : List (Nat × W64 × Place) → State → State) :
    rayPlaces r addrs f t =
      f (recordPlaces { size := 128, scalar := false, rd := true, wr := true } (recordAccs addrs) t) t := by
  have halign : addrs.filter (fun x => x.2.toNat % 128 != 0) = [] :=
    List.filter_eq_nil_iff.mpr (fun x hx => by simp [(ha x hx).1])
  have hin : addrs.find? (fun x => decide (2 ^ 56 ≤ x.2.toNat)) = none :=
    List.find?_eq_none.mpr (fun x hx => by simpa using (ha x hx).2)
  unfold rayPlaces
  rw [halign]
  dsimp only
  rw [hin]
  dsimp only
  rw [← recordAccs, hf]
  rfl

/-! ### TRACE and CONTEND (R299, R320) -/

theorem rayAddrs_of_named {lid : Nat} (hn : nameEntry lid e s = .ok t) : rayAddrs a b t = rayAddrs a b s := by
  rw [nameEntry_frame hn]
  rfl

theorem exec_trace_of_ready {k : Nat} (hs : ownStores s = []) (hrel : s.part.relDone = false) (hk : k = (widthHint r).getD 0)
    (ho : entryOpen s s.crew.launch k = true) (hc : contEntry s s.crew.launch k = .ok e)
    (hn : nameEntry s.crew.launch e s = .ok t) (hcl : releaseClear 0xFFFF 4 t = true)
    (hr : ready { opRay 0 r d a b (s.part.state != .trapped && (s.crew.kind != .anyhit && s.crew.kind != .intersect))
      [srcV d, srcS a, srcV b] with width := some (0, 15) } s = true)
    (ha : ∀ x ∈ rayAddrs a b s, x.2.toNat % 128 = 0 ∧ x.2.toNat < 2 ^ 56)
    (hf : failing { size := 128, scalar := false, rd := true, wr := true } (recordAccs (rayAddrs a b s)) t = [])
    (hheld : raysHeld t (clusterOf s.crew.core) + (activeLanes s).length ≤ 1024)
    (hu : ∀ c ∈ recordAccs (rayAddrs a b s), ∀ p,
      placeOf { size := 128, scalar := false, rd := true, wr := true } c t = .ok (some p) → unowned t [p.pa / 128] = true) :
    exec (.trace r d a b) s = .next (leave r
      ((recordPlaces { size := 128, scalar := false, rd := true, wr := true } (recordAccs (rayAddrs a b s)) t).foldl
        (fun w x => takeRay k e (rdV t d.toNat x.1) x.2.1 x.2.2 w) t)) := by
  subst hk
  have hlen := congrArg List.length (recordPlaces_lanes (rayAddrs a b s) hf)
  simp only [rayAddrs, List.length_map] at hlen
  have hcore : t.crew.core = s.crew.core := by rw [nameEntry_frame hn]
  refine (exec_trace r d a b s).trans ((unit_of_ready hr _).trans (congrArg Host.Outcome.next
    ((drainBy_of_accepted hr hs ..).trans ((withEntry_of_named ho hc hn _).trans ?_))))
  rw [rayAddrs_of_named hn, rayPlaces_of_clear ha hf, if_neg, releaseThen_of_named hr hs hrel hn hcl]
  rintro (hfull | howned)
  · rw [hcore] at hfull
    simp only [rayAddrs] at hfull
    omega
  · exact absurd (unowned_recordPlaces hu) (ne_true_of_eq_false howned)

theorem exec_contend_of_ready {k : Nat} (hs : ownStores s = []) (hrel : s.part.relDone = false) (hk : k = (widthHint r).getD 0)
    (ho : entryOpen s s.crew.launch k = true) (hc : contEntry s s.crew.launch k = .ok e)
    (hn : nameEntry s.crew.launch e s = .ok t) (hcl : releaseClear 0xFFFF 4 t = true)
    (hr : ready { opRay 4 r d 0#7 0#7 (s.part.state != .trapped) [srcV d] with width := some (0, 15) } s = true) :
    exec (.contend r d) s = .next (leave r
      ((activeLanes t).foldl (fun w l => handLane k e (rdV t d.toNat l) w) t)) := by
  subst hk
  refine (exec_contend r d s).trans ((unit_of_ready hr _).trans (congrArg Host.Outcome.next
    ((drainBy_of_accepted hr hs ..).trans ((withEntry_of_named ho hc hn _).trans ?_))))
  exact releaseThen_of_named hr hs hrel hn hcl _

/-- A commit follows at once when the stores of the part are accepted. -/
theorem commits_of_ready {i : Instr} {o : Op} {f : State → State} (hx : exec i s = unit o (drained r f) s) (hr : ready o s = true)
    (hs : ownStores s = []) : exec i s = .next (f s) :=
  hx.trans ((unit_of_ready hr _).trans (congrArg Host.Outcome.next (drainBy_of_accepted hr hs ..)))

/-! ### The obligation -/

/-- Settles O41: the units that hand lanes on by their lemmas; a commit follows once the stores are accepted. -/
theorem rayUnits : Obligations.RayUnits := by
  intro r d a b s hs hrel
  refine ⟨fun e t ho hc hn hcl => ⟨fun hr ha hf hheld hu => ⟨recordPlaces_lanes _ hf,
    exec_trace_of_ready hs hrel rfl ho hc hn hcl hr ha hf hheld hu⟩, exec_contend_of_ready hs hrel rfl ho hc hn hcl⟩,
    fun hr => commits_of_ready (exec_ahacc r s) hr hs,
    fun hr => commits_of_ready (exec_ahrej r s) hr hs,
    fun hr => commits_of_ready (exec_ishit r a b s) hr hs⟩

end Sys2Proof.Machine
end

section
/-! PROOFS of O42: CONTGET, HITGET and LNTINV. Reads at hand are handed to the unit at once, and dropping them commutes with the
write of the result. -/

set_option Elab.async false

namespace Sys2Proof.Machine

variable {r : Run} {a b d k : BitVec 7} {s : State}

/-! ### The end of a unit that has read (R184) -/

/-- The reads of a part are dropped alike before and after a write of latency 0. -/
theorem dropReads_wrV (n : Nat) (ls : List Nat) (f : Nat → W32) (s : State) :
    dropReads (wrV 0 n ls f s) = wrV 0 n ls f (dropReads s) := by
  rw [wrV_zero, wrV_zero]
  rfl

/-- A unit that has read and writes the lanes of a vector register with latency 0. -/
theorem doneReads_wrV (r : Run) (n : Nat) (f : Nat → W32) (s : State) :
    VectorResult r 0 n (activeLanes s) f (dropReads s) (doneReads r (wrV 0 n (activeLanes s) f s)) := by
  rw [doneReads, dropReads_wrV]
  exact wrV_done r 0 n _ f (dropReads s) (fun _ => activeLanes_lt)

/-! ### LNTINV (R314) -/

/-- An LNTINV whose atomic has been answered, with no failure and no poison, completes; GEN wraps from 255. -/
theorem exec_lntinv_of_answered {addr : W64} {q : Ready} {x : Access} {z : Answer}
    (haddr : addr = word64 (launchBytes s s.crew.launch) 3 + BitVec.ofNat 64 (64 * bfield (sreg s a) 11 0 + 0x1C))
    (hr : ready (opRay 6 r 0#7 a 0#7 true [srcS a]) s = true)
    (hc : accessClear { size := 1, scalar := true, rd := true, wr := true } [(scalarLane s, addr)] s = true)
    (hf : failing { size := 1, scalar := true, rd := true, wr := true }
      (accsOf { size := 1, scalar := true, rd := true, wr := true } [(scalarLane s, addr)] s) s = [])
    (hq : readyOf { size := 1, scalar := true, rd := true, wr := true } r
      (accsOf { size := 1, scalar := true, rd := true, wr := true } [(scalarLane s, addr)] s) s = [q])
    (hx : (ownReads s).head? = some x) (hback : x.back = true) (hz : x.ans = some z) (hok : z.failed = false)
    (hclean : z.poison = 0) :
    exec (.lntinv r a) s = .next (doneReads r
      (if (cget 0#64 z.bytes (q.place.pa % 128)).setWidth 8 = 255#8 then
        lanternDrop (fun e => e.key.take 2 == [s.crew.ctx, bfield (sreg s a) 11 0]) s else s)) := by
  subst haddr
  refine exec_of_ready (exec_lntinv r a) hr ((checked_of_clear hc _).trans ?_)
  simp only [hf, hq, hx, hback, hz, hok, hclean, lineMarked_zero, Bool.not_true, Bool.false_eq_true, if_false,
    Option.map_some, Option.getD_some]

/-! ### The obligation -/

/-- Settles O42: a HITGET takes each of its reads at once, and ends with the write of its values. -/
theorem rayQueries : Obligations.RayQueries := by
  intro r d a b k s
  refine ⟨fun hr => ⟨_, exec_of_ready (exec_contget r d k) hr rfl, wrV_done r 0 d.toNat _ _ s (fun _ => activeLanes_lt)⟩,
    fun hr hv => ⟨fun h1 h2 h7 => ⟨_, exec_of_ready (exec_hitget r d a b) hr ((phaseReadBy_of_ready hv _).trans (if_neg ?_)),
        doneReads_wrV ..⟩,
      fun hn hdesc href => ⟨_, exec_of_ready (exec_hitget r d a b) hr ((phaseReadBy_of_ready hv _).trans ((if_pos hn).trans
        ((phaseReadBy_of_ready hdesc _).trans (phaseReadBy_of_ready href _)))), doneReads_wrV ..⟩⟩,
    fun hr hc hf q x z => exec_lntinv_of_answered rfl hr hc hf⟩
  rintro (hn | hn | hn)
  · exact h1 hn
  · exact h2 hn
  · exact h7 hn

end Sys2Proof.Machine
end

section
/-! PROOFS of O46: LNCH, EVSET, EVCLR, EMBER and GRIST. With its release done a LNCH tests its queue and header in turn, and
each test that fails returns 2; a change of the event vector acts on one word, which `applyChange_bitChange` says. -/

set_option Elab.async false

namespace Sys2Proof.Machine

variable {r : Run} {a b d k : BitVec 7} {s : State}

/-! ### Changes of the event vector (R362) -/

/-- What one change leaves in a word of the event vector: the bits of its own word set or cleared. -/
theorem bitChange_word (rank key ctx k : Nat) (on : Bool) (m x : W64) (j : Nat) :
    x &&& ~~~ (cget 0#64 (bitChange rank key ctx k on m).clear j) ||| cget 0#64 (bitChange rank key ctx k on m).set j =
      if j = k then (if on then x ||| m else x &&& ~~~ m) else x := by
  have hone : cget 0#64 (cset 0#64 [] k m) j = if j = k then m else 0#64 := by
    rw [cget_cset]
    rfl
  have hnone : cget 0#64 [] j = 0#64 := rfl
  have hall (y : W64) : y &&& ~~~0#64 = y := BitVec.and_allOnes
  cases on with
  | true =>
    simp only [bitChange, if_true, hone, hnone, hall]
    split
    · rfl
    · exact BitVec.or_zero
  | false =>
    simp only [bitChange, Bool.false_eq_true, if_false, hone, hnone, BitVec.or_zero]
    split
    · rfl
    · exact hall x

/-- A change of the bits of one word acts on that word, and tests the head launches of its context. -/
theorem applyChange_bitChange (key ctx k : Nat) (on : Bool) (m : W64) (s : State) :
    applyChange (bitChange 1 key ctx k on m) s = testHeads ctx (updCtx s ctx (fun c => { c with
      events := (List.range 4).foldl (fun e j => cset 0#64 e j
        (if j = k then (if on then cget 0#64 e j ||| m else cget 0#64 e j &&& ~~~ m) else cget 0#64 e j)) c.events })) := by
  unfold applyChange
  simp only [bitChange_word]
  rfl

/-- A unit with stores accepted and its release done goes on at once. -/
theorem drained_release_of_calm {i : Instr} {o : Op} {f : State → State}
    (hx : exec i s = unit o (drained r (releaseThen r 0xFFFF 4 f)) s) (hr : ready o s = true) (hs : ownStores s = [])
    (hrel : s.part.relDone = false) (hc : releaseClear 0xFFFF 4 s = true) : exec i s = .next (f s) :=
  hx.trans ((unit_of_ready hr _).trans (congrArg Host.Outcome.next ((drainBy_of_accepted hr hs ..).trans
    (releaseThen_of_clear hr hs hrel hc f))))

/-! ### LNCH (R364) -/

/-- The reads of a part are dropped alike before and after a write of a scalar register with latency 0. -/
theorem doneReads_wrS (r : Run) (n : Nat) (x : W64) (s : State) :
    ScalarResult r 0 n x (dropReads s) (doneReads r (wrS 0 n x s)) := by
  have hdrop : dropReads (wrS 0 n x s) = wrS 0 n x (dropReads s) := by
    rw [wrS_zero, wrS_zero]
    rfl
  rw [doneReads, hdrop]
  exact wrS_done ..

/-- What a LNCH of the record at `ra` does with queue `q` once its release is done. -/
def lnchTests (r : Run) (d : BitVec 7) (ra : W64) (q : Nat) (s : State) : State :=
  match (if q ≤ 255 then queueHdr s s.crew.ctx q else none) with
  | none => doneReads r (wrS 0 d.toNat 2#64 s)
  | some hdr =>
    if viaOk s (some s.crew.ctx) hdr.toNat 64 true true = false then doneReads r (wrS 0 d.toNat 2#64 s)
    else match qheadAt s (some s.crew.ctx) hdr.toNat with
      | none => doneReads r (wrS 0 d.toNat 2#64 s)
      | some x =>
        if x.dev = false then doneReads r (wrS 0 d.toNat 2#64 s)
        else
          phaseReadBy (unitHow true) true 128 r [(scalarLane s, ra)] (fun lo v =>
            phaseReadBy (unitHow true) true 128 r [(scalarLane s, ra + 128#64)] (fun hi w =>
              enqueue r d q hdr ra x (lo (scalarLane s) ++ hi (scalarLane s)) w) v) s

/-- A LNCH whose stores are accepted and whose release is done goes on to its tests. -/
theorem exec_lnch_of_calm (hr : ready (opLaunch 0 r d a b true [dstS d, srcS a, srcS b]) s = true)
    (ha : (sreg s a).toNat % 256 = 0) (hs : ownStores s = []) (hrel : s.part.relDone = false)
    (hc : releaseClear 0xFFFF 4 s = true) : exec (.lnch r d a b) s = .next (lnchTests r d (sreg s a) (sreg s b).toNat s) :=
  (exec_lnch r d a b s).trans ((unit_of_ready hr _).trans (congrArg Host.Outcome.next ((drainBy_of_accepted hr hs ..).trans
    ((if_neg (not_not_intro ha)).trans (releaseThen_of_clear hr hs hrel hc _)))))

section
variable {ra hdr : W64} {q : Nat} {x : QHead}

/-- A queue that is not there leaves 2. -/
theorem lnchTests_of_absent (h : q ≤ 255 → queueHdr s s.crew.ctx q = none) :
    lnchTests r d ra q s = doneReads r (wrS 0 d.toNat 2#64 s) := by
  have hnone : (if q ≤ 255 then queueHdr s s.crew.ctx q else none) = none := by
    split
    next hq => exact h hq
    next => rfl
  rw [lnchTests, hnone]

/-- A queue whose header can be read goes on when the device may launch through it, and leaves 2 otherwise. -/
theorem lnchTests_of_header (hq : q ≤ 255) (hh : queueHdr s s.crew.ctx q = some hdr)
    (hv : viaOk s (some s.crew.ctx) hdr.toNat 64 true true = true) (hx : qheadAt s (some s.crew.ctx) hdr.toNat = some x) :
    lnchTests r d ra q s = if x.dev = false then doneReads r (wrS 0 d.toNat 2#64 s) else
      phaseReadBy (unitHow true) true 128 r [(scalarLane s, ra)] (fun lo v =>
        phaseReadBy (unitHow true) true 128 r [(scalarLane s, ra + 128#64)] (fun hi w =>
          enqueue r d q hdr ra x (lo (scalarLane s) ++ hi (scalarLane s)) w) v) s := by
  have hsome : (if q ≤ 255 then queueHdr s s.crew.ctx q else none) = some hdr := by rw [if_pos hq, hh]
  rw [lnchTests, hsome]
  simp only [hv, hx, Bool.true_eq_false, if_false]

/-- A record whose bytes are at hand goes to the ring. -/
theorem lnchTests_of_read (hq : q ≤ 255) (hh : queueHdr s s.crew.ctx q = some hdr)
    (hv : viaOk s (some s.crew.ctx) hdr.toNat 64 true true = true) (hx : qheadAt s (some s.crew.ctx) hdr.toNat = some x)
    (hd : x.dev = true) (hlo : readsReady (unitHow true) true 128 r [(scalarLane s, ra)] s = true)
    (hhi : readsReady (unitHow true) true 128 r [(scalarLane s, ra + 128#64)] s = true) :
    lnchTests r d ra q s = enqueue r d q hdr ra x (readVals (unitHow true) true 128 r [(scalarLane s, ra)] s (scalarLane s) ++
      readVals (unitHow true) true 128 r [(scalarLane s, ra + 128#64)] s (scalarLane s)) s :=
  (lnchTests_of_header hq hh hv hx).trans ((if_neg (by simp [hd])).trans ((phaseReadBy_of_ready hlo _).trans
    (phaseReadBy_of_ready hhi _)))

end

/-! ### EMBER and GRIST (R418) -/

/-- A unit that only falls through changes no register and no memory. -/
theorem done_noResult (r : Run) (s : State) : NoResult r 1 (unitNext r s) s (done r s) :=
  ⟨⟨rfl, rfl, rfl, rfl⟩, ⟨rfl, fun _ => rfl⟩, rfl, rfl, rfl⟩

theorem exec_ember_unsampled (hr : ready (opLaunch 3 r 0#7 a k (decide (k.toNat < 2)) [srcS a]) s = true)
    (h : debugged s = false) : exec (.ember r a k) s = .next (done r s) :=
  exec_of_ready (exec_ember r a k) hr (if_pos h)

/-- A part that is debugged asks for a tag of its next unit, unless one is in flight. -/
theorem exec_ember_asks (hr : ready (opLaunch 3 r 0#7 a k (decide (k.toNat < 2)) [srcS a]) s = true)
    (h : debugged s = true) (hk : k ≠ 0#7) (ht : (getEmber s s.crew.core s.wave.seqn).tag = none) :
    exec (.ember r a k) s = .next (done r (setEmber s.crew.core s.wave.seqn
      { getEmber s s.crew.core s.wave.seqn with own := (s.crew.cid, s.wave.widx, lowBit s.part.quads) ::
          (getEmber s s.crew.core s.wave.seqn).own.filter (· != (s.crew.cid, s.wave.widx, lowBit s.part.quads)) } s)) :=
  exec_of_ready (exec_ember r a k) hr ((if_neg (by simp [h])).trans ((if_neg hk).trans (if_neg (by simp [ht]))))

/-! ### The obligation -/

/-- Settles O46: the tests of a LNCH one after the other, one change of the event vector, and the samples of EMBER and GRIST. -/
theorem launchUnits : Obligations.LaunchUnits := by
  intro r d a b k s
  refine ⟨fun hr ha ⟨hs, hrel, hc⟩ => ?_, ⟨fun hr ⟨hs, hrel, hc⟩ => drained_release_of_calm (exec_evset r a k s) hr hs hrel hc,
      applyChange_bitChange _ _ _ true _⟩,
    ⟨fun hr ⟨hs, hrel, hc⟩ => drained_release_of_calm (exec_evclr r a k s) hr hs hrel hc, applyChange_bitChange _ _ _ false _⟩,
    fun hr => ⟨fun h => ⟨_, exec_ember_unsampled hr h, done_noResult r s⟩,
      fun h hk => exec_of_ready (exec_ember r a k) hr ((if_neg (by simp [h])).trans (if_pos hk)),
      fun h hk ht => exec_ember_asks hr h (by simp [hk]) ht⟩,
    fun hr => exec_of_ready (exec_grist r a b) hr rfl⟩
  have hexec := exec_lnch_of_calm hr ha hs hrel hc
  have hreturns {x : W64} (h : lnchTests r d (sreg s a) (sreg s b).toNat s = doneReads r (wrS 0 d.toNat x s)) :
      ∃ t, exec (.lnch r d a b) s = .next t ∧ ScalarResult r 0 d.toNat x (dropReads s) t :=
    ⟨_, hexec.trans (congrArg Host.Outcome.next h), doneReads_wrS ..⟩
  refine ⟨fun hq => hreturns (lnchTests_of_absent (fun h => absurd h (Nat.not_le.mpr hq))),
    fun _ hn => hreturns (lnchTests_of_absent (fun _ => hn)), fun hdr x hq hh hv hx =>
      ⟨fun hd => hreturns ((lnchTests_of_header hq hh hv hx).trans (if_pos hd)), fun hd hlo hhi => ?_⟩⟩
  have hread := lnchTests_of_read (d := d) hq hh hv hx hd hlo hhi
  exact ⟨fun hfull => hreturns (hread.trans (if_pos hfull)), hexec.trans (congrArg Host.Outcome.next hread)⟩

end Sys2Proof.Machine
end

section
/-! PROOFS of O44: RAST, RPRJ, TEX and TEXL. Each ends with writes of latency 0 to several vector registers in the same lanes,
which are one write of the cells (`foldl_wrV`); reads at hand are handed on at once, tap by tap for a texture. -/

set_option Elab.async false

namespace Sys2Proof.Machine

variable {r : Run} {a b d : BitVec 7} {s t : State}

/-! ### Writes of several vector registers (R22) -/

/-- The cells of several vector registers written in the lanes `ls`. -/
def vputs (ds : List (Nat × (Nat → W32))) (ls : List Nat) (v : Cells W32) : Cells W32 :=
  ds.foldl (fun v x => vput x.1 x.2 ls v) v

theorem foldl_wrV (ls : List Nat) (ds : List (Nat × (Nat → W32))) (s : State) :
    ds.foldl (fun u x => wrV 0 x.1 ls x.2 u) s = { s with wave := { s.wave with v := vputs ds ls s.wave.v } } := by
  induction ds generalizing s with
  | nil => rfl
  | cons x ds ih =>
    rw [List.foldl_cons, ih, wrV_zero]
    rfl

/-- Of registers named once each, every one holds its own value in the lanes written. -/
theorem cget_vputs {ls : List Nat} (hls : ∀ x ∈ ls, x < 64) (n l : Nat) (hl : l < 64) (ds : List (Nat × (Nat → W32)))
    (hd : (ds.map Prod.fst).Nodup) (v : Cells W32) :
    cget 0#32 (vputs ds ls v) (64 * n + l) = match ds.lookup n with
      | some f => if ls.contains l then f l else cget 0#32 v (64 * n + l)
      | none => cget 0#32 v (64 * n + l) := by
  induction ds generalizing v with
  | nil => rfl
  | cons x ds ih =>
    obtain ⟨m, g⟩ := x
    obtain ⟨hm, hd⟩ := List.nodup_cons.mp hd
    refine (ih hd _).trans ?_
    rw [cget_vput _ _ _ _ hl _ _ hls]
    by_cases hn : n = m
    · subst hn
      have hnone : ds.lookup n = none :=
        List.lookup_eq_none_iff.mpr (fun p hp => by
          have hne : n ≠ p.1 := fun h => hm (List.mem_map.mpr ⟨p, hp, h.symm⟩)
          simpa using hne)
      simp [hnone]
    · have hne : (n == m) = false := by simpa using hn
      simp [hn, hne, List.lookup_cons]

/-- Writes of the cells of several registers give each its values. -/
theorem vectorsSet_vputs {ls : List Nat} (hls : ∀ x ∈ ls, x < 64) {ds : List (Nat × (Nat → W32))}
    (hd : (ds.map Prod.fst).Nodup) (ht : t.wave.v = vputs ds ls s.wave.v) : VectorsSet ds ls s t := by
  intro n l hl
  rw [vraw, ht]
  exact cget_vputs hls n l hl ds hd s.wave.v

/-- Registers that follow one another are named once each. -/
theorem nodup_consecutive (d n : Nat) (f : Nat → Nat → W32) :
    (((List.range n).map (fun k => (d + k, f k))).map Prod.fst).Nodup := by
  rw [List.map_map]
  exact List.Nodup.map (fun x y h => Nat.add_left_cancel h) List.nodup_range

/-- The writes of registers that follow one another. -/
theorem foldl_wrV_consecutive (d n : Nat) (ls : List Nat) (f : Nat → Nat → W32) (s : State) :
    (List.range n).foldl (fun u k => wrV 0 (d + k) ls (f k) u) s =
      { s with wave := { s.wave with v := vputs ((List.range n).map (fun k => (d + k, f k))) ls s.wave.v } } := by
  rw [← foldl_wrV, List.foldl_map]

/-! ### Descriptors (R322, R323) -/

theorem descAt_of_inside {n : Nat} {x : W64} (ha : x.toNat % n = 0) (hi : x.toNat + n ≤ s.crew.scr)
    (f : List Byte → State → State) : descAt n r x f s = f (scrRead s.crew x.toNat n) s :=
  (if_neg (not_not_intro ha)).trans (if_neg (Nat.not_lt.mpr hi))

/-! ### Taps (R323) -/

/-- The addresses of tap `k` of the lanes that have one. -/
def tapsAt (tap : Nat → List (W64 × Nat)) (ls : List Nat) (k : Nat) : List (Nat × W64) :=
  ls.filterMap (fun l => ((tap l)[k]?).map (fun x => (l, x.1)))

/-- Texels at hand are handed on in the order of the taps. -/
theorem readTaps_of_ready {size : Nat} {tap : Nat → List (W64 × Nat)} {ls : List Nat}
    (h : ∀ k, k < 8 → readsReady (unitHow false) false size r (tapsAt tap ls k) s = true)
    (f : (Nat → List (List Byte)) → State → State) (n : Nat) (hn : n ≤ 8) (got : Nat → List (List Byte)) :
    readTaps size r tap ls n got f s =
      f (fun l => got l ++ (List.range' (8 - n) n).map (fun k => readVals (unitHow false) false size r (tapsAt tap ls k) s l)) s := by
  induction n generalizing got with
  | zero => simp [readTaps]
  | succ n ih =>
    rw [readTaps]
    refine (phaseReadBy_of_ready (h (7 - n) (by omega)) _).trans ((ih (by omega) _).trans ?_)
    have hfirst : 8 - (n + 1) = 7 - n := by omega
    have hnext : 8 - n = 7 - n + 1 := by omega
    simp only [hfirst, hnext, List.range'_succ, List.map_cons, List.append_assoc, List.singleton_append, tapsAt]

/-! ### RAST (R321) -/

theorem match_eq_elim {α : Type} (x : Option (Nat × Nat)) (f : Nat × Nat → α) (z : α) :
    (match x with
      | some p => f p
      | none => z) = x.elim z f := by
  cases x <;> rfl

theorem wrV_match (n : Nat) (ls : List Nat) (x : Nat → Option (Nat × Nat)) (f : Nat × Nat → W32) (z : W32) (s : State) :
    wrV 0 n ls (fun l => match x l with
      | some p => f p
      | none => z) s = wrV 0 n ls (fun l => (x l).elim z f) s :=
  congrArg (fun g => wrV 0 n ls g s) (funext (fun l => match_eq_elim (x l) f z))

/-- RAST's state: its three vector registers and its token written, and the step to the next unit. -/
theorem exec_rast_eq {v : List (Int × Int)} {got : List (Nat × Nat × Nat) × Option (Nat × Nat)}
    (hv : v = [vertex (sreg s a), vertex (sreg s (a + 1#7)), vertex (sreg s (a + 2#7))])
    (hg : got = samples v (activeLanes s) (coveredFrom v ((sreg s b).toNat - 1)))
    (hr : ready { opGfx 0 r d a b [dstVs d 3 4, srcS a, srcS (a + 1#7), srcS (a + 2#7), modS b] with
        lims := decide (a.toNat ≤ 59) } s = true) :
    exec (.rast r d a b) s = .next (done r (wrS 0 b.toNat (got.2.elim 0#64 (fun p => BitVec.ofNat 64 (1 + pixelIndex p)))
      { s with wave := { s.wave with v := vputs [
        (d.toNat, fun l => (got.1.lookup l).elim 0xFFFFFFFF#32 (fun p => BitVec.ofNat 32 (p.2 * 2 ^ 16 + p.1))),
        (d.toNat + 1, fun l => (got.1.lookup l).elim 0#32 (bary v 1)),
        (d.toNat + 2, fun l => (got.1.lookup l).elim 0#32 (bary v 2))] (activeLanes s) s.wave.v } })) := by
  refine (exec_rast r d a b s).trans ((unit_of_ready hr _).trans (congrArg Host.Outcome.next ?_))
  dsimp only
  rw [← hv, ← hg, ← foldl_wrV]
  exact congrArg₂ (fun tok u => done r (wrS 0 b.toNat tok u)) (match_eq_elim got.2 _ _)
    ((wrV_match ..).trans (congrArg (wrV 0 (d.toNat + 2) _ _) ((wrV_match ..).trans (congrArg (wrV 0 (d.toNat + 1) _ _)
      (wrV_match ..)))))

theorem vectorsSet_rast {ds : List (Nat × (Nat → W32))} {x : W64} (hd : (ds.map Prod.fst).Nodup) :
    let t := done r (wrS 0 b.toNat x { s with wave := { s.wave with v := vputs ds (activeLanes s) s.wave.v } })
    Moved r 1 (unitNext r s) s t ∧ SameRest s t ∧ MaskSame s t ∧ ScalarSet b.toNat x s t ∧
      VectorsSet ds (activeLanes s) s t := by
  obtain ⟨hmoved, hrest, hvec, hmask, hset⟩ :=
    wrS_done r 0 b.toNat x { s with wave := { s.wave with v := vputs ds (activeLanes s) s.wave.v } }
  exact ⟨hmoved, hrest, hmask, hset, vectorsSet_vputs (fun _ => activeLanes_lt) hd hvec⟩

/-! ### RPRJ, TEX and TEXL (R322, R323) -/

/-- The end of a unit that has read and writes registers that follow one another. -/
theorem doneReads_vectors (r : Run) (d n : Nat) {ls : List Nat} (hls : ∀ x ∈ ls, x < 64) (f : Nat → Nat → W32) (s : State) :
    let t := doneReads r ((List.range n).foldl (fun u k => wrV 0 (d + k) ls (f k) u) s)
    Moved r 1 (unitNext r s) s t ∧ SameRest (dropReads s) t ∧ ScalarSame s t ∧ MaskSame s t ∧
      VectorsSet ((List.range n).map (fun k => (d + k, f k))) ls s t := by
  rw [foldl_wrV_consecutive]
  exact ⟨⟨rfl, rfl, rfl, rfl⟩, ⟨rfl, fun _ => rfl⟩, rfl, rfl, vectorsSet_vputs hls (nodup_consecutive d n f) rfl⟩

/-- The end of RPRJ: the lanes that passed, and the bits of its mask register. -/
theorem doneReads_rprj (r : Run) (d m n : Nat) {ls act : List Nat} (hls : ∀ x ∈ ls, x < 64) (f : Nat → Nat → W32)
    (g : Nat → Bool) (s : State) :
    let t := doneReads r (wrM 0 m act g ((List.range n).foldl (fun u k => wrV 0 (d + k) ls (f k) u) s))
    Moved r 1 (unitNext r s) s t ∧ SameRest (dropReads s) t ∧ ScalarSame s t ∧
      VectorsSet ((List.range n).map (fun k => (d + k, f k))) ls s t ∧ MaskSet m act g s t := by
  rw [foldl_wrV_consecutive]
  generalize hu : ({ s with wave := { s.wave with
    v := vputs ((List.range n).map (fun k => (d + k, f k))) ls s.wave.v } } : State) = u
  obtain ⟨p, hp⟩ := wrM_eq 0 m act g u
  obtain ⟨-, -, -, -, hmask⟩ := wrM_done r 0 m act g u
  subst hu
  have hmask' : MaskSet m act g s (doneReads r (wrM 0 m act g { s with wave := { s.wave with
      v := vputs ((List.range n).map (fun k => (d + k, f k))) ls s.wave.v } })) := by
    intro k l hl
    exact (hmask k l hl).trans (by rw [← maskOf_getLsbD g l hl]; rfl)
  refine ⟨?_, ?_, ?_, ?_, hmask'⟩
  · rw [hp]
    exact ⟨rfl, rfl, rfl, rfl⟩
  · rw [hp]
    exact ⟨rfl, fun _ => rfl⟩
  · rw [hp]
    rfl
  · rw [hp]
    exact vectorsSet_vputs hls (nodup_consecutive d n f) rfl

/-- The level of detail that a lane of TEX or TEXL asks for. -/
def lodOf (explicit : Bool) (x : Tex) (b : BitVec 7) (s : State) (l : Nat) : Nat :=
  if explicit then (rdV s (b.toNat + 2) l).toNat else texLod x s b.toNat l

/-- The taps of a lane of the part in focus. -/
def lodTaps (explicit : Bool) (x : Tex) (b : BitVec 7) (s : State) (l : Nat) : List (W64 × Nat) :=
  laneTaps x (rdV s b.toNat l).toNat (rdV s (b.toNat + 1) l).toNat (lodOf explicit x b s l)

/-- A texture unit whose descriptor stands and whose texels are at hand writes its four channels. -/
theorem exec_texture_of_ready {i : Instr} {fn : Nat} {explicit : Bool} {x : Tex} (hx : exec i s = texUnit fn explicit r d a b s)
    (hr : ready (opGfx fn r d a b [dstVs d 4 4, srcS a, srcVs b (if explicit then 3 else 2) 4]) s = true)
    (ha : (sreg s a).toNat % 32 = 0) (hi : (sreg s a).toNat + 32 ≤ s.crew.scr)
    (hok : texOk (scrRead s.crew (sreg s a).toNat 32) = true) (htex : x = texOf (scrRead s.crew (sreg s a).toNat 32))
    (hready : ∀ k, k < 8 → readsReady (unitHow false) false (texelSize x.format) r
      (tapsAt (lodTaps explicit x b s) (activeLanes s) k) s = true) :
    exec i s = .next (doneReads r ((List.range 4).foldl (fun u k => wrV 0 (d.toNat + k) (activeLanes s) (fun l =>
      sampled x (rdV s b.toNat l).toNat (rdV s (b.toNat + 1) l).toNat (lodOf explicit x b s l) k
        ((List.range 8).map (fun j => readVals (unitHow false) false (texelSize x.format) r
          (tapsAt (lodTaps explicit x b s) (activeLanes s) j) s l))) u) s)) := by
  subst htex
  refine hx.trans ((unit_of_ready hr _).trans (congrArg Host.Outcome.next ((descAt_of_inside ha hi _).trans
    ((if_neg (by simp [hok])).trans ((readTaps_of_ready hready _ 8 le_rfl _).trans ?_)))))
  rw [List.range_eq_range' (n := 8)]
  rfl

/-! ### The obligation -/

/-- Settles O44: each unit's reads are handed on, and its end writes its registers. -/
theorem graphicsResults : Obligations.GraphicsResults := by
  refine ⟨?_, ?_⟩
  · intro r d a b s v got lane hr
    exact ⟨_, exec_rast_eq rfl rfl hr, vectorsSet_rast (by simp)⟩
  · intro r d a b s h act
    refine ⟨?_, ?_⟩
    · intro msel c px at_ in_ ids same deps ok val hr ha hi hids hdeps hval
      refine ⟨_, exec_of_ready (exec_rprj r d a b) hr ((descAt_of_inside ha hi _).trans ((phaseReadBy_of_ready hids _).trans
        ((phaseReadBy_of_ready hdeps _).trans (phaseReadBy_of_ready hval _)))), doneReads_rprj r d.toNat msel.toNat 4 ?_ _ _ s⟩
      exact fun x hx => activeLanes_lt (List.mem_of_mem_filter (List.mem_of_mem_filter (List.mem_of_mem_filter hx)))
    · intro c x size uv tex
      refine ⟨?_, ?_⟩
      · intro hr ha hi hok hready
        exact ⟨_, exec_texture_of_ready (explicit := false) (exec_tex r d a b s) hr ha hi hok rfl hready,
          doneReads_vectors r d.toNat 4 (fun _ => activeLanes_lt) _ s⟩
      · intro hr ha hi hok hready
        exact ⟨_, exec_texture_of_ready (explicit := true) (exec_texl r d a b s) hr ha hi hok rfl hready,
          doneReads_vectors r d.toNat 4 (fun _ => activeLanes_lt) _ s⟩

end Sys2Proof.Machine
end

section
/-! PROOFS for O53: what Lamplighter's records of faults and samples touch. A run of the fault ring and a sample are memory
writes, so a part, the cores and the package's own state stand behind them. -/

set_option Elab.async false

namespace Sys2Proof.Machine

variable {s t u : State}

/-! ### Runs of the fault ring (R390) -/

/-- Memory differs, and of the package only what Lamplighter knows of its own writes. -/
def Recorded (s t : State) : Prop :=
  MemOnly s t ∧ ∃ ct ps ms, t.pkg = { s.pkg with lampCt := ct, posts := ps, msix := ms }

theorem Recorded.refl (s : State) : Recorded s s := ⟨.refl s, _, _, _, rfl⟩

theorem Recorded.trans (h : Recorded s t) (k : Recorded t u) : Recorded s u := by
  obtain ⟨hm, _, _, _, hp⟩ := h
  obtain ⟨km, ct, ps, ms, kp⟩ := k
  refine ⟨hm.trans km, ct, ps, ms, ?_⟩
  rw [kp, hp]

theorem Recorded.ite {c : Prop} [Decidable c] (h : Recorded s t) (k : Recorded s u) : Recorded s (if c then t else u) := by
  split
  · exact h
  · exact k

theorem msix_recorded (v : Nat) (s : State) : Recorded s (msix v s) := ⟨rfl, _, _, _, rfl⟩

theorem viaWrite_recorded (v : Option Nat) (a : Nat) (bs : List Byte) (s : State) : Recorded s (viaWrite v a bs s) := by
  refine ⟨viaWrite_memOnly v a bs s, (viaWrite v a bs s).pkg.lampCt, s.pkg.posts, s.pkg.msix, ?_⟩
  unfold viaWrite noteCt
  split
  next k =>
    dsimp only
    rw [ctxWrites_pkg]
  next =>
    dsimp only
    rw [homeWrites_pkg]

theorem putBytes_recorded (v : Option Nat) (a : Nat) (bs : List Byte) (s : State) : Recorded s (putBytes v a bs s) := by
  unfold putBytes
  split <;> exact .ite (viaWrite_recorded ..) (.refl s)

theorem post_recorded (x : Post) (s : State) : Recorded s (post x s) :=
  .ite ((putBytes_recorded x.ctx x.addr x.bytes s).trans (msix_recorded ..)) ⟨rfl, _, _, _, rfl⟩

theorem putSlots_recorded (ctx ring size tail : Nat) (l : List (List Byte)) (s : State) :
    Recorded s (putSlots ctx ring size tail l s) := by
  induction l generalizing tail s with
  | nil => exact .refl s
  | cons b l ih => exact (viaWrite_recorded ..).trans (ih _ _)

theorem setCtx_recorded (s : State) (n : Nat) (c : Option Ctx) : Recorded s (setCtx s n c) := ⟨rfl, _, _, _, rfl⟩

theorem faultRun_recorded (ctx : Nat) (recs : List Rec) (s : State) : Recorded s (faultRun ctx recs s) := by
  unfold faultRun
  split
  next => exact .refl s
  next =>
    refine .ite (.ite ?_ ?_) (msix_recorded ..)
    · exact (setCtx_recorded ..).trans ((putSlots_recorded ..).trans (post_recorded ..))
    · exact (setCtx_recorded ..).trans ((viaWrite_recorded ..).trans (msix_recorded ..))

theorem tripRecord_recorded (c : Crew) (s : State) : Recorded s (tripRecord c s) := faultRun_recorded ..

/-! ### Samples and sketches (R412, R417) -/

theorem putRing_memOnly (ctx buf size : Nat) (l : List W64) (w : Nat) (s : State) : MemOnly s (putRing ctx buf size w l s) := by
  induction l generalizing w s with
  | nil => exact .refl s
  | cons x l ih => exact (ctxWrite_memOnly ..).trans ((ctxWrite_memOnly ..).trans (ih _ _))

theorem MemOnly.ite {c : Prop} [Decidable c] (h : MemOnly s t) (k : MemOnly s u) : MemOnly s (if c then t else u) := by
  split
  · exact h
  · exact k

theorem MemOnly.ite_fst {α : Type} {c : Prop} [Decidable c] {x y : State × α} (h : MemOnly s x.1) (k : MemOnly s y.1) :
    MemOnly s (if c then x else y).1 := by
  split
  · exact h
  · exact k

theorem sampleWrite_memOnly (ctx : Nat) (recs : List (Nat × List W64)) (s : State) : MemOnly s (sampleWrite ctx recs s).1 := by
  have hset (n : Nat) (c : Option Ctx) : MemOnly s (setCtx s n c) := rfl
  unfold sampleWrite
  split
  next => exact .refl s
  next =>
    dsimp only
    refine .ite_fst (.refl s) (.ite_fst ?_ ((hset ..).trans (ctxWrite_memOnly ..)))
    refine foldl_keeps (P := fun st : State × Nat × Nat => MemOnly s st.1)
      (fun st r hst => hst.trans ((putRing_memOnly ..).trans (putRing_memOnly ..))) _ (_, _, _)
      ((hset ..).trans ((ctxWrite_memOnly ..).trans (.ite (.refl _) ((putRing_memOnly ..).trans (ctxWrite_memOnly ..)))))

theorem crewSample_memOnly (ctx ref : Nat) (name : List W64) (type : Nat) (body : List W64) (s : State) :
    MemOnly s (crewSample ctx ref name type body s) :=
  (sampleWrite_memOnly ..).trans (updCtx_memOnly ..)

theorem gristAdd_memOnly (ctx k : Nat) (x : W64) (v : Nat) (s : State) : MemOnly s (gristAdd ctx k x v s) := by
  unfold gristAdd
  split
  next => exact .refl s
  next =>
    dsimp only
    split
    · exact .refl s
    · refine foldl_keeps (P := MemOnly s) (fun st im hst => ?_) _ s (.refl s)
      split
      next =>
        split
        · exact hst.trans (ctxWrite_memOnly ..)
        · exact hst
      next => exact hst

/-! ### Tags (R414, R415) -/

/-- A tagged unit that has ended leaves its sampler without a tag. -/
theorem emberRecord_of_tagged {core seq : Nat} {g : EmberTag} (h : (getEmber s core seq).tag = some g) (x : EmberStages) :
    ∃ t, exec (.emberRecord core seq x) s = .next t ∧ (getEmber t core seq).tag = none ∧ t.part = s.part := by
  have hkeep : ∀ t, MemOnly (setEmber core seq { getEmber s core seq with tag := none } s) t →
      (getEmber t core seq).tag = none ∧ t.part = s.part := by
    intro t ht
    rw [ht]
    exact ⟨congrArg Ember.tag ((getEmber_setEmber ..).trans (if_pos ⟨rfl, rfl⟩)), rfl⟩
  rw [exec_emberRecord, execEmberRecord]
  simp only [h]
  split
  · exact ⟨_, rfl, hkeep _ (.refl _)⟩
  · exact ⟨_, rfl, hkeep _ ((crewSample_memOnly ..).trans (gristAdd_memOnly ..))⟩

/-! ### Thermal trips (R346) -/

/-- The records of a trip for every resident crew. -/
theorem tripRecords_recorded (l : List Crew) (s : State) : Recorded s (l.foldl (fun v c => tripRecord c v) s) :=
  foldl_keeps (P := Recorded s) (fun v c hv => hv.trans (tripRecord_recorded c v)) l s (.refl s)

/-- A trip stops issue, names the time of the power cut and sets its status bit; the part in focus stands. -/
theorem thermalTrip_of_running (k : Nat) (h : s.pkg.halted = false) : ∃ t, exec (.thermalTrip k) s = .next t ∧
    t.pkg.halted = true ∧ t.pkg.tripDue = some (timeOf s + 1000000) ∧ t.pkg.status = s.pkg.status ||| 8#64 ∧
    t.part = s.part := by
  have hrun : ¬ s.pkg.halted = true := by simp [h]
  refine ⟨_, (exec_thermalTrip k s).trans (congrArg Host.Outcome.next (if_neg hrun)), ?_⟩
  dsimp only
  generalize hw : updLife _ { s with pkg := { s.pkg with halted := true, tripDue := some (timeOf s + 1000000) } } = w
  obtain ⟨hhalted, hdue, hstatus, hpart⟩ : w.pkg.halted = true ∧ w.pkg.tripDue = some (timeOf s + 1000000) ∧
      w.pkg.status = s.pkg.status ∧ w.part = s.part := by
    rw [← hw]
    exact ⟨rfl, rfl, rfl, rfl⟩
  have hlife := writeLife_powerOnly w
  have hrec := tripRecords_recorded ((allCrews w).filter (fun c => c.cond == .resident)) (writeLife w)
  generalize writeLife w = v at hlife hrec ⊢
  generalize List.foldl _ v _ = u at hrec ⊢
  obtain ⟨hmem, ct, ps, ms, hwrote⟩ := hrec
  have hu : u.part = v.part := by rw [hmem]
  refine ⟨?_, ?_, ?_, hu.trans (hlife.part.trans hpart)⟩
  · exact (congrArg Package.halted hwrote).trans ((congrArg Package.halted hlife.pkg).trans hhalted)
  · exact (congrArg Package.tripDue hwrote).trans ((congrArg Package.tripDue hlife.pkg).trans hdue)
  · exact congrArg (· ||| 8#64) ((congrArg Package.status hwrote).trans ((congrArg Package.status hlife.pkg).trans
      hstatus))

end Sys2Proof.Machine
end

section
/-! PROOFS of O53: trips, the clock and the body bias of a cluster, the taper, soft errors and the power cap. Each step of a
cluster's housekeeping is one record of the cluster followed by `follow`, which sets the shift of the clock alone. -/

set_option Elab.async false

namespace Sys2Proof.Machine

variable {s t u : State} {c k n : Nat}

/-! ### Fields of a word -/

theorem testBit_bfield (x : W64) (hi lo i : Nat) :
    (bfield x hi lo).testBit i = (decide (i < hi + 1 - lo) && x.getLsbD (i + lo)) := by
  rw [bfield, Nat.testBit_mod_two_pow, Nat.testBit_div_two_pow]
  rfl

/-- A field that is replaced reads back. -/
theorem bfield_bset_same {x : W64} {hi lo : Nat} (v : Nat) (hl : lo ≤ hi) (hh : hi < 64) :
    bfield (bset x hi lo v) hi lo = v % 2 ^ (hi + 1 - lo) := by
  refine Nat.eq_of_testBit_eq (fun i => ?_)
  rw [testBit_bfield, Nat.testBit_mod_two_pow, getLsbD_bset hl hh]
  by_cases hi' : i < hi + 1 - lo
  · rw [if_pos (by omega), Nat.add_sub_cancel]
  · simp [hi']

/-- A field stays when one that it does not meet is replaced. -/
theorem bfield_bset_of_disjoint {x : W64} {hi lo h l : Nat} (v : Nat) (hl : lo ≤ hi) (hh : hi < 64) (hd : h < lo ∨ hi < l) :
    bfield (bset x hi lo v) h l = bfield x h l := by
  refine Nat.eq_of_testBit_eq (fun i => ?_)
  rw [testBit_bfield, testBit_bfield, getLsbD_bset hl hh]
  by_cases hi' : i < h + 1 - l
  · rw [if_neg (by omega)]
  · simp [hi']

/-! ### The clock of a cluster (R347) -/

theorem cycleOf_of_same (h : (getCluster t c).cyc = (getCluster s c).cyc) (h' : (getCluster t c).clk = (getCluster s c).clk)
    (h'' : (getCluster t c).len = (getCluster s c).len) (hc : t.clock = s.clock) : cycleOf t c = cycleOf s c := by
  rw [cycleOf, cycleOf, h, h', h'', hc]

/-- The divider's following sets the boundary of a change of the clock, and nothing else of its cluster. -/
theorem follow_cluster (c b : Nat) (s : State) :
    ∃ m, getCluster (follow c b s) c = { getCluster s c with shift := m } := by
  unfold follow
  dsimp only
  split
  · exact ⟨_, rfl⟩
  · exact ⟨_, (getCluster_setCluster ..).trans (if_pos rfl)⟩

/-- A clock whose length is to change, with no change on its way, changes at the boundary named. -/
theorem follow_shift {b : Nat} (hs : (getCluster s c).shift = none) (hl : (getCluster s c).len ≠ cycleLen (getCluster s c)) :
    (getCluster (follow c b s) c).shift = some (boundaryOf s c b) := by
  rw [follow, hs]
  simp [hl]

theorem follow_cycleOf (c b : Nat) (s : State) : cycleOf (follow c b s) c = cycleOf s c := by
  obtain ⟨m, hm⟩ := follow_cluster c b s
  exact cycleOf_of_same (by rw [hm]) (by rw [hm]) (by rw [hm]) (follow_powerOnly c b s).clock

theorem setCluster_cycleOf {x : Cluster} (h : x.cyc = (getCluster s c).cyc) (h' : x.clk = (getCluster s c).clk)
    (h'' : x.len = (getCluster s c).len) : cycleOf (setCluster s c x) c = cycleOf s c :=
  cycleOf_of_same (by simp [h]) (by simp [h']) (by simp [h'']) rfl

theorem setCluster_boundaryOf {x : Cluster} (h : x.cyc = (getCluster s c).cyc) (h' : x.clk = (getCluster s c).clk)
    (h'' : x.len = (getCluster s c).len) (b : Nat) : boundaryOf (setCluster s c x) c b = boundaryOf s c b := by
  rw [boundaryOf, boundaryOf, setCluster_cycleOf h h' h'', getCluster_setCluster, if_pos rfl, h, h', h'']

/-- The full clock of a cluster, in units of 1/78 ns, derated or not. -/
def fullLen (x : Cluster) : Nat := if x.bbias.getLsbD 16 then 65 else 60

theorem fullLen_pos (x : Cluster) : 0 < fullLen x := by
  unfold fullLen
  split <;> decide

theorem cycleLen_of_full {x : Cluster} (h : x.halve = false) : cycleLen x = fullLen x := by
  rw [cycleLen, h]
  exact Nat.mul_one _

theorem cycleLen_of_halved {x : Cluster} (h : x.halve = true) : cycleLen x = 2 * fullLen x := by
  rw [cycleLen, h]
  exact Nat.mul_comm _ 2

/-! ### Droop trips (R347, R348) -/

/-- A cluster that its detector has tripped. -/
def tripped (c k : Nat) (s : State) : Cluster :=
  let x := getCluster s c
  let storm := decide (16 ≤ (recentTrips s c).length)
  { x with
    tripped := true
    holdEnd := cycleOf s c + max (if x.gctl.getLsbD 0 then 0 else tripBoundary s) k + max 64 (bfield x.gctl 31 16)
    gctl := bset x.gctl 2 2 (if storm then 1 else bfield x.gctl 2 2)
    trips := if storm then [] else recentTrips s c
    planDue := x.planDue || storm }

/-- The sixteenth trip within 1 ms is a storm, and a re-plan is due. -/
theorem tripped_storm (h : 16 ≤ (recentTrips s c).length) :
    (tripped c k s).gctl.getLsbD 2 = true ∧ (tripped c k s).planDue = true := by
  have hstorm : decide (16 ≤ (recentTrips s c).length) = true := decide_eq_true h
  unfold tripped
  dsimp only
  rw [hstorm, if_pos rfl, Bool.or_true]
  exact ⟨getLsbD_bset_same true (by decide), rfl⟩

/-- A trip is the cluster's record, the divider's following and the count of the trip. -/
theorem tripCluster_eq (c k : Nat) (s : State) : ∃ f, tripCluster c k s = updLife f (follow c
    (if (getCluster s c).gctl.getLsbD 0 then 0 else tripBoundary s)
    (setCluster { s with free := s.free + 1 } c (tripped c k s))) := ⟨_, by unfold tripCluster; rfl⟩

theorem tripCluster_powerOnly (c k : Nat) (s : State) : PowerOnly s (tripCluster c k s) := by
  obtain ⟨f, hf⟩ := tripCluster_eq c k s
  rw [hf]
  exact PowerOnly.trans (t := { s with free := s.free + 1 }) ⟨_, _, _, _, _, rfl⟩
    ((setCluster_powerOnly ..).trans ((follow_powerOnly ..).trans (updLife_powerOnly ..)))

theorem tripCluster_rails (c k : Nat) (s : State) : (tripCluster c k s).rails = s.rails := by
  obtain ⟨_, _, _, _, _, h⟩ := tripCluster_powerOnly c k s
  rw [h]

theorem tripCluster_cluster (c k : Nat) (s : State) : ∃ m, getCluster (tripCluster c k s) c = { tripped c k s with shift := m } := by
  obtain ⟨f, hf⟩ := tripCluster_eq c k s
  obtain ⟨m, hm⟩ := follow_cluster c (if (getCluster s c).gctl.getLsbD 0 then 0 else tripBoundary s)
    (setCluster { s with free := s.free + 1 } c (tripped c k s))
  rw [getCluster_setCluster, if_pos rfl] at hm
  exact ⟨m, (congrArg (getCluster · c) hf).trans hm⟩

/-- A trip of a cluster at its full clock halves it from the first or the second boundary on. -/
theorem tripCluster_shift (hs : (getCluster s c).shift = none) (hh : (getCluster s c).halve = false)
    (hg : (getCluster s c).gctl.getLsbD 0 = false) (hl : (getCluster s c).len = cycleLen (getCluster s c)) :
    (getCluster (tripCluster c k s) c).shift = some (boundaryOf s c 1) ∨
      (getCluster (tripCluster c k s) c).shift = some (boundaryOf s c 2) := by
  obtain ⟨f, hf⟩ := tripCluster_eq c k s
  have hnew : getCluster (setCluster { s with free := s.free + 1 } c (tripped c k s)) c = tripped c k s := by simp
  have hlen : (tripped c k s).len ≠ cycleLen (tripped c k s) := by
    have hfull : (tripped c k s).len = fullLen (tripped c k s) := hl.trans (cycleLen_of_full hh)
    have hpos := fullLen_pos (tripped c k s)
    rw [hfull, cycleLen_of_halved (show (tripped c k s).halve = true from rfl)]
    omega
  have hshift : (getCluster (tripCluster c k s) c).shift = some (boundaryOf s c (tripBoundary s)) := by
    refine (congrArg (fun u => (getCluster u c).shift) hf).trans ((follow_shift ?_ ?_).trans ?_)
    · rw [hnew]
      exact hs
    · rw [hnew]
      exact hlen
    · rw [hg]
      exact congrArg some (setCluster_boundaryOf (s := { s with free := s.free + 1 }) (x := tripped c k s) rfl rfl rfl
        (tripBoundary s))
  rw [hshift, tripBoundary]
  split
  · exact .inr rfl
  · exact .inl rfl

theorem tripCluster_cycleOf (c k : Nat) (s : State) : cycleOf (tripCluster c k s) c = cycleOf s c := by
  obtain ⟨m, hm⟩ := tripCluster_cluster c k s
  exact cycleOf_of_same (by rw [hm]; rfl) (by rw [hm]; rfl) (by rw [hm]; rfl) (tripCluster_powerOnly c k s).clock

/-- What a trip leaves of the cluster and of everything else. -/
theorem tripCluster_spec (c k : Nat) (s : State) :
    (tripCluster c k s).rails = s.rails ∧ (getCluster (tripCluster c k s) c).tripped = true ∧
      cycleOf s c + k + max 64 (bfield (getCluster s c).gctl 31 16) ≤ (getCluster (tripCluster c k s) c).holdEnd ∧
      (16 ≤ (recentTrips s c).length → (getCluster (tripCluster c k s) c).gctl.getLsbD 2 = true ∧
        (getCluster (tripCluster c k s) c).planDue = true) ∧
      ((getCluster s c).shift = none → (getCluster s c).halve = false → (getCluster s c).gctl.getLsbD 0 = false →
        (getCluster s c).len = cycleLen (getCluster s c) →
        (getCluster (tripCluster c k s) c).shift = some (boundaryOf s c 1) ∨
          (getCluster (tripCluster c k s) c).shift = some (boundaryOf s c 2)) ∧
      cycleOf (tripCluster c k s) c = cycleOf s c ∧ (tripCluster c k s).part = s.part ∧
      (tripCluster c k s).memsys = s.memsys := by
  obtain ⟨m, hm⟩ := tripCluster_cluster c k s
  have hpower := tripCluster_powerOnly c k s
  refine ⟨tripCluster_rails c k s, ?_, ?_, fun h => ?_, tripCluster_shift, tripCluster_cycleOf c k s, hpower.part, hpower.memsys⟩
  · rw [hm]
    rfl
  · rw [hm]
    exact Nat.add_le_add_right (Nat.add_le_add_left (Nat.le_max_right _ _) _) _
  · rw [hm]
    exact tripped_storm (k := k) h

theorem droopTrip_of_deep {drop : Nat} {rest : List (Nat × Nat)} (hc : c < 32) (hr : cget [] s.rails c = (drop, k) :: rest)
    (hd : 5 * max 4 (bfield (getCluster s c).gctl 15 8) < drop) :
    exec (.droopTrip c) s = .next (tripCluster c k { s with rails := cset [] s.rails c rest }) := by
  rw [exec_droopTrip, execDroopTrip, hr]
  exact congrArg Host.Outcome.next (if_pos ⟨hc, hd⟩)

theorem droopTrip_of_shallow {drop : Nat} {rest : List (Nat × Nat)} (hr : cget [] s.rails c = (drop, k) :: rest)
    (hd : drop ≤ 5 * max 4 (bfield (getCluster s c).gctl 15 8)) :
    exec (.droopTrip c) s = .next { s with rails := cset [] s.rails c rest } := by
  rw [exec_droopTrip, execDroopTrip, hr]
  exact congrArg Host.Outcome.next (if_neg (fun h => absurd h.2 (Nat.not_lt.mpr hd)))

/-! ### The restore of the clock (R347) -/

/-- The state in which a cluster's hold has ended. -/
def restored (c : Nat) (s : State) : State :=
  follow c 1 (setCluster s c { getCluster s c with tripped := false })

theorem gutterRestore_of_over (ht : (getCluster s c).tripped = true) (hh : (getCluster s c).holdEnd ≤ cycleOf s c) :
    exec (.gutterRestore c) s = .next (restored c s) := by
  rw [exec_gutterRestore, execGutterRestore]
  exact congrArg Host.Outcome.next (if_pos ⟨ht, hh⟩)

theorem restored_powerOnly (c : Nat) (s : State) : PowerOnly s (restored c s) :=
  (setCluster_powerOnly ..).trans (follow_powerOnly ..)

theorem restored_tripped (c : Nat) (s : State) : (getCluster (restored c s) c).tripped = false := by
  obtain ⟨m, hm⟩ := follow_cluster c 1 (setCluster s c { getCluster s c with tripped := false })
  rw [restored, hm]
  simp

theorem restored_cycleOf (c : Nat) (s : State) : cycleOf (restored c s) c = cycleOf s c :=
  (follow_cycleOf ..).trans (setCluster_cycleOf rfl rfl rfl)

/-- With the vault open the full clock comes back at the next boundary. -/
theorem restored_shift (hs : (getCluster s c).shift = none) (hg : (getCluster s c).gctl.getLsbD 1 = false)
    (hl : (getCluster s c).len = 2 * (if (getCluster s c).bbias.getLsbD 16 then 65 else 60)) :
    (getCluster (restored c s) c).shift = some (boundaryOf s c 1) := by
  have hnew : getCluster (setCluster s c { getCluster s c with tripped := false }) c =
      { getCluster s c with tripped := false } := by simp
  refine (follow_shift ?_ ?_).trans (congrArg some
    (setCluster_boundaryOf (x := { getCluster s c with tripped := false }) rfl rfl rfl 1))
  · rw [hnew]
    exact hs
  · rw [hnew]
    generalize hx : ({ getCluster s c with tripped := false } : Cluster) = x
    have hhalf : x.halve = false := by
      rw [← hx]
      exact hg
    have hlen : x.len = 2 * fullLen x := by
      rw [← hx]
      exact hl
    have hpos := fullLen_pos x
    rw [cycleLen_of_full hhalf, hlen]
    omega

/-! ### Counting the time of a cluster (R409) -/

theorem countCluster_cluster (j c : Nat) (s : State) :
    ∃ m, getCluster (countCluster j s) c = { getCluster s c with since := m } := by
  have h : getCluster (countCluster j s) c = getCluster (setCluster s j { getCluster s j with since := s.clock }) c := rfl
  rw [h, getCluster_setCluster]
  split
  next hc =>
    subst hc
    exact ⟨_, rfl⟩
  next => exact ⟨_, rfl⟩

theorem countVault_cluster (v c : Nat) (s : State) : getCluster (countVault v s) c = getCluster s c := by
  unfold countVault
  dsimp only
  split <;> rfl

/-- At its boundary a cluster's clock takes its new length and goes on counting. -/
theorem settleClock_of_due (hs : (getCluster s c).shift = some n) (hn : n ≤ s.clock) :
    ∃ m, getCluster (settleClock c s) c = { getCluster s c with
      since := m, cyc := cycleOf s c, clk := n, len := cycleLen (getCluster s c), shift := none,
      gctl := bset (getCluster s c).gctl 0 0 (getCluster s c).halve.toNat } ∧ (settleClock c s).memsys = s.memsys := by
  obtain ⟨m, hm⟩ := countCluster_cluster c c s
  refine ⟨m, ?_⟩
  have heq : settleClock c s = setCluster (countCluster c s) c { getCluster (countCluster c s) c with
      cyc := cycleOf s c, clk := n, len := cycleLen (getCluster (countCluster c s) c), shift := none,
      gctl := bset (getCluster (countCluster c s) c).gctl 0 0 (getCluster (countCluster c s) c).halve.toNat } := by
    rw [settleClock, hs]
    exact if_neg (Nat.not_lt.mpr hn)
  rw [heq, getCluster_setCluster, if_pos rfl, hm]
  exact ⟨rfl, rfl⟩

end Sys2Proof.Machine
end

section
/-! PROOFS of O53, last part: the body bias, the taper, soft errors, the lifetime records and the power cap. -/

set_option Elab.async false

namespace Sys2Proof.Machine

variable {s t u : State} {c k n : Nat}

/-! ### The lifetime records (R409) -/

/-- Counting the time of the clusters and vaults leaves the bias codes, and of the package all but the times counted. -/
def Counted (c : Nat) (s t : State) : Prop :=
  (∃ m, getCluster t c = { getCluster s c with since := m }) ∧ t.pkg.life.hours = s.pkg.life.hours ∧
    t.pkg.booted = s.pkg.booted ∧ t.pkg.flash = s.pkg.flash

theorem countAll_counted (c : Nat) (s : State) :
    Counted c s ((List.range 32).foldl (fun u j => countVault j (countCluster j u)) s) := by
  refine foldl_keeps (P := Counted c s) (fun u j hu => ?_) _ s ⟨⟨_, rfl⟩, rfl, rfl, rfl⟩
  obtain ⟨⟨m, hm⟩, hhours, hbooted, hflash⟩ := hu
  obtain ⟨m', hm'⟩ := countCluster_cluster j c u
  refine ⟨⟨m', ?_⟩, ?_⟩
  · rw [countVault_cluster, hm', hm]
  · unfold countVault
    dsimp only
    split <;> exact ⟨hhours, hbooted, hflash⟩

/-- The records as module flash takes them. -/
theorem writeLife_life (s : State) :
    (writeLife s).pkg.flash.life.hours = (if s.pkg.booted then 0 else s.pkg.flash.life.hours) + s.pkg.life.hours ∧
      (writeLife s).pkg.life = (if s.pkg.booted then (writeLife s).pkg.flash.life else Lifetime.reset) := by
  obtain ⟨-, hhours, hbooted, hflash⟩ := countAll_counted 0 s
  unfold writeLife
  dsimp only
  generalize (List.range 32).foldl (fun u j => countVault j (countCluster j u)) s = t at hhours hbooted hflash ⊢
  rw [hbooted]
  cases s.pkg.booted with
  | true => exact ⟨hhours.trans (Nat.zero_add _).symm, rfl⟩
  | false => exact ⟨congrArg₂ (· + ·) (congrArg (·.life.hours) hflash) hhours, rfl⟩

theorem writeLife_cluster (c : Nat) (s : State) : ∃ m, getCluster (writeLife s) c = { getCluster s c with since := m } := by
  obtain ⟨⟨m, hm⟩, -⟩ := countAll_counted c s
  refine ⟨m, Eq.trans ?_ hm⟩
  unfold writeLife
  dsimp only
  generalize (List.range 32).foldl (fun u j => countVault j (countCluster j u)) s = t
  split <;> rfl

theorem lifetimeRecordWrite_of_due (hp : s.pkg.powered = true) (hh : s.pkg.nextHour ≤ timeOf s) :
    ∃ t, exec .lifetimeRecordWrite s = .next t ∧
      t.pkg.flash.life.hours = (if s.pkg.booted then 0 else s.pkg.flash.life.hours) + s.pkg.life.hours + 1 ∧
      t.pkg.life = (if s.pkg.booted then t.pkg.flash.life else Lifetime.reset) ∧ t.memsys = s.memsys := by
  refine ⟨_, (exec_lifetimeRecordWrite s).trans (congrArg Host.Outcome.next (if_pos ⟨hp, hh⟩)), ?_⟩
  generalize hw : updLife _ { s with pkg := { s.pkg with nextHour := s.pkg.nextHour + 3600 * 10 ^ 9 } } = w
  obtain ⟨hhours, hbooted, hflash, hmem⟩ : w.pkg.life.hours = s.pkg.life.hours + 1 ∧ w.pkg.booted = s.pkg.booted ∧
      w.pkg.flash = s.pkg.flash ∧ w.memsys = s.memsys := by
    rw [← hw]
    exact ⟨rfl, rfl, rfl, rfl⟩
  obtain ⟨hlife, hreset⟩ := writeLife_life w
  have hsame := (writeLife_powerOnly w).memsys
  rw [hbooted, hflash, hhours] at hlife
  rw [hbooted] at hreset
  exact ⟨hlife, hreset, hsame.trans hmem⟩

/-! ### The body bias (R350, R351) -/

/-- A code reads back from its eight bits. -/
theorem signedOf_wrapTo_8 {x : Int} (hlo : -128 ≤ x) (hhi : x < 128) : signedOf 8 (wrapTo 8 x % 2 ^ 8) = x := by
  unfold signedOf wrapTo
  dsimp only
  split <;> omega

/-- The end of a move marks the cluster and counts the re-plan; its code stays. -/
theorem biasArrived_code (c : Nat) (s : State) : biasCode (getCluster (biasArrived c s) c) = biasCode (getCluster s c) := by
  unfold biasArrived
  dsimp only
  split
  · rfl
  · split
    · obtain ⟨m, hm⟩ := countCluster_cluster c c s
      generalize countCluster c s = v at hm ⊢
      generalize hx : ({ getCluster v c with
        target := none, planEnd := false,
        bbias := bset (bset (getCluster v c).bbias 16 16 (getCluster v c).short.toNat) 7 0 (bfield (getCluster v c).bbias 7 0 + 1) } :
        Cluster) = x
      have hcode : bfield x.bbias 15 8 = bfield (getCluster s c).bbias 15 8 := by
        rw [← hx, hm]
        exact (bfield_bset_of_disjoint _ (by decide) (by decide) (by decide)).trans
          (bfield_bset_of_disjoint _ (by decide) (by decide) (by decide))
      obtain ⟨m', hm'⟩ := follow_cluster c 1 (setCluster v c x)
      obtain ⟨m'', hm''⟩ := writeLife_cluster c (follow c 1 (setCluster v c x))
      rw [hm'', hm', getCluster_setCluster, if_pos rfl]
      exact congrArg (signedOf 8) hcode
    · rw [getCluster_setCluster, if_pos rfl]
      rfl

/-- In each 1 µs the generator moves one code toward its target. -/
theorem biasCodeStep_of_due {g : Int} (hg : (getCluster s c).target = some g) (hs : (getCluster s c).stepAt ≤ timeOf s)
    (hlo : -40 ≤ biasCode (getCluster s c)) (hhi : biasCode (getCluster s c) ≤ 40) :
    ∃ t, exec (.biasCodeStep c) s = .next t ∧
      biasCode (getCluster t c) = (if biasCode (getCluster s c) < g then biasCode (getCluster s c) + 1
        else if g < biasCode (getCluster s c) then biasCode (getCluster s c) - 1 else g) ∧ t.memsys = s.memsys := by
  obtain ⟨m, hm⟩ := countCluster_cluster c c s
  have hcode : biasCode (getCluster (countCluster c s) c) = biasCode (getCluster s c) := by
    rw [hm]
    rfl
  have hexec : ∃ x : Cluster, exec (.biasCodeStep c) s = .next (biasArrived c (setCluster (countCluster c s) c x)) ∧
      x.bbias = bset (getCluster (countCluster c s) c).bbias 15 8 (wrapTo 8
        (if biasCode (getCluster s c) < g then biasCode (getCluster s c) + 1
          else if g < biasCode (getCluster s c) then biasCode (getCluster s c) - 1 else biasCode (getCluster s c))) := by
    rw [← hcode, exec_biasCodeStep, execBiasCodeStep, hg]
    exact ⟨_, congrArg Host.Outcome.next (if_neg (Nat.not_lt.mpr hs)), rfl⟩
  obtain ⟨x, hx, hb⟩ := hexec
  refine ⟨_, hx, ?_, (biasArrived_powerOnly ..).memsys.trans
    ((setCluster_powerOnly ..).memsys.trans (countCluster_powerOnly ..).memsys)⟩
  rw [biasArrived_code, getCluster_setCluster, if_pos rfl, biasCode, hb, bfield_bset_same _ (by decide) (by decide)]
  refine (signedOf_wrapTo_8 ?_ ?_).trans ?_
  · split_ifs <;> omega
  · split_ifs <;> omega
  · split_ifs <;> omega

theorem biasReplan_of_due (hc : c < 32) (slack : List (Int × Nat))
    (h : (getCluster s c).planDue = true ∨ (getCluster s c).nextPlan ≤ timeOf s) :
    let y : Cluster := { getCluster s c with
      nextPlan := if (getCluster s c).nextPlan ≤ timeOf s then timeOf s + dayNs else (getCluster s c).nextPlan }
    exec (.biasReplan c slack) s = .next (if y.planEnd then setCluster s c { y with planDue := true }
      else replan c slack (setCluster s c { y with planDue := false })) := by
  have hdue : ¬(32 ≤ c ∨ ((getCluster s c).planDue || decide ((getCluster s c).nextPlan ≤ timeOf s)) = false) := by
    simpa [hc] using Or.elim h (fun h h' => by simp [h] at h') (fun h _ => h)
  rw [exec_biasReplan, execBiasReplan]
  dsimp only
  rw [if_neg hdue]
  simp only [decide_eq_true_eq]

theorem bbiasCodeWrite_of_idle (hc : c < 32) (v : W64) (h : (getCluster s c).planEnd = false) :
    exec (.bbiasCodeWrite c v) s = .next (biasArrived c (setCluster s c { getCluster s c with
      target := some (clampInt (signedOf 8 (bfield v 15 8)) (-40) 40),
      stepAt := if (getCluster s c).target.isSome then (getCluster s c).stepAt else timeOf s + 1000 })) := by
  rw [exec_bbiasCodeWrite, execBbiasCodeWrite, if_pos hc, writeBbias, if_neg (by simp [h])]
  rfl

/-! ### The taper (R352) -/

theorem taperEstimate_of_due (hc : c < 32) (amps filler : Nat) (h : (getCluster s c).nextEst ≤ timeOf s) :
    ∃ t, exec (.taperEstimate c amps filler) s = .next t ∧
      (getCluster t c).estimate = amps ∧ (getCluster t c).nextEst = 100 * (timeOf s / 100) + 100 ∧
      (∀ m, (getCluster s c).ramp = some m → (getCluster t c).ramp = some { m with
        cycles := m.cycles + (if amps < m.amps then filler else 0), seen := true, time := timeOf s,
        amps := m.amps - slopeOf (getCluster s c) * (timeOf s - m.time) }) ∧ t.memsys = s.memsys := by
  have hdue : ¬(32 ≤ c ∨ timeOf s < (getCluster s c).nextEst) := by omega
  refine ⟨_, (exec_taperEstimate c amps filler s).trans (congrArg Host.Outcome.next (if_neg hdue)), ?_⟩
  rw [getCluster_setCluster, if_pos rfl]
  refine ⟨rfl, rfl, fun m hm => ?_, rfl⟩
  rw [hm]
  rfl

theorem taperRampEnd_of_down {m : Ramp} (hr : (getCluster s c).ramp = some m) (hs : m.seen = true)
    (h : m.amps - slopeOf (getCluster s c) * (timeOf s - m.time) ≤ (getCluster s c).estimate) :
    exec (.taperRampEnd c) s = .next (endRamp c s) := by
  rw [exec_taperRampEnd, execTaperRampEnd, hr]
  exact congrArg Host.Outcome.next (if_pos ⟨hs, h⟩)

/-! ### Soft errors (R354) -/

theorem cget_addCell_same (m : Cells Nat) (k n : Nat) : cget 0 (addCell m k n) k = cget 0 m k + n := cget_cset_same ..

theorem eccCorrected_of_array (hc : c < 32) (hk : k < 9) : ∃ t, exec (.eccCorrected k c) s = .next t ∧
    cget 0 (getCluster t c).eccs k = cget 0 (getCluster s c).eccs k + 1 ∧
    cget 0 t.pkg.life.ecc (2 * k) = cget 0 s.pkg.life.ecc (2 * k) + 1 ∧ t.memsys = s.memsys := by
  refine ⟨_, (exec_eccCorrected k c s).trans (congrArg Host.Outcome.next (if_neg (by omega))), ?_,
    cget_addCell_same s.pkg.life.ecc (2 * k) 1, rfl⟩
  have hcluster : ∀ f (u : State), getCluster (updLife f u) c = getCluster u c := fun _ _ => rfl
  rw [hcluster, getCluster_setCluster, if_pos rfl]
  exact cget_addCell_same (getCluster s c).eccs k 1

/-- A block with the mark of a word, or with all of its marks, is poisoned at that word. -/
theorem blockMarked_or (m i : Nat) (b : Bool) (hi : i < 4) : blockMarked (m ||| if b then 2 ^ i else 31) i = true := by
  generalize hx : (m ||| if b then 2 ^ i else 31) = x
  have hbit : x.testBit i = true := by
    rw [← hx, Nat.testBit_or]
    cases b with
    | true => simp
    | false =>
      have hall : ∀ j < 4, Nat.testBit 31 j = true := by decide
      simp [hall i hi]
  unfold blockMarked
  split
  · have hlow : (x % 2 ^ 4).testBit i = true := by
      rw [Nat.testBit_mod_two_pow, hbit]
      simpa using hi
    have hne : x % 16 ≠ 0 := fun h => by
      rw [show (2 : Nat) ^ 4 = 16 from rfl, h, Nat.zero_testBit] at hlow
      cases hlow
    simpa using hne
  · exact hbit

/-- An uncorrectable error of a word in memory poisons it, and leaves the bytes. -/
theorem eccUncorrectable_memoryWord (w : Nat) (s : State) : ∃ t, exec (.eccUncorrectable (.memoryWord w)) s = .next t ∧
    wordPoisoned t w = true ∧ t.memsys.bytes = s.memsys.bytes := by
  refine ⟨_, exec_eccUncorrectable _ s, ?_, rfl⟩
  unfold eccAction poisonBlock wordPoisoned
  dsimp only
  rw [cget_cset_same]
  exact blockMarked_or _ _ _ (Nat.mod_lt _ (by decide))

/-! ### The obligation -/

/-- Settles O53: each clause is the lemma of its step. -/
theorem powerSteps : Obligations.PowerSteps := by
  intro s c hc
  refine ⟨fun k h => thermalTrip_of_running k h, fun n h => ?_, fun drop k rest hr hd => ?_,
    fun drop k rest hr hd => droopTrip_of_shallow hr hd, fun ht hh => ⟨_, gutterRestore_of_over ht hh, restored_tripped c s,
      restored_shift, restored_cycleOf c s, (restored_powerOnly c s).part, (restored_powerOnly c s).memsys⟩, fun n hs hn => ?_,
    fun slack h => biasReplan_of_due hc slack h, fun g hg hs _ _ => biasCodeStep_of_due hg hs,
    fun v h => bbiasCodeWrite_of_idle hc v h, fun amps filler h => taperEstimate_of_due hc amps filler h,
    fun m hr hs h => taperRampEnd_of_down hr hs h, fun k hk => eccCorrected_of_array hc hk,
    fun w => eccUncorrectable_memoryWord w s, fun hp h => ?_, fun w h => ?_, fun x hx h => ?_,
    fun hp h => lifetimeRecordWrite_of_due hp h, fun core seq hi hn ht => ?_, fun core seq x g h => emberRecord_of_tagged h x⟩
  · rw [exec_packagePowerOff, execPackagePowerOff, h]
    rfl
  · obtain ⟨hrails, htripped, hhold, hstorm, hshift, hcycle, hpart, hmem⟩ :=
      tripCluster_spec c k { s with rails := cset [] s.rails c rest }
    exact ⟨_, droopTrip_of_deep hc hr hd, hrails, htripped, hhold, hstorm, hshift, hcycle, hpart, hmem⟩
  · obtain ⟨m, hm, hmem⟩ := settleClock_of_due hs hn
    dsimp only
    rw [hm]
    exact ⟨rfl, getLsbD_bset_same _ (by decide), rfl, rfl, rfl, hmem⟩
  · rw [exec_backgroundScrub, execBackgroundScrub, if_pos ⟨hp, h⟩, show 12 * 3600 * 10 ^ 9 = 43200000000000 by norm_num]
  · rw [exec_powerEstimate, execPowerEstimate, if_pos h]
  · rw [exec_capExpiry, execCapExpiry, hx]
    exact congrArg Host.Outcome.next (if_pos h)
  · rw [exec_emberTag, execEmberTag]
    exact congrArg Host.Outcome.next (if_pos ⟨hi, hn, by rw [ht]; rfl⟩)

end Sys2Proof.Machine
end

section
/-! PROOFS of O8, O9 and O16, the results of scalar instructions, SLI and MKFF. Each meaning writes one register, in the form
that `scalarUnit_of_eq` and `maskUnit_of_eq` take; only a minimum and a maximum, which the model takes by a comparison, are
written otherwise in the statement. -/

set_option Elab.async false

namespace Sys2Proof.Machine

variable {i : Instr} {r : Run} {d a b : BitVec 7} {s : State}

/-! ### The smaller and the larger of two registers (R107) -/

theorem w64_toInt (x : W64) : w64 x.toInt = x := BitVec.ofInt_toInt

theorem ite_toInt_lt_eq_min (x y : W64) : (if x.toInt < y.toInt then x else y) = w64 (min x.toInt y.toInt) := by
  by_cases h : x.toInt < y.toInt
  · rw [if_pos h, Int.min_eq_left (Int.le_of_lt h), w64_toInt]
  · rw [if_neg h, Int.min_eq_right (Int.not_lt.1 h), w64_toInt]

theorem ite_toInt_lt_eq_max (x y : W64) : (if y.toInt < x.toInt then x else y) = w64 (max x.toInt y.toInt) := by
  by_cases h : y.toInt < x.toInt
  · rw [if_pos h, Int.max_eq_left (Int.le_of_lt h), w64_toInt]
  · rw [if_neg h, Int.max_eq_right (Int.not_lt.1 h), w64_toInt]

theorem ofNat_toNat_w64 (x : W64) : BitVec.ofNat 64 x.toNat = x := by rw [BitVec.ofNat_toNat, BitVec.setWidth_eq]

theorem ite_toNat_lt_eq_min (x y : W64) : (if x.toNat < y.toNat then x else y) = BitVec.ofNat 64 (min x.toNat y.toNat) := by
  by_cases h : x.toNat < y.toNat
  · rw [if_pos h, Nat.min_eq_left (Nat.le_of_lt h), ofNat_toNat_w64]
  · rw [if_neg h, Nat.min_eq_right (Nat.not_lt.1 h), ofNat_toNat_w64]

theorem ite_toNat_lt_eq_max (x y : W64) : (if y.toNat < x.toNat then x else y) = BitVec.ofNat 64 (max x.toNat y.toNat) := by
  by_cases h : y.toNat < x.toNat
  · rw [if_pos h, Nat.max_eq_left (Nat.le_of_lt h), ofNat_toNat_w64]
  · rw [if_neg h, Nat.max_eq_right (Nat.not_lt.1 h), ofNat_toNat_w64]

/-- A SALU unit whose result has been shown to be `g`. -/
theorem scalarUnit_of_salu {fn : Nat} {sat : Bool} {f g : W64 → W64 → W64} (h : ∀ s, exec i s = salu fn sat f r d a b s)
    (hg : ∀ x y, f x y = g x y) : ScalarUnit i (opSalu fn sat r d a b) d (fun s => g (sreg s a) (sreg s b)) :=
  scalarUnit_of_eq fun s => (h s).trans (by simp only [salu, hg]; rfl)

/-! ### The obligation on SALU and SALI -/

/-- Settles O8: each meaning writes the function stated; a minimum or maximum by its lemma above. -/
theorem scalarResults : Obligations.ScalarResults := by
  refine ⟨fun r d a b => ?salu, fun r d a k => ?sali⟩
  case salu =>
    exact ⟨scalarUnit_of_eq (exec_sadd r d a b), scalarUnit_of_eq (exec_ssub r d a b), scalarUnit_of_eq (exec_smul r d a b),
      scalarUnit_of_eq (exec_smulh r d a b), scalarUnit_of_eq (exec_sand r d a b), scalarUnit_of_eq (exec_sor r d a b),
      scalarUnit_of_eq (exec_sxor r d a b), scalarUnit_of_eq (exec_sshl r d a b), scalarUnit_of_eq (exec_sshr r d a b),
      scalarUnit_of_eq (exec_ssar r d a b),
      scalarUnit_of_salu (exec_smin r d a b) ite_toInt_lt_eq_min, scalarUnit_of_salu (exec_smax r d a b) ite_toInt_lt_eq_max,
      scalarUnit_of_salu (exec_sminn r d a b) ite_toNat_lt_eq_min, scalarUnit_of_salu (exec_smaxn r d a b) ite_toNat_lt_eq_max,
      scalarUnit_of_eq (exec_sslt r d a b), scalarUnit_of_eq (exec_ssltn r d a b)⟩
  case sali =>
    exact ⟨scalarUnit_of_eq (exec_saddi r d a k), scalarUnit_of_eq (exec_sandi r d a k), scalarUnit_of_eq (exec_sori r d a k),
      scalarUnit_of_eq (exec_sxori r d a k), scalarUnit_of_eq (exec_sshli r d a k), scalarUnit_of_eq (exec_sshri r d a k),
      scalarUnit_of_eq (exec_ssari r d a k), scalarUnit_of_eq (exec_sslti r d a k), scalarUnit_of_eq (exec_sclz r d a),
      scalarUnit_of_eq (exec_spopc r d a), scalarUnit_of_eq (exec_smov r d a), scalarUnit_of_eq (exec_sbfx r d a)⟩

/-! ### SLI (R110) -/

/-- A multiple of a power of two and a smaller number share no bit. -/
theorem mul_two_pow_or_of_lt {i y : Nat} (x : Nat) (h : y < 2 ^ i) : x * 2 ^ i ||| y = x * 2 ^ i + y := by
  rw [Nat.mul_comm, Nat.two_pow_add_eq_or_of_lt h]

/-- The word of SLI, field by field. -/
theorem wLI_eq_or (r : Run) (d : BitVec 7) (l : BitVec 2) (h : BitVec 16) :
    wLI r d l h = 0x30000000#32 ||| (r.stl.setWidth 32 <<< 25) ||| (d.setWidth 32 <<< 18) ||| (l.setWidth 32 <<< 16) |||
      h.setWidth 32 := by
  have hs := r.stl.isLt
  have hd := d.isLt
  have hl := l.isLt
  have hh := h.isLt
  have stl : 6 * 2 ^ 27 ||| r.stl.toNat * 2 ^ 25 = (24 + r.stl.toNat) * 2 ^ 25 := by
    rw [mul_two_pow_or_of_lt 6 (by omega)]; omega
  have reg : (24 + r.stl.toNat) * 2 ^ 25 ||| d.toNat * 2 ^ 18 = (3072 + 128 * r.stl.toNat + d.toNat) * 2 ^ 18 := by
    rw [mul_two_pow_or_of_lt _ (by omega)]; omega
  have slot : (3072 + 128 * r.stl.toNat + d.toNat) * 2 ^ 18 ||| l.toNat * 2 ^ 16 =
      (12288 + 512 * r.stl.toNat + 4 * d.toNat + l.toNat) * 2 ^ 16 := by
    rw [mul_two_pow_or_of_lt _ (by omega)]; omega
  have field {x k : Nat} (hx : x * 2 ^ k < 2 ^ 32) (hk : x < 2 ^ 32) : (x % 2 ^ 32) <<< k % 2 ^ 32 = x * 2 ^ k := by
    rw [Nat.mod_eq_of_lt hk, Nat.shiftLeft_eq, Nat.mod_eq_of_lt hx]
  refine BitVec.eq_of_toNat_eq ?_
  simp only [wLI, BitVec.toNat_ofNat, BitVec.toNat_or, BitVec.toNat_shiftLeft, BitVec.toNat_setWidth]
  rw [field (by omega) (by omega), field (by omega) (by omega), field (by omega) (by omega), Nat.mod_eq_of_lt (a := h.toNat) (by omega),
    show 805306368 % 2 ^ 32 = 6 * 2 ^ 27 from rfl, stl, reg, slot, mul_two_pow_or_of_lt _ hh]
  omega

theorem useOk_modS_of_le (h : 64 ≤ d.toNat) : useOk s (modS d) = false := decide_eq_false (Nat.not_lt.2 h)

/-- The destination of SLI is read as well, but for SLOT 0. -/
def sliUse (d : BitVec 7) (l : BitVec 2) : Use := if l = 0#2 then dstS d else modS d

theorem useOk_sliUse_of_le (h : 64 ≤ d.toNat) (l : BitVec 2) : useOk s (sliUse d l) = false := by
  unfold sliUse
  split
  · exact useOk_dstS_of_le h
  · exact useOk_modS_of_le h

/-- A register field out of its range: the unit enters the handler with cause 0x01, whatever its hints (R72, R161). -/
theorem trapped_of_badUse {o : Op} {u : Use} {f : State → State} (hx : exec i s = unit o f s) (hc : clear o.run s = true)
    (hh : handles s) (hu : u ∈ o.uses) (hb : useOk s u = false) : ∃ t, exec i s = .next t ∧
      Entered { cause := 0x01, lanes := s.part.exm, info := BitVec.ofNat 64 (o.word.toNat + 3 * 2 ^ 32), addr := 0#64 }
        (unitWords o.run) s t :=
  ⟨_, hx.trans (unit_of_reject hc (rejectOp_of_badUse hu hb) f), trap_entered hh⟩

theorem exec_sli_eq_unit (r : Run) (d : BitVec 7) (l : BitVec 2) (h : BitVec 16) (s : State) : exec (.sli r d l h) s =
    unit (Op.plain (wLI r d l h) r 2 [sliUse d l])
      (fun t => done r (wrS 2 d.toNat (sliOf (if l = 0#2 then 0#64 else sreg t d) l h) t)) s := rfl

/-- With SLOT 0 the immediate is the whole result. -/
theorem exec_sli_slot_zero (r : Run) (d : BitVec 7) (h : BitVec 16) (s : State) : exec (.sli r d 0#2 h) s =
    unit (Op.plain (wLI r d 0#2 h) r 2 [dstS d]) (fun t => done r (wrS 2 d.toNat (h.signExtend 64) t)) s := by
  simp only [exec_sli, execSli, sliOf, if_true]

/-- With another SLOT the immediate replaces 16 bits. -/
theorem exec_sli_slot_ne_zero {l : BitVec 2} (hl : l ≠ 0#2) (r : Run) (d : BitVec 7) (h : BitVec 16) (s : State) :
    exec (.sli r d l h) s = unit (Op.plain (wLI r d l h) r 2 [modS d])
      (fun t => done r (wrS 2 d.toNat (bset (sreg t d) (16 * l.toNat + 15) (16 * l.toNat) h.toNat) t)) s := by
  simp only [exec_sli, execSli, sliOf, if_neg hl]

/-- Settles O9: SLOT 0 and SLOT 1 to 3 are the two cases of `sliOf`; an illegal destination fails step 3. -/
theorem sliWritesItsSlot : Obligations.SliWritesItsSlot := by
  intro r d l h
  refine ⟨congrArg some (wLI_eq_or r d l h), scalarUnit_of_eq (exec_sli_slot_zero r d h),
    fun hl => scalarUnit_of_eq (exec_sli_slot_ne_zero hl r d h), fun hd s hc hh => ?_⟩
  exact (trapped_of_badUse (exec_sli_eq_unit r d l h s) hc hh List.mem_cons_self (useOk_sliUse_of_le hd l) :)

/-! ### MKFF (R117) -/

/-- The lowest lane of a mask is set, and no lower one is. -/
theorem lowLane_spec {m : W64} {l : Nat} (h : lowLane m = some l) :
    l < 64 ∧ m.getLsbD l = true ∧ ∀ k, k < l → m.getLsbD k = false := by
  obtain ⟨hset, hlt, hlow⟩ := List.find?_range_eq_some.1 h
  exact ⟨List.mem_range.1 hlt, hset, fun k hk => by simpa using hlow k hk⟩

/-- Settles O16: the write is that of `maskUnit_of_eq`, the lane marked is `lowLane`'s. -/
theorem mkffMarksTheLowestLane : Obligations.MkffMarksTheLowestLane := fun r d =>
  ⟨maskUnit_of_eq fun s _ => exec_mkff r d s, fun _ _ => lowLane_spec, rfl⟩

end Sys2Proof.Machine
end

section
/-! PROOFS of O20, O21 and O22: the system registers and the part table, the waits of SYS, and the entry of the handler. A unit
that is ready takes its own effect, so that what is left of each meaning is its tests. -/

set_option Elab.async false

namespace Sys2Proof.Machine

variable {r : Run} {d a b n : BitVec 7} {s : State}

/-! ### Privileged units (R23, R72) -/

/-- A unit that needs privilege traps with cause 0x02, with what it names as XINFO. -/
theorem unit_of_privileged {o : Op} {k : Nat} (hc : clear o.run s = true) (hr : rejectOp o s = none) (hp : o.priv = some k)
    (f : State → State) : unit o f s =
      .next (trap { cause := 0x02, lanes := s.part.exm, info := BitVec.ofNat 64 k, addr := 0#64 } o.run s) := by
  simp [unit, unitStep, boundary_of_clear hc, unitBody, hr, hp]

/-- A system register of 0x20 or above is privileged for MVFS and MVTS. -/
theorem unit_opMv_of_privileged {fn : Nat} {uses : List Use} (h : 0x20 ≤ sysNum r n) (hc : clear r s = true)
    (hr : rejectOp (opMv fn r d a n uses) s = none) (f : State → State) : unit (opMv fn r d a n uses) f s =
      .next (trap { cause := 0x02, lanes := s.part.exm, info := BitVec.ofNat 64 (sysNum r n), addr := 0#64 } r s) :=
  unit_of_privileged (o := opMv fn r d a n uses) hc hr (if_pos h) f

/-! ### Writes of system registers (R23) -/

/-- MVTS writes one system register at most: where the part stands, its stall rules and memory are as before. -/
theorem unitNext_sysWrite (k : Nat) (x : W64) : unitNext r (sysWrite k x s) = unitNext r s := by
  unfold sysWrite
  split <;> rfl

theorem done_sysWrite (k : Nat) (x : W64) :
    NoResult r 1 (unitNext r s) (sysWrite k x s) (done r (sysWrite k x s)) := by
  rw [done, unitNext_sysWrite]
  exact goto_noResult ..

/-! ### Single lanes (R126) -/

theorem landed_of_le {k : Nat} {ls : List Nat} (h : landOf s k ls ≤ now s) (f : State → State) : landed k ls f s = f s :=
  if_neg (Nat.not_lt.2 h)

theorem lanesOf_lt (m : W64) : ∀ l ∈ lanesOf m, l < 64 := fun _ hl => List.mem_range.1 (List.mem_filter.1 hl).1

/-! ### The obligation on system registers -/

/-- Settles O20: a result in a register is `wrS_done` or `wrV_done`; the guards of VRGET, VRSET, MVFS and MVTS pass. -/
theorem systemResults : Obligations.SystemResults := by
  refine ⟨fun r d a b => ⟨flowUnit_of_eq (exec_nop r), fun s hr => ?mvfs, fun s hr => ?mvts,
    scalarUnit_of_eq (exec_ptab r d a b), scalarUnit_of_eq (exec_time r d), fun s hr hl hp hland => ?vrget,
    fun s hr hl => ?vrgetOut, fun s hr hland => ?vrset⟩, fun r d n s hh hn => ⟨fun hc hr => ?mvfsPriv, fun hc hr => ?mvtsPriv⟩⟩
  case mvfs => exact ⟨_, exec_eq_of_ready (exec_mvfs ..) hr rfl, wrS_done ..⟩
  case mvts => exact ⟨_, exec_eq_of_ready (exec_mvts ..) hr rfl, done_sysWrite ..⟩
  case vrget => exact ⟨_, exec_eq_of_ready (exec_vrget ..) hr ((if_pos ⟨hl, hp⟩).trans (landed_of_le hland _)), wrS_done ..⟩
  case vrgetOut => exact exec_eq_of_ready (exec_vrget ..) hr (if_neg fun h => Nat.not_lt.2 hl h.1)
  case vrset => exact ⟨_, exec_eq_of_ready (exec_vrset ..) hr (landed_of_le hland _), wrV_done _ _ _ _ _ _ (lanesOf_lt _)⟩
  case mvfsPriv => exact ⟨_, (exec_mvfs ..).trans (unit_opMv_of_privileged hn hc hr _), trap_entered hh⟩
  case mvtsPriv => exact ⟨_, (exec_mvts ..).trans (unit_opMv_of_privileged hn hc hr _), trap_entered hh⟩

/-! ### Waits (R124, R125) -/

/-- The low half of a word, as WAITCY takes it. -/
theorem bfield_low_half (x : W64) : bfield x 31 0 = x.toNat % 2 ^ 32 := by simp [bfield]

/-! ### Store-fault records (R127) -/

/-- The oldest record leaves for the scratchpad where no barrier word lies. -/
theorem popRecord_of_cons {x : SfRecord} {rest : List SfRecord} {o : Nat} (hq : s.crew.sfq = x :: rest)
    (hb : touchesBar s.crew o 32 = false) : popRecord r d o s =
      done r (wrS 0 d.toNat (BitVec.ofNat 64 s.crew.sfq.length) { s with crew := scrWrite o x.bytes { s.crew with sfq := rest } }) := by
  simp only [popRecord, hq, hb, Bool.false_eq_true, if_false, List.length_cons]

theorem popRecord_of_nil {o : Nat} (hq : s.crew.sfq = []) : popRecord r d o s = done r (wrS 0 d.toNat 0#64 s) := by
  simp only [popRecord, hq]

/-- SFQ with an aligned address inside the reservation takes the oldest record. -/
theorem exec_sfq_of_ready (hr : ready (opSys 13 r d a 0#7 true [srcS a, dstS d]) s = true) (ha : (sreg s a).toNat % 32 = 0)
    (hin : (sreg s a).toNat + 32 ≤ s.crew.scr) : exec (.sfq r d a) s = .next (popRecord r d (sreg s a).toNat s) :=
  exec_eq_of_ready (exec_sfq ..) hr ((if_neg (not_not.2 ha)).trans (if_neg (Nat.not_lt.2 hin)))

/-! ### The obligation on waits -/

/-- Settles O21: the counts decide between falling through and waiting; SFQ's result is `wrS_done`. -/
theorem systemWaits : Obligations.SystemWaits := by
  refine ⟨fun r a b s => ⟨fun hr h0 => ?fall, fun hr h0 => ?wait, fun hr h0 => ?icinvFall, fun hr h0 => ?icinv⟩,
    fun r d a s hr ha hin => ⟨fun hq => ?none, fun x rest hq hb => ?some⟩⟩
  case fall =>
    exact ⟨_, exec_eq_of_ready (exec_waitcy ..) hr (if_pos ((bfield_low_half _).trans h0)), goto_noResult ..⟩
  case wait =>
    refine ⟨_, exec_eq_of_ready (exec_waitcy ..) hr (if_neg fun h => h0 ((bfield_low_half _).symm.trans h)), ?_⟩
    rw [bfield_low_half]
    exact ⟨rfl, rfl, rfl, rfl, rfl, rfl⟩
  case icinvFall => exact ⟨_, exec_eq_of_ready (exec_icinv ..) hr (if_pos h0), goto_noResult ..⟩
  case icinv => exact ⟨_, exec_eq_of_ready (exec_icinv ..) hr (if_neg h0), rfl, rfl, rfl, rfl, rfl, rfl⟩
  case none => exact ⟨_, (exec_sfq_of_ready hr ha hin).trans (congrArg _ (popRecord_of_nil hq)), wrS_done ..⟩
  case some => exact ⟨_, (exec_sfq_of_ready hr ha hin).trans (congrArg _ (popRecord_of_cons hq hb)), wrS_done ..⟩

/-! ### The obligation on handlers (R120, R154 to R161, R421) -/

/-- A cause of a part in its handler kills the crew, with the part's trap registers (R154, R164). -/
theorem trapAt_of_trapped {t : Trap} {ulen : Nat} (h : s.part.state = .trapped) :
    trapAt t ulen s = killHere t.cause t.info t.addr [] (some (trapRegs s.part)) s := if_pos h

/-- Settles O22: TRAP traps, BRK and STOP by the debugger's presence; a cause without a handler kills. -/
theorem trapsEnterTheHandler : Obligations.TrapsEnterTheHandler := by
  refine ⟨fun r n s => ⟨fun hr hh => ?trap, fun hr hh hd => ?brk, fun hr hh hd => ?stop, fun hr hd => ?brkStops,
    fun hr hd => ?stopStops⟩, fun t ulen s => ⟨trapAt_of_no_handler, trapAt_of_trapped⟩⟩
  case trap => exact ⟨_, exec_eq_of_ready (exec_trap ..) hr rfl, trap_entered hh⟩
  case brk => exact ⟨_, exec_eq_of_ready (exec_brk ..) hr (if_neg (by rw [hd]; decide)), trap_entered hh⟩
  case stop => exact ⟨_, exec_eq_of_ready (exec_stop ..) hr (if_neg (by rw [hd]; decide)), trap_entered hh⟩
  case brkStops => exact exec_eq_of_ready (exec_brk ..) hr (if_pos hd)
  case stopStops => exact exec_eq_of_ready (exec_stop ..) hr (if_pos hd)

end Sys2Proof.Machine
end

section
/-! PROOFS of O17: branches, and what BDIV pushes and splits. The quads that go to the next unit are some of the part's, so that
the two halves of a split share the part's quads out. -/

set_option Elab.async false

namespace Sys2Proof.Machine

variable {r : Run} {s : State}

/-! ### Branches (R105, R113) -/

/-- The sign bit of a word, as BNEG tests it. -/
theorem getLsbD_63_eq_neg (x : W64) : x.getLsbD 63 = decide (x.toInt < 0) :=
  (BitVec.msb_eq_getLsbD_last x).symm.trans BitVec.msb_eq_toInt

/-- CALL goes to its target and sets lk alone. -/
theorem call_result (r : Run) (o : BitVec 18) (x : W64) (s : State) : let t := branchTo r o true (wrS 0 62 x s)
    Moved r 2 (branchTarget r o s) s t ∧ SameRest s t ∧ VectorSame s t ∧ MaskSame s t ∧ ScalarSet 62 x s t := by
  obtain ⟨p, hp⟩ := wrS_eq 0 62 x s
  simp only [hp]
  refine ⟨⟨rfl, rfl, rfl, rfl⟩, ⟨rfl, fun _ => rfl⟩, rfl, rfl, fun n => ?_⟩
  show cget 0#64 (cset 0#64 s.part.s 62 x) n = _
  rw [cget_cset]
  by_cases hn : n = 62 <;> simp [hn]

/-! ### The quads of the two halves of a split (R53) -/

/-- The sum of the bits of a number below `k` that a test chooses. -/
def chosenBits (m : Nat) (f : Nat → Bool) (k : Nat) : Nat :=
  (List.range k).foldl (fun x q => if m.testBit q && f q then x + 2 ^ q else x) 0

theorem chosenBits_succ (m : Nat) (f : Nat → Bool) (k : Nat) :
    chosenBits m f (k + 1) = chosenBits m f k + if m.testBit k && f k then 2 ^ k else 0 := by
  rw [chosenBits, List.range_succ, List.foldl_append]
  by_cases h : (m.testBit k && f k) = true
  · rw [if_pos h]
    exact if_pos h
  · rw [if_neg h, Nat.add_zero]
    exact if_neg h

/-- The bits that a test chooses and those that it does not make up the number. -/
theorem chosenBits_add_not (m : Nat) (f : Nat → Bool) : ∀ k, chosenBits m f k + chosenBits m (fun q => !f q) k = m % 2 ^ k
  | 0 => (Nat.mod_one m).symm
  | k + 1 => by
    have ih := chosenBits_add_not m f k
    rw [chosenBits_succ, chosenBits_succ, Nat.mod_pow_succ]
    have hbit : m / 2 ^ k % 2 = if m.testBit k then 1 else 0 := by
      rw [Nat.testBit_eq_decide_div_mod_eq]
      rcases Nat.mod_two_eq_zero_or_one (m / 2 ^ k) with h | h <;> simp [h]
    rw [hbit]
    cases m.testBit k <;> cases f k <;> simp <;> omega

theorem chosenBits_eq_zero {m : Nat} {f : Nat → Bool} : ∀ {k}, (∀ q, q < k → m.testBit q = true → f q = false) →
    chosenBits m f k = 0
  | 0, _ => rfl
  | k + 1, h => by
    rw [chosenBits_succ, chosenBits_eq_zero fun q hq => h q (Nat.lt_succ_of_lt hq)]
    refine (Nat.zero_add _).trans (if_neg fun hb => ?_)
    obtain ⟨hm, hf⟩ := Bool.and_eq_true_iff.1 hb
    rw [h k (Nat.lt_succ_self k) hm] at hf
    cases hf

theorem chosenBits_pos {m q : Nat} {f : Nat → Bool} : ∀ {k}, q < k → m.testBit q = true → f q = true → 0 < chosenBits m f k
  | k + 1, hq, hm, hf => by
    rw [chosenBits_succ]
    rcases Nat.lt_succ_iff_lt_or_eq.1 hq with h | rfl
    · exact Nat.add_pos_left (chosenBits_pos h hm hf) _
    · rw [hm, hf]
      exact Nat.add_pos_right _ (Nat.two_pow_pos q)

/-- The quads of a part that go to the next unit at a split. -/
def fallQuads (s : State) (taken : W64) : Nat := chosenBits s.part.quads (goesFall s taken) 16

theorem fallQuads_le (s : State) (taken : W64) : fallQuads s taken ≤ s.part.quads :=
  (Nat.le_of_add_right_le (chosenBits_add_not ..).le).trans (Nat.mod_le _ (2 ^ 16))

/-- The half of a splitting part with the quads `q`, which goes on at `pc`. -/
def splitHalf (r : Run) (s : State) (q : Nat) (keeps : Bool) (pc : W64) : Part :=
  { pushEntry (unitNext r s) 0#64 (subPart (cancelTimers (goto r 2 (unitNext r s) s).part) q keeps) with
    pc := pc
    ready := now s + if keeps then max 2 (stallOf r + 1) else max 3 (stallOf r + 1) + (lastScalar s.part - now s) }

theorem splitHalf_stack_length (q : Nat) (keeps : Bool) (pc : W64) :
    (splitHalf r s q keeps pc).stack.length = s.part.stack.length + 1 :=
  congrArg (· + 1) (List.length_map (Entry.restrict (quadLanes q)))

/-- A BDIV that splits leaves the half of the lower quads in focus. -/
theorem divide_of_split {taken target : W64} (hlen : s.part.stack.length ≠ 16) (ht : taken ≠ 0#64)
    (hf : s.part.exm &&& ~~~ taken ≠ 0#64)
    (hs : (quadUniform s.part taken && !s.part.nosplit && s.part.state != .trapped && freeSet s) = true) :
    divide r taken target s =
      let fq := fallQuads s taken
      let tq := s.part.quads - fq
      if decide (lowBit tq ≤ lowBit fq) then
        splitInto (splitHalf r s tq true target) (splitHalf r s fq false (unitNext r s)) (goto r 2 (unitNext r s) s)
      else splitInto (splitHalf r s fq true (unitNext r s)) (splitHalf r s tq false target) (goto r 2 (unitNext r s) s) :=
  (if_neg hlen).trans ((if_neg (not_or.2 ⟨ht, hf⟩)).trans (if_pos hs))

/-- Two halves whose quads are the part's, as a split leaves them. -/
theorem splitInto_halves {x y : Nat} {pc₁ pc₂ : W64} (hq : x + y = s.part.quads) :
    let p := splitHalf r s x true pc₁
    let q := splitHalf r s y false pc₂
    let t := splitInto p q (goto r 2 (unitNext r s) s)
    t.part = p ∧ t.sibs = insertPart q s.sibs ∧ p.quads + q.quads = s.part.quads ∧ p.s = s.part.s ∧ q.s = s.part.s ∧
      t.wave = s.wave ∧ p.pc = pc₁ ∧ q.pc = pc₂ ∧ p.stack.length = s.part.stack.length + 1 ∧
      q.stack.length = s.part.stack.length + 1 ∧ ∀ a, rawByte t a = rawByte s a :=
  ⟨rfl, rfl, hq, rfl, rfl, rfl, rfl, rfl, splitHalf_stack_length .., splitHalf_stack_length .., fun _ => rfl⟩

/-! ### The obligation -/

/-- Settles O17: branches by `flowUnit_of_eq`; BDIV by the branches of `divide`, a split by the half that stays in focus. -/
theorem branchResults : Obligations.BranchResults := by
  refine ⟨fun r n o => ⟨flowUnit_of_eq (exec_b r o), flowUnit_of_eq (exec_bz r n o), flowUnit_of_eq (exec_bnz r n o),
    flowUnit_of_eq fun s => ?bneg, flowUnit_of_eq (exec_bany r n o), flowUnit_of_eq (exec_ball r n o), fun s hr => ?call⟩,
    fun r n o s hr => ?bdiv⟩
  case bneg => simp only [exec_bneg, execBneg, getLsbD_63_eq_neg]; rfl
  case call => exact ⟨_, exec_eq_of_ready (exec_call ..) hr rfl, call_result ..⟩
  case bdiv =>
    have hx {t : State} := exec_eq_of_ready (t := t) (exec_bdiv r n o s) hr
    refine ⟨fun hfull => hx (if_pos hfull), fun hlen hf ht => ⟨_, hx ((if_neg hlen).trans (if_pos (.inr hf))), ?taken⟩,
      fun hlen ht => ⟨_, hx ((if_neg hlen).trans (if_pos (.inl ht))), ?fall⟩, fun hlen ht hf hs => ?masked,
      fun hlen ht hf hs => ?split⟩
    case taken => rw [if_neg ht]; exact goto_noResult ..
    case fall => rw [if_pos ht]; exact goto_noResult ..
    case masked =>
      exact ⟨_, hx ((if_neg hlen).trans ((if_neg (not_or.2 ⟨ht, hf⟩)).trans (if_neg (by rw [hs]; decide)))), rfl,
        goto_noResult ..⟩
    case split =>
      have hle := fallQuads_le s (s.part.exm &&& rdM s n.toNat)
      have hd := divide_of_split (r := r) (target := branchTarget r o s) hlen ht hf hs
      dsimp only at hd
      split at hd
      next =>
        obtain ⟨h1, h2, h3, h4, h5, h6, h7, h8, h9⟩ := splitInto_halves (r := r) (s := s) (pc₁ := branchTarget r o s)
          (pc₂ := unitNext r s) (Nat.sub_add_cancel hle)
        exact ⟨_, _, _, hx hd, h1, h2, h3, h4, h5, h6, .inl ⟨h7, h8⟩, h9⟩
      next =>
        obtain ⟨h1, h2, h3, h4, h5, h6, h7, h8, h9⟩ := splitInto_halves (r := r) (s := s) (pc₁ := unitNext r s)
          (pc₂ := branchTarget r o s) (Nat.add_sub_cancel' hle)
        exact ⟨_, _, _, hx hd, h1, h2, h3, h4, h5, h6, .inr ⟨h7, h8⟩, h9⟩

end Sys2Proof.Machine
end

section
/-! PROOFS of O19: part control. An EXIT takes the quads whose lanes have all exited, and the rule of R48 takes one step in each
of the cases stated. -/

set_option Elab.async false

namespace Sys2Proof.Machine

variable {r : Run} {s : State} {a d e : BitVec 7}

/-! ### Jumps (R59, R114) -/

theorem jumpTo_of_aligned {x : W64} (h : x &&& 3#64 = 0#64) : jumpTo r x s = goto r 2 x s := if_neg (not_not.2 h)

theorem jumpTo_of_misaligned {x : W64} (h : x &&& 3#64 ≠ 0#64) : jumpTo r x s = misaligned 4 x r s := if_pos h

theorem toNat_beq_one (f : BitVec 7) : (f.toNat == 1) = (f == 1#7) :=
  Bool.eq_iff_iff.2 (by rw [beq_iff_eq, beq_iff_eq]; exact (BitVec.toNat_inj (y := 1#7)))

/-! ### The extension of the vector registers (R16) -/

/-- Clearing registers leaves the lanes of every other register. -/
theorem vraw_clearRegs (w : Wave) (lo hi c n l : Nat) (hl : l < 64) :
    vraw { w with vcur := c, v := clearRegs lo hi w.v } n l = if lo ≤ n ∧ n < hi then 0#32 else vraw w n l := by
  have hkey : (64 * lo ≤ 64 * n + l ∧ 64 * n + l < 64 * hi) ↔ (lo ≤ n ∧ n < hi) := by omega
  refine (cget_filter_key 0#32 (fun k => !decide (64 * lo ≤ k ∧ k < 64 * hi)) w.v (64 * n + l)).trans ?_
  by_cases h : lo ≤ n ∧ n < hi
  · rw [if_pos h, decide_eq_true (hkey.2 h)]; rfl
  · rw [if_neg h, decide_eq_false (mt hkey.1 h)]; rfl

/-- VXOPEN that its wave's groups cover waits for room in every bank. -/
theorem exec_vxopen_of_covered (hr : ready (opCtl 6 r e 0#7 (vxopenOk e s) []) s = true)
    (hc : covered s (widthOf s.wave.code) s.part.quads s.part.quads = true) :
    exec (.vxopen r e) s = .next (if bankRoom s (8 * e.toNat - s.wave.vbase) then
      done r { s with wave := { s.wave with
        vcur := 8 * e.toNat, v := clearRegs s.wave.vbase (8 * e.toNat) s.wave.v } } else hold s) :=
  exec_eq_of_ready (exec_vxopen ..) hr (waveWide_of_covered hc)

theorem exec_vxclose_of_covered (hr : ready (opCtl 7 r 0#7 0#7 true []) s = true)
    (hc : covered s (widthOf s.wave.code) s.part.quads s.part.quads = true) :
    exec (.vxclose r) s = .next (done r { s with wave := { s.wave with
      vcur := s.wave.vbase, v := clearRegs s.wave.vbase s.wave.vcur s.wave.v } }) :=
  exec_eq_of_ready (exec_vxclose ..) hr (waveWide_of_covered hc)

/-! ### The quads that leave a part (R36, R48) -/

/-- Whether every lane of a quad has exited. -/
def quadGone (ex : W64) (q : Nat) : Bool := (quadLanes (2 ^ q) &&& ex) == quadLanes (2 ^ q)

theorem quadLanes_getLsbD (m l : Nat) (hl : l < 64) : (quadLanes m).getLsbD l = m.testBit (l / 4) := maskOf_getLsbD _ l hl

/-- A quad of which a lane is left stays. -/
theorem quadGone_of_lane_left {ex : W64} {l : Nat} (hl : l < 64) (h : ex.getLsbD l = false) : quadGone ex (l / 4) = false := by
  refine beq_eq_false_iff_ne.2 fun heq => ?_
  have hbit := congrArg (fun x : W64 => x.getLsbD l) heq
  simp [quadLanes_getLsbD _ _ hl, h] at hbit

/-- Where no live lane of a part is left, each of its quads goes. -/
theorem quadGone_of_none_left {ex : W64} {m q : Nat} (h : quadLanes m &&& ~~~ ex = 0#64) (hq : m.testBit q = true) :
    quadGone ex q = true := by
  refine beq_iff_eq.2 (BitVec.eq_of_getLsbD_eq fun l hl => ?_)
  have hbit := congrArg (fun x : W64 => x.getLsbD l) h
  simp only [BitVec.getLsbD_and, BitVec.getLsbD_not, quadLanes_getLsbD _ _ hl, hl, decide_true, Bool.true_and,
    BitVec.getLsbD_zero] at hbit
  rw [BitVec.getLsbD_and, quadLanes_getLsbD _ _ hl, Nat.testBit_two_pow]
  by_cases hql : q = l / 4
  · subst hql
    rw [hq, Bool.true_and, Bool.not_eq_false'] at hbit
    simp [hbit]
  · simp [hql]

/-- A mask that is not zero has a bit. -/
theorem exists_lane_of_ne_zero {m : W64} (h : m ≠ 0#64) : ∃ l, l < 64 ∧ m.getLsbD l = true := by
  by_contra hn
  refine h (BitVec.eq_of_getLsbD_eq fun l hl => ?_)
  rw [BitVec.getLsbD_zero]
  exact Bool.eq_false_iff.2 fun hb => hn ⟨l, hl, hb⟩

/-- The quads that a part keeps when the lanes of `ex` have exited. -/
def quadsLeft (m : Nat) (ex : W64) : Nat :=
  ((List.range 16).filter (fun q => m.testBit q && quadGone ex q)).foldl (fun m q => m - 2 ^ q) m

theorem foldl_sub_chosen (m y : Nat) (f : Nat → Bool) : ∀ k,
    ((List.range k).filter (fun q => m.testBit q && f q)).foldl (fun x q => x - 2 ^ q) y = y - chosenBits m f k
  | 0 => rfl
  | k + 1 => by
    rw [List.range_succ, List.filter_append, List.foldl_append, foldl_sub_chosen m y f k, chosenBits_succ]
    by_cases h : (m.testBit k && f k) = true
    · simp [h, Nat.sub_sub]
    · simp [h]

theorem quadsLeft_eq (m : Nat) (ex : W64) : quadsLeft m ex = m - chosenBits m (quadGone ex) 16 := foldl_sub_chosen ..

theorem quadsLeft_eq_zero {m : Nat} {ex : W64} (hm : m < 2 ^ 16) (h : quadLanes m &&& ~~~ ex = 0#64) : quadsLeft m ex = 0 := by
  have hnone : chosenBits m (fun q => !quadGone ex q) 16 = 0 :=
    chosenBits_eq_zero fun q _ hq => by rw [quadGone_of_none_left h hq]; rfl
  have hsum := chosenBits_add_not m (quadGone ex) 16
  rw [quadsLeft_eq]
  omega

theorem quadsLeft_ne_zero {m : Nat} {ex : W64} (h : quadLanes m &&& ~~~ ex ≠ 0#64) : quadsLeft m ex ≠ 0 := by
  obtain ⟨l, hl, hbit⟩ := exists_lane_of_ne_zero h
  simp only [BitVec.getLsbD_and, BitVec.getLsbD_not, quadLanes_getLsbD _ _ hl, hl, decide_true, Bool.true_and,
    Bool.and_eq_true, Bool.not_eq_true'] at hbit
  have hpos : 0 < chosenBits m (fun q => !quadGone ex q) 16 :=
    chosenBits_pos (by omega) hbit.1 (by rw [quadGone_of_lane_left hl hbit.2]; rfl)
  have hsum := chosenBits_add_not m (quadGone ex) 16
  have hmod := Nat.mod_le m (2 ^ 16)
  rw [quadsLeft_eq]
  omega

/-! ### The exit of lanes (R36, R48) -/

/-- A part whose lanes `ls` have exited, before the rule of R48. -/
def exitedPart (ls ex : W64) (p : Part) : Part :=
  { p with exm := p.exm &&& ~~~ ls, stack := p.stack.map (Entry.restrict (~~~ ls)), quads := quadsLeft p.quads ex }

/-- An exit changes the part, the exited lanes of its wave and the barrier words of its crew. -/
theorem exitLanes_frame (ls : W64) (s : State) :
    (exitLanes ls s).wave.exited = s.wave.exited ||| ls ∧ (exitLanes ls s).memsys = s.memsys ∧
      (exitLanes ls s).sibs = s.sibs := by
  unfold exitLanes
  dsimp only
  split <;> exact ⟨rfl, rfl, rfl⟩

theorem exitLanes_part (ls : W64) (s : State) : (exitLanes ls s).part =
    if quadsLeft s.part.quads (s.wave.exited ||| ls) = 0 then Part.none
    else exitRule (now s) (wctlOf s) 40 (exitedPart ls (s.wave.exited ||| ls) s.part) :=
  apply_ite State.part _ _ _

/-- A part that no lane and no entry is left to waits. -/
theorem exitRule_of_empty {c n : Nat} {wctl : W64} {p : Part} (hx : p.exm = 0#64) (hs : p.stack = []) :
    exitRule c wctl (n + 1) p = { p with wait := .idle, exiting := false } := by
  simp [exitRule, hx, hs]

/-- A part that no lane is left to goes on with the lanes of its top entry. -/
theorem exitRule_of_top {c n : Nat} {wctl : W64} {p : Part} {e : Entry} {rest : List Entry} (hx : p.exm = 0#64)
    (hs : p.stack = e :: rest) (hd : e.d = false) (hl : e.lanes ≠ 0#64) :
    (exitRule c wctl (n + 2) p).pc = e.rpc ∧ (exitRule c wctl (n + 2) p).exm = e.lanes := by
  simp [exitRule, hx, hs, hd, hl]

/-! ### EXIT (R115) -/

/-- Without rays no lane has an invocation to commit. -/
theorem commitLanes_of_no_ray (f : Nat → Ray → State → State) (m : W64) (h : s.rays = []) : commitLanes f m s = s :=
  foldl_same _ _ _ fun l _ => by simp [laneRay, h]

section
variable (hr : ready (opCtl 3 r 0#7 0#7 true []) s = true) (hs : ownStores s = [])
include hr hs

theorem exec_exit_of_inactive (hx : s.part.exm = 0#64) : exec (.exit r) s = .next (done r s) :=
  exec_eq_of_ready (exec_exit ..) hr ((drainBy_of_accepted hr hs _ _).trans (if_pos hx))

theorem exec_exit_of_active (hx : s.part.exm ≠ 0#64) (hray : s.rays = []) :
    exec (.exit r) s = .next (exitLanes s.part.exm (done r s)) :=
  exec_eq_of_ready (exec_exit ..) hr ((drainBy_of_accepted hr hs _ _).trans
    ((if_neg hx).trans (by rw [commitLanes_of_no_ray _ _ hray])))

end

theorem exitedPart_exm (ex : W64) (p : Part) : (exitedPart p.exm ex p).exm = 0#64 := by simp [exitedPart]

theorem exitLanes_done_part_of_left {ls : W64} (h : quadLanes s.part.quads &&& ~~~ (s.wave.exited ||| ls) ≠ 0#64) :
    (exitLanes ls (done r s)).part =
      exitRule (now s) (wctlOf s) 40 (exitedPart ls (s.wave.exited ||| ls) (done r s).part) :=
  (exitLanes_part ..).trans (if_neg (quadsLeft_ne_zero h))

/-! ### The obligation -/

/-- Settles O19: an EXIT drains nothing and commits nothing, so that `exitLanes_part` gives its part in every case. -/
theorem controlResults : Obligations.ControlResults := by
  refine ⟨fun r d a => ⟨fun s hr => ?splitctl, scalarUnit_of_eq (exec_exmget r d), fun s hr => ?exmset,
      fun s hr => ⟨fun h => ?ret, fun h => ?retBad⟩, fun s hr => ⟨fun h => ?jr, fun h => ?jrBad⟩, fun s hr => ?yield⟩,
    fun r e s hc => ⟨fun hr => ⟨fun hroom => ?opened, fun hroom => ?openHeld⟩, fun hr => ?close⟩,
    fun r s hr hs hray => ⟨fun hx => ?inactive, fun hx => ?exits, fun hx hnone hq => ?gone, fun hx hleft hst => ?idle,
      fun e rest hx hst hd hl hleft => ?top⟩⟩
  case splitctl =>
    refine ⟨_, exec_eq_of_ready (exec_splitctl ..) hr rfl, ?_⟩
    rw [toNat_beq_one]
    exact goto_noResult ..
  case exmset => exact ⟨_, exec_eq_of_ready (exec_exmset ..) hr rfl, goto_noResult ..⟩
  case ret => exact ⟨_, exec_eq_of_ready (exec_ret ..) hr (jumpTo_of_aligned h), goto_noResult ..⟩
  case retBad => exact exec_eq_of_ready (exec_ret ..) hr (jumpTo_of_misaligned h)
  case jr => exact ⟨_, exec_eq_of_ready (exec_jr ..) hr (jumpTo_of_aligned h), goto_noResult ..⟩
  case jrBad => exact exec_eq_of_ready (exec_jr ..) hr (jumpTo_of_misaligned h)
  case yield =>
    exact ⟨_, exec_eq_of_ready (exec_yield ..) hr rfl, rfl, ⟨rfl, rfl, rfl, rfl⟩, ⟨rfl, fun _ => rfl⟩, rfl, rfl, rfl⟩
  case opened =>
    exact ⟨_, (exec_vxopen_of_covered hr hc).trans (congrArg _ (if_pos hroom)), rfl, rfl,
      fun n l hl => vraw_clearRegs _ _ _ _ n l hl, ⟨rfl, rfl, rfl, rfl⟩, rfl, rfl, rfl⟩
  case openHeld => exact (exec_vxopen_of_covered hr hc).trans (congrArg _ (if_neg (by rw [hroom]; decide)))
  case close =>
    exact ⟨_, exec_vxclose_of_covered hr hc, rfl,
      fun n l hl hn => (vraw_clearRegs _ _ _ _ n l hl).trans (if_neg fun h => Nat.not_lt.2 h.1 hn), ⟨rfl, rfl, rfl, rfl⟩, rfl,
      rfl, rfl⟩
  case inactive => exact ⟨_, exec_exit_of_inactive hr hs hx, goto_noResult ..⟩
  case exits =>
    obtain ⟨hex, hmem, -⟩ := exitLanes_frame s.part.exm (done r s)
    exact ⟨_, exec_exit_of_active hr hs hx hray, hex, hmem⟩
  case gone =>
    obtain ⟨-, -, hsib⟩ := exitLanes_frame s.part.exm (done r s)
    have hp : (exitLanes s.part.exm (done r s)).part = Part.none :=
      (exitLanes_part ..).trans (if_pos (quadsLeft_eq_zero hq hnone))
    exact ⟨_, exec_exit_of_active hr hs hx hray, congrArg Part.quads hp, hsib⟩
  case idle =>
    obtain ⟨-, -, hsib⟩ := exitLanes_frame s.part.exm (done r s)
    have hexm := exitedPart_exm (s.wave.exited ||| s.part.exm) (done r s).part
    have hp := (exitLanes_done_part_of_left (r := r) hleft).trans
      (exitRule_of_empty hexm (congrArg (List.map (Entry.restrict (~~~ s.part.exm))) hst))
    exact ⟨_, exec_exit_of_active hr hs hx hray, congrArg Part.wait hp, (congrArg Part.exm hp).trans hexm, hsib⟩
  case top =>
    obtain ⟨-, -, hsib⟩ := exitLanes_frame s.part.exm (done r s)
    have hp := exitLanes_done_part_of_left (r := r) hleft
    obtain ⟨hpc, hexm⟩ := exitRule_of_top (c := now s) (n := 38) (wctl := wctlOf s)
      (exitedPart_exm (s.wave.exited ||| s.part.exm) (done r s).part)
      (congrArg (List.map (Entry.restrict (~~~ s.part.exm))) hst) hd hl
    exact ⟨_, exec_exit_of_active hr hs hx hray, (congrArg Part.pc hp).trans hpc, (congrArg Part.exm hp).trans hexm, hsib⟩

end Sys2Proof.Machine
end

section
/-! PROOFS of O25. The last clause of the statement fails: a prefetch overtakes what its core holds of its line (R332), and an atomic
of that line that is on its way is then marked stale, so that the network holds it in another form than before. -/

set_option Elab.async false

namespace Sys2Proof.Machine

/-- A prefetch with CACHE 2, from the address that s[0] holds. -/
def prefetchRun : Run := { hints := [{ kind := 2#3, payload := 0x800#24 }], stl := 0#2 }

/-- The read of an atomic at L1 (R206) of the first line of vault 0, on its way from core 0. -/
def flyingAtomic : Access :=
  { id := 0, core := 0, crew := 1, wave := 0, part := 0, ctx := 0, line := 2 ^ 38, off := 0, key := 0, tso := false,
    trk := some 15, vault := true, op := .read 0, use := .atom 0 4 0 0#64 0#64, sent := 0, pc := 0#64, quads := 0,
    port := 16, who := [], stale := false, ans := none, back := false }

/-- The module with a part that may issue, that names this line by its vault window in s[0], and may use it. -/
def prefetchState : State :=
  let s := State.reset.withFetchWord 32 0
  { s with
    part := { s.part with s := [(0, 0xFC00000000000000#64)] }
    ctxs := [(0, some { placedCtx with allot := [(0, 1)] })]
    net := [flyingAtomic] }

/-- The prefetch issues. -/
theorem prefetchState_ready : ready (opPref prefetchRun 0#7 0#7) prefetchState = true := by decide +kernel

theorem prefetchRun_cache : modField prefetchRun 11 10 = 2 := by decide

/-- It marks the atomic stale. -/
theorem pref_marks_atomic : ∃ t, exec (.pref prefetchRun 0#7 0#7) prefetchState = .next t ∧
    ({ flyingAtomic with stale := true } : Access) ∈ t.net :=
  ⟨_, exec_eq_of_ready (exec_pref ..) prefetchState_ready rfl, by decide +kernel⟩

/-- Refutes O25: after a prefetch with CACHE 2, an atomic of its line that was on its way is one that the network did not hold
before, and no load. -/
theorem not_loadsIssue : ¬ Obligations.LoadsIssue := by
  rintro ⟨-, hpref⟩
  obtain ⟨t, he, -, -, -, hnet⟩ := hpref prefetchRun 0#7 0#7 prefetchState prefetchState_ready
  obtain ⟨u, hu, hmem⟩ := pref_marks_atomic
  rw [he] at hu
  cases hu
  rcases hnet prefetchRun_cache _ hmem with h | h
  · exact absurd h (by decide)
  · cases h

end Sys2Proof.Machine
end

section
/-! PROOFS of O23: the units of a handler. The return from a handler and the replay of copies leave the part's registers; a dump
halts the parts that `haltsNow` names, and its HALT entries name them. -/

set_option Elab.async false

namespace Sys2Proof.Machine

variable {r : Run} {s u : State} {d a b : BitVec 7}

/-! ### XRET (R121, R165) -/

/-- A replay takes lines at their homes and changes the copies of its crew alone (R237). -/
theorem replayCopies_frame (s : State) : let t := replayCopies s
    t.part = s.part ∧ t.wave = s.wave ∧ t.sibs = s.sibs ∧ t.crew.dump = s.crew.dump ∧ t.memsys.bytes = s.memsys.bytes := by
  refine foldl_keeps (P := fun t => t.part = s.part ∧ t.wave = s.wave ∧ t.sibs = s.sibs ∧ t.crew.dump = s.crew.dump ∧
    t.memsys.bytes = s.memsys.bytes) ?_ _ s ⟨rfl, rfl, rfl, rfl, rfl⟩
  rintro t c ⟨hpart, hwave, hsibs, hdump, hbytes⟩
  split
  · obtain ⟨hown, hkept⟩ := ownLines_frame c t
    refine ⟨Eq.trans ?_ hpart, Eq.trans ?_ hwave, Eq.trans ?_ hsibs, Eq.trans ?_ hdump, hkept.trans hbytes⟩ <;>
      (rw [replayCopy, hown])
  · exact ⟨hpart, hwave, hsibs, hdump, hbytes⟩

/-- What the return of a part that has dumped does to the parts that its dump halted, and to its squashed copies. -/
def resumedBy (n : Nat) (u : State) : State :=
  match u.crew.dump with
  | some x => if x.wave = u.wave.widx ∧ u.part.quads.testBit x.part = true then
      replayCopies { mapParts (fun w p => resumePart n w p) u with crew := { u.crew with dump := none } }
    else u
  | none => u

theorem resumedBy_of_none {n : Nat} (h : u.crew.dump = none) : resumedBy n u = u := by simp only [resumedBy, h]

theorem resumedBy_of_own {n : Nat} {x : Dump} (h : u.crew.dump = some x) (hw : x.wave = u.wave.widx)
    (hp : u.part.quads.testBit x.part = true) : resumedBy n u =
      replayCopies { mapParts (fun w p => resumePart n w p) u with crew := { u.crew with dump := none } } := by
  simp only [resumedBy, h]
  exact if_pos ⟨hw, hp⟩

/-- A part that is not halted keeps its state. -/
theorem resumePart_of_not_halted {n : Nat} {w : Wave} {p : Part} (h : p.state ≠ .halted) : resumePart n w p = p := if_pos h

/-- The part that returns, its wave and every byte of memory are as they are without the dump. -/
theorem resumedBy_frame (n : Nat) (h : u.part.state ≠ .halted) :
    (resumedBy n u).part = u.part ∧ (resumedBy n u).wave = u.wave ∧ (resumedBy n u).memsys.bytes = u.memsys.bytes := by
  unfold resumedBy
  split
  · split
    · obtain ⟨hpart, hwave, -, -, hbytes⟩ :=
        replayCopies_frame { mapParts (fun w p => resumePart n w p) u with crew := { u.crew with dump := none } }
      exact ⟨hpart.trans (resumePart_of_not_halted h), hwave, hbytes⟩
    · exact ⟨rfl, rfl, rfl⟩
  · exact ⟨rfl, rfl, rfl⟩

/-- The dump has ended, and the other parts of the wave go back to their saved states. -/
theorem resumedBy_own_effect {n : Nat} {x : Dump} (h : u.crew.dump = some x) (hw : x.wave = u.wave.widx)
    (hp : u.part.quads.testBit x.part = true) :
    (resumedBy n u).crew.dump = none ∧ (resumedBy n u).sibs = u.sibs.map (resumePart n u.wave) := by
  rw [resumedBy_of_own h hw hp]
  obtain ⟨-, -, hsibs, hdump, -⟩ :=
    replayCopies_frame { mapParts (fun w p => resumePart n w p) u with crew := { u.crew with dump := none } }
  exact ⟨hdump, hsibs⟩

/-- The state that an XRET leaves. -/
def xretEnd (r : Run) (s : State) : State :=
  let v := resumedBy (now s) (returnFromTrap s)
  { v with part := { v.part with ready := now s + max 3 (stallOf r + 1) } }

/-- What it leaves of the part and of memory, whatever the part's dump. -/
theorem xretEnd_frame (r : Run) (s : State) :
    (xretEnd r s).part = { (returnFromTrap s).part with ready := now s + max 3 (stallOf r + 1) } ∧
      (xretEnd r s).wave = s.wave ∧ (xretEnd r s).memsys.bytes = s.memsys.bytes := by
  obtain ⟨hpart, hwave, hbytes⟩ := resumedBy_frame (u := returnFromTrap s) (now s) (by decide : PartState.run ≠ .halted)
  exact ⟨congrArg (fun p : Part => { p with ready := now s + max 3 (stallOf r + 1) }) hpart, hwave, hbytes⟩

/-- Without a dump nothing else has changed. -/
theorem xretEnd_of_none (h : s.crew.dump = none) :
    (xretEnd r s).sibs = s.sibs ∧ (xretEnd r s).waves = s.waves ∧ (xretEnd r s).memsys = s.memsys := by
  have hv : resumedBy (now s) (returnFromTrap s) = returnFromTrap s := resumedBy_of_none h
  exact ⟨(congrArg State.sibs hv :), (congrArg State.waves hv :), (congrArg State.memsys hv :)⟩

theorem exec_xret_of_trapped (hr : ready (opSys 3 r 0#7 0#7 0#7 true []) s = true) (ht : s.part.state = .trapped) :
    exec (.xret r) s = .next (xretEnd r s) := by
  have hready : ready (opSys 3 r 0#7 0#7 0#7 (s.part.state == .trapped) []) s = true := by rw [ht]; exact hr
  exact exec_eq_of_ready (exec_xret ..) hready rfl

/-! ### Units outside a handler (log 44) -/

/-- A SYS unit whose limits are broken fails step 3 of R72. -/
theorem unit_opSys_of_lims {fn : Nat} {lims : Bool} {uses : List Use} (hc : clear r s = true) (hl : lims = false)
    (f : State → State) : unit (opSys fn r d a b lims uses) f s =
      .next (trap (rejectTrap { cause := 0x01, step := 3, word := wRRR 0 r d a b fn } s) r s) :=
  unit_of_reject (o := opSys fn r d a b lims uses) hc (by subst hl; rfl) f

theorem beq_trapped_of_run (h : s.part.state = .run) : (s.part.state == .trapped) = false := by rw [h]; rfl

/-! ### DUMPC (R129, R424) -/

theorem exec_dumpc_of_trapped (hr : ready (opSys 15 r d a b true [srcS a, srcS b, dstS d]) s = true)
    (ht : s.part.state = .trapped) (ha : (sreg s a).toNat % 256 = 0) (hd : dumping s = false) :
    exec (.dumpc r d a b) s = .next (startDump r d (sreg s a) (sreg s b) s) := by
  have hready : ready (opSys 15 r d a b (s.part.state == .trapped) [srcS a, srcS b, dstS d]) s = true := by rw [ht]; exact hr
  have halign : bfield (sreg s a) 7 0 = 0 := by simpa [bfield] using ha
  exact exec_eq_of_ready (exec_dumpc ..) hready ((if_neg (by rw [hd]; decide)).trans (if_neg (not_not.2 halign)))

theorem bfield_low_quarter (x : W64) : bfield x 15 0 = x.toNat % 2 ^ 16 := by simp [bfield]

/-! ### The broadcast of a dump (R424, R426) -/

/-- The broadcast is due in a cycle after that of its DUMPC. -/
theorem haltOthers_mem_lateCrew {x : Dump} {c : Crew} {n : Nat} (hd : c.dump = some x) (hp : x.phase = 0) (hn : x.start < n)
    (hany : c.waves.any (fun w => w.parts.any (haltsNow x w)) = true) :
    (fun t => .next (haltOthers x (focusCrew t c.cid)) : Event) ∈ lateCrew s n c := by
  simp only [lateCrew, hd]
  exact List.mem_append_left _ (List.mem_append_left _ (List.mem_append_right _
    (by rw [if_pos ⟨hp, hn, hany⟩]; exact List.mem_singleton.2 rfl)))

theorem haltsNow_iff (x : Dump) (w : Wave) (p : Part) :
    haltsNow x w p = true ↔ p.quads ≠ 0 ∧ p.state ≠ .halted ∧ p.wait ≠ .icinv ∧ p.wait ≠ .inside ∧
      ¬ (w.widx = x.wave ∧ p.quads.testBit x.part = true) := by
  simp only [haltsNow, Bool.and_eq_true, bne_iff_ne, Bool.not_eq_true', Bool.and_eq_false_iff, beq_eq_false_iff_ne, ne_eq,
    not_and_or, Bool.not_eq_true]
  tauto

/-- What the broadcast makes of a part. -/
def haltedBy (x : Dump) (w : Wave) (p : Part) : Part := if haltsNow x w p then haltPart p else p

/-- What the broadcast makes of a wave beside the one in focus. -/
def haltedWave (x : Dump) (w : Wave) : Wave := { w with parts := w.parts.map (haltedBy x w) }

/-- A part at an instruction boundary is halted, in its place and with the state that it was in. -/
theorem haltedBy_of_haltsNow {x : Dump} {w : Wave} {p : Part} (h : haltsNow x w p = true) (hw : p.wait ≠ .dump) :
    (haltedBy x w p).state = .halted ∧ (haltedBy x w p).before = p.state ∧ (haltedBy x w p).pc = p.pc ∧
      (haltedBy x w p).quads = p.quads := by
  obtain ⟨hq, hs, -, -, -⟩ := (haltsNow_iff x w p).1 h
  have hp : haltPart p = _ := if_neg (not_or.2 ⟨hq, not_or.2 ⟨hs, hw⟩⟩)
  rw [haltedBy, if_pos h, hp]
  exact ⟨rfl, rfl, rfl, rfl⟩

theorem mem_insertWave {w v : Wave} : ∀ {l : List Wave}, v ∈ insertWave w l ↔ v = w ∨ v ∈ l
  | [] => by simp [insertWave]
  | x :: t => by
    unfold insertWave
    split
    · exact List.mem_cons
    · rw [List.mem_cons, mem_insertWave (l := t), List.mem_cons]
      exact or_left_comm

theorem mem_allWaves {w : Wave} (h : w ∈ s.waves) : w ∈ allWaves s := by
  unfold allWaves
  split
  · exact h
  · exact mem_insertWave.2 (.inr h)

/-- The broadcast records every part that it halts. -/
theorem haltOthers_halts {x : Dump} {w : Wave} {p : Part} (hw : w ∈ s.waves) (hp : p ∈ w.parts) (h : haltsNow x w p = true) :
    ∃ y, (haltOthers x s).crew.dump = some y ∧ (w.widx, lowBit p.quads, p.state.code, p.pc, now s - x.start) ∈ y.halts := by
  obtain ⟨-, hs, -⟩ := (haltsNow_iff x w p).1 h
  have hentry : haltEntry (now s - x.start) w p = (w.widx, lowBit p.quads, p.state.code, p.pc, now s - x.start) := by
    simp [haltEntry, hs]
  exact ⟨_, rfl, List.mem_append_right _ (List.mem_flatMap.2 ⟨w, mem_allWaves hw,
    hentry ▸ List.mem_map_of_mem (List.mem_filter.2 ⟨hp, h⟩)⟩)⟩

/-! ### The obligation -/

/-- Settles O23: XRET by `resumedBy`, the units outside a handler by `unit_opSys_of_lims`, the broadcast by `haltedBy`. -/
theorem handlerUnits : Obligations.HandlerUnits := by
  refine ⟨fun r s => ⟨fun hr ht => ?xret, fun hc hrun => ?xretRun⟩, fun r d a b s => ⟨fun hr => ?killc,
    fun hr ht ha hd => ?dumpc, fun hc hrun => ?dumpcRun, fun x c n hd hp hn hany => ?broadcast, haltsNow_iff,
    fun x => ⟨fun p hp h hw => ?sibs, fun w hw p hp h hd => ⟨?waves, haltOthers_halts hw hp h⟩⟩⟩⟩
  case xret =>
    obtain ⟨hpart, hwave, hbytes⟩ := xretEnd_frame r s
    refine ⟨_, exec_xret_of_trapped hr ht, ?_⟩
    rw [hpart]
    exact ⟨rfl, rfl, rfl, rfl, rfl, hwave, rfl, rfl, hbytes, xretEnd_of_none,
      fun x hx hw hq => resumedBy_own_effect (u := returnFromTrap s) hx hw hq⟩
  case xretRun => exact (exec_xret ..).trans (unit_opSys_of_lims hc (beq_trapped_of_run hrun) _)
  case killc => exact exec_eq_of_ready (exec_killc ..) hr (by rw [bfield_low_quarter])
  case dumpc =>
    exact ⟨_, _, exec_dumpc_of_trapped hr ht ha hd, rfl, rfl, rfl, rfl, rfl, rfl, rfl, rfl, rfl, rfl, rfl, rfl, rfl, rfl⟩
  case dumpcRun => exact (exec_dumpc ..).trans (unit_opSys_of_lims hc (beq_trapped_of_run hrun) _)
  case broadcast => exact ⟨_, haltOthers_mem_lateCrew hd hp hn hany, fun _ => rfl⟩
  case sibs => exact ⟨_, List.mem_map_of_mem (f := haltedBy x s.wave) hp, haltedBy_of_haltsNow h hw⟩
  case waves =>
    exact ⟨haltedWave x w, List.mem_map_of_mem (f := haltedWave x) hw, rfl, _, List.mem_map_of_mem (f := haltedBy x w) hp,
      haltedBy_of_haltsNow h hd⟩

end Sys2Proof.Machine
end

section
/-! PROOFS of O26: stores. `LanesSent` is what the lanes of a store change, kept by each step of a lane, so that a store that finds
room leaves the rest of the state alone. -/

set_option Elab.async false

namespace Sys2Proof.Machine

variable {i : Instr} {o : Op} {r : Run} {d a b : BitVec 7} {s t u : State} {m : Form} {addrs : List (Nat × W64)}
  {accs : List LaneAcc} {qs : List Ready} {q : Ready} {bs : List Byte} {data : Nat → List Byte} {direct first vault : Bool}
  {core cid trk key line pa dreg lsz : Nat}

/-! ### What the lanes of a store change (R182, R187) -/

/-- All that has changed are trackers, cores, accesses under way, what the fabric sends, ids and the free counter. -/
def LanesSent (s t : State) : Prop :=
  t = { s with crew := { s.crew with trk := t.crew.trk }, crews := t.crews, cores := t.cores, net := t.net, ids := t.ids,
               fabric := t.fabric, free := t.free }

theorem LanesSent.refl (s : State) : LanesSent s s := rfl

theorem LanesSent.trans (h : LanesSent s t) (k : LanesSent t u) : LanesSent s u := by
  unfold LanesSent at *; rw [k, h]

theorem LanesSent.update (h : LanesSent s t) (cores : Cells Core) (net : List Access) (ids free : Nat) :
    LanesSent s { t with cores := cores, net := net, ids := ids, free := free } := by
  unfold LanesSent at *; rw [h]

theorem bumpOut_sent (cid k : Nat) (f : Nat → Nat) (s : State) : LanesSent s (bumpOut cid k f s) := by
  unfold bumpOut updCrew
  split <;> rfl

theorem sendFlit_sent (p : Nat) (bs : List Byte) (s : State) : LanesSent s (sendFlit p bs s) := by
  unfold sendFlit
  split <;> rfl

theorem depart_sent (a : Access) (s : State) : LanesSent s (depart a s) :=
  ((LanesSent.refl s).update s.cores (s.net ++ [_]) (s.ids + 1) s.free).trans (sendFlit_sent ..)

theorem readied_sent (a : Access) (s : State) : LanesSent s (readied a s) := by
  unfold readied
  cases a.trk with
  | none => exact (LanesSent.refl s).update s.cores _ s.ids s.free
  | some k => exact (bumpOut_sent a.crew k (· + 1) s).update _ _ _ _

theorem send_sent (a : Access) (s : State) : LanesSent s (send a s) := (readied_sent a s).trans (send_eq a s ▸ depart_sent ..)

theorem setL1_sent (s : State) (core line : Nat) (y : L1Line) : LanesSent s (setL1 s core line y) := rfl

theorem writeDown_sent (core line : Nat) (s : State) : LanesSent s (writeDown core line s) := by
  unfold writeDown; dsimp only
  split
  · exact .refl s
  · exact (setL1_sent ..).trans (send_sent ..)

theorem tryDown_sent : Holds (LanesSent s) (tryDown core line s) := .ite (.some (writeDown_sent ..)) .none

theorem makeRoom_sent : Holds (LanesSent s) (makeRoom core line s) :=
  have hfree : LanesSent s { s with free := s.free + 1 } := rfl
  .ite (.some (.refl s)) (.ite (.ite .none (.some hfree))
    (.ite (.some (hfree.trans ((writeDown_sent ..).trans (setL1_sent ..)))) (.some hfree)))

theorem putDirty_sent : Holds (LanesSent s) (putDirty core cid trk key vault first pa bs s) := by
  intro t ht
  obtain ⟨x, u, hx, hu, rfl⟩ := putDirty_eq_some ht
  have hxu : LanesSent x u := by
    rcases hu with rfl | rfl
    · exact writeDown_sent ..
    · exact .refl _
  exact ((makeRoom_sent x hx).trans hxu).trans (setL1_sent ..)

theorem sendWrite_sent : Holds (LanesSent s) (sendWrite q bs s) :=
  .bind tryDown_sent fun {t} ht => by
    refine .ite (.some (LanesSent.trans ?_ (send_sent ..))) .none
    split
    · exact ht.trans (setL1_sent ..)
    · exact ht

theorem storeLane_sent : Holds (LanesSent s) (storeLane direct first q bs s) := .ite sendWrite_sent putDirty_sent

theorem storeMem_sent (direct first : Bool) (data : Nat → List Byte) (qs : List Ready) :
    ∀ s : State, Holds (LanesSent s) (storeMem direct first data qs s) := by
  induction qs with
  | nil => exact fun s => .some (.refl s)
  | cons q qs ih => exact fun s => .bind storeLane_sent fun h u hu => h.trans (ih _ u hu)

/-! ### The crew behind a store (R184) -/

/-- The writes of a store's lanes to the scratchpad. -/
def scratchStored (data : Nat → List Byte) (accs : List LaneAcc) (c : Crew) : Crew :=
  scrWrites Prod.snd (fun x => data x.1) (scratchOf accs) c

theorem scratchStored_eq (data : Nat → List Byte) (accs : List LaneAcc) (c : Crew) :
    scratchStored data accs c = { c with scratch := (scratchStored data accs c).scratch } :=
  foldl_keeps (P := fun x : Crew => x = { c with scratch := x.scratch }) (f := fun (x : Crew) (y : Nat × Nat) => scrWrite y.2 (data y.1) x)
    (fun x _ h => by rw [h]; rfl) _ c rfl

theorem storeLanes_sent (h : storeLanes direct first data accs qs s = some u) :
    LanesSent { s with crew := scratchStored data accs s.crew } u := storeMem_sent direct first data qs _ u h

/-- The crew of a store that has been performed: its scratchpad and its trackers have changed. -/
theorem storeLanes_crew (h : storeLanes direct first data accs qs s = some u) :
    u.crew = { s.crew with scratch := (scratchStored data accs s.crew).scratch, trk := u.crew.trk } := by
  have hcrew : u.crew = { scratchStored data accs s.crew with trk := u.crew.trk } := congrArg State.crew (storeLanes_sent h)
  rw [scratchStored_eq] at hcrew
  exact hcrew

/-- A store that has been performed, with another crew record: what else of the state has changed. -/
theorem storeLanes_with_crew (h : storeLanes direct first data accs qs s = some u) (n : Nat) (c : Crew) :
    { u with ids := n, crew := c } = { s with
      ids := n, crew := c, crews := u.crews, cores := u.cores, net := u.net, fabric := u.fabric, free := u.free } := by
  have hu : u = _ := storeLanes_sent h
  rw [hu]

/-- A unit that leaves with another record of its crew, on the same core, has changed no register and no memory. -/
theorem done_memoryQuiet_of_crew {c : Crew} (hc : c.core = s.crew.core) (crews : List Crew) (cores : Cells Core)
    (net : List Access) (fabric : Fabric) (ids free : Nat) : MemoryQuiet r s (done r { s with
      ids := ids, crew := c, crews := crews, cores := cores, net := net, fabric := fabric, free := free }) := by
  have hnow : now { s with ids := ids, crew := c, crews := crews, cores := cores, net := net, fabric := fabric, free := free } =
      now s := congrArg (fun k => cycleOf s (clusterOf k)) hc
  exact ⟨⟨rfl, congrArg (· + max 1 (stallOf r + 1)) hnow, rfl, rfl⟩, rfl, rfl, rfl, rfl, rfl, rfl, rfl, rfl, fun _ => rfl⟩

/-! ### The end of a store (R195) -/

/-- The record of a store that has been performed, as it waits for its acceptance. -/
def storeRecord (s u : State) (dreg lsz : Nat) (scalar : Bool) : PStore :=
  { id := u.ids, wave := s.wave.widx, part := lowBit s.part.quads, accs := sentStores s.ids u, fault := none, addr := 0#64,
    lanes := 0#64, pc := s.part.pc, dreg := dreg, sst := scalar, lsz := lsz, at_ := s.part.issued }

/-- The crew with that record. -/
def storeCrew (s u : State) (dreg lsz : Nat) (scalar : Bool) : Crew :=
  { u.crew with stores := u.crew.stores ++ [storeRecord s u dreg lsz scalar] }

/-- The state that such a store leaves. -/
def storeEnd (r : Run) (s u : State) (dreg lsz : Nat) (scalar : Bool) : State :=
  done r { u with ids := u.ids + 1, crew := storeCrew s u dreg lsz scalar }

theorem storeEnd_issued (h : storeLanes direct first data (accsOf m addrs s) (readyOf m r (accsOf m addrs s) s) s = some u) :
    StoreIssued r direct first data dreg m addrs s (storeEnd r s u dreg lsz m.scalar) := by
  have hcrew := storeLanes_crew h
  have hcore : (storeCrew s u dreg lsz m.scalar).core = s.crew.core := (congrArg Crew.core hcrew :)
  have hstores : u.crew.stores = s.crew.stores := by rw [hcrew]
  have hscratch : u.crew.scratch = (scratchStored data (accsOf m addrs s) s.crew).scratch := by rw [hcrew]
  have hrest := storeLanes_with_crew h (u.ids + 1) (storeCrew s u dreg lsz m.scalar)
  refine ⟨?quiet, ?loads, ⟨u, h, rfl, rfl, storeRecord s u dreg lsz m.scalar, ?stores, rfl, rfl, rfl, rfl⟩, hscratch⟩
  case quiet => rw [storeEnd, hrest]; exact done_memoryQuiet_of_crew hcore ..
  case loads => rw [storeEnd, hrest]; rfl
  case stores => exact congrArg (· ++ [storeRecord s u dreg lsz m.scalar]) hstores

section
variable {cache : Nat} (hs : storeClear m addrs s = true) (hg : accessGranted m addrs s = true)
include hs hg

/-- A store without REL that meets no barrier word and whose lanes are granted is performed where its lanes find room. -/
theorem issueStore_of_room (hne : addrs ≠ [])
    (h : storeLanes (cache == 2) (cache == 1) data (accsOf m addrs s) (readyOf m r (accsOf m addrs s) s) s = some u) :
    issueStore r cache dreg lsz false data (accsOf m addrs s) m s = storeEnd r s u dreg lsz m.scalar := by
  rw [storeClear, Bool.not_eq_true'] at hs
  have hbad : failing m (accsOf m addrs s) s = [] := List.isEmpty_iff.1 hg
  have haccs : accsOf m addrs s ≠ [] := fun h => hne (List.map_eq_nil_iff.1 h)
  simp only [issueStore, hs, hbad, h, Bool.false_or, Bool.false_eq_true, if_false, if_neg haccs]
  rfl

/-- Without room it waits. -/
theorem issueStore_of_no_room
    (h : storeLanes (cache == 2) (cache == 1) data (accsOf m addrs s) (readyOf m r (accsOf m addrs s) s) s = none) :
    issueStore r cache dreg lsz false data (accsOf m addrs s) m s = hold s := by
  rw [storeClear, Bool.not_eq_true'] at hs
  have hbad : failing m (accsOf m addrs s) s = [] := List.isEmpty_iff.1 hg
  simp only [issueStore, hs, hbad, h, Bool.false_or, Bool.false_eq_true, if_false]

end

/-- How a store ends whose checks pass and whose lanes are granted. -/
def StorePerforms (i : Instr) (r : Run) (data : Nat → List Byte) (dreg : Nat) (m : Form) (addrs : List (Nat × W64)) (s : State) :
    Prop :=
  (storeRoom r (modField r 11 10 == 2) (modField r 11 10 == 1) data m addrs s = true →
    ∃ t, exec i s = .next t ∧ StoreIssued r (modField r 11 10 == 2) (modField r 11 10 == 1) data dreg m addrs s t) ∧
  (storeRoom r (modField r 11 10 == 2) (modField r 11 10 == 1) data m addrs s = false → exec i s = .next (hold s))

theorem storePerforms_of_issues
    (hx : exec i s = .next (issueStore r (modField r 11 10) dreg lsz false data (accsOf m addrs s) m s))
    (hs : storeClear m addrs s = true) (hg : accessGranted m addrs s = true) (hne : addrs ≠ []) :
    StorePerforms i r data dreg m addrs s := by
  refine ⟨fun hroom => ?_, fun hroom => ?_⟩
  · obtain ⟨u, hu⟩ := Option.isSome_iff_exists.1 hroom
    exact ⟨_, hx.trans (congrArg _ (issueStore_of_room hs hg hne hu)), storeEnd_issued hu⟩
  · exact hx.trans (congrArg _ (issueStore_of_no_room hs hg (Option.isNone_iff_eq_none.1 (Option.isSome_eq_false_iff.1 hroom))))

/-! ### Stores by their meanings (R111, R194) -/

theorem rel_eq_false (h : modField r 19 19 = 0) : (modField r 19 19 == 1) = false := by rw [h]; rfl

/-- A scalar store whose checks pass issues. -/
theorem smemStore_performs {fn n scale : Nat} (hx : exec i s = smemStore fn n scale r d a b s) (hrel : modField r 19 19 = 0)
    (hr : ready (opSmem fn true r d a b) s = true)
    (hc : accessClear { size := n, scalar := true, rd := false, wr := true } [(scalarLane s, addrS r a b scale s)] s = true)
    (hg : accessGranted { size := n, scalar := true, rd := false, wr := true } [(scalarLane s, addrS r a b scale s)] s = true)
    (hs : storeClear { size := n, scalar := true, rd := false, wr := true } [(scalarLane s, addrS r a b scale s)] s = true) :
    StorePerforms i r (fun _ => leBytes n (sreg s d).toNat) d.toNat { size := n, scalar := true, rd := false, wr := true }
      [(scalarLane s, addrS r a b scale s)] s := by
  refine storePerforms_of_issues (lsz := Nat.log2 n) ?_ hs hg (List.cons_ne_nil _ _)
  have hunit := hx.trans (unit_of_ready hr _)
  rw [checked_of_clear hc] at hunit
  simpa only [rel_eq_false hrel, Bool.false_eq_true, if_false] using hunit

/-- A part with active lanes has addresses. -/
theorem laneAddrs_ne_nil {scale : Nat} (h : s.part.exm ≠ 0#64) : laneAddrs r a b scale s ≠ [] := by
  obtain ⟨l, hl, hbit⟩ := exists_lane_of_ne_zero h
  have hmem : l ∈ activeLanes s := List.mem_filter.2 ⟨List.mem_range.2 hl, hbit⟩
  exact fun hnil => List.ne_nil_of_mem hmem (List.map_eq_nil_iff.1 hnil)

/-- A vector store with active lanes whose checks pass issues. -/
theorem vmemStore_performs {fn n : Nat} (hx : exec i s = vmemStore fn n r d a b s) (hrel : modField r 19 19 = 0)
    (hr : ready (opVst fn n r d a b) s = true) (hexm : s.part.exm ≠ 0#64)
    (hc : accessClear { size := n, scalar := false, rd := false, wr := true } (laneAddrs r a b (Nat.log2 n) s) s = true)
    (hg : accessGranted { size := n, scalar := false, rd := false, wr := true } (laneAddrs r a b (Nat.log2 n) s) s = true)
    (hs : storeClear { size := n, scalar := false, rd := false, wr := true } (laneAddrs r a b (Nat.log2 n) s) s = true) :
    StorePerforms i r (laneBytes s d.toNat n) d.toNat { size := n, scalar := false, rd := false, wr := true }
      (laneAddrs r a b (Nat.log2 n) s) s := by
  refine storePerforms_of_issues (lsz := Nat.log2 n) ?_ hs hg (laneAddrs_ne_nil hexm)
  have hunit := hx.trans ((unit_of_ready hr _).trans (congrArg _ (if_neg hexm)))
  rw [checked_of_clear hc] at hunit
  simpa only [rel_eq_false hrel, Bool.false_eq_true, if_false] using hunit

/-- A vector store without active lanes does nothing. -/
theorem vmemStore_inactive {fn n : Nat} (hx : exec i s = vmemStore fn n r d a b s) (hr : ready (opVst fn n r d a b) s = true)
    (hexm : s.part.exm = 0#64) : ∃ t, exec i s = .next t ∧ NoResult r 1 (unitNext r s) s t :=
  ⟨_, hx.trans ((unit_of_ready hr _).trans (congrArg _ (if_pos hexm))), goto_noResult ..⟩

/-! ### The obligation -/

/-- Settles O26: each scalar store by `smemStore_performs`, each vector store by `vmemStore_performs`. -/
theorem storesIssue : Obligations.StoresIssue := fun r d a b s hrel =>
  ⟨smemStore_performs (exec_sst64 r d a b s) hrel, smemStore_performs (exec_sst32 r d a b s) hrel,
    fun hr => ⟨vmemStore_inactive (exec_stB r d a b s) hr, vmemStore_performs (exec_stB r d a b s) hrel hr⟩,
    fun hr => ⟨vmemStore_inactive (exec_stH r d a b s) hr, vmemStore_performs (exec_stH r d a b s) hrel hr⟩,
    fun hr => ⟨vmemStore_inactive (exec_stW r d a b s) hr, vmemStore_performs (exec_stW r d a b s) hrel hr⟩,
    fun hr => ⟨vmemStore_inactive (exec_stD r d a b s) hr, vmemStore_performs (exec_stD r d a b s) hrel hr⟩,
    fun hr => ⟨vmemStore_inactive (exec_stQ r d a b s) hr, vmemStore_performs (exec_stQ r d a b s) hrel hr⟩⟩

end Sys2Proof.Machine
end
